-- ==== Sys2Proof/Word.lean ====
section
/-! DEFINITION. The word types of the GN9 and the plainest arithmetic on them (R1, R45, R50, R61, R88). -/

namespace Sys2Proof

/-- A 64-bit register value (R61). -/
abbrev Word := BitVec 64

/-- One byte of memory. -/
abbrev Byte := BitVec 8

/-- One 32-bit instruction word (R45, R50). -/
abbrev IWord := BitVec 32

/-- A 6-bit register number x0 to x63 or v0 to v63, as a word encodes it (R51, R52). -/
abbrev RegNo := BitVec 6

/-- MIN of R88. -/
abbrev wMin : Word := 0x8000000000000000#64

/-- ONES of R88. -/
abbrev wOnes : Word := 0xFFFFFFFFFFFFFFFF#64

end Sys2Proof
end

