-- ==== Sys2Proof/Syntax.lean ====
section
/-! DEFINITION. The steps of the GN9 as syntax: one constructor of Instr for each row of the opcode table
(226 words of a packet and 75 events), and the small types their operands use. -/

namespace Sys2Proof

/-- The three contexts of a core (R61). -/
inductive CtxId where
  | L | C | S
  deriving DecidableEq, Repr, Inhabited

/-- The eight engine classes 0x8 to 0xF (R9). -/
inductive Cls where
  | vector | matrix | copy | atomic | prism | stash | line | sched
  deriving DecidableEq, Repr, Inhabited

/-- A neighbour in the ring L, C, S (R70). -/
inductive Side where
  | left | right
  deriving DecidableEq, Repr, Inhabited

/-- The ten scopes of R21, codes 0 to 9 in this order. -/
inductive Scope where
  | ctx | core | gang | cluster | die | part | pkg | ring | domain | host
  deriving DecidableEq, Repr, Inhabited

/-- The orders of an engine word: rlx, acq, rel and ar, codes 0 to 3 (R151, R297). -/
inductive Order where
  | rlx | acq | rel | ar
  deriving DecidableEq, Repr, Inhabited

/-- The template stores that TPL.LD loads: matrix, copy, Prism (R58, R132). -/
inductive TplEng where
  | mx | cp | xe
  deriving DecidableEq, Repr, Inhabited

/-- The special registers, numbers 0 to 20 in this order (R59). -/
inductive Csr where
  | pc | lc0 | li0 | sk0 | lc1 | li1 | bsc | lwb | cwb | tvb | tcause | tval | tpc | vtype | vwin
  | gid | tid | sid | tag | grp | tsc
  deriving DecidableEq, Repr, Inhabited

/-- The two rings that key 6 places in host memory (R418). -/
inductive RingSel where
  | machineCheck | notice
  deriving DecidableEq, Repr, Inhabited

/-- What an admission to an arrival queue waits in (R368): a POST, by its command, or a LAUNCH, by its function. -/
inductive Arrival where
  | post (cmd : Nat)
  | launch (fn : Nat)
  deriving DecidableEq, Repr, Inhabited

/-- What a home refuses (R153, R183): an access or command of this module, by number, or an access of another device to a
partition of this one, by its partition, ASID and IPA. -/
inductive Refused where
  | own (acc : Nat)
  | other (part asid ipa : Nat) (write : Bool)
  deriving DecidableEq, Repr, Inhabited

/-- A tensor-channel record on its way (R319, R320). cmd is the command that sent it, 0 if another device did. -/
structure ChanRecord where
  ident : Nat
  src : Nat
  schan : Nat
  dst : Nat
  rchan : Nat
  off : Nat
  rsz : Nat
  tag : Nat
  kind : Nat
  data : List Byte
  cmd : Nat
  prism : Nat
  sent : Nat
  deriving DecidableEq, Repr, Inhabited

/-- A window end on its way to the sender (R320, R322). -/
structure WindowEnd where
  ident : Nat
  src : Nat
  rchan : Nat
  dst : Nat
  schan : Nat
  wend : Nat
  cmd : Nat
  prism : Nat
  sent : Nat
  deriving DecidableEq, Repr, Inhabited

/-- A sender's close notice (R322). -/
structure CloseNotice where
  ident : Nat
  src : Nat
  schan : Nat
  dst : Nat
  rchan : Nat
  final : Nat
  prism : Nat
  sent : Nat
  deriving DecidableEq, Repr, Inhabited

/-- A receive channel's close, on its way to the sender (R322). -/
structure ReceiverClose where
  ident : Nat
  src : Nat
  rchan : Nat
  dst : Nat
  schan : Nat
  prism : Nat
  sent : Nat
  deriving DecidableEq, Repr, Inhabited

/-- An XA2A count row (R323), with the barrier of its member (log entry 20) and the index of the peer that it is sent to. -/
structure CountRow where
  ident : Nat
  src : Nat
  dst : Nat
  gtag : Nat
  seq : Nat
  npeer : Nat
  me : Nat
  gerr : Bool
  counts : List Nat
  ld : Nat
  lf : Nat
  core : Nat
  bar : Nat
  peer : Nat
  prism : Nat
  sent : Nat
  deriving DecidableEq, Repr, Inhabited

/-- One member's XA2A piece for a receiver (R323, R324). fail says that the piece faulted after it was counted in part. -/
structure Piece where
  ident : Nat
  src : Nat
  dst : Nat
  gtag : Nat
  seq : Nat
  me : Nat
  core : Nat
  off : Nat
  bar : Nat
  data : List Byte
  fail : Bool
  cmd : Nat
  prism : Nat
  sent : Nat
  deriving DecidableEq, Repr, Inhabited

/-- A ring header: the operation that a member has issued (R325). -/
structure RingHeader where
  member : Nat
  scatter : Bool
  n : Nat
  etype : Nat
  deriving DecidableEq, Repr, Inhabited

/-- A ring message from one position to the next: a header or a chunk with the count of members it holds (R325). -/
structure RingMsg where
  ident : Nat
  dst : Nat
  gtag : Nat
  seq : Nat
  header : Option RingHeader
  chunk : Nat
  hops : Nat
  data : List (BitVec 32)
  deriving DecidableEq, Repr, Inhabited

/-- NXFER traffic from a partner device: lines children before parents, each with its kind and the name the
sender gave it, and the root (R364). -/
structure MirrorMsg where
  ident : Nat
  src : Nat
  lines : List (Bool × List Byte × Nat)
  root : Nat
  link : Bool
  deriving DecidableEq, Repr, Inhabited

/-- What bring-up finds in the module: the units that pass their test, the trained links, whether the units of R26
work (R412, R416). -/
structure BringUp where
  cores : BitVec 512
  slices : BitVec 128
  hbm : BitVec 128
  links : BitVec 16
  single : Bool
  deriving DecidableEq, Repr, Inhabited

/-- The steps of the GN9: every row of the opcode table. -/
inductive Instr where
  /-- ADD (R92). -/
  | add (xd : RegNo) (xa : RegNo) (xb : RegNo) (fa : Bool) (fb : Bool)
  /-- SUB (R92). -/
  | sub (xd : RegNo) (xa : RegNo) (xb : RegNo) (fa : Bool) (fb : Bool)
  /-- MUL (R92). -/
  | mul (xd : RegNo) (xa : RegNo) (xb : RegNo) (fa : Bool) (fb : Bool)
  /-- MULH (R92). -/
  | mulh (xd : RegNo) (xa : RegNo) (xb : RegNo) (fa : Bool) (fb : Bool)
  /-- MULHN (R92). -/
  | mulhn (xd : RegNo) (xa : RegNo) (xb : RegNo) (fa : Bool) (fb : Bool)
  /-- DIV (R93). -/
  | div (xd : RegNo) (xa : RegNo) (xb : RegNo) (fa : Bool) (fb : Bool)
  /-- DIVN (R93). -/
  | divn (xd : RegNo) (xa : RegNo) (xb : RegNo) (fa : Bool) (fb : Bool)
  /-- REM (R93). -/
  | rem (xd : RegNo) (xa : RegNo) (xb : RegNo) (fa : Bool) (fb : Bool)
  /-- REMN (R93). -/
  | remn (xd : RegNo) (xa : RegNo) (xb : RegNo) (fa : Bool) (fb : Bool)
  /-- AND (R94). -/
  | and (xd : RegNo) (xa : RegNo) (xb : RegNo) (fa : Bool) (fb : Bool)
  /-- OR (R94). -/
  | or (xd : RegNo) (xa : RegNo) (xb : RegNo) (fa : Bool) (fb : Bool)
  /-- XOR (R94). -/
  | xor (xd : RegNo) (xa : RegNo) (xb : RegNo) (fa : Bool) (fb : Bool)
  /-- ANDN (R94). -/
  | andn (xd : RegNo) (xa : RegNo) (xb : RegNo) (fa : Bool) (fb : Bool)
  /-- ORN (R94). -/
  | orn (xd : RegNo) (xa : RegNo) (xb : RegNo) (fa : Bool) (fb : Bool)
  /-- SHL (R95). -/
  | shl (xd : RegNo) (xa : RegNo) (xb : RegNo) (fa : Bool) (fb : Bool)
  /-- SHR (R95). -/
  | shr (xd : RegNo) (xa : RegNo) (xb : RegNo) (fa : Bool) (fb : Bool)
  /-- SRA (R95). -/
  | sra (xd : RegNo) (xa : RegNo) (xb : RegNo) (fa : Bool) (fb : Bool)
  /-- ROL (R95). -/
  | rol (xd : RegNo) (xa : RegNo) (xb : RegNo) (fa : Bool) (fb : Bool)
  /-- ROR (R95). -/
  | ror (xd : RegNo) (xa : RegNo) (xb : RegNo) (fa : Bool) (fb : Bool)
  /-- MIN (R96). -/
  | min (xd : RegNo) (xa : RegNo) (xb : RegNo) (fa : Bool) (fb : Bool)
  /-- MAX (R96). -/
  | max (xd : RegNo) (xa : RegNo) (xb : RegNo) (fa : Bool) (fb : Bool)
  /-- MINN (R96). -/
  | minn (xd : RegNo) (xa : RegNo) (xb : RegNo) (fa : Bool) (fb : Bool)
  /-- MAXN (R96). -/
  | maxn (xd : RegNo) (xa : RegNo) (xb : RegNo) (fa : Bool) (fb : Bool)
  /-- CLZ (R97). -/
  | clz (xd : RegNo) (xa : RegNo) (fa : Bool)
  /-- CTZ (R97). -/
  | ctz (xd : RegNo) (xa : RegNo) (fa : Bool)
  /-- POPC (R97). -/
  | popc (xd : RegNo) (xa : RegNo) (fa : Bool)
  /-- BREV (R97). -/
  | brev (xd : RegNo) (xa : RegNo) (fa : Bool)
  /-- BSWAP (R97). -/
  | bswap (xd : RegNo) (xa : RegNo) (fa : Bool)
  /-- CLMUL (R98). -/
  | clmul (xd : RegNo) (xa : RegNo) (xb : RegNo) (fa : Bool) (fb : Bool)
  /-- CLMULH (R98). -/
  | clmulh (xd : RegNo) (xa : RegNo) (xb : RegNo) (fa : Bool) (fb : Bool)
  /-- EXT (R100). -/
  | ext (xd : RegNo) (xa : RegNo) (xb : RegNo) (fa : Bool) (fb : Bool)
  /-- EXTN (R100). -/
  | extn (xd : RegNo) (xa : RegNo) (xb : RegNo) (fa : Bool) (fb : Bool)
  /-- INS (R101). -/
  | ins (xd : RegNo) (xa : RegNo) (xb : RegNo) (fa : Bool) (fb : Bool)
  /-- SHLADD (R102). -/
  | shladd (xd : RegNo) (xa : RegNo) (xb : RegNo) (fa : Bool) (fb : Bool) (s : BitVec 2)
  /-- SLT (R96). -/
  | slt (xd : RegNo) (xa : RegNo) (xb : RegNo) (fa : Bool) (fb : Bool)
  /-- SLTN (R96). -/
  | sltn (xd : RegNo) (xa : RegNo) (xb : RegNo) (fa : Bool) (fb : Bool)
  /-- CMPP.eq (R103). -/
  | cmppEq (p : BitVec 3) (xa : RegNo) (xb : RegNo) (fa : Bool) (fb : Bool)
  /-- CMPP.ne (R103). -/
  | cmppNe (p : BitVec 3) (xa : RegNo) (xb : RegNo) (fa : Bool) (fb : Bool)
  /-- CMPP.lt (R103). -/
  | cmppLt (p : BitVec 3) (xa : RegNo) (xb : RegNo) (fa : Bool) (fb : Bool)
  /-- CMPP.ge (R103). -/
  | cmppGe (p : BitVec 3) (xa : RegNo) (xb : RegNo) (fa : Bool) (fb : Bool)
  /-- CMPP.ltn (R103). -/
  | cmppLtn (p : BitVec 3) (xa : RegNo) (xb : RegNo) (fa : Bool) (fb : Bool)
  /-- CMPP.gen (R103). -/
  | cmppGen (p : BitVec 3) (xa : RegNo) (xb : RegNo) (fa : Bool) (fb : Bool)
  /-- SEL (R104). -/
  | selP8P11 (xd : RegNo) (xa : RegNo) (xb : RegNo) (fa : Bool) (fb : Bool) (n : BitVec 2)
  /-- SEL (R104). -/
  | selP12P15 (xd : RegNo) (xa : RegNo) (xb : RegNo) (fa : Bool) (fb : Bool) (n : BitVec 2)
  /-- ACONV (R115). -/
  | aconv (xd : RegNo) (xa : RegNo) (fa : Bool)
  /-- AGEN (R115). -/
  | agen (xd : RegNo) (xa : RegNo) (xb : RegNo) (fa : Bool) (fb : Bool)
  /-- ATEST (R116). -/
  | atest (xd : RegNo) (xa : RegNo) (fa : Bool)
  /-- ADDI (R92). -/
  | addi (xd : RegNo) (xa : RegNo) (fa : Bool) (imm : BitVec 9)
  /-- ANDI (R94). -/
  | andi (xd : RegNo) (xa : RegNo) (fa : Bool) (imm : BitVec 9)
  /-- ORI (R94). -/
  | ori (xd : RegNo) (xa : RegNo) (fa : Bool) (imm : BitVec 9)
  /-- XORI (R94). -/
  | xori (xd : RegNo) (xa : RegNo) (fa : Bool) (imm : BitVec 9)
  /-- SHLI (R95). -/
  | shli (xd : RegNo) (xa : RegNo) (fa : Bool) (sh : BitVec 6)
  /-- SHRI (R95). -/
  | shri (xd : RegNo) (xa : RegNo) (fa : Bool) (sh : BitVec 6)
  /-- SRAI (R95). -/
  | srai (xd : RegNo) (xa : RegNo) (fa : Bool) (sh : BitVec 6)
  /-- ROLI (R95). -/
  | roli (xd : RegNo) (xa : RegNo) (fa : Bool) (sh : BitVec 6)
  /-- RORI (R95). -/
  | rori (xd : RegNo) (xa : RegNo) (fa : Bool) (sh : BitVec 6)
  /-- SLTI (R96). -/
  | slti (xd : RegNo) (xa : RegNo) (fa : Bool) (imm : BitVec 9)
  /-- SLTNI (R96). -/
  | sltni (xd : RegNo) (xa : RegNo) (fa : Bool) (imm : BitVec 9)
  /-- MULI (R92). -/
  | muli (xd : RegNo) (xa : RegNo) (fa : Bool) (imm : BitVec 9)
  /-- CMPPI.eq (R103). -/
  | cmppiEq (p : BitVec 3) (xa : RegNo) (fa : Bool) (imm : BitVec 9)
  /-- CMPPI.ne (R103). -/
  | cmppiNe (p : BitVec 3) (xa : RegNo) (fa : Bool) (imm : BitVec 9)
  /-- CMPPI.lt (R103). -/
  | cmppiLt (p : BitVec 3) (xa : RegNo) (fa : Bool) (imm : BitVec 9)
  /-- CMPPI.ge (R103). -/
  | cmppiGe (p : BitVec 3) (xa : RegNo) (fa : Bool) (imm : BitVec 9)
  /-- CMPPI.ltn (R103). -/
  | cmppiLtn (p : BitVec 3) (xa : RegNo) (fa : Bool) (imm : BitVec 9)
  /-- CMPPI.gen (R103). -/
  | cmppiGen (p : BitVec 3) (xa : RegNo) (fa : Bool) (imm : BitVec 9)
  /-- LD (R107). -/
  | ld (size : BitVec 2) (cls : BitVec 4) (xd : RegNo) (xa : RegNo) (fa : Bool) (imm : BitVec 8)
  /-- ST (R108). -/
  | st (size : BitVec 2) (cls : BitVec 4) (xd : RegNo) (xa : RegNo) (fa : Bool) (imm : BitVec 8)
  /-- BEQ (R117). -/
  | beq (xa : RegNo) (xb : RegNo) (fa : Bool) (fb : Bool) (off : BitVec 10)
  /-- BNE (R117). -/
  | bne (xa : RegNo) (xb : RegNo) (fa : Bool) (fb : Bool) (off : BitVec 10)
  /-- BLT (R117). -/
  | blt (xa : RegNo) (xb : RegNo) (fa : Bool) (fb : Bool) (off : BitVec 10)
  /-- BGE (R117). -/
  | bge (xa : RegNo) (xb : RegNo) (fa : Bool) (fb : Bool) (off : BitVec 10)
  /-- BLTN (R117). -/
  | bltn (xa : RegNo) (xb : RegNo) (fa : Bool) (fb : Bool) (off : BitVec 10)
  /-- BGEN (R117). -/
  | bgen (xa : RegNo) (xb : RegNo) (fa : Bool) (fb : Bool) (off : BitVec 10)
  /-- BP (R117). -/
  | bp (neg : Bool) (p : BitVec 4) (off : BitVec 10)
  /-- J (R117). -/
  | j (off : BitVec 10)
  /-- JL (R118). -/
  | jl (off : BitVec 10)
  /-- JR (R118). -/
  | jr (xa : RegNo) (fa : Bool)
  /-- LOOP.S (R72). -/
  | loopS (xa : RegNo) (k : BitVec 6) (fa : Bool) (off : BitVec 10)
  /-- LOOP.O (R73). -/
  | loopO (xa : RegNo) (fa : Bool) (off : BitVec 10)
  /-- PSHV.l (R121). -/
  | pshv (xa : RegNo) (fa : Bool) (side : Side)
  /-- TOKST (R122). -/
  | tokst (xd : RegNo)
  /-- SBIND (R123). -/
  | sbind (xa : RegNo) (fa : Bool) (n : BitVec 2)
  /-- FENCE.scope (R124). -/
  | fence (mask : BitVec 16) (scope : Scope)
  /-- CSYNC (R113). -/
  | csync
  /-- QPOINT (R126). -/
  | qpoint
  /-- TSC (R127). -/
  | tsc (xd : RegNo)
  /-- CSRR (R128). -/
  | csrr (xd : RegNo) (r : Csr)
  /-- CSRW (R129). -/
  | csrw (r : Csr) (xa : RegNo) (fa : Bool)
  /-- TRAP (R130). -/
  | trap (n : BitVec 8)
  /-- ERET (R131). -/
  | eret
  /-- TPL.LD.eng (R132). -/
  | tplLd (slot : BitVec 6) (xa : RegNo) (fa : Bool) (eng : TplEng)
  /-- TEND (R133). -/
  | tend
  /-- LD_NATURAL (R109). -/
  | ldNatural (xd : RegNo) (xa : RegNo) (fa : Bool) (cls : BitVec 4) (size : BitVec 2)
  /-- LDC (R112). -/
  | ldc (xd : RegNo) (xa : RegNo) (fa : Bool) (size : BitVec 2)
  /-- WLD (R60). -/
  | wld (xd : RegNo) (k : BitVec 2) (imm : BitVec 16)
  /-- WINS (R60). -/
  | wins (xd : RegNo) (k : BitVec 2) (imm : BitVec 16)
  /-- VADD (R227). -/
  | vadd (sc : Bool) (vd : RegNo) (va : RegNo) (vb : RegNo) (m : BitVec 2)
  /-- VSUB (R227). -/
  | vsub (sc : Bool) (vd : RegNo) (va : RegNo) (vb : RegNo) (m : BitVec 2)
  /-- VMUL (R227). -/
  | vmul (sc : Bool) (vd : RegNo) (va : RegNo) (vb : RegNo) (m : BitVec 2)
  /-- VFMA (R227). -/
  | vfma (sc : Bool) (vd : RegNo) (va : RegNo) (vb : RegNo) (m : BitVec 2)
  /-- VFNMA (R227). -/
  | vfnma (sc : Bool) (vd : RegNo) (va : RegNo) (vb : RegNo) (m : BitVec 2)
  /-- VMIN (R227). -/
  | vmin (sc : Bool) (vd : RegNo) (va : RegNo) (vb : RegNo) (m : BitVec 2)
  /-- VMAX (R227). -/
  | vmax (sc : Bool) (vd : RegNo) (va : RegNo) (vb : RegNo) (m : BitVec 2)
  /-- VMINN (R227). -/
  | vminn (sc : Bool) (vd : RegNo) (va : RegNo) (vb : RegNo) (m : BitVec 2)
  /-- VMAXN (R227). -/
  | vmaxn (sc : Bool) (vd : RegNo) (va : RegNo) (vb : RegNo) (m : BitVec 2)
  /-- VABS (R227). -/
  | vabs (vd : RegNo) (va : RegNo) (m : BitVec 2)
  /-- VNEG (R227). -/
  | vneg (vd : RegNo) (va : RegNo) (m : BitVec 2)
  /-- VAND (R227). -/
  | vand (sc : Bool) (vd : RegNo) (va : RegNo) (vb : RegNo) (m : BitVec 2)
  /-- VOR (R227). -/
  | vor (sc : Bool) (vd : RegNo) (va : RegNo) (vb : RegNo) (m : BitVec 2)
  /-- VXOR (R227). -/
  | vxor (sc : Bool) (vd : RegNo) (va : RegNo) (vb : RegNo) (m : BitVec 2)
  /-- VANDN (R227). -/
  | vandn (sc : Bool) (vd : RegNo) (va : RegNo) (vb : RegNo) (m : BitVec 2)
  /-- VSHL (R227). -/
  | vshl (sc : Bool) (vd : RegNo) (va : RegNo) (vb : RegNo) (m : BitVec 2)
  /-- VSHR (R227). -/
  | vshr (sc : Bool) (vd : RegNo) (va : RegNo) (vb : RegNo) (m : BitVec 2)
  /-- VSRA (R227). -/
  | vsra (sc : Bool) (vd : RegNo) (va : RegNo) (vb : RegNo) (m : BitVec 2)
  /-- VEXP2 (R228). -/
  | vexp2 (vd : RegNo) (va : RegNo) (m : BitVec 2)
  /-- VLOG2 (R228). -/
  | vlog2 (vd : RegNo) (va : RegNo) (m : BitVec 2)
  /-- VRECIP (R228). -/
  | vrecip (vd : RegNo) (va : RegNo) (m : BitVec 2)
  /-- VRSQ (R228). -/
  | vrsq (vd : RegNo) (va : RegNo) (m : BitVec 2)
  /-- VCMP.eq (R229). -/
  | vcmpEq (sc : Bool) (md : BitVec 3) (va : RegNo) (vb : RegNo) (m : BitVec 2)
  /-- VCMP.ne (R229). -/
  | vcmpNe (sc : Bool) (md : BitVec 3) (va : RegNo) (vb : RegNo) (m : BitVec 2)
  /-- VCMP.lt (R229). -/
  | vcmpLt (sc : Bool) (md : BitVec 3) (va : RegNo) (vb : RegNo) (m : BitVec 2)
  /-- VCMP.ge (R229). -/
  | vcmpGe (sc : Bool) (md : BitVec 3) (va : RegNo) (vb : RegNo) (m : BitVec 2)
  /-- VCMP.ltn (R229). -/
  | vcmpLtn (sc : Bool) (md : BitVec 3) (va : RegNo) (vb : RegNo) (m : BitVec 2)
  /-- VCMP.gen (R229). -/
  | vcmpGen (sc : Bool) (md : BitVec 3) (va : RegNo) (vb : RegNo) (m : BitVec 2)
  /-- VSEL (R229). -/
  | vsel (sc : Bool) (vd : RegNo) (va : RegNo) (vb : RegNo) (m : BitVec 2)
  /-- VCVT.t.rnd[.sat] (R230). -/
  | vcvt (t : BitVec 3) (vd : RegNo) (va : RegNo) (p : BitVec 2) (sat : Bool) (rm : BitVec 3) (m : BitVec 2)
  /-- VRNG (R231). -/
  | vrng (vd : RegNo) (xb : RegNo) (m : BitVec 2)
  /-- VKEY (R231). -/
  | vkey (xb : RegNo)
  /-- VRSUM (R232). -/
  | vrsum (vd : RegNo) (va : RegNo) (m : BitVec 2)
  /-- VRMAX (R232). -/
  | vrmax (vd : RegNo) (va : RegNo) (m : BitVec 2)
  /-- VRMIN (R232). -/
  | vrmin (vd : RegNo) (va : RegNo) (m : BitVec 2)
  /-- VSCAN (R232). -/
  | vscan (vd : RegNo) (va : RegNo) (m : BitVec 2)
  /-- VSCANX (R232). -/
  | vscanx (vd : RegNo) (va : RegNo) (m : BitVec 2)
  /-- VTOPK (R233). -/
  | vtopk (vd : RegNo) (va : RegNo) (xb : RegNo) (m : BitVec 2)
  /-- VPERM (R234). -/
  | vperm (sc : Bool) (vd : RegNo) (va : RegNo) (vb : RegNo) (m : BitVec 2)
  /-- VBCAST (R234). -/
  | vbcast (vd : RegNo) (xb : RegNo) (m : BitVec 2)
  /-- VEXTX (R234). -/
  | vextx (xd : RegNo) (va : RegNo) (xb : RegNo)
  /-- VMAND (R235). -/
  | vmand (md : BitVec 3) (ma : BitVec 3) (mb : BitVec 3)
  /-- VMOR (R235). -/
  | vmor (md : BitVec 3) (ma : BitVec 3) (mb : BitVec 3)
  /-- VMXOR (R235). -/
  | vmxor (md : BitVec 3) (ma : BitVec 3) (mb : BitVec 3)
  /-- VMANDN (R235). -/
  | vmandn (md : BitVec 3) (ma : BitVec 3) (mb : BitVec 3)
  /-- VMPOPC (R235). -/
  | vmpopc (xd : RegNo) (ma : BitVec 3)
  /-- VMGET (R235). -/
  | vmget (xd : RegNo) (ma : BitVec 3) (q : BitVec 2)
  /-- VMSET (R235). -/
  | vmset (md : BitVec 3) (q : BitVec 2) (xb : RegNo)
  /-- VLDR (R236). -/
  | vldr (vd : RegNo) (xb : RegNo)
  /-- VSTR (R236). -/
  | vstr (vd : RegNo) (xb : RegNo)
  /-- VWIN (R237). -/
  | vwin (xb : RegNo)
  /-- VWALK (R238). -/
  | vwalk (xa : RegNo) (xb : RegNo)
  /-- VLDW (R239). -/
  | vldw (vd : RegNo)
  /-- VFENCE (R223). -/
  | vfence
  /-- MMA (R251). -/
  | mma (tpl : BitVec 6) (fsel : BitVec 6) (value : BitVec 16)
  /-- MMAG (R255). -/
  | mmag (tpl : BitVec 6) (fsel : BitVec 6) (value : BitVec 16)
  /-- MWLD (R254). -/
  | mwld (tpl : BitVec 6) (fsel : BitVec 6) (value : BitVec 16)
  /-- MDRAIN (R256). -/
  | mdrain (tpl : BitVec 6) (fsel : BitVec 6) (value : BitVec 16)
  /-- MZERO (R258). -/
  | mzero (tpl : BitVec 6) (fsel : BitVec 6) (value : BitVec 16)
  /-- MFMT (R259). -/
  | mfmt (tpl : BitVec 6) (fsel : BitVec 6) (value : BitVec 16)
  /-- MSTAT (R260). -/
  | mstat (tpl : BitVec 6) (fsel : BitVec 6) (value : BitVec 16)
  /-- MFENCE (R261). -/
  | mfence (tpl : BitVec 6) (fsel : BitVec 6) (value : BitVec 16)
  /-- CPY.IN (R279). -/
  | cpyIn (tpl : BitVec 6) (fsel : BitVec 6) (value : BitVec 16)
  /-- CPY.OUT (R280). -/
  | cpyOut (tpl : BitVec 6) (fsel : BitVec 6) (value : BitVec 16)
  /-- CPY.GATHER (R281). -/
  | cpyGather (tpl : BitVec 6) (fsel : BitVec 6) (value : BitVec 16)
  /-- CPY.SCAT (R281). -/
  | cpyScat (tpl : BitVec 6) (fsel : BitVec 6) (value : BitVec 16)
  /-- CPY.RING (R283). -/
  | cpyRing (tpl : BitVec 6) (fsel : BitVec 6) (value : BitVec 16)
  /-- CPY.T (R282). -/
  | cpyT (tpl : BitVec 6) (fsel : BitVec 6) (value : BitVec 16)
  /-- CPY.FOLLOW (R284). -/
  | cpyFollow (tpl : BitVec 6) (fsel : BitVec 6) (value : BitVec 16)
  /-- CPY.BAR (R285). -/
  | cpyBar (tpl : BitVec 6) (fsel : BitVec 6) (value : BitVec 16)
  /-- CPY.FILL (R286). -/
  | cpyFill (tpl : BitVec 6) (fsel : BitVec 6) (value : BitVec 16)
  /-- LREC (R287). -/
  | lrec (tpl : BitVec 6) (fsel : BitVec 6) (value : BitVec 16)
  /-- CPY.STAT (R288). -/
  | cpyStat (tpl : BitVec 6) (fsel : BitVec 6) (value : BitVec 16)
  /-- XSORT (R317). -/
  | xsort (tpl : BitVec 6) (fsel : BitVec 6) (value : BitVec 16)
  /-- XA2A (R323). -/
  | xa2a (tpl : BitVec 6) (fsel : BitVec 6) (value : BitVec 16)
  /-- XCH.OPEN (R318). -/
  | xchOpen (tpl : BitVec 6) (fsel : BitVec 6) (value : BitVec 16)
  /-- XCH.WIN (R322). -/
  | xchWin (tpl : BitVec 6) (fsel : BitVec 6) (value : BitVec 16)
  /-- XCH.SEND (R320). -/
  | xchSend (tpl : BitVec 6) (fsel : BitVec 6) (value : BitVec 16)
  /-- XCH.RECV (R322). -/
  | xchRecv (tpl : BitVec 6) (fsel : BitVec 6) (value : BitVec 16)
  /-- XCH.CLOSE (R322). -/
  | xchClose (tpl : BitVec 6) (fsel : BitVec 6) (value : BitVec 16)
  /-- XRING.RS (R325). -/
  | xringRs (tpl : BitVec 6) (fsel : BitVec 6) (value : BitVec 16)
  /-- XRING.AG (R325). -/
  | xringAg (tpl : BitVec 6) (fsel : BitVec 6) (value : BitVec 16)
  /-- XSTAT (R325). -/
  | xstat (tpl : BitVec 6) (fsel : BitVec 6) (value : BitVec 16)
  /-- ALD.scope.order (R300). -/
  | ald (ord : Order) (scope : Scope) (xd : RegNo) (xa : RegNo)
  /-- AST.scope.order (R300). -/
  | ast (ord : Order) (scope : Scope) (xa : RegNo) (xb : BitVec 5)
  /-- ASWP.scope.order (R300). -/
  | aswp (ord : Order) (scope : Scope) (xd : RegNo) (xa : RegNo) (xb : BitVec 5)
  /-- AADD.scope.order (R300). -/
  | aadd (ord : Order) (scope : Scope) (xd : RegNo) (xa : RegNo) (xb : BitVec 5)
  /-- AAND.scope.order (R300). -/
  | aand (ord : Order) (scope : Scope) (xd : RegNo) (xa : RegNo) (xb : BitVec 5)
  /-- AOR.scope.order (R300). -/
  | aor (ord : Order) (scope : Scope) (xd : RegNo) (xa : RegNo) (xb : BitVec 5)
  /-- AXOR.scope.order (R300). -/
  | axor (ord : Order) (scope : Scope) (xd : RegNo) (xa : RegNo) (xb : BitVec 5)
  /-- AMIN.scope.order (R300). -/
  | amin (ord : Order) (scope : Scope) (xd : RegNo) (xa : RegNo) (xb : BitVec 5)
  /-- AMAX.scope.order (R300). -/
  | amax (ord : Order) (scope : Scope) (xd : RegNo) (xa : RegNo) (xb : BitVec 5)
  /-- AMINN.scope.order (R300). -/
  | aminn (ord : Order) (scope : Scope) (xd : RegNo) (xa : RegNo) (xb : BitVec 5)
  /-- AMAXN.scope.order (R300). -/
  | amaxn (ord : Order) (scope : Scope) (xd : RegNo) (xa : RegNo) (xb : BitVec 5)
  /-- AFADD.scope.order (R300). -/
  | afadd (ord : Order) (scope : Scope) (xd : RegNo) (xa : RegNo) (xb : BitVec 5)
  /-- ACAS.scope.order (R301). -/
  | acas (ord : Order) (scope : Scope) (xd : RegNo) (xa : RegNo) (xp : BitVec 4)
  /-- ACAS.FA.scope.order (R301). -/
  | acasFa (ord : Order) (scope : Scope) (xd : RegNo) (xa : RegNo) (xp : BitVec 4)
  /-- ABINIT.scope.order (R306). -/
  | abinit (ord : Order) (scope : Scope) (xa : RegNo) (xb : BitVec 5)
  /-- ABARR.scope.order (R306). -/
  | abarr (ord : Order) (scope : Scope) (xd : RegNo) (xa : RegNo)
  /-- ABEXP.scope.order (R306). -/
  | abexp (ord : Order) (scope : Scope) (xa : RegNo) (xb : BitVec 5)
  /-- ABWAIT.scope.order (R306). -/
  | abwait (ord : Order) (scope : Scope) (xd : RegNo) (xa : RegNo) (xb : BitVec 5)
  /-- ASEMP.scope.order (R310). -/
  | asemp (ord : Order) (scope : Scope) (xa : RegNo) (xb : BitVec 5)
  /-- ASEMW.scope.order (R310). -/
  | asemw (ord : Order) (scope : Scope) (xd : RegNo) (xa : RegNo) (xb : BitVec 5)
  /-- SST.scope.order (R335). -/
  | sst (ord : Order) (scope : Scope) (xd : RegNo) (xa : RegNo) (xb : BitVec 5)
  /-- SST.T.scope.order (R335). -/
  | sstT (ord : Order) (scope : Scope) (xd : RegNo) (xa : RegNo) (xb : BitVec 5)
  /-- SPF.scope.order (R337). -/
  | spf (ord : Order) (scope : Scope) (xd : RegNo) (xa : RegNo) (xb : BitVec 5)
  /-- SREL.scope.order (R338). -/
  | srel (ord : Order) (scope : Scope) (xd : RegNo) (xa : RegNo)
  /-- SQRY.scope.order (R339). -/
  | sqry (ord : Order) (scope : Scope) (xd : RegNo) (xa : RegNo)
  /-- SPOL.scope.order (R338). -/
  | spol (ord : Order) (scope : Scope) (xd : RegNo) (xa : RegNo) (xb : BitVec 5)
  /-- LEXP (R352). -/
  | lexp (scope : Scope) (xd : RegNo) (xa : RegNo) (xb : BitVec 5)
  /-- LRED.scope.order (R353). -/
  | lred (ord : Order) (scope : Scope) (xd : RegNo) (xa : RegNo) (xb : BitVec 5)
  /-- LOPT (R351). -/
  | lopt (scope : Scope) (xd : RegNo) (xa : RegNo) (xb : BitVec 5)
  /-- LQRY.scope.order (R356). -/
  | lqry (ord : Order) (scope : Scope) (xd : RegNo) (xa : RegNo)
  /-- NLOOK (R358). -/
  | nlook (scope : Scope) (xd : RegNo) (xa : RegNo) (xb : BitVec 5)
  /-- NREF (R359). -/
  | nref (scope : Scope) (xd : RegNo) (xn : BitVec 5)
  /-- NREL.scope.order (R359). -/
  | nrel (ord : Order) (scope : Scope) (xd : RegNo) (xn : BitVec 5)
  /-- NSWAP.scope.order (R360). -/
  | nswap (ord : Order) (scope : Scope) (xd : RegNo) (xa : RegNo) (xq : BitVec 3)
  /-- NGET.scope.order (R362). -/
  | nget (ord : Order) (scope : Scope) (xd : RegNo) (xn : BitVec 5) (xb : BitVec 5)
  /-- NOUT (R361). -/
  | nout (scope : Scope) (xd : RegNo) (xn : BitVec 5) (xp : BitVec 4)
  /-- NHAS (R359). -/
  | nhas (scope : Scope) (xd : RegNo) (xn : BitVec 5)
  /-- NXFER.scope.order (R364). -/
  | nxfer (ord : Order) (scope : Scope) (xd : RegNo) (xn : BitVec 5) (xb : BitVec 5)
  /-- GROW (R376). -/
  | grow (scope : Scope) (xd : RegNo) (xb : BitVec 5)
  /-- POST.scope.order (R383). -/
  | post (ord : Order) (scope : Scope) (xd : RegNo) (xa : RegNo)
  /-- FENCEW.scope.order (R388). -/
  | fencew (ord : Order) (scope : Scope) (xd : RegNo)
  /-- GBIND.scope.order (R378). -/
  | gbind (ord : Order) (scope : Scope) (xd : RegNo) (xa : RegNo) (xb : BitVec 5)
  /-- GREBIND.scope.order (R381). -/
  | grebind (ord : Order) (scope : Scope) (xd : RegNo) (xa : RegNo) (xb : BitVec 5)
  /-- GSTAT (R385). -/
  | gstat (scope : Scope) (xd : RegNo) (xb : BitVec 5)
  /-- PTSET (R382). -/
  | ptset (scope : Scope) (xd : RegNo) (xa : RegNo) (xb : BitVec 5)
  /-- HMRISK (R393). -/
  | hmrisk (scope : Scope) (xd : RegNo)
  /-- PRACK (R383). -/
  | prack (scope : Scope)
  /-- PACKET_ISSUE (R47). -/
  | packetIssue (core : Nat) (ctx : CtxId)
  /-- HOLD_EXPIRY (R81). -/
  | holdExpiry (core : Nat) (ctx : CtxId)
  /-- QUEUE_ENTRY_GRANT (R83). -/
  | queueEntryGrant (core : Nat) (cls : Cls)
  /-- TRACKER_ADMIT (R14). -/
  | trackerAdmit (core : Nat)
  /-- COMMAND_START (R14). -/
  | commandStart (cmd : Nat)
  /-- ENGINE_MICRO_OP (R18). -/
  | engineMicroOp (cmd : Nat)
  /-- COMMAND_COMPLETE (R19). -/
  | commandComplete (cmd : Nat)
  /-- PENDING_REPORT_DELIVERY (R170). -/
  | pendingReportDelivery (core : Nat) (ctx : CtxId)
  /-- LOAD_FILL (R107). -/
  | loadFill (acc : Nat)
  /-- STORE_PERFORM (R146). -/
  | storePerform (acc : Nat) (far : Bool)
  /-- REPLY_FILL (R63). -/
  | replyFill (cmd : Nat)
  /-- TEMPLATE_IMAGE_ARRIVAL (R132). -/
  | templateImageArrival (acc : Nat)
  /-- FENCE_COMPLETE (R124). -/
  | fenceComplete (core : Nat) (ctx : CtxId) (fence : Nat)
  /-- TASK_RETIRE (R80). -/
  | taskRetire (core : Nat)
  /-- SCHEDULER_SCAN (R372). -/
  | schedulerScan (part : Nat)
  /-- BANK_GRANT (R264). -/
  | bankGrant (core : Nat) (bank : Nat)
  /-- NOTICE_QUEUE_WRITE (R418). -/
  | noticeQueueWrite (part : Nat) (ring : RingSel)
  /-- VECTOR_WORD_COMPLETE (R220). -/
  | vectorWordComplete (core : Nat)
  /-- ARRIVAL_ADMISSION (R368). -/
  | arrivalAdmission (w : Arrival)
  /-- CONSTANT_LINE_EVICT (R141). -/
  | constantLineEvict (core : Nat) (line : Nat)
  /-- PAGE_FAULT (R179). -/
  | pageFault (acc : Nat)
  /-- REMOTE_REFUSAL (R153). -/
  | remoteRefusal (who : Refused) (hint : Nat)
  /-- RETRY_TIMER_EXPIRY (R153). -/
  | retryTimerExpiry (acc : Nat)
  /-- PAGE_MIGRATION (R155). -/
  | pageMigration (part : Nat) (asid : Nat) (ipa : Nat) (frame : Nat)
  /-- INVALIDATION_WATCHDOG_EXPIRY (R185). -/
  | invalidationWatchdogExpiry (part : Nat) (inv : Nat)
  /-- BUDGET_EXPIRY (R85). -/
  | budgetExpiry (gang : Nat)
  /-- POLICY_AGE_PROMOTION (R372). -/
  | policyAgePromotion (part : Nat) (idx : Nat)
  /-- GRAPH_FIRING_PLACEMENT (R380). -/
  | graphFiringPlacement (part : Nat) (slot : Nat)
  /-- PRELOAD (R390). -/
  | preload (gang : Nat)
  /-- PREEMPT_AGE_EXPIRY (R391). -/
  | preemptAgeExpiry (part : Nat) (idx : Nat)
  /-- PREEMPT_TIMEOUT (R391). -/
  | preemptTimeout (gang : Nat)
  /-- GANG_RESUME (R392). -/
  | gangResume (gang : Nat)
  /-- SYNC_BLOCK_FETCH (R296). -/
  | syncBlockFetch (part : Nat) (die : Nat) (block : Nat) (bad : Bool)
  /-- TRADON_CRC_REPLAY (R313). -/
  | tradonCrcReplay (port : Nat)
  /-- LINK_DOWN (R313). -/
  | linkDown (port : Nat)
  /-- CHANNEL_RECORD_DELIVERY (R321). -/
  | channelRecordDelivery (m : ChanRecord)
  /-- WINDOW_END_ARRIVAL (R322). -/
  | windowEndArrival (m : WindowEnd)
  /-- CLOSE_NOTICE_ARRIVAL (R322). -/
  | closeNoticeArrival (m : CloseNotice)
  /-- COUNT_ROW_ARRIVAL (R323). -/
  | countRowArrival (m : CountRow)
  /-- XA2A_PIECE_ARRIVAL (R323). -/
  | xa2aPieceArrival (m : Piece)
  /-- RING_CHUNK_ARRIVAL (R325). -/
  | ringChunkArrival (m : RingMsg)
  /-- CZ_BLOCK_EXPAND (R341). -/
  | czBlockExpand (part : Nat) (asid : Nat) (block : Nat)
  /-- CZ_BLOCK_COMPRESS (R341). -/
  | czBlockCompress (part : Nat) (asid : Nat) (block : Nat)
  /-- BACKGROUND_RELEASE (R359). -/
  | backgroundRelease (part : Nat) (name : Nat)
  /-- MIRROR_TRANSFER_RECEIVE (R364). -/
  | mirrorTransferReceive (m : MirrorMsg)
  /-- THROTTLE_ENGAGE (R28). -/
  | throttleEngage (die : Nat) (temp : Nat)
  /-- THROTTLE_RELEASE (R28). -/
  | throttleRelease (temps : List Nat)
  /-- RISK_UPDATE (R415). -/
  | riskUpdate
  /-- POWER_ON_RESET (R416). -/
  | powerOnReset (found : BringUp)
  /-- CXL_LINK_UP (R416). -/
  | cxlLinkUp
  /-- HOST_MEM_READ (R154). -/
  | hostMemRead (part : Nat) (addr : Nat) (keep : Bool)
  /-- HOST_MEM_WRITE (R410). -/
  | hostMemWrite (part : Nat) (addr : Nat) (data : List Byte) (poison : Bool)
  /-- BACK_INVALIDATION_COMPLETE (R154). -/
  | backInvalidationComplete (line : Nat)
  /-- REGISTER_WRITE (R401). -/
  | registerWrite (fn : Nat) (off : Nat) (val : Word)
  /-- GET_INFO (R403). -/
  | getInfo (fn : Nat)
  /-- PART_CREATE (R403). -/
  | partCreate (fn : Nat)
  /-- PART_DESTROY (R403). -/
  | partDestroy (fn : Nat)
  /-- PART_RESET (R403). -/
  | partReset (fn : Nat)
  /-- VF_BIND (R403). -/
  | vfBind (fn : Nat)
  /-- PART_CONFIG (R406). -/
  | partConfig (fn : Nat)
  /-- LAUNCH (R403). -/
  | launch (fn : Nat)
  /-- FAULT_ANSWER (R181). -/
  | faultAnswer (fn : Nat)
  /-- INVALIDATE (R184). -/
  | invalidate (fn : Nat)
  /-- ASID_RETIRE (R186). -/
  | asidRetire (fn : Nat)
  /-- FLUSH (R186). -/
  | flush (fn : Nat)
  /-- TABLE_ROOT (R175). -/
  | tableRoot (fn : Nat)
  /-- DOMAIN_SET (R312). -/
  | domainSet (fn : Nat)
  /-- MIRROR_ENABLE (R364). -/
  | mirrorEnable (fn : Nat)
  /-- PREEMPT (R391). -/
  | preempt (fn : Nat)
  /-- ATTEST (R414). -/
  | attest (fn : Nat)
  /-- PUSH_IMAGE (R413). -/
  | pushImage (fn : Nat)
  /-- HM_WEIGHTS (R415). -/
  | hmWeights (fn : Nat)
  /-- SENSORS (R403). -/
  | sensors (fn : Nat)
  /-- LINK_RETRAIN (R313). -/
  | linkRetrain (port : Nat) (lanes : Nat)
  /-- RECEIVER_CLOSE_ARRIVAL (R322). -/
  | receiverCloseArrival (m : ReceiverClose)
  deriving DecidableEq, Repr, Inhabited

end Sys2Proof
end

