-- ==== Sys2Proof/Machine/Fields.lean ====
section
/-! DEFINITION. The field maps of the matrix, copy and Prism templates and of the layout record (R242, R270, R274,
R314), and the reading and patching of a field by its number (R53, R243, R244). -/

namespace Sys2Proof.Machine

/-- A 64-byte template image (R132): bit 64 i + j is bit j of doubleword i. -/
abbrev TplImage := BitVec 512

/-- A 96-byte layout record image (R270). -/
abbrev RecImage := BitVec 768

/-- One field of a template: its number, its lowest bit in the image, its width, whether it is sign-extended, and
whether it is reserved (R53, R242). -/
structure FieldSpec where
  num : Nat
  lo : Nat
  width : Nat
  signed : Bool
  reserved : Bool
  deriving DecidableEq, Repr, Inhabited

/-- The w bits of an image from bit lo upward, as a natural number. -/
def imgField {n : Nat} (img : BitVec n) (lo w : Nat) : Nat := (img.toNat >>> lo) % 2 ^ w

/-- The image with the w bits from bit lo replaced by v modulo 2^w. -/
def imgSetField {n : Nat} (img : BitVec n) (lo w v : Nat) : BitVec n :=
  BitVec.ofNat n (img.toNat - (imgField img lo w) <<< lo + (v % 2 ^ w) <<< lo)

/-- The matrix template's fields (R242). -/
def mxFields : List FieldSpec :=
  [
    ⟨1, 58, 6, false, false⟩, ⟨2, 52, 6, false, false⟩, ⟨3, 51, 1, false, false⟩, ⟨4, 47, 4, false, false⟩,
    ⟨5, 46, 1, false, false⟩, ⟨6, 44, 2, false, false⟩, ⟨7, 43, 1, false, false⟩, ⟨8, 40, 3, false, false⟩,
    ⟨9, 38, 2, false, false⟩, ⟨10, 37, 1, false, false⟩, ⟨11, 36, 1, false, false⟩, ⟨12, 35, 1, false, false⟩,
    ⟨13, 16, 16, false, false⟩, ⟨14, 0, 16, false, false⟩, ⟨15, 112, 16, false, false⟩, ⟨16, 100, 12, false, false⟩,
    ⟨17, 80, 20, false, false⟩, ⟨18, 64, 16, false, false⟩, ⟨19, 176, 16, false, false⟩, ⟨20, 160, 16, false, false⟩,
    ⟨21, 144, 16, false, false⟩] ++ [
    ⟨22, 128, 16, false, false⟩, ⟨23, 236, 20, false, false⟩, ⟨24, 216, 20, false, false⟩, ⟨25, 196, 20, false, false⟩,
    ⟨26, 300, 20, false, false⟩, ⟨27, 280, 20, false, false⟩, ⟨28, 260, 20, false, false⟩, ⟨29, 352, 32, false, false⟩,
    ⟨30, 320, 32, false, false⟩, ⟨31, 428, 20, false, false⟩, ⟨32, 408, 20, false, false⟩, ⟨33, 388, 20, false, false⟩,
    ⟨34, 496, 16, false, false⟩, ⟨35, 480, 16, false, false⟩, ⟨36, 464, 16, false, false⟩, ⟨37, 448, 16, false, false⟩,
    ⟨38, 32, 3, false, true⟩, ⟨39, 192, 4, false, true⟩, ⟨40, 256, 4, false, true⟩, ⟨41, 384, 4, false, true⟩]

/-- The copy template's fields (R274): o0 to o4, numbers 15 to 19, are sign-extended. -/
def cpFields : List FieldSpec :=
  [
    ⟨1, 58, 6, false, false⟩, ⟨2, 52, 6, false, false⟩, ⟨3, 48, 4, false, false⟩, ⟨4, 44, 4, false, false⟩,
    ⟨5, 43, 1, false, false⟩, ⟨6, 37, 6, false, false⟩, ⟨7, 31, 6, false, false⟩, ⟨8, 28, 3, false, false⟩,
    ⟨9, 12, 16, false, false⟩, ⟨10, 108, 20, false, false⟩, ⟨11, 88, 20, false, false⟩, ⟨12, 68, 20, false, false⟩,
    ⟨13, 128, 64, false, false⟩] ++ [
    ⟨14, 192, 64, false, false⟩, ⟨15, 288, 32, true, false⟩, ⟨16, 256, 32, true, false⟩, ⟨17, 352, 32, true, false⟩,
    ⟨18, 320, 32, true, false⟩, ⟨19, 416, 32, true, false⟩, ⟨20, 496, 16, false, false⟩, ⟨21, 480, 16, false, false⟩,
    ⟨22, 464, 16, false, false⟩, ⟨23, 448, 16, false, false⟩, ⟨24, 0, 12, false, true⟩, ⟨25, 64, 4, false, true⟩,
    ⟨26, 384, 32, false, true⟩]

/-- The Prism template's fields (R314). -/
def xeFields : List FieldSpec :=
  [
    ⟨1, 58, 6, false, false⟩, ⟨2, 52, 6, false, false⟩, ⟨3, 48, 4, false, false⟩, ⟨4, 42, 6, false, false⟩,
    ⟨5, 41, 1, false, false⟩, ⟨6, 40, 1, false, false⟩, ⟨7, 36, 4, false, false⟩, ⟨8, 34, 2, false, false⟩,
    ⟨9, 30, 4, false, false⟩, ⟨10, 26, 4, false, false⟩, ⟨11, 18, 8, false, false⟩, ⟨12, 112, 16, false, false⟩,
    ⟨13, 96, 16, false, false⟩, ⟨14, 90, 6, false, false⟩, ⟨15, 83, 7, false, false⟩, ⟨16, 79, 4, false, false⟩,
    ⟨17, 168, 24, false, false⟩, ⟨18, 144, 24, false, false⟩, ⟨19, 131, 13, false, false⟩, ⟨20, 236, 20, false, false⟩] ++ [
    ⟨21, 216, 20, false, false⟩, ⟨22, 196, 20, false, false⟩, ⟨23, 300, 20, false, false⟩, ⟨24, 280, 20, false, false⟩,
    ⟨25, 260, 20, false, false⟩, ⟨26, 320, 64, false, false⟩, ⟨27, 416, 32, false, false⟩, ⟨28, 400, 16, false, false⟩,
    ⟨29, 394, 6, false, false⟩, ⟨30, 496, 16, false, false⟩, ⟨31, 480, 16, false, false⟩, ⟨32, 464, 16, false, false⟩,
    ⟨33, 448, 16, false, false⟩, ⟨34, 0, 18, false, true⟩, ⟨35, 64, 15, false, true⟩, ⟨36, 128, 3, false, true⟩,
    ⟨37, 192, 4, false, true⟩, ⟨38, 256, 4, false, true⟩, ⟨39, 384, 10, false, true⟩]

/-- The field map of a P-form class (R53). Classes without templates have none. -/
def fieldMap : Cls → List FieldSpec
  | .matrix => mxFields
  | .copy => cpFields
  | .prism => xeFields
  | _ => []

/-- The field of that number in an engine's map. -/
def fieldOf (c : Cls) (n : Nat) : Option FieldSpec := (fieldMap c).find? (fun f => f.num == n)

/-- The field of that number, if the map names it and it is not reserved: a patch may name no other (R53). -/
def patchField (c : Cls) (n : Nat) : Option FieldSpec :=
  match fieldOf c n with
  | some f => if f.reserved then none else some f
  | none => none

/-- The value of a template's field by number; 0 where the map names none. -/
def tplField (c : Cls) (img : TplImage) (n : Nat) : Nat :=
  match fieldOf c n with
  | some f => imgField img f.lo f.width
  | none => 0

/-- The image with a field replaced, by number (R53, R244). -/
def setTplField (c : Cls) (img : TplImage) (n v : Nat) : TplImage :=
  match fieldOf c n with
  | some f => imgSetField img f.lo f.width v
  | none => img

/-- The numbers of the four register-source fields of an engine's template (R242, R274, R314). -/
def rsFields : Cls → List Nat
  | .matrix => [34, 35, 36, 37]
  | .copy => [20, 21, 22, 23]
  | .prism => [30, 31, 32, 33]
  | _ => []

/-- The lowest and highest field number that a register source may name (R243, R274, R314). -/
def rsRange : Cls → Nat × Nat
  | .matrix => (2, 33)
  | .copy => (2, 19)
  | _ => (2, 29)

/-- Whether a 16-bit constant patch value is legal for a field: zero-extended fields hold no bit at or above their
width, sign-extended ones are copies of the sign (R53). A field wider than 16 bits takes any value. -/
def patchFits (f : FieldSpec) (v : Nat) : Bool :=
  if f.width ≥ 16 then true
  else if f.signed then (v < 2 ^ (f.width - 1)) || (2 ^ 16 - 2 ^ (f.width - 1) ≤ v)
  else v < 2 ^ f.width

/-- The full-width value of a constant patch (R53). -/
def patchValue (f : FieldSpec) (v : Nat) : Nat :=
  if f.signed && decide (2 ^ 15 ≤ v) then (v + (2 ^ 64 - 2 ^ 16)) % 2 ^ f.width else v % 2 ^ f.width

/-- Whether the patch of a P-form word obeys R52 and R53. -/
def patchLegal (c : Cls) (fsel : Nat) (value : Nat) : Bool :=
  if fsel = 0 then value == 0
  else if fsel ≤ 47 then
    match patchField c fsel with
    | some f => patchFits f value
    | none => false
  else if fsel = 63 then
    value / 2 ^ 14 == 0 && (value / 2 ^ 6) % 4 == 0 && (patchField c (value / 2 ^ 8)).isSome
  else false

/-! The matrix template's fields by name (R242). -/

def mxOp (t : TplImage) : Nat := imgField t 58 6
def mxDone (t : TplImage) : Nat := imgField t 52 6
def mxFmtsel (t : TplImage) : Nat := imgField t 51 1
def mxFmt (t : TplImage) : Nat := imgField t 47 4
def mxMode (t : TplImage) : Nat := imgField t 46 1
def mxAsrc (t : TplImage) : Nat := imgField t 44 2
def mxDsat (t : TplImage) : Nat := imgField t 43 1
def mxDrm (t : TplImage) : Nat := imgField t 40 3
def mxDtype (t : TplImage) : Nat := imgField t 38 2
def mxZbm (t : TplImage) : Nat := imgField t 37 1
def mxBpre (t : TplImage) : Nat := imgField t 36 1
def mxClr (t : TplImage) : Nat := imgField t 35 1
def mxM (t : TplImage) : Nat := imgField t 16 16
def mxN (t : TplImage) : Nat := imgField t 0 16
def mxK (t : TplImage) : Nat := imgField t 112 16
def mxNg (t : TplImage) : Nat := imgField t 100 12
def mxFval (t : TplImage) : Nat := imgField t 80 20
def mxBsstr (t : TplImage) : Nat := imgField t 64 16
def mxAstr (t : TplImage) : Nat := imgField t 176 16
def mxBstr (t : TplImage) : Nat := imgField t 160 16
def mxCstr (t : TplImage) : Nat := imgField t 144 16
def mxDstr (t : TplImage) : Nat := imgField t 128 16
def mxAof (t : TplImage) : Nat := imgField t 236 20
def mxBof (t : TplImage) : Nat := imgField t 216 20
def mxCof (t : TplImage) : Nat := imgField t 196 20
def mxDof (t : TplImage) : Nat := imgField t 300 20
def mxBscl (t : TplImage) : Nat := imgField t 280 20
def mxRof (t : TplImage) : Nat := imgField t 260 20
def mxTsa (t : TplImage) : Nat := imgField t 352 32
def mxTsb (t : TplImage) : Nat := imgField t 320 32
def mxApof (t : TplImage) : Nat := imgField t 428 20
def mxBpof (t : TplImage) : Nat := imgField t 408 20
def mxBgstr (t : TplImage) : Nat := imgField t 388 20
def mxRs0 (t : TplImage) : Nat := imgField t 496 16
def mxRs1 (t : TplImage) : Nat := imgField t 480 16
def mxRs2 (t : TplImage) : Nat := imgField t 464 16
def mxRs3 (t : TplImage) : Nat := imgField t 448 16

/-! The copy template's fields by name (R274). -/

def cpOp (t : TplImage) : Nat := imgField t 58 6
def cpDone (t : TplImage) : Nat := imgField t 52 6
def cpRec (t : TplImage) : Nat := imgField t 48 4
def cpCls (t : TplImage) : Nat := imgField t 44 4
def cpRcls (t : TplImage) : Nat := imgField t 43 1
def cpPort (t : TplImage) : Nat := imgField t 37 6
def cpFtpl (t : TplImage) : Nat := imgField t 31 6
def cpIxd (t : TplImage) : Nat := imgField t 28 3
def cpNidx (t : TplImage) : Nat := imgField t 12 16
def cpDst (t : TplImage) : Nat := imgField t 108 20
def cpDst2 (t : TplImage) : Nat := imgField t 88 20
def cpIxof (t : TplImage) : Nat := imgField t 68 20
def cpAddr (t : TplImage) : Nat := imgField t 128 64
def cpBar (t : TplImage) : Nat := imgField t 192 64
def cpO0 (t : TplImage) : Nat := imgField t 288 32
def cpO1 (t : TplImage) : Nat := imgField t 256 32
def cpO2 (t : TplImage) : Nat := imgField t 352 32
def cpO3 (t : TplImage) : Nat := imgField t 320 32
def cpO4 (t : TplImage) : Nat := imgField t 416 32
def cpRs0 (t : TplImage) : Nat := imgField t 496 16
def cpRs1 (t : TplImage) : Nat := imgField t 480 16
def cpRs2 (t : TplImage) : Nat := imgField t 464 16
def cpRs3 (t : TplImage) : Nat := imgField t 448 16

/-! The Prism template's fields by name (R314). -/

def xeOp (t : TplImage) : Nat := imgField t 58 6
def xeDone (t : TplImage) : Nat := imgField t 52 6
def xeCls (t : TplImage) : Nat := imgField t 48 4
def xeChan (t : TplImage) : Nat := imgField t 42 6
def xeDir (t : TplImage) : Nat := imgField t 41 1
def xeBq (t : TplImage) : Nat := imgField t 40 1
def xeBsid (t : TplImage) : Nat := imgField t 36 4
def xeKind (t : TplImage) : Nat := imgField t 34 2
def xeEtype (t : TplImage) : Nat := imgField t 30 4
def xeSel (t : TplImage) : Nat := imgField t 26 4
def xeGtag (t : TplImage) : Nat := imgField t 18 8
def xeSeq (t : TplImage) : Nat := imgField t 112 16
def xeTag (t : TplImage) : Nat := imgField t 96 16
def xeMe (t : TplImage) : Nat := imgField t 90 6
def xeNpeer (t : TplImage) : Nat := imgField t 83 7
def xeK (t : TplImage) : Nat := imgField t 79 4
def xeT (t : TplImage) : Nat := imgField t 168 24
def xeCap (t : TplImage) : Nat := imgField t 144 24
def xeE (t : TplImage) : Nat := imgField t 131 13
def xeLa (t : TplImage) : Nat := imgField t 236 20
def xeLb (t : TplImage) : Nat := imgField t 216 20
def xeLc (t : TplImage) : Nat := imgField t 196 20
def xeLd (t : TplImage) : Nat := imgField t 300 20
def xeLe (t : TplImage) : Nat := imgField t 280 20
def xeLf (t : TplImage) : Nat := imgField t 260 20
def xeGa (t : TplImage) : Nat := imgField t 320 64
def xeN (t : TplImage) : Nat := imgField t 416 32
def xePnode (t : TplImage) : Nat := imgField t 400 16
def xePchan (t : TplImage) : Nat := imgField t 394 6
def xeRs0 (t : TplImage) : Nat := imgField t 496 16
def xeRs1 (t : TplImage) : Nat := imgField t 480 16
def xeRs2 (t : TplImage) : Nat := imgField t 464 16
def xeRs3 (t : TplImage) : Nat := imgField t 448 16

/-! The layout record's fields (R270). -/

def recBase (r : RecImage) : Nat := imgField r 0 64
def recEtype (r : RecImage) : Nat := imgField r 124 4
def recNdim (r : RecImage) : Nat := imgField r 121 3
def recSwz (r : RecImage) : Nat := imgField r 119 2
def recLgr (r : RecImage) : Nat := imgField r 118 1
def recBkst (r : RecImage) : Nat := imgField r 104 8
def recBkstep (r : RecImage) : Nat := imgField r 96 8
def recFill (r : RecImage) : Nat := imgField r 64 32
def recSize (r : RecImage) (d : Nat) : Nat := imgField r (128 + 128 * d + 32) 32
def recBox (r : RecImage) (d : Nat) : Nat := imgField r (128 + 128 * d + 16) 16
def recStride (r : RecImage) (d : Nat) : Int := (BitVec.ofNat 48 (imgField r (192 + 128 * d + 16) 48)).toInt

/-- The record's reserved fields: number, lowest bit, width (R270). -/
def recReserved : List (Nat × Nat × Nat) :=
  [(24, 112, 6), (25, 128, 16), (26, 256, 16), (27, 384, 16), (28, 512, 16), (29, 640, 16),
   (30, 192, 16), (31, 320, 16), (32, 448, 16), (33, 576, 16), (34, 704, 16)]

end Sys2Proof.Machine
end

