-- ==== Sys2Proof/WellFormed.lean ====
section
/-! DEFINITION. Which terms of Instr are instructions of the GN9: every operand within the limits that its encoding
table gives (R53, R55, R57, R58, R59, R225, R298, R333, R349, R382). -/

namespace Sys2Proof

/-- A special register that CSRW may name (R59). -/
def Csr.writable : Csr → Bool
  | .lc0 | .li0 | .sk0 | .lc1 | .li1 | .bsc | .tvb | .tcause | .tval | .tpc | .vtype | .vwin => true
  | .pc | .lwb | .cwb | .gid | .tid | .sid | .tag | .grp | .tsc => false

/-- An order that a word with only relaxed and acquire forms takes. -/
def Order.rlxAcq : Order → Bool
  | .rlx | .acq => true
  | .rel | .ar => false

/-- An order that a word with only relaxed and release forms takes. -/
def Order.rlxRel : Order → Bool
  | .rlx | .rel => true
  | .acq | .ar => false

/-- An order under which a word acquires (R151). -/
def Order.acquires : Order → Bool
  | .acq | .ar => true
  | .rlx | .rel => false

/-- A completion register of a stash or line word: x0 to x59 (R332, R349). -/
def doneReg (xd : RegNo) : Bool := xd.toNat ≤ 59

/-- The first register of a reply triple: x0 or x1 to x57 (R349). -/
def tripleReg (xd : RegNo) : Bool := xd.toNat ≤ 57

/-- A reply register of an atomic read-modify-write word: x0 only without an acquire (R298). -/
def replyReg (o : Order) (xd : RegNo) : Bool := !o.acquires || xd != 0#6

/-- Well-formedness of an instruction. An event is well formed whatever its operands. -/
def wellFormed : Instr → Bool
  | .loopS _ k _ off => 1 ≤ k.toNat && k.toNat ≤ 7 && 1 ≤ off.toInt
  | .loopO _ _ off => 1 ≤ off.toInt
  | .csrw r _ _ => r.writable
  | .ldNatural _ _ _ _ size => size != 3#2
  | .vcvt _ _ _ _ _ rm _ => rm.toNat ≤ 4
  | .vtopk vd _ _ _ => vd != 63#6
  | .mma _ f v | .mmag _ f v | .mwld _ f v | .mdrain _ f v | .mzero _ f v | .mfmt _ f v | .mstat _ f v
  | .mfence _ f v => Machine.patchLegal .matrix f.toNat v.toNat
  | .cpyIn _ f v | .cpyOut _ f v | .cpyGather _ f v | .cpyScat _ f v | .cpyRing _ f v | .cpyT _ f v
  | .cpyFollow _ f v | .cpyBar _ f v | .cpyFill _ f v | .lrec _ f v | .cpyStat _ f v =>
    Machine.patchLegal .copy f.toNat v.toNat
  | .xsort _ f v | .xa2a _ f v | .xchOpen _ f v | .xchWin _ f v | .xchSend _ f v | .xchRecv _ f v
  | .xchClose _ f v | .xringRs _ f v | .xringAg _ f v | .xstat _ f v =>
    Machine.patchLegal .prism f.toNat v.toNat
  | .ald o _ xd _ => o.rlxAcq && replyReg o xd
  | .ast o _ _ _ | .abinit o _ _ _ | .abexp o _ _ _ | .asemp o _ _ _ => o.rlxRel
  | .aswp o _ xd _ _ | .aadd o _ xd _ _ | .aand o _ xd _ _ | .aor o _ xd _ _ | .axor o _ xd _ _
  | .amin o _ xd _ _ | .amax o _ xd _ _ | .aminn o _ xd _ _ | .amaxn o _ xd _ _ | .afadd o _ xd _ _
  | .acas o _ xd _ _ | .acasFa o _ xd _ _ => replyReg o xd
  | .abarr o _ xd _ => replyReg o xd
  | .abwait o _ xd _ _ | .asemw o _ xd _ _ => o.rlxAcq && xd != 0#6
  | .sst o _ xd _ _ | .sstT o _ xd _ _ | .spol o _ xd _ _ => o.rlxRel && doneReg xd
  | .srel o _ xd _ => o.rlxRel && doneReg xd
  | .spf o _ xd _ _ => o.rlxAcq && doneReg xd && xd != 0#6
  | .sqry o _ xd _ => o.rlxAcq && doneReg xd && xd != 0#6
  | .lexp _ xd _ _ | .lopt _ xd _ _ => doneReg xd
  | .lred o _ xd _ _ => o.rlxRel && doneReg xd
  | .lqry o _ xd _ => o.rlxAcq && doneReg xd
  | .nlook _ xd _ _ => tripleReg xd
  | .nref _ xd _ | .nhas _ xd _ => doneReg xd
  | .nrel o _ xd _ => o.rlxRel && doneReg xd
  | .nswap o _ xd _ _ => (o == .rel || o == .ar) && tripleReg xd
  | .nget o _ xd _ _ => o.rlxAcq && tripleReg xd
  | .nout _ xd _ _ => doneReg xd
  | .nxfer o _ xd _ _ => o.rlxRel && doneReg xd
  | .post o _ _ _ | .gbind o _ _ _ _ | .grebind o _ _ _ _ => o.rlxRel
  | .fencew o _ _ => o.rlxRel
  | _ => true

end Sys2Proof
end

