-- ==== Sys2Proof/Decode.lean ====
section
/-! DEFINITION. The decoder of a 32-bit word, total and rejecting by name, and the encoder of a well-formed
instruction, both from the encoding tables of R51 to R60 and of the engines' chapters. -/

namespace Sys2Proof

/-- Why a word is no instruction. All but engineOp are the illegal-word trap (R49); engineOp is the reserved-field
fault (R53). -/
inductive Reject where
  /-- The class is 0x6 or 0x7 (R50). -/
  | unassignedClass
  /-- The opcode is not assigned. -/
  | opcode
  /-- A modifier value that the opcode does not take (R54): the instruction with another modifier. -/
  | modifier (i : Instr)
  /-- A must-be-zero or unused field is not zero, or a fixed bit is wrong: the instruction that the other fields name. -/
  | mbz (i : Instr)
  /-- An operand of the instruction lies outside its limits. -/
  | limit (i : Instr)
  /-- A scope code from 10 to 15 (R21): the instruction with another scope. -/
  | scope (i : Instr)
  /-- A special register number that names none (R59): the instruction with another register. -/
  | csr (i : Instr)
  /-- A template store that does not exist (R58): the instruction with another store. -/
  | store (i : Instr)
  /-- A patch that breaks R53. -/
  | patch
  /-- The formed command's op is not assigned (R53). -/
  | engineOp
  deriving DecidableEq, Repr, Inhabited

/-- The instruction whose fields a refused word gives, where its opcode names one. -/
def Reject.instr : Reject → Option Instr
  | .modifier i | .mbz i | .limit i | .scope i | .csr i | .store i => some i
  | .unassignedClass | .opcode | .patch | .engineOp => none

/-- A word whose field names nothing is refused, with the instruction that another value of the field gives. -/
def refuseField (r : Instr → Reject) : Except Reject Instr → Except Reject Instr
  | .ok i => .error (r i)
  | .error e => .error e

/-- Field of n bits from bit lo of a word. -/
def fld (w : IWord) (lo n : Nat) : Nat := w.toNat / 2 ^ lo % 2 ^ n

/-- The same as a bit vector. -/
def bits (w : IWord) (lo n : Nat) : BitVec n := BitVec.ofNat n (fld w lo n)

/-- A register field. -/
def reg (w : IWord) (lo : Nat) : RegNo := BitVec.ofNat 6 (fld w lo 6)

/-- One bit. -/
def bit (w : IWord) (lo : Nat) : Bool := fld w lo 1 == 1

/-- The fixed fields of a form: lowest bit, width and value of each. -/
def take (w : IWord) (fixed : List (Nat × Nat × Nat)) (i : Instr) : Except Reject Instr :=
  if fixed.all (fun x => fld w x.1 x.2.1 == x.2.2) then .ok i else .error (.mbz i)

/-- Scope codes (R21). -/
def scopeOf : Nat → Option Scope
  | 0 => some .ctx | 1 => some .core | 2 => some .gang | 3 => some .cluster | 4 => some .die | 5 => some .part
  | 6 => some .pkg | 7 => some .ring | 8 => some .domain | 9 => some .host | _ => none

/-- The code of a scope (R21). -/
def Scope.code : Scope → Nat
  | .ctx => 0 | .core => 1 | .gang => 2 | .cluster => 3 | .die => 4 | .part => 5 | .pkg => 6 | .ring => 7
  | .domain => 8 | .host => 9

/-- The code of an order (R297). -/
def Order.code : Order → Nat
  | .rlx => 0 | .acq => 1 | .rel => 2 | .ar => 3

/-- The order with a code. -/
def orderOf : Nat → Order
  | 0 => .rlx | 1 => .acq | 2 => .rel | _ => .ar

/-- The order field of an E-form word, bits 22 and 21 (R297, R331, R349). -/
def ordAt (w : IWord) : Order := orderOf (fld w 21 2)

/-- The number of a special register (R59). -/
def Csr.code : Csr → Nat
  | .pc => 0 | .lc0 => 1 | .li0 => 2 | .sk0 => 3 | .lc1 => 4 | .li1 => 5 | .bsc => 6 | .lwb => 7 | .cwb => 8
  | .tvb => 9 | .tcause => 10 | .tval => 11 | .tpc => 12 | .vtype => 13 | .vwin => 14 | .gid => 15 | .tid => 16
  | .sid => 17 | .tag => 18 | .grp => 19 | .tsc => 20

/-- The special register with a number (R59). -/
def csrOf : Nat → Option Csr
  | 0 => some .pc | 1 => some .lc0 | 2 => some .li0 | 3 => some .sk0 | 4 => some .lc1 | 5 => some .li1
  | 6 => some .bsc | 7 => some .lwb | 8 => some .cwb | 9 => some .tvb | 10 => some .tcause | 11 => some .tval
  | 12 => some .tpc | 13 => some .vtype | 14 => some .vwin | 15 => some .gid | 16 => some .tid | 17 => some .sid
  | 18 => some .tag | 19 => some .grp | 20 => some .tsc | _ => none

/-- The code of a template store (R58). -/
def TplEng.code : TplEng → Nat
  | .mx => 0 | .cp => 1 | .xe => 2

/-- The template store with a code (R58). -/
def engOf : Nat → Option TplEng
  | 0 => some .mx | 1 => some .cp | 2 => some .xe | _ => none

/-- The code of a side in PSHV (R58). -/
def Side.code : Side → Nat
  | .left => 0 | .right => 1

/-- A word with a scope field at bit lo. -/
def withScope (w : IWord) (lo : Nat) (k : Scope → Except Reject Instr) : Except Reject Instr :=
  match scopeOf (fld w lo 4) with
  | some s => k s
  | none => refuseField .scope (k .ctx)

/-- A word with a special-register number in its low six bits. -/
def withCsr (w : IWord) (k : Csr → Except Reject Instr) : Except Reject Instr :=
  match csrOf (fld w 0 6) with
  | some r => k r
  | none => refuseField .csr (k .pc)

/-- A word with a template-store code in its low two bits. -/
def withEng (w : IWord) (k : TplEng → Except Reject Instr) : Except Reject Instr :=
  match engOf (fld w 0 2) with
  | some e => k e
  | none => refuseField .store (k .mx)

/-- A form, class 0x0 (R51, R54). -/
def decodeA (w : IWord) : Except Reject Instr :=
  match fld w 22 6 with
  | 0 => take w [(0, 2, 0)] (.add (reg w 16) (reg w 10) (reg w 4) (bit w 3) (bit w 2))
  | 1 => take w [(0, 2, 0)] (.sub (reg w 16) (reg w 10) (reg w 4) (bit w 3) (bit w 2))
  | 2 => take w [(0, 2, 0)] (.mul (reg w 16) (reg w 10) (reg w 4) (bit w 3) (bit w 2))
  | 3 => take w [(0, 2, 0)] (.mulh (reg w 16) (reg w 10) (reg w 4) (bit w 3) (bit w 2))
  | 4 => take w [(0, 2, 0)] (.mulhn (reg w 16) (reg w 10) (reg w 4) (bit w 3) (bit w 2))
  | 5 => take w [(0, 2, 0)] (.div (reg w 16) (reg w 10) (reg w 4) (bit w 3) (bit w 2))
  | 6 => take w [(0, 2, 0)] (.divn (reg w 16) (reg w 10) (reg w 4) (bit w 3) (bit w 2))
  | 7 => take w [(0, 2, 0)] (.rem (reg w 16) (reg w 10) (reg w 4) (bit w 3) (bit w 2))
  | 8 => take w [(0, 2, 0)] (.remn (reg w 16) (reg w 10) (reg w 4) (bit w 3) (bit w 2))
  | 9 => take w [(0, 2, 0)] (.and (reg w 16) (reg w 10) (reg w 4) (bit w 3) (bit w 2))
  | 10 => take w [(0, 2, 0)] (.or (reg w 16) (reg w 10) (reg w 4) (bit w 3) (bit w 2))
  | 11 => take w [(0, 2, 0)] (.xor (reg w 16) (reg w 10) (reg w 4) (bit w 3) (bit w 2))
  | 12 => take w [(0, 2, 0)] (.andn (reg w 16) (reg w 10) (reg w 4) (bit w 3) (bit w 2))
  | 13 => take w [(0, 2, 0)] (.orn (reg w 16) (reg w 10) (reg w 4) (bit w 3) (bit w 2))
  | 14 => take w [(0, 2, 0)] (.shl (reg w 16) (reg w 10) (reg w 4) (bit w 3) (bit w 2))
  | 15 => take w [(0, 2, 0)] (.shr (reg w 16) (reg w 10) (reg w 4) (bit w 3) (bit w 2))
  | 16 => take w [(0, 2, 0)] (.sra (reg w 16) (reg w 10) (reg w 4) (bit w 3) (bit w 2))
  | 17 => take w [(0, 2, 0)] (.rol (reg w 16) (reg w 10) (reg w 4) (bit w 3) (bit w 2))
  | 18 => take w [(0, 2, 0)] (.ror (reg w 16) (reg w 10) (reg w 4) (bit w 3) (bit w 2))
  | 19 => take w [(0, 2, 0)] (.min (reg w 16) (reg w 10) (reg w 4) (bit w 3) (bit w 2))
  | 20 => take w [(0, 2, 0)] (.max (reg w 16) (reg w 10) (reg w 4) (bit w 3) (bit w 2))
  | 21 => take w [(0, 2, 0)] (.minn (reg w 16) (reg w 10) (reg w 4) (bit w 3) (bit w 2))
  | 22 => take w [(0, 2, 0)] (.maxn (reg w 16) (reg w 10) (reg w 4) (bit w 3) (bit w 2))
  | 23 => take w [(4, 6, 0), (0, 3, 0)] (.clz (reg w 16) (reg w 10) (bit w 3))
  | 24 => take w [(4, 6, 0), (0, 3, 0)] (.ctz (reg w 16) (reg w 10) (bit w 3))
  | 25 => take w [(4, 6, 0), (0, 3, 0)] (.popc (reg w 16) (reg w 10) (bit w 3))
  | 26 => take w [(4, 6, 0), (0, 3, 0)] (.brev (reg w 16) (reg w 10) (bit w 3))
  | 27 => take w [(4, 6, 0), (0, 3, 0)] (.bswap (reg w 16) (reg w 10) (bit w 3))
  | 28 => take w [(0, 2, 0)] (.clmul (reg w 16) (reg w 10) (reg w 4) (bit w 3) (bit w 2))
  | 29 => take w [(0, 2, 0)] (.clmulh (reg w 16) (reg w 10) (reg w 4) (bit w 3) (bit w 2))
  | 30 =>
    match fld w 0 2 with
    | 0 => .ok (.ext (reg w 16) (reg w 10) (reg w 4) (bit w 3) (bit w 2))
    | 1 => .ok (.extn (reg w 16) (reg w 10) (reg w 4) (bit w 3) (bit w 2))
    | _ => .error (.modifier (.ext (reg w 16) (reg w 10) (reg w 4) (bit w 3) (bit w 2)))
  | 31 => take w [(0, 2, 0)] (.ins (reg w 16) (reg w 10) (reg w 4) (bit w 3) (bit w 2))
  | 32 => .ok (.shladd (reg w 16) (reg w 10) (reg w 4) (bit w 3) (bit w 2) (bits w 0 2))
  | 33 => take w [(0, 2, 0)] (.slt (reg w 16) (reg w 10) (reg w 4) (bit w 3) (bit w 2))
  | 34 => take w [(0, 2, 0)] (.sltn (reg w 16) (reg w 10) (reg w 4) (bit w 3) (bit w 2))
  | 35 =>
    match fld w 0 2 with
    | 0 => take w [(19, 3, 1)] (.cmppEq (bits w 16 3) (reg w 10) (reg w 4) (bit w 3) (bit w 2))
    | 1 => take w [(19, 3, 1)] (.cmppNe (bits w 16 3) (reg w 10) (reg w 4) (bit w 3) (bit w 2))
    | 2 => take w [(19, 3, 1)] (.cmppLt (bits w 16 3) (reg w 10) (reg w 4) (bit w 3) (bit w 2))
    | 3 => take w [(19, 3, 1)] (.cmppGe (bits w 16 3) (reg w 10) (reg w 4) (bit w 3) (bit w 2))
    | _ => .error (.modifier (.cmppEq (bits w 16 3) (reg w 10) (reg w 4) (bit w 3) (bit w 2)))
  | 36 =>
    match fld w 0 2 with
    | 0 => take w [(19, 3, 1)] (.cmppLtn (bits w 16 3) (reg w 10) (reg w 4) (bit w 3) (bit w 2))
    | 1 => take w [(19, 3, 1)] (.cmppGen (bits w 16 3) (reg w 10) (reg w 4) (bit w 3) (bit w 2))
    | _ => .error (.modifier (.cmppLtn (bits w 16 3) (reg w 10) (reg w 4) (bit w 3) (bit w 2)))
  | 37 => .ok (.selP8P11 (reg w 16) (reg w 10) (reg w 4) (bit w 3) (bit w 2) (bits w 0 2))
  | 38 => .ok (.selP12P15 (reg w 16) (reg w 10) (reg w 4) (bit w 3) (bit w 2) (bits w 0 2))
  | 39 => take w [(4, 6, 0), (0, 3, 0)] (.aconv (reg w 16) (reg w 10) (bit w 3))
  | 40 => take w [(0, 2, 0)] (.agen (reg w 16) (reg w 10) (reg w 4) (bit w 3) (bit w 2))
  | 41 => take w [(4, 6, 0), (0, 3, 0)] (.atest (reg w 16) (reg w 10) (bit w 3))
  | _ => .error .opcode

/-- I form, class 0x1 (R51, R55). -/
def decodeI (w : IWord) : Except Reject Instr :=
  match fld w 22 6 with
  | 0 => .ok (.addi (reg w 16) (reg w 10) (bit w 9) (bits w 0 9))
  | 1 => .ok (.andi (reg w 16) (reg w 10) (bit w 9) (bits w 0 9))
  | 2 => .ok (.ori (reg w 16) (reg w 10) (bit w 9) (bits w 0 9))
  | 3 => .ok (.xori (reg w 16) (reg w 10) (bit w 9) (bits w 0 9))
  | 4 => take w [(6, 3, 0)] (.shli (reg w 16) (reg w 10) (bit w 9) (bits w 0 6))
  | 5 => take w [(6, 3, 0)] (.shri (reg w 16) (reg w 10) (bit w 9) (bits w 0 6))
  | 6 => take w [(6, 3, 0)] (.srai (reg w 16) (reg w 10) (bit w 9) (bits w 0 6))
  | 7 => take w [(6, 3, 0)] (.roli (reg w 16) (reg w 10) (bit w 9) (bits w 0 6))
  | 8 => take w [(6, 3, 0)] (.rori (reg w 16) (reg w 10) (bit w 9) (bits w 0 6))
  | 9 => .ok (.slti (reg w 16) (reg w 10) (bit w 9) (bits w 0 9))
  | 10 => .ok (.sltni (reg w 16) (reg w 10) (bit w 9) (bits w 0 9))
  | 11 => .ok (.muli (reg w 16) (reg w 10) (bit w 9) (bits w 0 9))
  | 16 => take w [(19, 3, 1)] (.cmppiEq (bits w 16 3) (reg w 10) (bit w 9) (bits w 0 9))
  | 17 => take w [(19, 3, 1)] (.cmppiNe (bits w 16 3) (reg w 10) (bit w 9) (bits w 0 9))
  | 18 => take w [(19, 3, 1)] (.cmppiLt (bits w 16 3) (reg w 10) (bit w 9) (bits w 0 9))
  | 19 => take w [(19, 3, 1)] (.cmppiGe (bits w 16 3) (reg w 10) (bit w 9) (bits w 0 9))
  | 20 => take w [(19, 3, 1)] (.cmppiLtn (bits w 16 3) (reg w 10) (bit w 9) (bits w 0 9))
  | 21 => take w [(19, 3, 1)] (.cmppiGen (bits w 16 3) (reg w 10) (bit w 9) (bits w 0 9))
  | _ => .error .opcode

/-- M form, class 0x2 (R51, R56). -/
def decodeM (w : IWord) : Except Reject Instr :=
  match fld w 27 1 with
  | 0 => .ok (.ld (bits w 25 2) (bits w 21 4) (reg w 15) (reg w 9) (bit w 8) (bits w 0 8))
  | 1 => .ok (.st (bits w 25 2) (bits w 21 4) (reg w 15) (reg w 9) (bit w 8) (bits w 0 8))
  | _ => .error .opcode

/-- B form, class 0x3 (R51, R57). -/
def decodeB (w : IWord) : Except Reject Instr :=
  match fld w 24 4 with
  | 0 => .ok (.beq (reg w 18) (reg w 12) (bit w 11) (bit w 10) (bits w 0 10))
  | 1 => .ok (.bne (reg w 18) (reg w 12) (bit w 11) (bit w 10) (bits w 0 10))
  | 2 => .ok (.blt (reg w 18) (reg w 12) (bit w 11) (bit w 10) (bits w 0 10))
  | 3 => .ok (.bge (reg w 18) (reg w 12) (bit w 11) (bit w 10) (bits w 0 10))
  | 4 => .ok (.bltn (reg w 18) (reg w 12) (bit w 11) (bit w 10) (bits w 0 10))
  | 5 => .ok (.bgen (reg w 18) (reg w 12) (bit w 11) (bit w 10) (bits w 0 10))
  | 6 => take w [(23, 1, 0), (10, 8, 0)] (.bp (bit w 22) (bits w 18 4) (bits w 0 10))
  | 7 => take w [(10, 14, 0)] (.j (bits w 0 10))
  | 8 => take w [(10, 14, 0)] (.jl (bits w 0 10))
  | 9 => take w [(12, 6, 0), (0, 11, 0)] (.jr (reg w 18) (bit w 11))
  | 10 => take w [(10, 1, 0)] (.loopS (reg w 18) (bits w 12 6) (bit w 11) (bits w 0 10))
  | 11 => take w [(12, 6, 0), (10, 1, 0)] (.loopO (reg w 18) (bit w 11) (bits w 0 10))
  | _ => .error .opcode

/-- S form, class 0x4 (R51, R58). -/
def decodeS (w : IWord) : Except Reject Instr :=
  match fld w 22 6 with
  | 0 => take w [(16, 6, 0), (1, 8, 0)] (.pshv (reg w 10) (bit w 9) (if bit w 0 then .right else .left))
  | 1 => take w [(0, 16, 0)] (.tokst (reg w 16))
  | 2 => take w [(16, 6, 0), (2, 7, 0)] (.sbind (reg w 10) (bit w 9) (bits w 0 2))
  | 3 => withScope w 2 (fun sc => take w [(0, 2, 0)] (.fence (bits w 6 16) sc))
  | 4 => take w [(0, 22, 0)] (.csync)
  | 5 => take w [(0, 22, 0)] (.qpoint)
  | 6 => take w [(0, 16, 0)] (.tsc (reg w 16))
  | 7 => withCsr w (fun r => take w [(6, 10, 0)] (.csrr (reg w 16) r))
  | 8 => withCsr w (fun r => take w [(16, 6, 0), (6, 3, 0)] (.csrw r (reg w 10) (bit w 9)))
  | 9 => take w [(8, 14, 0)] (.trap (bits w 0 8))
  | 10 => take w [(0, 22, 0)] (.eret)
  | 11 => withEng w (fun e => take w [(2, 7, 0)] (.tplLd (bits w 16 6) (reg w 10) (bit w 9) e))
  | 12 => take w [(0, 22, 0)] (.tend)
  | 13 => take w [(0, 3, 0)] (.ldNatural (reg w 16) (reg w 10) (bit w 9) (bits w 5 4) (bits w 3 2))
  | 14 => take w [(5, 4, 0), (0, 3, 0)] (.ldc (reg w 16) (reg w 10) (bit w 9) (bits w 3 2))
  | _ => .error .opcode

/-- W form, class 0x5 (R51, R60). -/
def decodeW (w : IWord) : Except Reject Instr :=
  match fld w 3 1 with
  | 0 => take w [(0, 3, 0)] (.wld (reg w 22) (bits w 20 2) (bits w 4 16))
  | 1 => take w [(0, 3, 0)] (.wins (reg w 22) (bits w 20 2) (bits w 4 16))
  | _ => .error .opcode

/-- V form, class 0x8 (R52, R225). -/
def decodeV (w : IWord) : Except Reject Instr :=
  match fld w 20 7 with
  | 0 => .ok (.vadd (bit w 27) (reg w 14) (reg w 8) (reg w 2) (bits w 0 2))
  | 1 => .ok (.vsub (bit w 27) (reg w 14) (reg w 8) (reg w 2) (bits w 0 2))
  | 2 => .ok (.vmul (bit w 27) (reg w 14) (reg w 8) (reg w 2) (bits w 0 2))
  | 3 => .ok (.vfma (bit w 27) (reg w 14) (reg w 8) (reg w 2) (bits w 0 2))
  | 4 => .ok (.vfnma (bit w 27) (reg w 14) (reg w 8) (reg w 2) (bits w 0 2))
  | 5 => .ok (.vmin (bit w 27) (reg w 14) (reg w 8) (reg w 2) (bits w 0 2))
  | 6 => .ok (.vmax (bit w 27) (reg w 14) (reg w 8) (reg w 2) (bits w 0 2))
  | 7 => .ok (.vminn (bit w 27) (reg w 14) (reg w 8) (reg w 2) (bits w 0 2))
  | 8 => .ok (.vmaxn (bit w 27) (reg w 14) (reg w 8) (reg w 2) (bits w 0 2))
  | 9 => take w [(27, 1, 0), (2, 6, 0)] (.vabs (reg w 14) (reg w 8) (bits w 0 2))
  | 10 => take w [(27, 1, 0), (2, 6, 0)] (.vneg (reg w 14) (reg w 8) (bits w 0 2))
  | 11 => .ok (.vand (bit w 27) (reg w 14) (reg w 8) (reg w 2) (bits w 0 2))
  | 12 => .ok (.vor (bit w 27) (reg w 14) (reg w 8) (reg w 2) (bits w 0 2))
  | 13 => .ok (.vxor (bit w 27) (reg w 14) (reg w 8) (reg w 2) (bits w 0 2))
  | 14 => .ok (.vandn (bit w 27) (reg w 14) (reg w 8) (reg w 2) (bits w 0 2))
  | 15 => .ok (.vshl (bit w 27) (reg w 14) (reg w 8) (reg w 2) (bits w 0 2))
  | 16 => .ok (.vshr (bit w 27) (reg w 14) (reg w 8) (reg w 2) (bits w 0 2))
  | 17 => .ok (.vsra (bit w 27) (reg w 14) (reg w 8) (reg w 2) (bits w 0 2))
  | 18 => take w [(27, 1, 0), (2, 6, 0)] (.vexp2 (reg w 14) (reg w 8) (bits w 0 2))
  | 19 => take w [(27, 1, 0), (2, 6, 0)] (.vlog2 (reg w 14) (reg w 8) (bits w 0 2))
  | 20 => take w [(27, 1, 0), (2, 6, 0)] (.vrecip (reg w 14) (reg w 8) (bits w 0 2))
  | 21 => take w [(27, 1, 0), (2, 6, 0)] (.vrsq (reg w 14) (reg w 8) (bits w 0 2))
  | 22 => take w [(17, 3, 0)] (.vcmpEq (bit w 27) (bits w 14 3) (reg w 8) (reg w 2) (bits w 0 2))
  | 23 => take w [(17, 3, 0)] (.vcmpNe (bit w 27) (bits w 14 3) (reg w 8) (reg w 2) (bits w 0 2))
  | 24 => take w [(17, 3, 0)] (.vcmpLt (bit w 27) (bits w 14 3) (reg w 8) (reg w 2) (bits w 0 2))
  | 25 => take w [(17, 3, 0)] (.vcmpGe (bit w 27) (bits w 14 3) (reg w 8) (reg w 2) (bits w 0 2))
  | 26 => take w [(17, 3, 0)] (.vcmpLtn (bit w 27) (bits w 14 3) (reg w 8) (reg w 2) (bits w 0 2))
  | 27 => take w [(17, 3, 0)] (.vcmpGen (bit w 27) (bits w 14 3) (reg w 8) (reg w 2) (bits w 0 2))
  | 28 => .ok (.vsel (bit w 27) (reg w 14) (reg w 8) (reg w 2) (bits w 0 2))
  | 32 | 33 | 34 | 35 | 36 | 37 | 38 | 39 => take w [(27, 1, 0)] (.vcvt (bits w 20 3) (reg w 14) (reg w 8) (bits w 6 2) (bit w 5) (bits w 2 3) (bits w 0 2))
  | 40 => take w [(27, 1, 1), (8, 6, 0)] (.vrng (reg w 14) (reg w 2) (bits w 0 2))
  | 41 => take w [(27, 1, 1), (8, 12, 0), (0, 2, 0)] (.vkey (reg w 2))
  | 42 => take w [(27, 1, 0), (2, 6, 0)] (.vrsum (reg w 14) (reg w 8) (bits w 0 2))
  | 43 => take w [(27, 1, 0), (2, 6, 0)] (.vrmax (reg w 14) (reg w 8) (bits w 0 2))
  | 44 => take w [(27, 1, 0), (2, 6, 0)] (.vrmin (reg w 14) (reg w 8) (bits w 0 2))
  | 45 => take w [(27, 1, 0), (2, 6, 0)] (.vscan (reg w 14) (reg w 8) (bits w 0 2))
  | 46 => take w [(27, 1, 0), (2, 6, 0)] (.vscanx (reg w 14) (reg w 8) (bits w 0 2))
  | 48 => take w [(27, 1, 1)] (.vtopk (reg w 14) (reg w 8) (reg w 2) (bits w 0 2))
  | 49 => .ok (.vperm (bit w 27) (reg w 14) (reg w 8) (reg w 2) (bits w 0 2))
  | 50 => take w [(27, 1, 1), (8, 6, 0)] (.vbcast (reg w 14) (reg w 2) (bits w 0 2))
  | 51 => take w [(27, 1, 1), (0, 2, 0)] (.vextx (reg w 14) (reg w 8) (reg w 2))
  | 52 => take w [(27, 1, 0), (17, 3, 0), (11, 3, 0), (5, 3, 0), (0, 2, 0)] (.vmand (bits w 14 3) (bits w 8 3) (bits w 2 3))
  | 53 => take w [(27, 1, 0), (17, 3, 0), (11, 3, 0), (5, 3, 0), (0, 2, 0)] (.vmor (bits w 14 3) (bits w 8 3) (bits w 2 3))
  | 54 => take w [(27, 1, 0), (17, 3, 0), (11, 3, 0), (5, 3, 0), (0, 2, 0)] (.vmxor (bits w 14 3) (bits w 8 3) (bits w 2 3))
  | 55 => take w [(27, 1, 0), (17, 3, 0), (11, 3, 0), (5, 3, 0), (0, 2, 0)] (.vmandn (bits w 14 3) (bits w 8 3) (bits w 2 3))
  | 56 => take w [(27, 1, 0), (11, 3, 0), (0, 8, 0)] (.vmpopc (reg w 14) (bits w 8 3))
  | 57 => take w [(27, 1, 0), (11, 3, 0), (4, 4, 0), (0, 2, 0)] (.vmget (reg w 14) (bits w 8 3) (bits w 2 2))
  | 58 => take w [(27, 1, 1), (17, 3, 0), (10, 4, 0), (0, 2, 0)] (.vmset (bits w 14 3) (bits w 8 2) (reg w 2))
  | 59 => take w [(27, 1, 1), (8, 6, 0), (0, 2, 0)] (.vldr (reg w 14) (reg w 2))
  | 60 => take w [(27, 1, 1), (8, 6, 0), (0, 2, 0)] (.vstr (reg w 14) (reg w 2))
  | 61 => take w [(27, 1, 1), (8, 12, 0), (0, 2, 0)] (.vwin (reg w 2))
  | 62 => take w [(27, 1, 1), (14, 6, 0), (0, 2, 0)] (.vwalk (reg w 8) (reg w 2))
  | 63 => take w [(27, 1, 0), (0, 14, 0)] (.vldw (reg w 14))
  | 64 => take w [(27, 1, 0), (0, 20, 0)] (.vfence)
  | _ => .error .opcode

/-- E form of the atomic engine, class 0xB (R297, R298). -/
def decodeAtomic (w : IWord) : Except Reject Instr :=
  match fld w 23 5 with
  | 0 => withScope w 17 (fun sc => take w [(22, 1, 0), (0, 5, 0)] (.ald (ordAt w) sc (reg w 11) (reg w 5)))
  | 1 => withScope w 17 (fun sc => take w [(21, 1, 0), (11, 6, 0)] (.ast (ordAt w) sc (reg w 5) (bits w 0 5)))
  | 2 => withScope w 17 (fun sc => .ok (.aswp (ordAt w) sc (reg w 11) (reg w 5) (bits w 0 5)))
  | 3 => withScope w 17 (fun sc => .ok (.aadd (ordAt w) sc (reg w 11) (reg w 5) (bits w 0 5)))
  | 4 => withScope w 17 (fun sc => .ok (.aand (ordAt w) sc (reg w 11) (reg w 5) (bits w 0 5)))
  | 5 => withScope w 17 (fun sc => .ok (.aor (ordAt w) sc (reg w 11) (reg w 5) (bits w 0 5)))
  | 6 => withScope w 17 (fun sc => .ok (.axor (ordAt w) sc (reg w 11) (reg w 5) (bits w 0 5)))
  | 7 => withScope w 17 (fun sc => .ok (.amin (ordAt w) sc (reg w 11) (reg w 5) (bits w 0 5)))
  | 8 => withScope w 17 (fun sc => .ok (.amax (ordAt w) sc (reg w 11) (reg w 5) (bits w 0 5)))
  | 9 => withScope w 17 (fun sc => .ok (.aminn (ordAt w) sc (reg w 11) (reg w 5) (bits w 0 5)))
  | 10 => withScope w 17 (fun sc => .ok (.amaxn (ordAt w) sc (reg w 11) (reg w 5) (bits w 0 5)))
  | 11 => withScope w 17 (fun sc => .ok (.afadd (ordAt w) sc (reg w 11) (reg w 5) (bits w 0 5)))
  | 12 => withScope w 17 (fun sc => take w [(0, 1, 0)] (.acas (ordAt w) sc (reg w 11) (reg w 5) (bits w 1 4)))
  | 13 => withScope w 17 (fun sc => take w [(0, 1, 0)] (.acasFa (ordAt w) sc (reg w 11) (reg w 5) (bits w 1 4)))
  | 16 => withScope w 17 (fun sc => take w [(21, 1, 0), (11, 6, 0)] (.abinit (ordAt w) sc (reg w 5) (bits w 0 5)))
  | 17 => withScope w 17 (fun sc => take w [(0, 5, 0)] (.abarr (ordAt w) sc (reg w 11) (reg w 5)))
  | 18 => withScope w 17 (fun sc => take w [(21, 1, 0), (11, 6, 0)] (.abexp (ordAt w) sc (reg w 5) (bits w 0 5)))
  | 19 => withScope w 17 (fun sc => take w [(22, 1, 0)] (.abwait (ordAt w) sc (reg w 11) (reg w 5) (bits w 0 5)))
  | 20 => withScope w 17 (fun sc => take w [(21, 1, 0), (11, 6, 0)] (.asemp (ordAt w) sc (reg w 5) (bits w 0 5)))
  | 21 => withScope w 17 (fun sc => take w [(22, 1, 0)] (.asemw (ordAt w) sc (reg w 11) (reg w 5) (bits w 0 5)))
  | _ => .error .opcode

/-- E form of the stash engine, class 0xD (R331, R333). -/
def decodeStash (w : IWord) : Except Reject Instr :=
  match fld w 23 5 with
  | 0 => withScope w 17 (fun sc => take w [(21, 1, 0)] (.sst (ordAt w) sc (reg w 11) (reg w 5) (bits w 0 5)))
  | 1 => withScope w 17 (fun sc => take w [(21, 1, 0)] (.sstT (ordAt w) sc (reg w 11) (reg w 5) (bits w 0 5)))
  | 2 => withScope w 17 (fun sc => take w [(22, 1, 0)] (.spf (ordAt w) sc (reg w 11) (reg w 5) (bits w 0 5)))
  | 3 => withScope w 17 (fun sc => take w [(21, 1, 0), (0, 5, 0)] (.srel (ordAt w) sc (reg w 11) (reg w 5)))
  | 4 => withScope w 17 (fun sc => take w [(22, 1, 0), (0, 5, 0)] (.sqry (ordAt w) sc (reg w 11) (reg w 5)))
  | 5 => withScope w 17 (fun sc => take w [(21, 1, 0)] (.spol (ordAt w) sc (reg w 11) (reg w 5) (bits w 0 5)))
  | _ => .error .opcode

/-- E form of the line engine, class 0xE (R348, R349). -/
def decodeLine (w : IWord) : Except Reject Instr :=
  match fld w 23 5 with
  | 0 => withScope w 17 (fun sc => take w [(21, 2, 0)] (.lexp sc (reg w 11) (reg w 5) (bits w 0 5)))
  | 1 => withScope w 17 (fun sc => take w [(21, 1, 0)] (.lred (ordAt w) sc (reg w 11) (reg w 5) (bits w 0 5)))
  | 2 => withScope w 17 (fun sc => take w [(21, 2, 0)] (.lopt sc (reg w 11) (reg w 5) (bits w 0 5)))
  | 3 => withScope w 17 (fun sc => take w [(22, 1, 0), (0, 5, 0)] (.lqry (ordAt w) sc (reg w 11) (reg w 5)))
  | 4 => withScope w 17 (fun sc => take w [(21, 2, 0)] (.nlook sc (reg w 11) (reg w 5) (bits w 0 5)))
  | 5 => withScope w 17 (fun sc => take w [(21, 2, 0), (0, 6, 0)] (.nref sc (reg w 11) (bits w 6 5)))
  | 6 => withScope w 17 (fun sc => take w [(21, 1, 0), (0, 6, 0)] (.nrel (ordAt w) sc (reg w 11) (bits w 6 5)))
  | 7 => withScope w 17 (fun sc => take w [(22, 1, 1), (0, 2, 0)] (.nswap (ordAt w) sc (reg w 11) (reg w 5) (bits w 2 3)))
  | 8 => withScope w 17 (fun sc => take w [(22, 1, 0), (5, 1, 0)] (.nget (ordAt w) sc (reg w 11) (bits w 6 5) (bits w 0 5)))
  | 9 => withScope w 17 (fun sc => take w [(21, 2, 0), (5, 1, 0), (0, 1, 0)] (.nout sc (reg w 11) (bits w 6 5) (bits w 1 4)))
  | 10 => withScope w 17 (fun sc => take w [(21, 2, 0), (0, 6, 0)] (.nhas sc (reg w 11) (bits w 6 5)))
  | 11 => withScope w 17 (fun sc => take w [(21, 1, 0), (5, 1, 0)] (.nxfer (ordAt w) sc (reg w 11) (bits w 6 5) (bits w 0 5)))
  | _ => .error .opcode

/-- E form of the scheduler, class 0xF (R382). -/
def decodeSched (w : IWord) : Except Reject Instr :=
  match fld w 23 5 with
  | 0 => withScope w 17 (fun sc => take w [(21, 2, 0), (5, 6, 0)] (.grow sc (reg w 11) (bits w 0 5)))
  | 1 => withScope w 17 (fun sc => take w [(21, 1, 0), (0, 5, 0)] (.post (ordAt w) sc (reg w 11) (reg w 5)))
  | 2 => withScope w 17 (fun sc => take w [(21, 1, 0), (0, 11, 0)] (.fencew (ordAt w) sc (reg w 11)))
  | 3 => withScope w 17 (fun sc => take w [(21, 1, 0)] (.gbind (ordAt w) sc (reg w 11) (reg w 5) (bits w 0 5)))
  | 4 => withScope w 17 (fun sc => take w [(21, 1, 0)] (.grebind (ordAt w) sc (reg w 11) (reg w 5) (bits w 0 5)))
  | 5 => withScope w 17 (fun sc => take w [(21, 2, 0), (5, 6, 0)] (.gstat sc (reg w 11) (bits w 0 5)))
  | 6 => withScope w 17 (fun sc => take w [(21, 2, 0)] (.ptset sc (reg w 11) (reg w 5) (bits w 0 5)))
  | 7 => withScope w 17 (fun sc => take w [(21, 2, 0), (0, 11, 0)] (.hmrisk sc (reg w 11)))
  | 8 => withScope w 17 (fun sc => take w [(21, 2, 0), (0, 17, 0)] (.prack sc))
  | _ => .error .opcode

/-- The operation of a matrix engine word, by the op field of its formed command (R53). -/
def decodeMatrix (op : Nat) (w : IWord) : Except Reject Instr :=
  match op with
  | 1 => .ok (.mma (bits w 22 6) (bits w 16 6) (bits w 0 16))
  | 2 => .ok (.mmag (bits w 22 6) (bits w 16 6) (bits w 0 16))
  | 3 => .ok (.mwld (bits w 22 6) (bits w 16 6) (bits w 0 16))
  | 4 => .ok (.mdrain (bits w 22 6) (bits w 16 6) (bits w 0 16))
  | 5 => .ok (.mzero (bits w 22 6) (bits w 16 6) (bits w 0 16))
  | 6 => .ok (.mfmt (bits w 22 6) (bits w 16 6) (bits w 0 16))
  | 7 => .ok (.mstat (bits w 22 6) (bits w 16 6) (bits w 0 16))
  | 8 => .ok (.mfence (bits w 22 6) (bits w 16 6) (bits w 0 16))
  | _ => .error .engineOp

/-- The operation of a copy engine word, by the op field of its formed command (R53). -/
def decodeCopy (op : Nat) (w : IWord) : Except Reject Instr :=
  match op with
  | 1 => .ok (.cpyIn (bits w 22 6) (bits w 16 6) (bits w 0 16))
  | 2 => .ok (.cpyOut (bits w 22 6) (bits w 16 6) (bits w 0 16))
  | 3 => .ok (.cpyGather (bits w 22 6) (bits w 16 6) (bits w 0 16))
  | 4 => .ok (.cpyScat (bits w 22 6) (bits w 16 6) (bits w 0 16))
  | 5 => .ok (.cpyRing (bits w 22 6) (bits w 16 6) (bits w 0 16))
  | 6 => .ok (.cpyT (bits w 22 6) (bits w 16 6) (bits w 0 16))
  | 7 => .ok (.cpyFollow (bits w 22 6) (bits w 16 6) (bits w 0 16))
  | 8 => .ok (.cpyBar (bits w 22 6) (bits w 16 6) (bits w 0 16))
  | 9 => .ok (.cpyFill (bits w 22 6) (bits w 16 6) (bits w 0 16))
  | 10 => .ok (.lrec (bits w 22 6) (bits w 16 6) (bits w 0 16))
  | 11 => .ok (.cpyStat (bits w 22 6) (bits w 16 6) (bits w 0 16))
  | _ => .error .engineOp

/-- The operation of a Prism word, by the op field of its formed command (R53). -/
def decodePrism (op : Nat) (w : IWord) : Except Reject Instr :=
  match op with
  | 1 => .ok (.xsort (bits w 22 6) (bits w 16 6) (bits w 0 16))
  | 2 => .ok (.xa2a (bits w 22 6) (bits w 16 6) (bits w 0 16))
  | 3 => .ok (.xchOpen (bits w 22 6) (bits w 16 6) (bits w 0 16))
  | 4 => .ok (.xchWin (bits w 22 6) (bits w 16 6) (bits w 0 16))
  | 5 => .ok (.xchSend (bits w 22 6) (bits w 16 6) (bits w 0 16))
  | 6 => .ok (.xchRecv (bits w 22 6) (bits w 16 6) (bits w 0 16))
  | 7 => .ok (.xchClose (bits w 22 6) (bits w 16 6) (bits w 0 16))
  | 8 => .ok (.xringRs (bits w 22 6) (bits w 16 6) (bits w 0 16))
  | 9 => .ok (.xringAg (bits w 22 6) (bits w 16 6) (bits w 0 16))
  | 10 => .ok (.xstat (bits w 22 6) (bits w 16 6) (bits w 0 16))
  | _ => .error .engineOp

/-- The patch of a P-form word of an engine (R53). -/
def patchOk (c : Cls) (w : IWord) : Bool := Machine.patchLegal c (fld w 16 6) (fld w 0 16)

/-- A word by its class (R50). -/
def decodeClass (op : Nat) (w : IWord) : Except Reject Instr :=
  match fld w 28 4 with
  | 0 => decodeA w
  | 1 => decodeI w
  | 2 => decodeM w
  | 3 => decodeB w
  | 4 => decodeS w
  | 5 => decodeW w
  | 8 => decodeV w
  | 9 => if patchOk .matrix w then decodeMatrix op w else .error .patch
  | 10 => if patchOk .copy w then decodeCopy op w else .error .patch
  | 11 => decodeAtomic w
  | 12 => if patchOk .prism w then decodePrism op w else .error .patch
  | 13 => decodeStash w
  | 14 => decodeLine w
  | 15 => decodeSched w
  | _ => .error .unassignedClass

/-- The instruction of a word. A P-form word has no opcode of its own (R53): op is the op field of its formed
command. -/
def decodeWord (op : Nat) (w : IWord) : Except Reject Instr :=
  match decodeClass op w with
  | .ok i => if wellFormed i then .ok i else .error (.limit i)
  | .error r => .error r

/-- The instruction that the decoder reads from a word of the opcode table, with a template whose op is 1 for the
P form: such a word names its operation through its template (R53), and the table gives all words of an engine the same
bits. -/
def decodeTableWord (nbits w : Nat) : Option Instr :=
  if nbits = 32 ∧ w < 2 ^ 32 then
    match decodeWord 1 (BitVec.ofNat 32 w) with
    | .ok i => some i
    | .error _ => none
  else none

/-! The encoder: each form packs its fields from the most significant one down (R51, R52). -/

def packA (op d a b f g n : Nat) : IWord :=
  BitVec.ofNat 32 ((((((op * 64 + d) * 64 + a) * 64 + b) * 2 + f) * 2 + g) * 4 + n)
def packI (op d a f i : Nat) : IWord := BitVec.ofNat 32 (((((1 * 64 + op) * 64 + d) * 64 + a) * 2 + f) * 512 + i)
def packM (op c d a f i : Nat) : IWord :=
  BitVec.ofNat 32 ((((((2 * 8 + op) * 16 + c) * 64 + d) * 64 + a) * 2 + f) * 256 + i)
def packB (op a b f g o : Nat) : IWord :=
  BitVec.ofNat 32 ((((((3 * 16 + op) * 64 + a) * 64 + b) * 2 + f) * 2 + g) * 1024 + o)
def packS (op d a s : Nat) : IWord := BitVec.ofNat 32 ((((4 * 64 + op) * 64 + d) * 64 + a) * 1024 + s)
def packW (d k i n z : Nat) : IWord := BitVec.ofNat 32 (((((5 * 64 + d) * 4 + k) * 65536 + i) * 2 + n) * 8 + z)
def packV (x op d a b m : Nat) : IWord :=
  BitVec.ofNat 32 ((((((8 * 2 + x) * 128 + op) * 64 + d) * 64 + a) * 64 + b) * 4 + m)
def packP (c t f v : Nat) : IWord := BitVec.ofNat 32 (((c * 64 + t) * 64 + f) * 65536 + v)
def packE (c op o s d a b : Nat) : IWord :=
  BitVec.ofNat 32 ((((((c * 32 + op) * 4 + o) * 16 + s) * 64 + d) * 64 + a) * 32 + b)

/-- The word of an instruction; an event has none, and the answer for it is 0. -/
def encode : Instr → IWord
  | .add xd xa xb fa fb => packA 0 xd.toNat xa.toNat xb.toNat fa.toNat fb.toNat 0
  | .sub xd xa xb fa fb => packA 1 xd.toNat xa.toNat xb.toNat fa.toNat fb.toNat 0
  | .mul xd xa xb fa fb => packA 2 xd.toNat xa.toNat xb.toNat fa.toNat fb.toNat 0
  | .mulh xd xa xb fa fb => packA 3 xd.toNat xa.toNat xb.toNat fa.toNat fb.toNat 0
  | .mulhn xd xa xb fa fb => packA 4 xd.toNat xa.toNat xb.toNat fa.toNat fb.toNat 0
  | .div xd xa xb fa fb => packA 5 xd.toNat xa.toNat xb.toNat fa.toNat fb.toNat 0
  | .divn xd xa xb fa fb => packA 6 xd.toNat xa.toNat xb.toNat fa.toNat fb.toNat 0
  | .rem xd xa xb fa fb => packA 7 xd.toNat xa.toNat xb.toNat fa.toNat fb.toNat 0
  | .remn xd xa xb fa fb => packA 8 xd.toNat xa.toNat xb.toNat fa.toNat fb.toNat 0
  | .and xd xa xb fa fb => packA 9 xd.toNat xa.toNat xb.toNat fa.toNat fb.toNat 0
  | .or xd xa xb fa fb => packA 10 xd.toNat xa.toNat xb.toNat fa.toNat fb.toNat 0
  | .xor xd xa xb fa fb => packA 11 xd.toNat xa.toNat xb.toNat fa.toNat fb.toNat 0
  | .andn xd xa xb fa fb => packA 12 xd.toNat xa.toNat xb.toNat fa.toNat fb.toNat 0
  | .orn xd xa xb fa fb => packA 13 xd.toNat xa.toNat xb.toNat fa.toNat fb.toNat 0
  | .shl xd xa xb fa fb => packA 14 xd.toNat xa.toNat xb.toNat fa.toNat fb.toNat 0
  | .shr xd xa xb fa fb => packA 15 xd.toNat xa.toNat xb.toNat fa.toNat fb.toNat 0
  | .sra xd xa xb fa fb => packA 16 xd.toNat xa.toNat xb.toNat fa.toNat fb.toNat 0
  | .rol xd xa xb fa fb => packA 17 xd.toNat xa.toNat xb.toNat fa.toNat fb.toNat 0
  | .ror xd xa xb fa fb => packA 18 xd.toNat xa.toNat xb.toNat fa.toNat fb.toNat 0
  | .min xd xa xb fa fb => packA 19 xd.toNat xa.toNat xb.toNat fa.toNat fb.toNat 0
  | .max xd xa xb fa fb => packA 20 xd.toNat xa.toNat xb.toNat fa.toNat fb.toNat 0
  | .minn xd xa xb fa fb => packA 21 xd.toNat xa.toNat xb.toNat fa.toNat fb.toNat 0
  | .maxn xd xa xb fa fb => packA 22 xd.toNat xa.toNat xb.toNat fa.toNat fb.toNat 0
  | .clz xd xa fa => packA 23 xd.toNat xa.toNat 0 fa.toNat 0 0
  | .ctz xd xa fa => packA 24 xd.toNat xa.toNat 0 fa.toNat 0 0
  | .popc xd xa fa => packA 25 xd.toNat xa.toNat 0 fa.toNat 0 0
  | .brev xd xa fa => packA 26 xd.toNat xa.toNat 0 fa.toNat 0 0
  | .bswap xd xa fa => packA 27 xd.toNat xa.toNat 0 fa.toNat 0 0
  | .clmul xd xa xb fa fb => packA 28 xd.toNat xa.toNat xb.toNat fa.toNat fb.toNat 0
  | .clmulh xd xa xb fa fb => packA 29 xd.toNat xa.toNat xb.toNat fa.toNat fb.toNat 0
  | .ext xd xa xb fa fb => packA 30 xd.toNat xa.toNat xb.toNat fa.toNat fb.toNat 0
  | .extn xd xa xb fa fb => packA 30 xd.toNat xa.toNat xb.toNat fa.toNat fb.toNat 1
  | .ins xd xa xb fa fb => packA 31 xd.toNat xa.toNat xb.toNat fa.toNat fb.toNat 0
  | .shladd xd xa xb fa fb s => packA 32 xd.toNat xa.toNat xb.toNat fa.toNat fb.toNat s.toNat
  | .slt xd xa xb fa fb => packA 33 xd.toNat xa.toNat xb.toNat fa.toNat fb.toNat 0
  | .sltn xd xa xb fa fb => packA 34 xd.toNat xa.toNat xb.toNat fa.toNat fb.toNat 0
  | .cmppEq p xa xb fa fb => packA 35 (8 + p.toNat) xa.toNat xb.toNat fa.toNat fb.toNat 0
  | .cmppNe p xa xb fa fb => packA 35 (8 + p.toNat) xa.toNat xb.toNat fa.toNat fb.toNat 1
  | .cmppLt p xa xb fa fb => packA 35 (8 + p.toNat) xa.toNat xb.toNat fa.toNat fb.toNat 2
  | .cmppGe p xa xb fa fb => packA 35 (8 + p.toNat) xa.toNat xb.toNat fa.toNat fb.toNat 3
  | .cmppLtn p xa xb fa fb => packA 36 (8 + p.toNat) xa.toNat xb.toNat fa.toNat fb.toNat 0
  | .cmppGen p xa xb fa fb => packA 36 (8 + p.toNat) xa.toNat xb.toNat fa.toNat fb.toNat 1
  | .selP8P11 xd xa xb fa fb n => packA 37 xd.toNat xa.toNat xb.toNat fa.toNat fb.toNat n.toNat
  | .selP12P15 xd xa xb fa fb n => packA 38 xd.toNat xa.toNat xb.toNat fa.toNat fb.toNat n.toNat
  | .aconv xd xa fa => packA 39 xd.toNat xa.toNat 0 fa.toNat 0 0
  | .agen xd xa xb fa fb => packA 40 xd.toNat xa.toNat xb.toNat fa.toNat fb.toNat 0
  | .atest xd xa fa => packA 41 xd.toNat xa.toNat 0 fa.toNat 0 0
  | .addi xd xa fa imm => packI 0 xd.toNat xa.toNat fa.toNat imm.toNat
  | .andi xd xa fa imm => packI 1 xd.toNat xa.toNat fa.toNat imm.toNat
  | .ori xd xa fa imm => packI 2 xd.toNat xa.toNat fa.toNat imm.toNat
  | .xori xd xa fa imm => packI 3 xd.toNat xa.toNat fa.toNat imm.toNat
  | .shli xd xa fa sh => packI 4 xd.toNat xa.toNat fa.toNat sh.toNat
  | .shri xd xa fa sh => packI 5 xd.toNat xa.toNat fa.toNat sh.toNat
  | .srai xd xa fa sh => packI 6 xd.toNat xa.toNat fa.toNat sh.toNat
  | .roli xd xa fa sh => packI 7 xd.toNat xa.toNat fa.toNat sh.toNat
  | .rori xd xa fa sh => packI 8 xd.toNat xa.toNat fa.toNat sh.toNat
  | .slti xd xa fa imm => packI 9 xd.toNat xa.toNat fa.toNat imm.toNat
  | .sltni xd xa fa imm => packI 10 xd.toNat xa.toNat fa.toNat imm.toNat
  | .muli xd xa fa imm => packI 11 xd.toNat xa.toNat fa.toNat imm.toNat
  | .cmppiEq p xa fa imm => packI 16 (8 + p.toNat) xa.toNat fa.toNat imm.toNat
  | .cmppiNe p xa fa imm => packI 17 (8 + p.toNat) xa.toNat fa.toNat imm.toNat
  | .cmppiLt p xa fa imm => packI 18 (8 + p.toNat) xa.toNat fa.toNat imm.toNat
  | .cmppiGe p xa fa imm => packI 19 (8 + p.toNat) xa.toNat fa.toNat imm.toNat
  | .cmppiLtn p xa fa imm => packI 20 (8 + p.toNat) xa.toNat fa.toNat imm.toNat
  | .cmppiGen p xa fa imm => packI 21 (8 + p.toNat) xa.toNat fa.toNat imm.toNat
  | .ld size cls xd xa fa imm => packM size.toNat cls.toNat xd.toNat xa.toNat fa.toNat imm.toNat
  | .st size cls xd xa fa imm => packM (4 + size.toNat) cls.toNat xd.toNat xa.toNat fa.toNat imm.toNat
  | .beq xa xb fa fb off => packB 0 xa.toNat xb.toNat fa.toNat fb.toNat off.toNat
  | .bne xa xb fa fb off => packB 1 xa.toNat xb.toNat fa.toNat fb.toNat off.toNat
  | .blt xa xb fa fb off => packB 2 xa.toNat xb.toNat fa.toNat fb.toNat off.toNat
  | .bge xa xb fa fb off => packB 3 xa.toNat xb.toNat fa.toNat fb.toNat off.toNat
  | .bltn xa xb fa fb off => packB 4 xa.toNat xb.toNat fa.toNat fb.toNat off.toNat
  | .bgen xa xb fa fb off => packB 5 xa.toNat xb.toNat fa.toNat fb.toNat off.toNat
  | .bp neg p off => packB 6 (neg.toNat * 16 + p.toNat) 0 0 0 off.toNat
  | .j off => packB 7 0 0 0 0 off.toNat
  | .jl off => packB 8 0 0 0 0 off.toNat
  | .jr xa fa => packB 9 xa.toNat 0 fa.toNat 0 0
  | .loopS xa k fa off => packB 10 xa.toNat k.toNat fa.toNat 0 off.toNat
  | .loopO xa fa off => packB 11 xa.toNat 0 fa.toNat 0 off.toNat
  | .pshv xa fa side => packS 0 0 xa.toNat (fa.toNat * 512 + side.code)
  | .tokst xd => packS 1 xd.toNat 0 0
  | .sbind xa fa n => packS 2 0 xa.toNat (fa.toNat * 512 + n.toNat)
  | .fence mask scope => packS 3 (mask.toNat / 1024) (mask.toNat / 16 % 64) (mask.toNat % 16 * 64 + scope.code * 4)
  | .csync => packS 4 0 0 0
  | .qpoint => packS 5 0 0 0
  | .tsc xd => packS 6 xd.toNat 0 0
  | .csrr xd r => packS 7 xd.toNat 0 r.code
  | .csrw r xa fa => packS 8 0 xa.toNat (r.code + fa.toNat * 512)
  | .trap n => packS 9 0 0 n.toNat
  | .eret => packS 10 0 0 0
  | .tplLd slot xa fa eng => packS 11 slot.toNat xa.toNat (fa.toNat * 512 + eng.code)
  | .tend => packS 12 0 0 0
  | .ldNatural xd xa fa cls size => packS 13 xd.toNat xa.toNat (fa.toNat * 512 + cls.toNat * 32 + size.toNat * 8)
  | .ldc xd xa fa size => packS 14 xd.toNat xa.toNat (fa.toNat * 512 + size.toNat * 8)
  | .wld xd k imm => packW xd.toNat k.toNat imm.toNat 0 0
  | .wins xd k imm => packW xd.toNat k.toNat imm.toNat 1 0
  | .vadd sc vd va vb m => packV sc.toNat 0 vd.toNat va.toNat vb.toNat m.toNat
  | .vsub sc vd va vb m => packV sc.toNat 1 vd.toNat va.toNat vb.toNat m.toNat
  | .vmul sc vd va vb m => packV sc.toNat 2 vd.toNat va.toNat vb.toNat m.toNat
  | .vfma sc vd va vb m => packV sc.toNat 3 vd.toNat va.toNat vb.toNat m.toNat
  | .vfnma sc vd va vb m => packV sc.toNat 4 vd.toNat va.toNat vb.toNat m.toNat
  | .vmin sc vd va vb m => packV sc.toNat 5 vd.toNat va.toNat vb.toNat m.toNat
  | .vmax sc vd va vb m => packV sc.toNat 6 vd.toNat va.toNat vb.toNat m.toNat
  | .vminn sc vd va vb m => packV sc.toNat 7 vd.toNat va.toNat vb.toNat m.toNat
  | .vmaxn sc vd va vb m => packV sc.toNat 8 vd.toNat va.toNat vb.toNat m.toNat
  | .vabs vd va m => packV 0 9 vd.toNat va.toNat 0 m.toNat
  | .vneg vd va m => packV 0 10 vd.toNat va.toNat 0 m.toNat
  | .vand sc vd va vb m => packV sc.toNat 11 vd.toNat va.toNat vb.toNat m.toNat
  | .vor sc vd va vb m => packV sc.toNat 12 vd.toNat va.toNat vb.toNat m.toNat
  | .vxor sc vd va vb m => packV sc.toNat 13 vd.toNat va.toNat vb.toNat m.toNat
  | .vandn sc vd va vb m => packV sc.toNat 14 vd.toNat va.toNat vb.toNat m.toNat
  | .vshl sc vd va vb m => packV sc.toNat 15 vd.toNat va.toNat vb.toNat m.toNat
  | .vshr sc vd va vb m => packV sc.toNat 16 vd.toNat va.toNat vb.toNat m.toNat
  | .vsra sc vd va vb m => packV sc.toNat 17 vd.toNat va.toNat vb.toNat m.toNat
  | .vexp2 vd va m => packV 0 18 vd.toNat va.toNat 0 m.toNat
  | .vlog2 vd va m => packV 0 19 vd.toNat va.toNat 0 m.toNat
  | .vrecip vd va m => packV 0 20 vd.toNat va.toNat 0 m.toNat
  | .vrsq vd va m => packV 0 21 vd.toNat va.toNat 0 m.toNat
  | .vcmpEq sc md va vb m => packV sc.toNat 22 md.toNat va.toNat vb.toNat m.toNat
  | .vcmpNe sc md va vb m => packV sc.toNat 23 md.toNat va.toNat vb.toNat m.toNat
  | .vcmpLt sc md va vb m => packV sc.toNat 24 md.toNat va.toNat vb.toNat m.toNat
  | .vcmpGe sc md va vb m => packV sc.toNat 25 md.toNat va.toNat vb.toNat m.toNat
  | .vcmpLtn sc md va vb m => packV sc.toNat 26 md.toNat va.toNat vb.toNat m.toNat
  | .vcmpGen sc md va vb m => packV sc.toNat 27 md.toNat va.toNat vb.toNat m.toNat
  | .vsel sc vd va vb m => packV sc.toNat 28 vd.toNat va.toNat vb.toNat m.toNat
  | .vcvt t vd va p sat rm m => packV 0 (32 + t.toNat) vd.toNat va.toNat (p.toNat * 16 + sat.toNat * 8 + rm.toNat) m.toNat
  | .vrng vd xb m => packV 1 40 vd.toNat 0 xb.toNat m.toNat
  | .vkey xb => packV 1 41 0 0 xb.toNat 0
  | .vrsum vd va m => packV 0 42 vd.toNat va.toNat 0 m.toNat
  | .vrmax vd va m => packV 0 43 vd.toNat va.toNat 0 m.toNat
  | .vrmin vd va m => packV 0 44 vd.toNat va.toNat 0 m.toNat
  | .vscan vd va m => packV 0 45 vd.toNat va.toNat 0 m.toNat
  | .vscanx vd va m => packV 0 46 vd.toNat va.toNat 0 m.toNat
  | .vtopk vd va xb m => packV 1 48 vd.toNat va.toNat xb.toNat m.toNat
  | .vperm sc vd va vb m => packV sc.toNat 49 vd.toNat va.toNat vb.toNat m.toNat
  | .vbcast vd xb m => packV 1 50 vd.toNat 0 xb.toNat m.toNat
  | .vextx xd va xb => packV 1 51 xd.toNat va.toNat xb.toNat 0
  | .vmand md ma mb => packV 0 52 md.toNat ma.toNat mb.toNat 0
  | .vmor md ma mb => packV 0 53 md.toNat ma.toNat mb.toNat 0
  | .vmxor md ma mb => packV 0 54 md.toNat ma.toNat mb.toNat 0
  | .vmandn md ma mb => packV 0 55 md.toNat ma.toNat mb.toNat 0
  | .vmpopc xd ma => packV 0 56 xd.toNat ma.toNat 0 0
  | .vmget xd ma q => packV 0 57 xd.toNat ma.toNat q.toNat 0
  | .vmset md q xb => packV 1 58 md.toNat q.toNat xb.toNat 0
  | .vldr vd xb => packV 1 59 vd.toNat 0 xb.toNat 0
  | .vstr vd xb => packV 1 60 vd.toNat 0 xb.toNat 0
  | .vwin xb => packV 1 61 0 0 xb.toNat 0
  | .vwalk xa xb => packV 1 62 0 xa.toNat xb.toNat 0
  | .vldw vd => packV 0 63 vd.toNat 0 0 0
  | .vfence => packV 0 64 0 0 0 0
  | .mma tpl fsel value => packP 9 tpl.toNat fsel.toNat value.toNat
  | .mmag tpl fsel value => packP 9 tpl.toNat fsel.toNat value.toNat
  | .mwld tpl fsel value => packP 9 tpl.toNat fsel.toNat value.toNat
  | .mdrain tpl fsel value => packP 9 tpl.toNat fsel.toNat value.toNat
  | .mzero tpl fsel value => packP 9 tpl.toNat fsel.toNat value.toNat
  | .mfmt tpl fsel value => packP 9 tpl.toNat fsel.toNat value.toNat
  | .mstat tpl fsel value => packP 9 tpl.toNat fsel.toNat value.toNat
  | .mfence tpl fsel value => packP 9 tpl.toNat fsel.toNat value.toNat
  | .cpyIn tpl fsel value => packP 10 tpl.toNat fsel.toNat value.toNat
  | .cpyOut tpl fsel value => packP 10 tpl.toNat fsel.toNat value.toNat
  | .cpyGather tpl fsel value => packP 10 tpl.toNat fsel.toNat value.toNat
  | .cpyScat tpl fsel value => packP 10 tpl.toNat fsel.toNat value.toNat
  | .cpyRing tpl fsel value => packP 10 tpl.toNat fsel.toNat value.toNat
  | .cpyT tpl fsel value => packP 10 tpl.toNat fsel.toNat value.toNat
  | .cpyFollow tpl fsel value => packP 10 tpl.toNat fsel.toNat value.toNat
  | .cpyBar tpl fsel value => packP 10 tpl.toNat fsel.toNat value.toNat
  | .cpyFill tpl fsel value => packP 10 tpl.toNat fsel.toNat value.toNat
  | .lrec tpl fsel value => packP 10 tpl.toNat fsel.toNat value.toNat
  | .cpyStat tpl fsel value => packP 10 tpl.toNat fsel.toNat value.toNat
  | .xsort tpl fsel value => packP 12 tpl.toNat fsel.toNat value.toNat
  | .xa2a tpl fsel value => packP 12 tpl.toNat fsel.toNat value.toNat
  | .xchOpen tpl fsel value => packP 12 tpl.toNat fsel.toNat value.toNat
  | .xchWin tpl fsel value => packP 12 tpl.toNat fsel.toNat value.toNat
  | .xchSend tpl fsel value => packP 12 tpl.toNat fsel.toNat value.toNat
  | .xchRecv tpl fsel value => packP 12 tpl.toNat fsel.toNat value.toNat
  | .xchClose tpl fsel value => packP 12 tpl.toNat fsel.toNat value.toNat
  | .xringRs tpl fsel value => packP 12 tpl.toNat fsel.toNat value.toNat
  | .xringAg tpl fsel value => packP 12 tpl.toNat fsel.toNat value.toNat
  | .xstat tpl fsel value => packP 12 tpl.toNat fsel.toNat value.toNat
  | .ald ord scope xd xa => packE 11 0 ord.code scope.code xd.toNat xa.toNat 0
  | .ast ord scope xa xb => packE 11 1 ord.code scope.code 0 xa.toNat xb.toNat
  | .aswp ord scope xd xa xb => packE 11 2 ord.code scope.code xd.toNat xa.toNat xb.toNat
  | .aadd ord scope xd xa xb => packE 11 3 ord.code scope.code xd.toNat xa.toNat xb.toNat
  | .aand ord scope xd xa xb => packE 11 4 ord.code scope.code xd.toNat xa.toNat xb.toNat
  | .aor ord scope xd xa xb => packE 11 5 ord.code scope.code xd.toNat xa.toNat xb.toNat
  | .axor ord scope xd xa xb => packE 11 6 ord.code scope.code xd.toNat xa.toNat xb.toNat
  | .amin ord scope xd xa xb => packE 11 7 ord.code scope.code xd.toNat xa.toNat xb.toNat
  | .amax ord scope xd xa xb => packE 11 8 ord.code scope.code xd.toNat xa.toNat xb.toNat
  | .aminn ord scope xd xa xb => packE 11 9 ord.code scope.code xd.toNat xa.toNat xb.toNat
  | .amaxn ord scope xd xa xb => packE 11 10 ord.code scope.code xd.toNat xa.toNat xb.toNat
  | .afadd ord scope xd xa xb => packE 11 11 ord.code scope.code xd.toNat xa.toNat xb.toNat
  | .acas ord scope xd xa xp => packE 11 12 ord.code scope.code xd.toNat xa.toNat (xp.toNat * 2)
  | .acasFa ord scope xd xa xp => packE 11 13 ord.code scope.code xd.toNat xa.toNat (xp.toNat * 2)
  | .abinit ord scope xa xb => packE 11 16 ord.code scope.code 0 xa.toNat xb.toNat
  | .abarr ord scope xd xa => packE 11 17 ord.code scope.code xd.toNat xa.toNat 0
  | .abexp ord scope xa xb => packE 11 18 ord.code scope.code 0 xa.toNat xb.toNat
  | .abwait ord scope xd xa xb => packE 11 19 ord.code scope.code xd.toNat xa.toNat xb.toNat
  | .asemp ord scope xa xb => packE 11 20 ord.code scope.code 0 xa.toNat xb.toNat
  | .asemw ord scope xd xa xb => packE 11 21 ord.code scope.code xd.toNat xa.toNat xb.toNat
  | .sst ord scope xd xa xb => packE 13 0 ord.code scope.code xd.toNat xa.toNat xb.toNat
  | .sstT ord scope xd xa xb => packE 13 1 ord.code scope.code xd.toNat xa.toNat xb.toNat
  | .spf ord scope xd xa xb => packE 13 2 ord.code scope.code xd.toNat xa.toNat xb.toNat
  | .srel ord scope xd xa => packE 13 3 ord.code scope.code xd.toNat xa.toNat 0
  | .sqry ord scope xd xa => packE 13 4 ord.code scope.code xd.toNat xa.toNat 0
  | .spol ord scope xd xa xb => packE 13 5 ord.code scope.code xd.toNat xa.toNat xb.toNat
  | .lexp scope xd xa xb => packE 14 0 0 scope.code xd.toNat xa.toNat xb.toNat
  | .lred ord scope xd xa xb => packE 14 1 ord.code scope.code xd.toNat xa.toNat xb.toNat
  | .lopt scope xd xa xb => packE 14 2 0 scope.code xd.toNat xa.toNat xb.toNat
  | .lqry ord scope xd xa => packE 14 3 ord.code scope.code xd.toNat xa.toNat 0
  | .nlook scope xd xa xb => packE 14 4 0 scope.code xd.toNat xa.toNat xb.toNat
  | .nref scope xd xn => packE 14 5 0 scope.code xd.toNat (xn.toNat * 2) 0
  | .nrel ord scope xd xn => packE 14 6 ord.code scope.code xd.toNat (xn.toNat * 2) 0
  | .nswap ord scope xd xa xq => packE 14 7 ord.code scope.code xd.toNat xa.toNat (xq.toNat * 4)
  | .nget ord scope xd xn xb => packE 14 8 ord.code scope.code xd.toNat (xn.toNat * 2) xb.toNat
  | .nout scope xd xn xp => packE 14 9 0 scope.code xd.toNat (xn.toNat * 2) (xp.toNat * 2)
  | .nhas scope xd xn => packE 14 10 0 scope.code xd.toNat (xn.toNat * 2) 0
  | .nxfer ord scope xd xn xb => packE 14 11 ord.code scope.code xd.toNat (xn.toNat * 2) xb.toNat
  | .grow scope xd xb => packE 15 0 0 scope.code xd.toNat 0 xb.toNat
  | .post ord scope xd xa => packE 15 1 ord.code scope.code xd.toNat xa.toNat 0
  | .fencew ord scope xd => packE 15 2 ord.code scope.code xd.toNat 0 0
  | .gbind ord scope xd xa xb => packE 15 3 ord.code scope.code xd.toNat xa.toNat xb.toNat
  | .grebind ord scope xd xa xb => packE 15 4 ord.code scope.code xd.toNat xa.toNat xb.toNat
  | .gstat scope xd xb => packE 15 5 0 scope.code xd.toNat 0 xb.toNat
  | .ptset scope xd xa xb => packE 15 6 0 scope.code xd.toNat xa.toNat xb.toNat
  | .hmrisk scope xd => packE 15 7 0 scope.code xd.toNat 0 0
  | .prack scope => packE 15 8 0 scope.code 0 0 0
  | .packetIssue .. => 0#32
  | .holdExpiry .. => 0#32
  | .queueEntryGrant .. => 0#32
  | .trackerAdmit .. => 0#32
  | .commandStart .. => 0#32
  | .engineMicroOp .. => 0#32
  | .commandComplete .. => 0#32
  | .pendingReportDelivery .. => 0#32
  | .loadFill .. => 0#32
  | .storePerform .. => 0#32
  | .replyFill .. => 0#32
  | .templateImageArrival .. => 0#32
  | .fenceComplete .. => 0#32
  | .taskRetire .. => 0#32
  | .schedulerScan .. => 0#32
  | .bankGrant .. => 0#32
  | .noticeQueueWrite .. => 0#32
  | .vectorWordComplete .. => 0#32
  | .arrivalAdmission .. => 0#32
  | .constantLineEvict .. => 0#32
  | .pageFault .. => 0#32
  | .remoteRefusal .. => 0#32
  | .retryTimerExpiry .. => 0#32
  | .pageMigration .. => 0#32
  | .invalidationWatchdogExpiry .. => 0#32
  | .budgetExpiry .. => 0#32
  | .policyAgePromotion .. => 0#32
  | .graphFiringPlacement .. => 0#32
  | .preload .. => 0#32
  | .preemptAgeExpiry .. => 0#32
  | .preemptTimeout .. => 0#32
  | .gangResume .. => 0#32
  | .syncBlockFetch .. => 0#32
  | .tradonCrcReplay .. => 0#32
  | .linkDown .. => 0#32
  | .channelRecordDelivery .. => 0#32
  | .windowEndArrival .. => 0#32
  | .closeNoticeArrival .. => 0#32
  | .countRowArrival .. => 0#32
  | .xa2aPieceArrival .. => 0#32
  | .ringChunkArrival .. => 0#32
  | .czBlockExpand .. => 0#32
  | .czBlockCompress .. => 0#32
  | .backgroundRelease .. => 0#32
  | .mirrorTransferReceive .. => 0#32
  | .throttleEngage .. => 0#32
  | .throttleRelease .. => 0#32
  | .riskUpdate => 0#32
  | .powerOnReset .. => 0#32
  | .cxlLinkUp => 0#32
  | .hostMemRead .. => 0#32
  | .hostMemWrite .. => 0#32
  | .backInvalidationComplete .. => 0#32
  | .registerWrite .. => 0#32
  | .getInfo .. => 0#32
  | .partCreate .. => 0#32
  | .partDestroy .. => 0#32
  | .partReset .. => 0#32
  | .vfBind .. => 0#32
  | .partConfig .. => 0#32
  | .launch .. => 0#32
  | .faultAnswer .. => 0#32
  | .invalidate .. => 0#32
  | .asidRetire .. => 0#32
  | .flush .. => 0#32
  | .tableRoot .. => 0#32
  | .domainSet .. => 0#32
  | .mirrorEnable .. => 0#32
  | .preempt .. => 0#32
  | .attest .. => 0#32
  | .pushImage .. => 0#32
  | .hmWeights .. => 0#32
  | .sensors .. => 0#32
  | .linkRetrain .. => 0#32
  | .receiverCloseArrival .. => 0#32

/-- Whether an instruction is a word of a packet, the one kind that has an encoding; the others are events. -/
def isWord : Instr → Bool
  | .packetIssue .. | .holdExpiry .. | .queueEntryGrant .. | .trackerAdmit ..
  | .commandStart .. | .engineMicroOp .. | .commandComplete .. | .pendingReportDelivery ..
  | .loadFill .. | .storePerform .. | .replyFill .. | .templateImageArrival ..
  | .fenceComplete .. | .taskRetire .. | .schedulerScan .. | .bankGrant ..
  | .noticeQueueWrite .. | .vectorWordComplete .. | .arrivalAdmission .. | .constantLineEvict ..
  | .pageFault .. | .remoteRefusal .. | .retryTimerExpiry .. | .pageMigration ..
  | .invalidationWatchdogExpiry .. | .budgetExpiry .. | .policyAgePromotion .. | .graphFiringPlacement ..
  | .preload .. | .preemptAgeExpiry .. | .preemptTimeout .. | .gangResume ..
  | .syncBlockFetch .. | .tradonCrcReplay .. | .linkDown .. | .channelRecordDelivery ..
  | .windowEndArrival .. | .closeNoticeArrival .. | .countRowArrival .. | .xa2aPieceArrival ..
  | .ringChunkArrival .. | .czBlockExpand .. | .czBlockCompress .. | .backgroundRelease ..
  | .mirrorTransferReceive .. | .throttleEngage .. | .throttleRelease .. | .riskUpdate ..
  | .powerOnReset .. | .cxlLinkUp .. | .hostMemRead .. | .hostMemWrite ..
  | .backInvalidationComplete .. | .registerWrite .. | .getInfo .. | .partCreate ..
  | .partDestroy .. | .partReset .. | .vfBind .. | .partConfig ..
  | .launch .. | .faultAnswer .. | .invalidate .. | .asidRetire ..
  | .flush .. | .tableRoot .. | .domainSet .. | .mirrorEnable ..
  | .preempt .. | .attest .. | .pushImage .. | .hmWeights ..
  | .sensors .. | .linkRetrain .. | .receiverCloseArrival .. => false
  | _ => true

end Sys2Proof
end

