-- ==== Sys2Proof/Config.lean ====
section
/-! DEFINITION. What the spec fixes for every GN9, and what it leaves open: the open values are opaque constants, so
that nothing can be proved about which value they have (log entry 5). -/

namespace Sys2Proof

/-- What another device of the domain answers (R319, R320, R364): the identities that its partitions hold, the receive
channels of it that name another sender or another record size, those whose records wait at their sender for now, its feed
domain, whether its mirror is enabled, whether
it computes the sender's names, the names it has and its room for more, and whether its link works. It is part of that device's state, not of this
module's. -/
structure Partner where
  node : Nat
  holds : List Nat
  refuses : List Nat
  waits : List Nat
  feed : Nat
  accepts : Bool
  salts : Bool
  has : List Nat
  room : Nat
  link : Bool
  deriving DecidableEq, Repr, Inhabited

namespace Config

/-- Cores of the package (R7). -/
def coreCount : Nat := 512

/-- Reachable bytes of a core's scratchpad, 768 KiB (R5, R106). -/
def spBytes : Nat := 786432

/-- Scratchpad rows of 256 bytes (R216). -/
def spRows : Nat := 3072

/-- Scratchpad banks of a core (R5). -/
def bankCount : Nat := 192

/-- Depth of an engine queue (R11). -/
def queueDepth : Nat := 32

/-- Commands that a footprint tracker holds (R14). -/
def trackerDepth : Nat := 32

/-- Depth of a token FIFO (R70). -/
def fifoDepth : Nat := 16

/-- Entries of an arrival queue (R368). -/
def arrivalDepth : Nat := 256

/-- R entries beyond the queue depth that a partition holds (R368). -/
def extraDepth : Nat := 4096

/-- Entries of a controller's translation cache (R177). -/
def tcacheDepth : Nat := 4096

/-- Lines of 256 bytes that a slice of L2 holds: 2 MiB (R5). -/
def l2Lines : Nat := 8192

/-- Armed lines of a slice for one partition (R352). -/
def armedDepth : Nat := 2048

/-- Metadata entries that a stash engine's cache holds (R341). -/
def mdDepth : Nat := 8192

/-- Count rows that a die's Prism holds early (R323). -/
def rowDepth : Nat := 4096

/-- Lines of the constant cache (R112). -/
def constLines : Nat := 256

/-- Nanoseconds from a pre-emption flag to the forced pre-emption (R391). -/
def preemptNs : Nat := 20000

/-- Invalidation watchdog before key 8 is set, in microseconds (R185). -/
def watchdogUs : Nat := 1000

/-! Free values. -/

/-- What the device of a node answers where the state lists nothing for it. -/
opaque partner : Nat → Partner

/-- The node of the device at the next position of a reduction ring, by the ring's size and the own position (R312, R319). -/
opaque ringNext : Nat → Nat → Nat

/-- How many ECC errors have been corrected in the window that ends at a time (R415). -/
opaque corrected : Nat → Nat

/-- Whether a read of a stash pool or a fetch of a metadata entry fails uncorrectably, by a fresh number (R337, R342). -/
opaque poolFails : Nat → Bool

/-- Where in its pool a block's first line stands, as an IPA over 2^8, by a fresh number: no rule places it (R330, R341). -/
opaque poolLine : Nat → Nat

/-- Whether a write of a register of BAR 0, by its offset and value, sets or clears the mask of an MSI-X vector: no rule says where
a function's table stands (R408). -/
opaque maskWrite : Nat → Word → Nat → Option Bool

/-- How many nanoseconds a domain's time is ahead of a module's when the module joins it (R22, R416). -/
opaque domainLead : Nat → Nat

/-- The bytes of a scratchpad whose contents are unspecified (R79, R389), by a fresh number. -/
opaque freeCells : Nat → List (Nat × Byte)

/-- Whether a line of L2, by IPA / 256, still stands at a time: lines are evicted when nothing says (R177, R178). -/
opaque lineKept : Nat → Nat → Bool

/-- The IPA at which an access to the named store misses a page, none where it misses none, by a fresh number: no rule maps a line of
the store to an IPA (R179, R357). -/
opaque storeMiss : Nat → Option Nat

/-- The position of a fence record that cannot be read, by a fresh number (R388, R389). -/
opaque fencePos : Nat → Nat

/-- A byte that the spec leaves open, by a fresh number. -/
opaque freeByte : Nat → Byte

/-- The firmware image stored before the first reset (R412). -/
opaque storedImage : List Byte

/-- ML-DSA-44 verification of a signature over a digest under a public key (R412). -/
opaque mldsaVerify : List Byte → List Byte → List Byte → Bool

/-- ML-DSA-44 signature of a digest by the device identity key (R414): 2,420 bytes by position. -/
opaque mldsaSign : List Byte → Nat → Byte

/-- The fused digest of the firmware key (R412). -/
opaque fusedDigest : List Byte

/-- The fused minimum security version (R412). -/
opaque fusedVersion : Nat

/-- The security version that an image's header holds (R412). -/
opaque imageVersion : List Byte → Nat

/-- The device identity public key and its certificate as GET_INFO returns them (R414). -/
opaque identity : List Byte

/-- A die's junction temperature before any throttle event has stated one, in 0.125 °C (R403). -/
opaque restTemp : Nat → Nat

end Config

end Sys2Proof
end

