-- ==== Sys2Proof/Machine/State.lean ====
section
/-! DEFINITION. The whole state of a GN9 module as plain data, the reasons a step can stop, and the state after
reset. Sparse tables are lists of (key, value) pairs with strictly rising keys; a key that is not listed stands for
the default that its field's docstring names. -/

namespace Sys2Proof.Machine

/-- A table by number, keys strictly rising. -/
abbrev KMap (α : Type) := List (Nat × α)

/-- Memory by address: strictly rising addresses, and no entry equal to 0, which an unlisted address reads as
(DESIGN CHOICE, log entry 2). -/
abbrev Memory := List Host.Cell

/-! Scalar contexts (R61). -/

/-- A fault mark of a register (R110, R221, R307): the code and tval that a read raises. A status mark of ABWAIT is
raised by trap-mode reads only. -/
structure Mark where
  code : Nat
  addr : Word
  trapOnly : Bool
  deriving DecidableEq, Repr, Inhabited

/-- A fill pending to a register (R63): the access or command that makes it, the packet slot of its word, and the
part of a reply triple (R349). -/
structure PendFill where
  id : Nat
  slot : Nat
  part : Nat
  deriving DecidableEq, Repr, Inhabited

/-- A scalar register: its value, fault mark and pending fills; it is empty exactly while a fill is pending (R63).
rank is one more than the slot of the latest writer among the writers of the packet that made it empty (R107). acq
lists the writes that the completion that filled it released; the first read acquires them (R19, R142). -/
structure XReg where
  val : Word
  mark : Option Mark
  pend : List PendFill
  rank : Nat
  acq : List Nat
  deriving DecidableEq, Repr, Inhabited

/-- An entry of a token FIFO (R70) with the accesses that its push covers beyond core scope (R142). -/
structure Tok where
  val : Word
  hb : List Nat
  deriving DecidableEq, Repr, Inhabited

/-- An entry pushed by an issued packet that waits until the accesses and vector words it covers have performed at
core scope (R142). -/
structure PendPush where
  side : Side
  val : Word
  waits : List Nat
  cmds : List Nat
  hb : List Nat
  deriving DecidableEq, Repr, Inhabited

/-- A FENCE that has issued and not completed (R124): its place, 4 times its packet's place and its slot, and the
accesses that must reach its scope first (R150). -/
structure FenceRec where
  id : Nat
  at_ : Nat
  mask : BitVec 16
  scope : Scope
  waits : List Nat
  deriving DecidableEq, Repr, Inhabited

/-- A dropped store or failed vector read that no trap has reported (R125, R221). Class 16 marks a vector access. -/
structure Drop where
  seq : Nat
  cls : Nat
  ea : Word
  deriving DecidableEq, Repr, Inhabited

/-- A report pending for a context (R170). An engine fault names its command; a machine-check report has cmd 0. -/
structure Report where
  engine : Bool
  order : Nat
  ecls : Nat
  tslot : Nat
  creg : Nat
  upc : Nat
  code : Nat
  tval : Word
  cmd : Nat
  deriving DecidableEq, Repr, Inhabited

/-- One of the three contexts of a core (R61). -/
structure Ctx where
  /-- Scalar registers (R62). -/
  x : Vector XReg 64
  /-- Predicates p0 to p15 (R66). -/
  p : BitVec 16
  /-- Special registers (R67). -/
  pc : Word
  lc0 : Word
  li0 : Word
  sk0 : Word
  lc1 : Word
  li1 : Word
  bsc : BitVec 4
  tvb : Word
  tcause : Word
  tval : Word
  tpc : Word
  /-- The token FIFOs into the context, oldest entry first (R70). -/
  fifoL : List Tok
  fifoR : List Tok
  /-- Pushes of the context on their way (R142). -/
  outs : List PendPush
  /-- Tick packets issued, and whether the context waits at its next one (R61, R82). -/
  ticks : Nat
  tickWait : Bool
  /-- Cycles of hold to run, and the template images that the hold waits for (R81, R132). -/
  hold : Nat
  images : List Nat
  /-- TEND has issued (R80). -/
  ended : Bool
  /-- The context has returned a fault to the scheduler and has stopped (R164). -/
  stopped : Bool
  /-- Outstanding FENCEs (R124). -/
  fences : List FenceRec
  /-- Dropped accesses not yet reported, and machine-check records written since the last MACHINE_CHECK trap (R125,
  R172). -/
  drops : List Drop
  records : Nat
  /-- Pending reports (R170). -/
  reports : List Report
  /-- The commands that the reports of the handlers entered and not left name, latest first; 0 for none (R170). -/
  handling : List Nat
  /-- Accesses of other agents, not yet performed beyond core scope, that happen before the context's next packet
  (R142). -/
  hb : List Nat
  /-- Place of the next packet in program order. sync is the place of the last CSYNC, 4 times its packet's place and
  its slot, 0 for task start (R134, R140). -/
  seq : Nat
  sync : Nat
  deriving DecidableEq, Repr

/-- A stream binding of v60 to v63 (R71, R123): the ring's rows, the next element to pop and the element count. -/
structure Port where
  out : Bool
  base : Nat
  len : Nat
  head : Nat
  count : Nat
  deriving DecidableEq, Repr, Inhabited

/-- The vector state of context C (R215 to R218). -/
structure Vec where
  vtype : Word
  vwin : Word
  masks : Vector (BitVec 256) 8
  rkey : Word
  rc : Nat
  tof : Nat
  nrow : Nat
  strd : Nat
  sof : Nat
  cr : Nat
  cc : Nat
  /-- Bindings by port number less 60; an unlisted port is unbound. -/
  ports : KMap Port
  deriving DecidableEq, Repr

/-- A template slot: its image and fault mark (R132). -/
structure TplSlot where
  img : TplImage
  mark : Option Mark
  deriving DecidableEq, Repr, Inhabited

/-- A layout-record slot: its image and poison mark (R269, R287). -/
structure RecSlot where
  img : RecImage
  mark : Option Word
  deriving DecidableEq, Repr, Inhabited

/-- The shadow weight tile of the matrix engine (R253, R254): the type and group code it was loaded under, the rows of
each of its columns, and by column and row each weight's pattern and scale pattern. -/
structure Shadow where
  valid : Bool
  btype : Nat
  g : Nat
  rows : Nat
  elems : List Nat
  scales : List Nat
  deriving DecidableEq, Repr, Inhabited

/-- A range-table entry (R173); base, limit and off are in units of 2^16 bytes. -/
structure RangeEntry where
  v : Bool
  base : Nat
  limit : Nat
  off : Nat
  dcls : Nat
  x : Bool
  w : Bool
  r : Bool
  deriving DecidableEq, Repr, Inhabited

/-- What a placed task gives its core (R67, R79). -/
structure Task where
  gang : Nat
  part : Nat
  asid : Nat
  gen : Nat
  priv : Bool
  lwb : Word
  cwb : Word
  gid : Nat
  tid : Nat
  sid : Nat
  tag : Nat
  grp : Nat
  kind : Nat
  fenced : Bool
  rset : Word
  rcnt : Nat
  ranges : List RangeEntry
  deriving DecidableEq, Repr, Inhabited

/-- One core (R7, R61). -/
structure Core where
  ctxL : Ctx
  ctxC : Ctx
  ctxS : Ctx
  vec : Vec
  /-- The scratchpad's bytes and its granules that fail their ECC (R221). -/
  sp : Memory
  spBad : List Nat
  task : Option Task
  /-- Template slots of the matrix engine, copy engine and Prism; an unlisted slot is zero and unmarked (R79). -/
  mx : KMap TplSlot
  cp : KMap TplSlot
  xe : KMap TplSlot
  /-- Layout-record slots; an unlisted slot is zero and unmarked (R269). -/
  recs : KMap RecSlot
  /-- Matrix format table (R241); an unlisted entry is 0. -/
  fmts : KMap Nat
  shadow : Shadow
  /-- Sticky status of the matrix engine (R260). -/
  sticky : BitVec 4
  /-- Copy byte total (R288). -/
  total : BitVec 48
  /-- For each engine class, the context that last won a contended queue entry (R83), and the contexts to which a
  freed entry has been granted. -/
  won : KMap CtxId
  grants : KMap CtxId
  /-- For each engine class, the contexts whose packets wait for room in its queue (R83). -/
  waiting : KMap (List Nat)
  /-- The instant at which a packet with engine words issued last, and the latest context that issued one then (R11). -/
  slotAt : Nat
  slotMax : Nat
  /-- For each of the 192 banks, the port last granted (R264). -/
  banks : KMap Nat
  /-- Lines of the constant cache by address / 256 (R112, R141). -/
  consts : KMap (List Byte)
  deriving DecidableEq, Repr

/-! Accesses (R134, R146). -/

/-- What an access does: a signed or natural load, a load of the constant path, a scalar store, a template image
read, an engine's write, a vector store through the cluster aperture, an accumulation of the matrix engine: its data are the
FP32 addends (R264). -/
inductive AccKind where
  | load | loadn | ldc | store | tpl | eng | vec | acc
  deriving DecidableEq, Repr, Inhabited

/-- Where an access goes: bytes of a core's scratchpad, or an IPA (R114, R174). -/
inductive Dest where
  | sp (core off : Nat)
  | ipa (a : Nat)
  deriving DecidableEq, Repr, Inhabited

/-- An access that has not performed at every scope. nearAt is the place of its near event among all near events, 0
before it (R146). -/
structure Access where
  id : Nat
  core : Nat
  ctx : Option CtxId
  seq : Nat
  slot : Nat
  kind : AccKind
  /-- Ordering class 0 to 15; 16 for none. -/
  cls : Nat
  ea : Word
  dest : Dest
  size : Nat
  data : List Byte
  nearAt : Nat
  /-- Held by a page fault until the host answers this notice (R179). -/
  notice : Option Nat
  /-- Denied by the host (R181). -/
  denied : Bool
  /-- The time before which a refused access is not sent again (R153). -/
  retry : Option Nat
  /-- A home has refused the access, and it has not performed since (R153). -/
  refused : Bool
  /-- The bank has granted the access (R264), and the cycles it has waited. -/
  granted : Bool
  since : Nat
  /-- The place of the context's last CSYNC when the access issued (R141), or the micro-PC at which a command made the access
  (R170). -/
  sync : Nat
  part : Nat
  asid : Nat
  gen : Nat
  /-- The engine command that makes the access, 0 for none. -/
  cmd : Nat
  /-- Template store and slot of an image read (R132), or the class code of the engine that writes. -/
  store : Nat
  deriving DecidableEq, Repr, Inhabited

/-! Engine commands (R11 to R20). -/

/-- A place that a footprint names (R16): a scratchpad, by IPA, or by address where no entry translates. -/
inductive Space where
  | sp (core : Nat)
  | ipa
  | va
  deriving DecidableEq, Repr, Inhabited

/-- A footprint extent: bytes lo to hi - 1 of a space (R13). -/
structure Extent where
  space : Space
  lo : Nat
  hi : Nat
  deriving DecidableEq, Repr, Inhabited

/-- Where a command stands (R10 to R19). -/
inductive Phase where
  | queued | admitted | running | held | waiting | finished
  deriving DecidableEq, Repr, Inhabited

/-- An engine command, a vector word, an atomic word or a scheduler word that has issued and not completed. -/
structure Cmd where
  id : Nat
  core : Nat
  ctx : CtxId
  instr : Instr
  cls : Cls
  slot : Nat
  /-- Program order in its context, and dispatch order in the package (R11). -/
  seq : Nat
  disp : Nat
  part : Nat
  asid : Nat
  gen : Nat
  gang : Nat
  /-- Template slot, formed image, captured record and format entry (R244, R276). -/
  tslot : Nat
  img : TplImage
  lrec : RecImage
  fmt : Nat
  /-- Register values read at issue, in the order of the word's operands. -/
  vals : List Word
  /-- vtype, vwin and bindings that a vector word is bound to (R219). -/
  vtype : Word
  vwin : Word
  ports : KMap Port
  /-- The completion or reply register that the word names, 0 for none (R19). -/
  creg : Nat
  phase : Phase
  upc : Nat
  /-- Commands whose completion an edge waits for (R14). -/
  edges : List Nat
  /-- Accesses that must have performed: near for R17, far where the word's order or scope asks (R151). -/
  waits : List Nat
  farWaits : List Nat
  reads : List Extent
  writes : List Extent
  /-- What the command's lock holds where that is less than its write footprint (R159, R291). -/
  locks : Option (List Extent)
  /-- Completion code and value (R20). -/
  code : Nat
  value : Nat
  /-- The other words of a reply (R349). -/
  out : List Word
  /-- The captured index list (R281), a popped or assembled ring element (R283), working numbers of the engine. -/
  list : List Int
  elem : List Byte
  work : List Nat
  /-- Ordering class of the command's memory accesses (R274, R314). -/
  acls : Nat
  /-- Accesses that the command acquired and its completion passes on (R151, R161). -/
  acq : List Nat
  /-- The weight tile that a matrix command took from the shadow (R253). -/
  tile : Option Shadow
  /-- Bytes counted at the command's barrier, and whether the barrier has refused (R285). -/
  counted : Nat
  refused : Bool
  /-- The matrix command that CPY.FOLLOW forms at issue (R284). -/
  fslot : Nat
  fimg : TplImage
  ffmt : Nat
  freg : Nat
  /-- The fault that holds the command (R170), and a refusal's retry time (R153), a page-fault notice (R179). -/
  fault : Nat
  retry : Option Nat
  notice : Option Nat
  denied : Bool
  /-- Where a held command stands again when it is resumed, and the write whose failure holds it (R170, R182). -/
  back : Phase
  lost : Option Nat
  deriving DecidableEq, Repr

/-! Gangs and tasks (R82, R85, R373, R375, R392). -/

/-- A gang that holds cores. -/
structure Gang where
  part : Nat
  asid : Nat
  gen : Nat
  cores : List Nat
  priv : Bool
  /-- The record as placed (R78), the number of its grid and its gang index (R375). -/
  record : List Byte
  grid : Nat
  gid : Nat
  /-- Position of its entry in the replay log (R388). -/
  pos : Nat
  budget : Nat
  /-- Notices that keep the stall wire raised (R84), and the invalidations whose watchdog does (R185). -/
  notices : List Nat
  watch : List Nat
  /-- Time of the pre-emption flag (R391), and whether issue has stopped for the save (R187). -/
  flag : Option Nat
  stopping : Bool
  /-- The gang is pre-empted and saved (R187, R392). Its cores stay reserved for it (log entry 50), and their state in place
  is what the save holds: no program reaches the save area, and what performs meanwhile is not lost (log entry 87). -/
  saved : Bool
  /-- The gang's ASID has been retired since its placement (R186). -/
  retired : Bool
  /-- The reserved bank holds what its cores will run next (R390). -/
  preloaded : Bool
  placedAt : Nat
  /-- Graph slot and firing number of a firing (R380). -/
  firing : Option (Nat × Nat)
  securing : Bool
  tag : Nat
  sid : Nat
  kind : Nat
  deriving DecidableEq, Repr

/-- A pending range of a grid (R375): indices lo to hi - 1, its epoch and the gang that owns it. -/
structure GridRange where
  lo : Nat
  hi : Nat
  epoch : Nat
  owner : Option Nat
  deriving DecidableEq, Repr, Inhabited

/-- An entry of an arrival queue (R368). A tag entry has no record. -/
structure Entry where
  tag : Nat
  sid : Nat
  kind : Nat
  at_ : Nat
  src : Nat
  record : Option (List Byte)
  priv : Bool
  /-- Its position in the replay log (R388) and the number of its grid. -/
  pos : Nat
  grid : Nat
  /-- The scheduler has found the head's record refused and reported it (R369). -/
  reported : Bool
  deriving DecidableEq, Repr, Inhabited

/-- A grid with indices not yet retired (R375, R376): the entry that made it, its record as first placed, its count G,
its pending ranges and its highest epoch. -/
structure Grid where
  id : Nat
  entry : Entry
  record : List Byte
  g : Nat
  ranges : List GridRange
  epoch : Nat
  deriving DecidableEq, Repr, Inhabited

/-- An entry of the replay log (R388): an admission, or a GROW of a grid by a count, with the time and the source that order it
(R24). -/
structure LogEntry where
  pos : Nat
  at_ : Nat
  src : Nat
  entry : Option Entry
  grid : Nat
  grow : Nat
  deriving DecidableEq, Repr, Inhabited

/-- A bound graph slot (R379 to R381): the record address of each node, its edges, the repetition counts, and the runs of
the firing table. -/
structure GraphSlot where
  nodes : List Nat
  edges : List (Nat × Nat)
  q : List Nat
  table : List (Nat × Nat)
  /-- The period in progress: its entry, and the firings placed and retired. -/
  period : Option Entry
  placed : List Nat
  retired : List Nat
  periods : Nat
  deriving DecidableEq, Repr

/-- The weight reference of a (tag, sid) (R374). -/
structure WRef where
  tag : Nat
  sid : Nat
  root : Option Nat
  deriving DecidableEq, Repr, Inhabited

/-! Memory-side translation, notices and invalidation (R175, R179, R184, R407). -/

/-- A cached leaf (R177), in a controller of a die. -/
structure TcEntry where
  die : Nat
  part : Nat
  asid : Nat
  gen : Nat
  page : Nat
  leaf : Word
  big : Bool
  deriving DecidableEq, Repr, Inhabited

/-- A cached table pointer: the last-level table of the 32 MiB that page / 2^9 names (R177). -/
structure WcEntry where
  die : Nat
  part : Nat
  asid : Nat
  gen : Nat
  region : Nat
  table : Nat
  deriving DecidableEq, Repr, Inhabited

/-- A line of L2, by partition and IPA / 256, with the leaf of the access that allocated it (R177, R178). -/
structure L2Line where
  part : Nat
  line : Nat
  leaf : Word
  big : Bool
  deriving DecidableEq, Repr, Inhabited

/-- Whose access a fault notice holds: an access, a command or an update that records the notice, the packet fetch of a
context, a read of the scheduler's own, or an access from the host or another device, which is not held here. -/
inductive Asker where
  | held
  | fetch (i : CtxId)
  | unit
  | other
  deriving DecidableEq, Repr, Inhabited

/-- A fault notice that waits for its answer (R179, R181). bad says that the host is told of a malformed entry (R175). -/
structure Notice where
  num : Nat
  asid : Nat
  gen : Nat
  kind : Nat
  core : Nat
  gang : Option Nat
  ipa : Nat
  bad : Bool
  whose : Asker
  deriving DecidableEq, Repr, Inhabited

/-- A pending invalidation (R184). -/
structure Inval where
  id : Nat
  rset : Option Nat
  asid : Nat
  gen : Nat
  lo : Nat
  hi : Nat
  since : Nat
  acks : List Nat
  watch : Bool
  deriving DecidableEq, Repr, Inhabited

/-- A ring in host memory (R418). -/
structure HostRing where
  base : Nat
  cap : Nat
  deriving DecidableEq, Repr, Inhabited

/-- A machine-check record (R172) as its four doublewords. -/
abbrev Rec32 := List Word

/-! Atomic engine (R295 to R311). -/

/-- A registered ABWAIT or ASEMW (R306, R310). -/
structure Waiter where
  addr : Nat
  sem : Bool
  arg : Nat
  cmd : Nat
  deriving DecidableEq, Repr, Inhabited

/-! Stash engine (R330 to R346). -/

/-- The metadata entry of a block of a stash entry or of a cz page (R341); line is the IPA of its first line over 2^8. -/
structure BlockMeta where
  v : Bool
  pz : Bool
  fmt : Nat
  lines : Nat
  line : Nat
  deriving DecidableEq, Repr, Inhabited

/-- A stored block of an image: its metadata entry and its stored bytes (R340, R341). -/
structure Block where
  md : BlockMeta
  data : List Byte
  deriving DecidableEq, Repr, Inhabited

/-- A metadata entry in the cache of the engine of a die: that of a block of a stash entry by key and position, or with cz that of a
block of a cz page by its number (R341). -/
structure MdKey where
  die : Nat
  part : Nat
  cz : Bool
  key : Nat
  block : Nat
  deriving DecidableEq, Repr, Inhabited

/-- A directory entry (R335 to R339): state 1 storing, 2 stored, 3 dropped. room is what it holds of its pool. blocks are
those of the tensor and then those of the transposed image. toPol, toRoom and moved belong to a move in progress (R338).
owner is the command that stores or moves the entry, 0 for none. -/
structure StashEntry where
  state : Nat
  pol : Nat
  die : Nat
  etype : Nat
  pk : Bool
  q : Bool
  rows : Nat
  cols : Nat
  tr : Bool
  bytes : Nat
  room : Nat
  blocks : List Block
  toPol : Nat
  toRoom : Nat
  moved : List Block
  owner : Nat
  deriving DecidableEq, Repr

/-! Line engine (R347 to R367). -/

/-- A descriptor slot's contents (R351): the doublewords, the IPAs of gbase, wa, wb, sa1, sb1, sa2, sb2 and ntab, the ASID
and generation. -/
structure OptDesc where
  dws : List Word
  ipas : List Nat
  asid : Nat
  gen : Nat
  deriving DecidableEq, Repr, Inhabited

/-- An armed gradient line (R352). -/
structure Armed where
  ipa : Nat
  count : Nat
  slice : Nat
  desc : OptDesc
  /-- The core whose LEXP armed it, and the write whose far event shows it to the others (R367). -/
  core : Nat
  acc : Nat
  deriving DecidableEq, Repr, Inhabited

/-- An entry of the named store's directory (R357, R358): the name, its line in the store and its count. -/
structure NameEntry where
  name : Nat
  line : Nat
  count : Nat
  deriving DecidableEq, Repr, Inhabited

/-- A write of a descriptor slot by LOPT: the core that made it, and the write whose far event shows it to the others (R351, R367). -/
structure SlotEntry where
  slot : Nat
  core : Nat
  acc : Nat
  desc : OptDesc
  deriving DecidableEq, Repr, Inhabited

/-- A background release that waits for the host's answer to a notice (R179, R359). -/
structure WaitingRelease where
  notice : Nat
  name : Nat
  ipa : Nat
  deriving DecidableEq, Repr, Inhabited

/-- A fired update that waits for the host, with the IPA that its notice names (R179, R355). -/
structure Update where
  id : Nat
  ipa : Nat
  desc : OptDesc
  notice : Option Nat
  miss : Nat
  /-- The failing address of an update that has failed, and the writes that its failure has still to make, by number: its B lines, then
  its name (R355). -/
  fail : Option Nat
  todo : List Nat
  deriving DecidableEq, Repr, Inhabited

/-! Prism (R312 to R329). -/

/-- An open send channel (R318, R320). -/
structure SendCh where
  core : Nat
  part : Nat
  pnode : Nat
  pchan : Nat
  rsz : Nat
  sof : Nat
  deriving DecidableEq, Repr, Inhabited

/-- What a Prism knows of a receiver of one of its send channels (R319, R320, R322): the channel, the receiver's identity, node and
channel, its last window end, whether it has closed since, and whether it has opened again while the send channel stayed open. It is
kept for a channel that is not open yet. -/
structure KnownEnd where
  schan : Nat
  ident : Nat
  src : Nat
  rchan : Nat
  wend : Nat
  closed : Bool
  again : Bool
  deriving DecidableEq, Repr, Inhabited

/-- An open receive channel (R318, R321). -/
structure RecvCh where
  core : Nat
  part : Nat
  pnode : Nat
  pchan : Nat
  la : Nat
  rlen : Nat
  rsz : Nat
  wend : Nat
  bq : Bool
  bsid : Nat
  dlv : Nat
  rcv : Nat
  /-- The sender's close notice has arrived, with the stream's end (R322). -/
  eos : Option Nat
  deriving DecidableEq, Repr, Inhabited

/-- A ring operation in progress at this member (R325): the headers seen by member, and the chunks held by number. -/
structure RingOp where
  ident : Nat
  gtag : Nat
  seq : Nat
  headers : KMap RingHeader
  chunks : KMap (List (BitVec 32))
  deriving DecidableEq, Repr

/-- Messages on their way between Prisms (R313, R319). Each names the Prism of its sender and the place of its sending. -/
structure Net where
  records : List ChanRecord
  ends : List WindowEnd
  closes : List CloseNotice
  rcloses : List ReceiverClose
  rows : List CountRow
  pieces : List Piece
  rings : List RingMsg
  deriving DecidableEq, Repr

/-! Partitions (R400, R406). -/

/-- One partition. Unlisted table entries are 0 or empty. -/
structure Partition where
  clusters : List Nat
  /-- Every place that PART_CONFIG has given: its key, base and size in bytes (R406). -/
  places : List (Nat × Nat × Nat)
  /-- Keys 1 to 10 of R406. -/
  syncSize : List Nat
  poolNear : List Nat
  poolH : List Nat
  poolL : List Nat
  stashCap : List Nat
  namePages : List Nat
  salt : List Byte
  nameCap : Nat
  logCap : Option Nat
  fenceAt : Nat
  saveAt : Option Nat
  mcRing : Option HostRing
  noticeRing : Option HostRing
  winBase : Nat
  winSize : Nat
  hostAsid : Nat
  watchdog : Nat
  secAt : Option Nat
  dpart : Option Nat
  /-- Table roots and generations by ASID (R175, R186), and the ASIDs flushed since generation 0. -/
  roots : KMap Nat
  gens : KMap Nat
  flushed : List Nat
  /-- The ASID that the scheduler supplies: the one whose root was last set (log entry 6). -/
  curAsid : Nat
  invals : List Inval
  notices : List Notice
  /-- Pages, by IPA / 2^16, whose reads by the scheduler the host has denied (R181). -/
  deniedPages : List Nat
  /-- Where reads of the scheduler have met an error that a record has told of (log entry 107). -/
  unitErrs : List Nat
  /-- The null name of a reset is still to be written at vroot (R389). -/
  rootDue : Bool
  /-- Notices, completions and records that wait for their ring (R418). -/
  pendNotices : List Rec32
  pendRecords : List Rec32
  /-- Scheduler (R368 to R393). -/
  queues : KMap (List Entry)
  stage : KMap Word
  policy : KMap Word
  ctl : KMap Word
  grids : List Grid
  inflight : List (Nat × Nat)
  wrefs : List WRef
  graphs : KMap GraphSlot
  log : List LogEntry
  logNext : Nat
  fenceSeq : Nat
  replays : Nat
  /-- The last secured-state record counted as secured (R393), and a securing task is due. -/
  secured : Bool
  boundary : Bool
  /-- Atomic engine: variables by sync address, pairs with ib = 1, poisoned variables, waiters, and what the last
  releases to a variable cover (R295, R301, R305, R306). -/
  sync : KMap Word
  ib : List Nat
  syncPz : List Nat
  waiters : List Waiter
  syncHb : KMap (List Nat)
  /-- Stash engine: directory entries by key; compressed or poisoned blocks of cz pages by IPA / 4096, and those whose
  metadata is lost (R330, R341, R342). -/
  stash : KMap StashEntry
  cz : KMap BlockMeta
  czMissing : List Nat
  /-- Line engine (R351, R352, R357, R359). -/
  slots : List SlotEntry
  lines : List Armed
  names : List NameEntry
  releases : List Nat
  /-- Background releases that wait for the host (R179). -/
  relWaits : List WaitingRelease
  updates : List Update
  /-- Mirror enables and the mirror table by node (R364). -/
  mirrors : List Nat
  mirrorTab : KMap Nat
  deriving DecidableEq, Repr

/-! The host's side (R400 to R416). -/

/-- A mailbox (R401). Bytes of the payload window that are not listed are 0. -/
structure Mailbox where
  command : Word
  status : Word
  payload : Memory
  /-- A LAUNCH that waits for its admission (R368): its partition and its entry. -/
  waiting : Option (Nat × Entry)
  /-- The place of its doorbell write among those of all functions (R402). -/
  bell : Nat
  deriving DecidableEq, Repr, Inhabited

/-- A VF's binding (R400). -/
structure Binding where
  part : Nat
  control : Bool
  deriving DecidableEq, Repr, Inhabited

/-- Where bring-up stands (R412, R416). -/
inductive Boot where
  /-- Step 1 to 4 not yet run. -/
  | cold
  /-- Recovery mode. -/
  | recovery
  /-- Step 5: the CXL link is to come up. -/
  | linkDown
  /-- Step 5 done: waits for DOMAIN_SET. -/
  | waiting
  /-- Step 6 done. -/
  | ready
  deriving DecidableEq, Repr, Inhabited

/-- The enabled-unit map (R405). -/
structure Units where
  cores : BitVec 512
  slices : BitVec 128
  hbm : BitVec 128
  links : BitVec 16
  deriving DecidableEq, Repr, Inhabited

/-- An event that the health monitor counts (R415): its input, its time and the unit that it comes from (R23, R24). -/
structure Health where
  input : Nat
  at_ : Nat
  src : Nat
  deriving DecidableEq, Repr, Inhabited

/-! The packet being issued (R47). -/

/-- The frame in which the words of one packet act: their context, their slot, the packet's address, the context as
it stood after the packet's pops, and what R47 leaves for its last steps. -/
structure Issue where
  core : Nat
  ctx : CtxId
  slot : Nat
  pc : Word
  snap : Ctx
  /-- vtype, vwin and the stream bindings before the packet (R69, R219). -/
  vtype : Word
  vwin : Word
  ports : KMap Port
  /-- tpc as the packet's CSRW words leave it (R131). -/
  tpc : Word
  /-- The packet's words have been checked together, before any of them acts (R169). -/
  checked : Bool
  /-- The target of a taken branch, jump or loop word (step 6). -/
  next : Option Word
  /-- The target is a loop word's, which is no taken branch (R72 to R76). -/
  loop : Bool
  /-- Entries that the packet's words push, in order: side and value (step 5). -/
  pushes : List (Side × Word)
  trap : Option Nat
  /-- The block-shift count that a CSRW leaves after the packet's words (R129). -/
  bsc : Option (BitVec 4)
  eret : Bool
  tend : Bool
  prack : Bool
  deriving DecidableEq, Repr

/-- The state of the module. -/
structure State where
  /-- Nanoseconds and cycles since reset (R22). tsc is the counter that the package distributes. -/
  tsc : Nat
  half : Bool
  /-- Cores by package number; an unlisted core is as after reset (R7). -/
  cores : KMap Core
  gangs : KMap Gang
  cmds : List Cmd
  acc : List Access
  /-- Memory by device physical address, host memory from 2^47 (R409, R411), with poison marks and uncorrectable
  granules by address / 32 (R417). -/
  mem : Memory
  poison : List Nat
  bad : List Nat
  tcache : List TcEntry
  wcache : List WcEntry
  l2 : List L2Line
  /-- The metadata caches of the stash engines, most recently used first (R341). -/
  mdcache : List MdKey
  /-- Numbers of the notices whose entry is malformed, as the host is told (R175). -/
  malformed : List Nat
  /-- Resident sync blocks by die: partition and sync address / 64, most recently used first (R296). -/
  resident : KMap (List (Nat × Nat))
  /-- Partitions, and what each VF is bound to (R400). -/
  parts : KMap Partition
  vfs : KMap Binding
  mail : KMap Mailbox
  /-- MSI-X vectors raised, newest first: function and vector (R408). -/
  msix : List (Nat × Nat)
  /-- Function and vector that an MSI-X table masks (R408; log entry 109). -/
  masked : List (Nat × Nat)
  /-- The number of the next notice or completion (R407); the device has one series (log entry 26). -/
  noticeNext : Nat
  boot : Boot
  units : Units
  /-- What the last bring-up found in the module (R25, R26, R416). -/
  found : BringUp
  /-- The stored firmware image, the one that runs, and the one being pushed (R412, R413). -/
  stored : List Byte
  running : List Byte
  pushing : List Byte
  /-- DOMAIN_SET's values (R312, R363). -/
  node : Nat
  rg : Nat
  q : Nat
  dims : Nat × Nat × Nat
  feed : Nat
  /-- Throttle and temperatures in 0.125 °C (R28, R403). -/
  throttled : Bool
  throttles : Nat
  temps : List Nat
  /-- Health monitor (R415). -/
  health : List Health
  weights : List Nat
  risk : Nat
  /-- When the risk was last set (R415). -/
  riskAt : Nat
  /-- 64-byte lines that the host may hold, by 2^46 times the partition and the IPA / 64, and writes whose far event
  is done and whose host event is to come (R154). -/
  hostLines : KMap (List Byte)
  backInv : List Access
  /-- The data that the last host read returned, none when it completed as poisoned (R154, R410). -/
  hostData : Option (List Byte)
  /-- Prism (R312 to R329). -/
  sends : KMap SendCh
  recvs : KMap RecvCh
  known : List KnownEnd
  heldRows : List CountRow
  rings : List RingOp
  net : Net
  /-- Failed replays in a row of one group by Tradon port (R313). -/
  crc : KMap Nat
  /-- What other devices answer, where it is not the free value of Config (log entry 19). -/
  partners : List Partner
  /-- The model's own fields (log entry 1). -/
  agenda : List Instr
  pace : List Nat
  issue : Option Issue
  nextId : Nat
  nearNext : Nat
  free : Nat
  deriving DecidableEq, Repr

/-- No step of this machine stops it with a fault: every case that the spec describes has a next state. -/
inductive Fault where
  deriving DecidableEq, Repr

/-- Why a step has no meaning. -/
inductive Refusal where
  /-- Raised by an arm of exec whose instruction has no meaning yet, with its mnemonic. Safe: nothing is said about
  what the hardware does. -/
  | notModelled (mnemonic : String)
  deriving DecidableEq, Repr

/-! Reset (R416, R79). -/

/-- A full register of value 0. -/
def XReg.zero : XReg := { val := 0#64, mark := none, pend := [], rank := 0, acq := [] }

/-- A full register of a value. -/
def XReg.full (v : Word) : XReg := { val := v, mark := none, pend := [], rank := 0, acq := [] }

/-- A context with every register full and zero, p0 = 1 and the special registers of R67 at task start. -/
def Ctx.reset : Ctx :=
  { x := Vector.replicate 64 XReg.zero, p := 1#16, pc := 0#64, lc0 := 0#64, li0 := 0#64, sk0 := 0#64,
    lc1 := 0#64, li1 := 0#64, bsc := 0#4, tvb := 0#64, tcause := 0#64, tval := 0#64, tpc := 0#64,
    fifoL := [], fifoR := [], outs := [], ticks := 0, tickWait := false, hold := 0, images := [], ended := false,
    stopped := false, fences := [], drops := [], records := 0, reports := [], handling := [], hb := [], seq := 0, sync := 0 }

/-- The vector state at task start (R215 to R218): m0 all ones, the rest zero. -/
def Vec.reset : Vec :=
  { vtype := 0#64, vwin := 0#64, masks := (Vector.replicate 8 0#256).set 0 (BitVec.allOnes 256), rkey := 0#64,
    rc := 0, tof := 0, nrow := 0, strd := 0, sof := 0, cr := 0, cc := 0, ports := [] }

/-- A shadow tile that holds nothing. -/
def Shadow.reset : Shadow := { valid := false, btype := 0, g := 0, rows := 0, elems := [], scales := [] }

/-- A core with no task. -/
def Core.reset : Core :=
  { ctxL := Ctx.reset, ctxC := Ctx.reset, ctxS := Ctx.reset, vec := Vec.reset, sp := [], spBad := [], task := none,
    mx := [], cp := [], xe := [], recs := [], fmts := [], shadow := Shadow.reset, sticky := 0#4, total := 0#48,
    won := [], grants := [], waiting := [], slotAt := 0, slotMax := 0, banks := [], consts := [] }

/-- Every unit enabled and every port at 32 lanes (DESIGN CHOICE, log entry 4). -/
def Units.reset : Units :=
  { cores := BitVec.allOnes 512, slices := BitVec.allOnes 128, hbm := BitVec.allOnes 128,
    links := BitVec.allOnes 16 }

/-- The module right after reset, before bring-up's second step (R416). -/
def State.reset : State :=
  { tsc := 0, half := false, cores := [], gangs := [], cmds := [], acc := [], mem := [], poison := [], bad := [],
    tcache := [], wcache := [], l2 := [], mdcache := [], malformed := [], resident := [], parts := [],
    vfs := [], mail := [], msix := [], masked := [], noticeNext := 1, boot := .cold, units := Units.reset,
    found := ⟨Units.reset.cores, Units.reset.slices, Units.reset.hbm, Units.reset.links, true⟩, stored := Config.storedImage,
    running := [], pushing := [], node := 0, rg := 0, q := 0, dims := (1, 1, 1), feed := 0, throttled := false,
    throttles := 0, temps := (List.range 4).map Config.restTemp, health := [], weights := [0, 0, 0, 0, 0, 0],
    risk := 0, riskAt := 0, hostLines := [],
    backInv := [], hostData := none, sends := [], recvs := [], known := [], heldRows := [], rings := [],
    net := { records := [], ends := [], closes := [], rcloses := [], rows := [], pieces := [], rings := [] },
    crc := [], partners := [], agenda := [], pace := [], issue := none, nextId := 1, nearNext := 1, free := 0 }

end Sys2Proof.Machine
end

