-- ==== Sys2Proof/Machine/Maps.lean ====
section
/-! DEFINITION. Tables by number, byte memory in its canonical form, and the accessors of the state's parts. -/

namespace Sys2Proof.Machine

/-! Tables. -/

/-- The value listed at a key. -/
def kget {α : Type} (m : KMap α) (k : Nat) : Option α :=
  match m with
  | [] => none
  | (k', v) :: rest => if k' = k then some v else kget rest k

/-- The value listed at a key, or a default. -/
def kgetD {α : Type} (m : KMap α) (k : Nat) (d : α) : α := (kget m k).getD d

/-- The table with a key set; keys stay strictly rising. -/
def kput {α : Type} (m : KMap α) (k : Nat) (v : α) : KMap α :=
  match m with
  | [] => [(k, v)]
  | (k', v') :: rest =>
    if k < k' then (k, v) :: (k', v') :: rest
    else if k = k' then (k, v) :: rest
    else (k', v') :: kput rest k v

/-- The table without a key. -/
def kdel {α : Type} (m : KMap α) (k : Nat) : KMap α :=
  match m with
  | [] => []
  | (k', v') :: rest => if k' = k then kdel rest k else (k', v') :: kdel rest k

/-- The table with the value at a key replaced by a function of it; an unlisted key stays unlisted. -/
def kmod {α : Type} (m : KMap α) (k : Nat) (f : α → α) : KMap α :=
  match kget m k with
  | some v => kput m k (f v)
  | none => m

/-- Keys strictly rising, all above b. -/
def kwfFrom {α : Type} (b : Nat) : KMap α → Bool
  | [] => true
  | (k, _) :: rest => b ≤ k && kwfFrom (k + 1) rest

/-- A table in its form. -/
def kwf {α : Type} (m : KMap α) : Bool := kwfFrom 0 m

/-- A number added to a rising list. -/
def insertNat (l : List Nat) (n : Nat) : List Nat :=
  match l with
  | [] => [n]
  | k :: rest => if n < k then n :: k :: rest else if n = k then k :: rest else k :: insertNat rest n

/-- A number taken out of a list. -/
def eraseNat (l : List Nat) (n : Nat) : List Nat := l.filter (fun k => k != n)

/-- Union of two lists of numbers, the first's order first. -/
def unionNat (a b : List Nat) : List Nat := a ++ b.filter (fun n => !a.contains n)

/-- Element n of a list of numbers, 0 beyond its end. -/
def nth (l : List Nat) (n : Nat) : Nat := l.getD n 0

/-! Memory. -/

/-- The canonical form: addresses strictly rising and no entry equal to 0. -/
def Memory.wf (m : Memory) : Bool := kwf m && m.all (fun c => c.2 != 0#8)

/-- One byte; an unlisted address reads as 0 (log entry 2). -/
def memByte (m : Memory) (a : Nat) : Byte := kgetD m a 0#8

/-- One byte written. -/
def memPut (m : Memory) (a : Nat) (b : Byte) : Memory := if b = 0#8 then kdel m a else kput m a b

/-- n bytes from an address. -/
def memRead (m : Memory) (a : Nat) : Nat → List Byte
  | 0 => []
  | n + 1 => memByte m a :: memRead m (a + 1) n

/-- Bytes written from an address. -/
def memWrite (m : Memory) (a : Nat) : List Byte → Memory
  | [] => m
  | b :: rest => memWrite (memPut m a b) (a + 1) rest

/-- n bytes made 0 from an address. -/
def memZero (m : Memory) (a n : Nat) : Memory := m.filter (fun c => !(decide (a ≤ c.1) && decide (c.1 < a + n)))

/-! Bytes and numbers, least significant byte first (R43, R108). -/

/-- The number that bytes hold. -/
def leNat : List Byte → Nat
  | [] => 0
  | b :: rest => b.toNat + 256 * leNat rest

/-- n bytes of a number. -/
def natBytes : Nat → Nat → List Byte
  | _, 0 => []
  | v, n + 1 => BitVec.ofNat 8 v :: natBytes (v / 256) n

/-- The 64-bit word that bytes hold. -/
def leWord (l : List Byte) : Word := BitVec.ofNat 64 (leNat l)

/-- A doubleword's bytes. -/
def wordBytes (w : Word) : List Byte := natBytes w.toNat 8

/-- Bits hi to lo of a word as a number. -/
def wbits (w : Word) (hi lo : Nat) : Nat := w.toNat / 2 ^ lo % 2 ^ (hi + 1 - lo)

/-- A number's bits hi to lo. -/
def nbits (n hi lo : Nat) : Nat := n / 2 ^ lo % 2 ^ (hi + 1 - lo)

/-- Integers lo, lo + 1, …, n of them. -/
def upFrom (lo : Nat) : Nat → List Nat
  | 0 => []
  | n + 1 => lo :: upFrom (lo + 1) n

/-! Parts of the state. -/

/-- A core by package number (R7). -/
def coreOf (s : State) (n : Nat) : Core := kgetD s.cores n Core.reset

/-- The state with a core replaced. -/
def setCore (s : State) (n : Nat) (c : Core) : State := { s with cores := kput s.cores n c }

/-- A core changed. -/
def modCore (s : State) (n : Nat) (f : Core → Core) : State := setCore s n (f (coreOf s n))

/-- A core's context. -/
def Core.ctx (c : Core) : CtxId → Ctx
  | .L => c.ctxL
  | .C => c.ctxC
  | .S => c.ctxS

/-- A core with a context replaced. -/
def Core.setCtx (c : Core) (i : CtxId) (x : Ctx) : Core :=
  match i with
  | .L => { c with ctxL := x }
  | .C => { c with ctxC := x }
  | .S => { c with ctxS := x }

/-- A context. -/
def ctxOf (s : State) (n : Nat) (i : CtxId) : Ctx := (coreOf s n).ctx i

/-- The state with a context replaced. -/
def setCtx (s : State) (n : Nat) (i : CtxId) (x : Ctx) : State := setCore s n ((coreOf s n).setCtx i x)

/-- A context changed. -/
def modCtx (s : State) (n : Nat) (i : CtxId) (f : Ctx → Ctx) : State := setCtx s n i (f (ctxOf s n i))

/-- Every context of a core changed. -/
def Core.modCtxs (c : Core) (f : Ctx → Ctx) : Core :=
  { c with ctxL := f c.ctxL, ctxC := f c.ctxC, ctxS := f c.ctxS }

/-- A partition, if it has been created. -/
def partOf (s : State) (n : Nat) : Option Partition := kget s.parts n

/-- A partition changed. -/
def modPart (s : State) (n : Nat) (f : Partition → Partition) : State := { s with parts := kmod s.parts n f }

/-- A gang. -/
def gangOf (s : State) (n : Nat) : Option Gang := kget s.gangs n

/-- A gang changed. -/
def modGang (s : State) (n : Nat) (f : Gang → Gang) : State := { s with gangs := kmod s.gangs n f }

/-- A core's task. -/
def taskOf (s : State) (n : Nat) : Option Task := (coreOf s n).task

/-- Whether a core's task belongs to a gang that is saved (R187). -/
def coreSaved (s : State) (n : Nat) : Bool :=
  (taskOf s n).any (fun t => (gangOf s t.gang).any (fun g => g.saved))

/-- Whether a core runs a task: one is placed on it, and its gang is not saved (R184, R187). -/
def coreRuns (s : State) (n : Nat) : Bool := (taskOf s n).isSome && !coreSaved s n

/-- A command by number. -/
def cmdOf (s : State) (n : Nat) : Option Cmd := s.cmds.find? (fun c => c.id == n)

/-- A command changed. -/
def modCmd (s : State) (n : Nat) (f : Cmd → Cmd) : State :=
  { s with cmds := s.cmds.map (fun c => if c.id = n then f c else c) }

/-- A command taken out. -/
def dropCmd (s : State) (n : Nat) : State := { s with cmds := s.cmds.filter (fun c => c.id != n) }

/-- An access by number. -/
def accOf (s : State) (n : Nat) : Option Access := s.acc.find? (fun a => a.id == n)

/-- An access changed. -/
def modAcc (s : State) (n : Nat) (f : Access → Access) : State :=
  { s with acc := s.acc.map (fun a => if a.id = n then f a else a) }

/-- The next number for an access or command, and the state that has used it. -/
def fresh (s : State) : Nat × State := (s.nextId, { s with nextId := s.nextId + 1 })

/-- The die of a core (R7). -/
def dieOf (core : Nat) : Nat := core / 128

/-- The cluster of a core across the package (R400). -/
def clusterOf (core : Nat) : Nat := core / 8

end Sys2Proof.Machine

namespace Sys2Proof

/-- The left neighbour of a context (R70). -/
def CtxId.left : CtxId → CtxId
  | .L => .S
  | .C => .L
  | .S => .C

/-- The right neighbour of a context (R70). -/
def CtxId.right : CtxId → CtxId
  | .L => .C
  | .C => .S
  | .S => .L

/-- Contexts in issue-slot order (R11). -/
def CtxId.num : CtxId → Nat
  | .L => 0
  | .C => 1
  | .S => 2

/-- The class code of an engine (R9). -/
def Cls.code : Cls → Nat
  | .vector => 8
  | .matrix => 9
  | .copy => 10
  | .atomic => 11
  | .prism => 12
  | .stash => 13
  | .line => 14
  | .sched => 15

/-- Whether a class's commands enter the footprint tracker (R13). -/
def Cls.tracked : Cls → Bool
  | .matrix | .copy | .prism | .stash | .line => true
  | .vector | .atomic | .sched => false

/-- The contexts that may issue words of a class (R9). -/
def Cls.allows (c : Cls) (i : CtxId) : Bool :=
  match c with
  | .vector | .matrix => i == .C
  | .copy | .prism | .stash | .line => i == .L || i == .S
  | .atomic | .sched => true

end Sys2Proof

namespace Sys2Proof.Machine

/-- Source numbers of R23. -/
def srcCore (core : Nat) : Nat := 2 ^ 14 * (core / 128) + core % 128
def srcSlice (slice : Nat) : Nat := 2 ^ 14 * (slice / 32) + 0x80 + slice % 32
def srcAtomic (die : Nat) : Nat := 2 ^ 14 * die + 0xA0
def srcStash (die : Nat) : Nat := 2 ^ 14 * die + 0xA1
def srcPrism (die : Nat) : Nat := 2 ^ 14 * die + 0xA2
def srcSched : Nat := 0xC0
def srcBalance : Nat := 0xC1
def srcManager : Nat := 0xC2
def srcCxl : Nat := 0xC3

/-- The source number of Tradon port p, 0 to 7 in die order and port order (R8, R23). -/
def srcPort (p : Nat) : Nat := 2 ^ 14 * (p / 2) + 0xA3 + p % 2

/-- The memory controller that owns a device physical address (R23, R409). -/
def srcMemory (pa : Nat) : Nat :=
  if pa < 2 ^ 39 then 2 ^ 14 * (pa / 2 ^ 37) + 0xB0 + pa / 2 ^ 36 % 2
  else if pa < 2 ^ 41 then 2 ^ 14 * ((pa - 2 ^ 40) / 2 ^ 38) + 0xB8 + (pa - 2 ^ 40) / 2 ^ 35 % 8
  else srcCxl

end Sys2Proof.Machine
end

