-- ==== Sys2Proof/Machine/Mem.lean ====
section
/-! DEFINITION. Addresses and memory: apertures, the range table, the memory-side walk, homes, what a core's agents
read, and a write's arrival at its home (R106, R114, R146, R173 to R178, R409, R417). -/

namespace Sys2Proof.Machine

/-! Apertures and the range table. -/

/-- The kind of a generic address (R114). -/
inductive Ap where
  | shared | loc | cluster
  deriving DecidableEq, Repr, Inhabited

/-- Classification of a generic address under the bases of a task (R114). -/
def apertureOf (lwb cwb g : Word) : Ap :=
  if lwb.toNat ≤ g.toNat && decide (g.toNat < lwb.toNat + 2 ^ 20) then .loc
  else if cwb.toNat ≤ g.toNat && decide (g.toNat < cwb.toNat + 2 ^ 23) then .cluster
  else .shared

/-- The kind of a generic address for a task (R114). -/
def aperture (t : Task) (g : Word) : Ap := apertureOf t.lwb t.cwb g

/-- The first valid entry that translates an address, with its index (R174). -/
def findRange (l : List RangeEntry) (va : Nat) : Option (Nat × RangeEntry) :=
  match l with
  | [] => none
  | e :: rest =>
    if e.v && decide (e.base * 2 ^ 16 ≤ va) && decide (va < e.limit * 2 ^ 16) then some (0, e)
    else (findRange rest va).map (fun p => (p.1 + 1, p.2))

/-- The IPA of an address under an entry, modulo 2^64 (R174). -/
def ipaOf (va : Nat) (e : RangeEntry) : Nat := (va + e.off * 2 ^ 16) % 2 ^ 64

/-- Address faults of R106 and R174. -/
inductive AddrFault where
  | align | localRange | range
  deriving DecidableEq, Repr, Inhabited

/-- The cause code of an address fault (R166). -/
def AddrFault.code : AddrFault → Nat
  | .align => 7
  | .localRange => 6
  | .range => 5

/-- What an access asks of a range-table entry. -/
inductive Perm where
  | read | write | exec
  deriving DecidableEq, Repr, Inhabited

/-- Whether an entry grants a permission (R173). -/
def RangeEntry.grants (e : RangeEntry) : Perm → Bool
  | .read => e.r
  | .write => e.w
  | .exec => e.x

/-- Whether a core is enabled (R25). -/
def coreEnabled (s : State) (n : Nat) : Bool := s.units.cores.getLsbD n

/-- Where a shared address leads, or RANGE (R106, R174). -/
def sharedDest (t : Task) (ea : Word) (p : Perm) : Except AddrFault Dest :=
  match findRange t.ranges ea.toNat with
  | none => .error .range
  | some (_, e) =>
    if e.grants p && decide (ipaOf ea.toNat e < 2 ^ 52) then .ok (.ipa (ipaOf ea.toNat e)) else .error .range

/-- Where a local address leads (R106). -/
def localDest (t : Task) (core : Nat) (ea : Word) : Except AddrFault Dest :=
  if (ea - t.lwb).toNat < Config.spBytes then .ok (.sp core (ea - t.lwb).toNat) else .error .localRange

/-- Where a cluster address leads (R106). -/
def clusterDest (s : State) (t : Task) (core : Nat) (ea : Word) : Except AddrFault Dest :=
  let off := (ea - t.cwb).toNat
  let target := clusterOf core * 8 + off / 2 ^ 20
  if off % 2 ^ 20 < Config.spBytes && coreEnabled s target then .ok (.sp target (off % 2 ^ 20))
  else .error .localRange

/-- The checks of R106 in their order, and where the access goes. -/
def checkAddr (s : State) (t : Task) (core : Nat) (ea : Word) (size : Nat) (p : Perm) : Except AddrFault Dest :=
  if ea.toNat % size ≠ 0 then .error .align
  else
    match aperture t ea with
    | .loc => localDest t core ea
    | .cluster => clusterDest s t core ea
    | .shared => sharedDest t ea p

/-! Physical addresses (R409). -/

/-- Whether device or host memory exists at a physical address (R409, R411). -/
def populated (s : State) (pa : Nat) : Bool :=
  if 2 ^ 47 ≤ pa then decide (pa < 2 ^ 48)
  else if pa < 2 ^ 39 then decide (pa % 2 ^ 32 < 4000000000) && s.units.hbm.getLsbD (pa / 2 ^ 32)
  else decide (2 ^ 40 ≤ pa) && decide (pa < 2 ^ 41)

/-- The die that holds a physical address, 4 for host memory or none. -/
def dieOfPa (pa : Nat) : Nat :=
  if pa < 2 ^ 39 then pa / 2 ^ 37 else if pa < 2 ^ 41 then (pa - 2 ^ 40) / 2 ^ 38 else 4

/-! The walk (R175, R176). -/

/-- A leaf's fields. -/
def leafHome (l : Word) : Nat := wbits l 62 61
def leafCn (l : Word) : Bool := l.getLsbD 60
def leafCz (l : Word) : Bool := l.getLsbD 59
def leafPpol (l : Word) : Nat := wbits l 58 57
def leafHnum (l : Word) : Nat := wbits l 56 48
def leafPa (l : Word) : Nat := wbits l 47 16 * 2 ^ 16
def leafWp (l : Word) : Bool := l.getLsbD 0

/-- The core that a leaf with home 01 names. -/
def leafCore (l : Word) : Nat := wbits l 56 55 * 128 + wbits l 54 48

/-- The slice that a leaf with home 10 names. -/
def leafSlice (l : Word) : Nat := wbits l 56 55 * 32 + wbits l 52 48

/-- Whether a leaf is well formed (R175, R176). -/
def leafOk (s : State) (l : Word) (big : Bool) : Bool :=
  wbits l 11 2 == 0 && wbits l 15 12 == 0 && leafPpol l != 3 &&
  (match leafHome l with
   | 1 => !big && decide (wbits l 19 0 < Config.spBytes) && s.units.cores.getLsbD (leafCore l)
   | 2 => wbits l 54 53 == 0 && s.units.slices.getLsbD (leafSlice l) && populated s (leafPa l)
   | _ => leafHnum l == 0 && populated s (leafPa l))

/-- What a walk finds. bad says that the miss comes from a malformed entry (R175). -/
inductive Walk where
  | leaf (l : Word) (big : Bool)
  | miss (bad : Bool)
  deriving DecidableEq, Repr, Inhabited

/-- One entry of a table. -/
def tableEntry (s : State) (table idx : Nat) : Word := leWord (memRead s.mem (table + 8 * idx) 8)

/-- The granules that n bytes at an offset touch. -/
def granulesOf (a n : Nat) : List Nat := if n = 0 then [] else upFrom (a / 32) ((a + n - 1) / 32 + 1 - a / 32)

/-- Whether a controller cannot read a table's entry: the entry's granule is marked (R172, R417; log entry 117). -/
def entryMarked (s : State) (table idx : Nat) : Bool :=
  (granulesOf (table + 8 * idx) 8).any (fun g => s.poison.contains g || s.bad.contains g)

/-- The walk from a table at a level, with the levels still below it. -/
def walkFrom (s : State) (ipa : Nat) (level table : Nat) : Nat → Walk
  | 0 => .miss true
  | fuel + 1 =>
    let e := tableEntry s table (ipa / 2 ^ (43 - 9 * level) % 512)
    if entryMarked s table (ipa / 2 ^ (43 - 9 * level) % 512) then .miss true
    else if !e.getLsbD 63 then .miss false
    else if e.getLsbD 1 then
      if level < 2 then .miss true
      else if leafOk s e (level == 2) then .leaf e (level == 2) else .miss true
    else if level == 3 || wbits e 11 2 != 0 || e.getLsbD 0 || !populated s (wbits e 47 12 * 2 ^ 12) then .miss true
    else walkFrom s ipa (level + 1) (wbits e 47 12 * 2 ^ 12) fuel

/-- The address of the entry at which a walk from a table meets an uncorrectable error (R172). -/
def badEntryFrom (s : State) (ipa level table : Nat) : Nat → Option Nat
  | 0 => none
  | fuel + 1 =>
    let idx := ipa / 2 ^ (43 - 9 * level) % 512
    let e := tableEntry s table idx
    if entryMarked s table idx then
      if (granulesOf (table + 8 * idx) 8).any (fun g => s.bad.contains g) then some (table + 8 * idx) else none
    else if !e.getLsbD 63 || e.getLsbD 1 then none
    else badEntryFrom s ipa (level + 1) (wbits e 47 12 * 2 ^ 12) fuel

/-- The four-level walk of a partition's table for an ASID (R175). -/
def walk (s : State) (part asid ipa : Nat) : Walk :=
  match partOf s part with
  | none => .miss false
  | some p =>
    match kget p.roots asid with
    | none => .miss false
    | some root => walkFrom s ipa 0 root 4

/-- The enabled slices in the order of R177. -/
def enabledSlices (s : State) : List Nat := (List.range 128).filter (fun n => s.units.slices.getLsbD n)

/-- The home slice of a line with home 00 (R177). -/
def homeSlice (s : State) (part ipa : Nat) : Nat :=
  let h := (ipa / 2 ^ 8 % 2 ^ 16) ^^^ (ipa / 2 ^ 24 % 2 ^ 16) ^^^ (ipa / 2 ^ 40 % 2 ^ 12) ^^^ (part * 2 ^ 11)
  nth (enabledSlices s) (h % (enabledSlices s).length)

/-- The die whose controller walks for an IPA of a partition: that of its home slice (R177). -/
def walkDie (s : State) (part ipa : Nat) : Nat := homeSlice s part ipa / 32

/-- Whether a cached leaf translates a request (R177, R186). -/
def TcEntry.covers (e : TcEntry) (part asid gen ipa : Nat) : Bool :=
  e.part == part && e.asid == asid && e.gen == gen &&
  (if e.big then e.page / 2 ^ 9 == ipa / 2 ^ 25 else e.page == ipa / 2 ^ 16)

/-- Whether a cached table pointer serves a request (R177, R186). -/
def WcEntry.covers (e : WcEntry) (part asid gen ipa : Nat) : Bool :=
  e.part == part && e.asid == asid && e.gen == gen && e.region == ipa / 2 ^ 25

/-- The slice in which a line of L2 stands (R176, R177). -/
def lineSlice (s : State) (e : L2Line) : Nat := if leafHome e.leaf = 2 then leafSlice e.leaf else homeSlice s e.part (256 * e.line)

/-- Whether a line stays allocated: one pinned in its slice, or one that is armed (R176, R352). -/
def lineStays (s : State) (e : L2Line) : Bool :=
  leafHome e.leaf == 2 || ((partOf s e.part).map (fun p => p.lines.any (fun a => a.ipa / 256 == e.line))).getD false

/-- The line of L2 that holds an IPA, whatever the ASID (R178). A line that does not stay may have been evicted, which the spec
leaves open (log entry 88). -/
def l2Find (s : State) (part ipa : Nat) : Option L2Line :=
  s.l2.find? (fun e => e.part == part && e.line == ipa / 256 && (lineStays s e || Config.lineKept s.tsc e.line))

/-- The walk of a request by the controller of its die: from a cached table pointer where it has one (R177). -/
def walkCached (s : State) (part asid gen ipa : Nat) : Walk :=
  match s.wcache.find? (fun e => e.covers part asid gen ipa && e.die == walkDie s part ipa) with
  | some e => walkFrom s ipa 3 e.table 1
  | none => walk s part asid ipa

/-- The leaf of a request: that of the line in L2, the cached one, else the walk's (R177, R178, R184). -/
def leafFor (s : State) (part asid gen ipa : Nat) : Walk :=
  match l2Find s part ipa with
  | some e => .leaf e.leaf e.big
  | none =>
    match s.tcache.find? (fun e => e.covers part asid gen ipa && e.die == walkDie s part ipa) with
    | some e => .leaf e.leaf e.big
    | none => walkCached s part asid gen ipa

/-- The last-level table that a walk of a partition's table reaches, with the levels still to go. -/
def lastTable (s : State) (ipa level table : Nat) : Nat → Nat
  | 0 => table
  | n + 1 => lastTable s ipa (level + 1) (wbits (tableEntry s table (ipa / 2 ^ (43 - 9 * level) % 512)) 47 12 * 2 ^ 12) n

/-- The last entries of a die's cache leave a full one (R177, R341). -/
def trimCache {α : Type} (depth : Nat) (die : α → Nat) (d : Nat) (l : List α) : List α :=
  if depth < (l.filter (fun e => die e == d)).length then
    let keep := (l.filter (fun e => die e == d)).take depth
    keep ++ l.filter (fun e => die e != d)
  else l

/-- The caches of the home slice's controller after a request has used its leaf: the leaf, and the last-level table where the
leaf stands in one (R177). -/
def cacheWalk (s : State) (part asid gen ipa : Nat) (l : Word) (big : Bool) : State :=
  let d := walkDie s part ipa
  if s.tcache.any (fun e => e.covers part asid gen ipa && e.die == d) then s
  else
    let s := { s with tcache := trimCache Config.tcacheDepth TcEntry.die d (⟨d, part, asid, gen, ipa / 2 ^ 16, l, big⟩ :: s.tcache) }
    if big || s.wcache.any (fun e => e.covers part asid gen ipa && e.die == d) then s
    else
      match (partOf s part).bind (fun p => kget p.roots asid) with
      | none => s
      | some root =>
        { s with
          wcache := trimCache Config.tcacheDepth WcEntry.die d (⟨d, part, asid, gen, ipa / 2 ^ 25, lastTable s ipa 0 root 3⟩ :: s.wcache) }

/-- L2 after a line has come into a slice: a full one evicts the oldest of its lines that need not stay, and where all of them
stay a line that need not is not kept (R5, R177, R352; log entry 88). -/
def insertLine (s : State) (l2 : List L2Line) (e : L2Line) : List L2Line :=
  if (l2.filter (fun x => lineSlice s x == lineSlice s e)).length < Config.l2Lines then e :: l2
  else
    match l2.reverse.find? (fun x => lineSlice s x == lineSlice s e && !lineStays s x) with
    | some x => e :: l2.filter (fun y => y != x)
    | none => if lineStays s e then e :: l2 else l2

/-- L2 after an access has allocated a line under its leaf: only lines of homes 00 and 10 stand in L2 (R175 to R178). -/
def allocLine (s : State) (part ipa : Nat) (l : Word) (big : Bool) : List L2Line :=
  if leafHome l == 0 || leafHome l == 2 then
    insertLine s (s.l2.filter (fun e => !(e.part == part && e.line == ipa / 256))) ⟨part, ipa / 256, l, big⟩
  else s.l2

/-- The state after a request has used its leaf: the controller's caches hold it, and the access allocates its line in L2
unless the line is there (R177, R178). -/
def cacheLeaf (s : State) (part asid gen ipa : Nat) : State :=
  match l2Find s part ipa, leafFor s part asid gen ipa with
  | none, .leaf l big =>
    { cacheWalk s part asid gen ipa l big with l2 := allocLine s part ipa l big }
  | _, _ => s

/-- The state after a request has used the leaf of a destination (R177, R178). -/
def useLeaf (s : State) (part asid gen : Nat) (d : Dest) : State :=
  match d with
  | .ipa x => cacheLeaf s part asid gen x
  | .sp _ _ => s

/-- A physical place: bytes of a scratchpad or of memory. -/
inductive Loc where
  | sp (core off : Nat)
  | pa (a : Nat)
  deriving DecidableEq, Repr, Inhabited

/-- The place n bytes on. -/
def Loc.plus : Loc → Nat → Loc
  | .sp c o, n => .sp c (o + n)
  | .pa a, n => .pa (a + n)

/-- The place that a leaf gives an IPA (R175, R176). -/
def leafLoc (l : Word) (big : Bool) (ipa : Nat) : Loc :=
  if leafHome l == 1 then .sp (leafCore l) (wbits l 19 16 * 2 ^ 16 + ipa % 2 ^ 16)
  else .pa (leafPa l + ipa % 2 ^ (if big then 25 else 16))

/-- What memory-side translation answers an access. -/
inductive Found where
  | place (l : Loc) (leaf : Word)
  | miss (bad : Bool)
  deriving DecidableEq, Repr, Inhabited

/-- Memory-side translation; a write to a leaf with wp = 1 is a miss (R175, R181). A scratchpad place needs none and
answers with leaf 0. -/
def findDest (s : State) (part asid gen : Nat) (d : Dest) (write : Bool) : Found :=
  match d with
  | .sp c o => .place (.sp c o) 0#64
  | .ipa a =>
    match leafFor s part asid gen a with
    | .miss b => .miss b
    | .leaf l big =>
      if write && leafWp l then .miss false
      else
        match leafLoc l big a with
        | .sp c o => .place (.sp c o) l
        | .pa p => if populated s p then .place (.pa p) l else .miss true

/-- The slice that homes a name (R347). -/
def nameSlice (s : State) (name : Nat) : Nat :=
  nth (enabledSlices s) (name / 2 ^ 32 % 2 ^ 16 % (enabledSlices s).length)

/-! Bytes at a place. -/

/-- n bytes at a place, as every agent outside the writing core reads them. -/
def locBytes (s : State) (l : Loc) (n : Nat) : List Byte :=
  match l with
  | .sp c o => memRead (coreOf s c).sp o n
  | .pa a => memRead s.mem a n

/-- A destination n bytes on. -/
def Dest.plus : Dest → Nat → Dest
  | .sp c o, n => .sp c (o + n)
  | .ipa a, n => .ipa (a + n)

/-- The IPA of a destination, 0 for a scratchpad. -/
def Dest.ipaOr : Dest → Nat
  | .ipa x => x
  | .sp _ _ => 0

/-- The scratchpad place of a destination: its own, or that of a page pinned in a scratchpad (R176). -/
def spPlaceOf (s : State) (part asid gen : Nat) (d : Dest) : Option (Nat × Nat) :=
  match d with
  | .sp c o => some (c, o)
  | .ipa _ =>
    match findDest s part asid gen d false with
    | .place (.sp c o) _ => some (c, o)
    | _ => none

/-- The physical place of an access, where its translation gives one. -/
def Access.loc (s : State) (a : Access) : Option Loc :=
  match findDest s a.part a.asid a.gen a.dest false with
  | .place l _ => some l
  | .miss _ => none

/-- Whether n bytes at one place and m at another have one in common. -/
def Loc.meets (x y : Loc) (n m : Nat) : Bool :=
  match x, y with
  | .sp c o, .sp c' o' => c == c' && decide (o < o' + m) && decide (o' < o + n)
  | .pa a, .pa a' => decide (a < a' + m) && decide (a' < a + n)
  | _, _ => false

/-- The place of an access in a scratchpad. -/
def Access.spPlace (s : State) (a : Access) : Option (Nat × Nat) := spPlaceOf s a.part a.asid a.gen a.dest

/-- The byte that an access writes at a destination, if it covers it. A page pinned in a scratchpad is the same place
as the scratchpad's own bytes. -/
def Access.byteAt (s : State) (a : Access) (part : Nat) (d : Dest) : Option Byte :=
  match a.dest, d with
  | .sp c o, .sp c' o' => if c = c' ∧ o ≤ o' ∧ o' < o + a.size then a.data[o' - o]? else none
  | .ipa o, .ipa o' => if a.part = part ∧ o ≤ o' ∧ o' < o + a.size then a.data[o' - o]? else none
  | .sp c o, .ipa _ =>
    match spPlaceOf s a.part a.asid a.gen d with
    | some (c', o') => if c = c' ∧ o ≤ o' ∧ o' < o + a.size then a.data[o' - o]? else none
    | none => none
  | .ipa _, .sp c' o' =>
    match a.spPlace s with
    | some (c, o) => if c = c' ∧ o ≤ o' ∧ o' < o + a.size then a.data[o' - o]? else none
    | none => none

/-- Whether an access writes. -/
def AccKind.writes : AccKind → Bool
  | .store | .eng | .vec | .acc => true
  | .load | .loadn | .ldc | .tpl => false

/-- The latest write by agents of a core whose near event has happened and whose far event has not, at a byte (R147
item 2): its place in near order and its byte. -/
def nearByte (s : State) (core part : Nat) (d : Dest) : Option (Nat × Byte) :=
  s.acc.foldl (fun best a =>
    if a.core == core && a.kind.writes && a.nearAt != 0 then
      match a.byteAt s part d, best with
      | some b, none => some (a.nearAt, b)
      | some b, some (n, b') => if n < a.nearAt then some (a.nearAt, b) else some (n, b')
      | none, _ => best
    else best) none

/-- Whether the latest write of a core that has not reached its home, at one of n bytes, is a granule of a vector store that carries
the uncorrectable pattern (R221). -/
def nearPattern (s : State) (core part : Nat) (d : Dest) (n : Nat) : Bool :=
  s.acc.any (fun a =>
    a.kind == .vec && a.store == 1 && a.core == core && a.nearAt != 0 &&
    (upFrom 0 n).any (fun i =>
      (a.byteAt s part (d.plus i)).isSome && (nearByte s core part (d.plus i)).any (fun p => p.1 == a.nearAt)))

/-- Bytes as an agent of a core reads them: the core's own near writes over the bytes at the place (R147). -/
def viewBytes (s : State) (core part : Nat) (d : Dest) : List Byte → List Byte
  | [] => []
  | b :: rest =>
    (match nearByte s core part d with
     | some (_, b') => b'
     | none => b) :: viewBytes s core part (d.plus 1) rest

/-- Own-scratchpad bytes as the core's agents read them. -/
def spView (s : State) (core off n : Nat) : List Byte :=
  if s.acc.any (fun a => a.core == core && a.nearAt != 0) then
    viewBytes s core 0 (.sp core off) (memRead (coreOf s core).sp off n)
  else memRead (coreOf s core).sp off n

/-! Marks (R221, R417). -/

/-- The read error that n bytes at a place meet: POISON or UNCORRECTABLE (R110, R221, R417). -/
def locError (s : State) (l : Loc) (n : Nat) : Option Nat :=
  match l with
  | .sp c o => if (granulesOf o n).any (fun g => (coreOf s c).spBad.contains g) then some 9 else none
  | .pa a =>
    if (granulesOf a n).any (fun g => s.poison.contains g) then some 8
    else if (granulesOf a n).any (fun g => s.bad.contains g) then some 9
    else none

/-- Whether a write covers only part of a marked granule (R417). -/
def partialMarked (marks : List Nat) (a n : Nat) : Bool :=
  (granulesOf a n).any (fun g => marks.contains g && !(decide (a ≤ 32 * g) && decide (32 * g + 32 ≤ a + n)))

/-- Marks with those of the granules that a write covers whole taken away (R417). -/
def clearMarks (marks : List Nat) (a n : Nat) : List Nat :=
  marks.filter (fun g => !(decide (a ≤ 32 * g) && decide (32 * g + 32 ≤ a + n)))

/-- Whether a write at a place must be dropped (R417). -/
def writeDropped (s : State) (l : Loc) (n : Nat) : Bool :=
  match l with
  | .sp c o => partialMarked (coreOf s c).spBad o n
  | .pa a => partialMarked s.poison a n || partialMarked s.bad a n

/-- Bytes written at a place: the far event of a write (R146). Whole granules lose their marks. -/
def locWrite (s : State) (l : Loc) (data : List Byte) : State :=
  match l with
  | .sp c o =>
    modCore s c (fun k =>
      { k with sp := memWrite k.sp o data, spBad := clearMarks k.spBad o data.length })
  | .pa a =>
    { s with mem := memWrite s.mem a data, poison := clearMarks s.poison a data.length,
             bad := clearMarks s.bad a data.length }

/-- A granule-wise mark set on n bytes at a place. -/
def locPoison (s : State) (l : Loc) (n : Nat) : State :=
  match l with
  | .sp c o => modCore s c (fun k => { k with spBad := (granulesOf o n).foldl insertNat k.spBad })
  | .pa a => { s with poison := (granulesOf a n).foldl insertNat s.poison }

/-! What the memory side answers (R110, R342, R417). -/

/-- The answer of the memory side to an access: it waits for a translation or for a block's expansion, it meets an
error, or it can be made at a place. -/
inductive Verdict where
  | wait
  | err (code : Nat) (l : Loc) (leaf : Word)
  | ok (l : Loc) (leaf : Word)
  deriving DecidableEq, Repr, Inhabited

/-- A block of a cz page becomes poisoned (R342). -/
def poisonCz (p : Partition) (block : Nat) : Partition :=
  { p with cz := kput p.cz block ⟨true, true, 0, 0, 0⟩, czMissing := p.czMissing.filter (fun n => n != block) }

/-- What a cz page's block asks: none where the block is expanded and sound (R341, R342). -/
def czVerdict (s : State) (part : Nat) (d : Dest) (size : Nat) (write : Bool) (l : Loc) (leaf : Word) :
    Option Verdict :=
  match d, partOf s part with
  | .ipa a, some p =>
    if !leafCz leaf then none
    else if p.czMissing.contains (a / 4096) then
      if write then (if size = 4096 then none else some (.err 0x0D03 l leaf)) else some .wait
    else
      match kget p.cz (a / 4096) with
      | none => none
      | some m => if m.pz then (if write then none else some (.err 8 l leaf)) else some .wait
  | _, _ => none

/-- The answer of the memory side to an access of size bytes (R110, R175, R342, R417). -/
def judge (s : State) (part asid gen : Nat) (d : Dest) (size : Nat) (write : Bool) : Verdict :=
  match findDest s part asid gen d write with
  | .miss _ => .wait
  | .place l leaf =>
    if leafCn leaf then .err 0xC l leaf
    else
      match czVerdict s part d size write l leaf with
      | some v => v
      | none =>
        if write then
          if writeDropped s l size then .err 8 l leaf else .ok l leaf
        else
          match locError s l size with
          | some c => .err c l leaf
          | none => .ok l leaf

/-- The answer of the memory side to a read by an agent of a core, which meets the core's own near writes (R147, R221). -/
def judgeRead (s : State) (core part asid gen : Nat) (d : Dest) (size : Nat) : Verdict :=
  match judge s part asid gen d size false with
  | .ok l leaf => if nearPattern s core part d size then .err 9 l leaf else .ok l leaf
  | v => v

/-- Bytes of a partition read by IPA on behalf of a unit of the package, none where translation or memory fails. -/
def unitRead (s : State) (part asid gen ipa n : Nat) : Option (List Byte) :=
  match findDest s part asid gen (.ipa ipa) false with
  | .miss _ => none
  | .place l leaf =>
    if leafCn leaf || (locError s l n).isSome then none else some (locBytes s l n)

/-- The generation of an ASID (R186). -/
def genOf (s : State) (part asid : Nat) : Nat :=
  match partOf s part with
  | none => 0
  | some p => kgetD p.gens asid 0

/-- The source number of the unit that finds an error at a place (R23). -/
def srcOfLoc (l : Loc) : Nat :=
  match l with
  | .pa p => srcMemory p
  | .sp c _ => srcCore c

/-- CXL lines of 64 bytes that n bytes of a partition touch (R154). -/
def hostLinesOf (part : Nat) (d : Dest) (n : Nat) : List Nat :=
  match d with
  | .ipa a => if n = 0 then [] else upFrom (part * 2 ^ 46 + a / 64) ((a + n - 1) / 64 + 1 - a / 64)
  | .sp _ _ => []

/-- A write that has had its far event owes the host an event where the host may hold its line (R154). -/
def oweHost (s : State) (a : Access) : State :=
  if (hostLinesOf a.part a.dest a.size).any (fun n => (kget s.hostLines n).isSome) then { s with backInv := s.backInv ++ [a] }
  else s

/-- A write that a unit of the package makes by IPA for a command or for none, which is command 0. -/
def unitAccess (s : State) (part asid gen core cmd ipa : Nat) (data : List Byte) : Access :=
  { id := s.nextId, core := core, ctx := none, seq := 0, slot := 0, kind := .eng, cls := 16, ea := BitVec.ofNat 64 ipa,
    dest := .ipa ipa, size := data.length, data := data, nearAt := 1, notice := none, denied := false, retry := none,
    refused := false, granted := false, since := 0, sync := 0, part := part, asid := asid, gen := gen, cmd := cmd,
    store := Cls.line.code }

end Sys2Proof.Machine
end

