-- ==== Sys2Proof/Machine/Reset.lean ====
section
/-! DEFINITION. Machine-check records, the replay log and the reset of a partition (R172, R368, R388, R389, R415). -/

namespace Sys2Proof.Machine

/-- Place of an event in the health monitor's log (R24). -/
def Health.key (e : Health) : Nat := e.at_ * 2 ^ 16 + e.src

/-- An event added to a log that stands latest first, in the order of R24. -/
def insertHealth (l : List Health) (e : Health) : List Health :=
  match l with
  | [] => [e]
  | x :: rest => if e.key < x.key then x :: insertHealth rest e else e :: x :: rest

/-- An event of the health monitor's log, from a unit (R24, R415). Inputs 0 to 5 are counted; 6 is the release of the
throttle, which is reported and not counted (R28). -/
def healthEvent (s : State) (input src : Nat) : State := { s with health := insertHealth s.health ⟨input, s.tsc, src⟩ }

/-- A machine-check record's four doublewords (R172). -/
def recordWords (s : State) (part src code cls ctx core : Nat) (ea : Word) (ipa : Nat) : Rec32 :=
  [BitVec.ofNat 64 s.tsc,
   BitVec.ofNat 64 (src * 2 ^ 48 + code * 2 ^ 32 + cls * 2 ^ 28 + ctx * 2 ^ 26 + core * 2 ^ 16),
   ea, BitVec.ofNat 64 (part * 2 ^ 59 + ipa % 2 ^ 52)]

/-- Place of a record in the order of R24: time, then source number. -/
def recordKey (r : Rec32) : Nat := (r.getD 0 0#64).toNat * 2 ^ 16 + wbits (r.getD 1 0#64) 63 48

/-- A record added behind every record of the same or an earlier place (R24). -/
def insertRecord (l : List Rec32) (r : Rec32) : List Rec32 :=
  match l with
  | [] => [r]
  | r' :: rest => if recordKey r < recordKey r' then r :: r' :: rest else r' :: insertRecord rest r

/-- A machine-check record is written for a partition's log and sent to the health monitor (R172, R418). -/
def mcRecord (s : State) (part src code cls ctx core : Nat) (ea : Word) (ipa : Nat) : State :=
  modPart (healthEvent s 1 src) part (fun p =>
    if p.mcRing.isSome then
      { p with pendRecords := insertRecord p.pendRecords (recordWords s part src code cls ctx core ea ipa) }
    else p)

/-! The replay log (R388). -/

/-- The oldest of a list of positions, at most d. -/
def minPos (l : List Nat) (d : Nat) : Nat := l.foldl min d

/-- The oldest unretired log position of a partition. A securing task has no entry in the log (R393). -/
def oldestPos (s : State) (part : Nat) (p : Partition) : Nat :=
  minPos ((s.gangs.filter (fun g => g.2.part == part && !g.2.securing)).map (fun g => g.2.pos)
    ++ p.grids.map (fun g => g.entry.pos)
    ++ (p.queues.flatMap (fun q => q.2)).map (fun e => e.pos)
    ++ p.graphs.filterMap (fun g => g.2.period.map (fun e => e.pos))) p.logNext

/-- The fence record's 32 bytes (R388). -/
def fenceBytes (seq tsc pos tag sid kind replays : Nat) : List Byte :=
  natBytes seq 8 ++ natBytes tsc 8 ++ natBytes pos 8 ++
  natBytes (tag * 2 ^ 48 + sid * 2 ^ 44 + kind * 2 ^ 42 + replays % 2 ^ 32) 8

/-- A fence record is written, and the log's entries before its position are freed (R388). -/
def writeFence (s : State) (part tag sid kind : Nat) : State :=
  match partOf s part with
  | none => s
  | some p =>
    if p.logCap.isSome then
      let pos := oldestPos s part p
      let s := locWrite s (.pa p.fenceAt) (fenceBytes (p.fenceSeq + 1) s.tsc pos tag sid kind p.replays)
      modPart s part (fun p =>
        { p with fenceSeq := p.fenceSeq + 1, log := p.log.filter (fun e => decide (pos ≤ e.pos)) })
    else s

/-- Whether the log has room (R388). -/
def logRoom (p : Partition) : Bool :=
  match p.logCap with
  | none => false
  | some n => decide (p.log.length < n)

/-- Whether an admission of a source at a time follows the log's last one in the order of R24; one that does not comes when that
nanosecond is over (R388; log entry 127). -/
def logOrder (p : Partition) (at_ src : Nat) : Bool :=
  match p.log.getLast? with
  | none => true
  | some e => e.at_ != at_ || decide (e.src ≤ src)

/-- Place of an entry among its queue's entries (R24). -/
def entryKey (e : Entry) : Nat := e.at_ * 2 ^ 16 + e.src

/-- Whether an entry stands before another in the order of R24: events of one source keep the order in which they occurred,
which is that of their positions in the log. -/
def Entry.before (x y : Entry) : Bool :=
  decide (entryKey x < entryKey y) || (entryKey x == entryKey y && decide (x.pos < y.pos))

/-- An entry added to a queue in the order of R24. -/
def insertEntry (l : List Entry) (e : Entry) : List Entry :=
  match l with
  | [] => [e]
  | e' :: rest => if e.before e' then e :: e' :: rest else e' :: insertEntry rest e

/-- A queue's number (R369). -/
def queueNo (sid kind : Nat) : Nat := sid * 4 + kind

/-- A queue's entries. -/
def queueOf (p : Partition) (sid kind : Nat) : List Entry := kgetD p.queues (queueNo sid kind) []

/-- A queue replaced. -/
def setQueue (p : Partition) (n : Nat) (l : List Entry) : Partition :=
  { p with queues := if l.isEmpty then kdel p.queues n else kput p.queues n l }

/-- An entry put into its queue (R368). -/
def enqueue (p : Partition) (e : Entry) : Partition :=
  setQueue p (queueNo e.sid e.kind) (insertEntry (queueOf p e.sid e.kind) e)

/-- Bits hi to lo of the doubleword at an offset of a record. -/
def recFld (r : List Byte) (off hi lo : Nat) : Nat := wbits (leWord ((r.drop off).take 8)) hi lo

/-- The grid of an entry as it is admitted: one unowned range of epoch 0 (R375); a tag entry runs gid 0 alone (R369). -/
def newGrid (e : Entry) : Grid :=
  match e.record with
  | some r => ⟨e.grid, e, [], recFld r 0x28 15 0 + 1, [⟨recFld r 0x48 16 0, recFld r 0x48 48 32, 0, none⟩], 0⟩
  | none => ⟨e.grid, e, [], 1, [⟨0, 1, 0, none⟩], 0⟩

/-- A grid by number. -/
def gridOf (p : Partition) (id : Nat) : Option Grid := p.grids.find? (fun g => g.id == id)

/-- A grid changed or added. -/
def putGrid (p : Partition) (g : Grid) : Partition :=
  { p with grids := p.grids.filter (fun x => x.id != g.id) ++ [g] }

/-- An entry enters its queue with a grid of its own. -/
def enterEntry (p : Partition) (e : Entry) : Partition := putGrid (enqueue p e) (newGrid e)

/-- The entry with which a grid stands in its queue: it keeps the record that was placed. -/
def Grid.asEntry (g : Grid) : Entry :=
  if g.record.isEmpty then g.entry else { g.entry with record := some g.record, reported := false }

/-- Whether the entry of a grid stands in its queue. -/
def gridQueued (p : Partition) (g : Grid) : Bool := (queueOf p g.entry.sid g.entry.kind).any (fun e => e.grid == g.id)

/-- A grid's entry leaves its queue. -/
def leaveQueue (p : Partition) (e : Entry) : Partition :=
  setQueue p (queueNo e.sid e.kind) ((queueOf p e.sid e.kind).filter (fun x => x.grid != e.grid))

/-- G raised by n: the new indices are one unowned range with an epoch of their own (R376). The grid's entry stands in its
queue while a range is pending (R375), so it comes back to its place there. -/
def growGrid (p : Partition) (g : Grid) (n : Nat) : Partition :=
  let x := { g with g := g.g + n, ranges := g.ranges ++ [⟨g.g, g.g + n, g.epoch + 1, none⟩], epoch := g.epoch + 1 }
  let p := putGrid p x
  if gridQueued p x then p else enqueue p x.asEntry

/-- Whether an equal R entry already waits (R368). -/
def sameR (p : Partition) (e : Entry) : Bool :=
  e.kind == 3 && e.record.isNone && (queueOf p e.sid e.kind).any (fun x => x.record.isNone && x.tag == e.tag)

/-- An admission: the entry enters its queue and the log (R368, R388). -/
def admitEntry (p : Partition) (e : Entry) : Partition :=
  if sameR p e then p
  else
    let e := { e with pos := p.logNext, grid := 2 * p.logNext }
    let p := enterEntry p e
    { p with log := p.log ++ [⟨e.pos, e.at_, e.src, some e, 0, 0⟩], logNext := p.logNext + 1 }

/-- Whether an entry may enter its queue now (R368, R388). -/
def mayEnter (p : Partition) (e : Entry) : Bool :=
  sameR p e || (decide ((queueOf p e.sid e.kind).length < Config.arrivalDepth) && logRoom p && logOrder p e.at_ e.src)

/-- R entries that the queues of a partition hold beyond their depth (R368). -/
def extraR (p : Partition) : Nat := (p.queues.map (fun q => if q.1 % 4 = 3 then q.2.length - Config.arrivalDepth else 0)).sum

/-- An entry of the log taken again (R389). -/
def replayEntry (p : Partition) (e : LogEntry) (tsc : Nat) : Partition :=
  match e.entry with
  | some x => enterEntry p { x with at_ := tsc, src := srcSched, reported := false }
  | none =>
    match gridOf p e.grid with
    | some g => growGrid p g e.grow
    | none => p

/-- The log's entries from a position onward, admitted again in log order (R389). -/
def replayLog (p : Partition) (pos tsc : Nat) : Partition :=
  p.log.foldl (fun p e => if pos ≤ e.pos then replayEntry p e tsc else p) p

/-- A partition as PART_CREATE makes it: with its clusters and every key at zero (R406). -/
def Partition.fresh (clusters : List Nat) : Partition :=
  { clusters := clusters, places := [], syncSize := [0, 0, 0, 0], poolNear := [0, 0, 0, 0],
    poolH := [0, 0, 0, 0], poolL := [0, 0, 0, 0], stashCap := [0, 0, 0, 0], namePages := [], salt := [], nameCap := 0,
    logCap := none, fenceAt := 0, saveAt := none, mcRing := none, noticeRing := none, winBase := 0,
    winSize := 0, hostAsid := 0, watchdog := 0, secAt := none, dpart := none, roots := [], gens := [], flushed := [],
    curAsid := 0, invals := [], notices := [], deniedPages := [], unitErrs := [], rootDue := false, pendNotices := [],
    pendRecords := [], queues := [],
    stage := [], policy := [], ctl := [], grids := [], inflight := [], wrefs := [], graphs := [], log := [],
    logNext := 0, fenceSeq := 0, replays := 0, secured := false, boundary := false, sync := [],
    ib := [], syncPz := [], waiters := [], syncHb := [], stash := [], cz := [], czMissing := [], slots := [], lines := [],
    names := [], releases := [], relWaits := [], updates := [], mirrors := [], mirrorTab := [] }

/-- The cores of a partition. -/
def partCores (p : Partition) : List Nat := p.clusters.flatMap (fun c => upFrom (8 * c) 8)

/-! Range sets (R173). -/

/-- A range-set entry of 32 bytes, none where a field breaks R173. -/
def parseRange (b : List Byte) : Option RangeEntry :=
  let d0 := leWord (b.take 8)
  let d1 := leWord ((b.drop 8).take 8)
  let d2 := leWord ((b.drop 16).take 8)
  let d3 := leWord ((b.drop 24).take 8)
  if wbits d0 15 0 ≠ 0 ∨ wbits d1 15 0 ≠ 0 ∨ wbits d2 15 0 ≠ 0 ∨ wbits d3 62 8 ≠ 0 ∨ d3.getLsbD 3 = true
    ∨ (d3.getLsbD 63 = true ∧ wbits d1 63 16 ≤ wbits d0 63 16) then none
  else some ⟨d3.getLsbD 63, wbits d0 63 16, wbits d1 63 16, wbits d2 63 16, wbits d3 7 4,
    d3.getLsbD 2, d3.getLsbD 1, d3.getLsbD 0⟩

/-- n entries of a range set at an IPA, none where one is refused or cannot be read. -/
def readRanges (s : State) (part asid gen ipa : Nat) : Nat → Option (List RangeEntry)
  | 0 => some []
  | n + 1 =>
    match unitRead s part asid gen ipa 32 with
    | none => none
    | some b =>
      match parseRange b, readRanges s part asid gen (ipa + 32) n with
      | some e, some l => some (e :: l)
      | _, _ => none

/-- A core's range table is loaded again from its range set; a set that cannot be loaded leaves the table (R184). -/
def reloadRanges (s : State) (core : Nat) : State :=
  match taskOf s core with
  | none => s
  | some t =>
    match readRanges s t.part t.asid t.gen t.rset.toNat t.rcnt with
    | none => s
    | some l => modCore s core (fun k => { k with task := some { t with ranges := l } })

/-! Notices (R179, R407). -/

/-- The four doublewords of a notice (R407). -/
def noticeWords (s : State) (num asid gen kind core ipa : Nat) : Rec32 :=
  [BitVec.ofNat 64 num, BitVec.ofNat 64 (asid * 2 ^ 48 + gen * 2 ^ 44 + kind * 2 ^ 42 + core * 2 ^ 32),
   BitVec.ofNat 64 ipa, BitVec.ofNat 64 s.tsc]

/-- A notice is queued for the host's ring where key 6 has placed one (R418), and its number is used up. -/
def queueNotice (s : State) (part asid gen kind core ipa : Nat) : State :=
  { modPart s part (fun p =>
    { p with
      pendNotices :=
        if p.noticeRing.isSome then p.pendNotices ++ [noticeWords s s.noticeNext asid gen kind core ipa]
        else p.pendNotices }) with noticeNext := s.noticeNext + 1 }

/-! Invalidation (R184, R185). -/

/-- Whether a cached leaf is among those that an invalidation names. -/
def Inval.drops (v : Inval) (part : Nat) (e : TcEntry) : Bool :=
  e.part == part && v.rset.isNone && e.asid == v.asid &&
  (let lo := if e.big then e.page / 2 ^ 9 * 2 ^ 25 else e.page * 2 ^ 16
   let size := if e.big then 2 ^ 25 else 2 ^ 16
   decide (lo < v.hi) && decide (v.lo < lo + size))

/-- Whether a cached table pointer is among those that an invalidation names. -/
def Inval.dropsTable (v : Inval) (part : Nat) (e : WcEntry) : Bool :=
  e.part == part && v.rset.isNone && e.asid == v.asid
  && decide (e.region * 2 ^ 25 < v.hi) && decide (v.lo < e.region * 2 ^ 25 + 2 ^ 25)

/-- Whether a line of L2 stands at an IPA that an invalidation names: lines carry no ASID (R178). -/
def Inval.dropsLine (v : Inval) (part : Nat) (e : L2Line) : Bool :=
  e.part == part && v.rset.isNone && decide (e.line * 256 < v.hi) && decide (v.lo < e.line * 256 + 256)

/-- The accesses of a saved gang's core that are on their way are translated again under its new table; one that no entry
translates any more ends as denied (log entry 89). -/
def retranslate (s : State) (core : Nat) : State :=
  match taskOf s core with
  | none => s
  | some t =>
    { s with acc := s.acc.map (fun a =>
        match a.dest with
        | .sp _ _ => a
        | .ipa _ =>
          if a.core != core || a.ctx.isNone then a
          else
            match sharedDest t a.ea (if a.kind.writes then .write else .read) with
            | .ok d => { a with dest := d, notice := none }
            | .error _ => { a with denied := true, notice := none }) }

/-- What the completion of an invalidation does at a core of a saved gang, which has not acknowledged it: its table is loaded
again where the notice names its range set (R184). -/
def renewSaved (s : State) (v : Inval) (core : Nat) : State :=
  if coreSaved s core && (taskOf s core).any (fun t => v.rset == some t.rset.toNat) then
    retranslate (reloadRanges s core) core
  else s

/-- An invalidation that every core of the partition has acknowledged completes: the matching cached entries and lines go, the
wires that its watchdog raised fall, and the completion is queued (R184, R185, R407). -/
def completeInval (s : State) (part : Nat) (v : Inval) : State :=
  let cores := ((partOf s part).map partCores).getD []
  let s := cores.foldl (fun s n => renewSaved s v n) s
  let s := modPart s part (fun p => { p with invals := p.invals.filter (fun w => w.id != v.id) })
  let s :=
    { s with
      tcache := s.tcache.filter (fun e => !v.drops part e)
      wcache := s.wcache.filter (fun e => !v.dropsTable part e)
      l2 := s.l2.filter (fun e => !v.dropsLine part e)
      gangs := s.gangs.map (fun g => (g.1, { g.2 with watch := g.2.watch.filter (fun n => n != v.id) })) }
  queueNotice s part v.asid v.gen 3 0x3FF (if v.rset.isSome then 0 else v.lo)

/-- Invalidations of a partition that every core which runs a task of it has acknowledged complete (R184). -/
def settleInvals (s : State) (part : Nat) : State :=
  match partOf s part with
  | none => s
  | some p =>
    (p.invals.filter (fun v => (partCores p).all (fun n => v.acks.contains n || !coreRuns s n))).foldl
      (fun s v => completeInval s part v) s

/-! The reset of a partition (R389). -/

/-- Scratchpad contents that nothing fixes, in canonical form (R79, R389). -/
def freeScratch (n : Nat) : Memory :=
  (Config.freeCells n).foldl (fun m c => if c.1 < Config.spBytes then memPut m c.1 c.2 else m) []

/-- A core after its task has been stopped: contents of its scratchpad unspecified. -/
def stopCore (s : State) (n : Nat) : State :=
  { setCore s n { Core.reset with sp := freeScratch s.free } with free := s.free + 1 }

/-- The commands and the accesses not yet made that a partition's work leaves are discarded; a store that has issued
goes on to its home (log entry 7). -/
def discardWork (s : State) (part : Nat) : State :=
  { s with
    cmds := s.cmds.filter (fun c => c.part != part)
    gangs := s.gangs.filter (fun g => g.2.part != part)
    acc := s.acc.filter (fun a => a.part != part || (a.kind.writes && (a.nearAt != 0 || a.kind == .store))) }

/-- The identity of a partition (R319). One without an identity has a number of its own, for the traffic within its node
(R319, R399). -/
def identNo (s : State) (part : Nat) : Nat := ((partOf s part).bind (fun p => p.dpart)).getD (2 ^ 16 + part)

/-- Whether an end is that of a receiver of a send channel. -/
def KnownEnd.names (k : KnownEnd) (schan ident src rchan : Nat) : Bool :=
  k.schan == schan && k.ident == ident && k.src == src && k.rchan == rchan

/-- The end that a receiver of a send channel has sent. -/
def endOf (l : List KnownEnd) (schan ident src rchan : Nat) : Option KnownEnd := l.find? (fun k => k.names schan ident src rchan)

/-- The ends with another of one receiver. -/
def putEnd (l : List KnownEnd) (k : KnownEnd) : List KnownEnd := k :: l.filter (fun x => !x.names k.schan k.ident k.src k.rchan)

/-- The ends after a send channel has closed: its peer's is forgotten, unless the peer has opened its channel again since (R320,
R322). -/
def forgetEnd (l : List KnownEnd) (schan ident : Nat) (x : SendCh) : List KnownEnd :=
  let own (k : KnownEnd) : Bool := k.names schan ident x.pnode x.pchan
  (l.filter (fun k => !own k || k.again)).map (fun k => if own k then { k with again := false } else k)

/-- The close messages of a partition's channels (R318, R322). -/
def closeChannels (s : State) (part : Nat) : State :=
  let ident := identNo s part
  { s with
    sends := s.sends.filter (fun c => c.2.part != part)
    recvs := s.recvs.filter (fun c => c.2.part != part)
    known := (s.sends.filter (fun c => c.2.part == part)).foldl (fun l c => forgetEnd l c.1 ident c.2) s.known
    nextId := s.nextId + 1
    net := { s.net with
      closes := s.net.closes ++ (s.sends.filter (fun c => c.2.part == part)).map (fun c =>
        ⟨ident, s.node, c.1, c.2.pnode, c.2.pchan, c.2.sof, dieOf c.2.core, s.nextId⟩)
      rcloses := s.net.rcloses ++ (s.recvs.filter (fun c => c.2.part == part)).map (fun c =>
        ⟨ident, s.node, c.1, c.2.pnode, c.2.pchan, dieOf c.2.core, s.nextId⟩) } }

/-- The partition's own volatile state cleared (R389 step 3). -/
def clearPartition (p : Partition) : Partition :=
  { p with
    queues := [], inflight := [], wrefs := [], grids := [], waiters := [],
    stash := [], lines := [], slots := [], names := [], releases := [], relWaits := [], updates := [], mirrorTab := [],
    boundary := false,
    graphs := p.graphs.map (fun g => (g.1, { g.2 with period := none, placed := [], retired := [] })) }

/-- The root slot at vroot is written with the null name, an event that a host which holds its line sees (R154, R389). Where the write
misses it waits for the host, and no task is placed before it (R179); one that the memory side rejects is dropped with a record
(R172). -/
def clearRoot (s : State) (part : Nat) : State :=
  match partOf s part with
  | none => s
  | some p =>
    let v := (kgetD p.ctl 0 0#64).toNat
    if v = 0 then s
    else
      let gen := kgetD p.gens p.curAsid 0
      match judge s part p.curAsid gen (.ipa v) 16 true with
      | .ok l _ =>
        oweHost { useLeaf (locWrite s l (natBytes 0 16)) part p.curAsid gen (.ipa v) with nextId := s.nextId + 1 }
          (unitAccess s part p.curAsid gen 0x3FF 0 v (natBytes 0 16))
      | .err code l _ => mcRecord s part (srcOfLoc l) code 0 3 0x3FF (BitVec.ofNat 64 v) v
      | .wait => modPart s part (fun p => { p with rootDue := true })

/-- The position that the fence record holds. One that the memory controller cannot read is recorded, and no rule says where the replay
starts (R172, R389; log entry 117). -/
def readFence (s : State) (part : Nat) (p : Partition) : Nat × State :=
  match (if p.logCap.isSome then locError s (.pa (p.fenceAt + 16)) 8 else none) with
  | none => (leNat (memRead s.mem (p.fenceAt + 16) 8), s)
  | some code =>
    (Config.fencePos s.free,
     { (if code = 9 then mcRecord s part (srcMemory (p.fenceAt + 16)) 9 0 3 0x3FF (BitVec.ofNat 64 (p.fenceAt + 16)) 0 else s) with
        free := s.free + 1 })

/-- The reset of a partition: the record, the stop, the clearing, and the replay from the fence record's position
(R389). -/
def resetPartition (s : State) (part code ctx core : Nat) (ea : Word) : State :=
  match partOf s part with
  | none => s
  | some p =>
    let s := mcRecord s part srcSched code 0 ctx core ea 0
    let r := readFence s part p
    let pos := r.1
    let s := r.2
    let s := discardWork s part
    let s := (partCores p).foldl stopCore s
    let s := closeChannels s part
    let s := modPart s part clearPartition
    let s := clearRoot s part
    let s := modPart s part (fun p =>
      if p.logCap.isSome then replayLog { p with replays := p.replays + 1 } pos s.tsc
      else { p with replays := p.replays + 1 })
    settleInvals s part

end Sys2Proof.Machine
end

