-- ==== Sys2Proof/Machine/Operands.lean ====
section
/-! DEFINITION. The operands of words: reading and writing scalar registers, their fills, predicates, block shifts,
the sources and destinations of every instruction, and the forming of a template command (R12, R62 to R66, R107, R244). -/

namespace Sys2Proof.Machine

/-! Scalar registers. -/

/-- A register as it stands; x0 is always full and zero (R62). -/
def Ctx.reg (c : Ctx) (r : RegNo) : XReg := if r = 0#6 then XReg.zero else c.x[r.toNat]'r.isLt

/-- A register's value. -/
def Ctx.readX (c : Ctx) (r : RegNo) : Word := (c.reg r).val

/-- Whether a register is full (R63). -/
def Ctx.fullX (c : Ctx) (r : RegNo) : Bool := (c.reg r).pend.isEmpty

/-- A register replaced; x0 discards (R62). -/
def Ctx.setReg (c : Ctx) (r : RegNo) (v : XReg) : Ctx :=
  if r = 0#6 then c else { c with x := c.x.set r.toNat v r.isLt }

/-- A word in a packet slot writes a register. The mark is cleared (R110). Where a load of the same packet has made
the register empty, the value of the later slot stays (R107). -/
def Ctx.writeX (c : Ctx) (r : RegNo) (slot : Nat) (v : Word) : Ctx :=
  let old := c.reg r
  if old.pend.isEmpty then c.setReg r (XReg.full v)
  else if old.rank ≤ slot + 1 && old.pend.all (fun p => p.slot < slot) then
    c.setReg r { old with val := v, mark := none, acq := [], rank := slot + 1 }
  else c.setReg r { old with val := v, mark := none, acq := [] }

/-- A word makes a register empty until a fill arrives (R63). -/
def Ctx.emptyX (c : Ctx) (r : RegNo) (p : PendFill) : Ctx :=
  let old := c.reg r
  c.setReg r { old with pend := old.pend ++ [p], acq := [], rank := if old.pend.isEmpty then 0 else old.rank }

/-- One register's fill, if the fill is pending to it. It becomes full when its last fill has arrived (R63, R107). -/
def XReg.fill (x : XReg) (id part : Nat) (v : Word) (mark : Option Mark) (acq : List Nat) : XReg :=
  match x.pend.find? (fun p => p.id == id && p.part == part) with
  | none => x
  | some p =>
    let rest := x.pend.filter (fun q => !(q.id == id && q.part == part))
    let rank := if rest.isEmpty then 0 else max x.rank (p.slot + 1)
    if x.rank ≤ p.slot + 1 then { val := v, mark := mark, pend := rest, rank := rank, acq := acq }
    else { x with pend := rest, rank := rank }

/-- A fill arrives: it is written to the register that its value has reached (R63, R65). -/
def Ctx.fill (c : Ctx) (id part : Nat) (v : Word) (mark : Option Mark) (acq : List Nat) : Ctx :=
  { c with x := c.x.map (fun x => x.fill id part v mark acq) }

/-- Whether a fill of an access or command is pending to some register. -/
def Ctx.awaits (c : Ctx) (id : Nat) : Bool := c.x.any (fun x => x.pend.any (fun p => p.id == id))

/-- A pop writes ql or qr (R47). -/
def Ctx.popX (c : Ctx) (r : RegNo) (v : Word) : Ctx := c.setReg r (XReg.full v)

/-- Reading registers acquires what their completions released (R19, R142). -/
def Ctx.acquire (c : Ctx) (rs : List RegNo) : Ctx :=
  rs.foldl (fun c r =>
    if (c.reg r).acq.isEmpty then c
    else { c.setReg r { c.reg r with acq := [] } with hb := unionNat c.hb (c.reg r).acq }) c

/-! Predicates (R66). -/

/-- Predicate n. -/
def Ctx.pred (c : Ctx) (n : Nat) : Bool := n = 0 || c.p.getLsbD n

/-- Predicate n replaced; p0 discards writes. -/
def Ctx.setPred (c : Ctx) (n : Nat) (b : Bool) : Ctx :=
  if n = 0 then c
  else { c with p := (c.p &&& ~~~(BitVec.ofNat 16 (2 ^ n))) ||| (if b then BitVec.ofNat 16 (2 ^ n) else 0#16) }

/-! Loop registers (R68). -/

def lcAct (l : Word) : Bool := l.getLsbD 63
def lcLen (l : Word) : Nat := wbits l 62 54
def lcStart (l : Word) : Nat := wbits l 47 4 * 16
def skK (w : Word) : Nat := wbits w 34 32
def skN (w : Word) : Nat := wbits w 31 0
def li1N (w : Word) : Nat := wbits w 63 32
def li1J (w : Word) : Nat := wbits w 31 0

/-- A loop descriptor (R68). -/
def lcWord (act : Bool) (len start : Nat) : Word :=
  BitVec.ofNat 64 ((if act then 2 ^ 63 else 0) + len % 512 * 2 ^ 54 + start / 16 % 2 ^ 44 * 16)

/-- A descriptor with act cleared. -/
def lcOff (l : Word) : Word := l &&& 0x7FFFFFFFFFFFFFFF#64

/-- The address of a loop's last packet, start × 16 + (len − 1) × 16 (R68). A descriptor of length 0 ends one packet before its
start (DEDUCED, log entry 113). -/
def lcEnd (l : Word) : Nat := (2 ^ 64 + lcStart l + 16 * lcLen l - 16) % 2 ^ 64

/-- Whether an address lies in a loop's body. -/
def lcHolds (l : Word) (a : Nat) : Bool := decide (lcStart l ≤ a) && decide (a < lcStart l + 16 * lcLen l)

/-- The stage predicates (R72). -/
def Ctx.setStage (c : Ctx) : Ctx :=
  (upFrom 1 7).foldl (fun c j =>
    c.setPred j (decide (j ≤ skK c.sk0) && decide (j - 1 ≤ c.li0.toNat) && decide (c.li0.toNat < j - 1 + skN c.sk0))) c

/-- The stage predicates when no inner loop is active (R66). -/
def Ctx.clearStage (c : Ctx) : Ctx := (upFrom 1 7).foldl (fun c j => c.setPred j false) c

/-! Block shifts (R65). -/

/-- A register by plain number. -/
def Ctx.regN (c : Ctx) (n : Nat) : XReg := c.reg (BitVec.ofNat 6 n)

/-- One block shift: every register moves up with its marks and fills, and the top one wraps round. -/
def Ctx.shiftBlock (c : Ctx) : Ctx :=
  let top := c.regN 47
  let moved := (upFrom 0 15).foldl (fun c i => c.setReg (BitVec.ofNat 6 (47 - i)) (c.regN (46 - i))) c
  { moved.setReg 32#6 top with bsc := c.bsc + 1#4 }

/-- Several block shifts (R129). -/
def Ctx.shiftBlocks (c : Ctx) : Nat → Ctx
  | 0 => c
  | n + 1 => c.shiftBlock.shiftBlocks n

/-! Forming a template command (R12, R53, R244, R276, R315). -/

/-- The template store of a P-form class. -/
def Core.tplSlots (c : Core) : Cls → KMap TplSlot
  | .matrix => c.mx
  | .copy => c.cp
  | .prism => c.xe
  | _ => []

/-- A template slot; an unlisted one is zero (R79). -/
def Core.tpl (c : Core) (e : Cls) (n : Nat) : TplSlot := kgetD (c.tplSlots e) n ⟨0#512, none⟩

/-- A register-source entry (R243). -/
def rsV (e : Nat) : Bool := nbits e 15 15 == 1
def rsTrap (e : Nat) : Bool := nbits e 14 14 == 1
def rsFld (e : Nat) : Nat := nbits e 13 8
def rsReg (e : Nat) : RegNo := BitVec.ofNat 6 (nbits e 5 0)

/-- Whether a register's value fits a field (R244). -/
def regFits (f : FieldSpec) (v : Word) : Bool :=
  if f.width ≥ 64 then true
  else if f.signed then decide (-(2 : Int) ^ (f.width - 1) ≤ v.toInt) && decide (v.toInt < (2 : Int) ^ (f.width - 1))
  else decide (v.toNat < 2 ^ f.width)

/-- A formed command: its image, the registers it read with their modes, the fields whose register did not fit, and the
register-source entries in use, each with its field number, as step 2 of R244 takes them. -/
structure Formed where
  img : TplImage
  regs : List (RegNo × Bool)
  misfit : List Nat
  ents : List (Nat × Nat)
  deriving DecidableEq, Repr

/-- The field and value of a patch, read in block mode where it names a register (R53). -/
def patchOf (e : Cls) (c : Ctx) (fsel value : Nat) : Option (FieldSpec × Nat × List (RegNo × Bool) × List Nat) :=
  if fsel = 63 then
    (patchField e (value / 2 ^ 8)).map (fun f =>
      let r : RegNo := BitVec.ofNat 6 value
      (f, (c.readX r).toNat % 2 ^ f.width, [(r, false)], if regFits f (c.readX r) then [] else [f.num]))
  else (patchField e fsel).map (fun f => (f, patchValue f value, [], []))

/-- A patch put into an image. -/
def putPatch (img : TplImage) : Option (FieldSpec × Nat × List (RegNo × Bool) × List Nat) → TplImage
  | none => img
  | some (f, v, _, _) => imgSetField img f.lo f.width v

/-- One register source replaces its field (R244 step 2). -/
def putSource (e : Cls) (c : Ctx) (f : Formed) (x : Nat × Nat) : Formed :=
  match fieldOf e (rsFld x.2) with
  | none => f
  | some fs =>
    let v := c.readX (rsReg x.2)
    { f with
      img := imgSetField f.img fs.lo fs.width (v.toNat % 2 ^ fs.width)
      regs := f.regs ++ [(rsReg x.2, rsTrap x.2)]
      misfit := if regFits fs v then f.misfit else f.misfit ++ [fs.num] }

/-- The register-source entries in use of an image, each with its field number (R243). -/
def entriesOf (e : Cls) (img : TplImage) : List (Nat × Nat) :=
  ((rsFields e).map (fun k => (k, tplField e img k))).filter (fun x => rsV x.2)

/-- A command formed from an image by R244: register sources, then the patch, unless it named a source entry. -/
def formImage (e : Cls) (c : Ctx) (img : TplImage) (fsel value : Nat) : Formed :=
  let patch := patchOf e c fsel value
  let inRs := (patch.map (fun p => (rsFields e).contains p.1.num)).getD false
  let img0 := if inRs then putPatch img patch else img
  let f := (entriesOf e img0).foldl (putSource e c) ⟨img0, [], [], entriesOf e img0⟩
  { ents := f.ents
    img := if inRs then f.img else putPatch f.img patch
    regs := f.regs ++ ((patch.map (fun p => p.2.2.1)).getD [])
    misfit := f.misfit ++ ((patch.map (fun p => p.2.2.2)).getD []) }

/-- The op field of the command that a P-form word would form (R53); 0 for a word of another form. -/
def formedOp (k : Core) (c : Ctx) (w : IWord) : Nat :=
  let go (e : Cls) : Nat :=
    tplField e (formImage e c (k.tpl e (fld w 22 6)).img (fld w 16 6) (fld w 0 16)).img 1
  match fld w 28 4 with
  | 9 => go .matrix
  | 10 => go .copy
  | 12 => go .prism
  | _ => 0

/-- The command that a P-form instruction forms in a frame: its op field is the instruction's own. -/
def formCmd (k : Core) (c : Ctx) (e : Cls) (op : Nat) (tpl fsel value : Nat) : Formed :=
  let f := formImage e c (k.tpl e tpl).img fsel value
  { f with img := setTplField e f.img 1 op }

/-- The lowest of a list of field numbers. -/
def lowest (l : List Nat) : Option Nat :=
  l.foldl (fun b n =>
    match b with
    | none => some n
    | some m => some (min m n)) none

/-- Whether a field of a template that its op uses holds a reserved code: a rounding code of 5 to 7 (R205), an element type of
0xA to 0xF (R189). -/
def codeReserved (e : Cls) (img : TplImage) (n : Nat) : Bool :=
  let op := tplField e img 1
  match e with
  | .matrix => n == 8 && (op == 1 || op == 2 || op == 4) && decide (5 ≤ tplField e img 8)
  | .prism => n == 9 && (op == 8 || op == 9) && decide (10 ≤ tplField e img 9)
  | _ => false

/-- Whether a register-source entry in use breaks R243. Of two that name one field, the later one does (DESIGN CHOICE, log entry
115). -/
def badEntry (e : Cls) (ents : List (Nat × Nat)) (x : Nat × Nat) : Bool :=
  decide (rsFld x.2 < (rsRange e).1) || decide ((rsRange e).2 < rsFld x.2) || nbits x.2 7 6 != 0
  || ents.any (fun y => decide (y.1 < x.1) && rsFld y.2 == rsFld x.2)

/-- The first register-source entry of a formed command that breaks R243 (R294). -/
def reservedEntry (e : Cls) (c : Formed) : Option Nat := lowest ((c.ents.filter (badEntry e c.ents)).map (fun x => x.1))

/-- The reserved field that a formed command's fault names: the first register-source entry that breaks R243, else the lowest
field that is reserved, or holds a reserved code, and is not zero (R294). -/
def reservedAt (e : Cls) (c : Formed) : Option Nat :=
  (reservedEntry e c).or
    (lowest (((fieldMap e).filter (fun f =>
      (f.reserved && tplField e c.img f.num != 0) || codeReserved e c.img f.num)).map (fun f => f.num)))

/-! Operand registers of every word. -/

/-- The even register that a pair field names (R298, R349). -/
def pairReg (p : BitVec 4) : RegNo := p.setWidth 6 * 2#6

/-- The even register that a name field names (R349). -/
def evenReg (n : BitVec 5) : RegNo := n.setWidth 6 * 2#6

/-- The first register that a quad field names (R349). -/
def quadReg (q : BitVec 3) : RegNo := q.setWidth 6 * 4#6

/-- The engine class of a word, none for a scalar word and for an event (R9, R50). -/
def wordCls : Instr → Option Cls
  | .vadd .. | .vsub .. | .vmul .. | .vfma .. | .vfnma .. | .vmin .. => some .vector
  | .vmax .. | .vminn .. | .vmaxn .. | .vabs .. | .vneg .. | .vand .. => some .vector
  | .vor .. | .vxor .. | .vandn .. | .vshl .. | .vshr .. | .vsra .. => some .vector
  | .vexp2 .. | .vlog2 .. | .vrecip .. | .vrsq .. | .vcmpEq .. | .vcmpNe .. => some .vector
  | .vcmpLt .. | .vcmpGe .. | .vcmpLtn .. | .vcmpGen .. | .vsel .. | .vcvt .. => some .vector
  | .vrng .. | .vkey .. | .vrsum .. | .vrmax .. | .vrmin .. | .vscan .. => some .vector
  | .vscanx .. | .vtopk .. | .vperm .. | .vbcast .. | .vextx .. | .vmand .. => some .vector
  | .vmor .. | .vmxor .. | .vmandn .. | .vmpopc .. | .vmget .. | .vmset .. => some .vector
  | .vldr .. | .vstr .. | .vwin .. | .vwalk .. | .vldw .. | .vfence => some .vector
  | .mma .. | .mmag .. | .mwld .. | .mdrain .. | .mzero .. | .mfmt .. => some .matrix
  | .mstat .. | .mfence .. => some .matrix
  | .cpyIn .. | .cpyOut .. | .cpyGather .. | .cpyScat .. | .cpyRing .. | .cpyT .. => some .copy
  | .cpyFollow .. | .cpyBar .. | .cpyFill .. | .lrec .. | .cpyStat .. => some .copy
  | .ald .. | .ast .. | .aswp .. | .aadd .. | .aand .. | .aor .. => some .atomic
  | .axor .. | .amin .. | .amax .. | .aminn .. | .amaxn .. | .afadd .. => some .atomic
  | .acas .. | .acasFa .. | .abinit .. | .abarr .. | .abexp .. | .abwait .. => some .atomic
  | .asemp .. | .asemw .. => some .atomic
  | .xsort .. | .xa2a .. | .xchOpen .. | .xchWin .. | .xchSend .. | .xchRecv .. => some .prism
  | .xchClose .. | .xringRs .. | .xringAg .. | .xstat .. => some .prism
  | .sst .. | .sstT .. | .spf .. | .srel .. | .sqry .. | .spol .. => some .stash
  | .lexp .. | .lred .. | .lopt .. | .lqry .. | .nlook .. | .nref .. => some .line
  | .nrel .. | .nswap .. | .nget .. | .nout .. | .nhas .. | .nxfer .. => some .line
  | .grow .. | .post .. | .fencew .. | .gbind .. | .grebind .. | .gstat .. => some .sched
  | .ptset .. | .hmrisk .. | .prack .. => some .sched
  | _ => none

/-- The template operation of a P-form instruction: its engine, op code, slot and patch (R246, R275, R315). -/
def pform : Instr → Option (Cls × Nat × Nat × Nat × Nat)
  | .mma t f v => some (.matrix, 1, t.toNat, f.toNat, v.toNat)
  | .mmag t f v => some (.matrix, 2, t.toNat, f.toNat, v.toNat)
  | .mwld t f v => some (.matrix, 3, t.toNat, f.toNat, v.toNat)
  | .mdrain t f v => some (.matrix, 4, t.toNat, f.toNat, v.toNat)
  | .mzero t f v => some (.matrix, 5, t.toNat, f.toNat, v.toNat)
  | .mfmt t f v => some (.matrix, 6, t.toNat, f.toNat, v.toNat)
  | .mstat t f v => some (.matrix, 7, t.toNat, f.toNat, v.toNat)
  | .mfence t f v => some (.matrix, 8, t.toNat, f.toNat, v.toNat)
  | .cpyIn t f v => some (.copy, 1, t.toNat, f.toNat, v.toNat)
  | .cpyOut t f v => some (.copy, 2, t.toNat, f.toNat, v.toNat)
  | .cpyGather t f v => some (.copy, 3, t.toNat, f.toNat, v.toNat)
  | .cpyScat t f v => some (.copy, 4, t.toNat, f.toNat, v.toNat)
  | .cpyRing t f v => some (.copy, 5, t.toNat, f.toNat, v.toNat)
  | .cpyT t f v => some (.copy, 6, t.toNat, f.toNat, v.toNat)
  | .cpyFollow t f v => some (.copy, 7, t.toNat, f.toNat, v.toNat)
  | .cpyBar t f v => some (.copy, 8, t.toNat, f.toNat, v.toNat)
  | .cpyFill t f v => some (.copy, 9, t.toNat, f.toNat, v.toNat)
  | .lrec t f v => some (.copy, 10, t.toNat, f.toNat, v.toNat)
  | .cpyStat t f v => some (.copy, 11, t.toNat, f.toNat, v.toNat)
  | .xsort t f v => some (.prism, 1, t.toNat, f.toNat, v.toNat)
  | .xa2a t f v => some (.prism, 2, t.toNat, f.toNat, v.toNat)
  | .xchOpen t f v => some (.prism, 3, t.toNat, f.toNat, v.toNat)
  | .xchWin t f v => some (.prism, 4, t.toNat, f.toNat, v.toNat)
  | .xchSend t f v => some (.prism, 5, t.toNat, f.toNat, v.toNat)
  | .xchRecv t f v => some (.prism, 6, t.toNat, f.toNat, v.toNat)
  | .xchClose t f v => some (.prism, 7, t.toNat, f.toNat, v.toNat)
  | .xringRs t f v => some (.prism, 8, t.toNat, f.toNat, v.toNat)
  | .xringAg t f v => some (.prism, 9, t.toNat, f.toNat, v.toNat)
  | .xstat t f v => some (.prism, 10, t.toNat, f.toNat, v.toNat)
  | _ => none

/-- The op field of the command that a template word forms, by which its word is decoded (R53); 0 for another word. -/
def wordOp (i : Instr) : Nat := ((pform i).map (fun p => p.2.1)).getD 0

/-- The registers a word reads, each with whether it reads it in trap mode, in slot order of its operands; template
registers are added by needsOf. -/
def srcRegs : Instr → List (RegNo × Bool)
  | .add _ xa xb fa fb => [(xa, fa), (xb, fb)]
  | .sub _ xa xb fa fb => [(xa, fa), (xb, fb)]
  | .mul _ xa xb fa fb => [(xa, fa), (xb, fb)]
  | .mulh _ xa xb fa fb => [(xa, fa), (xb, fb)]
  | .mulhn _ xa xb fa fb => [(xa, fa), (xb, fb)]
  | .div _ xa xb fa fb => [(xa, fa), (xb, fb)]
  | .divn _ xa xb fa fb => [(xa, fa), (xb, fb)]
  | .rem _ xa xb fa fb => [(xa, fa), (xb, fb)]
  | .remn _ xa xb fa fb => [(xa, fa), (xb, fb)]
  | .and _ xa xb fa fb => [(xa, fa), (xb, fb)]
  | .or _ xa xb fa fb => [(xa, fa), (xb, fb)]
  | .xor _ xa xb fa fb => [(xa, fa), (xb, fb)]
  | .andn _ xa xb fa fb => [(xa, fa), (xb, fb)]
  | .orn _ xa xb fa fb => [(xa, fa), (xb, fb)]
  | .shl _ xa xb fa fb => [(xa, fa), (xb, fb)]
  | .shr _ xa xb fa fb => [(xa, fa), (xb, fb)]
  | .sra _ xa xb fa fb => [(xa, fa), (xb, fb)]
  | .rol _ xa xb fa fb => [(xa, fa), (xb, fb)]
  | .ror _ xa xb fa fb => [(xa, fa), (xb, fb)]
  | .min _ xa xb fa fb => [(xa, fa), (xb, fb)]
  | .max _ xa xb fa fb => [(xa, fa), (xb, fb)]
  | .minn _ xa xb fa fb => [(xa, fa), (xb, fb)]
  | .maxn _ xa xb fa fb => [(xa, fa), (xb, fb)]
  | .clz _ xa fa => [(xa, fa)]
  | .ctz _ xa fa => [(xa, fa)]
  | .popc _ xa fa => [(xa, fa)]
  | .brev _ xa fa => [(xa, fa)]
  | .bswap _ xa fa => [(xa, fa)]
  | .clmul _ xa xb fa fb => [(xa, fa), (xb, fb)]
  | .clmulh _ xa xb fa fb => [(xa, fa), (xb, fb)]
  | .ext _ xa xb fa fb => [(xa, fa), (xb, fb)]
  | .extn _ xa xb fa fb => [(xa, fa), (xb, fb)]
  | .ins xd xa xb fa fb => [(xd, false), (xa, fa), (xb, fb)]
  | .shladd _ xa xb fa fb _ => [(xa, fa), (xb, fb)]
  | .slt _ xa xb fa fb => [(xa, fa), (xb, fb)]
  | .sltn _ xa xb fa fb => [(xa, fa), (xb, fb)]
  | .cmppEq _ xa xb fa fb => [(xa, fa), (xb, fb)]
  | .cmppNe _ xa xb fa fb => [(xa, fa), (xb, fb)]
  | .cmppLt _ xa xb fa fb => [(xa, fa), (xb, fb)]
  | .cmppGe _ xa xb fa fb => [(xa, fa), (xb, fb)]
  | .cmppLtn _ xa xb fa fb => [(xa, fa), (xb, fb)]
  | .cmppGen _ xa xb fa fb => [(xa, fa), (xb, fb)]
  | .selP8P11 _ xa xb fa fb _ => [(xa, fa), (xb, fb)]
  | .selP12P15 _ xa xb fa fb _ => [(xa, fa), (xb, fb)]
  | .aconv _ xa fa => [(xa, fa)]
  | .agen _ xa xb fa fb => [(xa, fa), (xb, fb)]
  | .atest _ xa fa => [(xa, fa)]
  | .addi _ xa fa _ => [(xa, fa)]
  | .andi _ xa fa _ => [(xa, fa)]
  | .ori _ xa fa _ => [(xa, fa)]
  | .xori _ xa fa _ => [(xa, fa)]
  | .shli _ xa fa _ => [(xa, fa)]
  | .shri _ xa fa _ => [(xa, fa)]
  | .srai _ xa fa _ => [(xa, fa)]
  | .roli _ xa fa _ => [(xa, fa)]
  | .rori _ xa fa _ => [(xa, fa)]
  | .slti _ xa fa _ => [(xa, fa)]
  | .sltni _ xa fa _ => [(xa, fa)]
  | .muli _ xa fa _ => [(xa, fa)]
  | .cmppiEq _ xa fa _ => [(xa, fa)]
  | .cmppiNe _ xa fa _ => [(xa, fa)]
  | .cmppiLt _ xa fa _ => [(xa, fa)]
  | .cmppiGe _ xa fa _ => [(xa, fa)]
  | .cmppiLtn _ xa fa _ => [(xa, fa)]
  | .cmppiGen _ xa fa _ => [(xa, fa)]
  | .ld _ _ _ xa fa _ => [(xa, fa)]
  | .st _ _ xd xa fa _ => [(xd, fa), (xa, fa)]
  | .beq xa xb fa fb _ => [(xa, fa), (xb, fb)]
  | .bne xa xb fa fb _ => [(xa, fa), (xb, fb)]
  | .blt xa xb fa fb _ => [(xa, fa), (xb, fb)]
  | .bge xa xb fa fb _ => [(xa, fa), (xb, fb)]
  | .bltn xa xb fa fb _ => [(xa, fa), (xb, fb)]
  | .bgen xa xb fa fb _ => [(xa, fa), (xb, fb)]
  | .jr xa fa => [(xa, fa)]
  | .loopS xa _ fa _ => [(xa, fa)]
  | .loopO xa fa _ => [(xa, fa)]
  | .pshv xa fa _ => [(xa, fa)]
  | .sbind xa fa _ => [(xa, fa)]
  | .csrw _ xa fa => [(xa, fa)]
  | .tplLd _ xa fa _ => [(xa, fa)]
  | .ldNatural _ xa fa _ _ => [(xa, fa)]
  | .ldc _ xa fa _ => [(xa, fa)]
  | .wins xd _ _ => [(xd, false)]
  | .vadd sc _ _ vb _ => (if sc then [(vb, false)] else [])
  | .vsub sc _ _ vb _ => (if sc then [(vb, false)] else [])
  | .vmul sc _ _ vb _ => (if sc then [(vb, false)] else [])
  | .vfma sc _ _ vb _ => (if sc then [(vb, false)] else [])
  | .vfnma sc _ _ vb _ => (if sc then [(vb, false)] else [])
  | .vmin sc _ _ vb _ => (if sc then [(vb, false)] else [])
  | .vmax sc _ _ vb _ => (if sc then [(vb, false)] else [])
  | .vminn sc _ _ vb _ => (if sc then [(vb, false)] else [])
  | .vmaxn sc _ _ vb _ => (if sc then [(vb, false)] else [])
  | .vand sc _ _ vb _ => (if sc then [(vb, false)] else [])
  | .vor sc _ _ vb _ => (if sc then [(vb, false)] else [])
  | .vxor sc _ _ vb _ => (if sc then [(vb, false)] else [])
  | .vandn sc _ _ vb _ => (if sc then [(vb, false)] else [])
  | .vshl sc _ _ vb _ => (if sc then [(vb, false)] else [])
  | .vshr sc _ _ vb _ => (if sc then [(vb, false)] else [])
  | .vsra sc _ _ vb _ => (if sc then [(vb, false)] else [])
  | .vcmpEq sc _ _ vb _ => (if sc then [(vb, false)] else [])
  | .vcmpNe sc _ _ vb _ => (if sc then [(vb, false)] else [])
  | .vcmpLt sc _ _ vb _ => (if sc then [(vb, false)] else [])
  | .vcmpGe sc _ _ vb _ => (if sc then [(vb, false)] else [])
  | .vcmpLtn sc _ _ vb _ => (if sc then [(vb, false)] else [])
  | .vcmpGen sc _ _ vb _ => (if sc then [(vb, false)] else [])
  | .vsel sc _ _ vb _ => (if sc then [(vb, false)] else [])
  | .vrng _ xb _ => [(xb, false)]
  | .vkey xb => [(xb, false)]
  | .vtopk _ _ xb _ => [(xb, false)]
  | .vperm sc _ _ vb _ => (if sc then [(vb, false)] else [])
  | .vbcast _ xb _ => [(xb, false)]
  | .vextx _ _ xb => [(xb, false)]
  | .vmset _ _ xb => [(xb, false)]
  | .vldr _ xb => [(xb, false)]
  | .vstr _ xb => [(xb, false)]
  | .vwin xb => [(xb, false)]
  | .vwalk xa xb => [(xa, false), (xb, false)]
  | .ald _ _ _ xa => [(xa, false)]
  | .ast _ _ xa xb => [(xa, false), (xb.setWidth 6, false)]
  | .aswp _ _ _ xa xb => [(xa, false), (xb.setWidth 6, false)]
  | .aadd _ _ _ xa xb => [(xa, false), (xb.setWidth 6, false)]
  | .aand _ _ _ xa xb => [(xa, false), (xb.setWidth 6, false)]
  | .aor _ _ _ xa xb => [(xa, false), (xb.setWidth 6, false)]
  | .axor _ _ _ xa xb => [(xa, false), (xb.setWidth 6, false)]
  | .amin _ _ _ xa xb => [(xa, false), (xb.setWidth 6, false)]
  | .amax _ _ _ xa xb => [(xa, false), (xb.setWidth 6, false)]
  | .aminn _ _ _ xa xb => [(xa, false), (xb.setWidth 6, false)]
  | .amaxn _ _ _ xa xb => [(xa, false), (xb.setWidth 6, false)]
  | .afadd _ _ _ xa xb => [(xa, false), (xb.setWidth 6, false)]
  | .acas _ _ _ xa xp => [(xa, false), (pairReg xp, false), (pairReg xp + 1#6, false)]
  | .acasFa _ _ _ xa xp => [(xa, false), (pairReg xp, false), (pairReg xp + 1#6, false)]
  | .abinit _ _ xa xb => [(xa, false), (xb.setWidth 6, false)]
  | .abarr _ _ _ xa => [(xa, false)]
  | .abexp _ _ xa xb => [(xa, false), (xb.setWidth 6, false)]
  | .abwait _ _ _ xa xb => [(xa, false), (xb.setWidth 6, false)]
  | .asemp _ _ xa xb => [(xa, false), (xb.setWidth 6, false)]
  | .asemw _ _ _ xa xb => [(xa, false), (xb.setWidth 6, false)]
  | .sst _ _ _ xa xb => [(xa, false), (xb.setWidth 6, false)]
  | .sstT _ _ _ xa xb => [(xa, false), (xb.setWidth 6, false)]
  | .spf _ _ _ xa xb => [(xa, false), (xb.setWidth 6, false)]
  | .srel _ _ _ xa => [(xa, false)]
  | .sqry _ _ _ xa => [(xa, false)]
  | .spol _ _ _ xa xb => [(xa, false), (xb.setWidth 6, false)]
  | .lexp _ _ xa xb => [(xa, false), (xb.setWidth 6, false)]
  | .lred _ _ _ xa xb => [(xa, false), (xb.setWidth 6, false)]
  | .lopt _ _ xa xb => [(xa, false), (xb.setWidth 6, false)]
  | .lqry _ _ _ xa => [(xa, false)]
  | .nlook _ _ xa xb => [(xa, false), (xb.setWidth 6, false)]
  | .nref _ _ xn => [(evenReg xn, false), (evenReg xn + 1#6, false)]
  | .nrel _ _ _ xn => [(evenReg xn, false), (evenReg xn + 1#6, false)]
  | .nswap _ _ _ xa xq => [(xa, false), (quadReg xq, false), (quadReg xq + 1#6, false), (quadReg xq + 2#6, false), (quadReg xq + 3#6, false)]
  | .nget _ _ _ xn xb => [(xb.setWidth 6, false), (evenReg xn, false), (evenReg xn + 1#6, false)]
  | .nout _ _ xn xp => [(pairReg xp, false), (pairReg xp + 1#6, false), (evenReg xn, false), (evenReg xn + 1#6, false)]
  | .nhas _ _ xn => [(evenReg xn, false), (evenReg xn + 1#6, false)]
  | .nxfer _ _ _ xn xb => [(xb.setWidth 6, false), (evenReg xn, false), (evenReg xn + 1#6, false)]
  | .grow _ _ xb => [(xb.setWidth 6, false)]
  | .post _ _ _ xa => [(xa, false)]
  | .gbind _ _ _ xa xb => [(xa, false), (xb.setWidth 6, false)]
  | .grebind _ _ _ xa xb => [(xa, false), (xb.setWidth 6, false)]
  | .gstat _ _ xb => [(xb.setWidth 6, false)]
  | .ptset _ _ xa xb => [(xa, false), (xb.setWidth 6, false)]
  | _ => []

/-- The scalar registers a word writes at step 4 of R47. -/
def dstRegs : Instr → List RegNo
  | .add xd _ _ _ _ | .sub xd _ _ _ _ | .mul xd _ _ _ _ | .mulh xd _ _ _ _ | .mulhn xd _ _ _ _ => [xd]
  | .div xd _ _ _ _ | .divn xd _ _ _ _ | .rem xd _ _ _ _ | .remn xd _ _ _ _ | .and xd _ _ _ _ => [xd]
  | .or xd _ _ _ _ | .xor xd _ _ _ _ | .andn xd _ _ _ _ | .orn xd _ _ _ _ | .shl xd _ _ _ _ => [xd]
  | .shr xd _ _ _ _ | .sra xd _ _ _ _ | .rol xd _ _ _ _ | .ror xd _ _ _ _ | .min xd _ _ _ _ => [xd]
  | .max xd _ _ _ _ | .minn xd _ _ _ _ | .maxn xd _ _ _ _ | .clz xd _ _ | .ctz xd _ _ => [xd]
  | .popc xd _ _ | .brev xd _ _ | .bswap xd _ _ | .clmul xd _ _ _ _ | .clmulh xd _ _ _ _ => [xd]
  | .ext xd _ _ _ _ | .extn xd _ _ _ _ | .ins xd _ _ _ _ | .shladd xd _ _ _ _ _ | .slt xd _ _ _ _ => [xd]
  | .sltn xd _ _ _ _ | .selP8P11 xd _ _ _ _ _ | .selP12P15 xd _ _ _ _ _ | .aconv xd _ _ | .agen xd _ _ _ _ => [xd]
  | .atest xd _ _ | .addi xd _ _ _ | .andi xd _ _ _ | .ori xd _ _ _ | .xori xd _ _ _ => [xd]
  | .shli xd _ _ _ | .shri xd _ _ _ | .srai xd _ _ _ | .roli xd _ _ _ | .rori xd _ _ _ => [xd]
  | .slti xd _ _ _ | .sltni xd _ _ _ | .muli xd _ _ _ | .tokst xd | .tsc xd => [xd]
  | .csrr xd _ | .wld xd _ _ | .wins xd _ _ => [xd]
  | .jl _ => [62#6]
  | _ => []

/-- The registers a word makes empty: load destinations, completion and reply registers; template registers are added
by needsOf (R63). -/
def fillRegs : Instr → List RegNo
  | .ld _ _ xd _ _ _ => [xd]
  | .ldNatural xd _ _ _ _ => [xd]
  | .ldc xd _ _ _ => [xd]
  | .vextx xd _ _ => [xd]
  | .vmpopc xd _ => [xd]
  | .vmget xd _ _ => [xd]
  | .ald _ _ xd _ => [xd]
  | .aswp _ _ xd _ _ => [xd]
  | .aadd _ _ xd _ _ => [xd]
  | .aand _ _ xd _ _ => [xd]
  | .aor _ _ xd _ _ => [xd]
  | .axor _ _ xd _ _ => [xd]
  | .amin _ _ xd _ _ => [xd]
  | .amax _ _ xd _ _ => [xd]
  | .aminn _ _ xd _ _ => [xd]
  | .amaxn _ _ xd _ _ => [xd]
  | .afadd _ _ xd _ _ => [xd]
  | .acas _ _ xd _ _ => [xd]
  | .acasFa _ _ xd _ _ => [xd]
  | .abarr _ _ xd _ => [xd]
  | .abwait _ _ xd _ _ => [xd]
  | .asemw _ _ xd _ _ => [xd]
  | .sst _ _ xd _ _ => [xd]
  | .sstT _ _ xd _ _ => [xd]
  | .spf _ _ xd _ _ => [xd]
  | .srel _ _ xd _ => [xd]
  | .sqry _ _ xd _ => [xd]
  | .spol _ _ xd _ _ => [xd]
  | .lexp _ xd _ _ => [xd]
  | .lred _ _ xd _ _ => [xd]
  | .lopt _ xd _ _ => [xd]
  | .lqry _ _ xd _ => [xd]
  | .nlook _ xd _ _ => if xd = 0#6 then [] else [xd, xd + 1#6, xd + 2#6]
  | .nref _ xd _ => [xd]
  | .nrel _ _ xd _ => [xd]
  | .nswap _ _ xd _ _ => if xd = 0#6 then [] else [xd, xd + 1#6, xd + 2#6]
  | .nget _ _ xd _ _ => if xd = 0#6 then [] else [xd, xd + 1#6, xd + 2#6]
  | .nout _ xd _ _ => [xd]
  | .nhas _ xd _ => [xd]
  | .nxfer _ _ xd _ _ => [xd]
  | .grow _ xd _ => [xd]
  | .post _ _ xd _ => [xd]
  | .fencew _ _ xd => [xd]
  | .gbind _ _ xd _ _ => [xd]
  | .grebind _ _ xd _ _ => [xd]
  | .gstat _ xd _ => [xd]
  | .ptset _ xd _ _ => [xd]
  | .hmrisk _ xd => [xd]
  | _ => []

/-- What a word asks of the registers before its packet issues (R64, R81): the registers it reads, with their modes,
and those it writes or makes empty. -/
structure Needs where
  src : List (RegNo × Bool)
  dst : List RegNo
  fills : List RegNo
  deriving DecidableEq, Repr

/-- The completion registers of a template command: its done field, and the matrix template's for CPY.FOLLOW, unless it is MFMT, which
fills none (R19, R246, R284). -/
def doneRegs (k : Core) (c : Ctx) (e : Cls) (op : Nat) (img : TplImage) : List RegNo :=
  (if e = .matrix ∧ op = 6 then [] else [BitVec.ofNat 6 (tplField e img 2)]) ++
  (if e = .copy ∧ op = 7 then
     let m := (formImage .matrix c (k.tpl .matrix (cpFtpl img)).img 0 0).img
     if mxOp m = 6 then [] else [BitVec.ofNat 6 (mxDone m)]
   else [])

/-- The registers that the template of a P-form word reads, in R243's modes; CPY.FOLLOW also reads those of its matrix
template (R284). -/
def tplRegs (k : Core) (c : Ctx) (e : Cls) (op : Nat) (f : Formed) : List (RegNo × Bool) :=
  f.regs ++ (if e = .copy ∧ op = 7 then (formImage .matrix c (k.tpl .matrix (cpFtpl f.img)).img 0 0).regs else [])

/-- The completion registers of a tracked word, read in block mode as sources of the word (R19, R349). -/
def doneSource (e : Option Cls) (fills : List RegNo) : List (RegNo × Bool) :=
  if (e.map Cls.tracked).getD false then fills.map (fun r => (r, false)) else []

/-- The needs of a word in a frame: k is the core, c the context after the packet's pops. -/
def needsOf (k : Core) (c : Ctx) (i : Instr) : Needs :=
  match pform i with
  | some (e, op, tpl, fsel, value) =>
    let f := formCmd k c e op tpl fsel value
    let d := doneRegs k c e op f.img
    ⟨tplRegs k c e op f ++ d.map (fun r => (r, false)), [], d⟩
  | none => ⟨srcRegs i ++ doneSource (wordCls i) (fillRegs i), dstRegs i, fillRegs i⟩

/-- The order and scope of a word of class 0xB, 0xD, 0xE or 0xF (R151, R297, R332, R348, R370). -/
def ordScope : Instr → Order × Scope
  | .ald o sc _ _ | .ast o sc _ _ | .aswp o sc _ _ _ | .aadd o sc _ _ _ | .aand o sc _ _ _ | .aor o sc _ _ _
  | .axor o sc _ _ _ | .amin o sc _ _ _ | .amax o sc _ _ _ | .aminn o sc _ _ _ | .amaxn o sc _ _ _
  | .afadd o sc _ _ _ | .acas o sc _ _ _ | .acasFa o sc _ _ _ | .abinit o sc _ _ | .abarr o sc _ _
  | .abexp o sc _ _ | .abwait o sc _ _ _ | .asemp o sc _ _ | .asemw o sc _ _ _ => (o, sc)
  | .sst o sc _ _ _ | .sstT o sc _ _ _ | .spf o sc _ _ _ | .srel o sc _ _ | .sqry o sc _ _ | .spol o sc _ _ _ => (o, sc)
  | .lred o sc _ _ _ | .lqry o sc _ _ | .nrel o sc _ _ | .nswap o sc _ _ _ | .nget o sc _ _ _ | .nxfer o sc _ _ _ => (o, sc)
  | .post o sc _ _ | .fencew o sc _ | .gbind o sc _ _ _ | .grebind o sc _ _ _ => (o, sc)
  | .lexp sc _ _ _ | .lopt sc _ _ _ | .nlook sc _ _ _ | .nref sc _ _ | .nout sc _ _ _ | .nhas sc _ _ => (.rlx, sc)
  | .grow sc _ _ | .gstat sc _ _ | .ptset sc _ _ _ | .hmrisk sc _ | .prack sc => (.rlx, sc)
  | _ => (.rlx, .part)

/-- Whether an order releases, and whether it acquires. -/
def releases (o : Order) : Bool := o == .rel || o == .ar
def acquires (o : Order) : Bool := o == .acq || o == .ar

end Sys2Proof.Machine
end

