-- ==== Sys2Proof/Machine/VectorShape.lean ====
section
/-! DEFINITION. What a vector word asks of its rows: the registers it reads and writes, its element types, and its
stream ports (R71, R222, R225). -/

namespace Sys2Proof.Machine

/-- Element types that a form takes (R225). -/
inductive TypeSet where
  /-- No type: vtype is not judged. -/
  | untyped
  | all | floats | ints | floatInt | intE8 | fp32Int | fp32
  deriving DecidableEq, Repr, Inhabited

/-- Whether a form takes an element type (R225). -/
def TypeSet.takes (t : TypeSet) (et : Nat) : Bool :=
  match t with
  | .untyped | .all => true
  | .floats => decide (et ≤ 3)
  | .ints => decide (4 ≤ et) && decide (et ≤ 6)
  | .floatInt => decide (et ≤ 6)
  | .intE8 => (decide (4 ≤ et) && decide (et ≤ 6)) || et == 9
  | .fp32Int => et == 0 || (decide (4 ≤ et) && decide (et ≤ 6))
  | .fp32 => et == 0

/-- The rows that a vector word reads and writes, by register, and its types. -/
structure VShape where
  reads : List RegNo
  writes : List RegNo
  types : TypeSet
  deriving DecidableEq, Repr

/-- A two-source form: vb is a row unless it is a scalar. -/
def shape2 (sc : Bool) (vd va vb : RegNo) (t : TypeSet) : VShape := ⟨if sc then [va] else [va, vb], [vd], t⟩

/-- A form that writes a mask. -/
def shapeM (sc : Bool) (va vb : RegNo) (t : TypeSet) : VShape := ⟨if sc then [va] else [va, vb], [], t⟩

/-- A form that reads vd too. -/
def shape3 (sc : Bool) (vd va vb : RegNo) (t : TypeSet) : VShape := ⟨(if sc then [va] else [va, vb]) ++ [vd], [vd], t⟩

/-- The shape of every vector word (R225 to R239); other words have none. -/
def vShape : Instr → VShape
  | .vadd sc vd va vb _ | .vsub sc vd va vb _ | .vmul sc vd va vb _ => shape2 sc vd va vb .floatInt
  | .vfma sc vd va vb _ | .vfnma sc vd va vb _ => shape3 sc vd va vb .floatInt
  | .vmin sc vd va vb _ | .vmax sc vd va vb _ => shape2 sc vd va vb .floatInt
  | .vminn sc vd va vb _ | .vmaxn sc vd va vb _ => shape2 sc vd va vb .ints
  | .vabs vd va _ | .vneg vd va _ => ⟨[va], [vd], .floatInt⟩
  | .vand sc vd va vb _ | .vor sc vd va vb _ | .vxor sc vd va vb _ | .vandn sc vd va vb _ => shape2 sc vd va vb .all
  | .vshl sc vd va vb _ | .vshr sc vd va vb _ | .vsra sc vd va vb _ => shape2 sc vd va vb .ints
  | .vexp2 vd va _ | .vlog2 vd va _ | .vrecip vd va _ | .vrsq vd va _ => ⟨[va], [vd], .fp32⟩
  | .vcmpEq sc _ va vb _ | .vcmpNe sc _ va vb _ | .vcmpLt sc _ va vb _ | .vcmpGe sc _ va vb _ =>
    shapeM sc va vb .floatInt
  | .vcmpLtn sc _ va vb _ | .vcmpGen sc _ va vb _ => shapeM sc va vb .intE8
  | .vsel sc vd va vb _ => shape2 sc vd va vb .all
  | .vcvt _ vd va _ _ _ _ => ⟨[va], [vd], .all⟩
  | .vrng vd _ _ => ⟨[], [vd], .fp32Int⟩
  | .vrsum vd va _ | .vrmax vd va _ | .vrmin vd va _ | .vscan vd va _ | .vscanx vd va _ => ⟨[va], [vd], .floatInt⟩
  | .vtopk vd va _ _ => ⟨[va], [vd, vd + 1#6], .floatInt⟩
  | .vperm sc vd va vb _ => shape2 sc vd va vb .all
  | .vbcast vd _ _ => ⟨[], [vd], .all⟩
  | .vextx _ va _ => ⟨[va], [], .all⟩
  | .vldr vd _ => ⟨[], [vd], .all⟩
  | .vstr vd _ => ⟨[vd], [], .all⟩
  | .vwalk _ _ => ⟨[], [], .all⟩
  | .vldw vd => ⟨[], [vd], .all⟩
  | _ => ⟨[], [], .untyped⟩

/-- The binding of a register that names a bound port (R71). -/
def portOf (ports : KMap Port) (r : RegNo) : Option Port := if 60 ≤ r.toNat then kget ports (r.toNat - 60) else none

/-- The bound ports among registers, each once (R71). -/
def portsAmong (ports : KMap Port) (l : List RegNo) : List Nat :=
  l.foldl (fun ns r => if (portOf ports r).isSome then unionNat ns [r.toNat - 60] else ns) []

/-- The row of a register (R216). -/
def rowOf (vwin : Word) (r : RegNo) : Nat := wbits vwin 11 0 + r.toNat

/-- The vector words of a core that have issued before a word and not completed, oldest first (R220). -/
def vectorAhead (s : State) (c : Cmd) : List Cmd :=
  s.cmds.filter (fun d => d.core == c.core && d.cls == .vector && decide (d.disp < c.disp))

/-- The elements of a port that the words ahead of a vector word take from it or give to it (R71, R220). -/
def portAhead (s : State) (c : Cmd) (n : Nat) (pick : VShape → List RegNo) : Nat :=
  ((vectorAhead s c).filter (fun d => (portsAmong d.ports (pick (vShape d.instr))).contains n)).length

/-- Where a register's next row lies for a vector word: its own row, or the element at a bound port's head or tail once the words
ahead have taken theirs (R71, R123). -/
def srcRow (s : State) (c : Cmd) (r : RegNo) : Nat :=
  match (if (portOf c.ports r).isSome then kget (coreOf s c.core).vec.ports (r.toNat - 60) else none) with
  | some p => p.base + (p.head + portAhead s c (r.toNat - 60) VShape.reads) % p.len
  | none => rowOf c.vwin r
def dstRow (s : State) (c : Cmd) (r : RegNo) : Nat :=
  match (if (portOf c.ports r).isSome then kget (coreOf s c.core).vec.ports (r.toNat - 60) else none) with
  | some p => p.base + (p.head + p.count + portAhead s c (r.toNat - 60) VShape.writes) % p.len
  | none => rowOf c.vwin r

/-- Elements of a port that the vector words of a core which have issued and not completed will pop or push. -/
def portPending (s : State) (core n : Nat) (pick : VShape → List RegNo) (ports : KMap Port) : Nat :=
  (s.cmds.filter (fun c => c.core == core && c.cls == .vector && (portsAmong ports (pick (vShape c.instr))).contains n)).length

/-- Whether every port that a vector word reads holds an element for it, and every port it writes has room (R71,
R81). -/
def portsReady (s : State) (core : Nat) (w : Instr) : Bool :=
  let ports := (coreOf s core).vec.ports
  let sh := vShape w
  (portsAmong ports sh.reads).all (fun n =>
    match kget ports n with
    | some p => p.out || decide (portPending s core n VShape.reads ports < p.count)
    | none => true) &&
  (portsAmong ports sh.writes).all (fun n =>
    match kget ports n with
    | some p => !p.out || decide (p.count + portPending s core n VShape.writes ports < p.len)
    | none => true)

end Sys2Proof.Machine
end

