-- ==== Sys2Proof/Machine/Ops.lean ====
section
/-! DEFINITION. The shared operations of a step: taking a trap and returning from it, token FIFOs, when an access may
perform, new accesses, the frame in which a packet's words act, and the clock. -/

namespace Sys2Proof.Machine

/-! Taking a trap (R163 to R165) and returning from it (R131). -/

/-- The fields of tcause but inh (R165). -/
structure Cause where
  code : Nat
  ecls : Nat
  tslot : Nat
  creg : Nat
  upc : Nat
  deriving DecidableEq, Repr, Inhabited

/-- The cause of a fault of the context's own packet. -/
def Cause.own (code : Nat) : Cause := ⟨code, 0, 0, 0, 0⟩

/-- tcause as trap entry writes it, inh set (R163, R165). -/
def Cause.word (c : Cause) : Word :=
  BitVec.ofNat 64 (2 ^ 63 + c.ecls % 16 * 2 ^ 52 + c.tslot % 64 * 2 ^ 46 + c.creg % 64 * 2 ^ 40
    + c.upc % 2 ^ 24 * 2 ^ 16 + c.code % 2 ^ 16)

/-- tcause.inh. -/
def Ctx.inh (c : Ctx) : Bool := c.tcause.getLsbD 63

/-- A packet address as pc holds it: bits [63:48] are always 0 (R67). -/
def pcBits (a : Word) : Word := a &&& 0x0000FFFFFFFFFFFF#64

/-- Trap entry of a context: tpc, tval and tcause are written, the hold is cleared, and pc goes to tvb (R163), bits [63:48]
of pc staying 0 (R67; log entry 90). -/
def Ctx.enter (c : Ctx) (tpc tval : Word) (cause : Cause) (cmd : Nat) : Ctx :=
  { c with tpc := tpc, tval := tval, tcause := cause.word, hold := 0, images := [], pc := pcBits c.tvb,
           tickWait := false, handling := cmd :: c.handling }

/-- A fault is returned to the scheduler: the context stops and its partition is reset and replayed (R164, R389). -/
def returnFault (s : State) (core : Nat) (id : CtxId) (code : Nat) (tpc : Word) : State :=
  let s := modCtx s core id (fun c => { c with stopped := true })
  match taskOf s core with
  | none => s
  | some t => resetPartition s t.part code id.num core tpc

/-- What has been preloaded for the cores of a core's gang is discarded, since its task faults (R390). -/
def dropPreload (s : State) (core : Nat) : State :=
  match taskOf s core with
  | none => s
  | some t => modGang s t.gang (fun g => { g with preloaded := false })

/-- A trap is delivered to its context, or returned to the scheduler when the context has no handler or is in it
(R163, R164). -/
def takeTrap (s : State) (core : Nat) (id : CtxId) (tpc tval : Word) (cause : Cause) : State :=
  let s := dropPreload s core
  let c := ctxOf s core id
  if c.tvb ≠ 0#64 ∧ c.inh = false then setCtx s core id (c.enter tpc tval cause 0)
  else returnFault s core id cause.code tpc

/-- A precise fault of the packet at pc (R163). -/
def raise (s : State) (core : Nat) (id : CtxId) (pc : Word) (code : Nat) (tval : Word) : State :=
  takeTrap s core id pc tval (Cause.own code)

/-- The return from a handler: pc takes tpc and inh is cleared (R131, R164). -/
def Ctx.leave (c : Ctx) : Ctx :=
  { c with pc := c.tpc, tcause := c.tcause &&& 0x7FFFFFFFFFFFFFFF#64, handling := c.handling.drop 1 }

/-- A held command goes on at its micro-PC, and the micro-operation of a copy runs from its start; a word of an untracked engine is
sent again (R170, R293, R302, R384). -/
def Cmd.resume (c : Cmd) : Cmd :=
  if c.phase = .held then
    { c with phase := if c.cls.tracked then c.back else .queued, fault := 0, denied := false, lost := none, work := if c.cls = .copy then [] else c.work }
  else c

/-- An engine holds a command at its micro-PC and queues a report for its context; a context that has ended takes no
report, and the fault goes to the scheduler (R80, R170). -/
def engineFault (s : State) (c : Cmd) (code : Nat) (tval : Word) : State :=
  let s := modCmd (dropPreload s c.core) c.id (fun c =>
    { c with phase := .held, fault := code, back := if c.phase = .held then c.back else c.phase })
  let x := ctxOf s c.core c.ctx
  if x.ended then returnFault s c.core c.ctx code x.pc
  else
    setCtx s c.core c.ctx
      { x with reports := x.reports ++ [⟨true, c.disp, c.cls.code, c.tslot, c.creg, c.upc, code, tval, c.id⟩] }

/-- The report that is delivered first: engine faults in dispatch order, then machine checks in order (R170). -/
def firstReport (l : List Report) : Option Report :=
  l.foldl (fun b r =>
    match b with
    | none => some r
    | some q =>
      if (r.engine && !q.engine) || (r.engine == q.engine && decide (r.order < q.order)) then some r else some q) none

/-! Token FIFOs (R70, R142). -/

/-- Entries of the FIFO into a context from a side. -/
def Ctx.fifo (c : Ctx) : Side → List Tok
  | .left => c.fifoL
  | .right => c.fifoR

/-- The FIFO into a context from a side, replaced. -/
def Ctx.setFifo (c : Ctx) (d : Side) (l : List Tok) : Ctx :=
  match d with
  | .left => { c with fifoL := l }
  | .right => { c with fifoR := l }

end Sys2Proof.Machine

namespace Sys2Proof

/-- The neighbour on a side (R70). -/
def CtxId.toward (i : CtxId) : Side → CtxId
  | .left => i.left
  | .right => i.right

/-- The other side. -/
def Side.flip : Side → Side
  | .left => .right
  | .right => .left

end Sys2Proof

namespace Sys2Proof.Machine

/-- Entries in the FIFO that a context pushes into on a side, those on their way included. -/
def outCount (k : Core) (i : CtxId) (d : Side) : Nat :=
  ((k.ctx (i.toward d)).fifo d.flip).length + ((k.ctx i).outs.filter (fun p => p.side == d)).length

/-- Whether an access has performed at core scope (R146, R148). -/
def performedCore (s : State) (id : Nat) : Bool :=
  match accOf s id with
  | none => true
  | some a => a.kind.writes && a.nearAt != 0

/-- Whether an access has performed at every scope but host. -/
def performedFar (s : State) (id : Nat) : Bool := (accOf s id).isNone

/-- Whether an access has performed at host scope (R154). -/
def performedHost (s : State) (id : Nat) : Bool := performedFar s id && !s.backInv.any (fun a => a.id == id)

/-- Whether an access has performed at a scope (R149, R150, R154). -/
def performedAt (s : State) (sc : Scope) (id : Nat) : Bool :=
  match sc with
  | .ctx => performedCore s id
  | .core => performedCore s id
  | .host => performedHost s id
  | _ => performedFar s id

/-- Whether a vector access waits to reach its bank: it is among some accesses, or one of some vector words makes it. -/
def vecPending (s : State) (ids cmds : List Nat) : Bool :=
  s.acc.any (fun a => a.kind == .vec && (ids.contains a.id || cmds.contains a.cmd))

/-- Whether a push may enter its FIFO: what it covers has performed at core scope, and the writes of the vector words that it
covers have reached their banks (R142). -/
def pushReady (s : State) (p : PendPush) : Bool :=
  p.waits.all (performedCore s) && p.cmds.all (fun n => (cmdOf s n).isNone) && !vecPending s p.waits p.cmds

/-- The first push on its way of one context to one side enters its FIFO if it may. -/
def settleSide (s : State) (core : Nat) (i : CtxId) (d : Side) : State :=
  let c := ctxOf s core i
  match c.outs.find? (fun p => p.side == d) with
  | none => s
  | some p =>
    if pushReady s p then
      let hb := p.hb.filter (fun n => !performedHost s n)
      let s := setCtx s core i { c with outs := c.outs.erase p }
      modCtx s core (i.toward d) (fun r => r.setFifo d.flip (r.fifo d.flip ++ [⟨p.val, hb⟩]))
    else s

/-- The same, up to n entries. -/
def settleMany (s : State) (core : Nat) (i : CtxId) (d : Side) : Nat → State
  | 0 => s
  | n + 1 => settleMany (settleSide s core i d) core i d n

/-- Every push that may do so enters its FIFO. -/
def settle (s : State) : State :=
  (s.cores.map (fun k => k.1)).foldl (fun s n =>
    [CtxId.L, .C, .S].foldl (fun s i =>
      if (ctxOf s n i).outs.isEmpty then s
      else settleMany (settleMany s n i .left (ctxOf s n i).outs.length) n i .right (ctxOf s n i).outs.length) s) s

/-! Order among accesses (R135 to R137, R141, R148, R150, R159, R223, R291, R327). -/

/-- Whether two accesses name a byte in common. -/
def Access.sameName (x y : Access) : Bool :=
  match x.dest, y.dest with
  | .sp c o, .sp c' o' => c == c' && decide (o < o' + y.size) && decide (o' < o + x.size)
  | .ipa a, .ipa a' => x.part == y.part && decide (a < a' + y.size) && decide (a' < a + x.size)
  | _, _ => false

/-- Whether two accesses reach a byte in common under different names: two mappings of one place (R176). -/
def Access.samePlace (s : State) (x y : Access) : Bool :=
  match x.dest, y.dest with
  | .sp _ _, .sp _ _ => false
  | _, _ =>
    match x.loc s, y.loc s with
    | some l, some m => l.meets m x.size y.size
    | _, _ => false

/-- Whether two accesses have a byte in common (R136). -/
def Access.overlaps (s : State) (x y : Access) : Bool := x.sameName y || x.samePlace s y

/-- The place of an access in program order, slot by slot (R134). -/
def Access.place (x : Access) : Nat := 4 * x.seq + x.slot

/-- Program order within one context (R134). -/
def Access.before (x y : Access) : Bool :=
  x.core == y.core && x.ctx.isSome && x.ctx == y.ctx && decide (x.place < y.place)

/-- Whether layer 1 orders x before y: same class, class 15, or overlap; the constant path is outside it (R135,
R136). -/
def Access.layer1 (s : State) (x y : Access) : Bool :=
  x.before y && x.kind != .ldc && y.kind != .ldc &&
  ((x.cls == y.cls && x.cls != 16) || (x.cls == 15 && y.cls != 16) || (y.cls == 15 && x.cls != 16) || x.overlaps s y)

/-- Whether a CSYNC between them orders x, a load, before y (R113, R141). -/
def Access.synced (x y : Access) : Bool :=
  x.core == y.core && x.ctx.isSome && x.ctx == y.ctx && !x.kind.writes && decide (x.place < y.sync)

/-- Whether an earlier vector word holds a FENCE of context C at core scope or wider (R223). -/
def fenceVector (s : State) (core : Nat) (i : CtxId) (f : FenceRec) : Bool :=
  i == .C && f.scope != .ctx &&
  s.cmds.any (fun c => c.core == core && c.cls == .vector && decide (4 * c.seq + c.slot < f.at_))

/-- Whether a vector access that a vector word before a FENCE of context C has made is not there at the FENCE's scope (R223). -/
def fenceGranules (s : State) (core : Nat) (i : CtxId) (f : FenceRec) : Bool :=
  i == .C && f.scope != .ctx &&
  (s.acc ++ s.backInv).any (fun a =>
    a.core == core && a.kind == .vec && decide (a.place < f.at_) && !performedAt s f.scope a.id)

/-- Whether a refused access of a class that a FENCE's mask holds has not performed (R153). -/
def fenceRefused (s : State) (core : Nat) (i : CtxId) (f : FenceRec) : Bool :=
  s.acc.any (fun a =>
    a.core == core && a.ctx == some i && a.refused && decide (a.place < f.at_) && decide (a.cls < 16) && f.mask.getLsbD a.cls)

/-- Whether what a FENCE waits for has performed at its scope (R150, R153, R223). -/
def fenceDone (s : State) (core : Nat) (i : CtxId) (f : FenceRec) : Bool :=
  f.waits.all (performedAt s f.scope) && !fenceVector s core i f && !fenceGranules s core i f && !fenceRefused s core i f

/-- Whether a FENCE of its context holds an access (R137). -/
def fenceHolds (s : State) (a : Access) : Bool :=
  match a.ctx with
  | none => false
  | some i =>
    (ctxOf s a.core i).fences.any (fun f =>
      f.scope != .ctx && decide (f.at_ < a.place) && decide (a.cls < 16) && f.mask.getLsbD a.cls
        && !fenceDone s a.core i f)

/-- Whether an extent of a core's scratchpad shares a granule with n bytes at an offset (R14). -/
def Extent.touches (e : Extent) (core off n : Nat) : Bool :=
  e.space == .sp core && decide (e.lo / 32 * 32 < (off + n + 31) / 32 * 32)
  && decide (off / 32 * 32 < (e.hi + 31) / 32 * 32) && decide (e.lo < e.hi) && decide (0 < n)

/-- Whether the lock of a command, on its write footprint or on the part of it that R291 names, holds bytes of its core's
scratchpad against an access of a context at a place in program order (R159). -/
def lockHolds (s : State) (core : Nat) (i : Option CtxId) (seq slot off n : Nat) : Bool :=
  s.cmds.any (fun c =>
    c.core == core && c.cls.tracked
    && !(i == some c.ctx && (decide (seq < c.seq) || (seq == c.seq && decide (slot < c.slot))))
    && (c.locks.getD c.writes).any (fun e => e.touches core off n))

/-- Whether a lock holds a scalar or vector access. -/
def lockedAcc (s : State) (a : Access) : Bool :=
  match a.spPlace s with
  | some (c, o) => c == a.core && lockHolds s a.core a.ctx a.seq a.slot o a.size
  | none => false

/-- The elements that one VLDW reads under a walk state, by byte offset and whether a lane starts a row, the length entries that it
reads, by offset and the lane that comes next, and the cursor that it leaves (R239). -/
def walkCells (s : State) (core : Nat) (w : Vec) (esz : Nat) (lanes : Nat) : Nat → Nat →
    List (Nat × Bool) → List (Nat × Nat) → List (Nat × Bool) × List (Nat × Nat) × Nat × Nat
  | 0, _, cells, lens => (cells, lens, w.cr, w.cc)
  | fuel + 1, n, cells, lens =>
    if n < lanes ∧ w.cr < w.nrow then
      let at_ := w.tof + 2 * w.cr
      let len := leNat (spView s core at_ 2)
      if w.cc = len then
        walkCells s core { w with cr := w.cr + 1, cc := 0 } esz lanes fuel n cells (lens ++ [(at_, n)])
      else
        walkCells s core { w with cc := w.cc + 1 } esz lanes fuel (n + 1)
          (cells ++ [(w.sof + w.cr * w.strd + w.cc * esz, w.cc == 0)]) (lens ++ [(at_, n)])
    else (cells, lens, w.cr, w.cc)

/-- Lane width in bytes of an element type code (R216). -/
def laneBytes (et : Nat) : Nat :=
  match et with
  | 0 | 5 => 4
  | 1 => 2
  | 6 => 8
  | _ => 1

/-- Whether a vector word is a VLDW. -/
def isVldw : Instr → Bool
  | .vldw _ => true
  | _ => false

/-- What a VLDW reads under a walk state (R239). -/
def walkOf (s : State) (c : Cmd) (v : Vec) : List (Nat × Bool) × List (Nat × Nat) × Nat × Nat :=
  let esz := laneBytes (wbits c.vtype 3 0)
  walkCells s c.core v esz (256 / esz) (256 / esz + v.nrow + 1) 0 [] []

/-- The walk state that a VWALK's operands set, its cursor at the start (R238). -/
def Vec.setWalk (v : Vec) (a b : Word) : Vec :=
  { v with nrow := wbits a 63 48, tof := wbits a 19 0, strd := wbits b 63 32, sof := wbits b 19 0, cr := 0, cc := 0 }

/-- The walk state that a vector word will meet: what the words ahead leave, with the row lengths as they stand (R238, R239). -/
def walkAhead (s : State) (c : Cmd) : Vec :=
  (vectorAhead s c).foldl (fun v d =>
    match d.instr with
    | .vwalk _ _ => v.setWalk (d.vals.headD 0#64) (d.vals.getD 1 0#64)
    | .vldw _ => { v with cr := (walkOf s d v).2.2.1, cc := (walkOf s d v).2.2.2 }
    | _ => v) (coreOf s c.core).vec

/-- Bytes of a core's scratchpad as an extent. -/
def spExtent (core off n : Nat) : Extent := ⟨.sp core, off, off + n⟩

/-- Whether an extent has one of n bytes at a place of a scratchpad. -/
def Extent.hits (e : Extent) (core off n : Nat) : Bool :=
  e.space == .sp core && decide (e.lo < off + n) && decide (off < e.hi)

/-- The scratchpad bytes that a vector word reads: its rows, those of bound ports among them, what VLDR names, and what a VLDW's walk
reads (R223, R239). -/
def vecReads (s : State) (c : Cmd) : List Extent :=
  let ports := ((vShape c.instr).reads.filter (fun r => (portOf c.ports r).isSome)).map (fun r => spExtent c.core (256 * srcRow s c r) 256)
  let cells := if isVldw c.instr then
      let r := walkOf s c (walkAhead s c)
      r.1.map (fun p => spExtent c.core p.1 (laneBytes (wbits c.vtype 3 0))) ++ r.2.1.map (fun p => spExtent c.core p.1 2)
    else []
  c.reads ++ ports ++ cells

/-- The scratchpad bytes that a vector word writes, the rows of bound ports among them. -/
def vecWrites (s : State) (c : Cmd) : List Extent :=
  c.writes ++ ((vShape c.instr).writes.filter (fun r => (portOf c.ports r).isSome)).map (fun r => spExtent c.core (256 * dstRow s c r) 256)

/-- Whether what a VLDW will read cannot be told yet: a vector word ahead of it, or an earlier scalar write of its context, is to
change the length table of its walk (log entry 91). -/
def walkUnsure (s : State) (c : Cmd) : Bool :=
  isVldw c.instr &&
  (let v := walkAhead s c
   (vectorAhead s c).any (fun d => (vecWrites s d).any (fun e => e.hits c.core v.tof (2 * v.nrow)))
   || s.acc.any (fun a =>
        a.core == c.core && a.ctx == some .C && a.kind.writes && a.nearAt == 0 && decide (a.place < 4 * c.seq + c.slot)
        && (match a.spPlace s with
            | some (k, o) => (spExtent k o a.size).hits c.core v.tof (2 * v.nrow)
            | none => false)))

/-- Whether an earlier vector word of context C holds a scalar access that shares a byte with it; the constant path is outside the
rule (R112, R136, R223). While what a VLDW reads cannot be told it holds every access to its scratchpad (log entry 91). -/
def vectorHolds (s : State) (a : Access) : Bool :=
  a.ctx == some .C && a.kind != .vec && a.kind != .ldc &&
  (match a.spPlace s with
   | none => false
   | some (k, o) =>
     (s.cmds.filter (fun c => c.core == a.core && c.cls == .vector && decide (4 * c.seq + c.slot < a.place))).any (fun c =>
       (vecReads s c ++ vecWrites s c).any (fun e => e.hits k o a.size) || (k == a.core && walkUnsure s c)))

/-- The aligned 8-byte word that an LDC reads, as an access (R140). -/
def Access.wordOf (a : Access) : Access :=
  match a.dest with
  | .ipa x => { a with dest := .ipa (x / 8 * 8), size := 8 }
  | .sp _ _ => a

/-- Whether the constant path holds an LDC: a store of its context before the sync point to the word that it reads has not performed,
a vector word's among them, or an earlier LDC of its context reads the same word, whose state the later one may not fall behind
(R140). -/
def constHeld (s : State) (a : Access) : Bool :=
  a.kind == .ldc &&
  (let w := a.wordOf
   s.acc.any (fun x =>
     x.core == a.core && x.ctx == a.ctx &&
     ((x.kind.writes && decide (x.place < a.sync) && x.overlaps s w)
      || (x.kind == .ldc && decide (x.place < a.place) && x.wordOf.overlaps s w)))
   || (a.ctx == some .C && s.cmds.any (fun c =>
        c.core == a.core && c.cls == .vector && decide (4 * c.seq + c.slot < a.sync)
        && (match w.spPlace s with
            | some (k, o) => (vecWrites s c).any (fun e => e.hits k o 8)
            | none => false))))

/-- Whether the near event of a write, or the event of a read, is held by order among its context's accesses. -/
def nearHeld (s : State) (a : Access) : Bool :=
  s.acc.any (fun x =>
    x.id != a.id &&
    ((x.layer1 s a && !(x.kind.writes && a.kind.writes && x.nearAt != 0)) || x.synced a))
  || fenceHolds s a || vectorHolds s a || (a.kind != .eng && a.kind != .vec && a.kind != .acc && lockedAcc s a) || constHeld s a

/-- Whether a copy command writes memory outside its scratchpad image (R289). -/
def copyWrites (c : Cmd) : Bool :=
  match cpOp c.img with
  | 2 | 4 | 8 => true
  | 5 => ((kget c.ports (cpPort c.img - 60)).map (fun p => p.out)).getD false
  | _ => false

/-- Whether a write's home lies in the scratchpad of the core that makes it. -/
def ownHome (s : State) (a : Access) : Bool :=
  match a.spPlace s with
  | some (c, _) => c == a.core
  | none => false

/-- Whether an earlier copy of the core and class, whose writes may leave the core's scratchpad, holds the far event of a copy's
write (R291). -/
def copyHeld (s : State) (a : Access) : Bool :=
  a.kind == .eng && a.store == Cls.copy.code && !ownHome s a &&
  (s.cmds.any (fun c =>
      c.core == a.core && c.cls == .copy && decide (c.id < a.cmd) && c.phase != .finished && c.acls == a.cls && copyWrites c
        && c.writes.any (fun e => e.space != .sp c.core))
   || s.acc.any (fun x =>
      x.kind == .eng && x.store == Cls.copy.code && x.core == a.core && x.cls == a.cls && decide (x.cmd < a.cmd)
        && !ownHome s x))

/-- Whether the far event of a write is held: every access that layer 1 puts before it must have performed, and far
events of one core's writes to one byte keep the order of their near events (log entry 8); accumulations into one granule keep
the order of their micro-operations (R204). -/
def farHeld (s : State) (a : Access) : Bool :=
  copyHeld s a || s.acc.any (fun x =>
    x.id != a.id &&
    (x.layer1 s a
     || (x.core == a.core && x.kind.writes && x.nearAt != 0 && decide (x.nearAt < a.nearAt || a.nearAt = 0) && x.overlaps s a)
     || (x.core == a.core && x.kind == .acc && a.kind == .acc && decide (x.id < a.id) && x.overlaps s a)))

/-- Whether the host must still answer, or a refused access must still wait (R153, R179). -/
def Access.parked (s : State) (a : Access) : Bool :=
  a.notice.isSome || (match a.retry with
    | some t => decide (s.tsc < t)
    | none => false)

/-! New accesses. -/

/-- The accesses of a context that have not performed, by number. -/
def ownPending (s : State) (core : Nat) (i : CtxId) : List Nat :=
  (s.acc.filter (fun a => a.core == core && a.ctx == some i)).map (fun a => a.id)

/-- Those among them that are writes; a write whose host event is to come counts. -/
def ownWrites (s : State) (core : Nat) (i : CtxId) : List Nat :=
  ((s.acc ++ s.backInv).filter (fun a => a.core == core && a.ctx == some i && a.kind.writes)).map (fun a => a.id)

/-- The vector words of context C that have not completed, by number. -/
def vectorPending (s : State) (core : Nat) : List Nat :=
  (s.cmds.filter (fun c => c.core == core && c.cls == .vector)).map (fun c => c.id)

/-- Accesses that happen before a context's present point and have not performed everywhere (R142). -/
def hbOf (s : State) (core : Nat) (i : CtxId) : List Nat :=
  (ctxOf s core i).hb.filter (fun n => !performedHost s n)

/-- The accesses that a release covers: a context's own and those that happen before its present point (R151). -/
def coveredAt (s : State) (core : Nat) (i : CtxId) : List Nat :=
  unionNat (((s.acc ++ s.backInv).filter (fun a => a.core == core && a.ctx == some i)).map (fun a => a.id)) (hbOf s core i)

/-! The return from a handler (R131, R170). -/

/-- A word of the scheduler that is sent again acts as if it had issued in the ERET's packet: its place, and what it waits for (R386,
R398). -/
def Cmd.sentAgain (s : State) (c : Cmd) : Cmd :=
  if c.cls = .sched then
    { c.resume with
      disp := s.nextId
      seq := (ctxOf s c.core c.ctx).seq
      slot := 0
      edges := if c.ctx = .C then unionNat c.edges (vectorPending s c.core) else c.edges
      waits := unionNat c.waits (ownPending s c.core c.ctx)
      farWaits := if releases (ordScope c.instr).1 then unionNat c.farWaits (coveredAt s c.core c.ctx) else c.farWaits }
  else c.resume

/-- ERET: the context leaves its handler and the command that its report names is resumed (R131, R170). -/
def eret (s : State) (core : Nat) (id : CtxId) : State :=
  let c := ctxOf s core id
  let s := setCtx s core id c.leave
  match c.handling with
  | 0 :: _ | [] => s
  | n :: _ => { modCmd s n (Cmd.sentAgain s) with nextId := s.nextId + 1 }

/-! The frame of a packet's words (R47). -/

/-- The task of a frame's core, or one that reaches nothing. -/
def frameTask (s : State) (f : Issue) : Task :=
  (taskOf s f.core).getD ⟨0, 0, 0, 0, false, 0#64, 0#64, 0, 0, 0, 0, 0, 0, false, 0#64, 0, []⟩

/-- The live context of a frame changed. -/
def frameCtx (s : State) (f : Issue) (g : Ctx → Ctx) : State := modCtx s f.core f.ctx g

/-- The frame changed. -/
def setFrame (s : State) (g : Issue → Issue) : State := { s with issue := s.issue.map g }

/-- A new access of the frame's word. -/
def newAccess (s : State) (f : Issue) (kind : AccKind) (cls : Nat) (ea : Word) (dest : Dest) (size : Nat)
    (data : List Byte) : Access :=
  let t := frameTask s f
  { id := s.nextId, core := f.core, ctx := some f.ctx, seq := f.snap.seq, slot := f.slot, kind := kind, cls := cls,
    ea := ea, dest := dest, size := size, data := data, nearAt := 0, notice := none, denied := false, retry := none,
    refused := false, granted := false, since := 0, sync := (ctxOf s f.core f.ctx).sync, part := t.part, asid := t.asid, gen := t.gen, cmd := 0,
    store := 0 }

/-- The state with an access that has issued. -/
def addAccess (s : State) (a : Access) : State := { s with acc := s.acc ++ [a], nextId := a.id + 1 }

/-- tval of a fault that names a word (R49). -/
def wordVal (slot : Nat) (w : IWord) : Word := BitVec.ofNat 64 (slot * 2 ^ 32 + w.toNat)

/-- Whether the context may issue the word, with the code of the trap where it may not: class (R9), vtype and vwin
(R59), stream ports (R123), privilege (R168). -/
def illegalHere (priv : Bool) (i : CtxId) (w : Instr) : Option Nat :=
  match w with
  | .csrr _ .vtype | .csrr _ .vwin | .csrw .vtype _ _ | .csrw .vwin _ _ | .sbind _ _ _ =>
    if i = .C then none else some 2
  | .ptset _ _ _ _ => if priv then none else some 0xD
  | _ =>
    match wordCls w with
    | none => none
    | some c => if c.allows i then none else some 2

/-- The tslot that a loop word may not have active (R72, R73). -/
def loopBusy (c : Ctx) (w : Instr) : Bool :=
  match w with
  | .loopS _ _ _ _ => lcAct c.lc0
  | .loopO _ _ _ => lcAct c.lc1
  | _ => false

/-- Whether the registers let a word issue: block-mode sources full, destinations full (R64, R81). -/
def needsMet (c : Ctx) (n : Needs) : Bool :=
  n.src.all (fun r => r.2 || c.fullX r.1) && n.dst.all c.fullX && n.fills.all c.fullX

/-- The first marked source that the word reads (R110, R307). -/
def markedSource (c : Ctx) (n : Needs) : Option (Nat × Word) :=
  match n.src.find? (fun r =>
    match (c.reg r.1).mark with
    | some m => c.fullX r.1 && (r.2 || !m.trapOnly)
    | none => false) with
  | some r => (c.reg r.1).mark.map (fun m => (m.code, m.addr))
  | none => none

/-- The first empty trap-mode source (R64), in the order of the word's sources (DESIGN CHOICE, log entry 97). -/
def emptySource (c : Ctx) (n : Needs) : Option RegNo :=
  (n.src.find? (fun r => r.2 && !c.fullX r.1)).map (fun r => r.1)

/-- Commands of a class that stand in a core's queue (R11). -/
def queueLength (s : State) (core : Nat) (e : Cls) : Nat :=
  (s.cmds.filter (fun c => c.core == core && c.cls == e && c.phase == .queued)).length

/-- The context that takes the next entry of a contended queue: round robin after the context that last won one (R83). -/
def queueNext (k : Core) (e : Cls) (waiting : List Nat) : Nat :=
  let last := ((kget k.won e.code).map CtxId.num).getD 2
  let order := [(last + 1) % 3, (last + 2) % 3, last]
  (order.find? (fun n => waiting.contains n)).getD 0

/-- The contexts whose packets wait for room in a queue (R83). -/
def queueWaiting (k : Core) (e : Cls) : List Nat := kgetD k.waiting e.code []

/-- Whether it is a context's turn at a queue for which others wait as well (R83). -/
def queueTurn (k : Core) (e : Cls) (waiting : List Nat) (i : CtxId) : Bool :=
  (eraseNat waiting i.num).isEmpty || queueNext k e (insertNat waiting i.num) == i.num

/-- Whether an engine queue has room for a context: an entry granted to another is kept for it, and any other contended entry
goes round among those still waiting (R11, R83). -/
def queueRoom (s : State) (core : Nat) (e : Cls) (i : CtxId) : Bool :=
  let k := coreOf s core
  let room := Config.queueDepth - queueLength s core e
  match kget k.grants e.code with
  | some g =>
    if g = i then decide (0 < room) else decide (1 < room) && queueTurn k e (eraseNat (queueWaiting k e) g.num) i
  | none => decide (0 < room) && queueTurn k e (queueWaiting k e) i

/-- The word's own waits: CSYNC for earlier LDCs (R113), VFENCE for earlier vector words (R223), SBIND for copies and
vector words of its port (R123, R219), QPOINT for accesses under an entry being invalidated (R126), a vector word for its
ports (R71). -/
def wordOwnReady (s : State) (core : Nat) (i : CtxId) (seq : Nat) (w : Instr) : Bool :=
  match w with
  | .csync => !s.acc.any (fun a => a.core == core && a.ctx == some i && a.kind == .ldc)
  | .vfence => (vectorPending s core).isEmpty && !s.acc.any (fun a => a.core == core && a.kind == .vec)
  | .sbind _ _ n =>
    !s.cmds.any (fun c => c.core == core &&
      ((c.cls == .copy && cpOp c.img == 5 && cpPort c.img == 60 + n.toNat)
       || (c.cls == .vector && decide (c.seq < seq) && c.list.contains (60 + n.toNat : Int))))
  | .qpoint =>
    match taskOf s core with
    | none => true
    | some t =>
      match partOf s t.part with
      | none => true
      | some p =>
        p.invals.all (fun v => v.acks.contains core ||
          !s.acc.any (fun a => a.core == core &&
            (match a.dest with
             | .sp _ _ => false
             | .ipa x => v.rset.isSome || (a.asid == v.asid && decide (v.lo ≤ x) && decide (x < v.hi)))))
  | .vwin _ => true
  | _ => if wordCls w = some .vector then portsReady s core w else true

/-- Whether the queue of the word's engine class has room for it (R81). -/
def wordRoom (s : State) (core : Nat) (i : CtxId) (w : Instr) : Bool :=
  match wordCls w with
  | none => true
  | some e => queueRoom s core e i

/-- Whether nothing but registers holds a word's packet. -/
def wordReady (s : State) (core : Nat) (i : CtxId) (seq : Nat) (w : Instr) : Bool :=
  wordOwnReady s core i seq w && wordRoom s core i w

/-- A context no longer waits for room in any queue, and no entry is kept for it (R83). -/
def Core.leaveWait (k : Core) (i : CtxId) : Core :=
  { k with
    waiting := (k.waiting.map (fun w => (w.1, eraseNat w.2 i.num))).filter (fun w => !w.2.isEmpty)
    grants := k.grants.filter (fun g => g.2 != i) }

/-- The registers that a word reads release what filled them, and the word takes effect (R142). -/
def actWord (n : Needs) (fx : Issue → State → State) (f : Issue) (s : State) : State :=
  fx f (frameCtx s f (fun c => c.acquire (n.src.map (fun r => r.1))))

/-! The reserved-field check of a template word (R12, R167, R276, R294). -/

/-- The template word's formed command, with its engine and template slot. -/
def formedWord (w : Instr) (f : Issue) (s : State) : Option (Cls × Nat × Formed) :=
  (pform w).map (fun (e, op, tpl, fsel, value) => (e, tpl, formCmd (coreOf s f.core) f.snap e op tpl fsel value))

/-- tval of a fault that names a template field (R167). -/
def fieldVal (slot field tslot : Nat) : Word := BitVec.ofNat 64 (slot * 2 ^ 32 + field * 2 ^ 24 + tslot * 2 ^ 16)

/-- tval of a fault that names a field of a layout record (R167). -/
def recordVal (slot field tslot rslot : Nat) : Word :=
  BitVec.ofNat 64 (slot * 2 ^ 32 + field * 2 ^ 24 + tslot * 2 ^ 16 + 2 ^ 12 + rslot * 2 ^ 8)

/-- The record slot of a core (R269). -/
def Core.recSlot (k : Core) (n : Nat) : RecSlot := kgetD k.recs n ⟨0#768, none⟩

/-- Whether a copy op uses its record (R275). -/
def usesRecord (op : Nat) : Bool := op != 10 && op != 11

/-- The first reserved field of a layout record that is not zero; an element type of 0xA to 0xF counts (R189, R270). -/
def recordReservedAt (r : RecImage) : Option Nat :=
  if 10 ≤ recEtype r then some 2
  else (recReserved.find? (fun x => imgField r x.2.1 x.2.2 != 0)).map (fun x => x.1)

/-- The reserved-field fault of a template word (R49 check 5). The image of a marked slot is not known, and the mark is the
slot's fault (R132). -/
def reservedFault (w : Instr) (f : Issue) (s : State) : Option (Nat × Word) :=
  match formedWord w f s with
  | none => none
  | some (e, tpl, c) =>
    if ((coreOf s f.core).tpl e tpl).mark.isSome then none
    else
      match reservedAt e c with
      | some n => some (3, fieldVal f.slot n tpl)
      | none =>
        if e = .copy ∧ usesRecord (cpOp c.img) = true then
          (recordReservedAt ((coreOf s f.core).recSlot (cpRec c.img)).img).map (fun n =>
            (3, recordVal f.slot n tpl (cpRec c.img)))
        else none

/-- The reserved-field fault of a word that ranks at check 5: that of a matrix word (R169). -/
def earlyReserved (w : Instr) (f : Issue) (s : State) : Option (Nat × Word) :=
  match formedWord w f s with
  | some (.matrix, _, _) => reservedFault w f s
  | _ => none

/-- The reserved-field fault of a word that ranks with its operand faults, before them: that of a copy or Prism word (R276,
R315; log entry 16). -/
def lateReserved (w : Instr) (f : Issue) (s : State) : Option (Nat × Word) :=
  match formedWord w f s with
  | some (.matrix, _, _) | none => none
  | some _ => reservedFault w f s

/-- A word acts in its packet's frame. It has no effect before its packet can issue, and it raises the fault that
stops it in the order of R169: it may not stand in its context, a reserved field of a matrix template is set, a register it
reads is marked, a trap-mode source is empty, a reserved field of another template is set or an operand or address faults.
Otherwise fx is its effect. In a packet whose words have been checked together only the effect is left. -/
def issueWord (w : Instr) (fault : Issue → State → Option (Nat × Word)) (fx : Issue → State → State) (s : State) :
    Host.Outcome State Fault Refusal :=
  match s.issue with
  | none => .next s
  | some f =>
    let n := needsOf (coreOf s f.core) f.snap w
    if f.checked then .next (actWord n fx f s)
    else
    match illegalHere (frameTask s f).priv f.ctx w with
    | some code => .next (raise s f.core f.ctx f.pc code (wordVal f.slot (encode w)))
    | none =>
      if loopBusy f.snap w then .next (raise s f.core f.ctx f.pc 2 (wordVal f.slot (encode w)))
      else if !(needsMet f.snap n && wordReady s f.core f.ctx f.snap.seq w) then .next s
      else
        match earlyReserved w f s, markedSource f.snap n, emptySource f.snap n, (lateReserved w f s).or (fault f s) with
        | some (code, v), _, _, _ => .next (raise s f.core f.ctx f.pc code v)
        | none, some (code, v), _, _ => .next (raise s f.core f.ctx f.pc code v)
        | none, none, some r, _ => .next (raise s f.core f.ctx f.pc 4 (BitVec.ofNat 64 (f.slot * 2 ^ 32 + r.toNat)))
        | none, none, none, some (code, v) => .next (raise s f.core f.ctx f.pc code v)
        | none, none, none, none => .next (actWord n fx f s)

/-- No operand or address fault. -/
def noFault (_ : Issue) (_ : State) : Option (Nat × Word) := none

/-- The effect of a word that writes one register. -/
def writeReg (xd : RegNo) (v : Issue → State → Word) (f : Issue) (s : State) : State :=
  frameCtx s f (fun c => c.writeX xd f.slot (v f s))

/-- A register as the packet's words read it. -/
def Issue.rd (f : Issue) (r : RegNo) : Word := f.snap.readX r

/-- vtype as a read gives it: busy while a vector word of an earlier packet of the context has not completed (R215). -/
def vtypeNow (s : State) (f : Issue) : Word :=
  if s.cmds.any (fun d => d.core == f.core && d.cls == .vector && decide (d.seq < f.snap.seq)) then
    f.vtype ||| 0x8000000000000000#64
  else f.vtype

/-! The clock (R22, R28, R81, R85). -/

/-- Whether a gang's stall wire is raised (R84). -/
def Gang.stalled (g : Gang) : Bool := !g.notices.isEmpty || !g.watch.isEmpty

/-- A gang's budget after cycles (R85). -/
def Gang.spend (g : Gang) (n : Nat) : Gang :=
  if g.stalled || g.saved then g else { g with budget := g.budget - n }

/-- A context's hold after cycles (R81). -/
def Ctx.spend (c : Ctx) (n : Nat) : Ctx := { c with hold := c.hold - n }

/-- n cycles pass: tsc counts nanoseconds, holds and budgets run down where no gang is saved, and waiting accesses age. -/
def advance (s : State) (n : Nat) : State :=
  let half := n + (if s.half then 1 else 0)
  { s with
    tsc := if s.throttled then s.tsc + n else s.tsc + half / 2
    half := if s.throttled then s.half else half % 2 == 1
    cores := s.cores.map (fun k => (k.1, if coreSaved s k.1 then k.2 else k.2.modCtxs (fun c => c.spend n)))
    gangs := s.gangs.map (fun g => (g.1, g.2.spend n))
    acc := s.acc.map (fun a => { a with since := a.since + n }) }

end Sys2Proof.Machine
end

