-- ==== Sys2Proof/Machine/Flags.lean ====
section
/-! DEFINITION. Conditions: the six comparisons of words and their result in a predicate (R96, R103, R117). -/

namespace Sys2Proof.Machine

/-- The six conditions; ltn and gen compare natural numbers (R96, R103). -/
inductive Cond where
  | eq | ne | lt | ge | ltn | gen
  deriving DecidableEq, Repr, Inhabited

/-- Whether a condition holds of two values (R103, R117). -/
def Cond.holds (c : Cond) (a b : Word) : Bool :=
  match c with
  | .eq => a == b
  | .ne => a != b
  | .lt => a.slt b
  | .ge => !a.slt b
  | .ltn => a.ult b
  | .gen => !a.ult b

/-- 1 or 0 (R96). -/
def boolWord (b : Bool) : Word := if b then 1#64 else 0#64

/-- The predicate that CMPP writes: p8 to p15 (R103). -/
def predOf (p : BitVec 3) : Nat := 8 + p.toNat

/-- The effect of a word that writes one predicate. -/
def writePred (n : Nat) (v : Issue → Bool) (f : Issue) (s : State) : State :=
  frameCtx s f (fun c => c.setPred n (v f))

end Sys2Proof.Machine
end

