-- ==== Sys2Proof/Machine/Commands.lean ====
section
/-! DEFINITION. Engine commands: dispatch, queue grants, the footprint tracker, start and completion (R11 to R20, R83,
R156 to R159). -/

namespace Sys2Proof.Machine

/-- A command of the frame's word as it is dispatched (R11). -/
def newCmd (w : Instr) (cls : Cls) (creg : RegNo) (f : Issue) (s : State) : Cmd :=
  let t := frameTask s f
  { id := s.nextId, core := f.core, ctx := f.ctx, instr := w, cls := cls, slot := f.slot, seq := f.snap.seq,
    disp := s.nextId, part := t.part, asid := t.asid, gen := t.gen, gang := t.gang, tslot := 0, img := 0#512,
    lrec := 0#768, fmt := 0, vals := [], vtype := f.vtype, vwin := f.vwin, ports := f.ports, creg := creg.toNat,
    phase := .queued, upc := 0,
    edges := if f.ctx = .C ∧ cls ≠ .vector then vectorPending s f.core else [], waits := ownPending s f.core f.ctx,
    farWaits := [], reads := [], writes := [], locks := none, code := 0, value := 0, out := [], list := [], elem := [], work := [],
    acls := 0, acq := [], tile := none, counted := 0, refused := false, fslot := 0, fimg := 0#512, ffmt := 0, freg := 0, fault := 0, retry := none,
    notice := none, denied := false, back := .queued, lost := none }

/-- Registers become empty for the parts of a command's reply, in order (R19, R63, R349). x0 stands for no register. -/
def emptyParts (c : Ctx) (id slot : Nat) (rs : List RegNo) (part : Nat) : Ctx :=
  match rs with
  | [] => c
  | r :: rest => emptyParts (c.emptyX r ⟨id, slot, part⟩) id slot rest (part + 1)

/-- A queue entry is taken: one that had been granted, whose winner stands already, or one that contention decides now (R83). -/
def takeEntry (k : Core) (e : Cls) (i : CtxId) : Core :=
  let others := (queueWaiting k e).filter (fun n => n != i.num)
  let granted := kget k.grants e.code = some i
  { k with
    grants := if granted then kdel k.grants e.code else k.grants
    won := if granted ∨ others.isEmpty then k.won else kput k.won e.code i
    waiting := if others.isEmpty then kdel k.waiting e.code else kput k.waiting e.code others }

/-- A command enters its queue, and its reply registers become empty (R11, R19). -/
def dispatch (c : Cmd) (fills : List RegNo) (f : Issue) (s : State) : State :=
  frameCtx (modCore { s with cmds := s.cmds ++ [c], nextId := c.id + 1 } c.core (fun k => takeEntry k c.cls c.ctx)) f
    (fun x => emptyParts x c.id f.slot fills 0)

/-- QUEUE_ENTRY_GRANT: a freed entry of a contended queue is granted, in round robin (R83). -/
def execQueueEntryGrant (core : Nat) (cls : Cls) (s : State) : Host.Outcome State Fault Refusal :=
  let k := coreOf s core
  let waiting := queueWaiting k cls
  .next (if (kget k.grants cls.code).isSome || decide (waiting.length < 2)
      || decide (Config.queueDepth ≤ queueLength s core cls) then s
    else
      let n := queueNext k cls waiting
      let i := if n = 0 then CtxId.L else if n = 1 then .C else .S
      modCore s core (fun k => { k with grants := kput k.grants cls.code i, won := kput k.won cls.code i }))

/-! Template commands (R244, R276, R315). -/

/-- The fault of a marked template slot (R132). -/
def templateMark (w : Instr) (f : Issue) (s : State) : Option (Nat × Word) :=
  match pform w with
  | none => none
  | some (e, _, tpl, _, _) => (((coreOf s f.core).tpl e tpl).mark).map (fun m => (m.code, m.addr))

/-- The command of a template word, formed in its frame. -/
def templateCmd (w : Instr) (f : Issue) (s : State) : Cmd :=
  match formedWord w f s with
  | none => newCmd w .sched 0#6 f s
  | some (e, tpl, c) => { newCmd w e (BitVec.ofNat 6 (tplField e c.img 2)) f s with tslot := tpl, img := c.img }

/-! The tracker (R13 to R16). -/

/-- Whether two extents share a granule of a scratchpad or a line of shared memory (R14, R16). -/
def Extent.meets (x y : Extent) : Bool :=
  let g := match x.space with
    | .sp _ => 32
    | _ => 256
  x.space == y.space && decide (x.lo < x.hi) && decide (y.lo < y.hi)
  && decide (x.lo / g ≤ (y.hi - 1) / g) && decide (y.lo / g ≤ (x.hi - 1) / g)

/-- Whether two footprints overlap in some extent. -/
def meetsAny (x y : List Extent) : Bool := x.any (fun e => y.any e.meets)

/-- Whether a newer command owes an edge to an older one (R14). -/
def owes (new old : Cmd) : Bool :=
  meetsAny new.reads old.writes || meetsAny new.writes old.reads || meetsAny new.writes old.writes

/-- Commands that a core's tracker holds (R14). -/
def tracked (s : State) (core : Nat) : List Cmd :=
  s.cmds.filter (fun c => c.core == core && c.cls.tracked && c.phase != .queued)

/-- The oldest of a list of commands in dispatch order. -/
def oldestCmd (l : List Cmd) : Option Cmd :=
  l.foldl (fun b c =>
    match b with
    | none => some c
    | some x => if c.disp < x.disp then some c else some x) none

/-- TRACKER_ADMIT: the oldest queued command of a core enters its tracker, with an edge to every older outstanding
command that it overlaps (R14, R16). -/
def execTrackerAdmit (core : Nat) (s : State) : Host.Outcome State Fault Refusal :=
  .next (match oldestCmd (s.cmds.filter (fun c => c.core == core && c.cls.tracked && c.phase == .queued)) with
    | none => s
    | some c =>
      let held := tracked s core
      if Config.trackerDepth ≤ held.length ∨ (gangOf s c.gang).any (fun g => g.saved) = true then s
      else
        let edges := (held.filter (fun o => owes c o)).map (fun o => o.id)
        modCmd s c.id (fun c => { c with phase := .admitted, edges := c.edges ++ edges }))

/-! Starting (R14, R17, R180). -/

/-- Whether the gang of a command may start work: its stall wire is down and it has not been saved (R84, R180, R187). A line
command that has left the core's queue does not wait for a saved gang (R366). -/
def gangRuns (s : State) (c : Cmd) : Bool :=
  match gangOf s c.gang with
  | none => true
  | some g => (!g.stalled && !g.saved) || (c.cls == .line && g.saved)

/-- Whether every edge that a command owes is satisfied (R14). -/
def edgesDone (s : State) (c : Cmd) : Bool := c.edges.all (fun n => (cmdOf s n).isNone)

/-- Whether an access has had the event that a release at a scope makes precede it: its near event at core scope, its
host event at host scope, else its far event (R151, R154). -/
def releasedAt (s : State) (sc : Scope) (id : Nat) : Bool :=
  match sc with
  | .core => performedCore s id
  | .host => performedHost s id
  | _ => performedFar s id

/-- The accesses that a release covers: the context's own and those that happen before it (R151). -/
def coveredBy (s : State) (f : Issue) : List Nat := coveredAt s f.core f.ctx

/-- The command of a word of class 0xB, 0xD, 0xE or 0xF, with the registers it reads. -/
def wordCmd (w : Instr) (cls : Cls) (f : Issue) (s : State) : Cmd :=
  { newCmd w cls ((fillRegs w).headD 0#6) f s with
    vals := (srcRegs w).map (fun r => f.rd r.1)
    farWaits := if releases (ordScope w).1 then coveredBy s f else [] }

/-- Whether what the earlier vector words of a command's context have written beyond the core has had the event that the word's
order makes precede its own (R17, R151, R398). -/
def vectorReleased (s : State) (c : Cmd) : Bool :=
  let sc := if releases (ordScope c.instr).1 then (ordScope c.instr).2 else .core
  c.ctx != .C || !(s.acc ++ s.backInv).any (fun a =>
    a.kind == .vec && a.core == c.core && decide (a.place < 4 * c.seq + c.slot) && !releasedAt s sc a.id)

/-- Whether what R17 and the word's order make a command wait for has performed. -/
def waitsDone (s : State) (c : Cmd) : Bool :=
  c.waits.all (performedCore s) && c.farWaits.all (releasedAt s (ordScope c.instr).2) && vectorReleased s c

/-- The task of a command's core. -/
def cmdTask (s : State) (c : Cmd) : Option Task := taskOf s c.core

/-- Whether the gang of a command is saved: its completion registers fill after it has resumed (R366, R392). -/
def gangSaved (s : State) (c : Cmd) : Bool := (gangOf s c.gang).any (fun g => g.saved)

/-- Whether a command is stopped with its gang; a line command that has left the core's queue goes on (R366, R392). -/
def cmdSaved (s : State) (c : Cmd) : Bool := c.cls != .line && gangSaved s c

/-! Completion (R19, R20). -/

/-- A completion status word (R20). -/
def statusWord (code value : Nat) : Word := BitVec.ofNat 64 (code % 2 ^ 16 * 2 ^ 48 + value % 2 ^ 48)

/-- The accesses of a command that are still to perform beyond core scope. -/
def cmdAcc (s : State) (id : Nat) : List Access := (s.acc ++ s.backInv).filter (fun a => a.cmd == id)

/-- A command is over: its registers are filled, with a release at core scope of its writes, and it leaves the tracker
(R19, R158). A copy adds its value to the byte total (R288). -/
def endCmd (s : State) (c : Cmd) (vals : List Word) : State :=
  let acq := (cmdAcc s c.id).map (fun a => a.id) ++ c.acq
  let fill (x : Ctx) (p : Nat × Word) : Ctx := x.fill c.id p.1 p.2 none acq
  let s := dropCmd (modCtx s c.core c.ctx (fun x => ((upFrom 0 vals.length).zip vals).foldl fill x)) c.id
  if c.cls = .copy ∧ cpOp c.img ≠ 11 then modCore s c.core (fun k => { k with total := k.total + BitVec.ofNat 48 c.value })
  else s

/-- COMMAND_COMPLETE: a command whose work is done completes once its writes have performed at core scope and what its
chapter makes it wait for has performed (R19, R291, R366). -/
def execCommandComplete (cmd : Nat) (s : State) : Host.Outcome State Fault Refusal :=
  .next (match cmdOf s cmd with
    | none => s
    | some c =>
      if c.phase = .finished ∧ gangSaved s c = false ∧ (cmdAcc s cmd).all (fun a => a.nearAt != 0) = true ∧ waitsDone s c = true then
        endCmd s c (statusWord c.code c.value :: c.out)
      else s)

/-! What engines do at a micro-operation. -/

/-- A command's work is done, with its status (R19, R20). -/
def finish (s : State) (c : Cmd) (code value : Nat) : State :=
  modCmd s c.id (fun c => { c with phase := .finished, code := code, value := value })

/-- Register value n of a command. -/
def Cmd.val (c : Cmd) (n : Nat) : Word := c.vals.getD n 0#64

/-- A command goes on to another micro-PC. -/
def goOn (s : State) (c : Cmd) (upc : Nat) : State := modCmd s c.id (fun c => { c with upc := upc })

/-- Whether a granule that a command writes still waits for the far event of a command to which it owed an edge
(R156). -/
def granuleHeld (s : State) (c : Cmd) (d : Dest) (n : Nat) : Bool :=
  s.acc.any (fun a =>
    (a.kind == .eng || a.kind == .acc) && a.cmd != c.id && c.edges.contains a.cmd && decide (a.core = c.core) &&
    (match a.dest, d with
     | .sp k o, .sp k' o' => k == k' && decide (o / 32 ≤ (o' + n - 1) / 32) && decide (o' / 32 ≤ (o + a.size - 1) / 32)
     | .ipa o, .ipa o' => decide (o / 32 ≤ (o' + n - 1) / 32) && decide (o' / 32 ≤ (o + a.size - 1) / 32)
     | _, _ => false))

/-- A write that a command makes, of a kind, with a place among near events. -/
def engAccess (s : State) (c : Cmd) (kind : AccKind) (near cls : Nat) (ea : Word) (d : Dest) (data : List Byte) : Access :=
  { id := s.nextId, core := c.core, ctx := none, seq := c.seq, slot := c.slot, kind := kind, cls := cls, ea := ea,
    dest := d, size := data.length, data := data, nearAt := near, notice := none, denied := false,
    retry := none, refused := false, granted := false, since := 0, sync := c.upc, part := c.part, asid := c.asid, gen := c.gen,
    cmd := c.id, store := c.cls.code }

/-- A write of a command: its near event happens now and its far event is to come (R146, R156). -/
def engWrite (s : State) (c : Cmd) (cls : Nat) (ea : Word) (d : Dest) (data : List Byte) : State :=
  if data.isEmpty then s
  else { addAccess s (engAccess s c .eng s.nearNext cls ea d data) with nearNext := s.nearNext + 1 }

/-- An accumulation of a command into one granule: its near and its far event are the grant of its bank (R264). -/
def engAdd (s : State) (c : Cmd) (off : Nat) (data : List Byte) : State :=
  if data.isEmpty then s else addAccess s (engAccess s c .acc 0 16 (BitVec.ofNat 64 off) (.sp c.core off) data)

/-- Bytes cut at the granules of a scratchpad, each piece with its offset. -/
def granuleCuts (off : Nat) (data : List Byte) : Nat → List (Nat × List Byte)
  | 0 => []
  | fuel + 1 =>
    if data.isEmpty then []
    else (off, data.take (32 - off % 32)) :: granuleCuts (off + (32 - off % 32)) (data.drop (32 - off % 32)) fuel

/-- Bytes written granule by granule from an offset of a scratchpad. -/
def engWriteSp (s : State) (c : Cmd) (core off : Nat) (data : List Byte) (fuel : Nat) : State :=
  (granuleCuts off data fuel).foldl (fun s p => engWrite s c 16 (BitVec.ofNat 64 p.1) (.sp core p.1) p.2) s

/-- FP32 addends added granule by granule from an offset of the own scratchpad. -/
def engAddSp (s : State) (c : Cmd) (off : Nat) (data : List Byte) (fuel : Nat) : State :=
  (granuleCuts off data fuel).foldl (fun s p => engAdd s c p.1 p.2) s

/-- A read of the own scratchpad by a command: its bytes, or the offset of the first granule that fails its ECC
(R267, R292). -/
def engRead (s : State) (c : Cmd) (off n : Nat) : Except Nat (List Byte) :=
  match (granulesOf off n).find? (fun g => (coreOf s c.core).spBad.contains g) with
  | some g => .error (32 * g)
  | none => .ok (spView s c.core off n)

/-- The first granule of the own scratchpad that fails its ECC and that a write of a command covers only in part
(R417). -/
def engWriteBad (s : State) (c : Cmd) (off n : Nat) : Option Nat :=
  ((granulesOf off n).find? (fun g =>
    (coreOf s c.core).spBad.contains g && !(decide (off ≤ 32 * g) && decide (32 * g + 32 ≤ off + n)))).map (fun g => 32 * g)

/-- The generic address of an offset of the own scratchpad. -/
def genericOf (s : State) (c : Cmd) (off : Nat) : Word :=
  ((cmdTask s c).map (fun t => t.lwb)).getD 0#64 + BitVec.ofNat 64 off

/-- Whether a command may take its next micro-operation: a watchdog's wire holds it there (R185). A line command that has left
the core's queue goes on while its gang is pre-empted (R392). -/
def mayRun (s : State) (c : Cmd) : Bool :=
  c.phase == .running && c.notice.isNone &&
  (match c.retry with
   | some t => decide (t ≤ s.tsc)
   | none => true) &&
  (match gangOf s c.gang with
   | none => true
   | some g => g.watch.isEmpty && (c.cls == .line || !g.saved))

end Sys2Proof.Machine
end

