-- ==== Sys2Proof/Machine/Numbers.lean ====
section
/-! DEFINITION. Number formats and exact arithmetic: values of bit patterns, rounding and conversion, the matrix sum's
exact terms, the random function and the correctly rounded functions (R189 to R214). -/

namespace Sys2Proof.Machine

/-- An exact value: NaN, an infinity, or (-1)^neg * m * 2^e (R190, R203). -/
inductive Num where
  | nan
  | inf (neg : Bool)
  | fin (neg : Bool) (m : Nat) (e : Int)
  deriving DecidableEq, Repr, Inhabited

/-- A floating format: precision, lowest exponent, mantissa bits, width, its largest finite magnitude as m * 2^e, and
the encodings of the canonical NaN, of that magnitude and of infinity, none where it has none (R190, R191, R206). -/
structure FloatFmt where
  p : Nat
  emin : Int
  mb : Nat
  w : Nat
  maxM : Nat
  maxE : Int
  nanBits : Nat
  maxBits : Nat
  infBits : Option Nat
  deriving DecidableEq, Repr, Inhabited

def fp32 : FloatFmt := ⟨24, -126, 23, 32, 0xFFFFFF, 104, 0x7FC00000, 0x7F7FFFFF, some 0x7F800000⟩
def bf16 : FloatFmt := ⟨8, -126, 7, 16, 0xFF, 120, 0x7FC0, 0x7F7F, some 0x7F80⟩
def e4m3 : FloatFmt := ⟨4, -6, 3, 8, 7, 6, 0x7F, 0x7E, none⟩
def e5m2 : FloatFmt := ⟨3, -14, 2, 8, 7, 13, 0x7E, 0x7B, some 0x7C⟩

/-- The floating format of an element type code (R189). -/
def fmtOf (et : Nat) : Option FloatFmt :=
  match et with
  | 0 => some fp32
  | 1 => some bf16
  | 2 => some e4m3
  | 3 => some e5m2
  | _ => none

/-- Width in bits of an element type code (R189). -/
def etWidth (et : Nat) : Nat :=
  match et with
  | 0 | 5 => 32
  | 1 => 16
  | 6 => 64
  | 7 => 4
  | 8 => 3
  | _ => 8

/-- Whether an element type is a two's complement integer of the vector unit (R193). -/
def etInt (et : Nat) : Bool := et == 4 || et == 5 || et == 6

/-- Whether an element type is a floating format. -/
def etFloat (et : Nat) : Bool := et ≤ 3

/-- The integer that a w-bit pattern holds (R193, R194, R195). -/
def patInt (w v : Nat) : Int := if v % 2 ^ w < 2 ^ (w - 1) then (v % 2 ^ w : Nat) else ((v % 2 ^ w : Nat) : Int) - 2 ^ w

/-- The w-bit pattern of an integer, modulo 2^w. -/
def intPat (w : Nat) (v : Int) : Nat := (v % (2 ^ w : Nat)).toNat

/-- An integer's exact value. -/
def numInt (v : Int) : Num := .fin (decide (v < 0)) v.natAbs 0

/-- The value of a pattern of a floating format (R190). -/
def decFloat (f : FloatFmt) (v : Nat) : Num :=
  let neg := nbits v (f.w - 1) (f.w - 1) == 1
  let e := nbits v (f.w - 2) f.mb
  let m := v % 2 ^ f.mb
  let top := 2 ^ (f.w - 1 - f.mb) - 1
  if e = top ∧ (f.infBits.isSome ∨ m = 2 ^ f.mb - 1) then
    if f.infBits.isSome ∧ m = 0 then .inf neg else .nan
  else if e = 0 then .fin neg m (f.emin - f.mb)
  else .fin neg (m + 2 ^ f.mb) ((e : Int) - 1 + f.emin - f.mb)

/-- The value of an E8M0 byte (R197). -/
def decE8 (b : Nat) : Num := if b % 256 = 255 then .nan else .fin false 1 ((b % 256 : Nat) - 127)

/-- The value of a pattern of an element type (R190, R193, R197). -/
def decNum (et v : Nat) : Num :=
  match fmtOf et with
  | some f => decFloat f v
  | none => if et = 9 then decE8 v else numInt (patInt (etWidth et) v)

/-! Rounding (R205 to R208). -/

/-- The random part of a stochastic rounding: z, its bits rz, and the exponent of the source's unit, none for an exact
result (R208). -/
structure Rand where
  z : Nat
  rz : Nat
  unit : Option Int
  deriving DecidableEq, Repr, Inhabited

/-- No random bits. -/
def Rand.zero : Rand := ⟨0, 0, none⟩

/-- m * 2^e as a count of units 2^ue, rounded by mode (R206, R208). -/
def roundTo (m : Nat) (e ue : Int) (mode : Nat) (neg : Bool) (r : Rand) : Nat :=
  if ue ≤ e then m * 2 ^ (e - ue).toNat
  else
    let sh := (ue - e).toNat
    let q := m / 2 ^ sh
    let rem := m % 2 ^ sh
    if rem = 0 then q
    else
      match mode with
      | 0 => if 2 ^ sh < 2 * rem ∨ (2 ^ sh = 2 * rem ∧ q % 2 = 1) then q + 1 else q
      | 1 => q
      | 2 => if neg then q + 1 else q
      | 3 => if neg then q else q + 1
      | _ =>
        let r1 := match r.unit with
          | none => r.rz
          | some u => min r.rz (ue - u).toNat
        (m * 2 ^ r1 + r.z / 2 ^ (r.rz - r1) * 2 ^ sh) / 2 ^ (sh + r1)

/-- floor(log2 m) for m > 0. -/
def log2Nat (m : Nat) : Nat := Nat.log2 m

/-- Whether a * 2^x > b * 2^y. -/
def dyGt (a : Nat) (x : Int) (b : Nat) (y : Int) : Bool :=
  if y ≤ x then decide (b < a * 2 ^ (x - y).toNat) else decide (b * 2 ^ (y - x).toNat < a)

/-- A finite overflow (R207). -/
def overflow (f : FloatFmt) (neg : Bool) (mode : Nat) (sat : Bool) : Nat :=
  let s := if neg then 2 ^ (f.w - 1) else 0
  if f.w = 8 then (if sat then s + f.maxBits else f.nanBits)
  else
    let inf := f.infBits.getD 0
    match mode with
    | 1 => s + f.maxBits
    | 2 => if neg then s + inf else s + f.maxBits
    | 3 => if neg then s + f.maxBits else s + inf
    | _ => s + inf

/-- rnd of R206 for a floating format. -/
def rndFloat (x : Num) (f : FloatFmt) (mode : Nat) (sat : Bool) (r : Rand) : Nat :=
  match x with
  | .nan => f.nanBits
  | .inf neg =>
    match f.infBits with
    | some b => (if neg then 2 ^ (f.w - 1) else 0) + b
    | none => if sat then (if neg then 2 ^ (f.w - 1) else 0) + f.maxBits else f.nanBits
  | .fin neg m e =>
    let s := if neg then 2 ^ (f.w - 1) else 0
    if m = 0 then s
    else
      let ex := max (log2Nat m + e) f.emin
      let ue := ex - f.p + 1
      let k := roundTo m e ue mode neg r
      if dyGt k ue f.maxM f.maxE then overflow f neg mode sat
      else if k < 2 ^ (f.p - 1) then s + k
      else if k = 2 ^ f.p then s + ((ex + 1 - f.emin + 1).toNat * 2 ^ f.mb)
      else s + (ex - f.emin + 1).toNat * 2 ^ f.mb + (k - 2 ^ (f.p - 1))

/-- rnd to E8M0 (R209). -/
def rndE8 (x : Num) (mode : Nat) (sat : Bool) (r : Rand) : Nat :=
  let most := if sat then 0xFE else 0xFF
  match x with
  | .nan | .inf true => 0xFF
  | .inf false => most
  | .fin neg m e =>
    if m = 0 ∨ neg = true then 0xFF
    else
      let ue := max (log2Nat m + e) (-127)
      match roundTo m e ue mode false r with
      | 0 => 0
      | 1 => if 127 < ue then most else (ue + 127).toNat
      | _ => if 126 < ue then most else (ue + 128).toNat

/-- rnd to an element type that is no integer (R206, R209). -/
def rnd (x : Num) (et mode : Nat) (sat : Bool) (r : Rand) : Nat :=
  match fmtOf et with
  | some f => rndFloat x f mode sat r
  | none => rndE8 x mode sat r

/-- Round to nearest even FP32 (R202). -/
def rne32 (x : Num) : Num := decFloat fp32 (rndFloat x fp32 0 false Rand.zero)

/-- The exponent of the unit of an element type at a value (R208, R209). -/
def unitAt (et : Nat) (x : Num) : Option Int :=
  match x with
  | .fin _ m e =>
    if m = 0 then none
    else
      match fmtOf et with
      | some f => some (max (log2Nat m + e) f.emin - f.p + 1)
      | none => if et = 9 then some (log2Nat m + e) else some 0
  | _ => none

/-- A value rounded to an integer and saturated to w bits (R209). -/
def toInt (x : Num) (w mode : Nat) (r : Rand) : Nat :=
  let hi : Int := 2 ^ (w - 1) - 1
  let lo : Int := -(2 ^ (w - 1))
  match x with
  | .nan => 0
  | .inf true => intPat w lo
  | .inf false => intPat w hi
  | .fin neg m e =>
    let k : Int := roundTo m e 0 mode neg r
    intPat w (max lo (min hi (if neg then -k else k)))

/-- A pattern converted from one element type to another (R209, R230). -/
def convert (src v dst mode : Nat) (sat : Bool) (z rz : Nat) : Nat :=
  let x := decNum src v
  let r : Rand := ⟨z, rz, unitAt src x⟩
  if etInt dst then toInt x (etWidth dst) mode r else rnd x dst mode sat r

/-! Exact arithmetic (R192, R203). -/

/-- The sign-magnitude integer of a value in units of 2^u, for u at most its exponent. -/
def atUnit (neg : Bool) (m : Nat) (e u : Int) : Int :=
  let k : Int := m * 2 ^ (e - u).toNat
  if neg then -k else k

/-- A value of an integer count of units 2^u; a zero has the sign given. -/
def ofUnit (k u : Int) (zeroNeg : Bool) : Num := if k = 0 then .fin zeroNeg 0 0 else .fin (decide (k < 0)) k.natAbs u

/-- Exact sum (R192). -/
def Num.add (x y : Num) : Num :=
  match x, y with
  | .nan, _ | _, .nan => .nan
  | .inf a, .inf b => if a = b then .inf a else .nan
  | .inf a, _ => .inf a
  | _, .inf b => .inf b
  | .fin a m e, .fin b n f => ofUnit (atUnit a m e (min e f) + atUnit b n f (min e f)) (min e f) (m == 0 && n == 0 && a && b)

/-- The value with its sign inverted. -/
def Num.neg : Num → Num
  | .nan => .nan
  | .inf a => .inf (!a)
  | .fin a m e => .fin (!a) m e

/-- Exact product. -/
def Num.mul (x y : Num) : Num :=
  match x, y with
  | .nan, _ | _, .nan => .nan
  | .inf a, .inf b => .inf (a != b)
  | .inf a, .fin b m _ | .fin b m _, .inf a => if m = 0 then .nan else .inf (a != b)
  | .fin a m e, .fin b n f => .fin (a != b) (m * n) (e + f)

/-- Exact sum of a list (R202, R203). -/
def Num.sum (l : List Num) : Num :=
  match l with
  | [] => .fin false 0 0
  | x :: rest => rest.foldl Num.add x

/-- Comparison of values, none with a NaN; the two zeros are equal. -/
def Num.lt (x y : Num) : Option Bool :=
  match x, y with
  | .nan, _ | _, .nan => none
  | .inf a, .inf b => some (a && !b)
  | .inf a, .fin _ _ _ => some a
  | .fin _ _ _, .inf b => some (!b)
  | .fin a m e, .fin b n f => some (decide (atUnit a m e (min e f) < atUnit b n f (min e f)))

/-- Equality of values, false with a NaN. -/
def Num.same (x y : Num) : Bool :=
  match x.lt y, y.lt x with
  | some a, some b => !a && !b
  | _, _ => false

/-! The random function (R210 to R212). -/

/-- One round of gmix. -/
def gmixRound (x k : Word) : Word :=
  let y := (x ^^^ k) * 0x9E3779B97F4A7C15#64
  y ^^^ (y >>> 29)

/-- n rounds of gmix. -/
def gmixFrom (x k : Word) : Nat → Word
  | 0 => x
  | n + 1 => gmixFrom (gmixRound x k) (k + 0xD1B54A32D192ED03#64) n

/-- gmix of R210. -/
def gmix (key ctr : Word) : Word := gmixFrom ctr key 6

/-- The running-mode counter (R211). -/
def runningCtr (core rc : Nat) : Word := BitVec.ofNat 64 (0xFFFF * 2 ^ 48 + core * 2 ^ 39 + rc % 2 ^ 39)

/-- n running-mode values from a count. -/
def drawn (key : Word) (core rc : Nat) : Nat → List Word
  | 0 => []
  | n + 1 => gmix key (runningCtr core rc) :: drawn key core (rc + 1) n

/-- The k-bit random word of a drawn value (R212). -/
def randBits (y : Word) (k : Nat) : Nat := y.toNat / 2 ^ (64 - k)

/-! Correctly rounded functions (R214). Each is rounded from a truncated value and one sticky bit below it. -/

/-- Integer square root by bits: the largest r below r0 + 2^n with r^2 at most v. -/
def sqrtFrom (v r : Nat) : Nat → Nat
  | 0 => r
  | n + 1 => if (r + 2 ^ n) ^ 2 ≤ v then sqrtFrom v (r + 2 ^ n) n else sqrtFrom v r n

/-- floor of the square root. -/
def isqrt (v : Nat) : Nat := sqrtFrom v 0 (log2Nat v / 2 + 1)

/-- A truncated magnitude k * 2^e with a sticky bit below it. -/
def sticky (neg : Bool) (k : Nat) (e : Int) (inexact : Bool) : Num := .fin neg (2 * k + if inexact then 1 else 0) (e - 1)

/-- 1/x (R214). -/
def recip (x : Num) : Num :=
  match x with
  | .nan => .nan
  | .inf a => .fin a 0 0
  | .fin a m e =>
    if m = 0 then .inf a
    else
      let n := log2Nat m + 64
      sticky a (2 ^ n / m) (-e - n) (decide (2 ^ n % m ≠ 0))

/-- 1/sqrt x (R214). -/
def rsqrt (x : Num) : Num :=
  match x with
  | .nan | .inf true => .nan
  | .inf false => .fin false 0 0
  | .fin a m e =>
    if m = 0 then .inf a
    else if a then .nan
    else
      let m2 := if e % 2 = 0 then m else 2 * m
      let e2 := if e % 2 = 0 then e else e - 1
      let n := log2Nat m2 + 64
      let q := 2 ^ (2 * n) / m2
      let k := isqrt q
      sticky false k (-(e2 / 2) - n) (decide (2 ^ (2 * n) % m2 ≠ 0) || decide (k * k ≠ q))

/-- Fraction bits that the exponential and the logarithm carry (DEDUCED: enough to decide every rounding; log entry
12). -/
def fracBits : Nat := 192

/-- The product of 2^(2^-j) over the set bits of a fraction of n bits below the point, c being 2^(2^-(j-1)) in units of
2^-192. -/
def exp2From (frac c r : Nat) : Nat → Nat
  | 0 => r
  | n + 1 =>
    let c := isqrt (c * 2 ^ fracBits)
    exp2From frac c (if frac.testBit n then r * c / 2 ^ fracBits else r) n

/-- 2^x (R214). -/
def exp2 (x : Num) : Num :=
  match x with
  | .nan => .nan
  | .inf true => .fin false 0 0
  | .inf false => .inf false
  | .fin a m e =>
    if m = 0 then .fin false 1 0
    else if 8 ≤ (log2Nat m : Int) + e then (if a then .fin false 1 (-300) else .fin false 1 300)
    else
      let q := roundTo m (e + 160) 0 1 false Rand.zero
      let lost := decide (e + 160 < 0) && decide (q * 2 ^ (-(e + 160)).toNat ≠ m)
      let v : Int := if a then -(q + if lost then 1 else 0) else q
      let i := v / 2 ^ 160
      let f := (v % 2 ^ 160).toNat
      if f = 0 ∧ lost = false then .fin false 1 i
      else sticky false (exp2From f (2 * 2 ^ fracBits) (2 ^ fracBits) 160) (i - fracBits) true

/-- n bits of the fraction of log2 of y / 2^320, y in [2^320, 2^321), by repeated squaring. -/
def log2From (y acc : Nat) : Nat → Nat
  | 0 => acc
  | n + 1 =>
    let y2 := y * y / 2 ^ 320
    if 2 ^ 321 ≤ y2 then log2From (y2 / 2) (2 * acc + 1) n else log2From y2 (2 * acc) n

/-- log2 x (R214). -/
def log2Num (x : Num) : Num :=
  match x with
  | .nan | .inf true => .nan
  | .inf false => .inf false
  | .fin a m e =>
    if m = 0 then .inf true
    else if a then .nan
    else
      let n : Int := log2Nat m + e
      if m = 2 ^ log2Nat m then numInt n
      else
        let f : Int := log2From (m * 2 ^ (320 - log2Nat m)) 0 128
        let v := n * 2 ^ 128 + f
        if 0 ≤ v then sticky false v.natAbs (-128) true else sticky true ((-v).natAbs - 1) (-128) true

/-- Whether a value is NaN. -/
def Num.isNan : Num → Bool
  | .nan => true
  | _ => false

/-- Whether a value is infinite. -/
def Num.isInf : Num → Bool
  | .inf _ => true
  | _ => false

/-- The sum of two FP32 patterns, as an accumulator rounds it (R202, R251). -/
def addFp32 (x y : Nat) : Nat := rndFloat ((decNum 0 x).add (decNum 0 y)) fp32 0 false Rand.zero

/-- The bank adder: FP32 addends added to the bytes of accumulator elements (R264). -/
def addBytes : List Byte → List Byte → List Byte
  | a :: b :: c :: d :: rest, x :: y :: z :: w :: more =>
    natBytes (addFp32 (leNat [a, b, c, d]) (leNat [x, y, z, w])) 4 ++ addBytes rest more
  | _, _ => []

/-- The FP32 elements of bytes. -/
def floatsOf : List Byte → List Num
  | a :: b :: c :: d :: rest => decNum 0 (leNat [a, b, c, d]) :: floatsOf rest
  | _ => []

/-- The status bits that values written to an accumulator set (R260). -/
def accSticky (l : List Num) : BitVec 4 := (if l.any Num.isNan then 1#4 else 0#4) ||| (if l.any Num.isInf then 2#4 else 0#4)

end Sys2Proof.Machine
end

