-- ==== Sys2Proof/Machine/Memory.lean ====
section
/-! DEFINITION. Loads, stores, the constant path, template images, fences and aperture words (R106 to R116, R124,
R125, R132), and the events of accesses (R107, R110, R146 to R155, R264). -/

namespace Sys2Proof.Machine

/-! Addresses of words. -/

/-- Bytes of an access size code (R56, R109, R112). -/
def accSize (k : BitVec 2) : Nat := 2 ^ k.toNat

/-- The effective address of an M-form word (R106). -/
def memAddr (xa : RegNo) (imm : BitVec 8) (size : Nat) (f : Issue) : Word :=
  f.rd xa + imm.signExtend 64 * BitVec.ofNat 64 size

/-- The address fault of a word's access (R106). -/
def addrFault (ea : Issue → Word) (size : Nat) (p : Perm) (f : Issue) (s : State) : Option (Nat × Word) :=
  match checkAddr s (frameTask s f) f.core (ea f) size p with
  | .error e => some (e.code, ea f)
  | .ok _ => none

/-- The address fault of an LDC: it must address a shared aperture (R112). -/
def constFault (ea : Issue → Word) (size : Nat) (f : Issue) (s : State) : Option (Nat × Word) :=
  if (ea f).toNat % size ≠ 0 then some (7, ea f)
  else if aperture (frameTask s f) (ea f) ≠ .shared then some (5, ea f)
  else addrFault ea size .read f s

/-- A word's read of memory issues, and its destination becomes empty (R107). -/
def startLoad (kind : AccKind) (cls : Nat) (xd : RegNo) (ea : Issue → Word) (size : Nat) (f : Issue) (s : State) :
    State :=
  match checkAddr s (frameTask s f) f.core (ea f) size .read with
  | .error _ => s
  | .ok d =>
    let a := newAccess s f kind cls (ea f) d size []
    frameCtx (addAccess s a) f (fun c => c.emptyX xd ⟨a.id, f.slot, 0⟩)

/-- A scalar store issues (R108). -/
def startStore (cls : Nat) (xd : RegNo) (ea : Issue → Word) (size : Nat) (f : Issue) (s : State) : State :=
  match checkAddr s (frameTask s f) f.core (ea f) size .write with
  | .error _ => s
  | .ok d => addAccess s (newAccess s f .store cls (ea f) d size (natBytes (f.rd xd).toNat size))

/-! The words. -/

/-- LD.b, LD.h, LD.w, LD.d (R107). -/
def execLd (size : BitVec 2) (cls : BitVec 4) (xd xa : RegNo) (fa : Bool) (imm : BitVec 8) (s : State) :
    Host.Outcome State Fault Refusal :=
  issueWord (.ld size cls xd xa fa imm) (addrFault (memAddr xa imm (accSize size)) (accSize size) .read)
    (startLoad .load cls.toNat xd (memAddr xa imm (accSize size)) (accSize size)) s

/-- ST.b, ST.h, ST.w, ST.d (R108). -/
def execSt (size : BitVec 2) (cls : BitVec 4) (xd xa : RegNo) (fa : Bool) (imm : BitVec 8) (s : State) :
    Host.Outcome State Fault Refusal :=
  issueWord (.st size cls xd xa fa imm) (addrFault (memAddr xa imm (accSize size)) (accSize size) .write)
    (startStore cls.toNat xd (memAddr xa imm (accSize size)) (accSize size)) s

/-- LD.bn, LD.hn, LD.wn (R109). -/
def execLdNatural (xd xa : RegNo) (fa : Bool) (cls : BitVec 4) (size : BitVec 2) (s : State) :
    Host.Outcome State Fault Refusal :=
  issueWord (.ldNatural xd xa fa cls size) (addrFault (fun f => f.rd xa) (accSize size) .read)
    (startLoad .loadn cls.toNat xd (fun f => f.rd xa) (accSize size)) s

/-- LDC.bn, LDC.hn, LDC.wn, LDC.d (R112). -/
def execLdc (xd xa : RegNo) (fa : Bool) (size : BitVec 2) (s : State) : Host.Outcome State Fault Refusal :=
  issueWord (.ldc xd xa fa size) (constFault (fun f => f.rd xa) (accSize size))
    (startLoad .ldc 16 xd (fun f => f.rd xa) (accSize size)) s

/-- The value of ACONV (R115). -/
def aconvVal (t : Task) (a : Word) : Word :=
  match aperture t a with
  | .loc => a - t.lwb
  | .cluster => a - t.cwb
  | .shared => a

/-- ACONV (R115). -/
def execAconv (xd xa : RegNo) (fa : Bool) (s : State) : Host.Outcome State Fault Refusal :=
  issueWord (.aconv xd xa fa) noFault (writeReg xd (fun f s => aconvVal (frameTask s f) (f.rd xa))) s

/-- The value of AGEN (R115). -/
def agenVal (t : Task) (a b : Word) : Word :=
  match wbits b 1 0 with
  | 1 => t.lwb + BitVec.ofNat 64 (wbits a 19 0)
  | 2 => t.cwb + BitVec.ofNat 64 (wbits a 22 0)
  | _ => a

/-- AGEN (R115). -/
def execAgen (xd xa xb : RegNo) (fa fb : Bool) (s : State) : Host.Outcome State Fault Refusal :=
  issueWord (.agen xd xa xb fa fb) noFault
    (writeReg xd (fun f s => agenVal (frameTask s f) (f.rd xa) (f.rd xb))) s

/-- The number of a permission bit. -/
def flagNum (b : Bool) (n : Nat) : Nat := if b then n else 0

/-- The value of ATEST (R116). -/
def atestVal (s : State) (t : Task) (core : Nat) (a : Word) : Word :=
  match aperture t a with
  | .loc =>
    match localDest t core a with
    | .ok _ => 29#64
    | .error _ => 1#64
  | .cluster =>
    match clusterDest s t core a with
    | .ok _ => 30#64
    | .error _ => 2#64
  | .shared =>
    match findRange t.ranges a.toNat with
    | none => 0#64
    | some (n, e) => BitVec.ofNat 64 (n * 256 + flagNum e.x 32 + flagNum e.w 16 + flagNum e.r 8 + 4)

/-- ATEST (R116). -/
def execAtest (xd xa : RegNo) (fa : Bool) (s : State) : Host.Outcome State Fault Refusal :=
  issueWord (.atest xd xa fa) noFault (writeReg xd (fun f s => atestVal s (frameTask s f) f.core (f.rd xa))) s

/-- The accesses that a FENCE of a frame waits for (R124, R150, R223). -/
def fenceWaits (s : State) (f : Issue) (mask : BitVec 16) (scope : Scope) : List Nat :=
  let own := (s.acc ++ s.backInv).filter (fun a =>
    a.core == f.core && a.ctx == some f.ctx && a.kind != .ldc &&
    (if a.kind == .vec then scope != .ctx else decide (a.cls < 16) && mask.getLsbD a.cls))
  let outside := (s.acc ++ s.backInv).filter (fun a =>
    a.core == f.core && a.ctx == some f.ctx && a.kind != .vec && !(decide (a.cls < 16) && mask.getLsbD a.cls))
  unionNat (own.map (fun a => a.id))
    ((hbOf s f.core f.ctx).filter (fun n => !(outside.any (fun a => a.id == n))))

/-- A FENCE issues (R124). -/
def startFence (mask : BitVec 16) (scope : Scope) (f : Issue) (s : State) : State :=
  let r : FenceRec := ⟨s.nextId, 4 * f.snap.seq + f.slot, mask, scope, fenceWaits s f mask scope⟩
  frameCtx { s with nextId := s.nextId + 1 } f (fun c => { c with fences := c.fences ++ [r] })

/-- FENCE.scope (R124). -/
def execFence (mask : BitVec 16) (scope : Scope) (s : State) : Host.Outcome State Fault Refusal :=
  issueWord (.fence mask scope) noFault (startFence mask scope) s

/-- CSYNC: every line of the core's constant cache goes, and the context's sync point moves (R113, R140, R141). -/
def execCsync (s : State) : Host.Outcome State Fault Refusal :=
  issueWord .csync noFault (fun f s =>
    frameCtx (modCore s f.core (fun k => { k with consts := [] })) f
      (fun c => { c with sync := 4 * f.snap.seq + f.slot })) s

/-- The store number of a template store. -/
def storeNo (e : TplEng) (slot : BitVec 6) : Nat := 64 * e.code + slot.toNat

/-- TPL.LD.eng: the image's read issues, and the packet's hold lasts until it has arrived (R132). -/
def execTplLd (slot : BitVec 6) (xa : RegNo) (fa : Bool) (eng : TplEng) (s : State) :
    Host.Outcome State Fault Refusal :=
  issueWord (.tplLd slot xa fa eng) (addrFault (fun f => f.rd xa) 64 .read) (fun f s =>
    match checkAddr s (frameTask s f) f.core (f.rd xa) 64 .read with
    | .error _ => s
    | .ok d =>
      let a := { newAccess s f .tpl 15 (f.rd xa) d 64 [] with store := storeNo eng slot }
      frameCtx (addAccess s a) f (fun c => { c with images := c.images ++ [a.id] })) s

/-! Banks (R264). -/

/-- The bank of a scratchpad offset (R271). -/
def bankOf (off : Nat) : Nat := off / 32 % Config.bankCount

/-- The bank port of an access to a core's scratchpad (R264). -/
def bankPort (core : Nat) (a : Access) : Nat :=
  if a.core != core then 7
  else
    match a.kind, a.ctx with
    | .vec, _ => 3
    | .acc, _ => 5
    | .eng, _ => if a.store = Cls.matrix.code then 5 else if a.store = Cls.copy.code then 6 else 7
    | _, some i => i.num
    | _, none => 7

/-- Whether an access waits for a bank of a core. -/
def wantsBank (s : State) (core bank : Nat) (a : Access) : Bool :=
  !a.granted && !a.parked s && !a.denied && !nearHeld s a &&
  (match a.spPlace s with
   | some (c, o) => c == core && bankOf o == bank
   | none => false)

/-- Whether request x goes before request y: a wait of 32 cycles or more first, then round robin after the port granted
last (R264). -/
def bankFirst (core last : Nat) (x y : Access) : Bool :=
  let px := bankPort core x
  let py := bankPort core y
  let rr (p : Nat) : Nat := (p + 7 - last) % 8
  if 32 ≤ x.since ∨ 32 ≤ y.since then
    decide (y.since < x.since) || (x.since == y.since && decide (px < py))
  else decide (rr px < rr py)

/-- The request that a bank grants. -/
def bankPick (s : State) (core bank : Nat) : Option Access :=
  let last := kgetD (coreOf s core).banks bank 7
  (s.acc.filter (wantsBank s core bank)).foldl (fun b a =>
    match b with
    | none => some a
    | some x => if bankFirst core last a x then some a else some x) none

/-- BANK_GRANT: a bank grants one access (R264). -/
def execBankGrant (core bank : Nat) (s : State) : Host.Outcome State Fault Refusal :=
  .next (match bankPick s core bank with
    | none => s
    | some a =>
      modAcc (modCore s core (fun k => { k with banks := kput k.banks bank (bankPort core a) })) a.id
        (fun a => { a with granted := true }))

/-- Whether an access's place is not a scratchpad, or its bank has granted it. -/
def bankReady (s : State) (a : Access) : Bool := a.granted || (a.spPlace s).isNone

/-! Errors. -/

/-- What a consumption of a read error does beside the fault: a memory controller's uncorrectable error and a policy of
01 write a record, a policy of 10 returns the fault to the scheduler (R172, R175). i is none for no context, whose fault resets the
partition alone (R389; log entry 118). -/
def consume (s : State) (part core cls : Nat) (i : Option CtxId) (ea : Word) (ipa code : Nat) (l : Loc) (leaf : Word) :
    State :=
  let record (src : Nat) : State := mcRecord s part src code (cls % 16) ((i.map CtxId.num).getD 3) core ea ipa
  match l, code, leafPpol leaf, i with
  | .pa p, 8, 1, _ => record (srcMemory p)
  | .sp c _, 8, 1, _ => record (srcCore c)
  | _, 8, 2, some i => returnFault s core i 8 (ctxOf s core i).pc
  | _, 8, 2, none => resetPartition s part 8 3 core ea
  | .pa p, 9, _, _ => record (srcMemory p)
  | _, _, _, _ => s

/-- An access consumes a read error. -/
def consumePoison (s : State) (a : Access) (code : Nat) (l : Loc) (leaf : Word) : State :=
  consume s a.part a.core a.cls a.ctx a.ea a.dest.ipaOr code l leaf

/-- An access leaves the list of those to perform. -/
def dropAcc (s : State) (id : Nat) : State := { s with acc := s.acc.filter (fun a => a.id != id) }

/-- A store is dropped: a record is written, and its context hears of it at a covering FENCE (R110, R125, R172). -/
def dropStore (s : State) (a : Access) (code src : Nat) : State :=
  let ipa := match a.dest with
    | .ipa x => x
    | .sp _ _ => 0
  let s := mcRecord (dropAcc s a.id) a.part src code (a.cls % 16) ((a.ctx.map CtxId.num).getD 3) a.core a.ea ipa
  match a.ctx with
  | none => s
  | some i => modCtx s a.core i (fun c => { c with drops := c.drops ++ [⟨a.place, a.cls, a.ea⟩], records := c.records + 1 })

/-! LOAD_FILL (R107, R110, R112). -/

/-- The value that a load writes (R107). -/
def loadValue (kind : AccKind) (data : List Byte) : Word :=
  let n := leNat data
  let w := 8 * data.length
  if kind = .load ∧ 2 ^ (w - 1) ≤ n then BitVec.ofInt 64 ((n : Int) - 2 ^ w) else BitVec.ofNat 64 n

/-- A load's register is filled and the access is over. -/
def fillLoad (s : State) (a : Access) (v : Word) (mark : Option Mark) : State :=
  match a.ctx with
  | none => dropAcc s a.id
  | some i => modCtx (dropAcc s a.id) a.core i (fun c => c.fill a.id 0 v mark [])

/-- A load's register is filled with a fault mark (R110). -/
def fillFault (s : State) (a : Access) (code : Nat) : State := fillLoad s a 0#64 (some ⟨code, a.ea, false⟩)

/-- The line address of an IPA: its place in the constant cache (R112). -/
def constLine (d : Dest) : Nat :=
  match d with
  | .ipa a => a / 256
  | .sp _ _ => 0

/-- The part of a line that an LDC reads. -/
def lineBytes (line : List Byte) (d : Dest) (size : Nat) : List Byte :=
  match d with
  | .ipa a => (line.drop (a % 256)).take size
  | .sp _ _ => []

/-- A line brought into the constant cache; a full cache loses another line (R112, R141). -/
def constPut (m : KMap (List Byte)) (n : Nat) (line : List Byte) : KMap (List Byte) :=
  let m := kput m n line
  if Config.constLines < m.length then kdel m ((m.find? (fun e => e.1 != n)).map (fun e => e.1) |>.getD n) else m

/-- Whether a line of the constant cache, by IPA / 256, holds a byte of an access, under its own name or another (R176). -/
def constMeets (s : State) (a : Access) (line : Nat) : Bool :=
  a.overlaps s { a with dest := .ipa (256 * line), size := 256 }

/-- An LDC's line is fetched: bytes as the core's agents read them, kept when every granule is sound (R112, R140). A line of another
name of the same place leaves the cache, so that no later LDC falls behind (R140). -/
def fetchConst (s : State) (a : Access) (l : Loc) : List Byte × State :=
  let base := constLine a.dest * 256
  let off := match a.dest with
    | .ipa x => x % 256
    | .sp _ _ => 0
  let l0 := match l with
    | .sp c o => Loc.sp c (o - off)
    | .pa p => Loc.pa (p - off)
  let line := viewBytes s a.core a.part (.ipa base) (locBytes s l0 256)
  (lineBytes line a.dest a.size,
   modCore s a.core (fun k =>
     let others := k.consts.filter (fun c => !constMeets s { a with dest := .ipa base, size := 256 } c.1)
     { k with consts := if (locError s l0 256).isNone && !nearPattern s a.core a.part (.ipa base) 256 then constPut others (base / 256) line else others }))

/-- The ASID's leaf has been used, so a controller caches it (R177). -/
def usedLeaf (s : State) (a : Access) : State := useLeaf s a.part a.asid a.gen a.dest

/-- A read reaches its home (R107, R112). -/
def readHome (s : State) (a : Access) : State :=
  match judgeRead s a.core a.part a.asid a.gen a.dest a.size with
  | .wait => s
  | .err code l leaf => fillFault (consumePoison s a code l leaf) a code
  | .ok l _ =>
    if bankReady s a then
      let s := usedLeaf s a
      if a.kind = .ldc then
        let r := fetchConst s a l
        fillLoad r.2 a (loadValue a.kind r.1) none
      else fillLoad s a (loadValue a.kind (viewBytes s a.core a.part a.dest (locBytes s l a.size))) none
    else s

/-- LOAD_FILL: a load or LDC performs, and its register is filled (R107, R110, R138). Nothing happens while an order, a
lock, a translation, a refusal or a bank holds it. -/
def execLoadFill (acc : Nat) (s : State) : Host.Outcome State Fault Refusal :=
  .next (match accOf s acc with
    | none => s
    | some a =>
      if a.kind != .load && a.kind != .loadn && a.kind != .ldc then s
      else if a.denied then fillFault s a 0xE
      else if a.parked s || nearHeld s a then s
      else
        match (if a.kind = .ldc then kget (coreOf s a.core).consts (constLine a.dest) else none) with
        | some line => fillLoad s a (loadValue a.kind (lineBytes line a.dest a.size)) none
        | none => readHome s a)

/-! STORE_PERFORM (R146). -/

/-- A performed write that precedes its context's CSYNC takes its line out of the core's constant cache (R140). -/
def evictConst (s : State) (a : Access) : State :=
  match a.ctx with
  | some i =>
    if a.place < (ctxOf s a.core i).sync then
      modCore s a.core (fun k => { k with consts := k.consts.filter (fun c => !constMeets s a c.1) })
    else s
  | none => s

/-- The bytes that a write leaves at its place: an accumulation adds to what is there, in the one grant of its bank (R264,
R265). -/
def writtenBytes (s : State) (a : Access) (l : Loc) : List Byte :=
  if a.kind = .acc then addBytes (locBytes s l a.size) a.data else a.data

/-- Sticky status bits set (R260). -/
def setSticky (s : State) (core : Nat) (b : BitVec 4) : State := modCore s core (fun k => { k with sticky := k.sticky ||| b })

/-- The status bits that an accumulation's write sets (R260). -/
def noteAcc (s : State) (a : Access) (data : List Byte) : State :=
  if a.kind = .acc then setSticky s a.core (accSticky (floatsOf data)) else s

/-- The bytes of a write arrive at their home. A granule of a vector store may carry the uncorrectable pattern (R221). -/
def reachHome (s : State) (a : Access) (l : Loc) (data : List Byte) : State :=
  if a.kind = .vec ∧ a.store = 1 then locPoison (locWrite s l data) l a.size else locWrite s l data

/-- The far event of a write: its bytes reach their home, and its host event follows where the host may hold the line
(R146, R154). -/
def farEvent (s : State) (a : Access) (l : Loc) : State :=
  let data := writtenBytes s a l
  oweHost (evictConst (usedLeaf (noteAcc (reachHome (dropAcc s a.id) a l data) a data) a) a) a

/-- The near event of a write. -/
def nearEvent (s : State) (a : Access) : State :=
  { modAcc s a.id (fun a => { a with nearAt := s.nearNext }) with nearNext := s.nearNext + 1 }

/-- A write to a block whose metadata is lost poisons the block (R342). -/
def poisonBlock (s : State) (a : Access) (code : Nat) : State :=
  match a.dest, code with
  | .ipa x, 0x0D03 =>
    modPart s a.part (fun p => poisonCz p (x / 4096))
  | _, _ => s

/-- The command that makes a write, while it is outstanding. -/
def writeCmd (s : State) (a : Access) : Option Cmd := if a.kind = .eng ∨ a.kind = .acc then cmdOf s a.cmd else none

/-- Whether a write waits for its command, which the write's own failure holds (R170, R182). -/
def writeParked (s : State) (a : Access) : Bool := (writeCmd s a).any (fun c => c.phase == .held && c.lost == some a.id)

/-- The writes that share a write's events: what one micro-operation writes into one granule (R156). -/
def siblings (s : State) (a : Access) : List Access :=
  if a.kind = .eng ∧ a.nearAt ≠ 0 then s.acc.filter (fun x => x.kind == .eng && x.cmd == a.cmd && x.nearAt == a.nearAt) else [a]

/-- The far event of a write at its place. -/
def farAt (s : State) (a : Access) : State :=
  match findDest s a.part a.asid a.gen a.dest true with
  | .place l _ => farEvent s a l
  | .miss _ => s

/-! TEMPLATE_IMAGE_ARRIVAL (R132). -/

/-- A template slot changed, by store number. -/
def Core.modTpl (k : Core) (n : Nat) (f : TplSlot → TplSlot) : Core :=
  match n / 64 with
  | 0 => { k with mx := kput k.mx (n % 64) (f (k.tpl .matrix (n % 64))) }
  | 1 => { k with cp := kput k.cp (n % 64) (f (k.tpl .copy (n % 64))) }
  | _ => { k with xe := kput k.xe (n % 64) (f (k.tpl .prism (n % 64))) }

/-- The image read ends: its slot is changed and its context's hold no longer waits for it. -/
def endImage (s : State) (a : Access) (f : TplSlot → TplSlot) : State :=
  let s := modCore (dropAcc s a.id) a.core (fun k => k.modTpl a.store f)
  match a.ctx with
  | none => s
  | some i => modCtx s a.core i (fun c => { c with images := c.images.filter (fun n => n != a.id) })

/-- The mark of an image that the memory side could not give: POISON, the denial of its page, or CN_ACCESS (R132; log
entry 10). -/
def imageMark (a : Access) (code : Nat) (t : TplSlot) : TplSlot :=
  { t with mark := some ⟨if code = 9 then 8 else code, a.ea, false⟩ }

/-- TEMPLATE_IMAGE_ARRIVAL: a template image is written into its slot, whole (R132). -/
def execTemplateImageArrival (acc : Nat) (s : State) : Host.Outcome State Fault Refusal :=
  .next (match accOf s acc with
    | none => s
    | some a =>
      if a.kind != .tpl then s
      else if a.denied then endImage s a (imageMark a 0xE)
      else if a.parked s || nearHeld s a then s
      else
        match judgeRead s a.core a.part a.asid a.gen a.dest 64 with
        | .wait => s
        | .err code l leaf => endImage (consumePoison s a code l leaf) a (imageMark a code)
        | .ok l _ =>
          if bankReady s a then
            let data := viewBytes s a.core a.part a.dest (locBytes s l 64)
            endImage (usedLeaf s a) a (fun _ => ⟨BitVec.ofNat 512 (leNat data), none⟩)
          else s)

/-- CONSTANT_LINE_EVICT: a line leaves the constant cache (R141). -/
def execConstantLineEvict (core line : Nat) (s : State) : Host.Outcome State Fault Refusal :=
  .next (modCore s core (fun k => { k with consts := kdel k.consts line }))

/-! FENCE_COMPLETE (R124, R125). -/

/-- Whether a FENCE covers a dropped access (R125, R221). -/
def covers (i : CtxId) (f : FenceRec) (d : Drop) : Bool :=
  decide (d.seq < f.at_) && (if d.cls = 16 then i == .C && f.scope != .ctx else f.mask.getLsbD d.cls)

/-- Whether an outstanding FENCE of a context before a place in program order covers a dropped access, and so reports it (R125). -/
def coveredBefore (i : CtxId) (c : Ctx) (at_ : Nat) (d : Drop) : Bool :=
  c.fences.any (fun g => decide (g.at_ < at_) && covers i g d)

/-- Whether a FENCE is the first of its context after a dropped access that covers it (R125). -/
def reportsDrop (i : CtxId) (c : Ctx) (f : FenceRec) (d : Drop) : Bool := covers i f d && !coveredBefore i c f.at_ d

/-- The oldest of a list of dropped accesses in program order. -/
def oldestDrop (l : List Drop) : Option Drop :=
  l.foldl (fun b d =>
    match b with
    | none => some d
    | some x => if d.seq < x.seq then some d else some x) none

/-- Reports of dropped accesses become pending: one MACHINE_CHECK with the oldest address (R125, R170). -/
def reportDrops (s : State) (core : Nat) (i : CtxId) (p : Drop → Bool) : State :=
  let c := ctxOf s core i
  match oldestDrop (c.drops.filter p) with
  | none => s
  | some d =>
    setCtx { s with nextId := s.nextId + 1 } core i
      { c with drops := c.drops.filter (fun d => !p d)
               reports := c.reports ++ [⟨false, s.nextId, 0, 0, 0, 0, 0xB, d.ea, 0⟩] }

/-- Whether a FENCE of a context has all that it waits for, and a report to make: its context's next packet comes after the
report (R125). -/
def fenceDue (s : State) (core : Nat) (i : CtxId) : Bool :=
  let c := ctxOf s core i
  c.fences.any (fun f => c.drops.any (reportsDrop i c f) && fenceDone s core i f)

/-- FENCE_COMPLETE: every access that a FENCE waits for has performed at its scope, and the FENCE completes (R124); the
dropped accesses that it is the first to cover are reported (R125). -/
def execFenceComplete (core : Nat) (ctx : CtxId) (fence : Nat) (s : State) : Host.Outcome State Fault Refusal :=
  .next (match (ctxOf s core ctx).fences.find? (fun f => f.id == fence) with
    | none => s
    | some f =>
      if fenceDone s core ctx f then
        reportDrops (modCtx s core ctx (fun c => { c with fences := c.fences.filter (fun g => g.id != fence) })) core ctx
          (reportsDrop ctx (ctxOf s core ctx) f)
      else s)

end Sys2Proof.Machine
end

