-- ==== Sys2Proof/Machine/Atomic.lean ====
section
/-! DEFINITION. The atomic engine: sync variables, atomic words, barriers and semaphores (R295 to R311). -/

namespace Sys2Proof.Machine

/-! The sync space (R295, R296, R305). -/

/-- The die that homes a sync address. -/
def syncDie (a : Nat) : Nat := nbits a 31 30

/-- The number of a partition's sync space that an address reaches lies within it. -/
def inSpace (p : Partition) (a : Nat) : Bool := decide (nbits a 27 3 * 8 < nth p.syncSize (syncDie a))

/-- The pair of a variable. -/
def pairOf (a : Nat) : Nat := a / 16 * 16

/-- Whether a variable's pair is an initialised barrier. -/
def isBarrier (p : Partition) (a : Nat) : Bool := p.ib.contains (pairOf a)

/-- A variable as stored; an unlisted one is 0. -/
def rawSync (p : Partition) (a : Nat) : Word := kgetD p.sync a 0#64

/-- A variable as ALD reads it: bit 63 of an initialised barrier's first word is its ib (R305). -/
def readSync (p : Partition) (a : Nat) : Word :=
  if isBarrier p a ∧ a % 16 = 0 then rawSync p a ||| 0x8000000000000000#64 else rawSync p a

/-- A variable written; 0 is not listed. -/
def putSync (p : Partition) (a : Nat) (v : Word) : Partition :=
  { p with sync := if v = 0#64 then kdel p.sync a else kput p.sync a v }

/-- A pair of variables as a barrier (R305). -/
structure Barrier where
  pz : Bool
  st : Nat
  phase : Nat
  a : Nat
  n : Nat
  b : Int
  deriving DecidableEq, Repr

/-- The barrier at a pair. -/
def barrierAt (p : Partition) (addr : Nat) : Barrier :=
  let w := rawSync p addr
  let v := rawSync p (addr + 8)
  ⟨w.getLsbD 62, wbits w 61 60, wbits w 47 32, wbits w 31 0, wbits v 63 32, (v.setWidth 32).toInt⟩

/-- A barrier written to its pair (R305). -/
def putBarrier (p : Partition) (addr : Nat) (x : Barrier) : Partition :=
  putSync (putSync p addr (BitVec.ofNat 64
      ((if x.pz then 2 ^ 62 else 0) + x.st % 4 * 2 ^ 60 + x.phase % 2 ^ 16 * 2 ^ 32 + x.a % 2 ^ 32)))
    (addr + 8) (BitVec.ofNat 64 (x.n % 2 ^ 32 * 2 ^ 32 + (BitVec.ofInt 32 x.b).toNat))

/-! Residency (R296). -/

/-- Blocks that a die's SRAM holds. -/
def residentDepth : Nat := 65536

/-- Whether a block has a registered waiter. -/
def blockWaits (s : State) (k : Nat × Nat) : Bool :=
  match partOf s k.1 with
  | none => false
  | some p => p.waiters.any (fun w => w.addr / 64 == k.2)

/-- A block becomes the most recently used of its die; a full SRAM loses the least recently used one that has no
waiter, and where all of them have one it keeps them all (R296; DESIGN CHOICE, log entry 124). -/
def touchBlock (s : State) (part a : Nat) : State :=
  let k := (part, a / 64)
  let l := k :: (kgetD s.resident (syncDie a) []).filter (fun x => x != k)
  let l := if l.length ≤ residentDepth then l
    else
      match l.reverse.find? (fun x => x != k && !blockWaits s x) with
      | some x => l.filter (fun y => y != x)
      | none => l
  { s with resident := kput s.resident (syncDie a) l }

/-- SYNC_BLOCK_FETCH: a block that is not resident is fetched from the overflow area; a failed fetch poisons its eight
variables and writes a record (R296), which names the die's atomic engine, no context, and the block's address (DESIGN CHOICE, log
entry 124). -/
def execSyncBlockFetch (part die block : Nat) (bad : Bool) (s : State) : Host.Outcome State Fault Refusal :=
  let a := die * 2 ^ 30 + block * 64
  .next (match partOf s part with
    | none => s
    | some p =>
      if die ≥ 4 || block ≥ 2 ^ 22 || !inSpace p a || (kgetD s.resident die []).contains (part, a / 64) then s
      else
        let s := touchBlock s part a
        if bad then
          modPart (mcRecord s part (srcAtomic die) 9 0 3 0x3FF (BitVec.ofNat 64 a) 0) part (fun p =>
            { p with syncPz := ((upFrom 0 8).map (fun i => a + 8 * i)).foldl insertNat p.syncPz })
        else s)

/-! Issue (R299). -/

/-- The sync address that a word names. -/
def syncAddr (w : Instr) (f : Issue) : Word := ((srcRegs w).map (fun r => f.rd r.1)).headD 0#64

/-- Whether a word acts on a barrier. -/
def barrierWord : Instr → Bool
  | .abinit .. | .abarr .. | .abexp .. | .abwait .. => true
  | _ => false

/-- The address fault of an atomic word (R299). -/
def atomicFault (w : Instr) (f : Issue) (_ : State) : Option (Nat × Word) :=
  let a := syncAddr w f
  if wbits a 2 0 ≠ 0 ∨ (barrierWord w = true ∧ a.getLsbD 3 = true) then some (7, a)
  else if wbits a 63 32 ≠ 0 ∨ wbits a 29 28 ≠ 0 then some (0xB01, a)
  else none

/-- An atomic word enters the queue of its engine. -/
def issueAtomic (w : Instr) (f : Issue) (s : State) : State := dispatch (wordCmd w .atomic f s) (fillRegs w) f s

/-! Replies. -/

/-- A command's reply: its register is filled, and the command is over. -/
def reply (s : State) (c : Cmd) (v : Word) (mark : Option Mark) (acq : List Nat) : State :=
  dropCmd (modCtx s c.core c.ctx (fun x => x.fill c.id 0 v mark acq)) c.id

/-- The accesses that a context of a core acquires from a list that a release left (R142, R143). -/
def acquired (s : State) (core : Nat) (l : List Nat) : List Nat :=
  ((s.acc ++ s.backInv).filter (fun a => a.core == core && l.contains a.id)).map (fun a => a.id)

/-- What an operation of a command acquires at a variable; fails says that it is a failed compare and swap (R151,
R301). -/
def gains (s : State) (c : Cmd) (p : Partition) (a : Nat) (fails : Bool) : List Nat :=
  let o := (ordScope c.instr).1
  let takes := match c.instr with
    | .acas .. => acquires o && !fails
    | .acasFa .. => acquires o || fails
    | _ => acquires o
  if takes then acquired s c.core (kgetD p.syncHb a []) else []

/-- What a write by a command leaves at a variable for later acquires; join keeps what earlier ones left. -/
def leave (c : Cmd) (p : Partition) (a : Nat) (join : Bool) : Partition :=
  let old := if join then kgetD p.syncHb a [] else []
  let new := unionNat old (if releases (ordScope c.instr).1 then c.farWaits else [])
  { p with syncHb := if new.isEmpty then kdel p.syncHb a else kput p.syncHb a new }

/-! Semaphores (R310). -/

/-- Requests of a semaphore granted in order, at most n of them. -/
def grantSem (s : State) (part addr : Nat) : Nat → State
  | 0 => s
  | n + 1 =>
    match partOf s part with
    | none => s
    | some p =>
      match p.waiters.find? (fun w => w.addr == addr && w.sem) with
      | none => s
      | some w =>
        let v := readSync p addr
        if (w.arg : Int) ≤ v.toInt then
          let s := modPart s part (fun p =>
            putSync { p with waiters := p.waiters.filter (fun x => x.cmd != w.cmd) } addr (v - BitVec.ofNat 64 w.arg))
          match cmdOf s w.cmd with
          | none => s
          | some c => grantSem (reply s c v none (gains s c p addr false)) part addr n
        else s

/-- The oldest semaphore requests of both variables of a pair are judged again, after any word has written them (R310): also those that
an ABINIT has made part of a barrier (R302; DESIGN CHOICE, log entry 125). -/
def rejudge (s : State) (part a : Nat) : State :=
  let n := ((partOf s part).map (fun p => p.waiters.length)).getD 0
  grantSem (grantSem s part a n) part (a + 8) n

/-! Barriers (R306, R307). -/

/-- A barrier reply (R307). -/
def barrierReply (st phase : Nat) : Word := BitVec.ofNat 64 ((if st = 0 then 0 else 0xB80 + st) * 2 ^ 48 + phase)

/-- The mark of a barrier reply (R307). -/
def barrierMark (st addr : Nat) : Option Mark :=
  if st = 0 then none else some ⟨0xB80 + st, BitVec.ofNat 64 addr, true⟩

/-- Waiters of a barrier are filled with a status (R306). -/
def releaseWaiters (s : State) (part addr st phase : Nat) : State :=
  match partOf s part with
  | none => s
  | some p =>
    let l := p.waiters.filter (fun w => w.addr == addr && !w.sem)
    let s := modPart s part (fun p => { p with waiters := p.waiters.filter (fun w => !(w.addr == addr && !w.sem)) })
    l.foldl (fun s w =>
      match cmdOf s w.cmd with
      | none => s
      | some c => reply s c (barrierReply st phase) (barrierMark st addr) (gains s c p addr false)) s

/-- A phase completes with a status (R306). -/
def completePhase (s : State) (part addr : Nat) (x : Barrier) (st : Nat) : State :=
  let x := { x with phase := (x.phase + 1) % 2 ^ 16, a := x.n, b := 0, st := st }
  releaseWaiters (modPart s part (fun p => putBarrier p addr x)) part addr st x.phase

/-- check() of R306: the barrier is stored, or its phase completes. -/
def checkBarrier (s : State) (part addr : Nat) (x : Barrier) : State :=
  if x.a = 0 ∧ x.b = 0 then completePhase s part addr x 0
  else if x.a = 0 ∧ x.b < 0 then completePhase s part addr x 1
  else modPart s part (fun p => putBarrier p addr x)

/-- The code with which a barrier refuses to be bound, none where it can be (R311). -/
def bindError (p : Partition) (a : Nat) : Option Nat :=
  if nbits a 63 32 ≠ 0 ∨ nbits a 29 28 ≠ 0 ∨ inSpace p a = false then some 0xB01
  else if a % 16 ≠ 0 ∨ isBarrier p a = false then some 0xB02
  else if (barrierAt p a).pz then some 0xB04
  else if p.syncPz.contains a ∨ p.syncPz.contains (a + 8) then some 8
  else none

/-- Whether a barrier refuses counts (R306). -/
def refusesCounts (s : State) (part addr : Nat) : Bool :=
  match partOf s part with
  | none => true
  | some p => (barrierAt p addr).pz

/-- The code with which an operation at a bound barrier fails because a failed fetch has poisoned its variables; a poisoned
barrier refuses instead (R296, R302). -/
def countError (s : State) (part addr : Nat) : Option Nat :=
  match partOf s part with
  | none => none
  | some p =>
    if !(barrierAt p addr).pz && (p.syncPz.contains addr || p.syncPz.contains (addr + 8)) then some 8 else none

/-- n delivered bytes counted at a barrier (R296, R306, R310). -/
def countBytes (s : State) (part addr n : Nat) : State :=
  match partOf s part with
  | none => s
  | some p =>
    let x := barrierAt p addr
    let s := touchBlock s part addr
    if x.pz then s
    else
      rejudge (if x.b - n < -(2 ^ 31) then completePhase s part addr { x with pz := true } 2
        else checkBarrier s part addr { x with b := x.b - n }) part addr

/-- n expected bytes posted at a barrier, within the range of R302, which the balance of a post by XA2A may leave (R302, R328; DESIGN
CHOICE, log entry 123). -/
def postBytes (s : State) (part addr : Nat) (n : Int) : State :=
  match partOf s part with
  | none => s
  | some p =>
    let x := barrierAt p addr
    rejudge (checkBarrier (touchBlock s part addr) part addr { x with b := x.b + n }) part addr

/-- A copy that had counted bytes faults: the phase completes with FAULT and the barrier is poisoned (R285, R306). -/
def failBarrier (s : State) (part addr : Nat) : State :=
  match partOf s part with
  | none => s
  | some p => rejudge (completePhase (touchBlock s part addr) part addr { barrierAt p addr with pz := true } 2) part addr

/-! Writes of variables. -/

/-- A variable is written by a command, and the oldest semaphore request is judged again (R310). -/
def storeSync (s : State) (c : Cmd) (a : Nat) (v : Word) (join : Bool) : State :=
  let s := modPart s c.part (fun p =>
    leave c { putSync p a v with syncPz := p.syncPz.filter (fun x => x != a) } a join)
  grantSem s c.part a (((partOf s c.part).map (fun p => p.waiters.length)).getD 0)

/-! What an operation does at its home (R300, R301, R302, R306, R310). -/

/-- The new value of a read-modify-write word, none for another word (R300). -/
def rmwVal (w : Instr) (old b : Word) : Option Word :=
  match w with
  | .aswp .. => some b
  | .aadd .. => some (old + b)
  | .aand .. => some (old &&& b)
  | .aor .. => some (old ||| b)
  | .axor .. => some (old ^^^ b)
  | .amin .. => some (if b.slt old then b else old)
  | .amax .. => some (if old.slt b then b else old)
  | .aminn .. => some (if b.ult old then b else old)
  | .amaxn .. => some (if old.ult b then b else old)
  | .afadd .. =>
    let r := rndFloat ((decNum 0 (wbits old 31 0)).add (decNum 0 (wbits b 31 0))) fp32 0 false Rand.zero
    some (BitVec.ofNat 64 (wbits old 63 32 * 2 ^ 32 + r))
  | _ => none

/-- Whether a word reads the variable, so that a poisoned one stops it (R296). -/
def readsSync : Instr → Bool
  | .ast .. | .abinit .. => false
  | _ => true

/-- Whether the pair's ib forbids the word (R302). -/
def barrierClash (p : Partition) (w : Instr) (a : Nat) : Bool :=
  match w with
  | .ald .. | .abinit .. => false
  | .abarr .. | .abexp .. | .abwait .. => !isBarrier p a
  | _ => isBarrier p a

/-- The natural number in the low half of the second register. -/
def Cmd.count (c : Cmd) : Nat := wbits (c.val 1) 31 0

/-- Whether an operand is outside its limits at the home (R302). -/
def atomicOpnd (p : Partition) (c : Cmd) (a : Nat) : Bool :=
  match c.instr with
  | .abinit .. => c.count == 0
  | .abexp .. =>
    let b := (barrierAt p a).b + ((c.val 1).setWidth 32).toInt
    decide (b < -(2 ^ 31)) || decide (2 ^ 31 ≤ b)
  | .abarr .. => (barrierAt p a).a == 0
  | .asemp .. => c.count == 0 || decide (2 ^ 63 ≤ (rawSync p a).toInt + c.count)
  | .asemw .. => c.count == 0
  | _ => false

/-- The error that stops an operation at its home, the first of R302's table. -/
def atomicError (p : Partition) (c : Cmd) (a : Nat) : Option Nat :=
  if !inSpace p a then some 0xB01
  else if barrierClash p c.instr a then some 0xB02
  else if atomicOpnd p c a then some 0xB03
  else
    let arrives := match c.instr with
      | .abarr .. | .abexp .. => true
      | _ => false
    if arrives && (barrierAt p a).pz then some 0xB04
    else if readsSync c.instr && (p.syncPz.contains a || (barrierWord c.instr && p.syncPz.contains (a + 8))) then some 8
    else none

/-- A word waits at its variable for its fill (R306, R310). -/
def registerWaiter (s : State) (c : Cmd) (a : Nat) (sem : Bool) (arg : Nat) : State :=
  modCmd (modPart s c.part (fun p => { p with waiters := p.waiters ++ [⟨a, sem, arg, c.id⟩] })) c.id
    (fun c => { c with phase := .waiting })

/-- The operation of an atomic word, at a home where nothing stops it. -/
def atomicOp (s : State) (c : Cmd) (p : Partition) (a : Nat) : State :=
  let old := readSync p a
  match c.instr with
  | .ald .. => reply s c old none (gains s c p a false)
  | .ast .. => dropCmd (storeSync s c a (c.val 1) false) c.id
  | .acas .. | .acasFa .. =>
    if old = c.val 1 then reply (storeSync s c a (c.val 2) false) c old none (gains s c p a false)
    else reply s c old none (gains s c p a true)
  | .abinit .. =>
    let s := releaseWaiters s c.part a 3 0
    let s := modPart s c.part (fun p =>
      leave c { putBarrier p a ⟨false, 0, 0, c.count, c.count, 0⟩ with
        ib := insertNat p.ib a, syncPz := p.syncPz.filter (fun x => x != a && x != a + 8) } a false)
    dropCmd s c.id
  | .abarr .. =>
    let x := barrierAt p a
    let r := reply (modPart s c.part (fun p => leave c p a true)) c (BitVec.ofNat 64 x.phase) none (gains s c p a false)
    checkBarrier r c.part a { x with a := x.a - 1 }
  | .abexp .. =>
    let s := dropCmd (modPart s c.part (fun p => leave c p a true)) c.id
    postBytes s c.part a ((c.val 1).setWidth 32).toInt
  | .abwait .. =>
    let x := barrierAt p a
    let want := wbits (c.val 1) 15 0
    if x.pz then reply s c (barrierReply 2 x.phase) (barrierMark 2 a) (gains s c p a false)
    else if x.phase ≠ want then reply s c (barrierReply x.st x.phase) (barrierMark x.st a) (gains s c p a false)
    else registerWaiter s c a false want
  | .asemp .. => dropCmd (storeSync s c a (old + BitVec.ofNat 64 c.count) true) c.id
  | .asemw .. =>
    let s := registerWaiter s c a true c.count
    grantSem s c.part a (((partOf s c.part).map (fun p => p.waiters.length)).getD 0)
  | w =>
    match rmwVal w old (c.val 1) with
    | some v => reply (storeSync s c a v false) c old none (gains s c p a false)
    | none => s

/-- Whether an atomic word that its context issued earlier has still to perform (R303). -/
def atomicBefore (s : State) (c : Cmd) : Bool :=
  s.cmds.any (fun o =>
    o.core == c.core && o.ctx == c.ctx && o.cls == .atomic && decide (o.disp < c.disp) && o.phase != .waiting)

/-- An atomic word performs at its home, once what comes before it has (R17, R151, R302, R303). -/
def performAtomic (s : State) (c : Cmd) : State :=
  if c.phase != .queued || atomicBefore s c || !gangRuns s c || !edgesDone s c || !waitsDone s c then s
  else
    match partOf s c.part with
    | none => s
    | some p =>
      let a := (c.val 0).toNat
      match atomicError p c a with
      | some code => engineFault s c code (c.val 0)
      | none =>
        let s := atomicOp (touchBlock s c.part a) c p a
        if barrierWord c.instr then rejudge s c.part a else s

/-! The words (R298). -/

/-- ALD.scope.order (R300). -/
def execAld (ord : Order) (scope : Scope) (xd : RegNo) (xa : RegNo) (s : State) : Host.Outcome State Fault Refusal :=
  issueWord (.ald ord scope xd xa) (atomicFault (.ald ord scope xd xa)) (issueAtomic (.ald ord scope xd xa)) s

/-- AST.scope.order (R300). -/
def execAst (ord : Order) (scope : Scope) (xa : RegNo) (xb : BitVec 5) (s : State) : Host.Outcome State Fault Refusal :=
  issueWord (.ast ord scope xa xb) (atomicFault (.ast ord scope xa xb)) (issueAtomic (.ast ord scope xa xb)) s

/-- ASWP.scope.order (R300). -/
def execAswp (ord : Order) (scope : Scope) (xd : RegNo) (xa : RegNo) (xb : BitVec 5) (s : State) : Host.Outcome State Fault Refusal :=
  issueWord (.aswp ord scope xd xa xb) (atomicFault (.aswp ord scope xd xa xb)) (issueAtomic (.aswp ord scope xd xa xb)) s

/-- AADD.scope.order (R300). -/
def execAadd (ord : Order) (scope : Scope) (xd : RegNo) (xa : RegNo) (xb : BitVec 5) (s : State) : Host.Outcome State Fault Refusal :=
  issueWord (.aadd ord scope xd xa xb) (atomicFault (.aadd ord scope xd xa xb)) (issueAtomic (.aadd ord scope xd xa xb)) s

/-- AAND.scope.order (R300). -/
def execAand (ord : Order) (scope : Scope) (xd : RegNo) (xa : RegNo) (xb : BitVec 5) (s : State) : Host.Outcome State Fault Refusal :=
  issueWord (.aand ord scope xd xa xb) (atomicFault (.aand ord scope xd xa xb)) (issueAtomic (.aand ord scope xd xa xb)) s

/-- AOR.scope.order (R300). -/
def execAor (ord : Order) (scope : Scope) (xd : RegNo) (xa : RegNo) (xb : BitVec 5) (s : State) : Host.Outcome State Fault Refusal :=
  issueWord (.aor ord scope xd xa xb) (atomicFault (.aor ord scope xd xa xb)) (issueAtomic (.aor ord scope xd xa xb)) s

/-- AXOR.scope.order (R300). -/
def execAxor (ord : Order) (scope : Scope) (xd : RegNo) (xa : RegNo) (xb : BitVec 5) (s : State) : Host.Outcome State Fault Refusal :=
  issueWord (.axor ord scope xd xa xb) (atomicFault (.axor ord scope xd xa xb)) (issueAtomic (.axor ord scope xd xa xb)) s

/-- AMIN.scope.order (R300). -/
def execAmin (ord : Order) (scope : Scope) (xd : RegNo) (xa : RegNo) (xb : BitVec 5) (s : State) : Host.Outcome State Fault Refusal :=
  issueWord (.amin ord scope xd xa xb) (atomicFault (.amin ord scope xd xa xb)) (issueAtomic (.amin ord scope xd xa xb)) s

/-- AMAX.scope.order (R300). -/
def execAmax (ord : Order) (scope : Scope) (xd : RegNo) (xa : RegNo) (xb : BitVec 5) (s : State) : Host.Outcome State Fault Refusal :=
  issueWord (.amax ord scope xd xa xb) (atomicFault (.amax ord scope xd xa xb)) (issueAtomic (.amax ord scope xd xa xb)) s

/-- AMINN.scope.order (R300). -/
def execAminn (ord : Order) (scope : Scope) (xd : RegNo) (xa : RegNo) (xb : BitVec 5) (s : State) : Host.Outcome State Fault Refusal :=
  issueWord (.aminn ord scope xd xa xb) (atomicFault (.aminn ord scope xd xa xb)) (issueAtomic (.aminn ord scope xd xa xb)) s

/-- AMAXN.scope.order (R300). -/
def execAmaxn (ord : Order) (scope : Scope) (xd : RegNo) (xa : RegNo) (xb : BitVec 5) (s : State) : Host.Outcome State Fault Refusal :=
  issueWord (.amaxn ord scope xd xa xb) (atomicFault (.amaxn ord scope xd xa xb)) (issueAtomic (.amaxn ord scope xd xa xb)) s

/-- AFADD.scope.order (R300). -/
def execAfadd (ord : Order) (scope : Scope) (xd : RegNo) (xa : RegNo) (xb : BitVec 5) (s : State) : Host.Outcome State Fault Refusal :=
  issueWord (.afadd ord scope xd xa xb) (atomicFault (.afadd ord scope xd xa xb)) (issueAtomic (.afadd ord scope xd xa xb)) s

/-- ACAS.scope.order (R301). -/
def execAcas (ord : Order) (scope : Scope) (xd : RegNo) (xa : RegNo) (xp : BitVec 4) (s : State) : Host.Outcome State Fault Refusal :=
  issueWord (.acas ord scope xd xa xp) (atomicFault (.acas ord scope xd xa xp)) (issueAtomic (.acas ord scope xd xa xp)) s

/-- ACAS.FA.scope.order (R301). -/
def execAcasFa (ord : Order) (scope : Scope) (xd : RegNo) (xa : RegNo) (xp : BitVec 4) (s : State) : Host.Outcome State Fault Refusal :=
  issueWord (.acasFa ord scope xd xa xp) (atomicFault (.acasFa ord scope xd xa xp)) (issueAtomic (.acasFa ord scope xd xa xp)) s

/-- ABINIT.scope.order (R306). -/
def execAbinit (ord : Order) (scope : Scope) (xa : RegNo) (xb : BitVec 5) (s : State) : Host.Outcome State Fault Refusal :=
  issueWord (.abinit ord scope xa xb) (atomicFault (.abinit ord scope xa xb)) (issueAtomic (.abinit ord scope xa xb)) s

/-- ABARR.scope.order (R306). -/
def execAbarr (ord : Order) (scope : Scope) (xd : RegNo) (xa : RegNo) (s : State) : Host.Outcome State Fault Refusal :=
  issueWord (.abarr ord scope xd xa) (atomicFault (.abarr ord scope xd xa)) (issueAtomic (.abarr ord scope xd xa)) s

/-- ABEXP.scope.order (R306). -/
def execAbexp (ord : Order) (scope : Scope) (xa : RegNo) (xb : BitVec 5) (s : State) : Host.Outcome State Fault Refusal :=
  issueWord (.abexp ord scope xa xb) (atomicFault (.abexp ord scope xa xb)) (issueAtomic (.abexp ord scope xa xb)) s

/-- ABWAIT.scope.order (R306). -/
def execAbwait (ord : Order) (scope : Scope) (xd : RegNo) (xa : RegNo) (xb : BitVec 5) (s : State) : Host.Outcome State Fault Refusal :=
  issueWord (.abwait ord scope xd xa xb) (atomicFault (.abwait ord scope xd xa xb)) (issueAtomic (.abwait ord scope xd xa xb)) s

/-- ASEMP.scope.order (R310). -/
def execAsemp (ord : Order) (scope : Scope) (xa : RegNo) (xb : BitVec 5) (s : State) : Host.Outcome State Fault Refusal :=
  issueWord (.asemp ord scope xa xb) (atomicFault (.asemp ord scope xa xb)) (issueAtomic (.asemp ord scope xa xb)) s

/-- ASEMW.scope.order (R310). -/
def execAsemw (ord : Order) (scope : Scope) (xd : RegNo) (xa : RegNo) (xb : BitVec 5) (s : State) : Host.Outcome State Fault Refusal :=
  issueWord (.asemw ord scope xd xa xb) (atomicFault (.asemw ord scope xd xa xb)) (issueAtomic (.asemw ord scope xd xa xb)) s

end Sys2Proof.Machine
end

