-- ==== Sys2Proof/Machine/Paging.lean ====
section
/-! DEFINITION. Range sets, page faults and their answers, refusals, migration and invalidation (R111, R126, R153,
R155, R173, R179 to R186). -/

namespace Sys2Proof.Machine

/-! Fault notices (R179, R407). -/

/-- The first core of a gang, 0x3FF for none (R407). -/
def firstCore (s : State) (gang : Option Nat) : Nat :=
  match gang.bind (gangOf s) with
  | some g => g.cores.getD 0 0x3FF
  | none => 0x3FF

/-- The table entry whose uncorrectable error ends the walk of an IPA (R172). -/
def badEntryOf (s : State) (part asid ipa : Nat) : Option Nat :=
  ((partOf s part).bind (fun p => kget p.roots asid)).bind (fun root => badEntryFrom s ipa 0 root 4)

/-- A fault notice: it waits for its answer, the gang's stall wire is raised, and the host is told where the entry that was met
is malformed. An entry that the controller cannot correct is recorded (R84, R172, R175, R179; log entry 117). -/
def raiseNotice (s : State) (part asid gen kind core : Nat) (gang : Option Nat) (ipa : Nat) (bad : Bool)
    (whose : Asker) : State :=
  if (partOf s part).isNone then s
  else
    let n : Notice := ⟨s.noticeNext, asid, gen, kind, core, gang, ipa, bad, whose⟩
    let s := queueNotice s part asid gen kind (firstCore s gang) ipa
    let s := modPart s part (fun p => { p with notices := p.notices ++ [n] })
    let s := if bad then { s with malformed := n.num :: s.malformed } else s
    let s := match (if bad then badEntryOf s part asid ipa else none) with
      | some a => mcRecord s part (srcMemory a) 9 0 3 0x3FF (BitVec.ofNat 64 a) 0
      | none => s
    match gang with
    | none => s
    | some g => modGang s g (fun x => { x with notices := x.notices ++ [n.num] })

/-- The number that the next notice takes. -/
def nextNotice (s : State) : Nat := s.noticeNext

/-- The gang of a core's task. -/
def gangOfCore (s : State) (core : Nat) : Option Nat := (taskOf s core).map (fun t => t.gang)

/-- PAGE_FAULT: an access that nothing else holds misses its translation; it is held, its notice is written, and the
gang's stall wire is raised (R111, R175, R179). -/
def execPageFault (acc : Nat) (s : State) : Host.Outcome State Fault Refusal :=
  .next (match accOf s acc with
    | none => s
    | some a =>
      match a.dest, findDest s a.part a.asid a.gen a.dest a.kind.writes with
      | .ipa ipa, .miss bad =>
        if a.denied || a.parked s || writeParked s a || (a.nearAt == 0 && nearHeld s a) then s
        else
          let n := nextNotice s
          let s := raiseNotice s a.part a.asid a.gen (if a.kind.writes then 1 else 0) a.core (gangOfCore s a.core) ipa
            bad .held
          modAcc s acc (fun a => { a with notice := some n })
      | _, _ => s)

/-- Whether a notice is that of an access or command. -/
def isNotice (n : Nat) (x : Option Nat) : Bool := x == some n

/-- A denied read of the scheduler, which no gang issued, ends with a record, and its page is not asked for again while it misses
(R181; log entry 93). -/
def denyUnit (s : State) (part : Nat) (n : Notice) : State :=
  modPart (mcRecord s part srcSched 0xE 0 3 0x3FF (BitVec.ofNat 64 n.ipa) n.ipa) part (fun p =>
    { p with deniedPages := insertNat p.deniedPages (n.ipa / 2 ^ 16) })

/-- The driver's answer to a notice: what it held is walked again, whatever is cached, or ends as denied (R181, R182). A
denied packet fetch is the precise fault PAGE_DENIED of its context (log entry 11). -/
def answerNotice (s : State) (part num : Nat) (denied : Bool) : State :=
  match (partOf s part).bind (fun p => p.notices.find? (fun n => n.num == num)) with
  | none => s
  | some n =>
    let s := modPart s part (fun p => { p with notices := p.notices.filter (fun m => m.num != num) })
    let s :=
      { s with
        tcache := s.tcache.filter (fun e => denied || !e.covers part n.asid n.gen n.ipa)
        wcache := s.wcache.filter (fun e => denied || !e.covers part n.asid n.gen n.ipa)
        l2 := s.l2.filter (fun e => denied || !(e.part == part && e.line / 2 ^ 8 == n.ipa / 2 ^ 16))
        gangs := s.gangs.map (fun g =>
          (g.1, if g.2.part = part then { g.2 with notices := g.2.notices.filter (fun m => m != num) } else g.2))
        acc := s.acc.map (fun a =>
          if a.part == part && isNotice num a.notice then { a with notice := none, denied := denied } else a)
        cmds := s.cmds.map (fun c =>
          if c.part == part && isNotice num c.notice then { c with notice := none, denied := denied } else c) }
    if !denied then s
    else
      match n.whose with
      | .fetch i => raise s n.core i (ctxOf s n.core i).pc 0xE (ctxOf s n.core i).pc
      | .unit => denyUnit s part n
      | .held | .other => s

/-- Whether an access may have its home on another device: it has an IPA that nothing of this module translates (R153). -/
def mayBeRemote (s : State) (a : Access) : Bool :=
  match a.dest, findDest s a.part a.asid a.gen a.dest a.kind.writes with
  | .ipa _, .miss _ => true
  | _, _ => false

/-- An access from another device misses here: it is refused, and the home's controller writes a notice to its own host driver,
with no gang and no stall wire (R183). -/
def refuseOther (s : State) (part asid ipa : Nat) (write : Bool) : State :=
  match findDest s part asid (genOf s part asid) (.ipa ipa) write with
  | .miss bad => raiseNotice s part asid (genOf s part asid) (if write then 1 else 0) 0x3FF none ipa bad .other
  | .place _ _ => s

/-- A retry time that has passed is cleared. -/
def retryAfter (s : State) (r : Option Nat) : Option Nat :=
  match r with
  | some t => if t ≤ s.tsc then none else r
  | none => none

/-- RETRY_TIMER_EXPIRY: the hint has passed, and the access is sent again (R153). -/
def execRetryTimerExpiry (acc : Nat) (s : State) : Host.Outcome State Fault Refusal :=
  .next (modCmd (modAcc s acc (fun a => { a with retry := retryAfter s a.retry })) acc
    (fun c => { c with retry := retryAfter s c.retry }))

/-! Page migration (R155). -/

/-- The address of the entry where a walk finds its leaf. -/
def leafEntry (s : State) (ipa level table : Nat) : Nat → Option Nat
  | 0 => none
  | fuel + 1 =>
    let at_ := table + 8 * (ipa / 2 ^ (43 - 9 * level) % 512)
    let e := leWord (memRead s.mem at_ 8)
    if !e.getLsbD 63 then none
    else if e.getLsbD 1 then some at_
    else leafEntry s ipa (level + 1) (wbits e 47 12 * 2 ^ 12) fuel

/-- A leaf with another frame. -/
def reframe (l : Word) (pa : Nat) : Word := (l &&& 0xFFFF00000000FFFF#64) ||| BitVec.ofNat 64 (pa / 2 ^ 16 % 2 ^ 32 * 2 ^ 16)

/-- n bytes of memory copied. -/
def memCopy (m : Memory) (src dst n : Nat) : Memory :=
  (m.filter (fun c => decide (src ≤ c.1) && decide (c.1 < src + n))).foldl
    (fun m c => memPut m (c.1 - src + dst) c.2) (memZero m dst n)

/-- Granule marks copied with n bytes (R417). -/
def markCopy (l : List Nat) (src dst n : Nat) : List Nat :=
  (l.filter (fun g => decide (src ≤ 32 * g) && decide (32 * g < src + n))).foldl
    (fun l g => insertNat l (g - src / 32 + dst / 32))
    (l.filter (fun g => !(decide (dst ≤ 32 * g) && decide (32 * g < dst + n))))

/-- The leaf of a page at an old frame becomes one at a new frame in the table of an ASID. -/
def moveLeaf (part ipa old new : Nat) (s : State) (r : Nat × Nat) : State :=
  match walk s part r.1 ipa, leafEntry s ipa 0 r.2 4 with
  | .leaf l _, some at_ =>
    if leafPa l = old then { s with mem := memWrite s.mem at_ (wordBytes (reframe l new)) } else s
  | _, _ => s

/-- PAGE_MIGRATION: a page's frame changes with its bytes and marks, and the mapping with it (R155). -/
def execPageMigration (part asid ipa frame : Nat) (s : State) : Host.Outcome State Fault Refusal :=
  .next (match walk s part asid ipa with
    | .miss _ => s
    | .leaf l big =>
      let size := 2 ^ (if big then 25 else 16)
      if leafHome l == 1 || frame % size != 0 || !populated s frame || leafPa l == frame then s
      else
        let s := { s with
          mem := memCopy s.mem (leafPa l) frame size
          poison := markCopy s.poison (leafPa l) frame size
          bad := markCopy s.bad (leafPa l) frame size }
        let s := (((partOf s part).map (fun p => p.roots)).getD []).foldl (moveLeaf part ipa (leafPa l) frame) s
        { s with
          tcache := s.tcache.map (fun e =>
            if e.part = part ∧ leafPa e.leaf = leafPa l then { e with leaf := reframe e.leaf frame } else e)
          l2 := s.l2.map (fun e =>
            if e.part = part ∧ leafPa e.leaf = leafPa l then { e with leaf := reframe e.leaf frame } else e) })

/-! Invalidation (R184, R185). -/

/-- Whether an access was made under an entry that an invalidation names (R126). -/
def Inval.names (v : Inval) (a : Access) : Bool :=
  match a.dest with
  | .sp _ _ => false
  | .ipa x => v.rset.isSome || (a.asid == v.asid && decide (v.lo ≤ x) && decide (x < v.hi))

/-- A core acknowledges the invalidations of its partition that q picks, and its table is loaded again where one names
its range set (R126, R184). -/
def ackInvals (s : State) (core : Nat) (q : Inval → Bool) : State :=
  match taskOf s core with
  | none => s
  | some t =>
    match partOf s t.part with
    | none => s
    | some p =>
      let new := p.invals.filter (fun v => q v && !v.acks.contains core)
      let s := if new.any (fun v => v.rset == some t.rset.toNat) then reloadRanges s core else s
      let s := modPart s t.part (fun p =>
        { p with invals := p.invals.map (fun v => if q v then { v with acks := insertNat v.acks core } else v) })
      settleInvals s t.part

/-- QPOINT (R126). -/
def execQpoint (s : State) : Host.Outcome State Fault Refusal :=
  issueWord .qpoint noFault (fun f s => ackInvals s f.core (fun _ => true)) s

/-- The cores of a partition that run a task and have not acknowledged an invalidation. -/
def unackedCores (s : State) (p : Partition) (v : Inval) : List Nat :=
  (partCores p).filter (fun n => !v.acks.contains n && coreRuns s n)

/-- The stall wires that the watchdog of an invalidation holds, raised or lowered (R185). -/
def setWatch (s : State) (inv : Nat) (gangs : List Nat) (on : Bool) : State :=
  { s with gangs := s.gangs.map (fun g =>
      (g.1, if gangs.contains g.1 then { g.2 with watch := if on then insertNat g.2.watch inv else eraseNat g.2.watch inv } else g.2)) }

/-- INVALIDATION_WATCHDOG_EXPIRY: after the watchdog's time the device raises the wires of the gangs that have not
acknowledged; once every access under an invalidated entry has performed it acknowledges for their cores and lowers the
wires (R185). -/
def execInvalidationWatchdogExpiry (part inv : Nat) (s : State) : Host.Outcome State Fault Refusal :=
  .next (match partOf s part with
    | none => s
    | some p =>
      match p.invals.find? (fun v => v.id == inv) with
      | none => s
      | some v =>
        let limit := (if p.watchdog = 0 then Config.watchdogUs else p.watchdog) * 1000
        if s.tsc < v.since + limit then s
        else
          let cores := unackedCores s p v
          let gangs := cores.filterMap (gangOfCore s)
          let s := setWatch s inv gangs true
          let s := modPart s part (fun p =>
            { p with invals := p.invals.map (fun w => if w.id = inv then { w with watch := true } else w) })
          if s.acc.any (fun a => cores.contains a.core && v.names a) then s
          else setWatch (cores.foldl (fun s n => ackInvals s n (fun w => w.id == inv)) s) inv gangs false)

end Sys2Proof.Machine
end

