-- ==== Sys2Proof/Machine/EngMem.lean ====
section
/-! DEFINITION. What an engine's micro-operation meets at memory: its reads and writes by generic address, the faults and
page misses that stop it, and the footprints of generic addresses (R13, R16, R110, R179, R182, R292, R342). -/

namespace Sys2Proof.Machine

/-- The answer to an engine's access: its bytes, a fault found before the memory side, an error of the memory side, a
page miss, or a wait. -/
inductive EngAns where
  | ok (data : List Byte)
  | fault (code : Nat) (tval : Word)
  | error (code : Nat) (ea : Word) (ipa : Nat) (l : Loc) (leaf : Word)
  | miss (ea : Word) (ipa : Nat) (bad write : Bool)
  | wait
  deriving DecidableEq, Repr

/-- Whether an answer is bytes. -/
def EngAns.good : EngAns → Bool
  | .ok _ => true
  | _ => false

/-- The bytes of an answer. -/
def EngAns.bytes : EngAns → List Byte
  | .ok d => d
  | _ => []

/-- The answer to an access at a destination; a write answers with no bytes. -/
def engAt (s : State) (c : Cmd) (ea : Word) (d : Dest) (n : Nat) (write : Bool) : EngAns :=
  match (if write then judge s c.part c.asid c.gen d n true else judgeRead s c.core c.part c.asid c.gen d n) with
  | .ok l _ => if write then .ok [] else .ok (viewBytes s c.core c.part d (locBytes s l n))
  | .err code l leaf => .error code ea d.ipaOr l leaf
  | .wait =>
    match d, findDest s c.part c.asid c.gen d write with
    | .ipa a, .miss bad => .miss ea a bad write
    | _, _ => .wait

/-- Where a command's generic address leads, or the code of the fault (R106, R174). -/
def engDest (s : State) (c : Cmd) (ea : Word) (n : Nat) (p : Perm) : Except Nat Dest :=
  match cmdTask s c with
  | none => .error 5
  | some t =>
    match checkAddr s t c.core ea n p with
    | .error e => .error e.code
    | .ok d => .ok d

/-- n aligned bytes read at a generic address. -/
def engGet (s : State) (c : Cmd) (ea : Word) (n : Nat) : EngAns :=
  match engDest s c ea n .read with
  | .error code => .fault code ea
  | .ok d => engAt s c ea d n false

/-- Whether n aligned bytes may be written at a generic address. -/
def engTest (s : State) (c : Cmd) (ea : Word) (n : Nat) : EngAns :=
  match engDest s c ea n .write with
  | .error code => .fault code ea
  | .ok d => engAt s c ea d n true

/-- The state after reads at generic addresses, which have used their leaves (R177, R178). -/
def engUse (s : State) (c : Cmd) (l : List Word) : State :=
  l.foldl (fun s ea =>
    match engDest s c ea 1 .read with
    | .ok d => useLeaf s c.part c.asid c.gen d
    | .error _ => s) s

/-- n bytes read at an offset of the own scratchpad (R292). -/
def engGetSp (s : State) (c : Cmd) (off n : Nat) : EngAns :=
  match engRead s c off n with
  | .error g => .fault 9 (genericOf s c g)
  | .ok b => .ok b

/-- The first answer that stops a micro-operation. -/
def firstStop (l : List EngAns) : Option EngAns := l.find? (fun a => !a.good)

/-- A command misses a page: it is held, and its notice is written (R179). -/
def cmdMiss (s : State) (c : Cmd) (ipa : Nat) (bad write : Bool) : State :=
  let n := nextNotice s
  modCmd (raiseNotice s c.part c.asid c.gen (if write then 1 else 0) c.core ((gangOf s c.gang).map (fun _ => c.gang)) ipa bad .held) c.id
    (fun c => { c with notice := some n })

/-- An engine's write meets a block whose metadata is lost (R342). -/
def loseBlock (s : State) (c : Cmd) (ea : Word) (ipa : Nat) (l : Loc) : State :=
  mcRecord (modPart s c.part (fun p => poisonCz p (ipa / 4096))) c.part (srcOfLoc l) 0xD03 (c.acls % 16) c.ctx.num c.core ea ipa

/-- A micro-operation is stopped by an answer: the command faults, waits for the host, or waits. fault is what the
engine does to report a fault. -/
def stopAt (s : State) (c : Cmd) (fault : State → Cmd → Nat → Word → State) (a : EngAns) : State :=
  match a with
  | .ok _ | .wait => s
  | .fault code v => fault s c code v
  | .error code ea ipa l leaf =>
    if code = 0xD03 then fault (loseBlock s c ea ipa l) c 9 ea
    else if code = 8 ∧ leafPpol leaf = 2 then consume s c.part c.core c.acls (some c.ctx) ea ipa code l leaf
    else fault (consume s c.part c.core c.acls (some c.ctx) ea ipa code l leaf) c code ea
  | .miss ea ipa bad write => if c.denied then fault s c 0xE ea else cmdMiss s c ipa bad write

/-- A write of a command within one granule, at a generic address that has been tested, with a place among near events. -/
def engPutAt (near : Nat) (s : State) (c : Cmd) (ea : Word) (data : List Byte) : State :=
  match engDest s c ea 1 .write with
  | .error _ => s
  | .ok d => addAccess s (engAccess s c .eng near c.acls ea d data)

/-- A write of a command at a generic address that has been tested. -/
def engPut (s : State) (c : Cmd) (ea : Word) (data : List Byte) : State :=
  { engPutAt s.nearNext s c ea data with nearNext := s.nearNext + 1 }

/-- Whether the memory side takes a write of bytes within one granule at a generic address. -/
def engTestAt (s : State) (c : Cmd) (ea : Word) (n : Nat) : EngAns :=
  match engDest s c ea 1 .write with
  | .error code => .fault code ea
  | .ok d => engAt s c ea d n true

/-- Whether a write at a generic address must wait for an older command's far event (R156). -/
def heldAt (s : State) (c : Cmd) (ea : Word) (n : Nat) : Bool :=
  match engDest s c ea 1 .write with
  | .error _ => false
  | .ok d => granuleHeld s c d n

/-- Whether bytes that a command writes with their far event at once must wait: for the far event of an older command's write to
them, or of an own-core write that is on its way to them (R17, R156). -/
def landHeld (s : State) (c : Cmd) (d : Dest) (n : Nat) : Bool :=
  let x := engAccess s c .eng 0 16 0#64 d (List.replicate n 0#8)
  granuleHeld s c d n || s.acc.any (fun a => a.core == c.core && a.cmd != c.id && a.kind.writes && a.nearAt != 0 && a.overlaps s x)

/-! The granules of a micro-operation's writes (R156). -/

/-- The byte that a list of writes leaves at an address: that of the last that covers it. -/
def lastByte (l : List (Word × List Byte)) (a : Nat) : Option Byte :=
  l.foldl (fun b p => if p.1.toNat ≤ a ∧ a < p.1.toNat + p.2.length then p.2[a - p.1.toNat]? else b) none

/-- The runs of bytes that follow each other, from an address. -/
def runsFrom : Nat → List (Option Byte) → List (Nat × List Byte)
  | _, [] => []
  | a, none :: rest => runsFrom (a + 1) rest
  | a, some b :: rest =>
    match runsFrom (a + 1) rest with
    | (o, d) :: more => if o = a + 1 then (a, b :: d) :: more else (a, [b]) :: (o, d) :: more
    | [] => [(a, [b])]

/-- Writes gathered by granule, in the order in which the granules come first, and in each by runs of bytes. -/
def granuleRuns (l : List (Word × List Byte)) : List (List (Word × List Byte)) :=
  (l.foldl (fun b p => unionNat b [p.1.toNat / 32]) []).map (fun g =>
    (runsFrom (32 * g) ((upFrom (32 * g) 32).map (lastByte l))).map (fun r => (BitVec.ofNat 64 r.1, r.2)))

/-- The runs of one granule are written with one near event, and will have one far event (R156). -/
def engPutRuns (s : State) (c : Cmd) (runs : List (Word × List Byte)) : State :=
  { runs.foldl (fun s r => engPutAt s.nearNext s c r.1 r.2) s with nearNext := s.nearNext + 1 }

/-! Footprints of generic addresses (R13, R16). -/

/-- The places within (lo, hi) at which the meaning of an address may change: the ends of apertures and ranges, and where a
range's IPA wraps at 2^64 (R174). -/
def cutPoints (t : Task) (lo hi : Nat) : List Nat :=
  (([t.lwb.toNat, t.lwb.toNat + 2 ^ 20] ++ (upFrom 0 9).map (fun i => t.cwb.toNat + i * 2 ^ 20)
    ++ t.ranges.flatMap (fun (e : RangeEntry) =>
      [e.base * 2 ^ 16, e.limit * 2 ^ 16, 2 ^ 64 - e.off % 2 ^ 48 * 2 ^ 16])).filter
      (fun a => decide (lo < a) && decide (a < hi))).foldl insertNat []

/-- One piece of an extent: bytes lo to hi - 1, whose meaning does not change between them. -/
def pieceExtent (t : Task) (core lo hi : Nat) : Extent :=
  let a := BitVec.ofNat 64 lo
  match aperture t a with
  | .loc => ⟨.sp core, (a - t.lwb).toNat, (a - t.lwb).toNat + (hi - lo)⟩
  | .cluster =>
    let o := (a - t.cwb).toNat
    ⟨.sp (clusterOf core * 8 + o / 2 ^ 20), o % 2 ^ 20, o % 2 ^ 20 + (hi - lo)⟩
  | .shared =>
    match findRange t.ranges lo with
    | some (_, e) => ⟨.ipa, ipaOf lo e, ipaOf lo e + (hi - lo)⟩
    | none => ⟨.va, lo, hi⟩

/-- The pieces of an extent between cut points. -/
def piecesAt (t : Task) (core lo hi : Nat) : List Nat → List Extent
  | [] => if lo < hi then [pieceExtent t core lo hi] else []
  | a :: rest => (if lo < a then [pieceExtent t core lo a] else []) ++ piecesAt t core a hi rest

/-- The footprint of generic addresses lo to hi - 1 (R16). -/
def addressExtents (s : State) (core lo hi : Nat) : List Extent :=
  match taskOf s core with
  | none => []
  | some t => piecesAt t core lo hi (cutPoints t lo hi)

/-- The ordering class that a range table gives an address, 0 for a local or cluster one (R173, R274). -/
def rangeClass (s : State) (core : Nat) (a : Word) : Nat :=
  match taskOf s core with
  | none => 0
  | some t =>
    match aperture t a with
    | .shared => ((findRange t.ranges a.toNat).map (fun e => e.2.dcls)).getD 0
    | _ => 0

end Sys2Proof.Machine
end

