-- ==== Sys2Proof/Machine/Packed.lean ====
section
/-! DEFINITION. The packed row format: blocks of 32 elements with E8M0 offsets and, where asked, zero bitmaps (R257). -/

namespace Sys2Proof.Machine

/-- Blocks of a packed row of n elements. -/
def packedBlocks (n : Nat) : Nat := (n + 31) / 32

/-- The capacity of a packed row (R257). -/
def packedCap (n : Nat) (zbm : Bool) : Nat := packedBlocks n * (if zbm then 37 else 33)

/-- x * 2^k, exactly. -/
def Num.scale (x : Num) (k : Int) : Num := x.mul (.fin false 1 k)

/-- The largest magnitude of the finite elements, as m * 2^e; (0, 0) where none is above zero. -/
def maxMag (l : List Num) : Nat × Int :=
  l.foldl (fun b x =>
    match x with
    | .fin _ m e => if m = 0 then b else if b.1 = 0 ∨ dyGt m e b.1 b.2 = true then (m, e) else b
    | _ => b) (0, 0)

/-- The E8M0 offset of a block for a target format (R257). -/
def blockOffset (f : FloatFmt) (l : List Num) : Nat :=
  if l.any Num.isNan then 0xFF
  else
    let a := maxMag l
    if a.1 = 0 then 127
    else
      let t := (log2Nat f.maxM : Int) + f.maxE - (log2Nat a.1 + a.2)
      let k := if dyGt a.1 (a.2 + t) f.maxM f.maxE then t - 1 else t
      (min 254 (max 0 (127 - k))).toNat

/-- n blocks of 32 of a list of values, padded with +0. -/
def blocksOf (l : List Num) : Nat → List (List Num)
  | 0 => []
  | n + 1 =>
    let b := l.take 32
    (b ++ List.replicate (32 - b.length) (.fin false 0 0)) :: blocksOf (l.drop 32) n

/-- The converted elements of a block (R257). -/
def packBlock (f : FloatFmt) (drm : Nat) (sat : Bool) (b : List Num) : List Nat :=
  let e := blockOffset f b
  b.map (fun x => rndFloat (x.scale (127 - e)) f drm sat Rand.zero)

/-- Whether an element is stored beside a zero bitmap (R257). -/
def isStored (y : Nat) : Bool := y != 0 && y != 0x80

/-- A block's bitmap. -/
def blockMap (ys : List Nat) : Nat := ((upFrom 0 32).zip ys).foldl (fun n p => if isStored p.2 then n + 2 ^ p.1 else n) 0

/-- A packed row of values (R257). -/
def packRow (f : FloatFmt) (drm : Nat) (sat zbm : Bool) (l : List Num) : List Byte :=
  let bs := blocksOf l (packedBlocks l.length)
  let ys := bs.map (packBlock f drm sat)
  bs.map (fun b => BitVec.ofNat 8 (blockOffset f b))
  ++ (if zbm then ys.flatMap (fun y => natBytes (blockMap y) 4) else [])
  ++ ys.flatMap (fun y => (if zbm then y.filter isStored else y).map (BitVec.ofNat 8))

/-- Whether a packed row of values holds a NaN or an offset of 0xFF (R260). -/
def packNan (f : FloatFmt) (drm : Nat) (sat : Bool) (l : List Num) : Bool :=
  (blocksOf l (packedBlocks l.length)).any (fun b =>
    blockOffset f b == 0xFF || (packBlock f drm sat b).any (fun y => (decFloat f y).isNan))

/-- Stored elements among the first n of a bitmap. -/
def mapCount (m n : Nat) : Nat := ((upFrom 0 n).filter (fun i => m.testBit i)).length

/-- The value of an element of a block with offset e; y is its byte, none where it is not stored (R257). -/
def unpackElem (f : FloatFmt) (e : Nat) (y : Option Nat) : Num :=
  if e = 0xFF then .nan
  else
    match y with
    | none => .fin false 0 0
    | some v => (decFloat f v).scale ((e : Int) - 127)

/-- The bytes of a packed row of n elements at a place, that give its elements k0 to k0 + cnt - 1: the offsets, the
bitmaps up to their last block and their values, by place and size. rd reads bytes. -/
def packedRanges (rd : Nat → Nat → List Byte) (base n : Nat) (zbm : Bool) (k0 cnt : Nat) : List (Nat × Nat) :=
  let nb := packedBlocks n
  let b0 := k0 / 32
  let b1 := (k0 + cnt + 31) / 32
  if zbm then
    let bit (b : Nat) : Nat := leNat (rd (base + nb + 4 * b) 4)
    let before := ((upFrom 0 b0).map (fun b => mapCount (bit b) 32)).foldl (fun a b => a + b) 0
    let own := ((upFrom b0 (b1 - b0)).map (fun b => mapCount (bit b) (min 32 (k0 + cnt - 32 * b)))).foldl (fun a b => a + b) 0
    [(base + b0, b1 - b0), (base + nb, 4 * b1), (base + 5 * nb + before, own)]
  else [(base + b0, b1 - b0), (base + nb + k0, cnt)]

/-- Elements k0 to k0 + cnt - 1 of a packed row of n elements, k0 a multiple of 32 (R257). -/
def unpackRow (f : FloatFmt) (rd : Nat → Nat → List Byte) (base n : Nat) (zbm : Bool) (k0 cnt : Nat) : List Num :=
  let nb := packedBlocks n
  let off (k : Nat) : Nat := leNat (rd (base + k / 32) 1)
  let bit (b : Nat) : Nat := leNat (rd (base + nb + 4 * b) 4)
  if zbm then
    let before := ((upFrom 0 (k0 / 32)).map (fun b => mapCount (bit b) 32)).foldl (fun a b => a + b) 0
    ((upFrom k0 cnt).foldl (fun (r : List Num × Nat) k =>
      if (bit (k / 32)).testBit (k % 32) then
        (unpackElem f (off k) (some (leNat (rd (base + 5 * nb + r.2) 1))) :: r.1, r.2 + 1)
      else (unpackElem f (off k) none :: r.1, r.2)) ([], before)).1.reverse
  else (upFrom k0 cnt).map (fun k => unpackElem f (off k) (some (leNat (rd (base + nb + k) 1))))

end Sys2Proof.Machine
end

