-- ==== Sys2Proof/Machine/Matrix.lean ====
section
/-! DEFINITION. The matrix engine: format entries, the checks of its words at issue, footprints, lanes and
micro-operations (R241 to R267). -/

namespace Sys2Proof.Machine

/-! Format entries (R245). -/

def fmtA (e : Nat) : Nat := nbits e 19 16
def fmtB (e : Nat) : Nat := nbits e 15 12
def fmtGc (e : Nat) : Nat := nbits e 11 10
def fmtAmx (e : Nat) : Bool := e.testBit 9
def fmtAgc (e : Nat) : Nat := nbits e 8 6
def fmtApl (e : Nat) : Bool := e.testBit 5
def fmtBmx (e : Nat) : Bool := e.testBit 4
def fmtBgc (e : Nat) : Nat := nbits e 3 1
def fmtBpl (e : Nat) : Bool := e.testBit 0

/-- Elements of a scale group. -/
def fmtG (e : Nat) : Nat := 32 * 2 ^ fmtGc e

/-- Whether B is INT4g or INT3g. -/
def intB (e : Nat) : Bool := fmtB e == 7 || fmtB e == 8

/-- Whether an entry is usable (R245). -/
def fmtUsable (e : Nat) : Bool :=
  let fp8 (t : Nat) : Bool := t == 2 || t == 3
  (fmtA e == 1 || fp8 (fmtA e)) && (fmtB e == 1 || fp8 (fmtB e) || intB e)
  && !(fmtGc e == 3 && intB e) && !(fmtAmx e && fmtA e == 1) && !(fmtBmx e && !fp8 (fmtB e))
  && !(fmtA e == 1 && fp8 (fmtB e)) && !(fp8 (fmtA e) && fmtB e == 1)

/-- The K step (R201). -/
def kStep (e : Nat) : Nat := if fmtA e = 1 then 64 else 128

/-- a / b rounded up. -/
def cdiv (a b : Nat) : Nat := (a + b - 1) / b

/-! Operand extents (R249, R250, R263). -/

def mxZ (t : TplImage) : Bool := mxZbm t == 1

/-- Bytes of a row of A. -/
def aRow (t : TplImage) (e : Nat) : Nat :=
  match mxAsrc t with
  | 1 => packedCap (mxK t) (mxZ t)
  | 2 => 4 * mxK t
  | _ => if fmtA e = 1 then 2 * mxK t else mxK t

/-- Bytes of k elements of a column of B. -/
def bCol (e k : Nat) : Nat :=
  match fmtB e with
  | 1 => 2 * k
  | 7 => cdiv k 2
  | 8 => 12 * cdiv k 32
  | _ => k

/-- Bytes of a row of blocks of the A and of the B plane. -/
def nbwA (t : TplImage) (e : Nat) : Nat := cdiv (mxK t) (kStep e) * 2 ^ fmtAgc e
def nbwB (t : TplImage) (e : Nat) : Nat := cdiv (mxN t) (2 ^ fmtBgc e)

/-- Bytes of a drained row, rounded up to granules (R256, R263). -/
def drainRow (t : TplImage) : Nat :=
  let n := mxN t
  32 * cdiv (match mxDtype t with
    | 0 => 4 * n
    | 1 => 2 * n
    | _ => packedCap n (mxZ t)) 32

/-- An extent of R263 with the numbers of its offset and stride fields; add is what ragged groups add to it. -/
structure MxExt where
  off : Nat
  stf : Nat
  base : Nat
  count : Nat
  stride : Nat
  size : Nat
  add : Nat
  deriving DecidableEq, Repr

/-- Where an extent ends, and whether it has bytes: one with a count of 0 is empty (R263). -/
def MxExt.top (x : MxExt) : Nat := x.base + (x.count - 1) * x.stride + x.size + x.add
def MxExt.live (x : MxExt) : Bool := decide (0 < x.count) && decide (x.base < x.top)

/-- What ragged groups after the first add to the extents of B. -/
def groupAdd (op : Nat) (t : TplImage) : Nat := if op = 2 then (mxNg t - 1) * mxBgstr t else 0

/-- The accumulator as rows of 4N bytes. -/
def accExt (t : TplImage) : MxExt := ⟨25, 21, mxCof t, mxM t, mxCstr t, 4 * mxN t, 0⟩

/-- The extents that a command reads, its own accumulator apart (R254, R263). -/
def mxReads (op : Nat) (t : TplImage) (e : Nat) : List MxExt :=
  if op = 1 ∨ op = 2 then
    let g := groupAdd op t
    [⟨23, 19, mxAof t, mxM t, mxAstr t, aRow t e, 0⟩, ⟨24, 20, mxBof t, mxN t, mxBstr t, bCol e (mxK t), g⟩]
    ++ (if intB e then [⟨27, 18, mxBscl t, mxN t, mxBsstr t, 2 * cdiv (mxK t) (fmtG e), g⟩] else [])
    ++ (if fmtAmx e then [⟨31, 0, mxApof t, 1, 0, cdiv (mxM t) (2 ^ fmtAgc e) * nbwA t e, 0⟩] else [])
    ++ (if fmtBmx e then [⟨32, 0, mxBpof t, 1, 0, cdiv (mxK t) (kStep e) * 2 ^ fmtBgc e * nbwB t e, g⟩] else [])
    ++ (if op = 2 then [⟨28, 0, mxRof t, 1, 0, 4 * mxNg t, 0⟩] else [])
  else if op = 3 then
    let n := min (mxN t) 64
    let k := min (mxK t) (kStep e)
    [⟨24, 20, mxBof t, n, mxBstr t, bCol e k, 0⟩]
    ++ (if intB e then [⟨27, 0, mxBscl t, n, mxBsstr t, 2 * cdiv k (fmtG e), 0⟩] else [])
    ++ (if fmtBmx e then
          [⟨32, 0, mxBpof t, cdiv k (kStep e / 2 ^ fmtBgc e), nbwB t e, cdiv n (2 ^ fmtBgc e), 0⟩] else [])
  else if op = 4 then [accExt t]
  else []

/-- The extents that a command writes. -/
def mxWrites (op : Nat) (t : TplImage) : List MxExt :=
  if op = 1 ∨ op = 2 ∨ op = 5 then [accExt t]
  else if op = 4 then [⟨26, 22, mxDof t, mxM t, mxDstr t, drainRow t, 0⟩]
  else []

/-- The accumulator where a command reads it too. -/
def mxOwn (op : Nat) (t : TplImage) : List MxExt := if (op = 1 ∨ op = 2) ∧ mxMode t = 1 then [accExt t] else []

/-- A core's extents as a footprint (R13, R263). -/
def footprint (core : Nat) (l : List MxExt) : List Extent :=
  (l.filter MxExt.live).map (fun x => ⟨.sp core, x.base, x.top⟩)

/-! Checks at issue (R242, R247, R248). -/

/-- The fields that an op uses (R246). -/
def mxUsed (op : Nat) : List Nat :=
  let mma := [2, 3, 4, 5, 6, 7, 8, 10, 11, 13, 14, 15, 18, 19, 20, 21, 23, 24, 25, 27, 29, 30, 31, 32]
  match op with
  | 1 => mma
  | 2 => mma ++ [16, 28, 33]
  | 3 => [2, 3, 4, 14, 15, 18, 20, 24, 27, 30, 32]
  | 4 => [2, 7, 8, 9, 10, 13, 14, 21, 22, 25, 26]
  | 5 => [2, 13, 14, 21, 25]
  | 6 => [3, 4, 17]
  | 7 => [2, 12]
  | _ => [2]

/-- Whether a field breaks its own limit (R242). -/
def mxLimit (t : TplImage) (n : Nat) : Bool :=
  let v := tplField .matrix t n
  match n with
  | 2 => decide (60 ≤ v)
  | 6 => v == 3
  | 8 => decide (4 ≤ v)
  | 13 => decide (16384 < v)
  | 14 => decide (4096 < v)
  | 15 => v == 0 || decide (16384 < v)
  | 16 => v == 0
  | 18 | 27 => v % 2 != 0
  | 19 | 20 | 21 | 22 | 23 | 24 | 25 | 26 | 28 | 33 => v % 32 != 0
  | _ => false

/-- The largest extent of the B data, scales and plane that one ragged group reads (R247). -/
def groupExtent (t : TplImage) (e : Nat) : Nat :=
  ((mxReads 1 t e).filter (fun x => x.live && (x.off == 24 || x.off == 27 || x.off == 32))).foldl
    (fun m x => max m (x.top - x.base)) 0

/-- The fields that an MX_OPND of R242, R244 or R247 names. -/
def mxBad (op : Nat) (t : TplImage) (e : Nat) (misfit : List Nat) : List Nat :=
  let typed := op = 1 ∨ op = 2 ∨ op = 3
  let exts := ((mxReads op t e) ++ mxWrites op t).filter MxExt.live
  (mxUsed op).filter (mxLimit t) ++ misfit
  ++ (if typed ∧ fmtUsable e = false then [4] else [])
  ++ (if (op = 1 ∨ op = 2) ∧ ((mxAsrc t = 1 ∧ fmtA e = 1) ∨ (mxAsrc t ≠ 0 ∧ fmtAmx e = true)) then [6] else [])
  ++ (exts.filter (fun x => decide (Config.spBytes < x.top))).map (fun x => x.off)
  ++ (exts.filter (fun x => x.stf != 0 && decide (1 < x.count) && decide (x.stride < x.size))).map (fun x => x.stf)
  ++ (if op = 2 ∧ 1 < mxNg t ∧ mxBgstr t < groupExtent t e then [33] else [])
  ++ (if typed ∧ intB e = true ∧ 1 < mxN t ∧ mxBsstr t < 2 * cdiv (mxK t) (fmtG e) then [18] else [])
  ++ (if meetsAny (footprint 0 (mxWrites op t)) (footprint 0 (mxReads op t e)) then [if op = 4 then 26 else 25] else [])

/-- Whether a microscaled operand's plane runs across its reduction axis, for the ops that capture an entry (R244, R248). -/
def scaleGeom (op e : Nat) : Bool :=
  (op == 1 || op == 2 || op == 3) && ((fmtAmx e && fmtApl e) || (fmtBmx e && !fmtBpl e))

/-- The format entry that a command captures (R244 steps 4 and 5). -/
def fmtNo (t : TplImage) (c : Ctx) : Nat := if mxFmtsel t = 1 then li1J c.li1 % 16 else mxFmt t
def fmtEntry (k : Core) (c : Ctx) (t : TplImage) : Nat := kgetD k.fmts (fmtNo t c) 0

/-- The fault of a formed matrix command: the lowest-numbered failing field, MX_OPND before SCALE_GEOM (R247). -/
def mxFault (slot tslot : Nat) (t : TplImage) (e : Nat) (misfit : List Nat) : Option (Nat × Word) :=
  let bad := mxBad (mxOp t) t e misfit
  (lowest (bad ++ (if scaleGeom (mxOp t) e then [4] else []))).map (fun n =>
    (if bad.contains n then 0x901 else 0x902, fieldVal slot n tslot))

/-- The fault of a matrix word at issue (R132, R247). -/
def matrixFault (w : Instr) (f : Issue) (s : State) : Option (Nat × Word) :=
  match templateMark w f s, formedWord w f s with
  | some r, _ => some r
  | none, none => none
  | none, some (_, tpl, c) => mxFault f.slot tpl c.img (fmtEntry (coreOf s f.core) f.snap c.img) c.misfit

/-! Issue. -/

/-- The command with its captured format entry and its footprints. -/
def mxForm (c : Cmd) (t : TplImage) (e : Nat) : Cmd :=
  { c with img := t, fmt := e, reads := footprint c.core (mxReads (mxOp t) t e ++ mxOwn (mxOp t) t),
           writes := footprint c.core (mxWrites (mxOp t) t) }

/-- A matrix command is dispatched (R244). -/
def issueMatrix (w : Instr) (f : Issue) (s : State) : State :=
  let c := templateCmd w f s
  dispatch (mxForm c c.img (fmtEntry (coreOf s f.core) f.snap c.img)) [BitVec.ofNat 6 c.creg] f s

/-- A format entry written (R259). -/
def Core.setFmt (k : Core) (n v : Nat) : Core := { k with fmts := kput k.fmts n v }

/-- MFMT writes its entry at issue (R259). -/
def issueMfmt (w : Instr) (f : Issue) (s : State) : State :=
  let t := (templateCmd w f s).img
  modCore s f.core (fun k => k.setFmt (fmtNo t f.snap) (mxFval t))

/-- MMA (R251). -/
def execMma (tpl fsel : BitVec 6) (value : BitVec 16) (s : State) : Host.Outcome State Fault Refusal :=
  issueWord (.mma tpl fsel value) (matrixFault (.mma tpl fsel value)) (issueMatrix (.mma tpl fsel value)) s

/-- MMAG (R255). -/
def execMmag (tpl fsel : BitVec 6) (value : BitVec 16) (s : State) : Host.Outcome State Fault Refusal :=
  issueWord (.mmag tpl fsel value) (matrixFault (.mmag tpl fsel value)) (issueMatrix (.mmag tpl fsel value)) s

/-- MWLD (R254). -/
def execMwld (tpl fsel : BitVec 6) (value : BitVec 16) (s : State) : Host.Outcome State Fault Refusal :=
  issueWord (.mwld tpl fsel value) (matrixFault (.mwld tpl fsel value)) (issueMatrix (.mwld tpl fsel value)) s

/-- MDRAIN (R256). -/
def execMdrain (tpl fsel : BitVec 6) (value : BitVec 16) (s : State) : Host.Outcome State Fault Refusal :=
  issueWord (.mdrain tpl fsel value) (matrixFault (.mdrain tpl fsel value)) (issueMatrix (.mdrain tpl fsel value)) s

/-- MZERO (R258). -/
def execMzero (tpl fsel : BitVec 6) (value : BitVec 16) (s : State) : Host.Outcome State Fault Refusal :=
  issueWord (.mzero tpl fsel value) (matrixFault (.mzero tpl fsel value)) (issueMatrix (.mzero tpl fsel value)) s

/-- MFMT (R259). -/
def execMfmt (tpl fsel : BitVec 6) (value : BitVec 16) (s : State) : Host.Outcome State Fault Refusal :=
  issueWord (.mfmt tpl fsel value) (matrixFault (.mfmt tpl fsel value)) (issueMfmt (.mfmt tpl fsel value)) s

/-- MSTAT (R260). -/
def execMstat (tpl fsel : BitVec 6) (value : BitVec 16) (s : State) : Host.Outcome State Fault Refusal :=
  issueWord (.mstat tpl fsel value) (matrixFault (.mstat tpl fsel value)) (issueMatrix (.mstat tpl fsel value)) s

/-- MFENCE (R261). -/
def execMfence (tpl fsel : BitVec 6) (value : BitVec 16) (s : State) : Host.Outcome State Fault Refusal :=
  issueWord (.mfence tpl fsel value) (matrixFault (.mfence tpl fsel value)) (issueMatrix (.mfence tpl fsel value)) s

/-! Micro-operations (R252, R255). -/

/-- Rows lo to hi - 1 of pass (g, cg, kg). -/
structure MxUop where
  g : Nat
  cg : Nat
  kg : Nat
  lo : Nat
  hi : Nat
  deriving DecidableEq, Repr

/-- Micro-operation n, from 0, of groups with the row counts given, g being the first group's number and r0 its first
row. -/
def uopAt (ncg nkg : Nat) : List Nat → Nat → Nat → Nat → Option MxUop
  | [], _, _, _ => none
  | c :: rest, g, r0, n =>
    let nrb := cdiv c 64
    if n < ncg * nkg * nrb then
      some ⟨g, n / nrb / nkg, n / nrb % nkg, r0 + 64 * (n % nrb), min (r0 + 64 * (n % nrb) + 64) (r0 + c)⟩
    else uopAt ncg nkg rest (g + 1) (r0 + c) (n - ncg * nkg * nrb)

/-- Passes of one group: column groups and K-step groups. -/
def mxNcg (c : Cmd) : Nat := cdiv (mxN c.img) 64
def mxNkg (c : Cmd) : Nat := cdiv (mxK c.img) (kStep c.fmt)

/-- Micro-operations after the set-up of an MMA or MMAG with the row counts given. -/
def uopCount (c : Cmd) (counts : List Nat) : Nat :=
  (counts.map (fun n => mxNcg c * mxNkg c * cdiv n 64)).foldl (fun a b => a + b) 0

/-- Whether a running MMA or MMAG is in its last pass (R262). -/
def lastPass (c : Cmd) : Bool :=
  let n := uopCount c c.work
  let pass (i : Nat) : Option (Nat × Nat × Nat) := (uopAt (mxNcg c) (mxNkg c) c.work 0 0 i).map (fun u => (u.g, u.cg, u.kg))
  decide (0 < c.upc) && (decide (n < c.upc) || pass (c.upc - 1) == pass (n - 1))

/-- Whether the lanes let a matrix command start (R261, R262). An earlier MMA or MMAG that has not reached its last pass
holds an MWLD, whether or not it has started (DEDUCED, log entry 13). -/
def laneFirst (s : State) (c : Cmd) : Bool :=
  let old := s.cmds.filter (fun o => o.core == c.core && o.cls == .matrix && decide (o.disp < c.disp))
  match mxOp c.img with
  | 3 => !old.any (fun o => mxOp o.img == 3 || ((mxOp o.img == 1 || mxOp o.img == 2) && !lastPass o))
  | 1 | 2 | 8 => old.isEmpty
  | _ => !old.any (fun o => mxOp o.img != 3)

/-! Reading operands (R249, R250). -/

/-- Where a column of B lies in a ragged group. -/
def bBase (t : TplImage) (g j : Nat) : Nat := mxBof t + j * mxBstr t + g * mxBgstr t
def sBase (t : TplImage) (g j : Nat) : Nat := mxBscl t + j * mxBsstr t + g * mxBgstr t

/-- The bytes that hold elements k0 to k0 + cnt - 1 of column j, with their scales and offsets. -/
def bRanges (t : TplImage) (e g j k0 cnt : Nat) : List (Nat × Nat) :=
  let last := k0 + cnt - 1
  let data := match fmtB e with
    | 1 => (bBase t g j + 2 * k0, 2 * cnt)
    | 7 => (bBase t g j + k0 / 2, last / 2 + 1 - k0 / 2)
    | 8 => (bBase t g j + 12 * (k0 / 32), 12 * (last / 32 + 1 - k0 / 32))
    | _ => (bBase t g j + k0, cnt)
  let bk := kStep e / 2 ^ fmtBgc e
  data :: (if intB e then [(sBase t g j + 2 * (k0 / fmtG e), 2 * (last / fmtG e + 1 - k0 / fmtG e))] else [])
  ++ (if fmtBmx e then
        (upFrom (k0 / bk) (last / bk + 1 - k0 / bk)).map (fun i =>
          (mxBpof t + g * mxBgstr t + i * nbwB t e + j / 2 ^ fmtBgc e, 1)) else [])

/-- The pattern and the scale pattern of b(k, j) (R194, R195, R250). -/
def bRaw (rd : Nat → Nat → List Byte) (t : TplImage) (e g j k : Nat) : Nat × Nat :=
  let b := bBase t g j
  let pat := match fmtB e with
    | 1 => leNat (rd (b + 2 * k) 2)
    | 7 => leNat (rd (b + k / 2) 1) / 2 ^ (4 * (k % 2)) % 16
    | 8 => leNat (rd (b + 12 * (k / 32)) 12) / 2 ^ (3 * (k % 32)) % 8
    | _ => leNat (rd (b + k) 1)
  let sc := if intB e then leNat (rd (sBase t g j + 2 * (k / fmtG e)) 2)
    else if fmtBmx e then
      leNat (rd (mxBpof t + g * mxBgstr t + k / (kStep e / 2 ^ fmtBgc e) * nbwB t e + j / 2 ^ fmtBgc e) 1)
    else 127
  (pat, sc)

/-- The expanded weight of a pattern and its scale (R196, R198). -/
def bVal (btype : Nat) (p : Nat × Nat) : Num :=
  if btype = 7 ∨ btype = 8 then
    let q := patInt (etWidth btype) p.1
    let sc := decNum 1 p.2
    if q = 0 then (match sc with
      | .fin _ _ _ => .fin false 0 0
      | _ => .nan)
    else (numInt q).mul sc
  else if btype = 1 then decNum 1 p.1
  else (decNum btype p.1).mul (decE8 p.2)

/-- The bytes that hold elements k0 to k0 + cnt - 1 of row i of A, with its offsets. -/
def aRanges (rd : Nat → Nat → List Byte) (t : TplImage) (e i k0 cnt : Nat) : List (Nat × Nat) :=
  let b := mxAof t + i * mxAstr t
  match mxAsrc t with
  | 1 => packedRanges rd b (mxK t) (mxZ t) k0 cnt
  | 2 => [(b + 4 * k0, 4 * cnt)]
  | _ =>
    let z := if fmtA e = 1 then 2 else 1
    let bk := kStep e / 2 ^ fmtAgc e
    (b + z * k0, z * cnt) :: (if fmtAmx e then
      [(mxApof t + i / 2 ^ fmtAgc e * nbwA t e + k0 / bk, (k0 + cnt - 1) / bk + 1 - k0 / bk)] else [])

/-- The operand values of elements k0 to k0 + cnt - 1 of row i of A (R249). -/
def aVals (rd : Nat → Nat → List Byte) (t : TplImage) (e i k0 cnt : Nat) : List Num :=
  let b := mxAof t + i * mxAstr t
  match mxAsrc t with
  | 1 => unpackRow ((fmtOf (fmtA e)).getD e4m3) rd b (mxK t) (mxZ t) k0 cnt
  | 2 =>
    (upFrom k0 cnt).map (fun k =>
      decNum (fmtA e) (rnd (decNum 0 (leNat (rd (b + 4 * k) 4))) (fmtA e) (mxDrm t) (mxDsat t == 1) Rand.zero))
  | _ =>
    let z := if fmtA e = 1 then 2 else 1
    (upFrom k0 cnt).map (fun k =>
      let x := decNum (fmtA e) (leNat (rd (b + z * k) z))
      if fmtAmx e then
        x.mul (decE8 (leNat (rd (mxApof t + i / 2 ^ fmtAgc e * nbwA t e + k / (kStep e / 2 ^ fmtAgc e)) 1)))
      else x)

/-! Execution. -/

/-- A scratchpad read of some of the places given fails: the granule of the first that does (R267). -/
def badRange (s : State) (c : Cmd) (l : List (Nat × Nat)) : Option Nat :=
  l.foldl (fun b r =>
    match b, engRead s c r.1 r.2 with
    | some g, _ => some g
    | none, .error g => some g
    | none, .ok _ => none) none

/-- Rows of the own scratchpad are stored once nothing holds their granules; a row that would be merged into a marked
granule faults the command (R156, R252, R417; log entry 14). store is how a row is stored, done what the micro-operation does
beside it. -/
def storeRows (store : State → Cmd → Nat → List Byte → Nat → State) (s : State) (c : Cmd) (rows : List (Nat × List Byte))
    (done : State → State) : State :=
  match rows.findSome? (fun r => engWriteBad s c r.1 r.2.length) with
  | some off => engineFault s c 8 (genericOf s c off)
  | none =>
    if rows.any (fun r => granuleHeld s c (.sp c.core r.1) r.2.length) then s
    else done (rows.foldl (fun s r => store s c r.1 r.2 (r.2.length + 1)) s)

/-- Rows written to the own scratchpad. -/
def writeRows : State → Cmd → List (Nat × List Byte) → (State → State) → State :=
  storeRows (fun s c => engWriteSp s c c.core)

/-- Rows of FP32 addends added into the accumulator (R264). -/
def addRows : State → Cmd → List (Nat × List Byte) → (State → State) → State := storeRows engAddSp

/-- The tile scale product T (R202). -/
def tileScale (t : TplImage) : Num :=
  let sc (v : Nat) : Num := decNum 0 (if v = 0 then 0x3F800000 else v)
  rne32 ((sc (mxTsa t)).mul (sc (mxTsb t)))

/-- One K-step group's sum; the padding adds a +0 (R201, R203). -/
def exactSum (av bv : List Num) (pad : Bool) : Num :=
  let p := (av.zip bv).map (fun x => x.1.mul x.2)
  Num.sum (if pad then p ++ [.fin false 0 0] else p)

/-- Element r of column j of a tile taken from the shadow; beyond what MWLD loaded it is +0 (R201; DEDUCED, log entry 98). -/
def tileVal (t : Shadow) (j r : Nat) : Num :=
  if t.rows ≤ r ∨ t.elems.length ≤ j * t.rows + r then .fin false 0 0
  else bVal t.btype (nth t.elems (j * t.rows + r), nth t.scales (j * t.rows + r))

/-- One micro-operation of MMA or MMAG after the set-up (R251, R252). Its operands are read before it adds: where a group starts
from +0 the sums are written, else the banks add them (R264, R265). The rows at and beyond the command's K of a tile taken from
the shadow count as +0 (R201; DEDUCED, log entry 98). -/
def mmaUop (s : State) (c : Cmd) (u : MxUop) : State :=
  let t := c.img
  let e := c.fmt
  let k0 := u.kg * kStep e
  let cnt := min (kStep e) (mxK t - k0)
  let j0 := 64 * u.cg
  let cols := upFrom j0 (min 64 (mxN t - j0))
  let rows := upFrom u.lo (u.hi - u.lo)
  let first := u.g == 0 && u.cg == 0 && u.kg == 0
  let rd (off n : Nat) : List Byte := spView s c.core off n
  let fresh := mxMode t == 0 && u.kg == 0
  let place (i : Nat) : Nat := mxCof t + i * mxCstr t + 4 * j0
  let need :=
    (if first && c.tile.isSome then [] else cols.flatMap (fun j => bRanges t e u.g j k0 cnt))
    ++ rows.flatMap (fun i => aRanges rd t e i k0 cnt)
    ++ (if fresh then [] else rows.map (fun i => (place i, 4 * cols.length)))
  match badRange s c need with
  | some g => engineFault s c 9 (BitVec.ofNat 64 g)
  | none =>
    let col (j : Nat) : List Num :=
      match (if first then c.tile else none) with
      | some w => (upFrom 0 cnt).map (tileVal w j)
      | none => (upFrom k0 cnt).map (fun k => bVal (fmtB e) (bRaw rd t e u.g j k))
    let bs := cols.map col
    let ts := tileScale t
    let row (i : Nat) : List Nat :=
      let av := aVals rd t e i k0 cnt
      bs.map (fun b => rndFloat ((exactSum av b (decide (cnt < kStep e))).mul ts) fp32 0 false Rand.zero)
    let bytes (l : List Nat) : List Byte := l.flatMap (fun v => natBytes v 4)
    if fresh then
      let out := rows.map (fun i => (place i, (row i).map (addFp32 0)))
      writeRows s c (out.map (fun r => (r.1, bytes r.2))) (fun s =>
        goOn (setSticky s c.core (accSticky (out.flatMap (fun r => r.2.map (decNum 0))))) c (c.upc + 1))
    else addRows s c (rows.map (fun i => (place i, bytes (row i)))) (fun s => goOn s c (c.upc + 1))

/-- n 32-bit counts of bytes. -/
def countsOf (b : List Byte) : Nat → List Nat
  | 0 => []
  | n + 1 => leNat (b.take 4) :: countsOf (b.drop 4) n

/-- The first group at which the running sum of counts reaches beyond m (R255). -/
def ragged (m : Nat) : List Nat → Nat → Nat → Option Nat
  | [], _, _ => none
  | n :: rest, g, sum => if m < sum + n then some g else ragged m rest (g + 1) (sum + n)

/-- The set-up of MMA and MMAG with the row counts of its groups (R252, R253, R255). -/
def mmaStart (s : State) (c : Cmd) (counts : List Nat) : State :=
  let w := (coreOf s c.core).shadow
  if mxBpre c.img = 1 ∧ ¬(w.valid = true ∧ w.btype = fmtB c.fmt ∧ w.g = fmtGc c.fmt) then engineFault s c 0x904 0#64
  else
    let s := modCore s c.core (fun k => { k with shadow := Shadow.reset })
    modCmd s c.id (fun c =>
      { c with upc := 1, work := counts, tile := if mxBpre c.img = 1 then some w else none })

/-- The set-up of MMAG, which reads its table (R255). Where MX_RAGGED and MX_NOWT are both due, MX_RAGGED is raised
(DESIGN CHOICE, log entry 99). -/
def mmagStart (s : State) (c : Cmd) : State :=
  match engRead s c (mxRof c.img) (4 * mxNg c.img) with
  | .error g => engineFault s c 9 (BitVec.ofNat 64 g)
  | .ok b =>
    let counts := countsOf b (mxNg c.img)
    match ragged (mxM c.img) counts 0 0 with
    | some g => engineFault s c 0x903 (BitVec.ofNat 64 g)
    | none =>
      if 2 ^ 24 ≤ 1 + uopCount c counts then engineFault s c 0x903 0xFFFFFFFF#64 else mmaStart s c counts

/-- MWLD loads its tile in one micro-operation, number 0 (R254; DESIGN CHOICE, log entry 15). -/
def mwldUop (s : State) (c : Cmd) : State :=
  let t := c.img
  let e := c.fmt
  let n := min (mxN t) 64
  let k := min (mxK t) (kStep e)
  let rd (off n : Nat) : List Byte := spView s c.core off n
  match badRange s c ((upFrom 0 n).flatMap (fun j => bRanges t e 0 j 0 k)) with
  | some g => engineFault s c 9 (BitVec.ofNat 64 g)
  | none =>
    let cells := (upFrom 0 n).flatMap (fun j => (upFrom 0 k).map (fun i => bRaw rd t e 0 j i))
    let tile : Shadow := ⟨true, fmtB e, fmtGc e, k, cells.map (fun p => p.1), cells.map (fun p => p.2)⟩
    finish (modCore s c.core (fun x => { x with shadow := tile })) c 0
      (((mxReads 3 t e).filter MxExt.live).map (fun x => x.count * x.size)).sum

/-- Rows of 64 of an accumulator, block n (log entry 15). -/
def rowBlock (t : TplImage) (n : Nat) : List Nat := upFrom (64 * n) (min 64 (mxM t - 64 * n))

/-- A drained row of FP32 patterns, with zero fill to a granule (R256). -/
def drainBytes (t : TplImage) (row : List Nat) : List Byte :=
  let xs := row.map (decNum 0)
  let sat := mxDsat t == 1
  let b := match mxDtype t with
    | 0 => row.flatMap (fun v => natBytes v 4)
    | 1 => xs.flatMap (fun x => natBytes (rndFloat x bf16 (mxDrm t) sat Rand.zero) 2)
    | 2 => packRow e4m3 (mxDrm t) sat (mxZ t) xs
    | _ => packRow e5m2 (mxDrm t) sat (mxZ t) xs
  b ++ List.replicate (32 * cdiv b.length 32 - b.length) 0#8

/-- Whether a value rounded with an unbounded exponent lies beyond the largest BF16 value (R206). -/
def bf16Over (x : Num) (mode : Nat) : Bool :=
  match x with
  | .fin neg m e =>
    let ue := log2Nat m + e - 7
    dyGt (roundTo m e ue mode neg Rand.zero) ue bf16.maxM bf16.maxE
  | _ => false

/-- The status bits that a drained row sets (R260). A packed row never overflows, since its offset scales it. -/
def drainSticky (t : TplImage) (row : List Nat) : BitVec 4 :=
  let xs := row.map (decNum 0)
  let sat := mxDsat t == 1
  match mxDtype t with
  | 0 => if xs.any Num.isNan then 8#4 else 0#4
  | 1 => (if xs.any Num.isNan then 8#4 else 0#4) ||| (if xs.any (fun x => bf16Over x (mxDrm t)) then 4#4 else 0#4)
  | 2 => if packNan e4m3 (mxDrm t) sat xs then 8#4 else 0#4
  | _ => if packNan e5m2 (mxDrm t) sat xs then 8#4 else 0#4
/-- One block of MDRAIN (R256). -/
def drainUop (s : State) (c : Cmd) : State :=
  let t := c.img
  let rows := rowBlock t (c.upc - 1)
  let place (i : Nat) : Nat := mxCof t + i * mxCstr t
  match badRange s c (rows.map (fun i => (place i, 4 * mxN t))) with
  | some g => engineFault s c 9 (BitVec.ofNat 64 g)
  | none =>
    let vals := rows.map (fun i => countsOf (spView s c.core (place i) (4 * mxN t)) (mxN t))
    let out := (rows.zip vals).map (fun p => (mxDof t + p.1 * mxDstr t, drainBytes t p.2))
    let bits := vals.foldl (fun b v => b ||| drainSticky t v) 0#4
    let n := (out.map (fun r => r.2.length)).sum
    writeRows s c out (fun s =>
      modCmd (setSticky s c.core bits) c.id (fun c => { c with upc := c.upc + 1, counted := c.counted + n }))

/-- One block of MZERO (R258). -/
def zeroUop (s : State) (c : Cmd) : State :=
  let t := c.img
  writeRows s c ((rowBlock t (c.upc - 1)).map (fun i => (mxCof t + i * mxCstr t, natBytes 0 (4 * mxN t))))
    (fun s => goOn s c (c.upc + 1))

/-- Whether every write of the core's matrix commands has had its far event (R261). -/
def matrixFar (s : State) (core : Nat) : Bool :=
  !s.acc.any (fun a => a.core == core && (a.kind == .eng || a.kind == .acc) && a.store == Cls.matrix.code)

/-- One micro-operation of a matrix command (R252 to R261). -/
def matrixUop (s : State) (c : Cmd) : State :=
  let t := c.img
  let blocks := cdiv (mxM t) 64
  match mxOp t with
  | 1 =>
    if c.upc = 0 then mmaStart s c [mxM t]
    else
      match uopAt (mxNcg c) (mxNkg c) c.work 0 0 (c.upc - 1) with
      | some u => mmaUop s c u
      | none => finish s c 0 (mxM t * mxN t)
  | 2 =>
    if c.upc = 0 then mmagStart s c
    else
      match uopAt (mxNcg c) (mxNkg c) c.work 0 0 (c.upc - 1) with
      | some u => mmaUop s c u
      | none => finish s c 0 (c.work.sum * mxN t)
  | 3 => mwldUop s c
  | 4 =>
    if c.upc = 0 then goOn s c 1
    else if c.upc ≤ blocks then drainUop s c
    else finish s c 0 c.counted
  | 5 =>
    if c.upc = 0 then goOn s c 1
    else if c.upc ≤ blocks then zeroUop s c
    else finish s c 0 (mxM t * mxN t)
  | 7 =>
    let v := (coreOf s c.core).sticky
    finish (if mxClr t = 1 then modCore s c.core (fun k => { k with sticky := 0#4 }) else s) c 0 v.toNat
  | _ => if matrixFar s c.core then finish s c 0 0 else s

end Sys2Proof.Machine
end

