-- ==== Sys2Proof/Machine/Copy.lean ====
section
/-! DEFINITION. The copy engine: layout records, windows and images, the checks of its words at issue, footprints and
micro-operations (R269 to R294). -/

namespace Sys2Proof.Machine

/-! Windows and images (R270 to R273). -/

/-- A window of a tensor and its image: element size, box, tensor sizes, strides and origins by dimension, base, fill
value, the index list with its dimension, and where granules are placed. -/
structure Window where
  es : Nat
  box : List Nat
  size : List Nat
  stride : List Int
  org : List Int
  base : Word
  fill : Nat
  idx : Option (Nat × List Int)
  lgr : Bool
  bkst : Nat
  bkstep : Nat
  swz : Nat
  deriving DecidableEq, Repr

/-- Element size of a record (R270). -/
def recEs (r : RecImage) : Nat := laneBytes (recEtype r)

/-- Whether an op takes an index list. -/
def indexed (op : Nat) : Bool := op == 3 || op == 4

/-- A sign-extended origin field. -/
def originOf (t : TplImage) (d : Nat) : Int :=
  (BitVec.ofNat 32 (match d with
    | 0 => cpO0 t
    | 1 => cpO1 t
    | 2 => cpO2 t
    | 3 => cpO3 t
    | _ => cpO4 t)).toInt

/-- The window of a template, a record and an index list (R271, R281). -/
def windowOf (t : TplImage) (r : RecImage) (list : List Int) : Window :=
  let dims := upFrom 0 (recNdim r)
  let ix := indexed (cpOp t)
  { es := recEs r
    box := dims.map (fun d => if ix ∧ d = cpIxd t then cpNidx t else recBox r d)
    size := dims.map (recSize r), stride := dims.map (recStride r), org := dims.map (originOf t), base := BitVec.ofNat 64 (recBase r)
    fill := if recEtype r = 6 ∧ (recFill r).testBit 31 = true then recFill r + (2 ^ 64 - 2 ^ 32) else recFill r
    idx := if ix then some (cpIxd t, list) else none
    lgr := recLgr r == 1, bkst := recBkst r, bkstep := recBkstep r, swz := recSwz r }

/-- Positions of a window. -/
def Window.count (w : Window) : Nat := w.box.foldl (fun a b => a * b) 1

/-- The mixed-radix digits of a position, dimension 0 first. -/
def digits : List Nat → Nat → List Nat
  | [], _ => []
  | b :: rest, e => e % b :: digits rest (e / b)

/-- The coordinates of a position (R271, R281). -/
def Window.coords (w : Window) (e : Nat) : List Int :=
  ((upFrom 0 w.box.length).zip ((digits w.box e).zip w.org)).map (fun p =>
    match w.idx with
    | some (d, l) => if p.1 = d then l.getD p.2.1 (-1) else p.2.2 + p.2.1
    | none => p.2.2 + p.2.1)

/-- Whether a position lies inside the tensor. -/
def Window.inside (w : Window) (e : Nat) : Bool :=
  ((w.coords e).zip w.size).all (fun p => decide (0 ≤ p.1) && decide (p.1 < p.2))

/-- The address of a position (R271). -/
def Window.addr (w : Window) (e : Nat) : Word :=
  BitVec.ofInt 64 ((w.base.toNat : Int) + w.es * (((w.coords e).zip w.stride).map (fun p => p.1 * p.2)).foldl (fun a b => a + b) 0)

/-- Bytes of an image line with lgr (R272). -/
def Window.line (w : Window) : Nat := 32 * cdiv (w.box.headD 1 * w.es) 32

/-- The image byte of a position (R272). -/
def Window.byte (w : Window) (e : Nat) : Nat :=
  let b := w.box.headD 1
  if w.lgr then e / b * w.line + e % b * w.es else e * w.es

/-- Image granules that hold elements (R272), and granules of the image (R273). -/
def Window.granules (w : Window) : Nat := if w.count = 0 then 0 else w.byte (w.count - 1) / 32 + 1
def Window.set (w : Window) : Nat := if w.swz = 0 then w.granules else 8 * cdiv w.granules 8

/-- The offset at which a granule of an image is placed (R273). -/
def Window.place (w : Window) (dst n : Nat) : Nat := dst + 32 * (w.bkst + (n ^^^ (n / 8 % 2 ^ w.swz)) * w.bkstep)

/-- The positions that n bytes of an image from byte a hold, for a a multiple of 32 and whole granules (R272). -/
def Window.positions (w : Window) (a n : Nat) : List Nat :=
  if w.lgr then
    let b := w.box.headD 1
    (upFrom 0 (n / 32)).flatMap (fun i =>
      let at_ := a + 32 * i
      let t := (at_ % w.line) / w.es
      (upFrom (at_ / w.line * b + t) (min (32 / w.es) (b - t))).filter (fun e => decide (e < w.count)))
  else (upFrom (a / w.es) (n / w.es)).filter (fun e => decide (e < w.count))

/-- The transposed image's window (R282): box 1 varies fastest. -/
def Window.turned (w : Window) : Window :=
  match w.box with
  | a :: b :: rest => { w with box := b :: a :: rest }
  | _ => w

/-- The position in the plain image of a position in the transposed one (R282). -/
def Window.turnBack (w : Window) (e : Nat) : Nat :=
  match w.box with
  | a :: b :: _ => e / b % a + a * (e % b + b * (e / (a * b)))
  | _ => e

/-- The window of a command. -/
def Cmd.window (c : Cmd) : Window := windowOf c.img c.lrec c.list

/-! Footprints (R289). -/

/-- The least and the greatest coordinate of the inside positions along a dimension, none where there is none; an
indexed dimension may take every index. -/
def Window.span (w : Window) (d : Nat) : Option (Int × Int) :=
  let size : Int := w.size.getD d 0
  let o := w.org.getD d 0
  let b : Int := w.box.getD d 0
  let r := match w.idx with
    | some (i, _) => if i = d then (0, size - 1) else (max 0 o, min (size - 1) (o + b - 1))
    | none => (max 0 o, min (size - 1) (o + b - 1))
  if r.1 ≤ r.2 ∧ 0 < b then some r else none

/-- The exact lowest and highest byte addresses, less the base, of the inside positions. -/
def Window.reach (w : Window) : Option (Int × Int) :=
  (upFrom 0 w.box.length).foldl (fun acc d =>
    match acc, w.span d with
    | some (lo, hi), some (a, b) =>
      let k := w.es * w.stride.getD d 0
      some (lo + min (a * k) (b * k), hi + max (a * k) (b * k))
    | _, _ => none) (some (0, w.es))

/-- The memory extent (R289). An extent that wraps past 2^64 covers every address. -/
def memoryExtent (s : State) (core : Nat) (w : Window) : List Extent :=
  match w.reach with
  | none => []
  | some (lo, hi) =>
    let a := (w.base.toNat : Int) + lo
    let b := (w.base.toNat : Int) + hi
    if a / 2 ^ 64 = (b - 1) / 2 ^ 64 then
      addressExtents s core (a % 2 ^ 64).toNat ((a % 2 ^ 64).toNat + (b - a).toNat)
    else addressExtents s core 0 (2 ^ 64)

/-- The placed granules of an image. -/
def imageExtent (core : Nat) (w : Window) (dst : Nat) : List Extent :=
  if w.swz = 0 ∧ w.bkstep = 1 then
    if w.set = 0 then [] else [⟨.sp core, w.place dst 0, w.place dst 0 + 32 * w.set⟩]
  else (upFrom 0 w.set).map (fun n => ⟨.sp core, w.place dst n, w.place dst n + 32⟩)

/-- Whether a placed granule reaches beyond the scratchpad (R277). -/
def beyond (w : Window) (dst : Nat) : Bool :=
  w.set != 0 && decide (Config.spBytes < dst + 32 * (w.bkst + (w.set - 1) * w.bkstep) + 32)

/-- The stream port of a command, as the word found it bound. -/
def Cmd.port (c : Cmd) : Option Port := kget c.ports (cpPort c.img - 60)

/-- The read and write footprints of a command (R289). -/
def copyPrints (s : State) (core : Nat) (t : TplImage) (w : Window) (out : Bool) (a : Word) : List Extent × List Extent :=
  let mem := memoryExtent s core w
  let img := imageExtent core w (cpDst t)
  let list := if cpNidx t = 0 then [] else [⟨.sp core, cpIxof t, cpIxof t + 4 * cpNidx t⟩]
  match cpOp t with
  | 1 | 7 => (mem, img)
  | 2 | 8 => (img, mem)
  | 3 => (mem ++ list, img)
  | 4 => (img ++ list, mem)
  | 5 => if out then ([], mem) else (mem, [])
  | 6 => (mem, img ++ imageExtent core w.turned (cpDst2 t))
  | 9 => ([], img)
  | 10 => (addressExtents s core a.toNat (a.toNat + 96), [])
  | _ => ([], [])

/-! Checks at issue (R276, R277). -/

/-- Whether an op has a placed image. -/
def placesImage (op : Nat) : Bool := usesRecord op && op != 5

/-- The template fields that CE_OPND names. Field 3 is named for 2^24 micro-operations and more, which is the template's where a
record is to blame too (R277; log entry 72); clash says that CPY.FOLLOW's matrix command completes to the copy's register. -/
def copyBadTpl (s : State) (core : Nat) (t : TplImage) (r : RecImage) (misfit : List Nat) (clash : Bool) : List Nat :=
  let op := cpOp t
  let w := windowOf t r []
  let shaped := usesRecord op && recEtype r != 7 && recEtype r != 8 && recNdim r != 0 && decide (recNdim r < 6)
    && !(indexed op && decide (recNdim r ≤ cpIxd t))
  let turn := op == 6 && decide (2 ≤ recNdim r)
  let past := shaped && placesImage op && beyond w (cpDst t)
  let past2 := shaped && turn && beyond w.turned (cpDst2 t)
  let prints := copyPrints s core t w false 0#64
  misfit ++ (if 60 ≤ cpDone t then [2] else [])
  ++ (if op = 5 ∧ cpPort t < 60 then [6] else []) ++ (if clash then [7] else [])
  ++ (if indexed op = true ∧ recNdim r ≤ cpIxd t then [8] else [])
  ++ (if usesRecord op = true ∧ cpDst t % 32 ≠ 0 then [10] else [])
  ++ (if op = 6 ∧ cpDst2 t % 32 ≠ 0 then [11] else [])
  ++ (if indexed op = true ∧ (cpIxof t % 4 ≠ 0 ∨ Config.spBytes < cpIxof t + 4 * cpNidx t) then [12] else [])
  ++ (if op = 10 ∧ cpAddr t % 32 ≠ 0 then [13] else [])
  ++ (if op = 8 ∧ cpBar t % 8 ≠ 0 then [14] else [])
  ++ (if past then [10] else []) ++ (if past2 then [11] else [])
  ++ (if shaped = true ∧ 2 ^ 24 ≤ 1 + (if op = 5 then cdiv w.granules 8 else w.set) + (if turn then w.turned.set else 0)
        + (if op = 7 then 1 else 0) then [3] else [])
  ++ (if shaped && turn && !past && !past2
        && meetsAny (imageExtent core w (cpDst t)) (imageExtent core w.turned (cpDst2 t)) then [11] else [])
  ++ (if shaped && placesImage op && !past && meetsAny prints.1 prints.2 then [10] else [])

/-- The record fields that CE_OPND names. -/
def copyBadRec (t : TplImage) (r : RecImage) : List Nat :=
  let op := cpOp t
  if !usesRecord op then []
  else
    (if op ≠ 9 ∧ recBase r % recEs r ≠ 0 then [1] else [])
    ++ (if recEtype r = 7 ∨ recEtype r = 8 then [2] else [])
    ++ (if recNdim r = 0 ∨ 5 < recNdim r ∨ (op = 6 ∧ recNdim r < 2) then [3] else [])
    ++ (if op ≠ 5 ∧ 191 < recBkst r then [6] else [])
    ++ (if op ≠ 5 ∧ (recBkstep r = 0 ∨ 192 < recBkstep r) then [7] else [])
    ++ ((upFrom 0 (min 5 (recNdim r))).filter (fun d => recBox r d == 0)).map (fun d => 10 + 3 * d)

/-- The matrix command that CPY.FOLLOW forms (R284). -/
def followForm (f : Issue) (s : State) (t : TplImage) : Formed :=
  formImage .matrix f.snap ((coreOf s f.core).tpl .matrix (cpFtpl t)).img 0 0

/-- Whether CPY.FOLLOW's matrix command completes to the copy's own register (R277). -/
def followClash (f : Issue) (s : State) (t : TplImage) : Bool :=
  cpOp t == 7 && cpDone t != 0 && ((coreOf s f.core).tpl .matrix (cpFtpl t)).mark.isNone &&
  (let m := (followForm f s t).img
   mxOp m != 6 && mxDone m == cpDone t)

/-- The fault of CPY.FOLLOW's matrix command: it names matrix fields (R284). -/
def followFault (f : Issue) (s : State) (t : TplImage) : Option (Nat × Word) :=
  let k := coreOf s f.core
  let m := followForm f s t
  match (k.tpl .matrix (cpFtpl t)).mark, reservedAt .matrix m with
  | some x, _ => some (x.code, x.addr)
  | none, some n => some (3, fieldVal f.slot n (cpFtpl t))
  | none, none =>
    if mxOp m.img = 0 ∨ 8 < mxOp m.img then some (3, fieldVal f.slot 1 (cpFtpl t))
    else mxFault f.slot (cpFtpl t) m.img (fmtEntry k f.snap m.img) m.misfit

/-- The fault of a copy word at issue (R132, R276, R277, R283, R284). -/
def copyFault (w : Instr) (f : Issue) (s : State) : Option (Nat × Word) :=
  match templateMark w f s, formedWord w f s with
  | some r, _ => some r
  | none, none => none
  | none, some (_, tpl, c) =>
    let t := c.img
    let r := (coreOf s f.core).recSlot (cpRec t)
    match (if usesRecord (cpOp t) then r.mark else none) with
    | some a => some (8, a)
    | none =>
      match lowest (copyBadTpl s f.core t r.img c.misfit (followClash f s t)), lowest (copyBadRec t r.img) with
      | some n, _ => some (0xA01, fieldVal f.slot n tpl)
      | none, some n => some (0xA01, recordVal f.slot n tpl (cpRec t))
      | none, none =>
        if cpOp t = 5 ∧ (kget f.ports (cpPort t - 60)).isNone then
          some (0xA02, BitVec.ofNat 64 (f.slot * 2 ^ 32 + cpPort t))
        else if cpOp t = 7 then followFault f s t
        else none

/-! Issue. -/

/-- The granules of the own scratchpad that the inside positions of a window write, as extents (R291). -/
def localGranules (s : State) (core : Nat) (w : Window) : List Extent :=
  match taskOf s core with
  | none => []
  | some t =>
    (((upFrom 0 w.count).filter w.inside).foldl (fun b e =>
      match checkAddr s t core (w.addr e) w.es .write with
      | .ok (.sp k o) => if k = core then unionNat b [o / 32] else b
      | _ => b) []).map (fun g => ⟨.sp core, 32 * g, 32 * g + 32⟩)

/-- What the lock of a command that writes memory holds of the own scratchpad: the granules that it writes, not all of its
memory extent (R291). Which granules a scatter writes is known when it has read its index list; until then its lock holds the
extent. -/
def copyLocks (s : State) (core : Nat) (t : TplImage) (w : Window) (writes : List Extent) (out : Bool) : Option (List Extent) :=
  if (cpOp t = 2 ∨ cpOp t = 8 ∨ cpOp t = 4 ∨ (cpOp t = 5 ∧ out = true)) ∧ writes.any (fun e => e.space == .sp core) = true then
    some (localGranules s core w)
  else none

/-- A copy command with its captured record, its footprints and its lock (R276, R289, R291). -/
def copyForm (f : Issue) (s : State) (c : Cmd) : Cmd :=
  let t := c.img
  let r := ((coreOf s f.core).recSlot (cpRec t)).img
  let a := BitVec.ofNat 64 (cpAddr t)
  let out := ((kget f.ports (cpPort t - 60)).map (fun p => p.out)).getD false
  let prints := copyPrints s f.core t (windowOf t r []) out a
  { c with lrec := r, reads := prints.1, writes := prints.2
           locks := if cpOp t = 4 then none else copyLocks s f.core t (windowOf t r []) prints.2 out
           acls := if cpRcls t = 1 then rangeClass s f.core (if cpOp t = 10 then a else BitVec.ofNat 64 (recBase r)) else cpCls t }

/-- A copy command is dispatched (R276). CPY.FOLLOW forms its matrix command beside it, with a number of its own, and
that command's register becomes empty too (R284). -/
def issueCopy (w : Instr) (f : Issue) (s : State) : State :=
  let c := copyForm f s (templateCmd w f s)
  if cpOp c.img = 7 then
    let k := coreOf s f.core
    let m := (followForm f s c.img).img
    let mfmt := mxOp m == 6
    let c := { c with
      fslot := cpFtpl c.img, fimg := m, ffmt := if mfmt then fmtNo m f.snap else fmtEntry k f.snap m
      freg := if mfmt then 0 else mxDone m }
    let s := dispatch c [BitVec.ofNat 6 c.creg] f s
    let s := { s with nextId := c.id + 2 }
    if mfmt then s else frameCtx s f (fun x => emptyParts x (c.id + 1) f.slot [BitVec.ofNat 6 (mxDone m)] 0)
  else dispatch c [BitVec.ofNat 6 c.creg] f s

/-- CPY.IN (R279). -/
def execCpyIn (tpl : BitVec 6) (fsel : BitVec 6) (value : BitVec 16) (s : State) : Host.Outcome State Fault Refusal :=
  issueWord (.cpyIn tpl fsel value) (copyFault (.cpyIn tpl fsel value)) (issueCopy (.cpyIn tpl fsel value)) s

/-- CPY.OUT (R280). -/
def execCpyOut (tpl : BitVec 6) (fsel : BitVec 6) (value : BitVec 16) (s : State) : Host.Outcome State Fault Refusal :=
  issueWord (.cpyOut tpl fsel value) (copyFault (.cpyOut tpl fsel value)) (issueCopy (.cpyOut tpl fsel value)) s

/-- CPY.GATHER (R281). -/
def execCpyGather (tpl : BitVec 6) (fsel : BitVec 6) (value : BitVec 16) (s : State) : Host.Outcome State Fault Refusal :=
  issueWord (.cpyGather tpl fsel value) (copyFault (.cpyGather tpl fsel value)) (issueCopy (.cpyGather tpl fsel value)) s

/-- CPY.SCAT (R281). -/
def execCpyScat (tpl : BitVec 6) (fsel : BitVec 6) (value : BitVec 16) (s : State) : Host.Outcome State Fault Refusal :=
  issueWord (.cpyScat tpl fsel value) (copyFault (.cpyScat tpl fsel value)) (issueCopy (.cpyScat tpl fsel value)) s

/-- CPY.RING (R283). -/
def execCpyRing (tpl : BitVec 6) (fsel : BitVec 6) (value : BitVec 16) (s : State) : Host.Outcome State Fault Refusal :=
  issueWord (.cpyRing tpl fsel value) (copyFault (.cpyRing tpl fsel value)) (issueCopy (.cpyRing tpl fsel value)) s

/-- CPY.T (R282). -/
def execCpyT (tpl : BitVec 6) (fsel : BitVec 6) (value : BitVec 16) (s : State) : Host.Outcome State Fault Refusal :=
  issueWord (.cpyT tpl fsel value) (copyFault (.cpyT tpl fsel value)) (issueCopy (.cpyT tpl fsel value)) s

/-- CPY.FOLLOW (R284). -/
def execCpyFollow (tpl : BitVec 6) (fsel : BitVec 6) (value : BitVec 16) (s : State) : Host.Outcome State Fault Refusal :=
  issueWord (.cpyFollow tpl fsel value) (copyFault (.cpyFollow tpl fsel value)) (issueCopy (.cpyFollow tpl fsel value)) s

/-- CPY.BAR (R285). -/
def execCpyBar (tpl : BitVec 6) (fsel : BitVec 6) (value : BitVec 16) (s : State) : Host.Outcome State Fault Refusal :=
  issueWord (.cpyBar tpl fsel value) (copyFault (.cpyBar tpl fsel value)) (issueCopy (.cpyBar tpl fsel value)) s

/-- CPY.FILL (R286). -/
def execCpyFill (tpl : BitVec 6) (fsel : BitVec 6) (value : BitVec 16) (s : State) : Host.Outcome State Fault Refusal :=
  issueWord (.cpyFill tpl fsel value) (copyFault (.cpyFill tpl fsel value)) (issueCopy (.cpyFill tpl fsel value)) s

/-- LREC (R287). -/
def execLrec (tpl : BitVec 6) (fsel : BitVec 6) (value : BitVec 16) (s : State) : Host.Outcome State Fault Refusal :=
  issueWord (.lrec tpl fsel value) (copyFault (.lrec tpl fsel value)) (issueCopy (.lrec tpl fsel value)) s

/-- CPY.STAT (R288). -/
def execCpyStat (tpl : BitVec 6) (fsel : BitVec 6) (value : BitVec 16) (s : State) : Host.Outcome State Fault Refusal :=
  issueWord (.cpyStat tpl fsel value) (copyFault (.cpyStat tpl fsel value)) (issueCopy (.cpyStat tpl fsel value)) s

/-! Micro-operations (R278 to R288). -/

/-- A copy command faults; one of whose micro-operations has been counted poisons its barrier (R285, R306). -/
def copyFails (s : State) (c : Cmd) (code : Nat) (v : Word) : State :=
  if cpOp c.img = 8 ∧ 1 < c.upc ∧ c.refused = false then
    engineFault (modCmd (failBarrier s c.part (cpBar c.img)) c.id (fun c => { c with refused := true })) c code v
  else engineFault s c code v

/-- Bytes laid over a list of n bytes: pairs of a place and its bytes. -/
def layBytes (n : Nat) (l : List (Nat × List Byte)) : List Byte :=
  (upFrom 0 n).map (fun i =>
    match l.find? (fun p => decide (p.1 ≤ i) && decide (i < p.1 + p.2.length)) with
    | some p => p.2.getD (i - p.1) 0#8
    | none => 0#8)

/-- What the positions of n image bytes from byte a hold: each position's place among those bytes and the answer to its
read (R279, R286). -/
def gatherElems (s : State) (c : Cmd) (w : Window) (a n : Nat) : List (Nat × EngAns) :=
  (w.positions a n).map (fun e =>
    (w.byte e - a,
     if cpOp c.img ≠ 9 ∧ w.inside e = true then engGet s c (w.addr e) w.es else .ok (natBytes w.fill w.es)))

/-- What the reads of those positions leave: their leaves have been used (R177). -/
def gatherUse (s : State) (c : Cmd) (w : Window) (a n : Nat) : State :=
  engUse s c (((w.positions a n).filter (fun e => decide (cpOp c.img ≠ 9) && w.inside e)).map w.addr)

/-- A granule written to the own scratchpad at an offset, unless an older command's write still holds it. -/
def putGranule (s : State) (c : Cmd) (off : Nat) (data : List Byte) (upc : Nat) : State :=
  if granuleHeld s c (.sp c.core off) 32 then s
  else goOn (engWrite s c 16 (genericOf s c off) (.sp c.core off) data) c upc

/-- CPY.IN's micro-operation for granule n (R279, R286). -/
def copyIn (s : State) (c : Cmd) (n : Nat) : State :=
  let w := c.window
  let l := gatherElems s c w (32 * n) 32
  match firstStop (l.map (fun p => p.2)) with
  | some a => stopAt s c copyFails a
  | none =>
    putGranule (gatherUse s c w (32 * n) 32) c (w.place (cpDst c.img) n) (layBytes 32 (l.map (fun p => (p.1, p.2.bytes)))) (c.upc + 1)

/-- The writes of the inside positions of n image bytes from byte a, whose bytes are data (R280). -/
def elemWrites (w : Window) (a : Nat) (data : List Byte) : List (Word × List Byte) :=
  ((w.positions a data.length).filter w.inside).map (fun e => (w.addr e, (data.drop (w.byte e - a)).take w.es))

/-- Whether a command's element address leads nowhere: the fault that it raises (R106, R174). -/
def elemFault (s : State) (c : Cmd) (p : Word × List Byte) : Option EngAns :=
  match engDest s c p.1 p.2.length .write with
  | .error code => some (.fault code p.1)
  | .ok _ => none

/-- The inside positions of image bytes are written to memory, and the command goes on as done says (R280). The bytes of one
granule are one write (R156, R417), and the last position's byte stays (R280). -/
def scatter (s : State) (c : Cmd) (l : List (Word × List Byte)) (done : State → State) : State :=
  let runs := granuleRuns l
  match (l.findSome? (elemFault s c)).or (firstStop (runs.flatten.map (fun p => engTestAt s c p.1 p.2.length))) with
  | some a => stopAt s c copyFails a
  | none =>
    if runs.flatten.any (fun p => heldAt s c p.1 p.2.length) then s
    else done (runs.foldl (fun s r => engPutRuns s c r) s)

/-- Bytes of a list of writes. -/
def writeLen (l : List (Word × List Byte)) : Nat := (l.map (fun p => p.2.length)).sum

/-- CPY.OUT's micro-operation for granule n (R280). -/
def copyOut (s : State) (c : Cmd) (n : Nat) : State :=
  let w := c.window
  match engGetSp s c (w.place (cpDst c.img) n) 32 with
  | .ok data =>
    scatter s c (elemWrites w (32 * n) data) (fun s => goOn s c (c.upc + 1))
  | a => stopAt s c copyFails a

/-- Whether an atomic word that the issuing context issued before a command has still to perform (R304). -/
def countHeld (s : State) (c : Cmd) : Bool :=
  s.cmds.any (fun o =>
    o.core == c.core && o.ctx == c.ctx && o.cls == .atomic && decide (o.disp < c.disp) && o.phase != .waiting)

/-- The bytes of a CPY.BAR micro-operation are counted at its barrier, and the command goes on (R285, R304). A count that takes the
balance below its range completes the phase with FAULT (R306), and the copy adds its bytes to those counted and goes on (DESIGN
CHOICE, log entry 119). -/
def barCount (s : State) (c : Cmd) (n : Nat) : State :=
  if (cmdAcc s c.id).any (fun a => s.acc.contains a) || countHeld s c then s
  else if c.refused ∨ refusesCounts s c.part (cpBar c.img) = true then
    modCmd s c.id (fun c => { c with upc := c.upc + 1, work := [], refused := true })
  else
    match countError s c.part (cpBar c.img) with
    | some code => copyFails s c code (BitVec.ofNat 64 (cpBar c.img))
    | none =>
      modCmd (countBytes s c.part (cpBar c.img) n) c.id (fun c =>
        { c with upc := c.upc + 1, work := [], counted := c.counted + n })

/-- CPY.BAR's micro-operation for granule n: its writes, then, when they have had their far events, its count (R285). -/
def copyBar (s : State) (c : Cmd) (n : Nat) : State :=
  match c.work with
  | k :: _ => barCount s c k
  | [] =>
    let w := c.window
    match engGetSp s c (w.place (cpDst c.img) n) 32 with
    | .ok data =>
      let l := elemWrites w (32 * n) data
      scatter s c l (fun s => modCmd s c.id (fun c => { c with work := [writeLen l] }))
    | a => stopAt s c copyFails a

/-- The port's live ring (R71, R123). -/
def livePort (s : State) (c : Cmd) : Option Port := kget (coreOf s c.core).vec.ports (cpPort c.img - 60)

/-- The port's ring changed. -/
def modPort (s : State) (c : Cmd) (g : Port → Port) : State :=
  modCore s c.core (fun k => { k with vec := { k.vec with ports := kmod k.vec.ports (cpPort c.img - 60) g } })

/-- CPY.RING's micro-operation for element n of an input binding (R283). -/
def ringIn (s : State) (c : Cmd) (n : Nat) : State :=
  let w := c.window
  let l := gatherElems s c w (256 * n) 256
  match livePort s c, firstStop (l.map (fun p => p.2)) with
  | none, _ => s
  | some _, some a => stopAt s c copyFails a
  | some p, none =>
    let off := 256 * (p.base + (p.head + p.count) % p.len)
    if p.len ≤ p.count ∨ landHeld s c (.sp c.core off) 256 = true then s
    else
      let s := locWrite (gatherUse s c w (256 * n) 256) (.sp c.core off) (layBytes 256 (l.map (fun p => (p.1, p.2.bytes))))
      goOn (modPort s c (fun p => { p with count := p.count + 1 })) c (c.upc + 1)

/-- CPY.RING's micro-operation for element n of an output binding: it pops the element, and writes it (R283). The command keeps what
it has popped, element n at 256n, for a micro-operation that a fault makes run again (R293). -/
def ringOut (s : State) (c : Cmd) (n : Nat) : State :=
  let w := c.window
  if c.elem.length ≤ 256 * n then
    match livePort s c with
    | none => s
    | some p =>
      if p.count = 0 then s
      else
        match engGetSp s c (256 * (p.base + p.head)) 256 with
        | .ok b =>
          modCmd (modPort s c (fun p => { p with head := (p.head + 1) % p.len, count := p.count - 1 })) c.id
            (fun c => { c with elem := c.elem ++ b })
        | a => stopAt s c copyFails a
  else scatter s c (elemWrites w (256 * n) ((c.elem.drop (256 * n)).take 256)) (fun s => goOn s c (c.upc + 1))

/-- CPY.T's micro-operation for granule n of the transposed image (R282). -/
def turnGranule (s : State) (c : Cmd) (n : Nat) : State :=
  let w := c.window
  let v := w.turned
  let l := (v.positions (32 * n) 32).map (fun e =>
    let b := w.byte (w.turnBack e)
    (v.byte e - 32 * n, engGetSp s c (w.place (cpDst c.img) (b / 32) + b % 32) w.es))
  match firstStop (l.map (fun p => p.2)) with
  | some a => stopAt s c copyFails a
  | none => putGranule s c (v.place (cpDst2 c.img) n) (layBytes 32 (l.map (fun p => (p.1, p.2.bytes)))) (c.upc + 1)

/-- The matrix word of an op, for the command that CPY.FOLLOW places. -/
def matrixWord (op slot : Nat) : Instr :=
  let t := BitVec.ofNat 6 slot
  match op with
  | 1 => .mma t 0#6 0#16
  | 2 => .mmag t 0#6 0#16
  | 3 => .mwld t 0#6 0#16
  | 4 => .mdrain t 0#6 0#16
  | 5 => .mzero t 0#6 0#16
  | 7 => .mstat t 0#6 0#16
  | _ => .mfence t 0#6 0#16

/-- CPY.FOLLOW places its matrix command (R259, R284). -/
def placeFollow (s : State) (c : Cmd) (value : Nat) : State :=
  if mxOp c.fimg = 6 then
    finish (modCore s c.core (fun k => k.setFmt c.ffmt (mxFval c.fimg))) c 0 value
  else if Config.queueDepth ≤ queueLength s c.core .matrix then s
  else
    let m : Cmd := { c with
      id := c.id + 1, instr := matrixWord (mxOp c.fimg) c.fslot, cls := .matrix, disp := s.nextId, tslot := c.fslot
      creg := c.freg, phase := .queued, upc := 0, edges := [], waits := [], acls := 0, work := [], counted := 0, fault := 0 }
    let s := finish s c 0 value
    { s with cmds := s.cmds ++ [mxForm m c.fimg c.ffmt], nextId := s.nextId + 1 }

/-- Whether a command's address lies in shared memory. -/
def sharedAddr (s : State) (c : Cmd) (a : Word) : Bool := (cmdTask s c).any (fun t => aperture t a == .shared)

/-- LREC's read of its record image (R287): three granules. An error of the memory side marks the slot; a scratchpad read that
fails its ECC faults the command (R292). -/
def loadRecord (s : State) (c : Cmd) : State :=
  let a := BitVec.ofNat 64 (cpAddr c.img)
  let l := (upFrom 0 3).map (fun i => engGet s c (a + BitVec.ofNat 64 (32 * i)) 32)
  let put (s : State) (r : RecSlot) : State := modCore s c.core (fun k => { k with recs := kput k.recs (cpRec c.img) r })
  match firstStop l with
  | none => finish (put (engUse s c ((upFrom 0 3).map (fun i => a + BitVec.ofNat 64 (32 * i)))) ⟨BitVec.ofNat 768 (leNat (l.flatMap EngAns.bytes)), none⟩) c 0 96
  | some (.error code ea ipa loc leaf) =>
    if (code = 8 ∨ code = 9 ∨ code = 0xC) ∧ sharedAddr s c a = true then
      let old := (coreOf s c.core).recSlot (cpRec c.img)
      finish (put (consume s c.part c.core c.acls (some c.ctx) ea ipa code loc leaf) { old with mark := some a }) c 0 96
    else stopAt s c copyFails (.error code ea ipa loc leaf)
  | some x => stopAt s c copyFails x

/-- The index list, read at micro-PC 0 (R281). -/
def loadIndex (s : State) (c : Cmd) : State :=
  match engGetSp s c (cpIxof c.img) (4 * cpNidx c.img) with
  | .ok b =>
    let list := (countsOf b (cpNidx c.img)).map (fun n => (BitVec.ofNat 32 n).toInt)
    let w := windowOf c.img c.lrec list
    modCmd s c.id (fun c =>
      { c with upc := 1, list := list, locks := if cpOp c.img = 4 then copyLocks s c.core c.img w c.writes false else none })
  | a => stopAt s c copyFails a

/-- The set-up of a command (R278, R281, R285). -/
def copyStart (s : State) (c : Cmd) : State :=
  match cpOp c.img with
  | 3 | 4 => loadIndex s c
  | 8 =>
    match (partOf s c.part).bind (fun p => bindError p (cpBar c.img)) with
    | some code => copyFails s c code (BitVec.ofNat 64 (cpBar c.img))
    | none => goOn (touchBlock s c.part (cpBar c.img)) c 1
  | _ => goOn s c 1

/-- Whether every write of the core's earlier copies has had its far event (R288). -/
def copiesFar (s : State) (c : Cmd) : Bool :=
  !s.acc.any (fun a => a.core == c.core && a.kind == .eng && a.store == Cls.copy.code && decide (a.cmd < c.id))

/-- CPY.STAT is done: its completion passes on the writes of the core's earlier copies whose host event is to come (R288). -/
def statDone (s : State) (c : Cmd) : State :=
  let acq := (s.backInv.filter (fun a =>
    a.core == c.core && a.kind == .eng && a.store == Cls.copy.code && decide (a.cmd < c.id))).map (fun a => a.id)
  finish (modCmd s c.id (fun c => { c with acq := acq })) c 0 (coreOf s c.core).total.toNat

/-- The bytes of a window's inside positions (R280). -/
def insideBytes (w : Window) : Nat := ((upFrom 0 w.count).filter w.inside).length * w.es

/-- One micro-operation of a copy command (R275, R278). The image's whole set of granules comes first, with those that a swizzle adds
(R273); the transposed granules and the placement of a matrix command are numbered after it (DESIGN CHOICE, log entry 120). -/
def copyUop (s : State) (c : Cmd) : State :=
  let w := c.window
  let t := c.img
  let whole := w.count * w.es
  if cpOp t = 11 then (if copiesFar s c then statDone s c else s)
  else if c.upc = 0 then copyStart s c
  else
    let n := c.upc - 1
    match cpOp t with
    | 1 | 3 | 9 => if n < w.set then copyIn s c n else finish s c 0 whole
    | 2 | 4 => if n < w.set then copyOut s c n else finish s c 0 (insideBytes w)
    | 5 =>
      let out := (c.port.map (fun p => p.out)).getD false
      if n < cdiv w.granules 8 then (if out then ringOut s c n else ringIn s c n)
      else finish s c 0 (if out then insideBytes w else whole)
    | 6 =>
      if n < w.set then copyIn s c n
      else if n < w.set + w.turned.set then turnGranule s c (n - w.set)
      else finish s c 0 (2 * whole)
    | 7 => if n < w.set then copyIn s c n else placeFollow s c whole
    | 8 => if n < w.set then copyBar s c n else finish s c (if c.refused then 0xA81 else 0) c.counted
    | _ => loadRecord s c

end Sys2Proof.Machine
end

