-- ==== Sys2Proof/Machine/Prism.lean ====
section
/-! DEFINITION. Prism: nodes and identities, the checks of its words at issue, routing sort, tensor channels, the uneven
all-to-all, the ring, and the arrivals of its messages (R312 to R329). -/

namespace Sys2Proof.Machine

/-! Nodes, ports and identities (R312, R313, R319). -/

/-- Torus coordinates of a node. -/
def nodeX (n : Nat) : Nat := nbits n 4 0
def nodeY (n : Nat) : Nat := nbits n 9 5
def nodeZ (n : Nat) : Nat := nbits n 14 10

/-- Whether the domain holds a node (R312). -/
def inDomain (s : State) (n : Nat) : Bool :=
  decide (n < 2 ^ 15) && decide (nodeX n < s.dims.1) && decide (nodeY n < s.dims.2.1) && decide (nodeZ n < s.dims.2.2)

/-- What another device answers (log entry 19). -/
def partnerOf (s : State) (node : Nat) : Partner := (s.partners.find? (fun p => p.node == node)).getD (Config.partner node)

/-- The partition that holds an identity. -/
def partByIdent (s : State) (ident : Nat) : Option Nat :=
  (s.parts.find? (fun p => identNo s p.1 == ident)).map (fun p => p.1)

/-- Whether a command's traffic to a node faults with XE_NODE (R319, R328). sends says that something is sent to it. -/
def nodeRefuses (s : State) (part node : Nat) (sends : Bool) : Bool :=
  node != s.node &&
  (!inDomain s node || (match (partOf s part).bind (fun p => p.dpart) with
    | none => true
    | some d => sends && !(partnerOf s node).holds.contains d))

/-- Whether the + port of a dimension is the way from one position to another round s positions (R312). -/
def plusWay (src dst s : Nat) : Bool := decide (2 * ((dst + s - src) % s) ≤ s)

/-- The Tradon port that leads to another node in dimension order (R8, R312). -/
def portTo (s : State) (n : Nat) : Nat :=
  if nodeX n ≠ nodeX s.node then (if plusWay (nodeX s.node) (nodeX n) s.dims.1 then 0 else 1)
  else if nodeY n ≠ nodeY s.node then (if plusWay (nodeY s.node) (nodeY n) s.dims.2.1 then 2 else 3)
  else (if plusWay (nodeZ s.node) (nodeZ n) s.dims.2.2 then 4 else 5)

/-- The Tradon port by which another node's traffic arrives: it comes in the last dimension in which the coordinates differ, from
the side that its own way round that dimension leaves by (R8, R312). -/
def portFrom (s : State) (n : Nat) : Nat :=
  if nodeZ n ≠ nodeZ s.node then (if plusWay (nodeZ n) (nodeZ s.node) s.dims.2.2 then 5 else 4)
  else if nodeY n ≠ nodeY s.node then (if plusWay (nodeY n) (nodeY s.node) s.dims.2.1 then 3 else 2)
  else (if plusWay (nodeX n) (nodeX s.node) s.dims.1 then 1 else 0)

/-- The links field of a port: 0 down, 1 eight lanes, 2 sixteen, 3 thirty-two (R325, R405). -/
def portState (s : State) (p : Nat) : Nat := s.units.links.toNat / 4 ^ p % 4

/-- The port that a message crosses here: an own one leaves to its node, another's arrives from its node. -/
def portOfMsg (s : State) (own : Bool) (src dst : Nat) : Nat := if own then portTo s dst else portFrom s src

/-- Whether the port that a message crosses here is up; one that stays on the node crosses none (R399). -/
def pathUp (s : State) (own : Bool) (src dst : Nat) : Bool :=
  (if own then dst else src) == s.node || portState s (portOfMsg s own src dst) != 0

/-- A message has crossed its port: no replay of its group is left. -/
def crossed (s : State) (own : Bool) (src dst : Nat) : State :=
  if (if own then dst else src) = s.node then s else { s with crc := kdel s.crc (portOfMsg s own src dst) }

/-! Ring chunks (R325). -/

/-- Element size of an element type 0 or 1. -/
def ringEs (t : TplImage) : Nat := if xeEtype t = 0 then 4 else 2

/-- First element and length of chunk j; none without a ring. -/
def chunkOf (rg n j : Nat) : Nat × Nat :=
  if rg = 0 then (0, 0)
  else
    let cs := cdiv n rg
    (min n (j * cs), min n ((j + 1) * cs) - min n (j * cs))

/-! Footprints and checks at issue (R314, R315, R326). -/

/-- Fields that an op uses besides 1 to 3 and 30 to 33 (R315). -/
def xeUsed (t : TplImage) : List Nat :=
  match xeOp t with
  | 1 => upFrom 16 10
  | 2 => [11, 12, 14, 15] ++ upFrom 20 8
  | 3 => [4, 5] ++ (if xeDir t = 0 then [24, 28, 29] else [6, 7, 20, 24, 25, 26, 28, 29])
  | 4 => [4, 26]
  | 5 => [4, 8, 13, 20, 27]
  | 6 => [4, 27]
  | 7 => [4, 5]
  | 8 | 9 => [9, 11, 12, 20, 21, 27]
  | 10 => [4, 5, 10]
  | _ => []

/-- Whether a field breaks its limit (R314, R315). -/
def xeLimit (t : TplImage) (n : Nat) : Bool :=
  match n with
  | 9 => decide (1 < xeEtype t)
  | 10 => decide (4 < xeSel t)
  | 14 => decide (xeNpeer t ≤ xeMe t)
  | 15 => xeNpeer t == 0 || decide (64 < xeNpeer t)
  | 16 => xeK t == 0 || decide (8 < xeK t)
  | 19 => xeE t == 0 || decide (4096 < xeE t)
  | 20 => xeLa t % 32 != 0
  | 21 => xeLb t % 32 != 0
  | 22 => xeLc t % 32 != 0
  | 23 => xeLd t % 32 != 0
  | 24 => xeLe t % 32 != 0 || (xeOp t == 3 && xeLe t == 0)
  | 25 =>
    xeLf t % 32 != 0 ||
    (xeOp t == 3 && (xeLf t == 0 || xeLe t == 0 || xeLf t % xeLe t != 0 || decide (Config.spBytes < xeLa t + xeLf t)))
  | _ => false

/-- The record size of the send channel that a core names, 0 where it is not open. An XCH.SEND that issues before its channel is open
so declares no read footprint and is not checked for its extent (R318, R326; DESIGN CHOICE, log entry 122). -/
def sendRsz (s : State) (core part chan : Nat) : Nat :=
  match kget s.sends chan with
  | some x => if x.core = core ∧ x.part = part then x.rsz else 0
  | none => 0

/-- Read extents: field number, offset, bytes (R326). -/
def xeReads (s : State) (core part : Nat) (t : TplImage) : List (Nat × Nat × Nat) :=
  match xeOp t with
  | 1 => [(20, xeLa t, 8 * xeT t * xeK t)]
  | 2 => [(20, xeLa t, 4 * xeNpeer t), (21, xeLb t, 4 * xeNpeer t), (22, xeLc t, xeN t)]
  | 5 => [(20, xeLa t, xeN t * sendRsz s core part (xeChan t))]
  | 8 => [(20, xeLa t, xeN t * ringEs t)]
  | 9 => [(20, xeLa t, (chunkOf s.rg (xeN t) s.q).2 * ringEs t)]
  | _ => []

/-- Write extents (R326). -/
def xeWrites (s : State) (t : TplImage) : List (Nat × Nat × Nat) :=
  match xeOp t with
  | 1 => [(21, xeLb t, 8 * xeT t * xeK t), (22, xeLc t, 4 * xeE t), (23, xeLd t, 4 * xeE t), (24, xeLe t, 8 * xeT t * xeK t)]
  | 2 => [(23, xeLd t, xeLf t), (24, xeLe t, 8 * xeNpeer t)]
  | 8 => [(21, xeLb t, (chunkOf s.rg (xeN t) s.q).2 * ringEs t)]
  | 9 => [(21, xeLb t, xeN t * ringEs t)]
  | _ => []

/-- Extents of a core's scratchpad. -/
def spExtents (core : Nat) (l : List (Nat × Nat × Nat)) : List Extent :=
  (l.filter (fun x => x.2.2 != 0)).map (fun x => ⟨.sp core, x.2.1, x.2.1 + x.2.2⟩)

/-- The fields that XE_OPND names (R315). -/
def xeBad (s : State) (core part : Nat) (t : TplImage) (misfit : List Nat) : List Nat :=
  let reads := xeReads s core part t
  let writes := xeWrites s t
  (if 60 ≤ xeDone t then [2] else []) ++ misfit ++ (xeUsed t).filter (xeLimit t)
  ++ ((reads ++ writes).filter (fun x => x.2.2 != 0 && decide (Config.spBytes < x.2.1 + x.2.2))).map (fun x => x.1)
  ++ (writes.filter (fun x => meetsAny (spExtents core [x]) (spExtents core reads))).map (fun x => x.1)

/-- The fault of a Prism word at issue (R132, R315). -/
def prismFault (w : Instr) (f : Issue) (s : State) : Option (Nat × Word) :=
  match templateMark w f s, formedWord w f s with
  | some r, _ => some r
  | none, none => none
  | none, some (_, tpl, c) =>
    (lowest (xeBad s f.core (frameTask s f).part c.img c.misfit)).map (fun n => (0xC01, fieldVal f.slot n tpl))

/-! Issue. -/

/-- The receive channel that a command names, if its core has it open (R318). -/
def ownRecv (s : State) (c : Cmd) : Option RecvCh :=
  (kget s.recvs (xeChan c.img)).bind (fun r => if r.core = c.core ∧ r.part = c.part then some r else none)

/-- The send channel that a command names, if its core has it open (R318). -/
def ownSend (s : State) (c : Cmd) : Option SendCh :=
  (kget s.sends (xeChan c.img)).bind (fun x => if x.core = c.core ∧ x.part = c.part then some x else none)

/-- The target that XCH.RECV takes, where its core has the channel open (R322). -/
def targetOf (s : State) (c : Cmd) : List Nat :=
  match ownRecv s c with
  | none => []
  | some r => [r.rcv + xeN c.img * r.rsz]

/-- XCH.RECV takes its target (R322). -/
def takeTarget (s : State) (c : Cmd) : State :=
  match ownRecv s c with
  | none => s
  | some r => { s with recvs := kput s.recvs (xeChan c.img) { r with rcv := r.rcv + xeN c.img * r.rsz } }

/-- A Prism command is dispatched (R315). An XRING word is a release at ring scope (R327). -/
def issuePrism (w : Instr) (f : Issue) (s : State) : State :=
  let c := templateCmd w f s
  let t := c.img
  let c := { c with
    reads := spExtents c.core (xeReads s c.core c.part t), writes := spExtents c.core (xeWrites s t), acls := xeCls t
    farWaits := if xeOp t = 8 ∨ xeOp t = 9 then coveredBy s f else []
    work := if xeOp t = 6 then targetOf s c else [] }
  let s := dispatch c [BitVec.ofNat 6 c.creg] f s
  if xeOp t = 6 then takeTarget s c else s

/-! Shared parts of the micro-operations. -/

/-- n bytes of the own scratchpad are read, or the command faults (R328). -/
def withBytes (s : State) (c : Cmd) (off n : Nat) (k : List Byte → State) : State :=
  match engGetSp s c off n with
  | .ok b => k b
  | a => stopAt s c engineFault a

/-- A command faults with XE_NODE (R328). -/
def nodeFault (s : State) (c : Cmd) (node : Nat) : State := engineFault s c 0xC05 (BitVec.ofNat 64 node)

/-- A command faults with XE_CHAN (R318, R328). -/
def chanFault (s : State) (c : Cmd) : State := engineFault s c 0xC02 (BitVec.ofNat 64 (xeChan c.img))

/-- Whether a live earlier command still has, or may have, a write to a node to make (R327). -/
def holdsNode (s : State) (o : Cmd) (node : Nat) : Bool :=
  match xeOp o.img with
  | 5 => o.phase != .finished && xeN o.img != 0 && ((ownSend s o).map (fun x => x.pnode == node)).getD false
  | 2 => o.phase != .finished && (o.work.isEmpty || o.list.contains (node : Int))
  | _ => false

/-- Whether an earlier Prism command of the core and class holds a node (R327). -/
def classHeld (s : State) (c : Cmd) (node : Nat) : Bool :=
  s.cmds.any (fun o =>
    o.core == c.core && o.cls == .prism && o.acls == c.acls && decide (o.disp < c.disp) && holdsNode s o node)

/-! XSORT (R316, R317). -/

/-- Fields of an assignment entry (R316). -/
def entExpert (x : Nat) : Nat := nbits x 35 24
def entToken (x : Nat) : Nat := nbits x 23 0
def entSlot (x : Nat) : Nat := nbits x 38 36

/-- The order of R317; entries that agree in it keep their input order. -/
def entKey (x : Nat) : Nat := entExpert x * 2 ^ 27 + entToken x * 8 + entSlot x

/-- An entry put behind every entry of a smaller or equal key. -/
def insertEnt (x : Nat) : List Nat → List Nat
  | [] => [x]
  | y :: rest => if entKey x < entKey y then x :: y :: rest else y :: insertEnt x rest

/-- Entries in the order of R317. -/
def sortEnts (l : List Nat) : List Nat := l.foldl (fun acc x => insertEnt x acc) []

/-- The entries of an input. -/
def sortInput (b : List Byte) : Nat → List Nat
  | 0 => []
  | n + 1 => leNat (b.take 8) :: sortInput (b.drop 8) n

/-- The valid entries of expert j. -/
def entsOf (l : List Nat) (j : Nat) : List Nat := l.filter (fun x => entExpert x == j)

/-- How many entries an expert with m of them keeps under a capacity (R317). -/
def keptOf (cap m : Nat) : Nat := if cap = 0 then m else min m cap

/-- Running sums before each element. -/
def sumsBefore : List Nat → Nat → List Nat
  | [], _ => []
  | n :: rest, a => a :: sumsBefore rest (a + n)

/-- The kept entries, those beyond the capacity, and the kept counts of sorted valid entries. -/
def sortSplit (e cap : Nat) (l : List Nat) : List Nat × List Nat × List Nat :=
  let per := (upFrom 0 e).map (entsOf l)
  (per.flatMap (fun x => x.take (keptOf cap x.length)), per.flatMap (fun x => x.drop (keptOf cap x.length)),
   per.map (fun x => keptOf cap x.length))

/-- One micro-operation of XSORT (R317). -/
def sortUop (s : State) (c : Cmd) : State :=
  let t := c.img
  let r := sortSplit (xeE t) (xeCap t) c.work
  let put (rows : List (Nat × List Byte)) : State := writeRows s c (rows.filter (fun p => !p.2.isEmpty)) (fun s => goOn s c (c.upc + 1))
  match c.upc with
  | 0 =>
    withBytes s c (xeLa t) (8 * (xeT t * xeK t)) (fun b =>
      let l := sortInput b (xeT t * xeK t)
      match ((upFrom 0 l.length).zip l).find? (fun p => decide (xeE t ≤ entExpert p.2) && entExpert p.2 != 0xFFF) with
      | some p => engineFault s c 0xC06 (BitVec.ofNat 64 p.1)
      | none => modCmd s c.id (fun c => { c with upc := 1, work := sortEnts (l.filter (fun x => entExpert x != 0xFFF)) }))
  | 1 => put [(xeLb t, r.1.flatMap (fun x => natBytes x 8))]
  | 2 => put [(xeLc t, r.2.2.flatMap (fun x => natBytes x 4)), (xeLd t, (sumsBefore r.2.2 0).flatMap (fun x => natBytes x 4))]
  | 3 => put [(xeLe t, r.2.1.flatMap (fun x => natBytes x 8))]
  | _ => finish s c 0 (r.2.1.length * 2 ^ 24 + r.1.length)

/-! Tensor channels (R318 to R322). -/

/-- The window end that a send channel knows, 0 before its receiver has sent one (R320). -/
def wendKnown (s : State) (chan : Nat) (x : SendCh) : Nat :=
  ((endOf s.known chan (identNo s x.part) x.pnode x.pchan).map (fun k => k.wend)).getD 0

/-- Whether a send channel's receiver has closed (R322). -/
def receiverClosed (s : State) (chan : Nat) (x : SendCh) : Bool :=
  (endOf s.known chan (identNo s x.part) x.pnode x.pchan).any (fun k => k.closed)

/-- A window end is sent to the sender of a receive channel; cmd is the command that waits for it. -/
def sendEnd (s : State) (chan : Nat) (r : RecvCh) (wend cmd : Nat) : State :=
  { s with
    nextId := s.nextId + 1
    net := { s.net with
      ends := s.net.ends ++ [⟨identNo s r.part, s.node, chan, r.pnode, r.pchan, wend, cmd, dieOf r.core, s.nextId⟩] } }

/-- XCH.OPEN (R318). -/
def openUop (s : State) (c : Cmd) : State :=
  let t := c.img
  let ch := xeChan t
  if xeDir t = 0 then
    if (kget s.sends ch).isSome then chanFault s c
    else if nodeRefuses s c.part (xePnode t) false then nodeFault s c (xePnode t)
    else finish { s with sends := kput s.sends ch ⟨c.core, c.part, xePnode t, xePchan t, xeLe t, 0⟩ } c 0 0
  else
    if (kget s.recvs ch).isSome then chanFault s c
    else if nodeRefuses s c.part (xePnode t) true then nodeFault s c (xePnode t)
    else
      let r : RecvCh := ⟨c.core, c.part, xePnode t, xePchan t, xeLa t, xeLf t, xeLe t, xeGa t, xeBq t == 1, xeBsid t, 0, 0, none⟩
      finish (sendEnd { s with recvs := kput s.recvs ch r } ch r (xeGa t) 0) c 0 0

/-- XCH.WIN (R322). -/
def winUop (s : State) (c : Cmd) : State :=
  let t := c.img
  match c.upc, ownRecv s c with
  | 0, none => chanFault s c
  | 0, some r =>
    if nodeRefuses s c.part r.pnode true then nodeFault s c r.pnode
    else
      let r := { r with wend := xeGa t }
      goOn (sendEnd { s with recvs := kput s.recvs (xeChan t) r } (xeChan t) r (xeGa t) c.id) c 1
  | _, _ => if s.net.ends.any (fun m => m.cmd == c.id) then s else finish s c 0 (xeGa t)

/-- Whether an earlier XCH.SEND of the channel has not completed (R320, R322). -/
def sendsBefore (s : State) (c : Cmd) : Bool :=
  s.cmds.any (fun o =>
    o.cls == .prism && xeOp o.img == 5 && o.core == c.core && xeChan o.img == xeChan c.img && decide (o.disp < c.disp))

/-- A command's records that have not been delivered. -/
def inFlight (s : State) (id : Nat) : List ChanRecord := s.net.records.filter (fun m => m.cmd == id)

/-- The record of micro-operation i + 1 of XCH.SEND (R320). -/
def sendRecord (s : State) (c : Cmd) (x : SendCh) : State :=
  let t := c.img
  let flying := !(inFlight s c.id).isEmpty
  if receiverClosed s (xeChan t) x then (if flying then s else engineFault s c 0xC03 (BitVec.ofNat 64 x.sof))
  else if wendKnown s (xeChan t) x < x.sof + x.rsz || classHeld s c x.pnode then s
  else if nodeRefuses s c.part x.pnode true then (if flying then s else nodeFault s c x.pnode)
  else
    match engGetSp s c (xeLa t + (c.upc - 1) * x.rsz) x.rsz with
    | .ok b =>
      let m : ChanRecord := ⟨identNo s c.part, s.node, xeChan t, x.pnode, x.pchan, x.sof, x.rsz, xeTag t, xeKind t, b, c.id,
        dieOf c.core, s.nextId⟩
      goOn { s with
        nextId := s.nextId + 1
        net := { s.net with records := s.net.records ++ [m] }
        sends := kput s.sends (xeChan t) { x with sof := x.sof + x.rsz } } c (c.upc + 1)
    | a => if flying then s else stopAt s c engineFault a

/-- XCH.SEND (R320). -/
def sendUop (s : State) (c : Cmd) : State :=
  match ownSend s c with
  | none => if c.upc = 0 then chanFault s c else s
  | some x =>
    if c.upc = 0 then (if nodeRefuses s c.part x.pnode false then nodeFault s c x.pnode else goOn s c 1)
    else if c.upc ≤ xeN c.img then (if sendsBefore s c then s else sendRecord s c x)
    else if (inFlight s c.id).isEmpty then finish s c 0 (xeN c.img * x.rsz)
    else s

/-- XCH.RECV (R322). Where its channel was not open at its dispatch it takes its target when it finds the channel open (DESIGN
CHOICE, log entry 100). -/
def recvUop (s : State) (c : Cmd) : State :=
  match ownRecv s c, c.work with
  | none, _ => if c.upc = 0 then chanFault s c else s
  | some _, [] => modCmd (takeTarget s c) c.id (fun x => { x with work := targetOf s c })
  | some r, target :: _ =>
    if target ≤ r.dlv then finish s c 0 target
    else if r.eos.isSome then finish s c 0xC83 r.dlv
    else goOn s c 1

/-- XCH.CLOSE (R322). -/
def closeUop (s : State) (c : Cmd) : State :=
  let ch := xeChan c.img
  if xeDir c.img = 0 then
    match ownSend s c with
    | none => chanFault s c
    | some x =>
      if sendsBefore s c then s
      else if nodeRefuses s c.part x.pnode true then nodeFault s c x.pnode
      else
        finish { s with
          sends := kdel s.sends ch, known := forgetEnd s.known ch (identNo s c.part) x, nextId := s.nextId + 1
          net := { s.net with
            closes := s.net.closes ++ [⟨identNo s c.part, s.node, ch, x.pnode, x.pchan, x.sof, dieOf c.core, s.nextId⟩] } }
          c 0 x.sof
  else
    match ownRecv s c with
    | none => chanFault s c
    | some r =>
      if nodeRefuses s c.part r.pnode true then nodeFault s c r.pnode
      else
        finish { s with
          recvs := kdel s.recvs ch, nextId := s.nextId + 1
          net := { s.net with
            rcloses := s.net.rcloses ++ [⟨identNo s c.part, s.node, ch, r.pnode, r.pchan, dieOf c.core, s.nextId⟩] } }
          c 0 r.dlv

/-! The uneven all-to-all (R323, R324, R329). -/

/-- What a command keeps once it has sent its row: 1, gerr, the peers' nodes and its counts. -/
def a2aPeers (c : Cmd) : List Nat := (c.work.drop 2).take (xeNpeer c.img)
def a2aCounts (c : Cmd) : List Nat := (c.work.drop 2).drop (xeNpeer c.img)

/-- The own count row of a command for a peer, by its node and index. -/
def ownRow (s : State) (c : Cmd) (dst peer : Nat) : CountRow :=
  let t := c.img
  ⟨identNo s c.part, s.node, dst, xeGtag t, xeSeq t, xeNpeer t, xeMe t, nth c.work 1 == 1, a2aCounts c, xeLd t, xeLf t, c.core,
   xeGa t, peer, dieOf c.core, s.nextId⟩

/-- Whether a row or piece belongs to a command's exchange. -/
def ofExchange (s : State) (c : Cmd) (ident gtag seq : Nat) : Bool :=
  ident == identNo s c.part && gtag == xeGtag c.img && seq == xeSeq c.img

/-- Whether a row is the command's own, sent to another member of its node. -/
def isOwnRow (s : State) (c : Cmd) (r : CountRow) : Bool := r.src == s.node && r.core == c.core && r.me == xeMe c.img

/-- Whether a row of a command's exchange is sent to it: it names the command's index, or no other member of this node has
the index that it names (R323, R399). -/
def rowMine (s : State) (c : Cmd) (r : CountRow) : Bool :=
  ofExchange s c r.ident r.gtag r.seq && !isOwnRow s c r &&
  (r.peer == xeMe c.img || !s.cmds.any (fun d =>
    d.id != c.id && d.cls == .prism && xeOp d.img == 2 && ofExchange s d r.ident r.gtag r.seq && xeMe d.img == r.peer))

/-- The row of peer p on a node: the one that names p as its member, else, when every peer of that node has sent one, one that
disagrees (R323). -/
def rowFrom (s : State) (c : Cmd) (node p : Nat) : Option CountRow :=
  let l := s.heldRows.filter (fun r => rowMine s c r && r.src == node)
  let peers := (((upFrom 0 (xeNpeer c.img)).zip (a2aPeers c)).filter (fun q => q.1 != xeMe c.img && q.2 == node)).length
  match l.find? (fun r => r.me == p) with
  | some r => some r
  | none => if peers ≤ l.length then l.head? else none

/-- The rows of a command's exchange in peer order, none while one is still to come. -/
def a2aRows (s : State) (c : Cmd) : Option (List CountRow) :=
  ((upFrom 0 (xeNpeer c.img)).zip (a2aPeers c)).foldr (fun p acc =>
    match acc with
    | none => none
    | some l =>
      if p.1 = xeMe c.img then some (ownRow s c s.node p.1 :: l)
      else
        match rowFrom s c p.2 p.1 with
        | none => none
        | some r => some (r :: l)) (some [])

/-- Whether the rows of an exchange agree (R323). -/
def rowsAgree (npeer : Nat) (l : List CountRow) : Bool :=
  ((upFrom 0 l.length).zip l).all (fun p => !p.2.gerr && p.2.npeer == npeer && p.2.me == p.1)

/-- cnt[s][r] for every s. -/
def columnOf (l : List CountRow) (r : Nat) : List Nat := l.map (fun x => nth x.counts r)

/-- Whether some receiver's buffer is too small (R323). -/
def overCapacity (l : List CountRow) : Bool :=
  ((upFrom 0 l.length).zip l).any (fun p => decide (p.2.lf < (columnOf l p.1).sum))

/-- An exchange is over for this member: the rows that it held are dropped, and those of another member of its node stay. -/
def endExchange (s : State) (c : Cmd) (code value : Nat) : State :=
  finish { s with heldRows := s.heldRows.filter (fun r => !rowMine s c r) } c code value

/-- Micro-operation 0 before the rows are sent: the checks, the binding of the barrier, and the sending (R323). -/
def a2aSend (s : State) (c : Cmd) : State :=
  let t := c.img
  let np := xeNpeer t
  withBytes s c (xeLa t) (4 * np) (fun la => withBytes s c (xeLb t) (4 * np) (fun lb =>
    let peers := (countsOf la np).map (fun n => n % 2 ^ 16)
    let counts := countsOf lb np
    let others := ((upFrom 0 np).zip peers).filter (fun p => p.1 != xeMe t)
    match (if xeN t < counts.sum then some (0xC07, counts.sum) else none),
        (partOf s c.part).bind (fun p => (bindError p (xeGa t)).map (fun e => (e, xeGa t))),
        (others.map (fun p => p.2)).find? (fun n => nodeRefuses s c.part n true) with
    | some (code, v), _, _ | none, some (code, v), _ => engineFault s c code (BitVec.ofNat 64 v)
    | none, none, some n => nodeFault s c n
    | none, none, none =>
      let c := { c with
        work := [1, if nth peers (xeMe t) = s.node then 0 else 1] ++ peers ++ counts
        list := ((((upFrom 0 np).zip (peers.zip counts)).filter (fun p => p.1 != xeMe t && p.2.2 != 0)).map
          (fun p => (p.2.1 : Int))) }
      modCmd { touchBlock s c.part (xeGa t) with
          nextId := s.nextId + 1
          net := { s.net with rows := s.net.rows ++ others.map (fun p => ownRow s c p.2 p.1) } } c.id
        (fun x => { x with work := c.work, list := c.list })))

/-- Micro-operation 1: the post to the own barrier and the receive table (R323). -/
def a2aPost (s : State) (c : Cmd) (l : List CountRow) : State :=
  let t := c.img
  let col := columnOf l (xeMe t)
  let table := (col.zip (sumsBefore col 0)).flatMap (fun p => natBytes p.1 4 ++ natBytes p.2 4)
  match partOf s c.part with
  | none => s
  | some p =>
    if (barrierAt p (xeGa t)).pz && isBarrier p (xeGa t) then engineFault s c 0xB04 (BitVec.ofNat 64 (xeGa t))
    else if !isBarrier p (xeGa t) then engineFault s c 0xB02 (BitVec.ofNat 64 (xeGa t))
    else if (countError s c.part (xeGa t)).isSome then engineFault s c 8 (BitVec.ofNat 64 (xeGa t))
    else if countHeld s c then s
    else writeRows s c [(xeLe t, table)] (fun s => goOn (postBytes s c.part (xeGa t) col.sum) c 2)

/-- A command's pieces that have not arrived. -/
def piecesFlying (s : State) (id : Nat) : Bool := s.net.pieces.any (fun m => m.cmd == id)

/-- Micro-operation 2 + r: the piece for peer r; one piece is under way at a time (log entry 21). -/
def a2aPiece (s : State) (c : Cmd) (l : List CountRow) (r : Nat) : State :=
  let t := c.img
  let counts := a2aCounts c
  let n := nth counts r
  let node := if r = xeMe t then s.node else nth (a2aPeers c) r
  let row := l.getD r default
  if piecesFlying s c.id then s
  else if n = 0 then goOn s c (c.upc + 1)
  else if (r != xeMe t && classHeld s c node) || (r == xeMe t && countHeld s c) then s
  else
    withBytes s c (xeLc t + (counts.take r).sum) n (fun b =>
      let m : Piece := ⟨identNo s c.part, s.node, node, xeGtag t, xeSeq t, xeMe t, row.core,
        row.ld + ((columnOf l r).take (xeMe t)).sum, row.bar, b, false, c.id, dieOf c.core, s.nextId⟩
      goOn { s with nextId := s.nextId + 1, net := { s.net with pieces := s.net.pieces ++ [m] } } c (c.upc + 1))

/-- One micro-operation of XA2A (R323). -/
def a2aUop (s : State) (c : Cmd) : State :=
  if c.work.isEmpty then a2aSend s c
  else
    match a2aRows s c with
    | none => s
    | some l =>
      let np := xeNpeer c.img
      if c.upc = 0 then
        if !rowsAgree np l then endExchange s c 0xC82 0
        else if overCapacity l then endExchange s c 0xC81 0
        else goOn s c 1
      else if c.upc = 1 then a2aPost s c l
      else if c.upc < np + 2 then a2aPiece s c l (c.upc - 2)
      else if piecesFlying s c.id then s
      else endExchange s c 0 (a2aCounts c).sum

/-! The ring (R325). -/

/-- The ring operation of an identity, group tag and sequence. -/
def ringAt (s : State) (ident gtag seq : Nat) : RingOp :=
  (s.rings.find? (fun r => r.ident == ident && r.gtag == gtag && r.seq == seq)).getD ⟨ident, gtag, seq, [], []⟩

/-- A ring operation stored; one that holds nothing is not listed. -/
def putRing (s : State) (r : RingOp) : State :=
  let rest := s.rings.filter (fun x => !(x.ident == r.ident && x.gtag == r.gtag && x.seq == r.seq))
  { s with rings := if r.headers.isEmpty && r.chunks.isEmpty then rest else rest ++ [r] }

/-- The ring operation of a command. -/
def ringOf (s : State) (c : Cmd) : RingOp := ringAt s (identNo s c.part) (xeGtag c.img) (xeSeq c.img)

/-- A message to the next position of the ring. -/
def sendRing (s : State) (m : RingMsg) : State := { s with net := { s.net with rings := s.net.rings ++ [m] } }

/-- The header of a command. -/
def ringHeader (s : State) (c : Cmd) : RingHeader := ⟨s.q, xeOp c.img == 8, xeN c.img, xeEtype c.img⟩

/-- A chunk sent on with the number of members it holds. -/
def chunkMsg (s : State) (c : Cmd) (j hops : Nat) (data : List (BitVec 32)) : RingMsg :=
  ⟨identNo s c.part, (s.q + 1) % s.rg, xeGtag c.img, xeSeq c.img, none, j, hops, data⟩

/-- n elements of bytes, as patterns. -/
def patternsOf (es : Nat) (b : List Byte) : Nat → List Nat
  | 0 => []
  | n + 1 => leNat (b.take es) :: patternsOf es (b.drop es) n

/-- The node of the next member of the ring, where no partition of it holds the command's identity (R319). -/
def ringRefused (s : State) (c : Cmd) : Option Nat :=
  let n := Config.ringNext s.rg s.q
  if s.rg = 1 ∨ ((partOf s c.part).bind (fun p => p.dpart)).any (fun d => (partnerOf s n).holds.contains d) = true then none else some n

/-- A micro-operation that sends to the next member of the ring faults where no partition holds the identity there (R319). -/
def ringSend (s : State) (c : Cmd) (act : State → State) : State :=
  match ringRefused s c with
  | some n => nodeFault s c n
  | none => act s

/-- A round of headers: the own header is sent, and every member's is awaited (R325). -/
def ringHeaders (s : State) (c : Cmd) : State :=
  let h := ringHeader s c
  let op := ringOf s c
  if s.rg = 0 || (s.rg != 1 && (((partOf s c.part).bind (fun p => p.dpart)).isNone)) then nodeFault s c s.node
  else if c.work.isEmpty then
    ringSend s c (fun s =>
    let s := putRing s { op with headers := kput op.headers s.q h }
    let s := if s.rg = 1 then s
      else sendRing s ⟨identNo s c.part, (s.q + 1) % s.rg, xeGtag c.img, xeSeq c.img, some h, 0, 1, []⟩
    modCmd s c.id (fun c => { c with work := [1] }))
  else if op.headers.length < s.rg then s
  else if op.headers.all (fun x => x.2.scatter == h.scatter && x.2.n == h.n && x.2.etype == h.etype) then goOn s c 1
  else finish (putRing s { op with headers := [], chunks := [] }) c 0xC82 0

/-- A ring operation is over for this member. -/
def endRing (s : State) (c : Cmd) (bytes : Nat) : State :=
  finish (putRing s { ringOf s c with headers := [], chunks := [] }) c 0 bytes

/-- Micro-operation k of XRING.RS: the own elements of one chunk are added, and the sum goes on or is written (R325). -/
def scatterUop (s : State) (c : Cmd) (k : Nat) : State :=
  let t := c.img
  let es := ringEs t
  let j := (s.q + 2 * s.rg - k) % s.rg
  let ch := chunkOf s.rg (xeN t) j
  let op := ringOf s c
  let sum (own : List Nat) (held : Option (List (BitVec 32))) : List Num :=
    match held with
    | none => own.map (fun v => rne32 (decNum (xeEtype t) v))
    | some l => (own.zip l).map (fun p => rne32 ((decFloat fp32 p.2.toNat).add (decNum (xeEtype t) p.1)))
  let act (held : Option (List (BitVec 32))) (s : State) : State :=
    withBytes s c (xeLa t + ch.1 * es) (ch.2 * es) (fun b =>
      let l := sum (patternsOf es b ch.2) held
      let drop (s : State) : State := putRing s { op with chunks := kdel op.chunks j }
      if k = s.rg then
        let out := l.flatMap (fun x => natBytes (rnd x (xeEtype t) 0 false Rand.zero) es)
        let done (s : State) : State := goOn (drop s) c (k + 1)
        if out.isEmpty then done s else writeRows s c [(xeLb t, out)] done
      else
        let data := l.map (fun x => BitVec.ofNat 32 (rndFloat x fp32 0 false Rand.zero))
        ringSend s c (fun s => goOn (sendRing (drop s) (chunkMsg s c j k data)) c (k + 1)))
  if k = 1 then act none s
  else
    match kget op.chunks j with
    | none => s
    | some l => act (some l) s

/-- Micro-operation k of XRING.AG: one chunk is written and goes on (R325). -/
def gatherUop (s : State) (c : Cmd) (k : Nat) : State :=
  let t := c.img
  let es := ringEs t
  let j := (s.q + 2 * s.rg + 1 - k) % s.rg
  let ch := chunkOf s.rg (xeN t) j
  let op := ringOf s c
  let act (data : List (BitVec 32)) : State :=
    let done (s : State) : State :=
      let s := putRing s { op with chunks := kdel op.chunks j }
      goOn (if k < s.rg then sendRing s (chunkMsg s c j k data) else s) c (k + 1)
    let write (s : State) : State :=
      if data.isEmpty then done s
      else writeRows s c [(xeLb t + ch.1 * es, data.flatMap (fun x => natBytes x.toNat es))] done
    if k < s.rg then ringSend s c write else write s
  if k = 1 then
    withBytes s c (xeLa t) (ch.2 * es) (fun b => act ((patternsOf es b ch.2).map (BitVec.ofNat 32)))
  else
    match kget op.chunks j with
    | none => s
    | some l => act l

/-- One micro-operation of a ring command. -/
def ringUop (s : State) (c : Cmd) : State :=
  let es := ringEs c.img
  if c.upc = 0 then ringHeaders s c
  else if xeOp c.img = 8 then
    (if c.upc ≤ s.rg then scatterUop s c c.upc else endRing s c ((chunkOf s.rg (xeN c.img) s.q).2 * es))
  else (if c.upc ≤ s.rg then gatherUop s c c.upc else endRing s c (xeN c.img * es))

/-! XSTAT (R325). -/

/-- XSTAT. -/
def statUop (s : State) (c : Cmd) : State :=
  match xeSel c.img with
  | 0 => finish s c 0 (s.node % 2 ^ 16 * 2 ^ 32 + s.rg % 2 ^ 8 * 2 ^ 24 + s.q % 2 ^ 8 * 2 ^ 16)
  | 4 => finish s c 0 s.units.links.toNat
  | 3 =>
    match ownRecv s c with
    | none => chanFault s c
    | some r => finish s c 0 r.dlv
  | n =>
    match ownSend s c with
    | none => chanFault s c
    | some x => finish s c 0 (if n = 1 then x.sof else wendKnown s (xeChan c.img) x)

/-- One micro-operation of a Prism command. -/
def prismUop (s : State) (c : Cmd) : State :=
  match xeOp c.img with
  | 1 => sortUop s c
  | 2 => a2aUop s c
  | 3 => openUop s c
  | 4 => winUop s c
  | 5 => sendUop s c
  | 6 => recvUop s c
  | 7 => closeUop s c
  | 8 | 9 => ringUop s c
  | _ => statUop s c

/-! Arrivals. A message of this device leaves net when it arrives: at its channel or member here, or at another device.
A message from another device is the event's own. -/

/-- A record is not delivered: it and the records behind it are taken back, and its command faults at its
micro-operation (R320, R322, R328). -/
def failRecord (s : State) (m : ChanRecord) (code : Nat) (v : Word) : State :=
  let back (x : ChanRecord) : Bool := x.src == m.src && x.schan == m.schan && x.cmd == m.cmd && decide (m.off ≤ x.off)
  let n := (s.net.records.filter back).length
  let s := { s with
    net := { s.net with records := s.net.records.filter (fun x => !back x) }
    sends := kmod s.sends m.schan (fun x => { x with sof := m.off }) }
  match cmdOf s m.cmd with
  | none => s
  | some c =>
    let c := { c with upc := c.upc - n }
    engineFault (modCmd s c.id (fun x => { x with upc := c.upc })) c code v

/-- The first message of a path, so that bytes from one Prism to one channel arrive in order (R313). -/
def firstRecord (s : State) (m : ChanRecord) : Bool :=
  s.net.records.find? (fun x => x.schan == m.schan && x.dst == m.dst) == some m

/-- The entry that a channel record makes (R321, R368). -/
def channelEntry (s : State) (r : RecvCh) (m : ChanRecord) : Entry :=
  ⟨m.tag, r.bsid, m.kind, s.tsc, srcPrism (dieOf r.core), none, false, 0, 0, false⟩

/-- Whether a receive channel can take a record now (R321). -/
def recvReady (s : State) (r : RecvCh) (m : ChanRecord) : Bool :=
  !coreSaved s r.core &&
  (!r.bq || (match partOf s r.part with
    | none => false
    | some p => mayEnter p (channelEntry s r m)))

/-- A record is written to its ring and counted, and enters its arrival queue (R321). -/
def takeRecord (s : State) (r : RecvCh) (m : ChanRecord) : State :=
  let s := locWrite s (.sp r.core (r.la + m.off % r.rlen)) m.data
  let s := { s with recvs := kput s.recvs m.rchan { r with dlv := r.dlv + r.rsz } }
  if r.bq then modPart s r.part (fun p => admitEntry p (channelEntry s r m)) else s

/-- Whether a record is one that a receive channel takes (R319, R320). -/
def recordFits (s : State) (r : RecvCh) (m : ChanRecord) : Bool :=
  identNo s r.part == m.ident && r.pnode == m.src && r.pchan == m.schan && r.rsz == m.rsz && m.data.length == m.rsz

/-- A record of this device without its message. -/
def dropRecord (s : State) (m : ChanRecord) : State :=
  { s with net := { s.net with records := s.net.records.filter (fun x => x != m) } }

/-- Whether a record waits at its sender, since its receiver cannot take it now (R321). -/
def recordWaits (s : State) (m : ChanRecord) : Bool :=
  if m.dst = s.node then (kget s.recvs m.rchan).any (fun r => recordFits s r m && !recvReady s r m)
  else (partnerOf s m.dst).waits.contains m.rchan

/-- Whether an issued XA2A awaits a row. -/
def rowAwaited (s : State) (m : CountRow) : Bool :=
  s.cmds.any (fun c => c.cls == .prism && xeOp c.img == 2 && ofExchange s c m.ident m.gtag m.seq)

/-- Whether a row is refused, and will be sent again: the four Prisms together hold four times 4,096 early rows (R153, R323; log
entry 22). -/
def rowRefused (s : State) (m : CountRow) : Bool :=
  m.dst == s.node && !rowAwaited s m && decide (4 * Config.rowDepth ≤ (s.heldRows.filter (fun r => !rowAwaited s r)).length)

/-- Whether a message of this device must let an earlier one of its Prism arrive first: bytes from one Prism to one node arrive in
the order in which they were sent, and what waits at its sender has not been sent (R313, R321). -/
def pathHeld (s : State) (prism dst sent : Nat) : Bool :=
  let early (p d n : Nat) : Bool := p == prism && d == dst && decide (n < sent)
  s.net.records.any (fun x => early x.prism x.dst x.sent && !recordWaits s x)
  || s.net.ends.any (fun x => early x.prism x.dst x.sent) || s.net.closes.any (fun x => early x.prism x.dst x.sent)
  || s.net.rcloses.any (fun x => early x.prism x.dst x.sent)
  || s.net.rows.any (fun x => early x.prism x.dst x.sent && !rowRefused s x)
  || s.net.pieces.any (fun x => early x.prism x.dst x.sent)

/-- Whether a message can arrive: it is this device's own and nothing before it is under way, or it comes from another device, and
its port is up. -/
def mayArrive (s : State) (own : Bool) (src dst prism sent : Nat) : Bool :=
  pathUp s own src dst && (if own then !pathHeld s prism dst sent else src != s.node && dst == s.node)

/-- CHANNEL_RECORD_DELIVERY: a record arrives at its channel (R321). One from another device arrives in stream order. -/
def execChannelRecordDelivery (m : ChanRecord) (s : State) : Host.Outcome State Fault Refusal :=
  let own := firstRecord s m
  .next (if !mayArrive s own m.src m.dst m.prism m.sent then s
    else
      let s := crossed s own m.src m.dst
      if m.dst ≠ s.node then
        if recordWaits s m then s
        else if (partnerOf s m.dst).refuses.contains m.rchan then failRecord s m 0xC02 (BitVec.ofNat 64 m.schan) else dropRecord s m
      else
        match kget s.recvs m.rchan with
        | none => if own then failRecord s m 0xC03 (BitVec.ofNat 64 m.off) else s
        | some r =>
          if !recordFits s r m then (if own then failRecord s m 0xC02 (BitVec.ofNat 64 m.schan) else s)
          else if !recvReady s r m || (!own && m.off != r.dlv) then s
          else takeRecord (if own then dropRecord s m else s) r m)

/-- Whether a send channel is open here to a receiver of an identity (R319, R320). -/
def sendsTo (s : State) (schan ident src rchan : Nat) : Bool :=
  (kget s.sends schan).any (fun x => identNo s x.part == ident && x.pnode == src && x.pchan == rchan)

/-- WINDOW_END_ARRIVAL: a window end reaches the sender's Prism, where it is that of its own receiver alone (R319, R320, R322). -/
def execWindowEndArrival (m : WindowEnd) (s : State) : Host.Outcome State Fault Refusal :=
  let own := s.net.ends.find? (fun x => x.rchan == m.rchan && x.dst == m.dst) == some m
  .next (if !mayArrive s own m.src m.dst m.prism m.sent then s
    else
      let s := { crossed s own m.src m.dst with
        net := { s.net with ends := if own then s.net.ends.erase m else s.net.ends } }
      if m.dst = s.node ∧ (partByIdent s m.ident).isSome then
        let old := endOf s.known m.schan m.ident m.src m.rchan
        { s with
          known := putEnd s.known ⟨m.schan, m.ident, m.src, m.rchan, m.wend, false,
            sendsTo s m.schan m.ident m.src m.rchan && old.any (fun k => k.closed || k.again)⟩ }
      else s)

/-- CLOSE_NOTICE_ARRIVAL: a sender's close reaches the receiver behind its last record (R322). -/
def execCloseNoticeArrival (m : CloseNotice) (s : State) : Host.Outcome State Fault Refusal :=
  let own := s.net.closes.contains m
  .next (if !mayArrive s own m.src m.dst m.prism m.sent
      || s.net.records.any (fun x => x.src == m.src && x.schan == m.schan && x.dst == m.dst) then s
    else
      let s := { crossed s own m.src m.dst with
        net := { s.net with closes := if own then s.net.closes.erase m else s.net.closes } }
      match (if m.dst = s.node then kget s.recvs m.rchan else none) with
      | none => s
      | some r =>
        if identNo s r.part = m.ident ∧ r.pnode = m.src ∧ r.pchan = m.schan then
          { s with recvs := kput s.recvs m.rchan { r with eos := some m.final } }
        else s)

/-- RECEIVER_CLOSE_ARRIVAL: records still under way to a closed channel fault at their sender, which is of the receiver's identity
(R319, R322). -/
def execReceiverCloseArrival (m : ReceiverClose) (s : State) : Host.Outcome State Fault Refusal :=
  let own := s.net.rcloses.contains m
  .next (if !mayArrive s own m.src m.dst m.prism m.sent
      || s.net.ends.any (fun x => x.src == m.src && x.rchan == m.rchan && x.dst == m.dst) then s
    else
      let s := { crossed s own m.src m.dst with
        net := { s.net with rcloses := if own then s.net.rcloses.erase m else s.net.rcloses } }
      if m.dst ≠ s.node ∨ (partByIdent s m.ident).isNone then s
      else
        let old := (endOf s.known m.schan m.ident m.src m.rchan).getD ⟨m.schan, m.ident, m.src, m.rchan, 0, true, false⟩
        let s := { s with known := putEnd s.known { old with closed := true } }
        match s.net.records.find? (fun x => x.ident == m.ident && x.schan == m.schan && x.dst == m.src && x.rchan == m.rchan) with
        | some x => failRecord s x 0xC03 (BitVec.ofNat 64 x.off)
        | none => s)

/-- COUNT_ROW_ARRIVAL: a row reaches a member, and is held until it has issued its XA2A (R323). -/
def execCountRowArrival (m : CountRow) (s : State) : Host.Outcome State Fault Refusal :=
  let own := s.net.rows.contains m
  .next (if !mayArrive s own m.src m.dst m.prism m.sent then s
    else if rowRefused s m then s
    else
      let s := { crossed s own m.src m.dst with
        net := { s.net with rows := if own then s.net.rows.erase m else s.net.rows } }
      if m.dst = s.node ∧ (partByIdent s m.ident).isSome then { s with heldRows := s.heldRows ++ [m] } else s)

/-- A piece is written at its member's buffer and then counted at its barrier, unless the barrier refuses counts, as one whose
variables a failed fetch has poisoned does too (DESIGN CHOICE, log entry 101); one that
faulted after it was counted in part poisons the barrier (R323, R324). -/
def takePiece (s : State) (part : Nat) (m : Piece) : State :=
  let s := locWrite s (.sp m.core m.off) m.data
  let s := if refusesCounts s part m.bar || (countError s part m.bar).isSome || !((partOf s part).map (fun p => isBarrier p m.bar)).getD false then s
    else countBytes s part m.bar m.data.length
  if m.fail then failBarrier s part m.bar else s

/-- Whether a piece of this device must wait for what its command's edges put before its bytes (R156). -/
def pieceHeld (s : State) (m : Piece) : Bool :=
  m.dst == s.node && (cmdOf s m.cmd).any (fun c => landHeld s c (.sp m.core m.off) m.data.length)

/-- Whether a command's piece under way is its own share, which no other member waits for (R323, R327). -/
def ownShare (c : Cmd) : Bool := c.upc == xeMe c.img + 3

/-- XA2A_PIECE_ARRIVAL: a piece arrives at its receiver; the piece of another member no longer holds its node (R156, R323, R327). -/
def execXa2aPieceArrival (m : Piece) (s : State) : Host.Outcome State Fault Refusal :=
  let own := s.net.pieces.contains m
  .next (if !mayArrive s own m.src m.dst m.prism m.sent || (own && pieceHeld s m) then s
    else
      let s := { crossed s own m.src m.dst with
        net := { s.net with pieces := if own then s.net.pieces.erase m else s.net.pieces } }
      let s := if own then
          modCmd s m.cmd (fun c => { c with list := if ownShare c then c.list else c.list.erase (m.dst : Int) })
        else s
      match (if m.dst = s.node then partByIdent s m.ident else none) with
      | none => s
      | some part => if m.off + m.data.length ≤ Config.spBytes then takePiece s part m else s)

/-- RING_CHUNK_ARRIVAL: a header or a chunk passes from one position to the next (R325). A header goes on until it has
reached every member. -/
def execRingChunkArrival (m : RingMsg) (s : State) : Host.Outcome State Fault Refusal :=
  let own := s.net.rings.head? == some m
  .next (if s.rg = 0 || portState s (if own then 7 else 6) == 0 || !(own || m.dst == s.q) then s
    else
      let s := { s with
        crc := kdel s.crc (if own then 7 else 6)
        net := { s.net with rings := if own then s.net.rings.drop 1 else s.net.rings } }
      if m.dst ≠ s.q ∨ (partByIdent s m.ident).isNone then s
      else
        let op := ringAt s m.ident m.gtag m.seq
        match m.header with
        | some h =>
          let s := putRing s { op with headers := kput op.headers h.member h }
          if (s.q + 1) % s.rg = h.member then s else sendRing s { m with dst := (s.q + 1) % s.rg, hops := m.hops + 1 }
        | none => putRing s { op with chunks := kput op.chunks m.chunk m.data })

/-! Links (R313). -/

/-- TRADON_CRC_REPLAY: a group fails its CRC and is replayed, and the health monitor counts it (R313, R415). -/
def execTradonCrcReplay (port : Nat) (s : State) : Host.Outcome State Fault Refusal :=
  .next (if 8 ≤ port || portState s port == 0 then s
    else { healthEvent s 2 (srcPort port) with crc := kput s.crc port (kgetD s.crc port 0 + 1) })

/-- The links field of a port set. -/
def setPort (s : State) (p v : Nat) : State :=
  let l := s.units.links.toNat
  { s with units := { s.units with links := BitVec.ofNat 16 (l - l / 4 ^ p % 4 * 4 ^ p + v * 4 ^ p) } }

/-- A running command faults with XE_LINK at the micro-operation of its traffic (R313, R328). -/
def linkFault (port : Nat) (s : State) (id upc : Nat) : State :=
  match cmdOf s id with
  | none => s
  | some c =>
    if c.phase = .running then
      engineFault (modCmd s id (fun c => { c with upc := upc })) { c with upc := upc } 0xC04 (BitVec.ofNat 64 (srcPort port))
    else s

/-- The commands whose bytes are on a port fault (R313). Records, window ends and pieces are sent again after ERET; rows and
ring messages wait for the port (R323). -/
def loseTraffic (s : State) (port : Nat) : State :=
  let on (n : Nat) : Bool := n != s.node && portTo s n == port
  let chans := ((s.net.records.filter (fun m => on m.dst)).map (fun m => m.schan)).foldl insertNat []
  let s := chans.foldl (fun s ch =>
    match s.net.records.find? (fun m => m.schan == ch && on m.dst) with
    | some m => failRecord s m 0xC04 (BitVec.ofNat 64 (srcPort port))
    | none => s) s
  let ends := s.net.ends.filter (fun m => on m.dst && m.cmd != 0)
  let s := { s with net := { s.net with ends := s.net.ends.filter (fun m => !ends.contains m) } }
  let s := ends.foldl (fun s m => linkFault port s m.cmd 0) s
  let pieces := s.net.pieces.filter (fun m => on m.dst)
  let s := { s with net := { s.net with pieces := s.net.pieces.filter (fun m => !pieces.contains m) } }
  let s := pieces.foldl (fun s m => linkFault port s m.cmd (((cmdOf s m.cmd).map (fun c => c.upc)).getD 1 - 1)) s
  let exchanges := s.cmds.filter (fun c =>
    c.cls == .prism && xeOp c.img == 2 && s.net.rows.any (fun m => on m.dst && ofExchange s c m.ident m.gtag m.seq))
  let rings := s.cmds.filter (fun c =>
    c.cls == .prism && (xeOp c.img == 8 || xeOp c.img == 9) && port == 7 &&
    s.net.rings.any (fun m => ofExchange s c m.ident m.gtag m.seq))
  (exchanges ++ rings).foldl (fun s c => linkFault port s c.id c.upc) s

/-- LINK_DOWN: a port that has failed eight replays of one group in a row goes down (R313). -/
def execLinkDown (port : Nat) (s : State) : Host.Outcome State Fault Refusal :=
  .next (if 8 ≤ port || portState s port == 0 || decide (kgetD s.crc port 0 < 8) then s
    else { loseTraffic (setPort s port 0) port with crc := kdel s.crc port })

/-- LINK_RETRAIN: a port that was down comes back at 32, 16 or 8 lanes, and the health monitor counts it (R313, R405, R415). -/
def execLinkRetrain (port lanes : Nat) (s : State) : Host.Outcome State Fault Refusal :=
  .next (if 8 ≤ port || portState s port != 0 then s
    else if lanes = 8 then setPort (healthEvent s 3 (srcPort port)) port 1
    else if lanes = 16 then setPort (healthEvent s 3 (srcPort port)) port 2
    else if lanes = 32 then setPort (healthEvent s 3 (srcPort port)) port 3
    else s)

/-! The words (R315). -/

/-- XSORT (R317). -/
def execXsort (tpl : BitVec 6) (fsel : BitVec 6) (value : BitVec 16) (s : State) : Host.Outcome State Fault Refusal :=
  issueWord (.xsort tpl fsel value) (prismFault (.xsort tpl fsel value)) (issuePrism (.xsort tpl fsel value)) s

/-- XA2A (R323). -/
def execXa2a (tpl : BitVec 6) (fsel : BitVec 6) (value : BitVec 16) (s : State) : Host.Outcome State Fault Refusal :=
  issueWord (.xa2a tpl fsel value) (prismFault (.xa2a tpl fsel value)) (issuePrism (.xa2a tpl fsel value)) s

/-- XCH.OPEN (R318). -/
def execXchOpen (tpl : BitVec 6) (fsel : BitVec 6) (value : BitVec 16) (s : State) : Host.Outcome State Fault Refusal :=
  issueWord (.xchOpen tpl fsel value) (prismFault (.xchOpen tpl fsel value)) (issuePrism (.xchOpen tpl fsel value)) s

/-- XCH.WIN (R322). -/
def execXchWin (tpl : BitVec 6) (fsel : BitVec 6) (value : BitVec 16) (s : State) : Host.Outcome State Fault Refusal :=
  issueWord (.xchWin tpl fsel value) (prismFault (.xchWin tpl fsel value)) (issuePrism (.xchWin tpl fsel value)) s

/-- XCH.SEND (R320). -/
def execXchSend (tpl : BitVec 6) (fsel : BitVec 6) (value : BitVec 16) (s : State) : Host.Outcome State Fault Refusal :=
  issueWord (.xchSend tpl fsel value) (prismFault (.xchSend tpl fsel value)) (issuePrism (.xchSend tpl fsel value)) s

/-- XCH.RECV (R322). -/
def execXchRecv (tpl : BitVec 6) (fsel : BitVec 6) (value : BitVec 16) (s : State) : Host.Outcome State Fault Refusal :=
  issueWord (.xchRecv tpl fsel value) (prismFault (.xchRecv tpl fsel value)) (issuePrism (.xchRecv tpl fsel value)) s

/-- XCH.CLOSE (R322). -/
def execXchClose (tpl : BitVec 6) (fsel : BitVec 6) (value : BitVec 16) (s : State) : Host.Outcome State Fault Refusal :=
  issueWord (.xchClose tpl fsel value) (prismFault (.xchClose tpl fsel value)) (issuePrism (.xchClose tpl fsel value)) s

/-- XRING.RS (R325). -/
def execXringRs (tpl : BitVec 6) (fsel : BitVec 6) (value : BitVec 16) (s : State) : Host.Outcome State Fault Refusal :=
  issueWord (.xringRs tpl fsel value) (prismFault (.xringRs tpl fsel value)) (issuePrism (.xringRs tpl fsel value)) s

/-- XRING.AG (R325). -/
def execXringAg (tpl : BitVec 6) (fsel : BitVec 6) (value : BitVec 16) (s : State) : Host.Outcome State Fault Refusal :=
  issueWord (.xringAg tpl fsel value) (prismFault (.xringAg tpl fsel value)) (issuePrism (.xringAg tpl fsel value)) s

/-- XSTAT (R325). -/
def execXstat (tpl : BitVec 6) (fsel : BitVec 6) (value : BitVec 16) (s : State) : Host.Outcome State Fault Refusal :=
  issueWord (.xstat tpl fsel value) (prismFault (.xstat tpl fsel value)) (issuePrism (.xstat tpl fsel value)) s


end Sys2Proof.Machine
end

