-- ==== Sys2Proof/Machine/Sha3.lean ====
section
/-! DEFINITION. SHA3-256, the digest that names lines, measures firmware and signs measurements (R357, R412, R414). -/

namespace Sys2Proof.Machine

/-- Lane x + 5y of the 25 lanes of a state. -/
def lane (a : List Word) (i : Nat) : Word := a.getD i 0#64

/-- Rotation offsets of the lanes. -/
def rhoOffsets : List Nat :=
  [0, 1, 62, 28, 27, 36, 44, 6, 55, 20, 3, 10, 43, 25, 39, 41, 45, 15, 21, 8, 18, 2, 61, 56, 14]

/-- Round constants. -/
def iotaConstants : List Word :=
  [0x0000000000000001#64, 0x0000000000008082#64, 0x800000000000808A#64, 0x8000000080008000#64, 0x000000000000808B#64,
   0x0000000080000001#64, 0x8000000080008081#64, 0x8000000000008009#64, 0x000000000000008A#64, 0x0000000000000088#64,
   0x0000000080008009#64, 0x000000008000000A#64] ++
  [0x000000008000808B#64, 0x800000000000008B#64, 0x8000000000008089#64, 0x8000000000008003#64, 0x8000000000008002#64,
   0x8000000000000080#64, 0x000000000000800A#64, 0x800000008000000A#64, 0x8000000080008081#64, 0x8000000000008080#64,
   0x0000000080000001#64, 0x8000000080008008#64]

/-- The parity of column x. -/
def columnParity (a : List Word) (x : Nat) : Word :=
  lane a x ^^^ lane a (x + 5) ^^^ lane a (x + 10) ^^^ lane a (x + 15) ^^^ lane a (x + 20)

/-- One round of the permutation. -/
def keccakRound (a : List Word) (rc : Word) : List Word :=
  let c := (upFrom 0 5).map (columnParity a)
  let d := (upFrom 0 5).map (fun x => lane c ((x + 4) % 5) ^^^ (lane c ((x + 1) % 5)).rotateLeft 1)
  let b := (upFrom 0 25).map (fun i => (lane a i ^^^ lane d (i % 5)).rotateLeft (nth rhoOffsets i))
  -- lane (x, y) of the permuted state is lane ((x + 3y) mod 5, x) of b
  let p := (upFrom 0 25).map (fun i => lane b ((i % 5 + 3 * (i / 5)) % 5 + 5 * (i % 5)))
  (upFrom 0 25).map (fun i =>
    let y := 5 * (i / 5)
    let v := lane p i ^^^ (~~~(lane p (y + (i + 1) % 5)) &&& lane p (y + (i + 2) % 5))
    if i = 0 then v ^^^ rc else v)

/-- The permutation. -/
def keccak (a : List Word) : List Word := iotaConstants.foldl keccakRound a

/-- The message padded to whole blocks of 136 bytes. -/
def sha3Pad (m : List Byte) : List Byte :=
  let n := 136 - m.length % 136
  m ++ (if n = 1 then [0x86#8] else [0x06#8] ++ List.replicate (n - 2) 0#8 ++ [0x80#8])

/-- Blocks taken into the state. -/
def sha3Absorb : Nat → List Byte → List Word → List Word
  | 0, _, a => a
  | n + 1, m, a =>
    let b := m.take 136
    sha3Absorb n (m.drop 136)
      (keccak ((upFrom 0 25).map (fun i => if i < 17 then lane a i ^^^ leWord ((b.drop (8 * i)).take 8) else lane a i)))

/-- SHA3-256 of bytes: 32 bytes. -/
def sha3 (m : List Byte) : List Byte :=
  let p := sha3Pad m
  (sha3Absorb (p.length / 136) p (List.replicate 25 0#64)).take 4 |>.flatMap wordBytes

end Sys2Proof.Machine
end

