-- ==== Sys2Proof/Machine/Stash.lean ====
section
/-! DEFINITION. The stash engine: keys and pools, stored forms, the stash words and their micro-operations, and the blocks
of cz pages (R330 to R346). -/

namespace Sys2Proof.Machine

/-! Keys, descriptors and pools (R330, R331, R334, R336). -/

/-- Fields of a key. -/
def keyTag (k : Nat) : Nat := nbits k 63 48
def keySid (k : Nat) : Nat := nbits k 47 44

/-- The die whose stash engine holds a key's entry (R331). -/
def keyHome (k : Nat) : Nat := nbits k 49 48 ^^^ nbits k 33 32

/-- Fields of a source descriptor (R334). -/
def sdPol (d : Word) : Nat := wbits d 63 60
def sdQ (d : Word) : Bool := d.getLsbD 59
def sdPk (d : Word) : Bool := d.getLsbD 58
def sdEtype (d : Word) : Nat := wbits d 57 54
def sdRows (d : Word) : Nat := wbits d 53 42
def sdCols (d : Word) : Nat := wbits d 41 30
def sdOff (d : Word) : Nat := wbits d 19 0

/-- Fields of a destination descriptor (R336). -/
def ddTr (d : Word) : Bool := d.getLsbD 63
def ddNrow (d : Word) : Nat := wbits d 35 24
def ddOff (d : Word) : Nat := wbits d 19 0

/-- Element size of a stored tensor. -/
def stashEs (pk : Bool) (etype : Nat) : Nat := if pk then 1 else etWidth etype / 8

/-- The pitch of rows of n elements. -/
def pitchOf (n es : Nat) : Nat := 32 * cdiv (n * es) 32

/-- Bytes of the tensor that a descriptor names. -/
def sdSize (d : Word) : Nat := sdRows d * pitchOf (sdCols d) (stashEs (sdPk d) (sdEtype d))

/-- Whether a source descriptor is refused (R334). -/
def badSource (d : Word) (tr : Bool) : Bool :=
  let e := sdEtype d
  decide (4 < sdPol d) || (sdQ d && (sdPk d || (e == 2 || e == 3 || e == 4 || e == 9))) || (sdPk d && tr)
  || (!sdPk d && (e == 7 || e == 8 || decide (9 < e))) || sdRows d == 0 || sdCols d == 0 || wbits d 29 20 != 0
  || sdOff d % 32 != 0 || decide (Config.spBytes < sdOff d + sdSize d)

/-- Whether a destination descriptor is refused (R336). -/
def badDest (d : Word) : Bool :=
  wbits d 62 36 != 0 || wbits d 23 20 != 0 || ddNrow d == 0 || ddOff d % 32 != 0
  || decide (Config.spBytes < ddOff d + 256 * ddNrow d)

/-- Sizes of the tensor and of the transposed image of an entry (R334, R335). -/
def StashEntry.es (e : StashEntry) : Nat := stashEs e.pk e.etype
def StashEntry.size (e : StashEntry) : Nat := e.rows * pitchOf e.cols e.es
def StashEntry.turned (e : StashEntry) : Nat := if e.tr then e.cols * pitchOf e.rows e.es else 0

/-- Sizes of the 4 KiB blocks of n image bytes (R340). -/
def blockSizes (n : Nat) : List Nat := (upFrom 0 (cdiv n 4096)).map (fun i => min 4096 (n - 4096 * i))

/-- Sizes of all blocks of an entry, the tensor's first. -/
def StashEntry.sizes (e : StashEntry) : List Nat := blockSizes e.size ++ blockSizes e.turned

/-- The pool of a policy: 0 near, 1 H, 2 L (R335). -/
def poolOf (pol : Nat) : Nat := if pol < 2 then 0 else pol - 1

/-- Pool bytes that an entry holds on a die. -/
def StashEntry.holds (e : StashEntry) (die pool : Nat) : Nat :=
  if e.die = die then
    (if e.pol < 4 ∧ poolOf e.pol = pool then e.room else 0) + (if poolOf e.toPol = pool then e.toRoom else 0)
  else 0

/-- Bytes of a pool in use on a die. -/
def poolUsed (p : Partition) (die pool : Nat) : Nat := (p.stash.map (fun e => e.2.holds die pool)).sum

/-- Bytes of a pool on a die (R330). -/
def poolSize (p : Partition) (die pool : Nat) : Nat :=
  nth (if pool = 0 then p.poolNear else if pool = 1 then p.poolH else p.poolL) die

/-! Stored forms (R340). -/

/-- The form that a policy stores (R335). -/
def formOf (pol : Nat) (q pk : Bool) : Nat := if pol = 0 then 0 else if pk then 3 else if q then 2 else 1

/-- Lines of n bytes. -/
def linesOf (n : Nat) : Nat := cdiv n 256

/-- The lines of the worst case of a block of n image bytes in a form (R335): where all elements set need more than 16 lines, some
fewer of them fill 16. -/
def worstLines (fmt n es : Nat) : Nat :=
  let lines := linesOf (32 * cdiv (n / es) 256 + n)
  match fmt with
  | 0 => linesOf n
  | 2 => linesOf (packedCap (n / es) true)
  | _ => min 16 lines

/-- Elements of a block's bytes. -/
def elemsOf (es : Nat) : Nat → List Byte → List (List Byte)
  | 0, _ => []
  | n + 1, b => b.take es :: elemsOf es n (b.drop es)

/-- Whether an element's pattern is not all zero. -/
def liveElem (x : List Byte) : Bool := x.any (fun b => b != 0#8)

/-- The bitmap of a block's elements, padded to 32 bytes (R340). -/
def elemMap (l : List (List Byte)) : List Byte :=
  natBytes (((upFrom 0 l.length).zip l).foldl (fun n p => if liveElem p.2 then n + 2 ^ p.1 else n) 0) (32 * cdiv l.length 256)

/-- Form 1 of a block: nothing where no bit is set. -/
def sparseForm (es : Nat) (b : List Byte) : List Byte :=
  let l := elemsOf es (b.length / es) b
  if l.any liveElem then elemMap l ++ (l.filter liveElem).flatten else []

/-- Form 2 of a block: nothing where no bit is set (R340). -/
def packedForm (es etype : Nat) (b : List Byte) : List Byte :=
  let ne := b.length / es
  let data := packRow e4m3 0 true true ((elemsOf es ne b).map (fun x => decNum etype (leNat x)))
  if leNat ((data.drop (packedBlocks ne)).take (4 * packedBlocks ne)) = 0 then [] else data

/-- A block as its bytes in a form, at a line. -/
def blockAt (line fmt : Nat) (data : List Byte) : Block := ⟨⟨true, false, fmt, linesOf data.length, line⟩, data⟩

/-- A block in its stored form, at a line (R340, R341). -/
def storeForm (line fmt es etype : Nat) (b : List Byte) : Block :=
  match fmt with
  | 0 => blockAt line 0 b
  | 2 => blockAt line 2 (packedForm es etype b)
  | _ =>
    let data := sparseForm es b
    if 16 < linesOf data.length then blockAt line 0 b else blockAt line fmt data

/-- Elements put back between those that the bitmap leaves out. -/
def spreadElems (m es : Nat) : Nat → Nat → List Byte → List Byte
  | _, 0, _ => []
  | k, n + 1, b =>
    if m.testBit k then b.take es ++ spreadElems m es (k + 1) n (b.drop es)
    else List.replicate es 0#8 ++ spreadElems m es (k + 1) n b

/-- A pattern of an element type from a value, rounded to nearest even (R206, R209). -/
def encodeElem (etype : Nat) (x : Num) : Nat :=
  if etInt etype then toInt x (etWidth etype) 0 Rand.zero else rnd x etype 0 false Rand.zero

/-- The elements of a packed block: +0 where one is not stored, whatever its offset (R340). -/
def unpackForm (data : List Byte) (ne : Nat) : List Num :=
  let rd (a m : Nat) : List Byte := (data.drop a).take m
  ((upFrom 0 ne).zip (unpackRow e4m3 rd 0 ne true 0 ne)).map (fun p =>
    if (leNat (rd (packedBlocks ne + 4 * (p.1 / 32)) 4)).testBit (p.1 % 32) then p.2 else .fin false 0 0)

/-- The n image bytes of a stored block (R340). -/
def expandForm (blk : Block) (n es etype : Nat) : List Byte :=
  match blk.md.fmt with
  | 0 => blk.data
  | 2 =>
    if blk.data.isEmpty then List.replicate n 0#8
    else (unpackForm blk.data (n / es)).flatMap (fun x => natBytes (encodeElem etype x) es)
  | _ =>
    let w := 32 * cdiv (n / es) 256
    if blk.data.isEmpty then List.replicate n 0#8
    else spreadElems (leNat (blk.data.take w)) es 0 (n / es) (blk.data.drop w)

/-! Metadata entries (R341). -/

/-- The 8-byte entry of a block's metadata (R341). -/
def BlockMeta.word (m : BlockMeta) : Nat :=
  (if m.v then 2 ^ 63 else 0) + (if m.pz then 2 ^ 62 else 0) + m.fmt % 4 * 2 ^ 60 + m.lines % 32 * 2 ^ 55 + m.line % 2 ^ 44 * 2 ^ 8

/-- A metadata entry is the most recently used one of its engine's cache; the least recently used one leaves a full cache (log
entry 103). -/
def mdTouch (s : State) (k : MdKey) : State :=
  { s with mdcache := trimCache Config.mdDepth MdKey.die k.die (k :: s.mdcache.filter (fun x => x != k)) }

/-- A metadata entry is read, and whether the read failed: one that is not cached is fetched from HBM4E, and the fetch may fail
uncorrectably (a free value, log entry 103). -/
def mdFetch (s : State) (k : MdKey) : Bool × State :=
  if s.mdcache.contains k then (false, mdTouch s k)
  else if Config.poolFails s.free then (true, { s with free := s.free + 1 })
  else (false, mdTouch { s with free := s.free + 1 } k)

/-! Issue (R332 to R336). -/

/-- The fault of a stash word: its key, then its descriptor (R331, R334, R336). -/
def stashFault (w : Instr) (f : Issue) (_ : State) : Option (Nat × Word) :=
  let v := (srcRegs w).map (fun r => f.rd r.1)
  let key := v.headD 0#64
  let d := v.getD 1 0#64
  let bad := match w with
    | .sst .. => badSource d false
    | .sstT .. => badSource d true
    | .spf .. => badDest d
    | .spol .. => decide (4 < wbits d 63 60) || wbits d 59 0 != 0
    | _ => false
  if wbits key 31 0 ≠ 0 then some (0xD01, key)
  else if bad then some (0xD02, d)
  else none

/-- The footprints of a stash command (R343). -/
def stashPrints (w : Instr) (core : Nat) (d : Word) : List Extent × List Extent :=
  match w with
  | .sst .. | .sstT .. => ([⟨.sp core, sdOff d, sdOff d + sdSize d⟩], [])
  | .spf .. => ([], [⟨.sp core, ddOff d, ddOff d + 256 * ddNrow d⟩])
  | _ => ([], [])

/-- A stash command is dispatched (R332, R343). -/
def issueStash (w : Instr) (f : Issue) (s : State) : State :=
  let c := wordCmd w .stash f s
  let prints := stashPrints w c.core (c.val 1)
  dispatch { c with reads := prints.1, writes := prints.2 } (fillRegs w) f s

/-! The directory. -/

/-- The key of a command. -/
def Cmd.key (c : Cmd) : Nat := (c.val 0).toNat

/-- The entry of a command's key. -/
def entryOf (p : Partition) (c : Cmd) : Option StashEntry := kget p.stash c.key

/-- The entry of a command's key set. -/
def putEntry (s : State) (c : Cmd) (e : StashEntry) : State := modPart s c.part (fun p => { p with stash := kput p.stash c.key e })

/-- The entry of a command's key changed. -/
def modEntry (s : State) (c : Cmd) (g : StashEntry → StashEntry) : State :=
  modPart s c.part (fun p => { p with stash := kmod p.stash c.key g })

/-- Whether a stash command has reached its home, and its place among those that have: work holds the number of its arrival. -/
def Cmd.reached (c : Cmd) : Bool := !c.work.isEmpty
def Cmd.arrival (c : Cmd) : Nat := c.work.headD 0

/-- Whether an earlier stash word of the core has still to reach its directory (R343). -/
def stashBefore (s : State) (c : Cmd) : Bool :=
  s.cmds.any (fun o =>
    o.core == c.core && o.cls == .stash && decide (o.disp < c.disp) && o.phase != .finished && !o.reached)

/-- The unfinished commands on a command's key that reached the home before it (R343). -/
def keyAhead (s : State) (c : Cmd) : List Cmd :=
  s.cmds.filter (fun o =>
    o.part == c.part && o.cls == .stash && o.key == c.key && o.phase != .finished && o.reached && decide (o.arrival < c.arrival))

/-- Whether a prefetch has begun and not ended. -/
def Cmd.prefetching (c : Cmd) : Bool :=
  match c.instr with
  | .spf .. => decide (0 < c.upc)
  | _ => false

/-- Whether a command that frees or moves an entry waits: for a commit in progress, or for prefetches that reached the home before
(R338). -/
def entryBusy (s : State) (c : Cmd) (e : StashEntry) : Bool := e.owner != 0 || (keyAhead s c).any Cmd.prefetching

/-- A dropped entry: it holds no data and no transposed image, and keeps its place in the directory (R335, R338). -/
def dropEntry (e : StashEntry) : StashEntry :=
  { e with state := 3, pol := 4, tr := false, bytes := 0, room := 0, blocks := [], owner := 0 }

/-- The directory once commands are given up with their gang: an entry whose store had not committed is absent again, and a move not
committed is undone (DESIGN CHOICE, log entry 104). -/
def giveUpEntries (p : Partition) (ids : List Nat) : Partition :=
  { p with
    stash := (p.stash.filter (fun e => !(e.2.state == 1 && ids.contains e.2.owner))).map (fun e =>
      if ids.contains e.2.owner then (e.1, { e.2 with toPol := 0, toRoom := 0, moved := [], owner := 0 }) else e) }

/-- The cache's name for a block of an entry of a command's key. -/
def Cmd.mdKey (c : Cmd) (e : StashEntry) (n : Nat) : MdKey := ⟨e.die, c.part, false, c.key, n⟩

/-- A block of an entry is read from its pool, with its metadata entry first. A failing fetch or read makes it poisoned, and a record
is written (R172, R337, R341). -/
def readBlock (s : State) (c : Cmd) (e : StashEntry) (n : Nat) : Block × State :=
  let b := e.blocks.getD n default
  let f := mdFetch s (c.mdKey e n)
  let bad (code : Nat) : Block × State :=
    ({ b with md := { b.md with pz := true } },
      mcRecord f.2 c.part (srcStash e.die) code (c.acls % 16) c.ctx.num c.core (c.val 0) (256 * b.md.line))
  if b.md.pz then (b, s)
  else if f.1 then bad 0xD03
  else if Config.poolFails f.2.free then
    let r := bad 9
    (r.1, { r.2 with free := r.2.free + 1 })
  else (b, { f.2 with free := f.2.free + 1 })

/-- A block written in its stored form, with its metadata entry (R335, R341). -/
def writeBlock (s : State) (c : Cmd) (e : StashEntry) (pol n : Nat) (b : List Byte) : Block × State :=
  (storeForm (Config.poolLine s.free) (formOf pol e.q e.pk) e.es e.etype b,
    mdTouch { s with free := s.free + 1 } (c.mdKey e n))

/-- The policy taken for the blocks of an entry, from a policy down, and its room in the worst case (R335). -/
def takeRoom (p : Partition) (e : StashEntry) (pol : Nat) : Nat → Nat × Nat
  | 0 => (4, 0)
  | fuel + 1 =>
    if 4 ≤ pol then (4, 0)
    else
      let n := (e.sizes.map (fun b => 256 * worstLines (formOf pol e.q e.pk) b e.es)).sum
      if poolUsed p e.die (poolOf pol) + n ≤ poolSize p e.die (poolOf pol) then (pol, n) else takeRoom p e (pol + 1) fuel

/-- The reply of a word that placed an entry (R333). -/
def placedValue (pol bytes : Nat) : Nat := pol * 2 ^ 44 + bytes

/-- The blocks of a placed entry's actual bytes. -/
def blockBytes (l : List Block) : Nat := (l.map (fun b => 256 * b.md.lines)).sum

/-! SST and SST.T (R335). -/

/-- The directory step of SST. -/
def sstStart (s : State) (c : Cmd) (p : Partition) (tr : Bool) : State :=
  let d := c.val 1
  match entryOf p c with
  | some _ => finish s c 0xD84 0
  | none =>
    if nth p.stashCap (keyHome c.key) ≤ (p.stash.filter (fun e => keyHome e.1 == keyHome c.key)).length then
      finish s c 0 (placedValue 4 0)
    else
      let e : StashEntry :=
        ⟨1, 4, dieOf c.core, sdEtype d, sdPk d, sdQ d, sdRows d, sdCols d, tr, 0, 0, [], 0, 0, [], c.id⟩
      let r := takeRoom p e (sdPol d) 5
      if r.1 = 4 then finish (putEntry s c (dropEntry e)) c 0 (placedValue 4 0)
      else goOn (putEntry s c { e with pol := r.1, room := r.2 }) c 1

/-- The byte of the tensor that the transposed image holds at a place, none in the padding of a row (R335). -/
def turnByte (e : StashEntry) (a : Nat) : Option Nat :=
  let pt := pitchOf e.rows e.es
  let i := a % pt / e.es
  if i < e.rows then some (i * pitchOf e.cols e.es + a / pt * e.es + a % e.es) else none

/-- The bytes of the transposed image from a place; its padding is not stated, so its bytes are free values (log entry
24). -/
def turnBytes (s : State) (c : Cmd) (e : StashEntry) (off a : Nat) : Nat → List Byte
  | 0 => []
  | n + 1 =>
    (match turnByte e a with
     | some b => (spView s c.core (off + b) 1).headD 0#8
     | none => Config.freeByte (s.free + a)) :: turnBytes s c e off (a + 1) n

/-- Block n of an entry is stored (R335, R340). -/
def sstBlock (s : State) (c : Cmd) (e : StashEntry) (n : Nat) : State :=
  let off := sdOff (c.val 1)
  let k := (blockSizes e.size).length
  let size := nth e.sizes n
  let put (s : State) (b : List Byte) : State :=
    let r := writeBlock s c e e.pol n b
    goOn (modEntry r.2 c (fun e => { e with blocks := e.blocks.take n ++ [r.1] })) c (n + 2)
  if n < k then
    match engGetSp s c (off + 4096 * n) size with
    | .ok b => put s b
    | a => stopAt s c engineFault a
  else
    let a := 4096 * (n - k)
    let places := (upFrom a size).filterMap (turnByte e)
    match badRange s c (places.map (fun b => (off + b, 1))) with
    | some g => engineFault s c 9 (genericOf s c g)
    | none => put { s with free := s.free + a + size } (turnBytes s c e off a size)

/-- One micro-operation of SST or SST.T. -/
def sstUop (s : State) (c : Cmd) (p : Partition) (tr : Bool) : State :=
  if c.upc = 0 then sstStart s c p tr
  else
    match entryOf p c with
    | none => s
    | some e =>
      if c.upc ≤ e.sizes.length then sstBlock s c e (c.upc - 1)
      else
        let n := blockBytes e.blocks
        finish (putEntry s c { e with state := 2, bytes := n, room := n, owner := 0 }) c 0 (placedValue e.pol n)

/-! SPF (R337). -/

/-- An SPF of an absent or dropped key posts an R entry; one beyond the R entries that a partition holds resets it (R337,
R368). A full replay log holds it (R388). -/
def postR (s : State) (c : Cmd) (p : Partition) (code : Nat) : State :=
  let e : Entry := ⟨keyTag c.key, keySid c.key, 3, s.tsc, srcStash (keyHome c.key), none, false, 0, 0, false⟩
  if sameR p e then finish s c code 0
  else if !logRoom p || !logOrder p e.at_ e.src then s
  else if Config.extraDepth ≤ extraR p ∧ Config.arrivalDepth ≤ (queueOf p e.sid 3).length then
    resetPartition s c.part 0xF11 c.ctx.num c.core (ctxOf s c.core c.ctx).tpc
  else finish (modPart s c.part (fun p => admitEntry p e)) c code 0

/-- The first step of SPF at the home. -/
def spfStart (s : State) (c : Cmd) (p : Partition) : State :=
  let d := c.val 1
  match entryOf p c with
  | none => postR s c p 0xD83
  | some e =>
    let size := if ddTr d then e.turned else e.size
    if e.state = 3 then postR s c p 0xD81
    else if e.owner ≠ 0 then s
    else if ddTr d = true ∧ e.tr = false then finish s c 0xD86 0
    else if 256 * ddNrow d < size then finish s c 0xD85 size
    else goOn s c 1

/-- The blocks of an entry that a prefetch expands: the position of the first, and their sizes. -/
def spfBlocks (c : Cmd) (e : StashEntry) : Nat × List Nat :=
  if ddTr (c.val 1) then ((blockSizes e.size).length, blockSizes e.turned) else (0, blockSizes e.size)

/-- One micro-operation of SPF. work keeps, behind the number of its arrival, the offset of the first poisoned block. -/
def spfUop (s : State) (c : Cmd) (p : Partition) : State :=
  if c.upc = 0 then spfStart s c p
  else
    match entryOf p c with
    | none => finish s c 0xD83 0
    | some e =>
      let l := spfBlocks c e
      let n := c.upc - 1
      if n < l.2.length then
        let r := readBlock s c e (l.1 + n)
        if r.1.md.pz then
          modCmd (modEntry r.2 c (fun e => { e with blocks := e.blocks.set (l.1 + n) r.1 })) c.id (fun c =>
            { c with upc := c.upc + 1, work := if c.work.length < 2 then c.work ++ [4096 * n] else c.work })
        else
          writeRows r.2 c [(ddOff (c.val 1) + 4096 * n, expandForm r.1 (nth l.2 n) e.es e.etype)] (fun s => goOn s c (c.upc + 1))
      else
        match c.work with
        | _ :: at_ :: _ => finish s c 0xD82 at_
        | _ => finish s c 0 (if ddTr (c.val 1) then e.turned else e.size)

/-! SREL, SPOL, SQRY (R338, R339). -/

/-- SREL. -/
def srelUop (s : State) (c : Cmd) (p : Partition) : State :=
  match entryOf p c with
  | none => finish s c 0xD83 0
  | some e =>
    if entryBusy s c e then s
    else finish (modPart s c.part (fun p => { p with stash := kdel p.stash c.key })) c 0 e.bytes

/-- The first step of SPOL. -/
def spolStart (s : State) (c : Cmd) (p : Partition) : State :=
  match entryOf p c with
  | none => finish s c 0xD83 0
  | some e =>
    if entryBusy s c e then s
    else if e.state = 3 then finish s c 0xD81 0
    else
      let r := takeRoom p e (wbits (c.val 1) 63 60) 5
      if r.1 = 4 then finish (putEntry s c (dropEntry e)) c 0 (placedValue 4 0)
      else goOn (putEntry s c { e with toPol := r.1, toRoom := r.2, moved := [], owner := c.id }) c 1

/-- One micro-operation of SPOL: a block moves, or the move commits. A block that is poisoned, or whose read fails, moves as a
poisoned one (R337; DEDUCED for a move, log entry 103). -/
def spolUop (s : State) (c : Cmd) (p : Partition) : State :=
  if c.upc = 0 then spolStart s c p
  else
    match entryOf p c with
    | none => finish s c 0xD83 0
    | some e =>
      let n := c.upc - 1
      if n < e.sizes.length then
        let r := readBlock s c e n
        let w := if r.1.md.pz then r else writeBlock r.2 c e e.toPol n (expandForm r.1 (nth e.sizes n) e.es e.etype)
        goOn (modEntry w.2 c (fun e => { e with moved := e.moved.take n ++ [w.1] })) c (c.upc + 1)
      else
        let bytes := blockBytes e.moved
        finish (putEntry s c { e with
          pol := e.toPol, bytes := bytes, room := bytes, blocks := e.moved, toPol := 0, toRoom := 0, moved := [], owner := 0 })
          c 0 (placedValue e.toPol bytes)

/-- The state that SQRY reports (R339). -/
def queryValue (e : Option StashEntry) : Nat :=
  match e with
  | none => 0
  | some e =>
    (if e.state = 2 ∧ e.blocks.any (fun b => b.md.pz) = true then 4 else e.state) * 2 ^ 44 + e.pol * 2 ^ 40
      + (if e.tr then 2 ^ 39 else 0) + e.bytes

/-- A stash command reaches its home. -/
def arrive (s : State) (c : Cmd) : Cmd × State :=
  ({ c with work := [s.nextId] }, { modCmd s c.id (fun c => { c with work := [s.nextId] }) with nextId := s.nextId + 1 })

/-- Whether a command's directory step waits for that of one that reached the home before it: operations on one key take their
directory steps in the order of arrival. SQRY reports the entry as it stands when it arrives, and neither waits nor is waited for
(R339, R343; log entry 105). -/
def turnWaits (s : State) (c : Cmd) : Bool := c.upc == 0 && (keyAhead s c).any (fun o => o.upc == 0)

/-- One micro-operation of a stash command. -/
def stashUop (s : State) (c : Cmd) : State :=
  match partOf s c.part with
  | none => s
  | some p =>
    if !c.reached && stashBefore s c then s
    else
      let r := if c.reached then (c, s) else arrive s c
      match c.instr with
      | .sqry .. => finish r.2 r.1 0 (queryValue (entryOf p c))
      | i =>
        if turnWaits r.2 r.1 then r.2
        else
          match i with
          | .sst .. => sstUop r.2 r.1 p false
          | .sstT .. => sstUop r.2 r.1 p true
          | .spf .. => spfUop r.2 r.1 p
          | .srel .. => srelUop r.2 r.1 p
          | _ => spolUop r.2 r.1 p

/-- A prefetch that waits for a commit is withdrawn, and will be sent again (R344). -/
def withdrawSpf (s : State) (c : Cmd) : State :=
  match c.instr, c.upc with
  | .spf .., 0 => modCmd s c.id (fun c => { c with work := [] })
  | _, _ => s

/-! Blocks of cz pages (R341, R342; log entry 25). -/

/-- Whether a leaf of an ASID makes a block one of a cz page. -/
def czBlock (s : State) (part asid block : Nat) : Option Loc :=
  match walk s part asid (4096 * block) with
  | .leaf l big => if leafCz l then some (leafLoc l big (4096 * block)) else none
  | .miss _ => none

/-- The cache's name for a block of a cz page: in the engine of its home slice's die (R341). -/
def czKey (s : State) (part block : Nat) : MdKey := ⟨walkDie s part (4096 * block), part, true, block, 0⟩

/-- CZ_BLOCK_COMPRESS: a block of a cz page is compressed in form 1 with 4-byte elements, and its metadata entry is written
(R341). -/
def execCzBlockCompress (part asid block : Nat) (s : State) : Host.Outcome State Fault Refusal :=
  .next (match czBlock s part asid block, partOf s part with
    | some l, some p =>
      if (kget p.cz block).isSome || p.czMissing.contains block || (locError s l 4096).isSome then s
      else
        let b := storeForm (16 * block) 1 4 0 (locBytes s l 4096)
        modPart (mdTouch s (czKey s part block)) part (fun p => { p with cz := kput p.cz block b.md })
    | _, _ => s)

/-! The words (R333). -/

/-- SST.scope.order (R335). -/
def execSst (ord : Order) (scope : Scope) (xd : RegNo) (xa : RegNo) (xb : BitVec 5) (s : State) : Host.Outcome State Fault Refusal :=
  issueWord (.sst ord scope xd xa xb) (stashFault (.sst ord scope xd xa xb)) (issueStash (.sst ord scope xd xa xb)) s

/-- SST.T.scope.order (R335). -/
def execSstT (ord : Order) (scope : Scope) (xd : RegNo) (xa : RegNo) (xb : BitVec 5) (s : State) : Host.Outcome State Fault Refusal :=
  issueWord (.sstT ord scope xd xa xb) (stashFault (.sstT ord scope xd xa xb)) (issueStash (.sstT ord scope xd xa xb)) s

/-- SPF.scope.order (R337). -/
def execSpf (ord : Order) (scope : Scope) (xd : RegNo) (xa : RegNo) (xb : BitVec 5) (s : State) : Host.Outcome State Fault Refusal :=
  issueWord (.spf ord scope xd xa xb) (stashFault (.spf ord scope xd xa xb)) (issueStash (.spf ord scope xd xa xb)) s

/-- SREL.scope.order (R338). -/
def execSrel (ord : Order) (scope : Scope) (xd : RegNo) (xa : RegNo) (s : State) : Host.Outcome State Fault Refusal :=
  issueWord (.srel ord scope xd xa) (stashFault (.srel ord scope xd xa)) (issueStash (.srel ord scope xd xa)) s

/-- SQRY.scope.order (R339). -/
def execSqry (ord : Order) (scope : Scope) (xd : RegNo) (xa : RegNo) (s : State) : Host.Outcome State Fault Refusal :=
  issueWord (.sqry ord scope xd xa) (stashFault (.sqry ord scope xd xa)) (issueStash (.sqry ord scope xd xa)) s

/-- SPOL.scope.order (R338). -/
def execSpol (ord : Order) (scope : Scope) (xd : RegNo) (xa : RegNo) (xb : BitVec 5) (s : State) : Host.Outcome State Fault Refusal :=
  issueWord (.spol ord scope xd xa xb) (stashFault (.spol ord scope xd xa xb)) (issueStash (.spol ord scope xd xa xb)) s


end Sys2Proof.Machine
end

