-- ==== Sys2Proof/Machine/Line.lean ====
section
/-! DEFINITION. The line engine: counted updates, named lines, root slots and mirror partners (R347 to R367). -/

namespace Sys2Proof.Machine

/-! Names and the named store (R357 to R359). -/

/-- A name from its two halves. -/
def nameOf (lo hi : Word) : Nat := lo.toNat + hi.toNat * 2 ^ 64

/-- The halves of a name. -/
def nameLo (n : Nat) : Word := BitVec.ofNat 64 n
def nameHi (n : Nat) : Word := BitVec.ofNat 64 (n / 2 ^ 64)

/-- Whether a name is malformed (R357). -/
def badName (n : Nat) : Bool := n % 4 != 0 || n.testBit 3

/-- Whether a name is of kind interior. -/
def isInterior (n : Nat) : Bool := n.testBit 2

/-- A directory entry. -/
def nameAt (p : Partition) (n : Nat) : Option NameEntry := p.names.find? (fun e => e.name == n)

/-- The device physical address of a line of the store. -/
def lineAddr (p : Partition) (l : Nat) : Nat := nth p.namePages (l / 256) + 256 * (l % 256)

/-- A named line's bytes and their read error. -/
def nameData (s : State) (p : Partition) (e : NameEntry) : List Byte := memRead s.mem (lineAddr p e.line) 256
def nameErr (s : State) (p : Partition) (e : NameEntry) : Option Nat := locError s (.pa (lineAddr p e.line)) 256

/-- The first free line of the store. -/
def freeLine (p : Partition) : Option Nat :=
  (upFrom 0 (min (p.names.length + 1) (256 * p.namePages.length))).find? (fun l => !p.names.any (fun e => e.line == l))

/-- The 16 children of an interior line. -/
def childNames (row : List Byte) : List Nat := (upFrom 0 16).map (fun c => leNat ((row.drop (16 * c)).take 16))

/-- A count one higher, but for the greatest (R358). -/
def satInc (n : Nat) : Nat := if n = 0xFFFFFFFF then n else n + 1

/-- The count of a name changed. -/
def setCount (p : Partition) (n : Nat) (g : Nat → Nat) : Partition :=
  { p with names := p.names.map (fun e => if e.name = n then { e with count := g e.count } else e) }

/-- One reference taken on a name (R359). -/
def takeRef (s : State) (part n : Nat) : State := modPart s part (fun p => setCount p n satInc)

/-- The children that a line names, without null ones and those in a granule that cannot be read (R172, R359; log entry 117). -/
def lineKids (s : State) (p : Partition) (e : NameEntry) : List Nat :=
  (((upFrom 0 16).filter (fun i => (locError s (.pa (lineAddr p e.line + 16 * i)) 16).isNone)).map (fun i =>
    leNat (memRead s.mem (lineAddr p e.line + 16 * i) 16))).filter (fun c => c != 0)

/-- A memory controller's record of a line of the store that it cannot correct (R172). -/
def noteLine (s : State) (part : Nat) (p : Partition) (e : NameEntry) : State :=
  let a := lineAddr p e.line
  if (granulesOf a 256).any (fun g => s.bad.contains g) then mcRecord s part (srcMemory a) 9 0 3 0x3FF (BitVec.ofNat 64 a) 0 else s

/-- One reference released: at count 0 the name leaves the directory and an interior line's children are released in the
background (R359). -/
def dropRef (s : State) (part n : Nat) : State :=
  match (partOf s part).bind (fun p => (nameAt p n).map (fun e => (p, e))) with
  | none => s
  | some (p, e) =>
    if e.count = 0xFFFFFFFF then s
    else if 1 < e.count then modPart s part (fun p => setCount p n (fun c => c - 1))
    else
      let kids := if isInterior n then lineKids s p e else []
      modPart (if isInterior n then noteLine s part p e else s) part (fun p =>
        { p with names := p.names.filter (fun x => x.name != n), releases := p.releases ++ kids })

/-- BACKGROUND_RELEASE: a child of a freed interior line is released (R359). A release whose access to the store misses a page waits
for the host without a stall wire (R179); whether it misses, and where, is a free value (log entry 126). -/
def execBackgroundRelease (part name : Nat) (s : State) : Host.Outcome State Fault Refusal :=
  .next (match partOf s part with
    | none => s
    | some p =>
      if !p.releases.contains name then s
      else
        let miss := Config.storeMiss s.free
        let s := modPart { s with free := s.free + 1 } part (fun p => { p with releases := p.releases.erase name })
        match miss with
        | none => dropRef s part name
        | some ipa =>
          let n := nextNotice s
          modPart (raiseNotice s part p.curAsid (kgetD p.gens p.curAsid 0) 0 0x3FF none ipa false .held) part (fun p =>
            { p with relWaits := p.relWaits ++ [⟨n, name, ipa⟩] }))

/-- The host's answer reaches the background releases that it concerns: they go on, or each ends for its line with a record (R179). -/
def answerReleases (s : State) (part num : Nat) (denied : Bool) : State :=
  match partOf s part with
  | none => s
  | some p =>
    let mine := p.relWaits.filter (fun r => r.notice == num)
    let s := modPart s part (fun p =>
      { p with
        relWaits := p.relWaits.filter (fun r => r.notice != num)
        releases := if denied then p.releases else p.releases ++ mine.map (fun r => r.name) })
    if denied then
      mine.foldl (fun s r =>
        mcRecord s part (srcSlice (nameSlice s r.name)) 0xE 0 3 0x3FF (BitVec.ofNat 64 r.ipa) r.ipa) s
    else s

/-- The name of a row under a partition's salt, none where its hash is null (R357, R358). -/
def nameRow (p : Partition) (kind : Bool) (row : List Byte) : Option Nat :=
  let h := leNat ((sha3 (p.salt ++ [if kind then 1#8 else 0#8] ++ row)).take 16)
  if h / 16 = 0 then none else some (h / 16 * 16 + if kind then 4 else 0)

/-- NLOOK's rule at the home: the state, the status, its value and the name (R358). A stored line that cannot be read names no row
(R172; log entry 117). -/
def lookName (s : State) (part : Nat) (kind : Bool) (row : List Byte) : State × Nat × Nat × Nat :=
  match partOf s part with
  | none => (s, 0xE87, 0, 0)
  | some p =>
    match nameRow p kind row with
    | none => (s, 0xE85, 0, 0)
    | some n =>
      match nameAt p n with
      | some e =>
        if (nameErr s p e).isSome then (noteLine s part p e, 0xE85, 0, 0)
        else if nameData s p e = row then (takeRef s part n, 0, 0, n) else (s, 0xE85, 0, 0)
      | none =>
        let kids := if kind then childNames row else []
        let numbered := (upFrom 0 kids.length).zip kids
        match numbered.find? (fun c => c.2 != 0 && badName c.2),
            numbered.find? (fun c => c.2 != 0 && (nameAt p c.2).isNone) with
        | some c, _ => (s, 0xE88, c.1, 0)
        | none, some c => (s, 0xE86, c.1, 0)
        | none, none =>
          let here := (p.names.filter (fun e => nameSlice s e.name == nameSlice s n)).length
          match (if p.nameCap ≤ here then none else freeLine p) with
          | none => (s, 0xE87, 0, 0)
          | some l =>
            let s := (kids.filter (fun c => c != 0)).foldl (fun s c => takeRef s part c) s
            let s := locWrite s (.pa (lineAddr p l)) row
            (modPart s part (fun p => { p with names := p.names ++ [⟨n, l, 1⟩] }), 0, 1, n)

/-! Accesses at a home (R347, R350, R366). -/

/-- Whether a leaf's home has no line engine (R176). -/
def noHome (leaf : Word) : Bool := leafHome leaf == 1 || leafHome leaf == 3

/-- n bytes at a home, or what stops the access. -/
def homeAns (s : State) (part asid gen : Nat) (ea : Word) (ipa n : Nat) (write : Bool) : EngAns :=
  match judge s part asid gen (.ipa ipa) n write with
  | .ok l leaf => if noHome leaf then .fault 5 ea else .ok (locBytes s l n)
  | .err code l leaf => if noHome leaf then .fault 5 ea else .error code ea ipa l leaf
  | .wait =>
    match findDest s part asid gen (.ipa ipa) write with
    | .miss bad => .miss ea ipa bad write
    | .place _ _ => .wait

/-- The IPA of a generic address of a line command, or the code of the fault. -/
def lineIpa (s : State) (c : Cmd) (ea : Word) (n : Nat) (p : Perm) : Except Nat Nat :=
  match engDest s c ea n p with
  | .error code => .error code
  | .ok (.sp _ _) => .error 5
  | .ok (.ipa a) => .ok a

/-- Whether an access of a line command at a home waits for the far event of a write that R17 or an edge puts before it: one of
the own core that is on its way to those bytes (R156). -/
def homeHeld (s : State) (c : Cmd) (ipa n : Nat) : Bool := landHeld s c (.ipa ipa) n

/-- An access of a line command at the home of a generic address. -/
def lineAns (s : State) (c : Cmd) (ea : Word) (n : Nat) (p : Perm) (write : Bool) : EngAns :=
  match lineIpa s c ea n p with
  | .error code => .fault code ea
  | .ok a => if homeHeld s c a n then .wait else homeAns s c.part c.asid c.gen ea a n write

/-- Bytes written at a home; core and cmd are those of the command that makes the write, 0 for none. -/
def homeWrite (s : State) (part asid gen core cmd ipa : Nat) (data : List Byte) : State :=
  match findDest s part asid gen (.ipa ipa) true with
  | .miss _ => s
  | .place l _ =>
    farEvent { s with nextId := s.nextId + 1 } (unitAccess s part asid gen core cmd ipa data) l

/-- A line command is stopped by an answer, also while its gang is pre-empted (R366). -/
def lineStop (s : State) (c : Cmd) (a : EngAns) : State := stopAt s c engineFault a

/-- n 32-byte granules read by generic address, in any aperture. -/
def granulesAt (s : State) (c : Cmd) (a : Word) (n : Nat) : List EngAns :=
  (upFrom 0 n).map (fun i => engGet s c (a + BitVec.ofNat 64 (32 * i)) 32)

/-- The state after the reads of n granules, which have used their leaves (R177). -/
def granulesUse (s : State) (c : Cmd) (a : Word) (n : Nat) : State :=
  engUse s c ((upFrom 0 n).map (fun i => a + BitVec.ofNat 64 (32 * i)))

/-- The slice that homes an IPA (R176, R177). -/
def sliceOf (s : State) (part asid gen ipa : Nat) : Nat :=
  match leafFor s part asid gen ipa with
  | .leaf l _ => if leafHome l = 2 then leafSlice l else homeSlice s part ipa
  | .miss _ => homeSlice s part ipa

/-! Issue (R348 to R350, R365). -/

/-- Whether an operand of 32-byte granules in a local or cluster aperture breaks R106. -/
def badOperand (s : State) (f : Issue) (a : Word) (n : Nat) : Bool :=
  let t := frameTask s f
  (upFrom 0 n).any (fun i =>
    let g := a + BitVec.ofNat 64 (32 * i)
    match aperture t g, checkAddr s t f.core g 32 .read with
    | .shared, _ | _, .ok _ => false
    | _, .error _ => true)

/-- Whether an address has no home slice (R350). -/
def homeless (s : State) (f : Issue) (a : Word) : Bool := aperture (frameTask s f) a != .shared

/-- The alignment faults of a line word: each address with its alignment (R350). -/
def lineAligns (w : Instr) (v : Nat → Word) : List (Word × Nat) :=
  match w with
  | .lexp .. | .lqry .. => [(v 0, 256)]
  | .lred .. => [(v 0, 256), (v 1, 32)]
  | .lopt .. => [(v 0, 128)]
  | .nlook .. => [(v 0, 32)]
  | .nswap .. => [(v 0, 16)]
  | .nget .. => if (v 0).getLsbD 63 then [(v 1, 16)] else []
  | .nout .. => [(v 0, 256)]
  | _ => []

/-- The values that LE_OPND names (R350). -/
def lineBad (w : Instr) (f : Issue) (s : State) (v : Nat → Word) : List (Word × Bool) :=
  match w with
  | .lexp .. =>
    [(v 1, wbits (v 1) 63 48 == 0 || wbits (v 1) 42 32 != 0 || wbits (v 1) 31 0 == 0), (v 0, homeless s f (v 0))]
  | .lred .. => [(v 0, homeless s f (v 0)), (v 1, badOperand s f (v 1) 8)]
  | .lopt .. => [(v 1, wbits (v 1) 63 4 != 0), (v 0, badOperand s f (v 0) 4)]
  | .lqry .. | .nswap .. => [(v 0, homeless s f (v 0))]
  | .nlook .. => [(v 1, wbits (v 1) 63 1 != 0), (v 0, badOperand s f (v 0) 8)]
  | .nget .. =>
    [(v 0, wbits (v 0) 62 20 != 0 || wbits (v 0) 19 0 % 32 != 0 || decide (Config.spBytes < wbits (v 0) 19 0 + 256)),
     (v 1, (v 0).getLsbD 63 && homeless s f (v 1))]
  | .nout .. => [(v 1, decide (8 < wbits (v 1) 63 60) || wbits (v 1) 59 32 != 0), (v 0, homeless s f (v 0))]
  | .nxfer .. => [(v 0, wbits (v 0) 63 16 != 0)]
  | _ => []

/-- The fault of a line word at issue (R350). -/
def lineFault (w : Instr) (f : Issue) (s : State) : Option (Nat × Word) :=
  let l := (srcRegs w).map (fun r => f.rd r.1)
  let v (n : Nat) : Word := l.getD n 0#64
  match (lineAligns w v).find? (fun p => p.1.toNat % p.2 != 0), (lineBad w f s v).find? (fun p => p.2) with
  | some p, _ => some (7, p.1)
  | none, some p => some (0xE01, p.1)
  | none, none => none

/-- Leaf positions that NOUT writes (R361). -/
def outLines (shape : Word) : Nat := min (wbits shape 31 0) (16 ^ wbits shape 63 60)

/-- The footprints of a line command (R365). -/
def linePrints (s : State) (c : Cmd) : List Extent × List Extent :=
  let at_ (a : Word) (n : Nat) : List Extent := if n = 0 then [] else addressExtents s c.core a.toNat (a.toNat + n)
  let line (a : Word) : List Extent := at_ (BitVec.ofNat 64 (a.toNat / 256 * 256)) 256
  match c.instr with
  | .lred .. => (at_ (c.val 1) 256, [])
  | .nlook .. => (at_ (c.val 0) 256, [])
  | .lopt .. => (at_ (c.val 0) 128, [])
  | .nswap .. => (line (c.val 0), line (c.val 0))
  | .nget .. =>
    (if (c.val 0).getLsbD 63 then line (c.val 1) else [],
     [⟨.sp c.core, wbits (c.val 0) 19 0, wbits (c.val 0) 19 0 + 256⟩])
  | .nout .. => ([], at_ (c.val 0) (256 * outLines (c.val 1)))
  | .lexp .. => ([], if (c.val 1).getLsbD 43 then at_ (c.val 0) (256 * wbits (c.val 1) 31 0) else [])
  | _ => ([], [])

/-- A line command is dispatched (R348). -/
def issueLine (w : Instr) (f : Issue) (s : State) : State :=
  let c := wordCmd w .line f s
  let prints := linePrints s c
  dispatch { c with reads := prints.1, writes := prints.2 } (fillRegs w) f s

/-! Order at the homes (R365). -/

/-- The home of a command, none for one that may concern any (R347). -/
def cmdHome (s : State) (c : Cmd) : Option Nat :=
  let line (a : Word) : Option Nat :=
    match lineIpa s c a 16 .read with
    | .ok x => some (sliceOf s c.part c.asid c.gen x)
    | .error _ => none
  match c.instr with
  | .lred .. | .lqry .. | .nswap .. => line (c.val 0)
  | .nref .. | .nrel .. | .nhas .. => some (nameSlice s (nameOf (c.val 0) (c.val 1)))
  | .nget .. => if (c.val 0).getLsbD 63 then line (c.val 1) else some (nameSlice s (nameOf (c.val 1) (c.val 2)))
  | _ => none

/-- Whether a command has still to reach a home, none for any (R365): LEXP goes from line to line, and NOUT and NXFER may go to any
home until they have finished. One that a fault holds is sent again. -/
def toReach (s : State) (c : Cmd) (home : Option Nat) : Bool :=
  let on := c.phase != .held
  !c.reached ||
  (match c.instr with
   | .lexp .. =>
     on && (upFrom c.counted (wbits (c.val 1) 31 0 - c.counted)).any (fun i =>
       match lineIpa s c (c.val 0 + BitVec.ofNat 64 (256 * i)) 256 .write, home with
       | .ok x, some h => sliceOf s c.part c.asid c.gen x == h
       | _, _ => true)
   | .nout .. | .nxfer .. => on
   | _ => false)

/-- The line or the name on which a command acts, none for one that may act on any (R365). -/
def lineObject (s : State) (c : Cmd) : Option (Bool × Nat) :=
  let line (a : Word) : Option (Bool × Nat) :=
    match lineIpa s c a 16 .read with
    | .ok x => some (true, x / 256)
    | .error _ => none
  match c.instr with
  | .lred .. | .lqry .. | .nswap .. => line (c.val 0)
  | .nref .. | .nrel .. | .nhas .. => some (false, nameOf (c.val 0) (c.val 1))
  | .nget .. => if (c.val 0).getLsbD 63 then none else some (false, nameOf (c.val 1) (c.val 2))
  | _ => none

/-- Whether two commands may act on one line or name. -/
def sameObject (s : State) (o c : Cmd) : Bool :=
  match lineObject s o, lineObject s c with
  | some x, some y => x == y
  | _, _ => true

/-- Whether an earlier line word of the core has still to reach a home of a command, or has still to act there on the command's line
or name (R365). One that a fault holds is sent again. -/
def lineBefore (s : State) (c : Cmd) : Bool :=
  s.cmds.any (fun o =>
    o.core == c.core && o.cls == .line && decide (o.disp < c.disp) && o.gang == c.gang && o.phase != .finished
    && (match cmdHome s o, cmdHome s c with
        | some a, some b => a == b
        | _, _ => true)
    && (toReach s o (cmdHome s c) || (o.phase != .held && sameObject s o c)))

/-! Descriptors (R351). -/

/-- Doubleword n of a descriptor. -/
def OptDesc.dw (d : OptDesc) (n : Nat) : Word := d.dws.getD n 0#64

/-- alg, nm and bc. -/
def dwAlg (d : List Word) : Nat := wbits (d.headD 0#64) 63 60
def dwNm (d : List Word) : Bool := (d.headD 0#64).getLsbD 59
def dwBc (d : List Word) : Bool := (d.headD 0#64).getLsbD 58

/-- The address fields that a descriptor uses: their number among gbase to ntab, alignment and permission. -/
def usedFields (d : List Word) : List (Nat × Nat × Perm) :=
  [(0, 256, .read), (1, 256, .read), (2, 256, .write), (3, 256, .read), (4, 256, .write)]
  ++ (if dwAlg d = 1 then [(5, 256, .read), (6, 256, .write)] else []) ++ (if dwNm d then [(7, 16, .write)] else [])

/-- Whether LOPT refuses a descriptor before translation (R351). -/
def badDesc (d : List Word) : Bool :=
  let bar := (d.getD 9 0#64)
  decide (2 ≤ dwAlg d) || wbits (d.headD 0#64) 57 0 != 0 || wbits (d.getD 15 0#64) 31 0 != 0
  || (usedFields d).any (fun f => (d.getD (f.1 + 1) 0#64).toNat % f.2.1 != 0)
  || (dwBc d && (wbits bar 3 0 != 0 || wbits bar 63 32 != 0 || wbits bar 29 28 != 0))

/-- The IPAs of gbase to ntab, 0 for an unused field, or none where one is refused (R351). -/
def descIpas (s : State) (c : Cmd) (d : List Word) : Option (List Nat) :=
  let one (i : Nat) : Option Nat :=
    match (usedFields d).find? (fun f => f.1 == i) with
    | none => some 0
    | some f =>
      match lineIpa s c (d.getD (i + 1) 0#64) f.2.1 f.2.2 with
      | .ok a => some a
      | .error _ => none
  (upFrom 0 8).foldr (fun i acc =>
    match one i, acc with
    | some a, some l => some (a :: l)
    | _, _ => none) (some [])

/-- The write by which a command sets up a line engine: it has a near event and a far event, and no bytes of memory (R158, R367; log
entry 106). -/
def setupAccess (s : State) (c : Cmd) : Access :=
  { engAccess s c .eng s.nearNext 16 0#64 (.sp c.core (2 ^ 40)) [] with granted := true }

/-- The descriptor that a slot holds for the agents of a core: the last write that is the core's own or has had its far event (R351,
R367). -/
def slotFor (s : State) (p : Partition) (core n : Nat) : Option OptDesc :=
  (p.slots.reverse.find? (fun e => e.slot == n && (e.core == core || performedFar s e.acc))).map (fun e => e.desc)

/-- The writes of the slots with another; those that no agent sees again are left out. -/
def putSlot (s : State) (l : List SlotEntry) (e : SlotEntry) : List SlotEntry :=
  let far := l.reverse.find? (fun x => x.slot == e.slot && performedFar s x.acc)
  l.filter (fun x => x.slot != e.slot || !performedFar s x.acc || some x == far) ++ [e]

/-- LOPT writes a slot of every line engine (R351, R367). -/
def loptUop (s : State) (c : Cmd) : State :=
  let l := granulesAt s c (c.val 0) 4
  match firstStop l with
  | some a => lineStop s c a
  | none =>
    let b := l.flatMap EngAns.bytes
    let d := (upFrom 0 16).map (fun i => leWord ((b.drop (8 * i)).take 8))
    match (if badDesc d then none else descIpas s c d) with
    | none => finish s c 0xE84 0
    | some ipas =>
      let s := granulesUse s c (c.val 0) 4
      let a := setupAccess s c
      let e : SlotEntry := ⟨wbits (c.val 1) 3 0, c.core, a.id, ⟨d, ipas, c.asid, c.gen⟩⟩
      let s := { addAccess s a with nearNext := s.nearNext + 1 }
      finish (modPart s c.part (fun p => { p with slots := putSlot s p.slots e })) c 0 0

/-! Counted updates (R352 to R356). -/

/-- The 64 FP32 values of a line. -/
def fp32Line (b : List Byte) : List Num := (elemsOf 4 64 b).map (fun x => decFloat fp32 (leNat x))

/-- The bytes of FP32 values that have been rounded. -/
def fp32Bytes (l : List Num) : List Byte := l.flatMap (fun x => natBytes (rndFloat x fp32 0 false Rand.zero) 4)

/-- The quotient of two values, with a sticky bit; division follows IEEE 754 (R354). -/
def Num.quot (x y : Num) : Num :=
  match x, y with
  | .nan, _ | _, .nan | .inf _, .inf _ => .nan
  | .inf a, .fin b _ _ => .inf (a != b)
  | .fin a _ _, .inf b => .fin (a != b) 0 0
  | .fin a m e, .fin b n f =>
    if n = 0 then (if m = 0 then .nan else .inf (a != b))
    else if m = 0 then .fin (a != b) 0 0
    else
      let k := log2Nat n + 64
      sticky (a != b) (m * 2 ^ k / n) (e - f - k) (decide (m * 2 ^ k % n ≠ 0))

/-- The square root of a value, with a sticky bit (R354). -/
def Num.root (x : Num) : Num :=
  match x with
  | .nan | .inf true => .nan
  | .inf false => .inf false
  | .fin a m e =>
    if m = 0 then .fin a 0 0
    else if a then .nan
    else
      let m2 := if e % 2 = 0 then m else 2 * m
      let e2 := if e % 2 = 0 then e else e - 1
      let v := m2 * 2 ^ 128
      let k := isqrt v
      sticky false k (e2 / 2 - 64) (decide (k * k ≠ v))

/-- The FP32 parameters of a descriptor: the upper or the lower half of a doubleword. -/
def OptDesc.hi (d : OptDesc) (n : Nat) : Num := decFloat fp32 (wbits (d.dw n) 63 32)
def OptDesc.lo (d : OptDesc) (n : Nat) : Num := decFloat fp32 (wbits (d.dw n) 31 0)

/-- Rounded product, sum and difference. -/
def mul32 (x y : Num) : Num := rne32 (x.mul y)
def add32 (x y : Num) : Num := rne32 (x.add y)
def sub32 (x y : Num) : Num := rne32 (x.add y.neg)

/-- One element of SGD: the new weight and state (R354). -/
def sgdElem (d : OptDesc) (g0 w s1 : Num) : Num × Num :=
  let g := mul32 g0 (d.lo 14)
  let m := add32 (mul32 (d.hi 11) s1) g
  (sub32 (mul32 w (d.lo 10)) (mul32 (d.hi 10) m), m)

/-- One element of AdamW: the new weight and states (R354). -/
def adamElem (d : OptDesc) (g0 w s1 s2 : Num) : Num × Num × Num :=
  let g := mul32 g0 (d.lo 14)
  let m := add32 (mul32 (d.hi 11) s1) (mul32 (d.lo 11) g)
  let v := add32 (mul32 (d.hi 12) s2) (mul32 (d.lo 12) (mul32 g g))
  let q := add32 (rne32 (mul32 v (d.lo 13)).root) (d.hi 14)
  (sub32 (mul32 w (d.lo 10)) (mul32 (d.hi 10) (rne32 ((mul32 m (d.hi 13)).quot q))), m, v)

/-- The IPA of partner n, wa to sb2 as 1 to 6, of a gradient line, and of its name-table entry (R351). -/
def partnerIpa (d : OptDesc) (g n : Nat) : Nat := (nth d.ipas n + (g + 2 ^ 64 - nth d.ipas 0) % 2 ^ 64 / 256 * 256) % 2 ^ 64
def tableIpa (d : OptDesc) (g : Nat) : Nat := (nth d.ipas 7 + (g + 2 ^ 64 - nth d.ipas 0) % 2 ^ 64 / 256 * 16) % 2 ^ 64

/-- The IPAs that an update reads and those of the B lines that it writes. -/
def updateReads (u : Update) : List Nat :=
  [u.ipa, partnerIpa u.desc u.ipa 1, partnerIpa u.desc u.ipa 3]
  ++ (if dwAlg u.desc.dws = 1 then [partnerIpa u.desc u.ipa 5] else [])
def updateWrites (u : Update) : List Nat :=
  [partnerIpa u.desc u.ipa 2, partnerIpa u.desc u.ipa 4] ++ (if dwAlg u.desc.dws = 1 then [partnerIpa u.desc u.ipa 6] else [])

/-- An access of an update (R354): it has no context. -/
def updateAns (s : State) (part : Nat) (u : Update) (ipa n : Nat) (write : Bool) : EngAns :=
  homeAns s part u.desc.asid u.desc.gen (BitVec.ofNat 64 ipa) ipa n write

/-- A line of an update written. -/
def updatePut (s : State) (part : Nat) (u : Update) (ipa : Nat) (data : List Byte) : State :=
  homeWrite s part u.desc.asid u.desc.gen 0x3FF 0 ipa data

/-- A line of an update written poisoned, with the events of a write (R154, R355). -/
def updatePoison (s : State) (part : Nat) (u : Update) (ipa : Nat) : State :=
  match findDest s part u.desc.asid u.desc.gen (.ipa ipa) true with
  | .place l _ => locPoison (updatePut s part u ipa (locBytes s l 256)) l 256
  | .miss _ => s

/-- An update leaves the list of those that wait. -/
def dropUpdate (s : State) (part id : Nat) : State :=
  modPart s part (fun p => { p with updates := p.updates.filter (fun x => x.id != id) })

/-- What an update's error does beside its failure: a record, and the loss of a block whose metadata is lost (R172, R175, R342,
R355). -/
def updateErr (s : State) (part : Nat) (a : EngAns) : State :=
  match a with
  | .error code ea ipa l leaf =>
    if code = 0xD03 then mcRecord (modPart s part (fun p => poisonCz p (ipa / 4096))) part (srcOfLoc l) 0xD03 0 3 0x3FF ea ipa
    else consume s part 0x3FF 0 none ea ipa code l leaf
  | _ => s

/-- A write of a failing update that the memory side rejects is dropped, with a record (R172, R417). -/
def dropUpdateWrite (s : State) (part : Nat) (a : EngAns) : State :=
  match a with
  | .error code ea ipa l _ =>
    if code = 0xD03 then updateErr s part a else mcRecord s part (srcOfLoc l) code 0 3 0x3FF ea ipa
  | _ => s

/-- The IPA and the bytes of a write that a failure makes: a B line, or the name-table entry after them (R355). -/
def failTarget (u : Update) (i : Nat) : Nat × Nat :=
  if i < (updateWrites u).length then (nth (updateWrites u) i, 256) else (tableIpa u.desc u.ipa, 16)

/-- The writes of a failure: every B line, and the name-table entry where the update names its line (R355). -/
def failTodo (u : Update) : List Nat := upFrom 0 ((updateWrites u).length + if dwNm u.desc.dws then 1 else 0)

/-- A failing update writes its B lines poisoned and its name null, up to the first write that must wait; what remains is answered
(R179, R355). -/
def failWrites (part : Nat) (u : Update) : List Nat → State → List Nat × State
  | [], s => ([], s)
  | i :: rest, s =>
    let t := failTarget u i
    match updateAns s part u t.1 t.2 true with
    | .ok _ => failWrites part u rest (if t.2 = 256 then updatePoison s part u t.1 else updatePut s part u t.1 (natBytes 0 16))
    | .miss .. | .wait => (i :: rest, s)
    | e => failWrites part u rest (dropUpdateWrite s part e)

/-- An update changed. -/
def putUpdate (s : State) (part : Nat) (u : Update) : State :=
  modPart s part (fun p => { p with updates := p.updates.map (fun x => if x.id = u.id then u else x) })

/-- An update misses a page: its notice is written, and it waits for the host without a stall wire (R179). -/
def updateMiss (s : State) (part : Nat) (u : Update) (ipa : Nat) (bad write : Bool) : State :=
  let n := nextNotice s
  putUpdate (raiseNotice s part u.desc.asid u.desc.gen (if write then 1 else 0) 0x3FF none ipa bad .held) part
    { u with notice := some n, miss := ipa }

/-- A failing update goes on: its B lines are poisoned and its name is null, then a record is written and its barrier is poisoned
(R355). ea is the failing address. -/
def goFail (s : State) (part : Nat) (u : Update) (ea : Nat) : State :=
  match failWrites part u u.todo s with
  | ([], s) =>
    let s := mcRecord s part (srcSlice (sliceOf s part u.desc.asid u.desc.gen u.ipa)) 0xE02 0 3 0x3FF (BitVec.ofNat 64 ea) ea
    let s := if dwBc u.desc.dws then failBarrier s part (u.desc.dw 9).toNat else s
    dropUpdate s part u.id
  | (i :: rest, s) =>
    let u := { u with todo := i :: rest }
    match updateAns s part u (failTarget u i).1 (failTarget u i).2 true with
    | .miss _ ipa bad write => updateMiss s part u ipa bad write
    | _ => putUpdate s part u

/-- An update fails at an address (R355). -/
def failUpdate (s : State) (part : Nat) (u : Update) (ea : Nat) : State :=
  goFail s part { u with fail := some ea, todo := failTodo u } ea

/-- The lines that an update writes, from those that it has read (R354). -/
def updateOuts (d : OptDesc) (ins : List (List Byte)) : List (List Byte) :=
  let v (n : Nat) : List Num := fp32Line (ins.getD n [])
  if dwAlg d.dws = 1 then
    let l := ((v 0).zip ((v 1).zip ((v 2).zip (v 3)))).map (fun x => adamElem d x.1 x.2.1 x.2.2.1 x.2.2.2)
    [fp32Bytes (l.map (fun x => x.1)), fp32Bytes (l.map (fun x => x.2.1)), fp32Bytes (l.map (fun x => x.2.2))]
  else
    let l := ((v 0).zip ((v 1).zip (v 2))).map (fun x => sgdElem d x.1 x.2.1 x.2.2)
    [fp32Bytes (l.map (fun x => x.1)), fp32Bytes (l.map (fun x => x.2))]

/-- The stored line that the naming of an update's weight line compares it with, where that cannot be read (R355, R358). -/
def namingErr (s : State) (part : Nat) (u : Update) (row : List Byte) : Option (Partition × NameEntry) :=
  if dwNm u.desc.dws then
    (partOf s part).bind (fun p =>
      ((nameRow p false row).bind (nameAt p)).bind (fun e => if (nameErr s p e).isSome then some (p, e) else none))
  else none

/-- The effects of an update whose lines have been read: the B lines, the name and the count (R354). -/
def applyUpdate (s : State) (part : Nat) (u : Update) (ins : List (List Byte)) : State :=
  let d := u.desc
  let outs := updateOuts d ins
  let s := (updateReads u).foldl (fun s a => useLeaf s part d.asid d.gen (.ipa a)) s
  let s := ((updateWrites u).zip outs).foldl (fun s p => updatePut s part u p.1 p.2) s
  let s := if dwNm d.dws then
      let r := lookName s part false (outs.headD [])
      updatePut r.1 part u (tableIpa d u.ipa) (natBytes r.2.2.2 16)
    else s
  let bar := (d.dw 9).toNat
  let counts := dwBc d.dws && ((partOf s part).map (fun p => isBarrier p bar)).getD false && !refusesCounts s part bar
    && (countError s part bar).isNone
  let s := if counts then countBytes s part bar 256 else s
  dropUpdate s part u.id

/-- fire: the update of a line runs, waits for a page or a block, or fails; one that has failed goes on failing (R354, R355, R179). No
context has consumed what it reads: a policy of 10 resets its partition (R175; log entry 118). -/
def runUpdate (s : State) (part : Nat) (u : Update) : State :=
  match u.fail with
  | some ea => goFail s part u ea
  | none =>
    let reads := (updateReads u).map (fun a => (a, updateAns s part u a 256 false))
    let tests := (updateWrites u).map (fun a => (a, updateAns s part u a 256 true))
      ++ (if dwNm u.desc.dws then [(tableIpa u.desc u.ipa, updateAns s part u (tableIpa u.desc u.ipa) 16 true)] else [])
    let ins := reads.map (fun p => p.2.bytes)
    match (reads ++ tests).find? (fun p => !p.2.good), namingErr s part u ((updateOuts u.desc ins).headD []) with
    | none, none => applyUpdate s part u ins
    | none, some (p, e) => failUpdate (noteLine s part p e) part u (lineAddr p e.line)
    | some (_, .miss _ ipa bad write), _ => updateMiss s part u ipa bad write
    | some (_, .wait), _ => s
    | some (a, e), _ => updateErr (failUpdate s part u a) part e

/-- The updates of a partition that wait for no notice run again. -/
def settleUpdates (s : State) (part : Nat) : State :=
  match partOf s part with
  | none => s
  | some p => (p.updates.filter (fun u => u.notice.isNone)).foldl (fun s u => runUpdate s part u) s

/-- The host's answer reaches the updates that it concerns: a denial fails an update, and one that has failed goes on without the
write (R181, R355). -/
def answerUpdates (s : State) (part num : Nat) (denied : Bool) : State :=
  match partOf s part with
  | none => s
  | some p =>
    (p.updates.filter (fun u => isNotice num u.notice)).foldl (fun s u =>
      let u := { u with notice := none }
      let s := putUpdate s part u
      if !denied then runUpdate s part u
      else
        match u.fail with
        | some ea => goFail s part { u with todo := u.todo.drop 1 } ea
        | none => failUpdate s part u u.miss) s

/-- CZ_BLOCK_EXPAND: a block of a cz page is expanded, with its metadata entry read first. A fetch that fails leaves the entry
missing, which a write then meets; where none does, the next expansion finds the block poisoned (R341, R342). Updates that waited
for it run, also where they find it poisoned (R355). -/
def execCzBlockExpand (part asid block : Nat) (s : State) : Host.Outcome State Fault Refusal :=
  .next (match czBlock s part asid block, partOf s part with
    | some l, some p =>
      if p.czMissing.contains block then
        settleUpdates (mcRecord (modPart s part (fun p => poisonCz p block)) part (srcOfLoc l) 0xD03 0 3 0x3FF
          (BitVec.ofNat 64 (4096 * block)) (4096 * block)) part
      else if ((kget p.cz block).map (fun m => m.pz)).getD true then s
      else
        let f := mdFetch s (czKey s part block)
        if f.1 then modPart f.2 part (fun p => { p with czMissing := insertNat p.czMissing block })
        else settleUpdates (modPart f.2 part (fun p => { p with cz := kdel p.cz block })) part
    | _, _ => s)


/-- An armed line of a partition. -/
def armedAt (p : Partition) (ipa : Nat) : Option Armed := p.lines.find? (fun a => a.ipa == ipa)

/-- The armed line that an agent of a core meets: it was armed by the core itself, or its arming has had its far event (R367). -/
def armedFor (s : State) (p : Partition) (core ipa : Nat) : Option Armed :=
  (armedAt p ipa).filter (fun a => a.core == core || performedFar s a.acc)

/-- LEXP arms its next line at its home, with a write of its own or with that of the line's zeros, and the line stays allocated
(R352, R367). counted is the lines judged, value those armed, and code the first status met. A line that another core is arming is
waited for (log entry 106). -/
def lexpUop (s : State) (c : Cmd) : State :=
  let x := c.val 1
  let ea := c.val 0 + BitVec.ofNat 64 (256 * c.counted)
  let step (s : State) (code armed : Nat) : State :=
    modCmd s c.id (fun c => { c with counted := c.counted + 1, code := if c.code = 0 then code else c.code, value := c.value + armed })
  if wbits x 31 0 ≤ c.counted then finish s c c.code c.value
  else
    match partOf s c.part, lineIpa s c ea 256 .write, lineAns s c ea 256 .write true with
    | some p, .ok ipa, .ok _ =>
      match slotFor s p c.core (wbits x 47 44) with
      | none => finish s c 0xE84 c.value
      | some d =>
        let slice := sliceOf s c.part c.asid c.gen ipa
        if (armedFor s p c.core ipa).isSome then step s 0xE81 0
        else if (armedAt p ipa).isSome then s
        else if Config.armedDepth ≤ (p.lines.filter (fun a => a.slice == slice)).length then step s 0xE83 0
        else
          let t := if x.getLsbD 43 then engPut s c ea (natBytes 0 256)
            else { addAccess s (setupAccess s c) with nearNext := s.nearNext + 1 }
          let t := modPart t c.part (fun p => { p with lines := p.lines ++ [⟨ipa, wbits x 63 48, slice, d, c.core, s.nextId⟩] })
          step (useLeaf t c.part c.asid c.gen (.ipa ipa)) 0 1
    | _, _, a => lineStop s c a

/-- LRED adds its contribution, and fires the update at count 0 (R353). -/
def lredUop (s : State) (c : Cmd) : State :=
  let row := granulesAt s c (c.val 1) 8
  match firstStop row, lineIpa s c (c.val 0) 256 .write, lineAns s c (c.val 0) 256 .write true, partOf s c.part with
  | some a, _, _, _ => lineStop s c a
  | none, .ok ipa, .ok _, some p =>
    match armedFor s p c.core ipa with
    | none => finish s c 0xE82 0
    | some line =>
      match homeAns s c.part c.asid c.gen (c.val 0) ipa 256 false with
      | .ok g =>
        let sum := fp32Bytes (((fp32Line g).zip (fp32Line (row.flatMap EngAns.bytes))).map (fun x => add32 x.1 x.2))
        let s := homeWrite (granulesUse s c (c.val 1) 8) c.part c.asid c.gen c.core c.id ipa sum
        let left := line.count - 1
        if left = 0 then
          let u : Update := ⟨s.nextId, ipa, line.desc, none, 0, none, []⟩
          let s := modPart { s with nextId := s.nextId + 1 } c.part (fun p =>
            { p with lines := p.lines.filter (fun a => a.ipa != ipa), updates := p.updates ++ [u] })
          runUpdate (finish s c 0 0) c.part u
        else
          finish (modPart s c.part (fun p =>
            { p with lines := p.lines.map (fun a => if a.ipa = ipa then { a with count := left } else a) })) c 0 left
      | a => lineStop s c a
  | none, _, a, _ => lineStop s c a

/-- LQRY (R356). -/
def lqryUop (s : State) (c : Cmd) : State :=
  match lineIpa s c (c.val 0) 256 .read, lineAns s c (c.val 0) 256 .read false with
  | .ok ipa, .ok _ =>
    match (partOf s c.part).bind (fun p => armedFor s p c.core ipa) with
    | some a => finish s c 0 (2 ^ 16 + a.count)
    | none => finish s c 0 0
  | _, a => lineStop s c a

/-! Named lines (R358 to R362). -/

/-- A command's work is done, with its status and a name in its triple (R349). -/
def finishName (s : State) (c : Cmd) (code value name : Nat) : State :=
  modCmd (finish s c code value) c.id (fun c => { c with out := [nameLo name, nameHi name] })

/-- A read error of a named line stops a command. -/
def nameStop (s : State) (c : Cmd) (p : Partition) (e : NameEntry) (code : Nat) : State :=
  let a := lineAddr p e.line
  lineStop s c (.error code (BitVec.ofNat 64 a) a (.pa a) 0#64)

/-- NLOOK (R358). -/
def nlookUop (s : State) (c : Cmd) : State :=
  let l := granulesAt s c (c.val 0) 8
  match firstStop l, partOf s c.part with
  | some a, _ => lineStop s c a
  | none, none => s
  | none, some p =>
    let row := l.flatMap EngAns.bytes
    let kind := (c.val 1).getLsbD 0
    let s := granulesUse s c (c.val 0) 8
    match (nameRow p kind row).bind (nameAt p) with
    | some e =>
      match nameErr s p e with
      | some code => nameStop s c p e code
      | none =>
        let r := lookName s c.part kind row
        finishName r.1 c r.2.1 r.2.2.1 r.2.2.2
    | none =>
      let r := lookName s c.part kind row
      finishName r.1 c r.2.1 r.2.2.1 r.2.2.2

/-- NREF, NREL and NHAS (R359). -/
def refUop (s : State) (c : Cmd) : State :=
  let n := nameOf (c.val 0) (c.val 1)
  match badName n, (partOf s c.part).bind (fun p => nameAt p n) with
  | true, _ => finish s c 0xE88 0
  | false, none =>
    match c.instr with
    | .nhas .. => finish s c 0 0
    | _ => finish s c 0xE86 0
  | false, some e =>
    match c.instr with
    | .nref .. => finish (takeRef s c.part n) c 0 (satInc e.count)
    | .nrel .. => finish (dropRef s c.part n) c 0 (if e.count = 0xFFFFFFFF then e.count else e.count - 1)
    | _ => finish s c 0 (2 ^ 32 + e.count)

/-- The place of a root slot among the variables that keep what a release covers. -/
def slotKey (ipa : Nat) : Nat := 2 ^ 64 + ipa

/-- NSWAP (R360): one event at the slot's home, and a release. -/
def nswapUop (s : State) (c : Cmd) : State :=
  match lineIpa s c (c.val 0) 16 .write, lineAns s c (c.val 0) 16 .write true, partOf s c.part with
  | .ok ipa, .ok _, some p =>
    match homeAns s c.part c.asid c.gen (c.val 0) ipa 16 false with
    | .ok b =>
      let s := useLeaf s c.part c.asid c.gen (.ipa ipa)
      let old := leNat b
      if old = nameOf (c.val 1) (c.val 2) then
        let acq := gains s c p (slotKey ipa) false
        let s := homeWrite s c.part c.asid c.gen c.core c.id ipa (wordBytes (c.val 3) ++ wordBytes (c.val 4))
        let s := modPart s c.part (fun p => leave c p (slotKey ipa) false)
        modCmd (finishName s c 0 0 old) c.id (fun c => { c with acq := acq })
      else finishName s c 0xE8A 0 old
    | a => lineStop s c a
  | _, a, _ => lineStop s c a

/-- NGET writes the line of a name at its destination (R362). -/
def nameFetch (s : State) (c : Cmd) (p : Partition) (n : Nat) (acq : List Nat) : State :=
  let done (s : State) (code value : Nat) : State := modCmd (finishName s c code value n) c.id (fun c => { c with acq := acq })
  if badName n then done s 0xE88 0
  else
    match nameAt p n with
    | none => done s 0xE86 0
    | some e =>
      match nameErr s p e with
      | some code => nameStop s c p e code
      | none => writeRows s c [(wbits (c.val 0) 19 0, nameData s p e)] (fun s => done s 0 256)

/-- NGET (R362); its core is kept for its gang while that is pre-empted (log entries 29 and 87). -/
def ngetUop (s : State) (c : Cmd) : State :=
  match partOf s c.part with
  | none => s
  | some p =>
    if (c.val 0).getLsbD 63 then
      match lineIpa s c (c.val 1) 16 .read, lineAns s c (c.val 1) 16 .read false with
      | .ok ipa, .ok b => nameFetch (useLeaf s c.part c.asid c.gen (.ipa ipa)) c p (leNat b) (gains s c p (slotKey ipa) false)
      | _, a => lineStop s c a
    else nameFetch s c p (nameOf (c.val 1) (c.val 2)) []

/-- What a leaf position of a tree holds: its bytes, a status, or a read error of a line. -/
inductive LeafAns where
  | ok (data : List Byte)
  | status (code : Nat)
  | bad (e : NameEntry) (code : Nat)
  deriving DecidableEq, Repr

/-- The leaf at a position of a tree of a depth (R357, R361). -/
def leafAt (s : State) (p : Partition) (pos : Nat) : Nat → Nat → LeafAns
  | d, n =>
    if n = 0 then .ok (natBytes 0 256)
    else
      match nameAt p n with
      | none => .status 0xE86
      | some e =>
        match d with
        | 0 =>
          if isInterior n then .status 0xE89
          else
            match nameErr s p e with
            | some code => .bad e code
            | none => .ok (nameData s p e)
        | k + 1 =>
          if !isInterior n then .status 0xE89
          else
            match nameErr s p e with
            | some code => .bad e code
            | none => leafAt s p pos k (nth (childNames (nameData s p e)) (pos / 16 ^ k % 16))

/-- NOUT writes its next leaf (R361). counted is the lines written. -/
def noutUop (s : State) (c : Cmd) : State :=
  let n := nameOf (c.val 2) (c.val 3)
  let pos := c.counted
  let ea := c.val 0 + BitVec.ofNat 64 (256 * pos)
  match partOf s c.part with
  | none => s
  | some p =>
    if n ≠ 0 ∧ badName n = true then finish s c 0xE88 0
    else if outLines (c.val 1) ≤ pos then finish s c 0 pos
    else
      match leafAt s p pos (wbits (c.val 1) 63 60) n with
      | .status code => finish s c code pos
      | .bad e code => nameStop s c p e code
      | .ok data =>
        match lineAns s c ea 256 .write true with
        | .ok _ =>
          if heldAt s c ea 256 then s else modCmd (engPut s c ea data) c.id (fun c => { c with counted := pos + 1 })
        | a => lineStop s c a

/-! Mirror partners (R363, R364). -/

/-- The secured-state record of a partition is written, with the step of slot 0 as a core's agents see it (R363, R367). One that covers
part of a marked granule is not merged into it, and is recorded instead (R172, R417). -/
def writeSecured (s : State) (part core node code lines root : Nat) : State :=
  match (partOf s part).bind (fun p => p.secAt.map (fun a => (p, a))) with
  | none => s
  | some (p, a) =>
    let step := ((slotFor s p core 0).map (fun d => wbits (d.dw 15) 63 32)).getD 0
    if writeDropped s (.pa a) 48 then mcRecord s part (srcMemory a) 8 0 3 0x3FF (BitVec.ofNat 64 a) 0
    else
      locWrite s (.pa a) (natBytes s.tsc 8 ++ natBytes (node * 2 ^ 48 + code * 2 ^ 32 + if code = 0 then 2 ^ 31 else 0) 8
        ++ natBytes lines 8 ++ natBytes step 8 ++ natBytes root 16)

/-- The lines of a tree that a partner lacks, children before parents; the tree is at most depth deep (R364). -/
def missingLines (s : State) (p : Partition) : Nat → Nat → List Nat → List Nat
  | 0, _, seen => seen
  | d + 1, n, seen =>
    if n = 0 ∨ seen.contains n = true then seen
    else
      match nameAt p n with
      | none => seen
      | some e =>
        let below := if isInterior n then
            (childNames (nameData s p e)).foldl (fun acc c => missingLines s p d c acc) seen
          else seen
        below ++ [n]

/-- The status with which a partner ends a transfer at line n, 0 for none: it takes no line under another salt, nor one that it
has no room for (R364). -/
def partnerEnds (x : Partner) (n : Nat) : Nat := if !x.salts then 0xE8D else if x.room ≤ n then 0xE8E else 0

/-- The root that a mirror table holds for a node is replaced by a name that has its reference (R364). -/
def putMirror (s : State) (part node root : Nat) : State :=
  match partOf s part with
  | none => s
  | some p =>
    let old := kget p.mirrorTab node
    let s := modPart s part (fun p => { p with mirrorTab := if root = 0 then kdel p.mirrorTab node else kput p.mirrorTab node root })
    match old with
    | some r => dropRef s part r
    | none => s

/-- A transfer ends: the record is written and the command is done (R363, R364). -/
def endTransfer (s : State) (c : Cmd) (code lines root : Nat) : State :=
  finish (writeSecured s c.part c.core (c.val 0).toNat code lines root) c code lines

/-- NXFER to another device, by lines: counted of them are sent. The walk reads the interior lines that it enters and a line is read
as it is sent, so an error of either stops the command (R366); the link is judged at each line (R364). -/
def xferUop (s : State) (c : Cmd) (p : Partition) (node root : Nat) : State :=
  let x := partnerOf s node
  let n := c.counted
  let l := (missingLines s p (p.names.length + 1) root x.has).drop x.has.length
  let fails (m : Nat) : Option (NameEntry × Nat) := (nameAt p m).bind (fun e => (nameErr s p e).map (fun code => (e, code)))
  let up := x.link && pathUp s true s.node node
  match (l.filter isInterior).findSome? fails, (l[n]?).bind fails with
  | some e, _ | none, some e => nameStop s c p e.1 e.2
  | none, none =>
    if !up then endTransfer s c 0xE8F n root
    else if l.length ≤ n then
      let s := { s with
        partners := { x with has := x.has ++ l, room := x.room - l.length } :: s.partners.filter (fun y => y.node != node) }
      endTransfer s c (if x.feed = s.feed then 0xE8B else 0) n root
    else if partnerEnds x n ≠ 0 then endTransfer s c (partnerEnds x n) (n + 1) root
    else modCmd s c.id (fun c => { c with counted := n + 1 })

/-- NXFER (R364): the partner is asked first. The device's own node holds every line already (log entry 30). -/
def nxferUop (s : State) (c : Cmd) : State :=
  let node := (c.val 0).toNat
  let root := nameOf (c.val 1) (c.val 2)
  match partOf s c.part with
  | none => s
  | some p =>
    let own := node == s.node
    let refuses := if own then !p.mirrors.contains node else nodeRefuses s c.part node true || !(partnerOf s node).accepts
    if refuses then endTransfer s c 0xE8C c.counted root
    else if badName root then endTransfer s c 0xE88 c.counted root
    else if (nameAt p root).isNone then endTransfer s c 0xE86 c.counted root
    else if own then endTransfer (putMirror (takeRef s c.part root) c.part node root) c 0xE8B 0 root
    else xferUop s c p node root

/-- One line of a transfer from a partner is stored, with one reference (R364). held are the names whose reference waits
for a parent. -/
def takeLine (part : Nat) (r : State × List Nat × Bool) (m : Bool × List Byte × Nat) : State × List Nat × Bool :=
  let (s, held, failed) := r
  if failed then r
  else
    match (partOf s part).bind (fun p => nameRow p m.1 m.2.1) with
    | none => (s, held, true)
    | some n =>
      if n ≠ m.2.2 then (s, held, true)
      else
        let q := lookName s part m.1 m.2.1
        if q.2.1 ≠ 0 then (s, held, true)
        else
          let kids := if m.1 then held.filter (fun h => (childNames m.2.1).contains h) else []
          (kids.foldl (fun s c => dropRef s part c) q.1, held.filter (fun h => !kids.contains h) ++ [n], false)

/-- MIRROR_TRANSFER_RECEIVE: a partner sends a tree, and the mirror table takes its root; after a failure the references
taken are released (R319, R364). -/
def execMirrorTransferReceive (m : MirrorMsg) (s : State) : Host.Outcome State Fault Refusal :=
  .next (match partByIdent s m.ident with
    | none => s
    | some part =>
      if m.src = s.node ∨ ((partOf s part).map (fun p => p.mirrors.contains m.src)).getD false = false then s
      else
        let (s, held, failed) := m.lines.foldl (takeLine part) (s, [], false)
        let present := ((partOf s part).bind (fun p => nameAt p m.root)).isSome
        if failed || !m.link || !present then held.foldl (fun s n => dropRef s part n) s
        else
          let s := if held.contains m.root then s else takeRef s part m.root
          let s := (held.filter (fun n => n != m.root)).foldl (fun s n => dropRef s part n) s
          putMirror s part m.src m.root)

/-! Micro-operations and words. -/

/-- One micro-operation of a line command (R347, R366). LEXP, NOUT and NXFER go on from home to home. -/
def lineUop (s : State) (c : Cmd) : State :=
  if lineBefore s c then s
  else
    let s := if c.reached then s else modCmd s c.id (fun c => { c with work := [1] })
    match c.instr with
    | .lexp .. => lexpUop s c
    | .lred .. => lredUop s c
    | .lopt .. => loptUop s c
    | .lqry .. => lqryUop s c
    | .nlook .. => nlookUop s c
    | .nswap .. => nswapUop s c
    | .nget .. => ngetUop s c
    | .nout .. => noutUop s c
    | .nxfer .. => nxferUop s c
    | _ => refUop s c

/-- LEXP (R352). -/
def execLexp (scope : Scope) (xd : RegNo) (xa : RegNo) (xb : BitVec 5) (s : State) : Host.Outcome State Fault Refusal :=
  issueWord (.lexp scope xd xa xb) (lineFault (.lexp scope xd xa xb)) (issueLine (.lexp scope xd xa xb)) s

/-- LRED.scope.order (R353). -/
def execLred (ord : Order) (scope : Scope) (xd : RegNo) (xa : RegNo) (xb : BitVec 5) (s : State) : Host.Outcome State Fault Refusal :=
  issueWord (.lred ord scope xd xa xb) (lineFault (.lred ord scope xd xa xb)) (issueLine (.lred ord scope xd xa xb)) s

/-- LOPT (R351). -/
def execLopt (scope : Scope) (xd : RegNo) (xa : RegNo) (xb : BitVec 5) (s : State) : Host.Outcome State Fault Refusal :=
  issueWord (.lopt scope xd xa xb) (lineFault (.lopt scope xd xa xb)) (issueLine (.lopt scope xd xa xb)) s

/-- LQRY.scope.order (R356). -/
def execLqry (ord : Order) (scope : Scope) (xd : RegNo) (xa : RegNo) (s : State) : Host.Outcome State Fault Refusal :=
  issueWord (.lqry ord scope xd xa) (lineFault (.lqry ord scope xd xa)) (issueLine (.lqry ord scope xd xa)) s

/-- NLOOK (R358). -/
def execNlook (scope : Scope) (xd : RegNo) (xa : RegNo) (xb : BitVec 5) (s : State) : Host.Outcome State Fault Refusal :=
  issueWord (.nlook scope xd xa xb) (lineFault (.nlook scope xd xa xb)) (issueLine (.nlook scope xd xa xb)) s

/-- NREF (R359). -/
def execNref (scope : Scope) (xd : RegNo) (xn : BitVec 5) (s : State) : Host.Outcome State Fault Refusal :=
  issueWord (.nref scope xd xn) (lineFault (.nref scope xd xn)) (issueLine (.nref scope xd xn)) s

/-- NREL.scope.order (R359). -/
def execNrel (ord : Order) (scope : Scope) (xd : RegNo) (xn : BitVec 5) (s : State) : Host.Outcome State Fault Refusal :=
  issueWord (.nrel ord scope xd xn) (lineFault (.nrel ord scope xd xn)) (issueLine (.nrel ord scope xd xn)) s

/-- NSWAP.scope.order (R360). -/
def execNswap (ord : Order) (scope : Scope) (xd : RegNo) (xa : RegNo) (xq : BitVec 3) (s : State) : Host.Outcome State Fault Refusal :=
  issueWord (.nswap ord scope xd xa xq) (lineFault (.nswap ord scope xd xa xq)) (issueLine (.nswap ord scope xd xa xq)) s

/-- NGET.scope.order (R362). -/
def execNget (ord : Order) (scope : Scope) (xd : RegNo) (xn : BitVec 5) (xb : BitVec 5) (s : State) : Host.Outcome State Fault Refusal :=
  issueWord (.nget ord scope xd xn xb) (lineFault (.nget ord scope xd xn xb)) (issueLine (.nget ord scope xd xn xb)) s

/-- NOUT (R361). -/
def execNout (scope : Scope) (xd : RegNo) (xn : BitVec 5) (xp : BitVec 4) (s : State) : Host.Outcome State Fault Refusal :=
  issueWord (.nout scope xd xn xp) (lineFault (.nout scope xd xn xp)) (issueLine (.nout scope xd xn xp)) s

/-- NHAS (R359). -/
def execNhas (scope : Scope) (xd : RegNo) (xn : BitVec 5) (s : State) : Host.Outcome State Fault Refusal :=
  issueWord (.nhas scope xd xn) (lineFault (.nhas scope xd xn)) (issueLine (.nhas scope xd xn)) s

/-- NXFER.scope.order (R364). -/
def execNxfer (ord : Order) (scope : Scope) (xd : RegNo) (xn : BitVec 5) (xb : BitVec 5) (s : State) : Host.Outcome State Fault Refusal :=
  issueWord (.nxfer ord scope xd xn xb) (lineFault (.nxfer ord scope xd xn xb)) (issueLine (.nxfer ord scope xd xn xb)) s


end Sys2Proof.Machine
end

