-- ==== Sys2Proof/Machine/Mail.lean ====
section
/-! DEFINITION. The mailboxes' registers, and interrupts (R401, R407, R408; log entry 27). -/

namespace Sys2Proof.Machine

/-- Function 0 is the PF, and function v + 1 is VF v (R400). -/
def fnOfVf (v : Nat) : Nat := v + 1

/-- The function of a partition's control VF (R400). -/
def controlFn (s : State) (part : Nat) : Option Nat :=
  (s.vfs.find? (fun b => b.2.part == part && b.2.control)).map (fun b => fnOfVf b.1)

/-- An MSI-X vector raised on a function, unless its table masks it (R408). -/
def raiseFn (s : State) (fn vec : Nat) : State :=
  if s.masked.contains (fn, vec) then s else { s with msix := (fn, vec) :: s.msix }

/-- The masks of a function's vectors after a write of one of its registers that is none of its mailbox (R408; log entry 109). -/
def writeMasks (s : State) (fn off : Nat) (val : Word) : State :=
  let decided := [0, 1, 2, 3].filter (fun v => (Config.maskWrite off val v).isSome)
  let kept := s.masked.filter (fun m => m.1 != fn || !decided.contains m.2)
  let set := decided.filter (fun v => Config.maskWrite off val v == some true)
  { s with masked := set.map (fun v => (fn, v)) ++ kept }

/-- A vector raised on the PF and on the control VF of a partition (R407). -/
def raisePart (s : State) (part vec : Nat) : State :=
  let s := raiseFn s 0 vec
  match controlFn s part with
  | some fn => raiseFn s fn vec
  | none => s

/-- A vector raised on the PF and on the control VF of every partition (R408). -/
def raiseAll (s : State) (vec : Nat) : State :=
  (s.vfs.filter (fun b => b.2.control)).foldl (fun s b => raiseFn s (fnOfVf b.1) vec) (raiseFn s 0 vec)

/-- A function's mailbox. -/
def mailOf (s : State) (fn : Nat) : Mailbox := kgetD s.mail fn default

/-- Bit go of a command doubleword (R401). -/
def goBit : Word := 0x8000000000000000#64

/-- A command's status is final: go falls, a reply replaces the request, and vector 0 is raised (R401). -/
def endMail (s : State) (fn code value : Nat) (reply : Option (List Byte)) : State :=
  let m := mailOf s fn
  let x : Mailbox :=
    { command := m.command &&& ~~~goBit
      status := BitVec.ofNat 64 (code % 2 ^ 16 * 2 ^ 48 + value % 2 ^ 48)
      payload := match reply with
        | some b => memWrite [] 0 b
        | none => m.payload
      waiting := none
      bell := m.bell }
  raiseFn { s with mail := kput s.mail fn x } fn 0

end Sys2Proof.Machine
end

