-- ==== Sys2Proof/Machine/Balance.lean ====
section
/-! DEFINITION. The balance engine: the checks of a graph record, its exact solution, its firing table and its output
area (R377 to R379, R384). -/

namespace Sys2Proof.Machine

/-- An edge of a graph record (R377). -/
structure GEdge where
  src : Nat
  dst : Nat
  p : Nat
  c : Nat
  init : Nat
  deriving DecidableEq, Repr, Inhabited

/-- What a solution ends in: a fault with its tval, or the repetition counts, the buffer sizes, the runs and the firings
of one period. -/
inductive Solved where
  | fault (code tval : Nat)
  | ok (q occ : List Nat) (runs : List (Nat × Nat)) (total : Nat)
  deriving DecidableEq, Repr, Inhabited

/-- A doubleword of a graph record. -/
def gdw (r : List Byte) (off : Nat) : Nat := leNat ((r.drop off).take 8)

/-- The byte that holds a number's lowest set bit. -/
def lowByte (v : Nat) : Nat → Nat
  | 0 => 0
  | n + 1 => if v % 256 = 0 then 1 + lowByte (v / 256) n else 0

/-- The fault of an MBZ range of one doubleword (R384). -/
def mbzAt (off v : Nat) : Option Nat := if v = 0 then none else some (off + lowByte v 8)

/-- Nodes and edges of a record. -/
def gNodes (r : List Byte) : Nat := nbits (gdw r 0) 63 57
def gEdges (r : List Byte) : Nat := nbits (gdw r 0) 56 49

/-- The offset named by the first fault of the header (R377, R384). -/
def headFault (r : List Byte) : Option Nat :=
  if gNodes r = 0 ∨ 64 < gNodes r then some 7
  else if 128 < gEdges r then some 6
  else (mbzAt 0 (nbits (gdw r 0) 48 0)).or ((upFrom 1 7).findSome? (fun i => mbzAt (8 * i) (gdw r (8 * i))))

/-- The fault of a node's field. -/
def nodeField (r : List Byte) (n : Nat) : Option Nat :=
  let a := gdw r (0x40 + 8 * n)
  if (if n < gNodes r then a = 0 ∨ a % 128 ≠ 0 else a ≠ 0) then some (0x40 + 8 * n) else none

/-- The fault of an edge's fields. -/
def edgeField (r : List Byte) (e : Nat) : Option Nat :=
  let o := 0x240 + 16 * e
  let x := gdw r o
  let y := gdw r (o + 8)
  if gEdges r ≤ e then (mbzAt o x).or (mbzAt (o + 8) y)
  else if gNodes r ≤ nbits x 63 58 then some (o + 7)
  else if gNodes r ≤ nbits x 57 52 then some (o + 6)
  else if nbits x 51 40 = 0 then some (o + 5)
  else if nbits x 39 28 = 0 then some (o + 3)
  else if nbits x 27 0 ≠ 0 then mbzAt o (nbits x 27 0)
  else if nbits y 63 32 = 0 then some (o + 12)
  else none

/-- The edges of a record. -/
def edgesIn (r : List Byte) : List GEdge :=
  (upFrom 0 (gEdges r)).map (fun e =>
    let x := gdw r (0x240 + 16 * e)
    ⟨nbits x 63 58, nbits x 57 52, nbits x 51 40, nbits x 39 28, nbits (gdw r (0x248 + 16 * e)) 31 0⟩)

/-- The node addresses of a record. -/
def nodesIn (r : List Byte) : List Nat := (upFrom 0 (gNodes r)).map (fun n => gdw r (0x40 + 8 * n))

/-! The rates (R378). -/

/-- A positive rational number. -/
abbrev Rate := Nat × Nat

/-- A rate times n over d, in lowest terms. -/
def Rate.times (x : Rate) (n d : Nat) : Rate :=
  let g := Nat.gcd (x.1 * n) (x.2 * d)
  (x.1 * n / g, x.2 * d / g)

/-- One edge of a pass over the edges. -/
def rateEdge (q : List (Option Rate)) (e : GEdge) : List (Option Rate) :=
  match q.getD e.src none, q.getD e.dst none with
  | some x, none => q.set e.dst (some (x.times e.p e.c))
  | none, some x => q.set e.src (some (x.times e.c e.p))
  | _, _ => q

/-- Passes over the edges until nothing is set any more. -/
def ratePasses (es : List GEdge) (q : List (Option Rate)) : Nat → List (Option Rate)
  | 0 => q
  | n + 1 => ratePasses es (es.foldl rateEdge q) n

/-- The rates of a record's nodes, none for a node that is not joined to node 0. -/
def ratesOf (nodes : Nat) (es : List GEdge) : List (Option Rate) :=
  ratePasses es ((List.replicate nodes none).set 0 (some (1, 1))) nodes

/-- Whether an edge's rates balance. -/
def balanced (q : List (Option Rate)) (e : GEdge) : Bool :=
  match q.getD e.src none, q.getD e.dst none with
  | some x, some y => x.1 * e.p * y.2 == y.1 * e.c * x.2
  | _, _ => true

/-- Rates scaled to the smallest positive integers with the same ratios. -/
def scaled (q : List Rate) : List Nat :=
  let l := q.foldl (fun m x => Nat.lcm m x.2) 1
  let ints := q.map (fun x => x.1 * (l / x.2))
  let g := ints.foldl Nat.gcd 0
  ints.map (fun n => n / g)

/-! The firing table (R378). -/

/-- A play of the firings: the tokens and highest occupancy of each edge, the firings of each node, the runs so far, the
latest first, and the firings in all. -/
structure Play where
  tok : List Nat
  occ : List Nat
  fired : List Nat
  runs : List (Nat × Nat)
  made : Nat
  deriving DecidableEq, Repr, Inhabited

/-- Whether a node may fire. -/
def mayFire (es : List GEdge) (q : List Nat) (x : Play) (n : Nat) : Bool :=
  decide (nth x.fired n < nth q n) && (es.zip x.tok).all (fun e => e.1.dst != n || decide (e.1.c ≤ e.2))

/-- A run added for a node that fires. -/
def addRun (runs : List (Nat × Nat)) (n : Nat) : List (Nat × Nat) :=
  match runs with
  | (m, k) :: rest => if m = n ∧ k < 1023 then (m, k + 1) :: rest else (n, 1) :: runs
  | [] => [(n, 1)]

/-- A node fires. -/
def fire (es : List GEdge) (x : Play) (n : Nat) : Play :=
  let tok := (es.zip x.tok).map (fun e =>
    e.2 - (if e.1.dst = n then e.1.c else 0) + (if e.1.src = n then e.1.p else 0))
  { tok := tok, occ := (x.occ.zip tok).map (fun o => max o.1 o.2), fired := x.fired.set n (nth x.fired n + 1),
    runs := addRun x.runs n, made := x.made + 1 }

/-- Firings of a period, lowest node first. -/
def playOut (es : List GEdge) (q : List Nat) (x : Play) : Nat → Solved
  | 0 =>
    if 4096 < x.runs.length then .fault 0xF01 0 else .ok q x.occ x.runs.reverse x.made
  | n + 1 =>
    match (upFrom 0 q.length).find? (mayFire es q x) with
    | none => .fault 0xF03 x.made
    | some m =>
      let y := fire es x m
      match (upFrom 0 es.length).find? (fun e => decide (2 ^ 32 ≤ nth y.occ e)) with
      | some e => .fault 0xF01 (0x248 + 16 * e)
      | none => playOut es q y n

/-- The solution of a graph record (R377, R378). -/
def solveGraph (r : List Byte) : Solved :=
  match ((headFault r).or ((upFrom 0 64).findSome? (nodeField r))).or ((upFrom 0 128).findSome? (edgeField r)) with
  | some off => .fault 0xF01 off
  | none =>
    let es := edgesIn r
    let q := ratesOf (gNodes r) es
    match (upFrom 0 q.length).find? (fun n => (q.getD n none).isNone),
        (upFrom 0 es.length).find? (fun e => !balanced q (es.getD e default)) with
    | some n, _ => .fault 0xF01 (0x40 + 8 * n)
    | none, some e => .fault 0xF02 e
    | none, none =>
      let k := scaled (q.map (fun x => x.getD (1, 1)))
      match (upFrom 0 k.length).find? (fun n => decide (65535 < nth k n)) with
      | some n => .fault 0xF01 (0x40 + 8 * n)
      | none =>
        let t := es.map (fun e => e.init)
        playOut es k ⟨t, t, List.replicate k.length 0, [], 0⟩ k.sum

/-! The output area (R379). -/

/-- The bytes of the output area. -/
def areaBytes (q occ : List Nat) (runs : List (Nat × Nat)) (total : Nat) : List Byte :=
  natBytes (runs.length * 2 ^ 48 + total) 8 ++ natBytes 0 0xF8
  ++ (upFrom 0 64).flatMap (fun n => natBytes (nth q n) 4)
  ++ (upFrom 0 128).flatMap (fun e => natBytes (nth occ e * 2 ^ 32) 8)
  ++ runs.flatMap (fun x => natBytes (x.1 * 2 ^ 10 + x.2) 2)

/-- The firing sequence of a table. -/
def firingsOf (runs : List (Nat × Nat)) : List Nat := runs.flatMap (fun x => List.replicate x.2 x.1)

end Sys2Proof.Machine
end

