-- ==== Sys2Proof/Machine/Place.lean ====
section
/-! DEFINITION. Placing tasks: the checks of a task record, placement on cores, ranges of a grid, weight versions,
graph firings, and the scan of the policy table (R78, R79, R369 to R376, R380, R393, R396, R397). -/

namespace Sys2Proof.Machine

/-! Reads of the scheduler (log entry 6). -/

/-- What stops a read of the scheduler: a page miss, an answer of the host that denied the page, or an error of the memory side. -/
inductive UnitFail where
  | miss (ipa : Nat) (bad : Bool)
  | denied
  | err (ipa code : Nat) (l : Loc) (leaf : Word)
  deriving DecidableEq, Repr, Inhabited

/-- What a read by the scheduler answers. -/
inductive UnitAns where
  | ok (b : List Byte)
  | fails (f : UnitFail)
  deriving DecidableEq, Repr, Inhabited

/-- n bytes read by the scheduler at an IPA. -/
def unitAns (s : State) (part : Nat) (p : Partition) (ipa n : Nat) : UnitAns :=
  match findDest s part p.curAsid (kgetD p.gens p.curAsid 0) (.ipa ipa) false with
  | .miss bad => .fails (if p.deniedPages.contains (ipa / 2 ^ 16) then .denied else .miss ipa bad)
  | .place l leaf =>
    if leafCn leaf then .fails (.err ipa 0xC l leaf)
    else
      match locError s l n with
      | some code => .fails (.err ipa code l leaf)
      | none => .ok (locBytes s l n)

/-- The state after the scheduler has read n bytes: the lines that they touch have used their leaves (R177, R178). -/
def unitUse (s : State) (part : Nat) (p : Partition) (ipa n : Nat) : State :=
  (upFrom (ipa / 256) ((ipa + n - 1) / 256 + 1 - ipa / 256)).foldl (fun s i =>
    useLeaf s part p.curAsid (kgetD p.gens p.curAsid 0) (.ipa (256 * i))) s

/-- What reading a range set answers. -/
inductive RangeAns where
  | ok (l : List RangeEntry)
  | fails (f : UnitFail)
  | refused
  deriving DecidableEq, Repr, Inhabited

/-- n entries of a range set, read by the scheduler (R173). -/
def rangesAns (s : State) (part : Nat) (p : Partition) (ipa : Nat) : Nat → RangeAns
  | 0 => .ok []
  | n + 1 =>
    match unitAns s part p ipa 32 with
    | .fails f => .fails f
    | .ok b =>
      match parseRange b, rangesAns s part p (ipa + 32) n with
      | some e, .ok l => .ok (e :: l)
      | some _, a => a
      | none, _ => .refused

/-- An access of the scheduler misses: a notice without a gang is written, once while it waits for its answer (R179). -/
def unitMiss (s : State) (part ipa : Nat) (bad write : Bool) : State :=
  match partOf s part with
  | none => s
  | some p =>
    if p.notices.any (fun n => n.gang.isNone && n.ipa / 2 ^ 16 == ipa / 2 ^ 16) then s
    else raiseNotice s part p.curAsid (kgetD p.gens p.curAsid 0) (if write then 1 else 0) 0x3FF none ipa bad .unit

/-- What a stopped read of the scheduler leaves: a notice, or the record of an error, which is written once for each place (R172,
R175, R179; DESIGN CHOICE, log entry 107). -/
def unitFail (s : State) (part : Nat) (f : UnitFail) : State :=
  match f with
  | .miss ipa bad => unitMiss s part ipa bad false
  | .denied => s
  | .err ipa code l leaf =>
    if (partOf s part).any (fun p => p.unitErrs.contains ipa) then s
    else
      modPart (consume s part 0x3FF 0 none (BitVec.ofNat 64 ipa) ipa code l leaf) part (fun p =>
        { p with unitErrs := insertNat p.unitErrs ipa })

/-! Task records (R78). -/

/-- The fields of a record that R78 refuses, in its order: whether each is refused, and its byte offset. -/
def recordChecks (r : List Byte) : List (Bool × Nat) :=
  let f (off hi lo : Nat) : Nat := recFld r off hi lo
  let hi := f 0x48 48 32
  [(f 0 3 0 != 0 || f 0 63 48 != 0, 0), (f 8 3 0 != 0 || f 8 63 48 != 0, 8), (f 0x10 3 0 != 0 || f 0x10 63 48 != 0, 0x10),
   (f 0x20 5 0 != 0, 0x20), (f 0x28 30 16 != 0, 0x2A), (f 0x30 63 32 != 0, 0x34), (f 0x30 31 0 == 0, 0x30),
   (f 0x38 19 0 != 0, 0x38), (f 0x40 22 0 != 0, 0x40), (f 0x48 63 49 != 0, 0x4E),
   (decide (hi ≤ f 0x48 16 0) || decide (f 0x28 15 0 + 1 < hi), 0x4C), (f 0x48 31 17 != 0, 0x4A),
   ((r.drop 0x60).any (fun b => b != 0#8), 0x60)]

/-- The byte offset of the first refused field of a record itself (R78, R394). -/
def refusedField (r : List Byte) : Option Nat := ((recordChecks r).find? (fun c => c.1)).map (fun c => c.2)

/-- The check of a record: its range set, what stops reading that, or the offset of the refused field, with the error of a range
set that cannot be read (R78, R173). -/
inductive RecordAns where
  | ok (l : List RangeEntry)
  | miss (ipa : Nat) (bad : Bool)
  | refused (off : Nat) (f : Option UnitFail)
  deriving DecidableEq, Repr, Inhabited

/-- A record's check. -/
def checkRecord (s : State) (part : Nat) (p : Partition) (r : List Byte) : RecordAns :=
  match refusedField r with
  | some off => .refused off none
  | none =>
    match rangesAns s part p (recFld r 0x20 63 0) (recFld r 0x28 36 31 + 1) with
    | .ok l => .ok l
    | .fails (.miss a bad) => .miss a bad
    | .fails f => .refused 0x20 (some f)
    | .refused => .refused 0x20 none

/-- The state after a check that has refused. -/
def checkFail (s : State) (part : Nat) (f : Option UnitFail) : State :=
  match f with
  | none => s
  | some f => unitFail s part f

/-- The doubleword at an offset of a record replaced. -/
def setDw (r : List Byte) (off v : Nat) : List Byte := r.take off ++ natBytes v 8 ++ r.drop (off + 8)

/-- A record with tag, sid, kind, g and the range [lo, lo + 1) replaced, and nothing else (R369, R380). -/
def retag (r : List Byte) (tag sid kind g lo : Nat) : List Byte :=
  let d := tag * 2 ^ 48 + sid * 2 ^ 44 + recFld r 0x28 43 41 * 2 ^ 41 + kind * 2 ^ 39 + recFld r 0x28 38 16 * 2 ^ 16 + g
  setDw (setDw r 0x28 d) 0x48
    (recFld r 0x48 63 49 * 2 ^ 49 + (lo + 1) * 2 ^ 32 + recFld r 0x48 31 17 * 2 ^ 17 + lo)

/-- A record with its weight root replaced (R374). -/
def setRoot (r : List Byte) (root : Option Nat) : List Byte :=
  let d := recFld r 0x28 63 38 * 2 ^ 38 + (if root.isSome then 2 ^ 37 else 0) + recFld r 0x28 36 0
  setDw r 0x28 d |>.take 0x50 |>.append (natBytes (root.getD 0) 16) |>.append (r.drop 0x60)

/-! Placement on cores (R79, R373). -/

/-- The enabled cores of a cluster that no gang holds. -/
def freeCores (s : State) (cl : Nat) : List Nat :=
  (upFrom (8 * cl) 8).filter (fun n => coreEnabled s n && !s.gangs.any (fun g => g.2.cores.contains n))

/-- The cores that a task of n cores takes: the lowest cluster that has them, and its lowest free cores (R373). -/
def fitCores (s : State) (p : Partition) (n : Nat) : Option (List Nat) :=
  ((p.clusters.find? (fun cl => decide (n ≤ (freeCores s cl).length)))).map (fun cl => (freeCores s cl).take n)

/-- Cores that a record asks for. -/
def recCores (r : List Byte) : Nat := recFld r 0x28 43 41 + 1

/-- Whether a record's two apertures overlap; such a task is never placed (R114). -/
def aperturesMeet (r : List Byte) : Bool :=
  decide (recFld r 0x38 63 0 < recFld r 0x40 63 0 + 2 ^ 23) && decide (recFld r 0x40 63 0 < recFld r 0x38 63 0 + 2 ^ 20)

/-- A task as it is to be placed. -/
structure Placing where
  record : List Byte
  ranges : List RangeEntry
  cores : List Nat
  priv : Bool
  grid : Nat
  gid : Nat
  g : Nat
  pos : Nat
  firing : Option (Nat × Nat)
  securing : Bool
  kind : Nat
  deriving DecidableEq, Repr, Inhabited

/-- A context at task start (R79, R374). -/
def startCtx (r : List Byte) (off : Nat) : Ctx :=
  let c := ({ Ctx.reset with pc := leWord ((r.drop off).take 8) }).setReg 1#6 (XReg.full (leWord ((r.drop 0x18).take 8)))
  if recFld r 0x28 37 37 = 1 then
    (c.setReg 2#6 (XReg.full (leWord ((r.drop 0x50).take 8)))).setReg 3#6 (XReg.full (leWord ((r.drop 0x58).take 8)))
  else c

/-- What a placed task gives its core (R67, R79). -/
def startTask (x : Placing) (part asid gen gang tid : Nat) : Task :=
  let r := x.record
  { gang := gang, part := part, asid := asid, gen := gen, priv := x.priv, lwb := leWord ((r.drop 0x38).take 8),
    cwb := leWord ((r.drop 0x40).take 8), gid := x.gid, tid := tid, sid := recFld r 0x28 47 44, tag := recFld r 0x28 63 48,
    grp := x.g, kind := x.kind, fenced := recFld r 0x28 38 38 == 1, rset := leWord ((r.drop 0x20).take 8),
    rcnt := recFld r 0x28 36 31 + 1, ranges := x.ranges }

/-- A core at task start: every register and engine slot as R79 says, the scratchpad's contents unspecified. The last
winners of its arbitrations stay. -/
def startCore (s : State) (n : Nat) (t : Task) (r : List Byte) : State :=
  let k := coreOf s n
  { setCore s n { Core.reset with
      task := some t, sp := freeScratch s.free, won := k.won, banks := k.banks
      ctxL := startCtx r 0, ctxC := startCtx r 8, ctxS := startCtx r 0x10 } with free := s.free + 1 }

/-- The cores of a gang start, in tid order. -/
def startCores (s : State) (x : Placing) (part asid gen gang : Nat) : Nat → List Nat → State
  | _, [] => s
  | tid, n :: rest => startCores (startCore s n (startTask x part asid gen gang tid) x.record) x part asid gen gang (tid + 1) rest

/-- A gang with a number is placed (R79, R373). -/
def placeGang (s : State) (part : Nat) (p : Partition) (x : Placing) (n : Nat) : State :=
  let gen := kgetD p.gens p.curAsid 0
  let r := x.record
  let g : Gang :=
    { part := part, asid := p.curAsid, gen := gen, cores := x.cores, priv := x.priv, record := r, grid := x.grid,
      gid := x.gid, pos := x.pos, budget := recFld r 0x30 31 0, notices := [], watch := [], flag := none,
      stopping := false, saved := false, retired := false, preloaded := false, placedAt := s.tsc, firing := x.firing, securing := x.securing,
      tag := recFld r 0x28 63 48, sid := recFld r 0x28 47 44, kind := x.kind }
  startCores { s with gangs := kput s.gangs n g } x part p.curAsid gen n 0 x.cores

/-- The number of a new gang, and the state that has used it. -/
def newGang (s : State) : Nat × State := (s.nextId, { s with nextId := s.nextId + 1 })

/-- inflight after the first task of an entry of kind F has been placed (R371). -/
def countF (p : Partition) (tag sid kind : Nat) (first : Bool) : Partition :=
  if kind = 0 ∧ first = true ∧ !p.inflight.contains (tag, sid) then { p with inflight := p.inflight ++ [(tag, sid)] } else p

/-- Tags in flight at a stage (R371). -/
def inflightOf (p : Partition) (sid : Nat) : Nat := (p.inflight.filter (fun x => x.2 == sid)).length

/-! Ranges of a grid (R375). -/

/-- The largest of a list of ranges, ties to the lowest lo. -/
def largest (l : List GridRange) : Option GridRange :=
  l.foldl (fun b r =>
    match b with
    | none => some r
    | some x => if x.hi - x.lo < r.hi - r.lo ∨ (x.hi - x.lo = r.hi - r.lo ∧ r.lo < x.lo) then some r else some x) none

/-- The range that the scan hands to a new gang, and the ranges left (R375). -/
def handRange (l : List GridRange) : Option (GridRange × List GridRange) :=
  let e := minPos (l.map (fun r => r.epoch)) ((l.headD default).epoch)
  match largest (l.filter (fun r => r.epoch == e)) with
  | none => none
  | some r =>
    let size := r.hi - r.lo
    if r.owner.isNone ∨ size = 1 then some (r, l.filter (fun x => x != r))
    else some ({ r with lo := r.hi - size / 2 }, l.map (fun x => if x = r then { r with hi := r.hi - size / 2 } else x))

/-- A gang runs the first index of a range and owns the rest (R375). -/
def ownRest (l : List GridRange) (r : GridRange) (gang : Nat) : List GridRange :=
  if r.lo + 1 < r.hi then l ++ [⟨r.lo + 1, r.hi, r.epoch, some gang⟩] else l

/-- A gang is placed on a range of a grid; the grid's entry leaves its queue when nothing is left pending. -/
def placeRange (s : State) (part : Nat) (g : Grid) (r : GridRange) (left : List GridRange) (x : Placing) : State :=
  match partOf s part with
  | none => s
  | some p =>
    let (n, s) := newGang s
    let first := g.record.isEmpty
    let g := { g with ranges := ownRest left r n, record := x.record }
    let s := placeGang s part p { x with grid := g.id, gid := r.lo, g := g.g, pos := g.entry.pos } n
    modPart s part (fun p =>
      let p := countF (putGrid p g) g.entry.tag g.entry.sid x.kind first
      if g.ranges.isEmpty then leaveQueue p g.asEntry else p)

/-! Weight versions (R374). -/

/-- The weight reference of a (tag, sid), the latest first. -/
def wrefOf (p : Partition) (tag sid : Nat) : Option WRef := p.wrefs.find? (fun w => w.tag == tag && w.sid == sid)

/-- What a task's weight root is to be: its record's own, one already referenced, or the name that the root slot holds. -/
inductive RootAns where
  | own
  | fixed (root : Option Nat)
  | slot (name : Nat)
  | fails (f : UnitFail)
  deriving DecidableEq, Repr, Inhabited

/-- The address of the root slot, 0 for none (R370). -/
def vroot (p : Partition) : Nat := (kgetD p.ctl 0 0#64).toNat

/-- The weight root of a task of a (tag, sid); tagged says that a tag entry makes it, first that it is the entry's first
task. While vroot is not 0, the first F task of a tag entry takes the slot's name; later tasks of the (tag, sid) receive what it took,
whatever vroot then is (R374). -/
def rootAns (s : State) (part : Nat) (p : Partition) (tag sid kind : Nat) (tagged first wrv : Bool) : RootAns :=
  if !tagged && (wrv || kind == 0) then .own
  else if kind == 0 && first then
    if vroot p = 0 then .own
    else
      match unitAns s part p (vroot p) 16 with
      | .ok b => .slot (leNat b)
      | .fails f => .fails f
  else
    match wrefOf p tag sid with
    | some w => .fixed w.root
    | none => .own

/-- A weight root taken: the reference on a name that is there, and the record with it (R374). -/
def takeRoot (s : State) (part : Nat) (p : Partition) (tag sid : Nat) (a : RootAns) (r : List Byte) : State × List Byte :=
  let put (s : State) (root : Option Nat) : State :=
    modPart s part (fun p => { p with wrefs := ⟨tag, sid, root⟩ :: p.wrefs })
  match a with
  | .fixed root => (s, setRoot r root)
  | .slot name =>
    let s := unitUse s part p (vroot p) 16
    if name = 0 then (put s none, setRoot r none)
    else if (nameAt p name).isSome then (put (takeRef s part name) (some name), setRoot r (some name))
    else (put (mcRecord s part srcSched 0xE86 0 3 0x3FF (BitVec.ofNat 64 (vroot p)) (vroot p)) none, setRoot r none)
  | _ => (s, r)

/-- The references of a (tag, sid) are released (R374). -/
def dropRoots (s : State) (part tag sid : Nat) : State :=
  match partOf s part with
  | none => s
  | some p =>
    let gone := p.wrefs.filter (fun w => w.tag == tag && w.sid == sid)
    let s := modPart s part (fun p => { p with wrefs := p.wrefs.filter (fun w => !(w.tag == tag && w.sid == sid)) })
    gone.foldl (fun s w =>
      match w.root with
      | some n => dropRef s part n
      | none => s) s

/-! Trying an entry (R369, R373). -/

/-- What an attempt to place ends in: the entry cannot be placed, or the state after its placement. -/
inductive Tried where
  | no (s : State)
  | yes (s : State)

/-- The state that an attempt leaves. -/
def Tried.state : Tried → State
  | .no s => s
  | .yes s => s

/-- Whether it placed something. -/
def Tried.placed : Tried → Bool
  | .no _ => false
  | .yes _ => true

/-- The state after a record's range set has been read. -/
def rangesUse (s : State) (part : Nat) (p : Partition) (r : List Byte) : State :=
  unitUse s part p (recFld r 0x20 63 0) (32 * (recFld r 0x28 36 31 + 1))

/-- The cores and range set with which a record can be placed now, or the state that an attempt leaves; report is what
the scheduler does where the record is refused. -/
def readyRecord (s : State) (part : Nat) (p : Partition) (r : List Byte) (report : State → State) :
    Except State (List Nat × List RangeEntry) :=
  match checkRecord s part p r with
  | .refused _ f => .error (report (checkFail s part f))
  | .miss a bad => .error (unitMiss s part a bad false)
  | .ok l =>
    if aperturesMeet r then .error s
    else
      match fitCores s p (recCores r) with
      | none => .error s
      | some cores => .ok (cores, l)

/-- The record of a tag entry's task (R369), read anew. -/
def tagRecord (s : State) (part : Nat) (p : Partition) (addr tag sid kind g lo : Nat) : Except State (List Byte) :=
  match unitAns s part p addr 128 with
  | .ok b => .ok (retag b tag sid kind g lo)
  | .fails f => .error (unitFail s part f)

/-- A refused record at a queue's head is reported once (R369). -/
def reportRefused (part addr : Nat) (e : Entry) (s : State) : State :=
  if e.reported then s
  else
    let s := mcRecord s part srcSched 0xF81 0 3 0x3FF (BitVec.ofNat 64 addr) addr
    modPart s part (fun p =>
      { p with
        queues := kmod p.queues (queueNo e.sid e.kind) (fun l => l.map (fun x => if x.grid = e.grid then { x with reported := true } else x))
        graphs := p.graphs.map (fun g => (g.1, { g.2 with period := g.2.period.map (fun x =>
          if x.grid = e.grid then { x with reported := true } else x) })) })

/-- A record of an entry's grid is placed where it can be. -/
def placeRecord (s : State) (part : Nat) (p : Partition) (e : Entry) (g : Grid) (r : List Byte) (tagged : Bool)
    (report : State → State) : Tried :=
  match readyRecord s part p r report, handRange g.ranges with
  | .error s, _ => .no s
  | .ok _, none => .no s
  | .ok (cores, l), some (x, left) =>
    match rootAns s part p e.tag e.sid e.kind tagged g.record.isEmpty (recFld r 0x28 37 37 == 1) with
    | .fails f => .no (unitFail s part f)
    | a =>
      let t := takeRoot (rangesUse s part p r) part p e.tag e.sid a r
      .yes (placeRange t.1 part g x left
        { record := t.2, ranges := l, cores := cores, priv := e.priv, grid := g.id, gid := x.lo, g := g.g, pos := e.pos,
          firing := none, securing := false, kind := e.kind })

/-! Graph firings (R380, R397). -/

/-- Whether R380 lets a firing be placed: the earlier firings of its node are placed, and those of the nodes with an edge
into it have retired. -/
def firingFree (x : GraphSlot) (seq : List Nat) (i : Nat) : Bool :=
  let n := nth seq i
  !x.placed.contains i &&
  (upFrom 0 i).all (fun j =>
    (nth seq j != n || x.placed.contains j)
    && (!x.edges.contains (nth seq j, n) || x.retired.contains j))

/-- A firing of a slot placed, where its record can be placed now. -/
def placeFiring (s : State) (part : Nat) (p : Partition) (slot : Nat) (x : GraphSlot) (e : Entry) (i : Nat) : Tried :=
  let seq := firingsOf x.table
  let n := nth seq i
  let gid := ((upFrom 0 i).filter (fun j => nth seq j == n)).length
  match tagRecord s part p (nth x.nodes n) e.tag e.sid e.kind (nth x.q n - 1) gid with
  | .error s => .no s
  | .ok r =>
    match readyRecord s part p r (reportRefused part (nth x.nodes n) e) with
    | .error s => .no s
    | .ok (cores, l) =>
      match rootAns s part p e.tag e.sid e.kind true x.placed.isEmpty (recFld r 0x28 37 37 == 1) with
      | .fails f => .no (unitFail s part f)
      | a =>
        let t := takeRoot (rangesUse (unitUse s part p (nth x.nodes n) 128) part p r) part p e.tag e.sid a r
        let (m, s) := newGang t.1
        let s := placeGang s part p
          { record := t.2, ranges := l, cores := cores, priv := false, grid := 2 * m + 1, gid := gid, g := nth x.q n,
            pos := e.pos, firing := some (slot, i), securing := false, kind := e.kind } m
        .yes (modPart s part (fun p =>
          { countF p e.tag e.sid e.kind x.placed.isEmpty with
            graphs := kmod p.graphs slot (fun g => { g with placed := g.placed ++ [i] }) }))

/-- The first of a list of attempts that places something; an attempt that does not leaves its notices and records. -/
def tryFirst {α : Type} (go : State → α → Tried) (s : State) : List α → Tried
  | [] => .no s
  | a :: rest =>
    match go s a with
    | .yes s => .yes s
    | .no s => tryFirst go s rest

/-- A firing of a slot's period in progress is placed, the earliest that can be (R397). -/
def tryFirings (s : State) (part slot : Nat) : Tried :=
  match (partOf s part).bind (fun p => kget p.graphs slot) with
  | none => .no s
  | some x =>
    match x.period with
    | none => .no s
    | some e =>
      let seq := firingsOf x.table
      tryFirst (fun s i =>
        match partOf s part with
        | none => .no s
        | some p => placeFiring s part p slot x e i) s ((upFrom 0 seq.length).filter (firingFree x seq))

/-- An entry that names a graph slot starts its period, where the slot is bound and idle and the first firing can be
placed (R380, R397). -/
def startPeriod (s : State) (part : Nat) (p : Partition) (slot : Nat) (e : Entry) : Tried :=
  match kget p.graphs slot with
  | none => .no s
  | some x =>
    if x.period.isSome then .no s
    else
      match placeFiring s part p slot { x with placed := [], retired := [] } e 0 with
      | .no s => .no s
      | .yes _ =>
        .yes (modPart s part (fun p =>
          { leaveQueue p e with
            grids := p.grids.filter (fun g => g.id != e.grid)
            graphs := kmod p.graphs slot (fun g => { g with period := some e, placed := [], retired := [] }) }))

/-- A queue head is placed where it can be (R369, R373). -/
def tryEntry (part : Nat) (s : State) (e : Entry) : Tried :=
  match (partOf s part).bind (fun p => (gridOf p e.grid).map (fun g => (p, g))) with
  | none => .no s
  | some (p, g) =>
    match e.record with
    | some r => placeRecord s part p e g r false (fun s => s)
    | none =>
      let st := kgetD p.stage (queueNo e.sid e.kind) 0#64
      let addr := wbits st 47 7 * 128
      if !st.getLsbD 63 then .no s
      else if st.getLsbD 62 then startPeriod s part p (wbits st 61 58) e
      else
        match tagRecord s part p addr e.tag e.sid e.kind 0 0 with
        | .error s => .no s
        | .ok r => placeRecord (unitUse s part p addr 128) part p e g r true (reportRefused part addr e)

/-! Securing (R393). -/

/-- The risk threshold of a partition. -/
def riskThr (p : Partition) : Nat := wbits (kgetD p.ctl 1 0#64) 7 0

/-- Whether securing is armed. -/
def armedNow (s : State) (p : Partition) : Bool :=
  (kgetD p.ctl 1 0#64).getLsbD 8 && decide (riskThr p ≤ s.risk) && !p.secured

/-- Securing that is no longer armed waits for the next boundary after it is armed again (R393). -/
def keepDue (s : State) (p : Partition) : Partition := if armedNow s p then p else { p with boundary := false }

/-- Securing may be armed again once the risk has fallen below the threshold. -/
def relatch (s : State) (p : Partition) : Partition :=
  keepDue s (if s.risk < riskThr p then { p with secured := false } else p)

/-- A microbatch boundary: while securing is armed, its task is due. -/
def microBoundary (s : State) (part : Nat) : State :=
  modPart s part (fun p => if armedNow s p then { p with boundary := true } else p)

/-- The securing task is placed where it is due and can be, as a task of kind W of its record's tag and stage (R374, R393). -/
def trySecuring (s : State) (part : Nat) : Tried :=
  match partOf s part with
  | none => .no s
  | some p =>
    let addr := (kgetD p.ctl 2 0#64).toNat
    if !p.boundary || !armedNow s p then .no s
    else
      match unitAns s part p addr 128 with
      | .fails f => .no (unitFail s part f)
      | .ok b =>
        let r := setDw b 0x28 (recFld b 0x28 63 41 * 2 ^ 41 + 2 * 2 ^ 39 + recFld b 0x28 38 0)
        match readyRecord s part p r (fun s => s) with
        | .error s => .no s
        | .ok (cores, l) =>
          let a := rootAns s part p (recFld r 0x28 63 48) (recFld r 0x28 47 44) 2 false false (recFld r 0x28 37 37 == 1)
          let t := takeRoot (rangesUse (unitUse s part p addr 128) part p r) part p (recFld r 0x28 63 48) (recFld r 0x28 47 44) a r
          let (m, s) := newGang t.1
          let s := placeGang s part p
            { record := t.2, ranges := l, cores := cores, priv := false, grid := 2 * m + 1, gid := recFld r 0x48 16 0,
              g := recFld r 0x28 15 0 + 1, pos := p.logNext, firing := none, securing := true, kind := 2 } m
          .yes (modPart s part (fun p => { p with boundary := false }))

/-! The scan (R371, R372, R396). -/

/-- The fields of a policy entry (R371). -/
def polKind (w : Word) : Nat := wbits w 62 61
def polAny (w : Word) : Bool := w.getLsbD 60
def polSid (w : Word) : Nat := wbits w 59 56
def polAge (w : Word) : Nat := wbits w 31 0

/-- The heads of a partition's queues. -/
def heads (p : Partition) : List Entry := p.queues.filterMap (fun q => q.2.head?)

/-- The oldest of a list of entries, ties to the first. -/
def oldestEntry (l : List Entry) : Option Entry :=
  l.foldl (fun b e =>
    match b with
    | none => some e
    | some x => if e.before x then some e else some x) none

/-- The head that a policy entry looks at. -/
def polHead (p : Partition) (w : Word) : Option Entry :=
  oldestEntry ((heads p).filter (fun e => e.kind == polKind w && (polAny w || e.sid == polSid w)))

/-- The stash level (R371). -/
def stashLevel (p : Partition) : Nat :=
  ((upFrom 0 4).map (fun d => if poolSize p d 0 = 0 then 0 else 256 * poolUsed p d 0 / poolSize p d 0)).foldl max 0

/-- Whether the root slot holds a name. -/
def rootHeld (s : State) (part : Nat) (p : Partition) : Bool :=
  match vroot p, unitAns s part p (vroot p) 16 with
  | 0, _ => false
  | _, .ok b => leNat b != 0
  | _, _ => false

/-- Whether the conditions of a policy entry hold for its head. -/
def polHolds (s : State) (part : Nat) (p : Partition) (w : Word) (e : Entry) : Bool :=
  (!w.getLsbD 55 || decide (inflightOf p e.sid < wbits w 51 48))
  && (!w.getLsbD 54 || decide (stashLevel p < wbits w 47 40))
  && (!w.getLsbD 53 || rootHeld s part p)

/-- Whether a policy entry is promoted, with the head that it looks at. -/
def promoted (s : State) (w : Word) (e : Entry) (times : Nat) : Bool :=
  polAge w != 0 && decide (times * polAge w ≤ s.tsc - e.at_)

/-- The valid policy entries in index order, each with its head. -/
def polEntries (p : Partition) : List (Word × Entry) :=
  (upFrom 0 16).filterMap (fun i =>
    let w := kgetD p.policy i 0#64
    if w.getLsbD 63 then (polHead p w).map (fun e => (w, e)) else none)

/-- Whether some policy entry is valid. -/
def anyPolicy (p : Partition) : Bool := (upFrom 0 16).any (fun i => (kgetD p.policy i 0#64).getLsbD 63)

/-- An entry added to a list in order of age, behind its equals. -/
def insertAge (l : List Entry) (e : Entry) : List Entry :=
  match l with
  | [] => [e]
  | x :: rest => if e.before x then e :: x :: rest else x :: insertAge rest e

/-- The eligible heads in the order in which the scan takes them (R372, R396). -/
def scanOrder (s : State) (part : Nat) (p : Partition) : List Entry :=
  if !anyPolicy p then (heads p).foldl insertAge []
  else
    let l := polEntries p
    ((l.filter (fun x => promoted s x.1 x.2 1)).map (fun x => x.2)).foldl insertAge []
    ++ (l.filter (fun x => !promoted s x.1 x.2 1 && polHolds s part p x.1 x.2)).map (fun x => x.2)

/-- The slots of a partition with a period in progress. -/
def busySlots (p : Partition) : List Nat := (p.graphs.filter (fun g => g.2.period.isSome)).map (fun g => g.1)

/-- The null name that a reset owes the root slot is written, or the host is asked for its page; one that the host denies is given up
(R154, R179, R389). -/
def writeRoot (s : State) (part : Nat) (p : Partition) : State :=
  let v := vroot p
  match findDest s part p.curAsid (kgetD p.gens p.curAsid 0) (.ipa v) true with
  | .place _ _ => clearRoot (modPart s part (fun p => { p with rootDue := false })) part
  | .miss bad =>
    if p.deniedPages.contains (v / 2 ^ 16) then modPart s part (fun p => { p with rootDue := false })
    else unitMiss s part v bad true

/-- One placement of the scan: ahead of it a firing of a period in progress, which R380 lets be placed as soon as it can be, then a
securing task, then the first eligible head that can be placed. Nothing is placed before the root slot that a reset clears is
written (R372, R389, R393, R397). -/
def scanStep (s : State) (part : Nat) : State :=
  match partOf s part with
  | none => s
  | some p =>
    if p.rootDue then writeRoot s part p
    else
      match tryFirst (fun s n => tryFirings s part n) s (busySlots p) with
      | .yes s => s
      | .no s =>
        match trySecuring s part with
        | .yes s => s
        | .no s => (tryFirst (tryEntry part) s (scanOrder s part p)).state

end Sys2Proof.Machine
end

