-- ==== Sys2Proof/Machine/Sched.lean ====
section
/-! DEFINITION. The scheduler: its words, admissions, retirement, pre-emption and resumption, and its events (R80, R85,
R187, R188, R368 to R398). -/

namespace Sys2Proof.Machine

/-! The events that place tasks. -/

/-- SCHEDULER_SCAN: the scheduler scans and places the first eligible head that fits (R372). -/
def execSchedulerScan (part : Nat) (s : State) : Host.Outcome State Fault Refusal := .next (scanStep s part)

/-- POLICY_AGE_PROMOTION: the head of a policy entry has waited its ageing limit; the entry is promoted, and the scheduler
scans (R372). -/
def execPolicyAgePromotion (part idx : Nat) (s : State) : Host.Outcome State Fault Refusal :=
  .next (match partOf s part with
    | none => s
    | some p =>
      let w := kgetD p.policy idx 0#64
      match polHead p w with
      | none => s
      | some e => if w.getLsbD 63 = true ∧ promoted s w e 1 = true then scanStep s part else s)

/-- GRAPH_FIRING_PLACEMENT: a firing of the period in progress in a slot is placed (R380, R397). -/
def execGraphFiringPlacement (part slot : Nat) (s : State) : Host.Outcome State Fault Refusal :=
  .next (tryFirings s part slot).state

/-- Whether a gang's cores have a task that will run next on them: a remainder of its own, or a firing of its period that
has not been placed (R390). -/
def hasNext (s : State) (n : Nat) (g : Gang) : Bool :=
  match partOf s g.part with
  | none => false
  | some p =>
    ((gridOf p g.grid).any (fun x => x.ranges.any (fun r => r.owner == some n)))
    || (match g.firing with
        | none => false
        | some (slot, _) => (kget p.graphs slot).any (fun x => decide (x.placed.length < (firingsOf x.table).length)))

/-- PRELOAD: packets and read-only lines of the task that a gang's cores run next go into the reserved bank, which no program
sees (R390). -/
def execPreload (gang : Nat) (s : State) : Host.Outcome State Fault Refusal :=
  .next (match gangOf s gang with
    | none => s
    | some g => if hasNext s gang g && !g.saved then modGang s gang (fun g => { g with preloaded := true }) else s)

/-! Retirement (R80, R375, R380, R387, R388, R393). -/

/-- Whether a core's task may retire: its contexts have ended, its commands have completed, its fills have arrived, and its
accesses have performed; nothing retires while its gang is saved (R80, R187, R387). -/
def mayRetire (s : State) (n : Nat) : Bool :=
  let k := coreOf s n
  k.task.isSome && !coreSaved s n && k.ctxL.ended && k.ctxC.ended && k.ctxS.ended
  && s.cmds.all (fun c => c.core != n) && s.acc.all (fun a => a.core != n)

/-- A core whose task has retired: its FIFOs are empty and its stream ports unbound (R80). -/
def Core.retired (k : Core) : Core :=
  { k.modCtxs (fun c => { c with fifoL := [], fifoR := [], outs := [] }) with task := none, vec := { k.vec with ports := [] } }

/-- The period of a slot ends with its last firing (R380). -/
def endFiring (s : State) (part slot i : Nat) : State :=
  let s := modPart s part (fun p =>
    { p with graphs := kmod p.graphs slot (fun g => { g with retired := g.retired ++ [i] }) })
  match (partOf s part).bind (fun p => kget p.graphs slot) with
  | none => s
  | some x =>
    if x.retired.length < (firingsOf x.table).length then s
    else
      microBoundary (modPart s part (fun p =>
        { p with graphs := kmod p.graphs slot (fun g =>
          { g with period := none, placed := [], retired := [], periods := g.periods + 1 }) })) part

/-- The secured-state record is read after the securing task (R363, R393). A record that cannot be read secures nothing, and the memory
controller's error is recorded (R172; log entry 117). -/
def judgeSecured (s : State) (part : Nat) : State :=
  match (partOf s part).bind (fun p => p.secAt) with
  | none => s
  | some a =>
    let d := leWord (memRead s.mem (a + 8) 8)
    if (locError s (.pa (a + 8)) 8).isSome then
      if locError s (.pa (a + 8)) 8 = some 9 then mcRecord s part (srcMemory (a + 8)) 9 0 3 0x3FF (BitVec.ofNat 64 (a + 8)) 0 else s
    else if wbits d 47 32 = 0 ∧ d.getLsbD 31 = true then modPart s part (fun p => keepDue s { p with secured := true }) else s

/-- A range of a grid that its owner cannot run is pending without an owner (R173, R375). -/
def disown (x : Grid) (r : GridRange) : Grid :=
  { x with ranges := x.ranges.map (fun y => if y = r then { r with owner := none } else y) }

/-- A gang's remainder is placed again on its cores, with the next index and the weight root of its (tag, sid) (R374, R375). Where its range set cannot be loaded, the scan judges
its record again, as an entry that waits (R173, R369). -/
def placeRest (s : State) (n : Nat) (g : Gang) : State :=
  match (partOf s g.part).bind (fun p => (gridOf p g.grid).map (fun x => (p, x))) with
  | none => s
  | some (p, x) =>
    match x.ranges.find? (fun r => r.owner == some n) with
    | none =>
      if x.ranges.isEmpty && !s.gangs.any (fun o => o.2.part == g.part && o.2.grid == g.grid) then
        modPart s g.part (fun p => { p with grids := p.grids.filter (fun y => y.id != x.id) })
      else s
    | some r =>
      match checkRecord s g.part p g.record with
      | .ok l =>
        let wrv := recFld (x.entry.record.getD g.record) 0x28 37 37 == 1
        let a := rootAns s g.part p x.entry.tag x.entry.sid x.entry.kind x.entry.record.isNone false wrv
        let t := takeRoot (rangesUse s g.part p g.record) g.part p x.entry.tag x.entry.sid a g.record
        placeRange t.1 g.part x r (x.ranges.filter (fun y => y != r))
          { record := t.2, ranges := l, cores := g.cores, priv := g.priv, grid := x.id, gid := r.lo, g := x.g,
            pos := x.entry.pos, firing := none, securing := false, kind := g.kind }
      | .miss _ _ | .refused _ _ => modPart s g.part (fun p => putGrid p (disown x r))

/-- Whether an entry or a task of kind B, W or R is left for a (tag, sid) (R374). -/
def backLeft (s : State) (part : Nat) (p : Partition) (tag sid : Nat) : Bool :=
  s.gangs.any (fun g => g.2.part == part && g.2.tag == tag && g.2.sid == sid && g.2.kind != 0)
  || p.queues.any (fun q => q.2.any (fun e => e.tag == tag && e.sid == sid && e.kind != 0))
  || p.graphs.any (fun g => g.2.period.any (fun e => e.tag == tag && e.sid == sid && e.kind != 0))

/-- What the retirement of a gang's last task does. -/
def retireGang (s : State) (n : Nat) (g : Gang) : State :=
  let s := { s with gangs := kdel s.gangs n }
  let s := placeRest s n g
  let s := match g.firing with
    | some (slot, i) => endFiring s g.part slot i
    | none => s
  let s := if g.securing then judgeSecured s g.part else s
  match partOf s g.part with
  | none => s
  | some p => if g.kind ≠ 0 ∧ backLeft s g.part p g.tag g.sid = false then dropRoots s g.part g.tag g.sid else s

/-- TASK_RETIRE: a core's task retires; with the last task of its gang the cores are free again, or take the gang's
remainder (R80, R375, R388). -/
def execTaskRetire (core : Nat) (s : State) : Host.Outcome State Fault Refusal :=
  .next (match taskOf s core with
    | none => s
    | some t =>
      if !mayRetire s core then s
      else
        let s := setCore s core (coreOf s core).retired
        let s := modPart s t.part (fun p =>
          if t.kind = 1 then { p with inflight := p.inflight.filter (fun x => x != (t.tag, t.sid)) } else p)
        let s := match gangOf s t.gang with
          | none => s
          | some g => if g.cores.all (fun n => (taskOf s n).isNone) then retireGang s t.gang g else s
        let s := if t.kind = 2 then microBoundary s t.part else s
        let s := if t.fenced then writeFence s t.part t.tag t.sid t.kind else s
        settleInvals s t.part)

/-- BUDGET_EXPIRY: a task's budget reaches zero before it retires: OVERRUN, and its partition is reset (R85, R389). The record
names context L of the gang's first core. -/
def execBudgetExpiry (gang : Nat) (s : State) : Host.Outcome State Fault Refusal :=
  .next (match gangOf s gang with
    | none => s
    | some g =>
      if g.budget ≠ 0 ∨ g.saved = true then s
      else resetPartition s g.part 0xF10 0 (g.cores.headD 0x3FF) (ctxOf s (g.cores.headD 0) .L).tpc)

/-! Pre-emption (R187, R391, R392). -/

/-- A gang's pre-emption flag is set (R391). -/
def flagGang (s : State) (n : Nat) : State :=
  modGang s n (fun g => if g.flag.isSome || g.saved then g else { g with flag := some s.tsc })

/-- Whether what a pre-emption waits for has filled: scalar loads, LDC, atomic and scheduler replies but for registered
waiters, and vector words (R187, R218). -/
def gangQuiet (s : State) (g : Gang) : Bool :=
  g.cores.all (fun n =>
    s.acc.all (fun a => a.core != n || a.kind.writes)
    && s.cmds.all (fun c => c.core != n || (c.cls != .vector
        && (!(c.cls == .atomic || c.cls == .sched) || c.phase == .held || (c.cls == .atomic && c.phase == .waiting)))))

/-- Bytes of a core's scratchpad written to its place in the save area, whole granules, whose marks are cleared (R392, R417). -/
def saveScratch (p : Partition) (s : State) (n : Nat) : State :=
  match p.saveAt with
  | none => s
  | some a =>
    let base := a + Config.spBytes * ((partCores p).findIdx (fun x => x == n))
    { s with
      mem := (coreOf s n).sp.foldl (fun m c => memPut m (base + c.1) c.2) (memZero s.mem base Config.spBytes)
      poison := clearMarks s.poison base Config.spBytes
      bad := clearMarks s.bad base Config.spBytes }

/-- The commands of a saved gang: a registered waiter and a waiting prefetch are withdrawn, to be sent again (R309, R344). -/
def withdraw (s : State) (c : Cmd) : State :=
  match c.cls, c.phase with
  | .atomic, .waiting =>
    modCmd (modPart s c.part (fun p => { p with waiters := p.waiters.filter (fun w => w.cmd != c.id) })) c.id
      (fun c => { c with phase := .queued })
  | .stash, _ => withdrawSpf s c
  | _, _ => s

/-- A gang is saved, its scratchpads included (R187, R392). What the save holds stays in place with its cores, which are kept for
it (log entries 50 and 87); an active weight tile is not saved (R268). -/
def saveGang (s : State) (n : Nat) (g : Gang) : State :=
  match partOf s g.part with
  | none => s
  | some p =>
    let s := (s.cmds.filter (fun c => c.gang == n)).foldl withdraw s
    let s := { g.cores.foldl (saveScratch p) s with
      cmds := s.cmds.map (fun c => if c.gang = n then { c with tile := none } else c) }
    settleInvals (modGang s n (fun g => { g with saved := true, preloaded := false })) g.part

/-- A gang's issue stops, and it is saved as soon as what it waits for has filled. A gang whose stall wire is raised is not
pre-empted (R180, R187). -/
def stopGang (s : State) (n : Nat) : State :=
  match gangOf s n with
  | none => s
  | some g =>
    if g.stalled || g.saved then s
    else
      let s := modGang s n (fun g => { g with stopping := true })
      if gangQuiet s g then saveGang s n g else s

/-- PREEMPT_TIMEOUT: a gang's flag has been set for 20 µs, or its issue has stopped for its save (R391). -/
def execPreemptTimeout (gang : Nat) (s : State) : Host.Outcome State Fault Refusal :=
  .next (match gangOf s gang with
    | none => s
    | some g =>
      if g.stopping || g.flag.any (fun t => decide (t + Config.preemptNs ≤ s.tsc)) then stopGang s gang else s)

/-- The boundary after a packet that holds PRACK: a pending pre-emption takes the gang (R383, R391). -/
def prackGang (s : State) (core : Nat) : State :=
  match taskOf s core with
  | none => s
  | some t =>
    match gangOf s t.gang with
    | none => s
    | some g => if g.flag.isSome then stopGang s t.gang else s

/-- The most recently placed gang of a cluster. -/
def latestGang (s : State) (part cl : Nat) : Option (Nat × Gang) :=
  (s.gangs.filter (fun g => g.2.part == part && !g.2.saved && clusterOf (g.2.cores.headD 0) == cl)).foldl (fun b g =>
    match b with
    | none => some g
    | some x => if x.2.placedAt ≤ g.2.placedAt then some g else some x) none

/-- The address of the record that a tag entry places next, none where its stage entry is invalid or its graph slot is unbound or plays
a period (R369, R397). -/
def headRecord (p : Partition) (e : Entry) : Option Nat :=
  let st := kgetD p.stage (queueNo e.sid e.kind) 0#64
  if !st.getLsbD 63 then none
  else if st.getLsbD 62 then
    (kget p.graphs (wbits st 61 58)).bind (fun x =>
      if x.period.isSome then none else ((firingsOf x.table).head?).map (nth x.nodes))
  else some (wbits st 47 7 * 128)

/-- The cores that a head needs, none for one that cannot be placed whatever is free (R369, R373). -/
def headNeed (s : State) (part : Nat) (p : Partition) (e : Entry) : Option Nat :=
  match e.record, headRecord p e with
  | some r, _ => some (recCores r)
  | none, none => none
  | none, some a =>
    match unitAns s part p a 128 with
    | .ok r => if (refusedField (retag r e.tag e.sid e.kind 0 0)).isSome then none else some (recCores r)
    | .fails _ => none

/-- PREEMPT_AGE_EXPIRY: the head of a promoted entry has waited twice its limit, and no cluster holds it: the latest gang of
the lowest cluster that its removal makes fit is flagged (R391). -/
def execPreemptAgeExpiry (part idx : Nat) (s : State) : Host.Outcome State Fault Refusal :=
  .next (match partOf s part with
    | none => s
    | some p =>
      let w := kgetD p.policy idx 0#64
      match (polHead p w).bind (fun e => (headNeed s part p e).map (fun n => (e, n))) with
      | none => s
      | some (e, need) =>
        if !(w.getLsbD 63 && promoted s w e 2) || (fitCores s p need).isSome then s
        else
          match p.clusters.findSome? (fun cl => (latestGang s part cl).bind (fun g =>
              if need ≤ (freeCores s cl).length + g.2.cores.length then some g.1 else none)) with
          | none => s
          | some n => flagGang s n)

/-- The work of a gang given up: its commands, what they had not committed in the stash, and its accesses to scratchpads. -/
def giveUpWork (s : State) (n : Nat) (g : Gang) : State :=
  let ids := (s.cmds.filter (fun c => c.gang == n)).map (fun c => c.id)
  let s := { s with
    cmds := s.cmds.filter (fun c => c.gang != n)
    acc := s.acc.filter (fun a => !(g.cores.contains a.core && (match a.dest with
      | .sp _ _ => true
      | .ipa _ => false))) }
  modPart s g.part (fun p => giveUpEntries p ids)

/-- A saved gang whose ASID has been retired is run again from its record; one whose range set cannot be loaded stays saved until it
can be (R173, R186). -/
def rerunGang (s : State) (n : Nat) (g : Gang) (p : Partition) : State :=
  match checkRecord s g.part p g.record with
  | .miss a bad => unitMiss s g.part a bad false
  | .refused _ f => checkFail s g.part f
  | .ok l =>
    let count := ((gridOf p g.grid).map (fun x => x.g)).getD (((taskOf s (g.cores.headD 0)).map (fun t => t.grp)).getD 1)
    placeGang (giveUpWork s n g) g.part p
      { record := g.record, ranges := l, cores := g.cores, priv := g.priv, grid := g.grid, gid := g.gid, g := count,
        pos := g.pos, firing := g.firing, securing := g.securing, kind := g.kind } n

/-- A core goes on at resumption, with an empty constant cache and its range table read again (R188). -/
def restoreCore (s : State) (k : Nat) : State := reloadRanges (modCore s k (fun c => { c with consts := [] })) k

/-- GANG_RESUME: a saved gang goes on with its cores and its remaining budget (R186, R188, R392). -/
def execGangResume (gang : Nat) (s : State) : Host.Outcome State Fault Refusal :=
  .next (match gangOf s gang with
    | none => s
    | some g =>
      match g.saved, partOf s g.part with
      | true, some p =>
        if g.retired then rerunGang s gang g p
        else modGang (g.cores.foldl restoreCore s) gang (fun g => { g with saved := false, flag := none, stopping := false })
      | _, _ => s)

/-! The words (R382 to R386). -/

/-- A scheduler word's reply (R20, R382). -/
def schedReply (s : State) (c : Cmd) (code value : Nat) : State := reply s c (statusWord code value) none []

/-- Whether a word of its context that issued earlier is still at the scheduler (R386). One that a fault holds is sent again later, and
then comes last (R398). -/
def schedBefore (s : State) (c : Cmd) : Bool :=
  s.cmds.any (fun o => o.core == c.core && o.ctx == c.ctx && o.cls == .sched && decide (o.disp < c.disp) && o.phase != .held)

/-- An access of the scheduler to n bytes of one granule, through the issuing task's range table (R383). -/
def schedAns (s : State) (c : Cmd) (ea : Word) (n : Nat) (p : Perm) : EngAns :=
  match engDest s c ea 1 p with
  | .error _ => .fault 5 ea
  | .ok (.sp _ _) => .fault 5 ea
  | .ok (.ipa a) =>
    match judge s c.part c.asid c.gen (.ipa a) n (p == .write) with
    | .ok l _ => if p == .write then .ok [] else .ok (locBytes s l n)
    | .err code l leaf => .error code ea a l leaf
    | .wait =>
      match findDest s c.part c.asid c.gen (.ipa a) (p == .write) with
      | .miss bad => .miss ea a bad (p == .write)
      | .place _ _ => .wait

/-- n granules of 32 bytes read through the issuing task's range table. -/
def schedGet (s : State) (c : Cmd) (ea : Word) (n : Nat) : List EngAns :=
  (upFrom 0 n).map (fun i => schedAns s c (ea + BitVec.ofNat 64 (32 * i)) 32 .read)

/-- The state after those reads. -/
def schedUse (s : State) (c : Cmd) (ea : Word) (n : Nat) : State :=
  engUse s c ((upFrom 0 n).map (fun i => ea + BitVec.ofNat 64 (32 * i)))

/-- The bytes of a list of answers. -/
def allBytes (l : List EngAns) : List Byte := l.flatMap (fun a => a.bytes)

/-- Whether a partition admits work (R388). -/
def takesWork (p : Partition) : Bool := p.logCap.isSome && p.mcRing.isSome

/-- The entry that a record makes (R368). -/
def recordEntry (r : List Byte) (priv : Bool) (tsc src : Nat) : Entry :=
  ⟨recFld r 0x28 63 48, recFld r 0x28 47 44, recFld r 0x28 40 39, tsc, src, some r, priv, 0, 0, false⟩

/-- GROW's grid: its own, or that of a task placed without one. -/
def gangGrid (p : Partition) (g : Gang) (grp : Nat) : Grid :=
  (gridOf p g.grid).getD
    ⟨g.grid, { recordEntry g.record g.priv g.placedAt srcSched with kind := g.kind, pos := g.pos, grid := g.grid },
      g.record, grp, [], 0⟩

/-- GROW (R376, R383). -/
def growOp (s : State) (c : Cmd) (p : Partition) : State :=
  let n := (c.val 0).toNat
  match gangOf s c.gang, taskOf s c.core with
  | some g, some t =>
    let x := gangGrid p g t.grp
    if n = 0 ∨ 65536 < n then schedReply s c 0xF86 0
    else if 65536 < x.g + n then schedReply s c 0xF82 x.g
    else if !logRoom p || !logOrder p s.tsc (srcCore c.core) then s
    else
      let s := modPart s c.part (fun p =>
        { growGrid p x n with log := p.log ++ [⟨p.logNext, s.tsc, srcCore c.core, none, x.id, n⟩] })
      let s := modCore s c.core (fun k => { k with task := k.task.map (fun t => { t with grp := x.g + n }) })
      schedReply s c 0 (x.g + n)
  | _, _ => s

/-- A posted record is admitted, or waits for room in its queue or in the log (R368, R383). -/
def postAdmit (s : State) (c : Cmd) (p : Partition) (r : List Byte) : State :=
  let e := recordEntry r ((taskOf s c.core).any (fun t => t.priv)) s.tsc (srcCore c.core)
  if mayEnter p e then schedReply (modPart s c.part (fun p => admitEntry p e)) c 0 0
  else modCmd s c.id (fun c => { c with phase := .waiting, elem := r })

/-- The range set of a posted record misses: the word waits with its gang's wire raised, and faults where the host denies the page
(R179, R182, R383). -/
def postMiss (s : State) (c : Cmd) (p : Partition) (ipa : Nat) (bad : Bool) : State :=
  let n := nextNotice s
  if c.denied then engineFault s c 0xE (BitVec.ofNat 64 ipa)
  else
    modCmd (raiseNotice s c.part p.curAsid (kgetD p.gens p.curAsid 0) 0 c.core ((gangOf s c.gang).map (fun _ => c.gang)) ipa bad
      .held) c.id (fun c => { c with notice := some n })

/-- POST (R373, R383, R388). -/
def postOp (s : State) (c : Cmd) (p : Partition) : State :=
  if (c.val 0).toNat % 128 ≠ 0 then schedReply s c 0xF86 0
  else if !takesWork p then schedReply s c 0xF81 0
  else
    let l := schedGet s c (c.val 0) 4
    match firstStop l with
    | some a => stopAt s c engineFault a
    | none =>
      let r := allBytes l
      let s := schedUse s c (c.val 0) 4
      match checkRecord s c.part p r with
      | .refused off f => schedReply (checkFail s c.part f) c 0xF81 off
      | .miss a bad => postMiss s c p a bad
      | .ok _ => postAdmit (rangesUse s c.part p r) c p r

/-- FENCEW (R383, R388). -/
def fencewOp (s : State) (c : Cmd) (p : Partition) : State :=
  match taskOf s c.core with
  | none => s
  | some t => schedReply (writeFence s c.part t.tag t.sid t.kind) c 0 (if p.logCap.isSome then p.fenceSeq + 1 else p.fenceSeq)

/-- The 32-byte pieces of the output area, each with its address. -/
def areaPieces (out : Word) (b : List Byte) : Nat → List (Word × List Byte)
  | 0 => []
  | n + 1 => if b.isEmpty then [] else (out, b.take 32) :: areaPieces (out + 32#64) (b.drop 32) n

/-- One piece of the output area written at its home. -/
def writePiece (c : Cmd) (s : State) (x : Word × List Byte) : State :=
  match engDest s c x.1 1 .write with
  | .ok (.ipa a) => homeWrite s c.part c.asid c.gen c.core c.id a x.2
  | _ => s

/-- A graph is bound to a slot (R378, R379, R384). -/
def bindGraph (s : State) (c : Cmd) (slot : Nat) : State :=
  let l := schedGet s c (c.val 0) 82
  match firstStop l with
  | some a => stopAt s c engineFault a
  | none =>
    let r := allBytes l
    let s := schedUse s c (c.val 0) 82
    match solveGraph r with
    | .fault code v => engineFault s c code (BitVec.ofNat 64 v)
    | .ok q occ runs total =>
      let out := areaPieces (c.val 1 &&& 0xFFFFFFFFFFFFFFC0#64) (areaBytes q occ runs total) 400
      match firstStop (out.map (fun x => schedAns s c x.1 x.2.length .write)) with
      | some a => stopAt s c engineFault a
      | none =>
        let s := out.foldl (writePiece c) s
        let x : GraphSlot := ⟨nodesIn r, (edgesIn r).map (fun e => (e.src, e.dst)), q, runs, none, [], [], 0⟩
        schedReply (modPart s c.part (fun p => { p with graphs := kput p.graphs slot x })) c 0 total

/-- Whether the registers of a bind word break their limits (R377, R382). -/
def badBind (c : Cmd) : Bool := (c.val 0).toNat % 64 != 0 || wbits (c.val 1) 5 4 != 0

/-- GBIND (R383). -/
def gbindOp (s : State) (c : Cmd) (p : Partition) : State :=
  let slot := wbits (c.val 1) 3 0
  if badBind c then schedReply s c 0xF86 0
  else if (kget p.graphs slot).isSome then schedReply s c 0xF85 0
  else bindGraph s c slot

/-- GREBIND (R381, R383). -/
def grebindOp (s : State) (c : Cmd) (p : Partition) : State :=
  let slot := wbits (c.val 1) 3 0
  if badBind c then schedReply s c 0xF86 0
  else
    match kget p.graphs slot with
    | none => schedReply s c 0xF84 0
    | some x =>
      if x.period.isSome then schedReply s c 0xF83 0
      else if c.val 0 = 0#64 then
        schedReply (modPart s c.part (fun p => { p with graphs := kdel p.graphs slot })) c 0 0
      else bindGraph s c slot

/-- GSTAT's value, none for an argument out of its range (R385). -/
def gstatVal (s : State) (c : Cmd) (p : Partition) : Option Nat :=
  let b := c.val 0
  let arg := wbits b 7 0
  if wbits b 63 10 ≠ 0 then none
  else
    match wbits b 9 8 with
    | 0 =>
      if arg ≠ 0 then none
      else some (flagNum ((gangOf s c.gang).any (fun g => g.flag.isSome)) (2 ^ 16) + p.replays % 2 ^ 16)
    | 1 => if 64 ≤ arg then none else some (queueOf p (arg / 4) (arg % 4)).length
    | 2 =>
      if 16 ≤ arg then none
      else
        match kget p.graphs arg with
        | none => some 0
        | some x => some (2 ^ 47 + flagNum x.period.isSome (2 ^ 46) + x.periods % 2 ^ 32)
    | _ => if 16 ≤ arg then none else some (inflightOf p arg)

/-- GSTAT (R385). -/
def gstatOp (s : State) (c : Cmd) (p : Partition) : State :=
  match gstatVal s c p with
  | none => schedReply s c 0xF86 0
  | some v => schedReply s c 0 v

/-- Whether a value may stand in an entry of a table (R369 to R371, R382). -/
def ptFits (t i : Nat) (v : Word) : Bool :=
  match t with
  | 0 => decide (i < 16) && !v.getLsbD 52 && wbits v 39 32 == 0
  | 1 => decide (i < 64) && wbits v 57 48 == 0 && wbits v 6 0 == 0
  | 2 =>
    (match i with
     | 0 => wbits v 3 0 == 0
     | 1 => wbits v 63 9 == 0
     | 2 => wbits v 6 0 == 0
     | _ => false)
  | _ => false

/-- A table of a partition. -/
def ptTable (p : Partition) (t : Nat) : KMap Word := if t = 0 then p.policy else if t = 1 then p.stage else p.ctl

/-- A table entry written. -/
def ptPut (p : Partition) (t i : Nat) (v : Word) : Partition :=
  if t = 0 then { p with policy := kput p.policy i v }
  else if t = 1 then { p with stage := kput p.stage i v }
  else { p with ctl := kput p.ctl i v }

/-- PTSET (R369 to R371, R382): the reply's value is bits [47:0] of the old entry. -/
def ptsetOp (s : State) (c : Cmd) (p : Partition) : State :=
  let b := c.val 1
  let t := wbits b 9 8
  let i := wbits b 7 0
  if wbits b 63 10 ≠ 0 ∨ ptFits t i (c.val 0) = false then schedReply s c 0xF86 0
  else schedReply (modPart s c.part (fun p => relatch s (ptPut p t i (c.val 0)))) c 0 (kgetD (ptTable p t) i 0#64).toNat

/-- HMRISK (R393). -/
def hmriskOp (s : State) (c : Cmd) (p : Partition) : State :=
  schedReply s c 0 (flagNum (armedNow s p) (2 ^ 16) + riskThr p * 2 ^ 8 + s.risk % 2 ^ 8)

/-- What a word does at the scheduler. -/
def schedOp (s : State) (c : Cmd) (p : Partition) : State :=
  match c.instr with
  | .grow .. => growOp s c p
  | .post .. => postOp s c p
  | .fencew .. => fencewOp s c p
  | .gbind .. => gbindOp s c p
  | .grebind .. => grebindOp s c p
  | .gstat .. => gstatOp s c p
  | .ptset .. => ptsetOp s c p
  | .hmrisk .. => hmriskOp s c p
  | _ => dropCmd s c.id

/-- A scheduler word is acted on, once what comes before it has performed (R386). -/
def performSched (s : State) (c : Cmd) : State :=
  if c.phase != .queued || c.notice.isSome || schedBefore s c || !gangRuns s c || !edgesDone s c || !waitsDone s c then s
  else
    match partOf s c.part with
    | none => s
    | some p => schedOp s c p

/-- A scheduler word enters the queue of its engine. -/
def issueSched (w : Instr) (f : Issue) (s : State) : State := dispatch (wordCmd w .sched f s) (fillRegs w) f s

/-- ARRIVAL_ADMISSION: an entry that waits for room enters its queue and the log (R368, R388). -/
def execArrivalAdmission (w : Arrival) (s : State) : Host.Outcome State Fault Refusal :=
  .next (match w with
    | .post n =>
      match cmdOf s n with
      | none => s
      | some c =>
        match partOf s c.part with
        | none => s
        | some p => if c.cls = .sched ∧ c.phase = .waiting then postAdmit s c p c.elem else s
    | .launch fn =>
      match (kgetD s.mail fn default).waiting with
      | none => s
      | some (part, e) =>
        match partOf s part with
        | none => s
        | some p =>
          let e := { e with at_ := s.tsc }
          if mayEnter p e then endMail (modPart s part (fun p => admitEntry p e)) fn 0 0 none else s)

/-- GROW (R376). -/
def execGrow (scope : Scope) (xd : RegNo) (xb : BitVec 5) (s : State) : Host.Outcome State Fault Refusal :=
  issueWord (.grow scope xd xb) noFault (issueSched (.grow scope xd xb)) s

/-- POST.scope.order (R383). -/
def execPost (ord : Order) (scope : Scope) (xd : RegNo) (xa : RegNo) (s : State) : Host.Outcome State Fault Refusal :=
  issueWord (.post ord scope xd xa) noFault (issueSched (.post ord scope xd xa)) s

/-- FENCEW.scope.order (R388). -/
def execFencew (ord : Order) (scope : Scope) (xd : RegNo) (s : State) : Host.Outcome State Fault Refusal :=
  issueWord (.fencew ord scope xd) noFault (issueSched (.fencew ord scope xd)) s

/-- GBIND.scope.order (R378). -/
def execGbind (ord : Order) (scope : Scope) (xd : RegNo) (xa : RegNo) (xb : BitVec 5) (s : State) : Host.Outcome State Fault Refusal :=
  issueWord (.gbind ord scope xd xa xb) noFault (issueSched (.gbind ord scope xd xa xb)) s

/-- GREBIND.scope.order (R381). -/
def execGrebind (ord : Order) (scope : Scope) (xd : RegNo) (xa : RegNo) (xb : BitVec 5) (s : State) : Host.Outcome State Fault Refusal :=
  issueWord (.grebind ord scope xd xa xb) noFault (issueSched (.grebind ord scope xd xa xb)) s

/-- GSTAT (R385). -/
def execGstat (scope : Scope) (xd : RegNo) (xb : BitVec 5) (s : State) : Host.Outcome State Fault Refusal :=
  issueWord (.gstat scope xd xb) noFault (issueSched (.gstat scope xd xb)) s

/-- PTSET (R382). -/
def execPtset (scope : Scope) (xd : RegNo) (xa : RegNo) (xb : BitVec 5) (s : State) : Host.Outcome State Fault Refusal :=
  issueWord (.ptset scope xd xa xb) noFault (issueSched (.ptset scope xd xa xb)) s

/-- HMRISK (R393). -/
def execHmrisk (scope : Scope) (xd : RegNo) (s : State) : Host.Outcome State Fault Refusal :=
  issueWord (.hmrisk scope xd) noFault (issueSched (.hmrisk scope xd)) s

/-- PRACK (R383): it takes effect at the boundary after its packet (R391). -/
def execPrack (scope : Scope) (s : State) : Host.Outcome State Fault Refusal :=
  issueWord (.prack scope) noFault (fun _ s => setFrame s (fun g => { g with prack := true })) s

end Sys2Proof.Machine
end

