-- ==== Sys2Proof/Machine/Engines.lean ====
section
/-! DEFINITION. The events of engine commands that every engine shares: a tracked command's start, its micro-operations, and
the reply of an atomic or scheduler word (R14, R17, R18, R63, R153, R157, R261, R262, R288). -/

namespace Sys2Proof.Machine

/-- Whether the core holds an earlier copy command that has not completed; CPY.STAT waits for them (R288). -/
def earlierCopy (s : State) (c : Cmd) : Bool :=
  s.cmds.any (fun o => o.core == c.core && o.cls == .copy && decide (o.disp < c.disp))

/-- Whether a command's own engine lets it start (R261, R262, R288). -/
def engineFree (s : State) (c : Cmd) : Bool :=
  match c.cls with
  | .matrix => laneFirst s c
  | .copy => cpOp c.img != 11 || !earlierCopy s c
  | _ => true

/-- Whether a command starts: every edge that it owes is satisfied, what R17 and its order make it wait for has performed, its
gang's stall wire is down, and its engine lets it (R14, R17, R157, R180). -/
def mayStart (s : State) (c : Cmd) : Bool :=
  c.phase == .admitted && c.cls.tracked && edgesDone s c && waitsDone s c && gangRuns s c && engineFree s c

/-- COMMAND_START: an admitted command starts at micro-PC 0. -/
def execCommandStart (cmd : Nat) (s : State) : Host.Outcome State Fault Refusal :=
  .next (match cmdOf s cmd with
    | none => s
    | some c => if mayStart s c then modCmd s cmd (fun c => { c with phase := .running }) else s)

/-- One micro-operation of a command at its engine (R18). -/
def microOp (s : State) (c : Cmd) : State :=
  match c.cls with
  | .matrix => matrixUop s c
  | .copy => copyUop s c
  | .prism => prismUop s c
  | .stash => stashUop s c
  | .line => lineUop s c
  | .vector | .atomic | .sched => s

/-- ENGINE_MICRO_OP: a running command takes its next micro-operation (R18). -/
def execEngineMicroOp (cmd : Nat) (s : State) : Host.Outcome State Fault Refusal :=
  .next (match cmdOf s cmd with
    | none => s
    | some c => if mayRun s c then microOp s c else s)

/-- Whether a refused word may be sent again (R153). -/
def retryDue (s : State) (c : Cmd) : Bool := (retryAfter s c.retry).isNone

/-- Whether what a command does next has its home on another device: it misses every page of this module (R153). -/
def nextMisses (s : State) (c : Cmd) : Bool :=
  let t := if c.cls = .sched then (if retryDue s c then performSched s c else s) else if mayRun s c then microOp s c else s
  c.notice.isNone && (cmdOf t c.id).any (fun c => c.notice.isSome)

/-- An access or command that its home refuses is sent again once the hint has passed (R153). -/
def refuseOwn (s : State) (acc hint : Nat) : State :=
  if (accOf s acc).any (mayBeRemote s) then modAcc s acc (fun a => { a with retry := some (s.tsc + hint), refused := true })
  else if (cmdOf s acc).any (nextMisses s) then modCmd s acc (fun c => { c with retry := some (s.tsc + hint) })
  else s

/-- REMOTE_REFUSAL: the home of an access refuses it with a hint of 1 to 65,535 ns: an access or command of this module that
another device homes, or one of another device that this module homes (R153, R183). -/
def execRemoteRefusal (who : Refused) (hint : Nat) (s : State) : Host.Outcome State Fault Refusal :=
  .next (if 1 ≤ hint ∧ hint ≤ 65535 then
      match who with
      | .own acc => refuseOwn s acc hint
      | .other part asid ipa write => refuseOther s part asid ipa write
    else s)

/-- REPLY_FILL: an atomic or scheduler word performs at its home, and its reply registers fill (R63, R151, R302, R386). -/
def execReplyFill (cmd : Nat) (s : State) : Host.Outcome State Fault Refusal :=
  .next (match cmdOf s cmd with
    | none => s
    | some c =>
      if retryDue s c then
        match c.cls with
        | .atomic => performAtomic s c
        | .sched => performSched s c
        | _ => s
      else s)

/-! Writes that fail (R110, R170, R182, R292, R293, R342). -/

/-- How an engine reports that a write of a command has failed. A copy command faults at the micro-operation that made the write,
which runs again from its start; the write of another engine's command waits for the command's resumption (log entry 121). -/
def writeFails (a : Access) (s : State) (c : Cmd) (code : Nat) (v : Word) : State :=
  if c.cls = .copy then
    let gone := (siblings s a).map (fun x => x.id)
    let s := modCmd { s with acc := s.acc.filter (fun x => !gone.contains x.id) } c.id (fun c =>
      { c with upc := a.sync, phase := .running })
    copyFails s { c with upc := a.sync, phase := .running } code v
  else
    engineFault (modCmd (modAcc s a.id (fun x => { x with denied := false })) c.id (fun c => { c with lost := some a.id }))
      { c with upc := a.sync } code v

/-- A write fails: the command that makes it faults, once nothing else holds the command; where no command makes it, or the command is
no longer outstanding, the write is dropped. The record of a drop names the management controller where the host denied the write (log
entry 92). -/
def failWrite (s : State) (a : Access) (e : EngAns) (drop : State → State) : State :=
  match writeCmd s a with
  | none => drop s
  | some c => if c.phase = .held then s else stopAt s c (writeFails a) e

/-- STORE_PERFORM: the near event of a write, or with far its far event (R146, R152). The two are one event in the
writing core's own scratchpad, and for an accumulation, which is one grant (R264). A write that the memory side rejects is
dropped, or faults its command (R110, R170, R342, R417). -/
def execStorePerform (acc : Nat) (far : Bool) (s : State) : Host.Outcome State Fault Refusal :=
  .next (match accOf s acc with
    | none => s
    | some a =>
      if !a.kind.writes then s
      else if a.denied then failWrite s a (.fault 0xE a.ea) (fun s => dropStore s a 0xE srcManager)
      else if a.parked s || writeParked s a || (a.nearAt == 0 && nearHeld s a) then s
      else
        match judge s a.part a.asid a.gen a.dest a.size true with
        | .wait => s
        | .err code l leaf =>
          failWrite s a (.error code a.ea a.dest.ipaOr l leaf) (fun s => poisonBlock (dropStore s a code (srcOfLoc l)) a code)
        | .ok l _ =>
          let own := match l with
            | .sp c _ => c == a.core && a.kind != .eng
            | .pa _ => false
          if far || own then
            (if (siblings s a).any (farHeld s) || !bankReady s a then s else (siblings s a).foldl farAt s)
          else if a.nearAt = 0 then nearEvent s a else s)

end Sys2Proof.Machine
end

