-- ==== Sys2Proof/Machine/Flow.lean ====
section
/-! DEFINITION. Branches, jumps and loop words (R72, R73, R117, R118): their targets, faults and effects. -/

namespace Sys2Proof.Machine

/-- The relative target of a word at P (R117). -/
def relTarget (off : BitVec 10) (f : Issue) : Word := f.pc + 16#64 * off.signExtend 64

/-- A taken word whose target lies at or above 2^48 (R77, R117). -/
def targetFault (taken : Issue → Bool) (target : Issue → Word) (f : Issue) (_ : State) : Option (Nat × Word) :=
  if taken f && decide (2 ^ 48 ≤ (target f).toNat) then some (5, target f) else none

/-- A taken word's target becomes the next pc at the packet's end (R47). -/
def goTo (t : Word) (s : State) : State := setFrame s (fun g => { g with next := some t })

/-- The effect of a conditional branch. -/
def branchIf (taken : Issue → Bool) (off : BitVec 10) (f : Issue) (s : State) : State :=
  if taken f then goTo (relTarget off f) s else s

/-- Whether a conditional branch on two registers is taken (R117). -/
def takenOn (c : Cond) (xa xb : RegNo) (f : Issue) : Bool := c.holds (f.rd xa) (f.rd xb)

/-- BEQ (R117). -/
def execBeq (xa xb : RegNo) (fa fb : Bool) (off : BitVec 10) (s : State) : Host.Outcome State Fault Refusal :=
  issueWord (.beq xa xb fa fb off) (targetFault (takenOn .eq xa xb) (relTarget off)) (branchIf (takenOn .eq xa xb) off) s

/-- BNE (R117). -/
def execBne (xa xb : RegNo) (fa fb : Bool) (off : BitVec 10) (s : State) : Host.Outcome State Fault Refusal :=
  issueWord (.bne xa xb fa fb off) (targetFault (takenOn .ne xa xb) (relTarget off)) (branchIf (takenOn .ne xa xb) off) s

/-- BLT (R117). -/
def execBlt (xa xb : RegNo) (fa fb : Bool) (off : BitVec 10) (s : State) : Host.Outcome State Fault Refusal :=
  issueWord (.blt xa xb fa fb off) (targetFault (takenOn .lt xa xb) (relTarget off)) (branchIf (takenOn .lt xa xb) off) s

/-- BGE (R117). -/
def execBge (xa xb : RegNo) (fa fb : Bool) (off : BitVec 10) (s : State) : Host.Outcome State Fault Refusal :=
  issueWord (.bge xa xb fa fb off) (targetFault (takenOn .ge xa xb) (relTarget off)) (branchIf (takenOn .ge xa xb) off) s

/-- BLTN (R117). -/
def execBltn (xa xb : RegNo) (fa fb : Bool) (off : BitVec 10) (s : State) : Host.Outcome State Fault Refusal :=
  issueWord (.bltn xa xb fa fb off) (targetFault (takenOn .ltn xa xb) (relTarget off))
    (branchIf (takenOn .ltn xa xb) off) s

/-- BGEN (R117). -/
def execBgen (xa xb : RegNo) (fa fb : Bool) (off : BitVec 10) (s : State) : Host.Outcome State Fault Refusal :=
  issueWord (.bgen xa xb fa fb off) (targetFault (takenOn .gen xa xb) (relTarget off))
    (branchIf (takenOn .gen xa xb) off) s

/-- Whether BP is taken (R117). -/
def takenPred (neg : Bool) (p : BitVec 4) (f : Issue) : Bool := f.snap.pred p.toNat != neg

/-- BP (R117). -/
def execBp (neg : Bool) (p : BitVec 4) (off : BitVec 10) (s : State) : Host.Outcome State Fault Refusal :=
  issueWord (.bp neg p off) (targetFault (takenPred neg p) (relTarget off)) (branchIf (takenPred neg p) off) s

/-- J (R117). -/
def execJ (off : BitVec 10) (s : State) : Host.Outcome State Fault Refusal :=
  issueWord (.j off) (targetFault (fun _ => true) (relTarget off)) (branchIf (fun _ => true) off) s

/-- JL: link, then jump (R118). -/
def execJl (off : BitVec 10) (s : State) : Host.Outcome State Fault Refusal :=
  issueWord (.jl off) (targetFault (fun _ => true) (relTarget off)) (fun f s =>
    goTo (relTarget off f) (frameCtx s f (fun c => c.writeX 62#6 f.slot (f.pc + 16#64)))) s

/-- The fault of an absolute target: RANGE at or above 2^48, else ALIGN off a multiple of 16 (R118, R131). -/
def absFault (t : Word) : Option (Nat × Word) :=
  if 2 ^ 48 ≤ t.toNat then some (5, t) else if t.toNat % 16 ≠ 0 then some (7, t) else none

/-- JR (R118). -/
def execJr (xa : RegNo) (fa : Bool) (s : State) : Host.Outcome State Fault Refusal :=
  issueWord (.jr xa fa) (fun f _ => absFault (f.rd xa)) (fun f s => goTo (f.rd xa) s) s

/-- A loop word's trip count (R72, R73). -/
def tripCount (xa : RegNo) (f : Issue) : Nat := (f.rd xa).toNat % 2 ^ 32

/-- Where a loop word leads: past the body when the count is 0, else into it (R72, R73). -/
def loopTarget (xa : RegNo) (off : BitVec 10) (f : Issue) : Word :=
  if tripCount xa f = 0 then f.pc + BitVec.ofNat 64 (16 * (off.toNat + 1)) else f.pc + 16#64

/-- A loop word leads to its target (R72, R73). -/
def goLoop (t : Word) (s : State) : State := setFrame s (fun g => { g with next := some t, loop := true })

/-- LOOP.S (R72). -/
def execLoopS (xa : RegNo) (k : BitVec 6) (fa : Bool) (off : BitVec 10) (s : State) : Host.Outcome State Fault Refusal :=
  issueWord (.loopS xa k fa off) (targetFault (fun _ => true) (loopTarget xa off)) (fun f s =>
    let s := goLoop (loopTarget xa off f) s
    if tripCount xa f = 0 then s
    else
      frameCtx s f (fun c =>
        { c with lc0 := lcWord true off.toNat (f.pc.toNat + 16), li0 := 0#64,
                 sk0 := BitVec.ofNat 64 (k.toNat * 2 ^ 32 + tripCount xa f) }.setStage)) s

/-- LOOP.O (R73). -/
def execLoopO (xa : RegNo) (fa : Bool) (off : BitVec 10) (s : State) : Host.Outcome State Fault Refusal :=
  issueWord (.loopO xa fa off) (targetFault (fun _ => true) (loopTarget xa off)) (fun f s =>
    let s := goLoop (loopTarget xa off f) s
    if tripCount xa f = 0 then s
    else
      frameCtx s f (fun c =>
        { c with lc1 := lcWord true off.toNat (f.pc.toNat + 16), li1 := BitVec.ofNat 64 (tripCount xa f * 2 ^ 32) })) s

end Sys2Proof.Machine
end

