-- ==== Sys2Proof/Machine/Host.lean ====
section
/-! DEFINITION. The host's side: mailbox commands, the rings in host memory, CXL.mem accesses, throttle, health and
bring-up (R28, R154, R181, R184 to R186, R400 to R418). Payloads that the spec does not lay out are as log entry 26 says. -/

namespace Sys2Proof.Machine

/-! Payloads. -/

/-- n bytes of a function's payload window. -/
def payBytes (s : State) (fn off n : Nat) : List Byte := memRead (mailOf s fn).payload off n

/-- A doubleword of the payload. -/
def payDw (s : State) (fn off : Nat) : Nat := leNat (payBytes s fn off 8)

/-- The payload's length as the command states it (R401). -/
def payLen (s : State) (fn : Nat) : Nat := wbits (mailOf s fn).command 12 0

/-- The command of a doubleword. -/
def mailOp (w : Word) : Nat := wbits w 47 32

/-- Whether the fields of a command doubleword keep their limits, and its command exists (R401, R403). -/
def mailOk (w : Word) : Bool :=
  wbits w 62 48 == 0 && wbits w 31 13 == 0 && decide (wbits w 12 0 ≤ 4096) && decide (1 ≤ mailOp w) && decide (mailOp w ≤ 0x13)

/-! Who sends (R400, R403). -/

/-- Who may send a command. -/
inductive Who where
  | pf | control | any
  deriving DecidableEq, Repr, Inhabited

/-- What a VF is bound to, by its function. -/
def bindingOf (s : State) (fn : Nat) : Option Binding := if fn = 0 then none else kget s.vfs (fn - 1)

/-- Whether a function may send a command of a kind for a partition. A VF names only its own. -/
def maySend (s : State) (fn : Nat) (who : Who) (part : Nat) : Bool :=
  if fn = 0 then true
  else
    match bindingOf s fn with
    | none => false
    | some b => b.part == part && (who == .any || (who == .control && b.control))

/-- The partition of a command whose payload names none: a VF's own; for the PF the doubleword at an offset of the payload,
and where the payload ends before it the lowest partition that exists (log entry 26). -/
def partNamed (s : State) (fn off : Nat) : Nat :=
  match bindingOf s fn with
  | some b => b.part
  | none =>
    if off + 8 ≤ payLen s fn then payDw s fn off
    else (s.parts.map (fun p => p.1)).headD 32

/-- Whether the device's state accepts a command: recovery mode and bring-up (R404, R416). -/
def bootCode (s : State) (op : Nat) : Option Nat :=
  match s.boot with
  | .recovery => if op = 1 ∨ op = 0x10 ∨ op = 0x11 then none else some 0x1084
  | .ready => if op = 0x11 then some 0x1084 else none
  | _ => if op = 1 ∨ op = 0x10 ∨ op = 0xD then none else if op = 0x11 then some 0x1084 else some 0x1083

/-- How a command ends: its code, none while its status is not final; its reply; and the state. -/
abbrev MailAns := Option Nat × Option (List Byte) × State

/-- The gang of a core by number. -/
def gangHolding (s : State) (core : Nat) : Option (Nat × Gang) := s.gangs.find? (fun g => g.2.cores.contains core)

/-- The partition whose notice has a number. -/
def noticePart (s : State) (num : Nat) : Option Nat :=
  (s.parts.find? (fun p => p.2.notices.any (fun n => n.num == num))).map (fun p => p.1)

/-- The partition that a function's command names; a VF that is not bound names none (R402, R403). -/
def mailPart (s : State) (fn : Nat) : Option Nat :=
  if fn ≠ 0 ∧ (bindingOf s fn).isNone = true then none
  else
  match mailOp (mailOf s fn).command with
  | 2 | 3 | 6 | 0xE => some (payDw s fn 0)
  | 4 | 0xB => some (partNamed s fn 0)
  | 5 => some (nbits (payDw s fn 0) 20 16)
  | 7 => some (partNamed s fn 0x80)
  | 8 => noticePart s (payDw s fn 0)
  | 9 => some (partNamed s fn 0x20)
  | 0xA => some (partNamed s fn 8)
  | 0xC => some (partNamed s fn 0x10)
  | 0xF => (gangHolding s (payDw s fn 0)).map (fun g => g.2.part)
  | 1 | 0x10 => (bindingOf s fn).map (fun b => b.part)
  | _ => none

/-- Whether a function's LAUNCH waits for the host to map its record's range set (R179, R373). -/
def launchMisses (s : State) (fn : Nat) : Bool :=
  mailOp (mailOf s fn).command == 7
  && (match (mailPart s fn).bind (fun part => (partOf s part).map (fun p => (part, p))) with
      | none => false
      | some (part, p) =>
        (match checkRecord s part p (payBytes s fn 0 128) with
         | .miss _ _ => true
         | .ok _ | .refused _ _ => false))

/-- Whether a command of another function whose doorbell came first names the same partition and has still to run. A LAUNCH that waits
for its admission or for a page has run (R368, R402; DEDUCED, log entry 110). -/
def mailBefore (s : State) (fn : Nat) : Bool :=
  s.mail.any (fun o =>
    o.1 != fn && o.2.command.getLsbD 63 && o.2.waiting.isNone && decide (o.2.bell < (mailOf s fn).bell) && !launchMisses s o.1
    && (mailPart s fn).isSome && mailPart s o.1 == mailPart s fn)

/-- A command of a function runs: its mailbox holds it, commands that come before it have run (R402), the device accepts it, and its
sender may send it. body says how it ends. -/
def runMail (s : State) (fn op : Nat) (who : Who) (part : Nat) (body : State → MailAns) : State :=
  let m := mailOf s fn
  if !m.command.getLsbD 63 || mailOp m.command != op || m.waiting.isSome || mailBefore s fn then s
  else
    match bootCode s op with
    | some code => endMail s fn code 0 none
    | none =>
      if !maySend s fn who part then endMail s fn 0x1082 0 none
      else
        match body s with
        | (none, _, t) => t
        | (some code, reply, t) => endMail t fn code 0 reply

/-- A body that needs its partition to exist. -/
def withPart (part : Nat) (body : Partition → State → MailAns) (s : State) :
    MailAns :=
  match partOf s part with
  | none => (some 0x1081, none, s)
  | some p => body p s

/-- A command ends with a code, or with success in a state. -/
def bad (code : Nat) (s : State) : MailAns := (some code, none, s)
def good (s : State) : MailAns := (some 0, none, s)

/-- Whether a partition has a placed task or a queued entry (R404). -/
def partBusy (s : State) (part : Nat) : Bool :=
  s.gangs.any (fun g => g.2.part == part) || (match partOf s part with
    | none => false
    | some p => p.queues.any (fun q => !q.2.isEmpty))

/-! The doorbell and the windows (R401). -/

/-- REGISTER_WRITE: the host writes a doubleword of a function's BAR 0. A command that breaks its limits is final at once;
a write of the command doubleword while go = 1 is ignored (R401). -/
def execRegisterWrite (fn off : Nat) (val : Word) (s : State) : Host.Outcome State Fault Refusal :=
  .next (
    let m := mailOf s fn
    if 1024 < fn ∨ off % 8 ≠ 0 ∨ s.boot = .cold ∨ s.boot = .linkDown then s
    else if off = 0 then
      if m.command.getLsbD 63 then s
      else
        let s := { s with mail := kput s.mail fn { m with command := val, bell := s.nextId }, nextId := s.nextId + 1 }
        if val.getLsbD 63 && !mailOk val then endMail s fn 0x1081 0 none else s
    else if 0x1000 ≤ off ∧ off < 0x2000 then
      { s with mail := kput s.mail fn { m with payload := memWrite m.payload (off - 0x1000) (wordBytes val) } }
    else if off = 8 then s
    else writeMasks s fn off val)

/-! Information. -/

/-- The 0x68 bytes of the enabled-unit map (R405). -/
def unitMap (s : State) : List Byte :=
  natBytes s.units.cores.toNat 64 ++ natBytes s.units.slices.toNat 16 ++ natBytes s.units.hbm.toNat 16
  ++ natBytes s.units.links.toNat 8

/-- GET_INFO (R403, R414). -/
def execGetInfo (fn : Nat) (s : State) : Host.Outcome State Fault Refusal :=
  .next (runMail s fn 1 .any (partNamed s fn 0) (fun s =>
    (some 0, some (unitMap s ++ natBytes (Config.imageVersion s.running) 8 ++ natBytes s.node 8 ++ natBytes s.rg 8
      ++ natBytes s.q 8 ++ Config.identity), s)))

/-- SENSORS (R403). -/
def execSensors (fn : Nat) (s : State) : Host.Outcome State Fault Refusal :=
  .next (runMail s fn 0x13 .pf 32 (fun s =>
    (some 0, some (s.temps.flatMap (fun t => natBytes t 8) ++ natBytes (flagNum s.throttled 1) 8 ++ natBytes s.throttles 8), s)))

/-- The report of ATTEST without its signature (R414). -/
def attestBody (s : State) (fn : Nat) : List Byte :=
  let part := ((bindingOf s fn).map (fun b => b.part)).getD 0x1F
  payBytes s fn 0 32 ++ (if s.running.isEmpty then natBytes 0 32 else sha3 s.running)
  ++ natBytes (Config.imageVersion s.running % 2 ^ 16 + s.node * 2 ^ 16 + s.feed * 2 ^ 32 + part * 2 ^ 48) 8
  ++ sha3 (unitMap s) ++ natBytes 0 0x38

/-- ATTEST (R414). -/
def execAttest (fn : Nat) (s : State) : Host.Outcome State Fault Refusal :=
  .next (runMail s fn 0x10 .any (partNamed s fn 0) (fun s =>
    let b := attestBody s fn
    (some 0, some (b ++ (upFrom 0 2420).map (Config.mldsaSign (sha3 b))), s)))

/-! The rings in host memory (R407, R418). -/

/-- Whether a ring has room; a cons beyond prod is read as prod. -/
def ringFull (prod cons cap : Nat) : Bool := decide (cap ≤ prod - min cons prod)

/-- An entry written to a ring: the entry first, then prod. -/
def ringWrite (s : State) (r : HostRing) (prod : Nat) (e : Rec32) : State :=
  locWrite (locWrite s (.pa (r.base + 64 + 32 * (prod % r.cap))) (e.flatMap wordBytes)) (.pa r.base) (natBytes (prod + 1) 8)

/-- The oldest entry that waits for a ring of a partition is written and its vector raised. A notice waits for room; a machine-check
record without room is lost and counted (R407, R418). -/
def queueWrite (s : State) (part : Nat) (ring : RingSel) : State :=
  match partOf s part with
  | none => s
  | some p =>
    match ring with
    | .notice =>
      (match p.noticeRing, p.pendNotices with
       | some r, e :: rest =>
         let prod := leNat (memRead s.mem r.base 8)
         if ringFull prod (leNat (memRead s.mem (r.base + 8) 8)) r.cap then s
         else raisePart (ringWrite (modPart s part (fun p => { p with pendNotices := rest })) r prod e) part 1
       | _, _ => s)
    | .machineCheck =>
      (match p.mcRing, p.pendRecords with
       | some r, e :: rest =>
         let prod := leNat (memRead s.mem r.base 8)
         let s := modPart s part (fun p => { p with pendRecords := rest })
         if ringFull prod (leNat (memRead s.mem (r.base + 8) 8)) r.cap then
           raisePart (locWrite s (.pa (r.base + 16)) (natBytes (leNat (memRead s.mem (r.base + 16) 8) + 1) 8)) part 2
         else raisePart (ringWrite s r prod e) part 2
       | _, _ => s)

/-- What waits for the rings of a partition is written, as far as there is room. -/
def flushRings (s : State) (part : Nat) : State :=
  match partOf s part with
  | none => s
  | some p =>
    let s := p.pendRecords.foldl (fun s _ => queueWrite s part .machineCheck) s
    p.pendNotices.foldl (fun s _ => queueWrite s part .notice) s

/-! Partitions (R400, R403, R406). -/

/-- The clusters of a mask. -/
def maskClusters (m : Nat) : List Nat := (upFrom 0 64).filter (fun c => m.testBit c)

/-- Whether a cluster has an enabled core (R25). -/
def clusterEnabled (s : State) (cl : Nat) : Bool := (upFrom (8 * cl) 8).any (coreEnabled s)

/-- The partition that holds a cluster. -/
def ownerOf (s : State) (cl : Nat) : Option Nat := (s.parts.find? (fun p => p.2.clusters.contains cl)).map (fun p => p.1)

/-- PART_CREATE (R79, R403). -/
def execPartCreate (fn : Nat) (s : State) : Host.Outcome State Fault Refusal :=
  .next (runMail s fn 2 .pf 32 (fun s =>
    let part := payDw s fn 0
    let cls := maskClusters (payDw s fn 8)
    if cls.any (fun c => (ownerOf s c).any (partBusy s)) then bad 0x1083 s
    else if 32 ≤ part ∨ (partOf s part).isSome = true ∨ cls.isEmpty = true
        ∨ cls.any (fun c => (ownerOf s c).isSome || !clusterEnabled s c) = true then bad 0x1081 s
    else
      let p := Partition.fresh cls
      good ((partCores p).foldl (fun s n => modCore s n (fun k => { k with sp := [], spBad := [] }))
        { s with parts := kput s.parts part p })))

/-- PART_RESET (R389, R403). -/
def execPartReset (fn : Nat) (s : State) : Host.Outcome State Fault Refusal :=
  let part := partNamed s fn 0
  .next (runMail s fn 4 .control part (withPart part (fun _ s => good (resetPartition s part 0x1001 3 0x3FF 0#64))))

/-- What a destroyed partition leaves behind: its VFs are unbound, its clusters free, and nothing of it is in flight. -/
def destroy (s : State) (part : Nat) : State :=
  { s with
    parts := kdel s.parts part
    vfs := s.vfs.filter (fun b => b.2.part != part)
    gangs := s.gangs.filter (fun g => g.2.part != part)
    acc := s.acc.filter (fun a => a.part != part)
    backInv := s.backInv.filter (fun a => a.part != part)
    tcache := s.tcache.filter (fun e => e.part != part)
    wcache := s.wcache.filter (fun e => e.part != part)
    l2 := s.l2.filter (fun e => e.part != part)
    mdcache := s.mdcache.filter (fun e => e.part != part)
    resident := s.resident.map (fun d => (d.1, d.2.filter (fun b => b.1 != part)))
    hostLines := s.hostLines.filter (fun l => l.1 / 2 ^ 46 != part) }

/-- The LAUNCHes that waited for room in a destroyed partition end with MB_OPND, since their partition is no more (R403, R404; log entry
128). -/
def endWaiting (s : State) (part : Nat) : State :=
  (s.mail.filter (fun o => o.2.waiting.any (fun w => w.1 == part))).foldl (fun s o => endMail s o.1 0x1081 0 none) s

/-- PART_DESTROY (R403): what the reset reports is written before the partition is gone. -/
def execPartDestroy (fn : Nat) (s : State) : Host.Outcome State Fault Refusal :=
  .next (runMail s fn 3 .pf 32 (fun s =>
    let part := payDw s fn 0
    withPart part (fun _ s =>
      good (endWaiting (destroy (flushRings (resetPartition s part 0x1001 3 0x3FF 0#64) part) part) part)) s))

/-- VF_BIND (R400, R403, R404). -/
def execVfBind (fn : Nat) (s : State) : Host.Outcome State Fault Refusal :=
  .next (runMail s fn 5 .pf 32 (fun s =>
    let d := payDw s fn 0
    let vf := nbits d 9 0
    let part := nbits d 20 16
    let control := nbits d 15 15 == 1
    let old := (kget s.vfs vf).filter (fun b => b.control)
    let oldBusy := old.any (fun b => partBusy s b.part)
    if nbits d 31 31 = 1 then
      if (kget s.vfs vf).isNone then bad 0x1081 s
      else if oldBusy then bad 0x1083 s
      else good { s with vfs := kdel s.vfs vf }
    else if (partOf s part).isNone || (control && s.vfs.any (fun b => b.1 != vf && b.2.part == part && b.2.control)) then bad 0x1081 s
    else if oldBusy || (control && partBusy s part) then bad 0x1083 s
    else good { s with vfs := kput s.vfs vf ⟨part, control⟩ }))

/-! PART_CONFIG (R406). -/

/-- Whether n bytes at an address lie wholly in populated device memory: in one HBM4E slot, or in LPDDR-6 (R406, R409). -/
def deviceRange (s : State) (a n : Nat) : Bool :=
  decide (0 < n) && decide (a < 2 ^ 41) && populated s a && populated s (a + n - 1) && decide (a + n ≤ 2 ^ 41)
  && (decide (2 ^ 40 ≤ a) || a / 2 ^ 32 == (a + n - 1) / 2 ^ 32)

/-- Whether they lie in the HBM4E of a die. -/
def hbmRange (s : State) (die a n : Nat) : Bool := deviceRange s a n && decide (a < 2 ^ 39) && dieOfPa a == die

/-- Whether they lie in host memory (R411). -/
def hostRange (a n : Nat) : Bool := decide (0 < n) && decide (2 ^ 47 ≤ a) && decide (a + n ≤ 2 ^ 48)

/-- Whether two ranges have a byte in common. -/
def rangesMeet (a n b m : Nat) : Bool := decide (a < b + m) && decide (b < a + n)

/-- Whether no place of a list meets an earlier one of the list. -/
def apart : List (Nat × Nat) → Bool
  | [] => true
  | x :: rest => rest.all (fun y => !rangesMeet x.1 x.2 y.1 y.2) && apart rest

/-- Whether new places of a key meet no other place of the device (R406). -/
def placesFree (s : State) (part key : Nat) (l : List (Nat × Nat)) : Bool :=
  apart l && s.parts.all (fun p => p.2.places.all (fun o =>
    (p.1 == part && o.1 == key) || l.all (fun x => !rangesMeet x.1 x.2 o.2.1 o.2.2)))

/-- A partition with the places of a key replaced. -/
def setPlaces (p : Partition) (key : Nat) (l : List (Nat × Nat)) : Partition :=
  { p with places := p.places.filter (fun o => o.1 != key) ++ l.map (fun x => (key, x.1, x.2)) }

/-- Four doublewords of the payload, at a distance. -/
def payFour (s : State) (fn off step : Nat) : List Nat := (upFrom 0 4).map (fun d => payDw s fn (off + step * d))

/-- The rings' headers made zero (R418). -/
def zeroHeader (s : State) (a : Nat) : State := locWrite s (.pa a) (natBytes 0 64)

/-- A key set, none where a value breaks its limit (R406). -/
def setKey (s : State) (fn part key : Nat) (p : Partition) : Option State :=
  let v (i : Nat) : Nat := payDw s fn (0x10 + 8 * i)
  let put (s : State) (l : List (Nat × Nat)) (g : Partition → Partition) : State :=
    modPart s part (fun p => setPlaces (g p) key l)
  match key with
  | 1 =>
    let sizes := payFour s fn 0x10 16
    let areas := (payFour s fn 0x18 16).zip sizes
    let used := areas.filter (fun a => a.2 != 0)
    if sizes.all (fun n => n % 2 ^ 16 == 0 && decide (n ≤ 2 ^ 28)) && placesFree s part key used
        && ((upFrom 0 4).zip areas).all (fun x => x.2.2 == 0 || hbmRange s x.1 x.2.1 x.2.2) then
      some { put s used (fun p => { p with syncSize := sizes, sync := [], ib := [], syncPz := [], syncHb := [] }) with
        resident := s.resident.map (fun d => (d.1, d.2.filter (fun b => b.1 != part))) }
    else none
  | 2 =>
    let near := payFour s fn 0x10 32
    let h := payFour s fn 0x18 32
    let l := payFour s fn 0x20 32
    let cap := payFour s fn 0x28 32
    if (near ++ h ++ l).all (fun n => n % 2 ^ 16 == 0) && cap.all (fun n => decide (n ≤ 65536)) then
      some (modPart s part (fun p => { p with poolNear := near, poolH := h, poolL := l, stashCap := cap }))
    else none
  | 3 =>
    let pages := (upFrom 0 (min (v 0) 512)).map (fun i => v (4 + i))
    let l := pages.map (fun a => (a, 2 ^ 16))
    if decide (v 0 ≤ 507) && l.all (fun x => x.1 % 2 ^ 16 == 0 && deviceRange s x.1 x.2) && placesFree s part key l then
      some (put s l (fun p => { p with namePages := pages, salt := payBytes s fn 0x18 16, nameCap := v 3, names := [], releases := [], relWaits := [] }))
    else none
  | 4 =>
    let l := [(v 0, v 1), (v 2, 32)]
    if v 1 != 0 && l.all (fun x => deviceRange s x.1 x.2) && placesFree s part key l then
      let s := put s l (fun p => { p with logCap := some (v 1 / 256), fenceAt := v 2, log := [], logNext := 0, fenceSeq := 0 })
      some (locWrite s (.pa (v 2)) (fenceBytes 0 s.tsc 0 0 0 0 0))
    else none
  | 5 =>
    let n := Config.spBytes * (partCores p).length
    if v 0 % 4096 == 0 && deviceRange s (v 0) n && placesFree s part key [(v 0, n)] then
      some (put s [(v 0, n)] (fun p => { p with saveAt := some (v 0) }))
    else none
  | 6 =>
    let l := [(v 0, 64 + 32 * v 1), (v 2, 64 + 32 * v 3)]
    if v 1 != 0 && v 3 != 0 && l.all (fun x => hostRange x.1 x.2) && placesFree s part key l then
      some (zeroHeader (zeroHeader
        (put s l (fun p => { p with mcRing := some ⟨v 0, v 1⟩, noticeRing := some ⟨v 2, v 3⟩ })) (v 0)) (v 2))
    else none
  | 7 =>
    if decide (v 2 < 2 ^ 16) && decide (v 0 + v 1 ≤ 2 ^ 64)
        && s.parts.all (fun o => o.1 == part || o.2.winSize == 0 || v 1 == 0 || !rangesMeet (v 0) (v 1) o.2.winBase o.2.winSize) then
      some (modPart s part (fun p => { p with winBase := v 0, winSize := v 1, hostAsid := v 2 }))
    else none
  | 8 =>
    if decide (10 ≤ v 0) && decide (v 0 ≤ 100000) then some (modPart s part (fun p => { p with watchdog := v 0 })) else none
  | 9 =>
    if deviceRange s (v 0) 48 && placesFree s part key [(v 0, 48)] then
      some (put s [(v 0, 48)] (fun p => { p with secAt := some (v 0) }))
    else none
  | 10 =>
    if decide (v 0 < 2 ^ 16) && s.parts.all (fun o => o.1 == part || o.2.dpart != some (v 0)) then
      some (modPart s part (fun p => { p with dpart := some (v 0) }))
    else none
  | _ => none

/-- PART_CONFIG (R404, R406). -/
def execPartConfig (fn : Nat) (s : State) : Host.Outcome State Fault Refusal :=
  .next (runMail s fn 6 .pf 32 (fun s =>
    let part := payDw s fn 0
    let key := payDw s fn 8
    withPart part (fun p s =>
      if key = 0 ∨ 10 < key then bad 0x1081 s
      else if key ≠ 8 ∧ partBusy s part = true then bad 0x1083 s
      else
        match setKey s fn part key p with
        | none => bad 0x1081 s
        | some t => good t) s))

/-! Work (R368, R373, R391). -/

/-- What a LAUNCH of a function answers: a code where it is final, and the state (R368, R369, R373, R388). A record whose queue
has no room waits for ARRIVAL_ADMISSION; one whose range set misses its page waits for the host. -/
def launchStep (fn part : Nat) (p : Partition) (s : State) : Option Nat × State :=
  let r := payBytes s fn 0 128
  let e := recordEntry r (fn == 0 || (bindingOf s fn).any (fun b => b.control)) s.tsc srcManager
  if payLen s fn < 128 then (some 0x1081, s)
  else if !takesWork p then (some 0x1085, s)
  else
    match checkRecord s part p r with
    | .refused _ f => (some 0x1085, checkFail s part f)
    | .miss a bad => (none, unitMiss s part a bad false)
    | .ok _ =>
      if mayEnter p e then (some 0, modPart s part (fun p => admitEntry p e))
      else (none, { s with mail := kput s.mail fn { mailOf s fn with waiting := some (part, e) } })

/-- LAUNCH (R168, R368, R373, R388). -/
def execLaunch (fn : Nat) (s : State) : Host.Outcome State Fault Refusal :=
  let part := partNamed s fn 0x80
  .next (runMail s fn 7 .any part (withPart part (fun p s =>
    let a := launchStep fn part p s
    (a.1, none, a.2))))

/-- PREEMPT (R391). -/
def execPreempt (fn : Nat) (s : State) : Host.Outcome State Fault Refusal :=
  let core := payDw s fn 0
  let gang := gangHolding s core
  let part := ((gang.map (fun g => g.2.part)).or ((bindingOf s fn).map (fun b => b.part))).getD 32
  .next (runMail s fn 0xF .control part (fun s =>
    match gang with
    | none => bad 0x1081 s
    | some g => good (flagGang s g.1)))

/-! Translation (R175, R181, R184, R186). -/

/-- FAULT_ANSWER (R181): a notice that waits for no answer is refused. -/
def execFaultAnswer (fn : Nat) (s : State) : Host.Outcome State Fault Refusal :=
  let num := payDw s fn 0
  let holder := noticePart s num
  let part := (holder.or ((bindingOf s fn).map (fun b => b.part))).getD 32
  .next (runMail s fn 8 .control part (fun s =>
    let denied := payDw s fn 8 % 2 == 1
    match holder with
    | none => bad 0x1085 s
    | some part => good (answerUpdates (answerReleases (answerNotice s part num denied) part num denied) part num denied)))

/-- An invalidation is posted; the cores that run no task of the partition count as having acknowledged (R184). -/
def postInval (s : State) (part : Nat) (p : Partition) (rset : Option Nat) (asid lo hi : Nat) : State :=
  let v : Inval :=
    { id := s.nextId, rset := rset, asid := asid, gen := kgetD p.gens asid 0, lo := lo, hi := hi, since := s.tsc,
      acks := (partCores p).filter (fun n => !coreRuns s n), watch := false }
  settleInvals (modPart { s with nextId := s.nextId + 1 } part (fun p => { p with invals := p.invals ++ [v] })) part

/-- INVALIDATE (R184). -/
def execInvalidate (fn : Nat) (s : State) : Host.Outcome State Fault Refusal :=
  let part := partNamed s fn 0x20
  .next (runMail s fn 9 .control part (withPart part (fun p s =>
    let v (i : Nat) : Nat := payDw s fn (8 * i)
    if v 0 = 0 then good (postInval s part p (some (v 1)) 0 0 0)
    else if v 0 = 1 ∧ v 1 < 2 ^ 16 ∧ v 2 ≤ v 3 then good (postInval s part p none (v 1) (v 2) (v 3))
    else bad 0x1081 s)))

/-- The gangs of a partition that were placed under an ASID, once it has been retired (R186). -/
def retireAsid (s : State) (part asid : Nat) : State :=
  { s with gangs := s.gangs.map (fun g =>
      (g.1, if g.2.part = part ∧ g.2.asid = asid then { g.2 with retired := true } else g.2)) }

/-- ASID_RETIRE (R186): the generation goes up; from 15 to 0 only after a full flush since it last stood at 0. -/
def execAsidRetire (fn : Nat) (s : State) : Host.Outcome State Fault Refusal :=
  let part := partNamed s fn 8
  .next (runMail s fn 0xA .control part (withPart part (fun p s =>
    let asid := payDw s fn 0 % 2 ^ 16
    let gen := kgetD p.gens asid 0
    if gen = 15 ∧ p.flushed.contains asid = false then bad 0x1085 s
    else
      good (modPart (retireAsid s part asid) part (fun p =>
        { p with
          gens := if gen = 15 then kdel p.gens asid else kput p.gens asid (gen + 1)
          flushed := if gen = 15 then eraseNat p.flushed asid else p.flushed })))))

/-- FLUSH (R186). -/
def execFlush (fn : Nat) (s : State) : Host.Outcome State Fault Refusal :=
  let part := partNamed s fn 0
  .next (runMail s fn 0xB .control part (withPart part (fun _ s =>
    good (modPart { s with
        tcache := s.tcache.filter (fun e => e.part != part), wcache := s.wcache.filter (fun e => e.part != part) } part (fun p =>
      { p with flushed := p.gens.map (fun g => g.1) })))))

/-- TABLE_ROOT (R175, R409). -/
def execTableRoot (fn : Nat) (s : State) : Host.Outcome State Fault Refusal :=
  let part := partNamed s fn 0x10
  .next (runMail s fn 0xC .control part (withPart part (fun _ s =>
    let asid := payDw s fn 0 % 2 ^ 16
    let root := payDw s fn 8
    if root % 4096 ≠ 0 ∨ populated s root = false then bad 0x1081 s
    else good (modPart s part (fun p => { p with roots := kput p.roots asid root, curAsid := asid })))))

/-! The domain, mirrors, health (R312, R363, R364, R415). -/

/-- DOMAIN_SET (R312, R363, R416): at the end of bring-up tsc is synchronised with the domain, which is ahead by an amount that nothing
fixes and never behind, since tsc never runs backwards (R22; log entry 108). -/
def execDomainSet (fn : Nat) (s : State) : Host.Outcome State Fault Refusal :=
  .next (runMail s fn 0xD .pf 32 (fun s =>
    let v (i : Nat) : Nat := payDw s fn (8 * i)
    if 2 ^ 15 ≤ v 0 ∨ [v 1, v 2, v 3].any (fun n => n == 0 || decide (32 < n)) = true ∨ 255 < v 4 ∨ (v 4 ≠ 0 ∧ v 4 ≤ v 5)
        ∨ 2 ^ 16 ≤ v 6 then bad 0x1081 s
    else
      good { s with
        node := v 0, dims := (v 1, v 2, v 3), rg := v 4, q := v 5, feed := v 6
        tsc := if s.boot = .waiting then s.tsc + Config.domainLead s.tsc else s.tsc
        boot := if s.boot = .waiting then .ready else s.boot }))

/-- MIRROR_ENABLE (R364). -/
def execMirrorEnable (fn : Nat) (s : State) : Host.Outcome State Fault Refusal :=
  .next (runMail s fn 0xE .pf 32 (fun s =>
    let part := payDw s fn 0
    let d := payDw s fn 8
    withPart part (fun _ s =>
      good (modPart s part (fun p =>
        { p with mirrors := if nbits d 16 16 = 1 then insertNat p.mirrors (nbits d 15 0) else eraseNat p.mirrors (nbits d 15 0) }))) s))

/-- HM_WEIGHTS (R415). -/
def execHmWeights (fn : Nat) (s : State) : Host.Outcome State Fault Refusal :=
  .next (runMail s fn 0x12 .pf 32 (fun s =>
    let w := (upFrom 0 6).map (fun i => payDw s fn (8 * i))
    if w.any (fun n => decide (255 < n)) then bad 0x1081 s else good { s with weights := w }))

/-- Events of an input in the last second; corrected ECC errors are a free value (R415; log entry 102). -/
def healthCount (s : State) (input : Nat) : Nat :=
  if input = 0 then Config.corrected s.tsc else (s.health.filter (fun h => h.input == input)).length

/-- An input's weight times its count. -/
def healthRisk (s : State) (input : Nat) : Nat := if nth s.weights input = 0 then 0 else nth s.weights input * healthCount s input

/-- Nanoseconds between two settings of the risk (R415). -/
def riskPeriod : Nat := 1000000

/-- RISK_UPDATE: every 1 ms the monitor drops events older than 1 s, counts a hot die, and sets the risk (R415). -/
def execRiskUpdate (s : State) : Host.Outcome State Fault Refusal :=
  .next (
    if s.tsc < s.riskAt + riskPeriod then s
    else
      let s := if s.temps.any (fun t => decide (760 ≤ t)) then healthEvent s 5 srcManager else s
      let s := { s with health := s.health.filter (fun h => decide (s.tsc < h.at_ + 1000000000)), riskAt := s.tsc }
      let worst := ((upFrom 0 6).map (healthRisk s)).foldl max 0
      let s := { s with risk := min 255 (worst / 16) }
      { s with parts := s.parts.map (fun p => (p.1, relatch s p.2)) })

/-- THROTTLE_ENGAGE: a die's temperature reaches 105 °C, and every clock is stretched (R28, R408, R415). -/
def execThrottleEngage (die temp : Nat) (s : State) : Host.Outcome State Fault Refusal :=
  .next (
    let s := { s with temps := s.temps.set die temp }
    if s.throttled = false ∧ die < 4 ∧ 840 ≤ temp then
      raiseAll (healthEvent { s with throttled := true, throttles := s.throttles + 1 } 4 srcManager) 3
    else s)

/-- THROTTLE_RELEASE: every die has fallen below 95 °C; the health monitor's log holds the release, which no input counts (R28, R408,
R415). -/
def execThrottleRelease (temps : List Nat) (s : State) : Host.Outcome State Fault Refusal :=
  .next (
    if s.throttled = true ∧ temps.length = 4 ∧ temps.all (fun t => decide (t < 760)) = true then
      raiseAll (healthEvent { s with temps := temps, throttled := false } 6 srcManager) 3
    else s)

/-- NOTICE_QUEUE_WRITE: the oldest entry that waits for a ring of a partition is written and its vector raised (R407, R418). -/
def execNoticeQueueWrite (part : Nat) (ring : RingSel) (s : State) : Host.Outcome State Fault Refusal :=
  .next (queueWrite s part ring)

/-! CXL.mem (R154, R410). -/

/-- What a host access meets; code is that of an error that the memory side returns. -/
inductive HostAns where
  | ok (ipa : Nat) (l : Loc)
  | poisoned
  | error (ipa code : Nat) (l : Loc) (leaf : Word)
  | miss (ipa : Nat) (bad : Bool)
  | named (ipa : Nat) (l : Loc)
  | wait
  | outside
  deriving DecidableEq, Repr, Inhabited

/-- A host access to n bytes at an address of its physical space (R410). -/
def hostAns (s : State) (part addr n : Nat) (write : Bool) : HostAns :=
  match partOf s part with
  | none => .outside
  | some p =>
    if addr < p.winBase ∨ p.winBase + p.winSize < addr + n then .outside
    else
      let ipa := addr - p.winBase
      match findDest s part p.hostAsid (kgetD p.gens p.hostAsid 0) (.ipa ipa) write with
      | .miss bad => .miss ipa bad
      | .place l leaf =>
        if leafCn leaf then .named ipa l
        else if leafHome leaf == 1 then .poisoned
        else
          match l with
          | .sp _ _ => .poisoned
          | .pa a =>
            if 2 ^ 40 ≤ a ∧ a < 2 ^ 41 then .poisoned
            else
              match czVerdict s part (.ipa ipa) n write l leaf with
              | some .wait => .wait
              | some (.err code _ _) => .error ipa code l leaf
              | some (.ok _ _) | none =>
                match (if write then none else locError s l n) with
                | some code => .error ipa code l leaf
                | none => .ok ipa l

/-- A host access to a named line: its record (R410). -/
def namedAccess (s : State) (part addr ipa : Nat) (l : Loc) : State :=
  mcRecord s part (srcOfLoc l) 0xC 0 3 0x3FF (BitVec.ofNat 64 addr) ipa

/-- The notice of a host access that misses. -/
def hostMiss (s : State) (part ipa : Nat) (bad write : Bool) : State :=
  match partOf s part with
  | none => s
  | some p =>
    if p.noticeRing.isNone then s
    else raiseNotice s part p.hostAsid (kgetD p.gens p.hostAsid 0) (if write then 1 else 0) 0x3FF none ipa bad .other

/-- The number of the CXL line of an IPA (R154). -/
def lineNo (part ipa : Nat) : Nat := part * 2 ^ 46 + ipa / 64

/-- The copy of a line that the host holds in its caches (R154). -/
def hostHeld (s : State) (part addr : Nat) : Option (List Byte) :=
  match partOf s part with
  | none => none
  | some p => if addr < p.winBase ∨ p.winBase + p.winSize < addr + 64 then none else kget s.hostLines (lineNo part (addr - p.winBase))

/-- What a host access that meets an error leaves: a record as for any consumption, and the loss of a block whose metadata a write
needs (R172, R175, R342). -/
def hostErr (s : State) (part addr ipa code : Nat) (l : Loc) (leaf : Word) : State :=
  if code = 0xD03 then
    mcRecord (modPart s part (fun p => poisonCz p (ipa / 4096))) part (srcOfLoc l) 0xD03 0 3 0x3FF (BitVec.ofNat 64 addr) ipa
  else consume s part 0x3FF 0 none (BitVec.ofNat 64 addr) ipa code l leaf

/-- The state after a host access at an IPA, which has used its leaf (R177, R410). -/
def hostUse (s : State) (part ipa : Nat) : State :=
  match partOf s part with
  | none => s
  | some p => useLeaf s part p.hostAsid (kgetD p.gens p.hostAsid 0) (.ipa ipa)

/-- HOST_MEM_READ: the host reads the line of an address, and may keep it in its caches; a line that it holds is served
there (R154, R410). -/
def execHostMemRead (part addr : Nat) (keep : Bool) (s : State) : Host.Outcome State Fault Refusal :=
  .next (
    let base := addr / 64 * 64
    match hostHeld s part base, hostAns s part base 64 false with
    | some d, _ => { s with hostData := some d }
    | none, .outside | none, .wait => s
    | none, .poisoned => { s with hostData := none }
    | none, .error ipa code l leaf => hostErr { s with hostData := none } part base ipa code l leaf
    | none, .miss ipa bad => hostMiss { s with hostData := none } part ipa bad false
    | none, .named ipa l => namedAccess { s with hostData := none } part base ipa l
    | none, .ok ipa l =>
      let d := locBytes s l 64
      let s := { hostUse s part ipa with hostData := some d }
      if keep then { s with hostLines := kput s.hostLines (lineNo part ipa) d } else s)

/-- Bytes of the host's own copy of a line replaced by those that it writes. -/
def hostCopy (s : State) (part ipa : Nat) (data : List Byte) : State :=
  { s with hostLines := s.hostLines.map (fun l =>
      if l.1 = lineNo part ipa then (l.1, l.2.take (ipa % 64) ++ data ++ l.2.drop (ipa % 64 + data.length)) else l) }

/-- HOST_MEM_WRITE: bytes of one line arrive at their home slice in one event; with poison their granules are marked, which the health
monitor counts, and the host holds no sound copy any more (R154, R410, R415, R417). -/
def execHostMemWrite (part addr : Nat) (data : List Byte) (poison : Bool) (s : State) : Host.Outcome State Fault Refusal :=
  .next (
    if data.isEmpty || decide (64 < addr % 64 + data.length) then s
    else
      match hostAns s part addr data.length true with
      | .outside | .wait | .poisoned => s
      | .error ipa code l leaf => hostErr s part addr ipa code l leaf
      | .miss ipa bad => hostMiss s part ipa bad true
      | .named ipa l => namedAccess s part addr ipa l
      | .ok ipa l =>
        if poison then
          healthEvent { locPoison s l data.length with hostLines := kdel s.hostLines (lineNo part ipa) } 1 (srcOfLoc l)
        else if writeDropped s l data.length then mcRecord s part (srcOfLoc l) 8 0 3 0x3FF (BitVec.ofNat 64 addr) ipa
        else hostUse (hostCopy (locWrite s l data) part ipa data) part ipa)

/-- BACK_INVALIDATION_COMPLETE: the host gives up a line; the writes that waited for it have their host event (R154). -/
def execBackInvalidationComplete (line : Nat) (s : State) : Host.Outcome State Fault Refusal :=
  .next (
    let lines := kdel s.hostLines line
    { s with
      hostLines := lines
      backInv := s.backInv.filter (fun a => (hostLinesOf a.part a.dest a.size).any (fun n => (kget lines n).isSome)) })

/-! Firmware and bring-up (R412, R413, R416). -/

/-- Whether the boot ROM accepts an image: its last bytes are the key and the signature (R412; log entry 26). -/
def imageOk (b : List Byte) : Bool :=
  let n := b.length - 3732
  let key := (b.drop n).take 1312
  decide (3732 ≤ b.length) && sha3 key == Config.fusedDigest && Config.mldsaVerify key (sha3 (b.take n)) (b.drop (n + 1312))
  && decide (Config.fusedVersion ≤ Config.imageVersion b)

/-- Bring-up from step 3: failed units are disabled, and the CXL link is to come up (R25, R26, R416). -/
def bringUp (s : State) : State :=
  { s with
    units := ⟨s.found.cores, s.found.slices, s.found.hbm, s.found.links⟩
    boot := if s.found.single then .linkDown else .recovery }

/-- POWER_ON_RESET: the module is as after reset, but for what lies outside it or outlasts it: the stored image, host memory
and the temperatures; the image is checked, and bring-up goes on (R412, R416). -/
def execPowerOnReset (found : BringUp) (s : State) : Host.Outcome State Fault Refusal :=
  .next (
    let t : State := { State.reset with
      stored := s.stored, found := found, mem := s.mem.filter (fun c => decide (2 ^ 47 ≤ c.1)), temps := s.temps
      partners := s.partners, agenda := s.agenda, pace := s.pace, free := s.free, running := s.stored }
    if imageOk s.stored then bringUp t else { t with boot := .recovery })

/-- CXL_LINK_UP: the link comes up, and the PF mailbox answers (R416). -/
def execCxlLinkUp (s : State) : Host.Outcome State Fault Refusal :=
  .next (if s.boot = .linkDown then { s with boot := .waiting } else s)

/-- PUSH_IMAGE (R413). -/
def execPushImage (fn : Nat) (s : State) : Host.Outcome State Fault Refusal :=
  .next (runMail s fn 0x11 .pf 32 (fun s =>
    let d := payDw s fn 0
    let image := s.pushing ++ payBytes s fn 8 (payLen s fn - 8)
    if nbits d 31 0 ≠ s.pushing.length ∨ payLen s fn < 8 then bad 0x1081 s
    else if nbits d 32 32 = 0 then good { s with pushing := image }
    else if !imageOk image then bad 0x1086 { s with pushing := [], running := image }
    else
      let s := { s with pushing := [], running := image, stored := if nbits d 33 33 = 1 then image else s.stored }
      good (bringUp s)))

end Sys2Proof.Machine
end

