-- ==== Sys2Proof/Machine/Scalar.lean ====
section
/-! DEFINITION. Integer, bit and wide-immediate words (R87 to R105): every word reads its sources in the frame of its
packet and writes one register or one predicate. -/

namespace Sys2Proof.Machine

/-! Values. -/

/-- High half of the signed product (R92). -/
def mulHigh (a b : Word) : Word := BitVec.ofInt 64 (a.toInt * b.toInt / 2 ^ 64)

/-- High half of the natural product (R92). -/
def mulHighN (a b : Word) : Word := BitVec.ofNat 64 (a.toNat * b.toNat / 2 ^ 64)

/-- Signed quotient (R93). -/
def divS (a b : Word) : Word :=
  if b = 0#64 then wOnes else if a = wMin ∧ b = wOnes then wMin else BitVec.ofInt 64 (a.toInt.tdiv b.toInt)

/-- Signed remainder (R93). -/
def remS (a b : Word) : Word :=
  if b = 0#64 then a else if a = wMin ∧ b = wOnes then 0#64
  else BitVec.ofInt 64 (a.toInt - b.toInt * a.toInt.tdiv b.toInt)

/-- Natural quotient (R93). -/
def divN (a b : Word) : Word := if b = 0#64 then wOnes else BitVec.ofNat 64 (a.toNat / b.toNat)

/-- Natural remainder (R93). -/
def remN (a b : Word) : Word := if b = 0#64 then a else BitVec.ofNat 64 (a.toNat % b.toNat)

/-- Shifts and rotates by c, 0 to 63 (R95). -/
def shl (a : Word) (c : Nat) : Word := a <<< c
def shr (a : Word) (c : Nat) : Word := a >>> c
def sra (a : Word) (c : Nat) : Word := a.sshiftRight c
def rol (a : Word) (c : Nat) : Word := if c = 0 then a else (a <<< c) ||| (a >>> (64 - c))
def ror (a : Word) (c : Nat) : Word := if c = 0 then a else (a >>> c) ||| (a <<< (64 - c))

/-- The shift amount of a register (R95). -/
def amount (b : Word) : Nat := b.toNat % 64

/-- The smaller and the larger of two values (R96). -/
def minS (a b : Word) : Word := if a.sle b then a else b
def maxS (a b : Word) : Word := if b.sle a then a else b
def minN (a b : Word) : Word := if a.ule b then a else b
def maxN (a b : Word) : Word := if b.ule a then a else b

/-- Zero bits above the highest set bit among the low n bits (R97). -/
def clzFrom (a : Word) : Nat → Nat
  | 0 => 0
  | n + 1 => if a.getLsbD n then 0 else 1 + clzFrom a n

/-- Zero bits below the lowest set bit, from bit i up, n bits (R97). -/
def ctzFrom (a : Word) (i : Nat) : Nat → Nat
  | 0 => 0
  | n + 1 => if a.getLsbD i then 0 else 1 + ctzFrom a (i + 1) n

/-- Set bits among the low n bits (R97). -/
def popFrom (a : Word) : Nat → Nat
  | 0 => 0
  | n + 1 => (if a.getLsbD n then 1 else 0) + popFrom a n

/-- Bits in reverse order (R97). -/
def bitRev (a : Word) : Word := a.reverse

/-- Bytes in reverse order (R97). -/
def byteSwap (a : Word) : Word := leWord (wordBytes a).reverse

/-- The carry-less product of a and the low n bits of b (R98). -/
def clmulN (a b : Word) : Nat → BitVec 128
  | 0 => 0#128
  | n + 1 => clmulN a b n ^^^ (if b.getLsbD n then a.setWidth 128 <<< n else 0#128)

/-- A field descriptor's length and position (R99). -/
def fieldLen (d : Word) : Nat := min (wbits d 14 8) 64
def fieldPos (d : Word) : Nat := wbits d 5 0

/-- The extracted field, zero-extended (R100). -/
def extractN (a d : Word) : Word := BitVec.ofNat 64 (a.toNat / 2 ^ fieldPos d % 2 ^ fieldLen d)

/-- The extracted field, sign-extended from its length (R100). -/
def extractS (a d : Word) : Word :=
  if fieldLen d = 0 then 0#64
  else
    let f := a.toNat / 2 ^ fieldPos d % 2 ^ fieldLen d
    if f < 2 ^ (fieldLen d - 1) then BitVec.ofNat 64 f else BitVec.ofInt 64 ((f : Int) - 2 ^ fieldLen d)

/-- The field of x replaced by the low bits of a (R101). -/
def insertField (x a d : Word) : Word :=
  let m := BitVec.ofNat 64 ((2 ^ fieldLen d - 1) * 2 ^ fieldPos d)
  (x &&& ~~~m) ||| ((a <<< fieldPos d) &&& m)

/-- A 9-bit immediate (R88). -/
def simm9 (i : BitVec 9) : Word := i.signExtend 64

/-- A 16-bit chunk at its place, the other bits zero (R60). -/
def chunk (k : BitVec 2) (i : BitVec 16) : Word := i.setWidth 64 <<< (16 * k.toNat)

/-! The words. -/

/-- ADD (R92). -/
def execAdd (xd xa xb : RegNo) (fa fb : Bool) (s : State) : Host.Outcome State Fault Refusal :=
  issueWord (.add xd xa xb fa fb) noFault (writeReg xd (fun f _ => f.rd xa + f.rd xb)) s

/-- SUB (R92). -/
def execSub (xd xa xb : RegNo) (fa fb : Bool) (s : State) : Host.Outcome State Fault Refusal :=
  issueWord (.sub xd xa xb fa fb) noFault (writeReg xd (fun f _ => f.rd xa - f.rd xb)) s

/-- MUL (R92). -/
def execMul (xd xa xb : RegNo) (fa fb : Bool) (s : State) : Host.Outcome State Fault Refusal :=
  issueWord (.mul xd xa xb fa fb) noFault (writeReg xd (fun f _ => f.rd xa * f.rd xb)) s

/-- MULH (R92). -/
def execMulh (xd xa xb : RegNo) (fa fb : Bool) (s : State) : Host.Outcome State Fault Refusal :=
  issueWord (.mulh xd xa xb fa fb) noFault (writeReg xd (fun f _ => mulHigh (f.rd xa) (f.rd xb))) s

/-- MULHN (R92). -/
def execMulhn (xd xa xb : RegNo) (fa fb : Bool) (s : State) : Host.Outcome State Fault Refusal :=
  issueWord (.mulhn xd xa xb fa fb) noFault (writeReg xd (fun f _ => mulHighN (f.rd xa) (f.rd xb))) s

/-- DIV (R93). -/
def execDiv (xd xa xb : RegNo) (fa fb : Bool) (s : State) : Host.Outcome State Fault Refusal :=
  issueWord (.div xd xa xb fa fb) noFault (writeReg xd (fun f _ => divS (f.rd xa) (f.rd xb))) s

/-- DIVN (R93). -/
def execDivn (xd xa xb : RegNo) (fa fb : Bool) (s : State) : Host.Outcome State Fault Refusal :=
  issueWord (.divn xd xa xb fa fb) noFault (writeReg xd (fun f _ => divN (f.rd xa) (f.rd xb))) s

/-- REM (R93). -/
def execRem (xd xa xb : RegNo) (fa fb : Bool) (s : State) : Host.Outcome State Fault Refusal :=
  issueWord (.rem xd xa xb fa fb) noFault (writeReg xd (fun f _ => remS (f.rd xa) (f.rd xb))) s

/-- REMN (R93). -/
def execRemn (xd xa xb : RegNo) (fa fb : Bool) (s : State) : Host.Outcome State Fault Refusal :=
  issueWord (.remn xd xa xb fa fb) noFault (writeReg xd (fun f _ => remN (f.rd xa) (f.rd xb))) s

/-- AND (R94). -/
def execAnd (xd xa xb : RegNo) (fa fb : Bool) (s : State) : Host.Outcome State Fault Refusal :=
  issueWord (.and xd xa xb fa fb) noFault (writeReg xd (fun f _ => f.rd xa &&& f.rd xb)) s

/-- OR (R94). -/
def execOr (xd xa xb : RegNo) (fa fb : Bool) (s : State) : Host.Outcome State Fault Refusal :=
  issueWord (.or xd xa xb fa fb) noFault (writeReg xd (fun f _ => f.rd xa ||| f.rd xb)) s

/-- XOR (R94). -/
def execXor (xd xa xb : RegNo) (fa fb : Bool) (s : State) : Host.Outcome State Fault Refusal :=
  issueWord (.xor xd xa xb fa fb) noFault (writeReg xd (fun f _ => f.rd xa ^^^ f.rd xb)) s

/-- ANDN (R94). -/
def execAndn (xd xa xb : RegNo) (fa fb : Bool) (s : State) : Host.Outcome State Fault Refusal :=
  issueWord (.andn xd xa xb fa fb) noFault (writeReg xd (fun f _ => f.rd xa &&& ~~~(f.rd xb))) s

/-- ORN (R94). -/
def execOrn (xd xa xb : RegNo) (fa fb : Bool) (s : State) : Host.Outcome State Fault Refusal :=
  issueWord (.orn xd xa xb fa fb) noFault (writeReg xd (fun f _ => f.rd xa ||| ~~~(f.rd xb))) s

/-- SHL (R95). -/
def execShl (xd xa xb : RegNo) (fa fb : Bool) (s : State) : Host.Outcome State Fault Refusal :=
  issueWord (.shl xd xa xb fa fb) noFault (writeReg xd (fun f _ => shl (f.rd xa) (amount (f.rd xb)))) s

/-- SHR (R95). -/
def execShr (xd xa xb : RegNo) (fa fb : Bool) (s : State) : Host.Outcome State Fault Refusal :=
  issueWord (.shr xd xa xb fa fb) noFault (writeReg xd (fun f _ => shr (f.rd xa) (amount (f.rd xb)))) s

/-- SRA (R95). -/
def execSra (xd xa xb : RegNo) (fa fb : Bool) (s : State) : Host.Outcome State Fault Refusal :=
  issueWord (.sra xd xa xb fa fb) noFault (writeReg xd (fun f _ => sra (f.rd xa) (amount (f.rd xb)))) s

/-- ROL (R95). -/
def execRol (xd xa xb : RegNo) (fa fb : Bool) (s : State) : Host.Outcome State Fault Refusal :=
  issueWord (.rol xd xa xb fa fb) noFault (writeReg xd (fun f _ => rol (f.rd xa) (amount (f.rd xb)))) s

/-- ROR (R95). -/
def execRor (xd xa xb : RegNo) (fa fb : Bool) (s : State) : Host.Outcome State Fault Refusal :=
  issueWord (.ror xd xa xb fa fb) noFault (writeReg xd (fun f _ => ror (f.rd xa) (amount (f.rd xb)))) s

/-- MIN (R96). -/
def execMin (xd xa xb : RegNo) (fa fb : Bool) (s : State) : Host.Outcome State Fault Refusal :=
  issueWord (.min xd xa xb fa fb) noFault (writeReg xd (fun f _ => minS (f.rd xa) (f.rd xb))) s

/-- MAX (R96). -/
def execMax (xd xa xb : RegNo) (fa fb : Bool) (s : State) : Host.Outcome State Fault Refusal :=
  issueWord (.max xd xa xb fa fb) noFault (writeReg xd (fun f _ => maxS (f.rd xa) (f.rd xb))) s

/-- MINN (R96). -/
def execMinn (xd xa xb : RegNo) (fa fb : Bool) (s : State) : Host.Outcome State Fault Refusal :=
  issueWord (.minn xd xa xb fa fb) noFault (writeReg xd (fun f _ => minN (f.rd xa) (f.rd xb))) s

/-- MAXN (R96). -/
def execMaxn (xd xa xb : RegNo) (fa fb : Bool) (s : State) : Host.Outcome State Fault Refusal :=
  issueWord (.maxn xd xa xb fa fb) noFault (writeReg xd (fun f _ => maxN (f.rd xa) (f.rd xb))) s

/-- CLZ (R97). -/
def execClz (xd xa : RegNo) (fa : Bool) (s : State) : Host.Outcome State Fault Refusal :=
  issueWord (.clz xd xa fa) noFault (writeReg xd (fun f _ => BitVec.ofNat 64 (clzFrom (f.rd xa) 64))) s

/-- CTZ (R97). -/
def execCtz (xd xa : RegNo) (fa : Bool) (s : State) : Host.Outcome State Fault Refusal :=
  issueWord (.ctz xd xa fa) noFault (writeReg xd (fun f _ => BitVec.ofNat 64 (ctzFrom (f.rd xa) 0 64))) s

/-- POPC (R97). -/
def execPopc (xd xa : RegNo) (fa : Bool) (s : State) : Host.Outcome State Fault Refusal :=
  issueWord (.popc xd xa fa) noFault (writeReg xd (fun f _ => BitVec.ofNat 64 (popFrom (f.rd xa) 64))) s

/-- BREV (R97). -/
def execBrev (xd xa : RegNo) (fa : Bool) (s : State) : Host.Outcome State Fault Refusal :=
  issueWord (.brev xd xa fa) noFault (writeReg xd (fun f _ => bitRev (f.rd xa))) s

/-- BSWAP (R97). -/
def execBswap (xd xa : RegNo) (fa : Bool) (s : State) : Host.Outcome State Fault Refusal :=
  issueWord (.bswap xd xa fa) noFault (writeReg xd (fun f _ => byteSwap (f.rd xa))) s

/-- CLMUL (R98). -/
def execClmul (xd xa xb : RegNo) (fa fb : Bool) (s : State) : Host.Outcome State Fault Refusal :=
  issueWord (.clmul xd xa xb fa fb) noFault (writeReg xd (fun f _ => (clmulN (f.rd xa) (f.rd xb) 64).setWidth 64)) s

/-- CLMULH (R98). -/
def execClmulh (xd xa xb : RegNo) (fa fb : Bool) (s : State) : Host.Outcome State Fault Refusal :=
  issueWord (.clmulh xd xa xb fa fb) noFault (writeReg xd (fun f _ => (clmulN (f.rd xa) (f.rd xb) 64 >>> 64).setWidth 64)) s

/-- EXT (R100). -/
def execExt (xd xa xb : RegNo) (fa fb : Bool) (s : State) : Host.Outcome State Fault Refusal :=
  issueWord (.ext xd xa xb fa fb) noFault (writeReg xd (fun f _ => extractS (f.rd xa) (f.rd xb))) s

/-- EXTN (R100). -/
def execExtn (xd xa xb : RegNo) (fa fb : Bool) (s : State) : Host.Outcome State Fault Refusal :=
  issueWord (.extn xd xa xb fa fb) noFault (writeReg xd (fun f _ => extractN (f.rd xa) (f.rd xb))) s

/-- INS (R101). -/
def execIns (xd xa xb : RegNo) (fa fb : Bool) (s : State) : Host.Outcome State Fault Refusal :=
  issueWord (.ins xd xa xb fa fb) noFault (writeReg xd (fun f _ => insertField (f.rd xd) (f.rd xa) (f.rd xb))) s

/-- SHLADD (R102). -/
def execShladd (xd xa xb : RegNo) (fa fb : Bool) (n : BitVec 2) (s : State) : Host.Outcome State Fault Refusal :=
  issueWord (.shladd xd xa xb fa fb n) noFault
    (writeReg xd (fun f _ => (f.rd xa <<< (n.toNat + 1)) + f.rd xb)) s

/-- SLT (R96). -/
def execSlt (xd xa xb : RegNo) (fa fb : Bool) (s : State) : Host.Outcome State Fault Refusal :=
  issueWord (.slt xd xa xb fa fb) noFault (writeReg xd (fun f _ => boolWord (Cond.lt.holds (f.rd xa) (f.rd xb)))) s

/-- SLTN (R96). -/
def execSltn (xd xa xb : RegNo) (fa fb : Bool) (s : State) : Host.Outcome State Fault Refusal :=
  issueWord (.sltn xd xa xb fa fb) noFault (writeReg xd (fun f _ => boolWord (Cond.ltn.holds (f.rd xa) (f.rd xb)))) s

/-- CMPP.eq (R103). -/
def execCmppEq (p : BitVec 3) (xa xb : RegNo) (fa fb : Bool) (s : State) : Host.Outcome State Fault Refusal :=
  issueWord (.cmppEq p xa xb fa fb) noFault
    (writePred (predOf p) (fun f => Cond.eq.holds (f.rd xa) (f.rd xb))) s

/-- CMPP.ne (R103). -/
def execCmppNe (p : BitVec 3) (xa xb : RegNo) (fa fb : Bool) (s : State) : Host.Outcome State Fault Refusal :=
  issueWord (.cmppNe p xa xb fa fb) noFault
    (writePred (predOf p) (fun f => Cond.ne.holds (f.rd xa) (f.rd xb))) s

/-- CMPP.lt (R103). -/
def execCmppLt (p : BitVec 3) (xa xb : RegNo) (fa fb : Bool) (s : State) : Host.Outcome State Fault Refusal :=
  issueWord (.cmppLt p xa xb fa fb) noFault
    (writePred (predOf p) (fun f => Cond.lt.holds (f.rd xa) (f.rd xb))) s

/-- CMPP.ge (R103). -/
def execCmppGe (p : BitVec 3) (xa xb : RegNo) (fa fb : Bool) (s : State) : Host.Outcome State Fault Refusal :=
  issueWord (.cmppGe p xa xb fa fb) noFault
    (writePred (predOf p) (fun f => Cond.ge.holds (f.rd xa) (f.rd xb))) s

/-- CMPP.ltn (R103). -/
def execCmppLtn (p : BitVec 3) (xa xb : RegNo) (fa fb : Bool) (s : State) : Host.Outcome State Fault Refusal :=
  issueWord (.cmppLtn p xa xb fa fb) noFault
    (writePred (predOf p) (fun f => Cond.ltn.holds (f.rd xa) (f.rd xb))) s

/-- CMPP.gen (R103). -/
def execCmppGen (p : BitVec 3) (xa xb : RegNo) (fa fb : Bool) (s : State) : Host.Outcome State Fault Refusal :=
  issueWord (.cmppGen p xa xb fa fb) noFault
    (writePred (predOf p) (fun f => Cond.gen.holds (f.rd xa) (f.rd xb))) s

/-- SEL on p8 to p11 (R104). -/
def execSelP8P11 (xd xa xb : RegNo) (fa fb : Bool) (n : BitVec 2) (s : State) : Host.Outcome State Fault Refusal :=
  issueWord (.selP8P11 xd xa xb fa fb n) noFault
    (writeReg xd (fun f _ => if f.snap.pred (8 + n.toNat) then f.rd xa else f.rd xb)) s

/-- SEL on p12 to p15 (R104). -/
def execSelP12P15 (xd xa xb : RegNo) (fa fb : Bool) (n : BitVec 2) (s : State) : Host.Outcome State Fault Refusal :=
  issueWord (.selP12P15 xd xa xb fa fb n) noFault
    (writeReg xd (fun f _ => if f.snap.pred (12 + n.toNat) then f.rd xa else f.rd xb)) s

/-- ADDI (R92). -/
def execAddi (xd xa : RegNo) (fa : Bool) (imm : BitVec 9) (s : State) : Host.Outcome State Fault Refusal :=
  issueWord (.addi xd xa fa imm) noFault (writeReg xd (fun f _ => f.rd xa + simm9 imm)) s

/-- ANDI (R94). -/
def execAndi (xd xa : RegNo) (fa : Bool) (imm : BitVec 9) (s : State) : Host.Outcome State Fault Refusal :=
  issueWord (.andi xd xa fa imm) noFault (writeReg xd (fun f _ => f.rd xa &&& simm9 imm)) s

/-- ORI (R94). -/
def execOri (xd xa : RegNo) (fa : Bool) (imm : BitVec 9) (s : State) : Host.Outcome State Fault Refusal :=
  issueWord (.ori xd xa fa imm) noFault (writeReg xd (fun f _ => f.rd xa ||| simm9 imm)) s

/-- XORI (R94). -/
def execXori (xd xa : RegNo) (fa : Bool) (imm : BitVec 9) (s : State) : Host.Outcome State Fault Refusal :=
  issueWord (.xori xd xa fa imm) noFault (writeReg xd (fun f _ => f.rd xa ^^^ simm9 imm)) s

/-- SHLI (R95). -/
def execShli (xd xa : RegNo) (fa : Bool) (sh : BitVec 6) (s : State) : Host.Outcome State Fault Refusal :=
  issueWord (.shli xd xa fa sh) noFault (writeReg xd (fun f _ => shl (f.rd xa) sh.toNat)) s

/-- SHRI (R95). -/
def execShri (xd xa : RegNo) (fa : Bool) (sh : BitVec 6) (s : State) : Host.Outcome State Fault Refusal :=
  issueWord (.shri xd xa fa sh) noFault (writeReg xd (fun f _ => shr (f.rd xa) sh.toNat)) s

/-- SRAI (R95). -/
def execSrai (xd xa : RegNo) (fa : Bool) (sh : BitVec 6) (s : State) : Host.Outcome State Fault Refusal :=
  issueWord (.srai xd xa fa sh) noFault (writeReg xd (fun f _ => sra (f.rd xa) sh.toNat)) s

/-- ROLI (R95). -/
def execRoli (xd xa : RegNo) (fa : Bool) (sh : BitVec 6) (s : State) : Host.Outcome State Fault Refusal :=
  issueWord (.roli xd xa fa sh) noFault (writeReg xd (fun f _ => rol (f.rd xa) sh.toNat)) s

/-- RORI (R95). -/
def execRori (xd xa : RegNo) (fa : Bool) (sh : BitVec 6) (s : State) : Host.Outcome State Fault Refusal :=
  issueWord (.rori xd xa fa sh) noFault (writeReg xd (fun f _ => ror (f.rd xa) sh.toNat)) s

/-- SLTI (R96). -/
def execSlti (xd xa : RegNo) (fa : Bool) (imm : BitVec 9) (s : State) : Host.Outcome State Fault Refusal :=
  issueWord (.slti xd xa fa imm) noFault (writeReg xd (fun f _ => boolWord (Cond.lt.holds (f.rd xa) (simm9 imm)))) s

/-- SLTNI (R96). -/
def execSltni (xd xa : RegNo) (fa : Bool) (imm : BitVec 9) (s : State) : Host.Outcome State Fault Refusal :=
  issueWord (.sltni xd xa fa imm) noFault (writeReg xd (fun f _ => boolWord (Cond.ltn.holds (f.rd xa) (simm9 imm)))) s

/-- MULI (R92). -/
def execMuli (xd xa : RegNo) (fa : Bool) (imm : BitVec 9) (s : State) : Host.Outcome State Fault Refusal :=
  issueWord (.muli xd xa fa imm) noFault (writeReg xd (fun f _ => f.rd xa * simm9 imm)) s

/-- CMPPI.eq (R103). -/
def execCmppiEq (p : BitVec 3) (xa : RegNo) (fa : Bool) (imm : BitVec 9) (s : State) :
    Host.Outcome State Fault Refusal :=
  issueWord (.cmppiEq p xa fa imm) noFault
    (writePred (predOf p) (fun f => Cond.eq.holds (f.rd xa) (simm9 imm))) s

/-- CMPPI.ne (R103). -/
def execCmppiNe (p : BitVec 3) (xa : RegNo) (fa : Bool) (imm : BitVec 9) (s : State) :
    Host.Outcome State Fault Refusal :=
  issueWord (.cmppiNe p xa fa imm) noFault
    (writePred (predOf p) (fun f => Cond.ne.holds (f.rd xa) (simm9 imm))) s

/-- CMPPI.lt (R103). -/
def execCmppiLt (p : BitVec 3) (xa : RegNo) (fa : Bool) (imm : BitVec 9) (s : State) :
    Host.Outcome State Fault Refusal :=
  issueWord (.cmppiLt p xa fa imm) noFault
    (writePred (predOf p) (fun f => Cond.lt.holds (f.rd xa) (simm9 imm))) s

/-- CMPPI.ge (R103). -/
def execCmppiGe (p : BitVec 3) (xa : RegNo) (fa : Bool) (imm : BitVec 9) (s : State) :
    Host.Outcome State Fault Refusal :=
  issueWord (.cmppiGe p xa fa imm) noFault
    (writePred (predOf p) (fun f => Cond.ge.holds (f.rd xa) (simm9 imm))) s

/-- CMPPI.ltn (R103). -/
def execCmppiLtn (p : BitVec 3) (xa : RegNo) (fa : Bool) (imm : BitVec 9) (s : State) :
    Host.Outcome State Fault Refusal :=
  issueWord (.cmppiLtn p xa fa imm) noFault
    (writePred (predOf p) (fun f => Cond.ltn.holds (f.rd xa) (simm9 imm))) s

/-- CMPPI.gen (R103). -/
def execCmppiGen (p : BitVec 3) (xa : RegNo) (fa : Bool) (imm : BitVec 9) (s : State) :
    Host.Outcome State Fault Refusal :=
  issueWord (.cmppiGen p xa fa imm) noFault
    (writePred (predOf p) (fun f => Cond.gen.holds (f.rd xa) (simm9 imm))) s

/-- WLD (R60). -/
def execWld (xd : RegNo) (k : BitVec 2) (imm : BitVec 16) (s : State) : Host.Outcome State Fault Refusal :=
  issueWord (.wld xd k imm) noFault (writeReg xd (fun _ _ => chunk k imm)) s

/-- WINS (R60). -/
def execWins (xd : RegNo) (k : BitVec 2) (imm : BitVec 16) (s : State) : Host.Outcome State Fault Refusal :=
  issueWord (.wins xd k imm) noFault
    (writeReg xd (fun f _ => (f.rd xd &&& ~~~(chunk k 0xFFFF#16)) ||| chunk k imm)) s

end Sys2Proof.Machine
end

