-- ==== Sys2Proof/Machine/System.lean ====
section
/-! DEFINITION. Token, stream, special-register, trap and end words (R121 to R123, R127 to R131, R133), and the delivery
of pending reports (R164, R170). -/

namespace Sys2Proof.Machine

/-! Tokens (R121, R122). -/

/-- PSHV.l and PSHV.r: the value joins the packet's pushes (R121). -/
def execPshv (xa : RegNo) (fa : Bool) (side : Side) (s : State) : Host.Outcome State Fault Refusal :=
  issueWord (.pshv xa fa side) noFault
    (fun f s => setFrame s (fun g => { g with pushes := g.pushes ++ [(side, f.rd xa)] })) s

/-- The counts of a context's four FIFOs (R122). -/
def tokstVal (k : Core) (i : CtxId) : Word :=
  BitVec.ofNat 64 (outCount k i .right * 2 ^ 24 + outCount k i .left * 2 ^ 16
    + (k.ctx i).fifoR.length * 2 ^ 8 + (k.ctx i).fifoL.length)

/-- TOKST (R122). -/
def execTokst (xd : RegNo) (s : State) : Host.Outcome State Fault Refusal :=
  issueWord (.tokst xd) noFault (writeReg xd (fun f s => tokstVal (coreOf s f.core) f.ctx)) s

/-! Streams (R123). -/

/-- A ring descriptor's fields (R123). -/
def ringLen (a : Word) : Nat := wbits a 23 12
def ringBase (a : Word) : Nat := wbits a 11 0

/-- Whether two rings share a row. -/
def Port.meets (p : Port) (base len : Nat) : Bool := decide (p.base < base + len) && decide (base < p.base + p.len)

/-- Whether a ring descriptor breaks R123 for a port. -/
def badRing (w : Vec) (n : Nat) (a : Word) : Bool :=
  wbits a 62 24 != 0 || ringLen a == 0 || decide (Config.spRows < ringBase a + ringLen a)
  || w.ports.any (fun p => p.1 != n && p.2.meets (ringBase a) (ringLen a))

/-- The fault of SBIND (R123). -/
def sbindFault (xa : RegNo) (n : BitVec 2) (f : Issue) (s : State) : Option (Nat × Word) :=
  if xa ≠ 0#6 ∧ badRing (coreOf s f.core).vec n.toNat (f.rd xa) = true then some (6, f.rd xa) else none

/-- SBIND: the port is unbound, or bound to an empty ring (R123). -/
def execSbind (xa : RegNo) (fa : Bool) (n : BitVec 2) (s : State) : Host.Outcome State Fault Refusal :=
  issueWord (.sbind xa fa n) (sbindFault xa n) (fun f s =>
    modCore s f.core (fun k =>
      { k with vec := { k.vec with
          ports :=
            if xa = 0#6 then kdel k.vec.ports n.toNat
            else kput k.vec.ports n.toNat ⟨(f.rd xa).getLsbD 63, ringBase (f.rd xa), ringLen (f.rd xa), 0, 0⟩ } })) s

/-! Special registers (R127 to R129). -/

/-- The value of a special register as a packet's words read it (R67, R128, R215). -/
def csrVal (f : Issue) (s : State) (r : Csr) : Word :=
  let c := f.snap
  let t := frameTask s f
  match r with
  | .pc => f.pc
  | .lc0 => c.lc0
  | .li0 => c.li0
  | .sk0 => c.sk0
  | .lc1 => c.lc1
  | .li1 => c.li1
  | .bsc => c.bsc.setWidth 64
  | .lwb => t.lwb
  | .cwb => t.cwb
  | .tvb => c.tvb
  | .tcause => c.tcause
  | .tval => c.tval
  | .tpc => c.tpc
  | .vtype => vtypeNow s f
  | .vwin => f.vwin
  | .gid => BitVec.ofNat 64 t.gid
  | .tid => BitVec.ofNat 64 t.tid
  | .sid => BitVec.ofNat 64 t.sid
  | .tag => BitVec.ofNat 64 t.tag
  | .grp => BitVec.ofNat 64 t.grp
  | .tsc => BitVec.ofNat 64 s.tsc

/-- TSC (R127). -/
def execTsc (xd : RegNo) (s : State) : Host.Outcome State Fault Refusal :=
  issueWord (.tsc xd) noFault (writeReg xd (fun _ s => BitVec.ofNat 64 s.tsc)) s

/-- CSRR (R128). -/
def execCsrr (xd : RegNo) (r : Csr) (s : State) : Host.Outcome State Fault Refusal :=
  issueWord (.csrr xd r) noFault (writeReg xd (fun f s => csrVal f s r)) s

/-- The bits of a special register that a write changes (R67, R68, R165, R215, R216). -/
def csrMask (r : Csr) : Word :=
  match r with
  | .lc0 | .lc1 => 0xFFC0FFFFFFFFFFF0#64
  | .sk0 => 0x00000007FFFFFFFF#64
  | .bsc => 0xF#64
  | .tvb => 0xFFFFFFFFFFFFFFF0#64
  | .tcause => 0x80FFFFFFFFFFFFFF#64
  | .vtype => 0x1FFFFFFF#64
  | .vwin => 0xFFF#64
  | .li0 | .li1 | .tval | .tpc => wOnes
  | .pc | .lwb | .cwb | .gid | .tid | .sid | .tag | .grp | .tsc => 0#64

/-- Stage predicates after a write of a loop register (R129). -/
def Ctx.restage (c : Ctx) : Ctx := if lcAct c.lc0 then c.setStage else c.clearStage

/-- A special register of a context written (R129). -/
def Ctx.writeCsr (c : Ctx) (r : Csr) (v : Word) : Ctx :=
  match r with
  | .lc0 => { c with lc0 := v }.restage
  | .li0 => { c with li0 := v }.restage
  | .sk0 => { c with sk0 := v }.restage
  | .lc1 => { c with lc1 := v }
  | .li1 => { c with li1 := v }
  | .tvb => { c with tvb := v }
  | .tcause => { c with tcause := v }
  | .tval => { c with tval := v }
  | .tpc => { c with tpc := v }
  | _ => c

/-- The effect of CSRW with the bits that it writes (R129). A bsc write shifts the block after the packet's words. -/
def writeCsr (r : Csr) (v : Word) (f : Issue) (s : State) : State :=
  match r with
  | .vtype => modCore s f.core (fun k => { k with vec := { k.vec with vtype := v } })
  | .vwin => modCore s f.core (fun k => { k with vec := { k.vec with vwin := v } })
  | .bsc => setFrame s (fun g => { g with bsc := some (v.setWidth 4) })
  | _ => frameCtx s f (fun c => c.writeCsr r v)

/-- CSRW (R129). -/
def execCsrw (r : Csr) (xa : RegNo) (fa : Bool) (s : State) : Host.Outcome State Fault Refusal :=
  issueWord (.csrw r xa fa) noFault (fun f s => writeCsr r (f.rd xa &&& csrMask r) f s) s

/-! Traps and the end (R130, R131, R133): they take effect at the packet's end (R47). -/

/-- TRAP (R130). -/
def execTrap (n : BitVec 8) (s : State) : Host.Outcome State Fault Refusal :=
  issueWord (.trap n) noFault (fun _ s => setFrame s (fun g => { g with trap := some n.toNat })) s

/-- The fault of ERET's target, as the packet's CSRW words leave tpc (R131). -/
def eretFault (f : Issue) (_ : State) : Option (Nat × Word) :=
  if 2 ^ 48 ≤ f.tpc.toNat then some (5, f.tpc) else if f.tpc.toNat % 16 ≠ 0 then some (7, f.tpc) else none

/-- ERET (R131). -/
def execEret (s : State) : Host.Outcome State Fault Refusal :=
  issueWord .eret eretFault (fun _ s => setFrame s (fun g => { g with eret := true })) s

/-- TEND (R133). -/
def execTend (s : State) : Host.Outcome State Fault Refusal :=
  issueWord .tend noFault (fun _ s => setFrame s (fun g => { g with tend := true })) s

/-! Reports and holds. -/

/-- The cause that a report is delivered with; a MACHINE_CHECK carries the records written since the last (R165,
R172). -/
def Report.cause (r : Report) (c : Ctx) : Cause :=
  if r.engine then ⟨r.code, r.ecls, r.tslot, r.creg, r.upc⟩ else ⟨r.code, 0, 0, 0, c.records⟩

/-- A context after a report has been taken from it. -/
def Ctx.takeReport (c : Ctx) (r : Report) : Ctx :=
  { c with reports := c.reports.erase r, records := if r.engine then c.records else 0 }

/-- A pending report enters the handler, or goes to the scheduler where the context has none (R164, R170); it is a fault of the core's
task, so what was preloaded for its gang is discarded (R390). -/
def deliverReport (s : State) (core : Nat) (i : CtxId) (r : Report) : State :=
  let s := dropPreload (modCore s core (fun k => k.leaveWait i)) core
  let c := ctxOf s core i
  if c.tvb = 0#64 then returnFault (setCtx s core i (c.takeReport r)) core i r.code c.pc
  else setCtx s core i ((c.takeReport r).enter c.pc r.tval (r.cause c) r.cmd)

/-- PENDING_REPORT_DELIVERY: before the next packet of a context outside a handler, its first report is delivered
(R170). -/
def execPendingReportDelivery (core : Nat) (ctx : CtxId) (s : State) : Host.Outcome State Fault Refusal :=
  let c := ctxOf s core ctx
  .next (match firstReport c.reports with
    | none => s
    | some r => if c.inh || c.ended || c.stopped then s else deliverReport s core ctx r)

/-- HOLD_EXPIRY: the hold of a context's last packet runs out as the clock reaches its end (R81). -/
def execHoldExpiry (core : Nat) (ctx : CtxId) (s : State) : Host.Outcome State Fault Refusal :=
  .next (if (ctxOf s core ctx).hold = 0 then s
    else { s with pace := (ctxOf s core ctx).hold :: s.pace.drop 1 })

end Sys2Proof.Machine
end

