-- ==== Sys2Proof/Machine/Vector.lean ====
section
/-! DEFINITION. The vector unit: the checks of its words at issue, their execution in order, and every vector word
(R215 to R240). -/

namespace Sys2Proof.Machine

/-! Checks at issue (R222). -/

/-- Whether vtype is accepted (R215). -/
def vtypeOk (v : Word) : Bool :=
  wbits v 19 4 == 0 && decide (wbits v 22 20 ≤ 4) && (decide (wbits v 3 0 ≤ 6) || wbits v 3 0 == 9)

/-- Whether a form judges vtype (R222). -/
def judgesType (w : Instr) : Bool := (vShape w).types != .untyped

/-- Conversion targets of VCVT, by code (R225). -/
def cvtType (t : BitVec 3) : Nat :=
  match t.toNat with
  | 7 => 9
  | n => n

/-- The ratio of the wider to the narrower width of a conversion (R230). -/
def cvtRatio (et dst : Nat) : Nat :=
  let a := etWidth et
  let b := etWidth dst
  if a < b then b / a else a / b

/-- Whether an operand value of a vector word lies outside its limits (R222, R225, R230, R233, R238). -/
def vecOpnd (w : Instr) (f : Issue) : Bool :=
  let et := wbits f.vtype 3 0
  match w with
  | .vcvt t _ _ p _ _ _ => decide (cvtRatio et (cvtType t) = 8) || decide (cvtRatio et (cvtType t) ≤ p.toNat)
  | .vtopk _ _ xb _ => wbits (f.rd xb) 3 0 == 0 || decide (8 < wbits (f.rd xb) 3 0)
  | .vwalk xa xb =>
    wbits (f.rd xa) 47 20 != 0 || wbits (f.rd xa) 19 0 % 2 != 0
    || decide (Config.spBytes < wbits (f.rd xa) 19 0 + 2 * wbits (f.rd xa) 63 48)
    || wbits (f.rd xb) 31 20 != 0 || wbits (f.rd xb) 19 0 % (etWidth et / 8) != 0
  | _ => false

/-- The first register that names a port bound in the wrong direction (R222). Where several do, sources come before
destinations (DESIGN CHOICE, log entry 97). -/
def badPort (ports : KMap Port) (sh : VShape) : Option RegNo :=
  match sh.reads.find? (fun r => ((portOf ports r).map (fun p => p.out)).getD false) with
  | some r => some r
  | none => sh.writes.find? (fun r => ((portOf ports r).map (fun p => !p.out)).getD false)

/-- The first register, no bound port, whose row does not exist (R222). Where several rows do not, sources come before
destinations (DESIGN CHOICE, log entry 97). -/
def badRow (f : Issue) (sh : VShape) : Option Nat :=
  ((sh.reads ++ sh.writes).filter (fun r => (portOf f.ports r).isNone)).foldl (fun b r =>
    match b with
    | some n => some n
    | none => if Config.spRows ≤ rowOf f.vwin r then some (rowOf f.vwin r) else none) none

/-- The address that VLDR or VSTR names, with its permission (R236). -/
def vecAddr (w : Instr) (f : Issue) : Option (Word × Perm) :=
  match w with
  | .vldr _ xb => some (f.rd xb, .read)
  | .vstr _ xb => some (f.rd xb, .write)
  | _ => none

/-- The address fault of VLDR and VSTR (R236). -/
def vecAddrFault (w : Instr) (f : Issue) (s : State) : Option (Nat × Word) :=
  match vecAddr w f with
  | none => none
  | some (g, p) =>
    if g.toNat % 256 ≠ 0 then some (7, g)
    else if aperture (frameTask s f) g = .shared then some (5, g)
    else
      match checkAddr s (frameTask s f) f.core g 256 p with
      | .error e => some (e.code, g)
      | .ok _ => none

/-- The fault of a vector word at issue, in the order of R222. -/
def vectorFault (w : Instr) (f : Issue) (s : State) : Option (Nat × Word) :=
  let sh := vShape w
  if judgesType w && !vtypeOk f.vtype then some (0x801, vtypeNow s f)
  else if (judgesType w && !sh.types.takes (wbits f.vtype 3 0)) || vecOpnd w f then
    some (0x802, wordVal f.slot (encode w))
  else
    match badPort f.ports sh, badRow f sh with
    | some r, _ => some (0x803, BitVec.ofNat 64 (f.slot * 2 ^ 32 + r.toNat))
    | none, some n => some (6, (frameTask s f).lwb + BitVec.ofNat 64 (256 * n))
    | none, none => vecAddrFault w f s

/-! Issue (R219). -/

/-- The own-scratchpad rows of registers that are no bound ports, as extents. -/
def rowExtents (core : Nat) (vwin : Word) (ports : KMap Port) (l : List RegNo) : List Extent :=
  (l.filter (fun r => (portOf ports r).isNone)).map (fun r =>
    ⟨.sp core, 256 * rowOf vwin r, 256 * rowOf vwin r + 256⟩)

/-- The extent of the address that VLDR or VSTR names. -/
def addrExtents (w : Instr) (f : Issue) (s : State) : List Extent :=
  match vecAddr w f with
  | none => []
  | some (g, p) =>
    match checkAddr s (frameTask s f) f.core g 256 p with
    | .ok (.sp c o) => [⟨.sp c, o, o + 256⟩]
    | _ => []

/-- The loads of a context before its last CSYNC that have not returned: no later access of the context, a vector word's
among them, performs before they have (R141, R223). -/
def loadsBeforeSync (s : State) (f : Issue) : List Nat :=
  (s.acc.filter (fun a =>
    a.core == f.core && a.ctx == some f.ctx && !a.kind.writes && decide (a.place < (ctxOf s f.core f.ctx).sync))).map (fun a => a.id)

/-- A vector word enters the unit's queue, bound to vtype, vwin, the bindings and its scalar registers (R219). It waits for the
loads before its context's last CSYNC (R141). -/
def issueVector (w : Instr) (f : Issue) (s : State) : State :=
  let sh := vShape w
  let store := match w with
    | .vstr _ _ => true
    | _ => false
  let c := newCmd w .vector ((fillRegs w).headD 0#6) f s
  dispatch { c with
      waits := loadsBeforeSync s f
      vals := (srcRegs w).map (fun r => f.rd r.1)
      list := (portsAmong f.ports (sh.reads ++ sh.writes)).map (fun n => ((60 + n : Nat) : Int))
      reads := rowExtents f.core f.vwin f.ports sh.reads ++ (if store then [] else addrExtents w f s)
      writes := rowExtents f.core f.vwin f.ports sh.writes ++ (if store then addrExtents w f s else []) }
    (fillRegs w) f s

/-! Rows as lanes (R216). -/

/-- n lanes of b bytes. -/
def chunkLanes (b : Nat) (row : List Byte) : Nat → List Nat
  | 0 => []
  | n + 1 => leNat (row.take b) :: chunkLanes b (row.drop b) n

/-- The lanes of a row. -/
def lanesOf (b : Nat) (row : List Byte) : List Nat := chunkLanes b row (256 / b)

/-- The row of lanes. -/
def rowBytes (b : Nat) (lanes : List Nat) : List Byte := lanes.flatMap (fun v => natBytes v b)

/-- A register's row as the unit reads it. -/
def readRow (s : State) (c : Cmd) (r : RegNo) : List Byte := spView s c.core (256 * srcRow s c r) 256

/-- The granules of a register's row that fail their ECC, 0 to 7. -/
def badGranules (s : State) (c : Cmd) (r : RegNo) : List Nat :=
  (upFrom 0 8).filter (fun g => (coreOf s c.core).spBad.contains (8 * srcRow s c r + g))

/-- The row that a masked write merges into: zeros for a bound output port (R226). -/
def oldRow (s : State) (c : Cmd) (r : RegNo) : List Byte :=
  if (portOf c.ports r).isSome then natBytes 0 256 else spView s c.core (256 * dstRow s c r) 256

/-- The granules whose every byte lies in active lanes of b bytes. -/
def wholeGranules (b : Nat) (active : Nat → Bool) : List Nat :=
  (upFrom 0 8).filter (fun g => (upFrom (g * (32 / b)) (32 / b)).all active)

/-- The granules with an active lane. -/
def liveGranules (b : Nat) (active : Nat → Bool) : List Nat :=
  (upFrom 0 8).filter (fun g => (upFrom (g * (32 / b)) (32 / b)).any active)

/-- Lines of the core's constant cache that hold bytes of its scratchpad which a vector word writes leave the cache: the word may stand
before its context's CSYNC (R140, R176). -/
def evictRow (s : State) (c : Cmd) (off : Nat) : State :=
  let reaches (line : Nat) : Bool :=
    match spPlaceOf s c.part c.asid c.gen (.ipa (256 * line)) with
    | some (k, o) => (spExtent k o 256).hits c.core off 256
    | none => false
  modCore s c.core (fun k => { k with consts := k.consts.filter (fun l => !reaches l.1) })

/-- A row written: the granules of bad take the uncorrectable pattern, those of whole lose theirs, and the others keep
what they have (R221). A bound output port gains an element (R71). All granules of the row land in this one event, though another agent
may see them at different times (R223; log entry 116). -/
def writeRow (s : State) (c : Cmd) (r : RegNo) (row : List Byte) (bad whole : List Nat) : State :=
  let n := dstRow s c r
  let port := (portOf c.ports r).isSome
  modCore (evictRow s c (256 * n)) c.core (fun k =>
    let keep := k.spBad.filter (fun g => !(g / 8 == n && (port || whole.contains (g % 8))))
    { k with
      sp := memWrite k.sp (256 * n) row
      spBad := (bad.map (fun g => 8 * n + g)).foldl insertNat keep
      vec := if port then { k.vec with ports := kmod k.vec.ports (r.toNat - 60) (fun p => { p with count := p.count + 1 }) }
        else k.vec })

/-- The bound input ports among registers lose an element each (R71). -/
def popPorts (s : State) (c : Cmd) (l : List RegNo) : State :=
  (portsAmong c.ports l).foldl (fun s n =>
    modCore s c.core (fun k =>
      { k with vec := { k.vec with
          ports := kmod k.vec.ports n (fun p => { p with head := (p.head + 1) % p.len, count := p.count - 1 }) } })) s

/-- A mask (R217). -/
def maskOf (s : State) (c : Cmd) (n : Nat) : BitVec 256 :=
  if n = 0 then BitVec.allOnes 256 else (coreOf s c.core).vec.masks.getD n 0#256

/-- A mask written; m0 discards (R217). -/
def setMask (s : State) (c : Cmd) (n : Nat) (m : BitVec 256) : State :=
  if n = 0 then s
  else modCore s c.core (fun k => { k with vec := { k.vec with masks := k.vec.masks.setIfInBounds n m } })

/-- A mask of bits. -/
def maskBits (p : Nat → Bool) : BitVec 256 :=
  BitVec.ofNat 256 ((upFrom 0 256).foldl (fun n i => if p i then n + 2 ^ i else n) 0)

/-- A read of a vector word whose granule at a generic address failed its ECC: a record, and a report at a covering VFENCE or
FENCE (R221). -/
def vecError (s : State) (c : Cmd) (ea : Word) : State :=
  let s := mcRecord s c.part (srcCore c.core) 9 0 1 c.core ea 0
  modCtx s c.core .C (fun x => { x with drops := x.drops ++ [⟨4 * c.seq + c.slot, 16, ea⟩], records := x.records + 1 })

/-- The failing granules among the rows that a word reads, by offset, each once. -/
def rowFailures (s : State) (c : Cmd) (l : List RegNo) : List Nat :=
  l.foldl (fun b r => unionNat b ((badGranules s c r).map (fun g => 256 * srcRow s c r + 32 * g))) []

/-- The records and reports of granules of the own scratchpad that failed, by offset (R221). -/
def noteFailures (s : State) (c : Cmd) (l : List Nat) : State := l.foldl (fun s off => vecError s c (genericOf s c off)) s

/-- The records and reports of a word's failing row reads. -/
def noteBad (s : State) (c : Cmd) (l : List RegNo) : State := noteFailures s c (rowFailures s c l)

/-! Lane functions (R227, R229). -/

/-- What a word is bound to: element type, lane bytes, rounding (R219). -/
def Cmd.et (c : Cmd) : Nat := wbits c.vtype 3 0
def Cmd.lb (c : Cmd) : Nat := etWidth c.et / 8
def Cmd.lanes (c : Cmd) : Nat := 256 / c.lb
def Cmd.rm (c : Cmd) : Nat := wbits c.vtype 22 20
def Cmd.satBit (c : Cmd) : Bool := c.vtype.getLsbD 23
def Cmd.rz (c : Cmd) : Nat := wbits c.vtype 28 24

/-- An arithmetic result rounded under vtype (R226). -/
def Cmd.round (c : Cmd) (v : Num) (z : Nat) : Nat := rnd v c.et c.rm c.satBit ⟨z, c.rz, none⟩

/-- A lane-wise form on exact values or on integers modulo 2^w (R227). -/
def laneArith (c : Cmd) (fl : Num → Num → Num → Num) (it : Int → Int → Int → Int) (x y d z : Nat) : Nat :=
  if etFloat c.et then c.round (fl (decNum c.et x) (decNum c.et y) (decNum c.et d)) z
  else intPat (etWidth c.et) (it (patInt (etWidth c.et) x) (patInt (etWidth c.et) y) (patInt (etWidth c.et) d))

/-- The canonical NaN of a floating type. -/
def nanOf (et : Nat) : Nat := ((fmtOf et).map (fun f => f.nanBits)).getD 0

/-- Whether x orders before y as VMIN takes it: by value, -0 before +0 (R227). -/
def numBefore (et x y : Nat) : Bool :=
  match (decNum et x).lt (decNum et y), (decNum et y).lt (decNum et x) with
  | some true, _ => true
  | some false, some false => nbits x (etWidth et - 1) (etWidth et - 1) == 1 && nbits y (etWidth et - 1) (etWidth et - 1) == 0
  | _, _ => false

/-- VMIN and VMAX (R227). -/
def laneMin (c : Cmd) (x y : Nat) : Nat :=
  if etFloat c.et then
    if decNum c.et x = .nan ∨ decNum c.et y = .nan then nanOf c.et else if numBefore c.et y x then y else x
  else if patInt (etWidth c.et) x ≤ patInt (etWidth c.et) y then x else y
def laneMax (c : Cmd) (x y : Nat) : Nat :=
  if etFloat c.et then
    if decNum c.et x = .nan ∨ decNum c.et y = .nan then nanOf c.et else if numBefore c.et x y then y else x
  else if patInt (etWidth c.et) y ≤ patInt (etWidth c.et) x then x else y

/-- VABS and VNEG: the sign bit for floating types, wrapping otherwise (R227). -/
def laneAbs (c : Cmd) (x : Nat) : Nat :=
  let w := etWidth c.et
  if etFloat c.et then x % 2 ^ (w - 1) else intPat w (patInt w x).natAbs
def laneNeg (c : Cmd) (x : Nat) : Nat :=
  let w := etWidth c.et
  if etFloat c.et then x ^^^ 2 ^ (w - 1) else intPat w (-(patInt w x))

/-- Shifts by the second operand modulo the lane width (R227). -/
def laneShl (c : Cmd) (x y : Nat) : Nat := x * 2 ^ (y % etWidth c.et) % 2 ^ etWidth c.et
def laneShr (c : Cmd) (x y : Nat) : Nat := x / 2 ^ (y % etWidth c.et)
def laneSra (c : Cmd) (x y : Nat) : Nat :=
  intPat (etWidth c.et) (patInt (etWidth c.et) x / (2 ^ (y % etWidth c.et) : Nat))

/-- Comparisons of VCMP (R229). -/
def laneCmp (cond : Cond) (c : Cmd) (x y : Nat) : Bool :=
  let fl := etFloat c.et
  let a := patInt (etWidth c.et) x
  let b := patInt (etWidth c.et) y
  match cond with
  | .eq => if fl then (decNum c.et x).same (decNum c.et y) else x == y
  | .ne => if fl then !(decNum c.et x).same (decNum c.et y) else x != y
  | .lt => if fl then ((decNum c.et x).lt (decNum c.et y)).getD false else decide (a < b)
  | .ge => if fl then ((decNum c.et x).lt (decNum c.et y)).map (fun r => !r) |>.getD false else decide (b ≤ a)
  | .ltn => decide (x < y)
  | .gen => decide (y ≤ x)

/-! Forms. -/

/-- The random values that a word draws, n of them, or zeros (R211, R226). -/
def drawZ (s : State) (c : Cmd) (on : Bool) (n : Nat) : List Nat × State :=
  if on && decide (0 < c.rz) then
    let v := (coreOf s c.core).vec
    ((drawn v.rkey c.core v.rc n).map (fun y => randBits y c.rz),
     modCore s c.core (fun k => { k with vec := { k.vec with rc := k.vec.rc + n } }))
  else (List.replicate n 0, s)

/-- The second operand of every lane: a scalar's low bits, or the lanes of vb (R226). -/
def secondLanes (s : State) (c : Cmd) (sc : Bool) (vb : RegNo) : List Nat :=
  if sc then List.replicate c.lanes ((c.vals.headD 0#64).toNat % 2 ^ etWidth c.et) else lanesOf c.lb (readRow s c vb)

/-- Result lanes from source lanes: f of the lane where active, else the old lane. -/
def lanes4 (f : Nat → Nat → Nat → Nat → Nat) (active : Nat → Bool) :
    Nat → List Nat → List Nat → List Nat → List Nat → List Nat
  | i, x :: xs, y :: ys, d :: ds, z :: zs => (if active i then f x y d z else d) :: lanes4 f active (i + 1) xs ys ds zs
  | _, _, _, _, _ => []

/-- Bad destination granules of a lane-wise form: those with an active lane at the place of a failing source granule
(R221). -/
def laneBad (s : State) (c : Cmd) (active : Nat → Bool) (srcs : List RegNo) : List Nat :=
  (liveGranules c.lb active).filter (fun g => srcs.any (fun r => (badGranules s c r).contains g))

/-- A lane-wise form (R226). -/
def vecLane (sc : Bool) (vd va vb : RegNo) (m : BitVec 2) (usesD draws : Bool)
    (f : Cmd → Nat → Nat → Nat → Nat → Nat) (s : State) (c : Cmd) : State :=
  let mask := maskOf s c m.toNat
  let active := fun i => mask.getLsbD i
  let srcs := (if sc then [va] else [va, vb]) ++ (if usesD then [vd] else [])
  let xs := lanesOf c.lb (readRow s c va)
  let ys := secondLanes s c sc vb
  let ds := lanesOf c.lb (oldRow s c vd)
  let bad := laneBad s c active srcs
  let r := drawZ s c (draws && c.rm == 4 && etFloat c.et) c.lanes
  let s := popPorts (noteBad r.2 c srcs) c srcs
  writeRow s c vd (rowBytes c.lb (lanes4 (f c) active 0 xs ys ds r.1)) bad (wholeGranules c.lb active)

/-- A lane-wise form of one source. -/
def vecUnary (vd va : RegNo) (m : BitVec 2) (f : Cmd → Nat → Nat) (s : State) (c : Cmd) : State :=
  vecLane true vd va 0#6 m false false (fun c x _ _ _ => f c x) s c

/-- VCMP (R229). -/
def vecCmp (cond : Cond) (sc : Bool) (md : BitVec 3) (va vb : RegNo) (m : BitVec 2) (s : State) (c : Cmd) : State :=
  let mask := maskOf s c m.toNat
  let srcs := if sc then [va] else [va, vb]
  let bits := ((lanesOf c.lb (readRow s c va)).zip (secondLanes s c sc vb)).map (fun p => laneCmp cond c p.1 p.2)
  let bad := srcs.flatMap (badGranules s c)
  let r := maskBits (fun i => mask.getLsbD i && bits.getD i false && !bad.contains (i * c.lb / 32))
  setMask (popPorts (noteBad s c srcs) c srcs) c md.toNat r

/-- VSEL (R229). -/
def vecSel (sc : Bool) (vd va vb : RegNo) (m : BitVec 2) (s : State) (c : Cmd) : State :=
  let mask := maskOf s c m.toNat
  let srcs := if sc then [va] else [va, vb]
  let xs := lanesOf c.lb (readRow s c va)
  let ys := secondLanes s c sc vb
  let bad := (liveGranules c.lb (fun i => mask.getLsbD i)).filter (fun g => (badGranules s c va).contains g)
    ++ (if sc then [] else (liveGranules c.lb (fun i => !mask.getLsbD i)).filter (fun g => (badGranules s c vb).contains g))
  let s := popPorts (noteBad s c srcs) c srcs
  writeRow s c vd (rowBytes c.lb (lanes4 (fun x y _ z => if z = 1 then x else y) (fun _ => true) 0 xs ys ys
    ((upFrom 0 c.lanes).map (fun i => if mask.getLsbD i then 1 else 0)))) bad (upFrom 0 8)

/-- VCVT (R230): part p of the wider side against every lane of the narrower. -/
def vecCvt (t : BitVec 3) (vd va : RegNo) (p : BitVec 2) (sat : Bool) (rm : BitVec 3) (m : BitVec 2) (s : State)
    (c : Cmd) : State :=
  let dst := cvtType t
  let wb := etWidth dst / 8
  let mask := maskOf s c m.toNat
  let src := lanesOf c.lb (readRow s c va)
  let old := lanesOf wb (oldRow s c vd)
  let narrow := decide (wb ≤ c.lb)
  let n := if narrow then c.lanes else 256 / wb
  let off := p.toNat * n
  let r := drawZ s c (rm.toNat == 4) n
  let val (j : Nat) : Nat :=
    let k := if narrow then j - off else j
    let i := if narrow then j - off else off + j
    convert c.et (src.getD i 0) dst rm.toNat sat (r.1.getD k 0) c.rz
  let active := fun j => mask.getLsbD j && (if narrow then decide (off ≤ j) && decide (j < off + n) else true)
  let out := (upFrom 0 (256 / wb)).map (fun j => if active j then val j else old.getD j 0)
  let bad := if (badGranules s c va).isEmpty then [] else liveGranules wb active
  let s := popPorts (noteBad r.2 c [va]) c [va]
  writeRow s c vd (rowBytes wb out) bad (wholeGranules wb active)

/-- VRNG (R231). -/
def vecRng (vd : RegNo) (m : BitVec 2) (s : State) (c : Cmd) : State :=
  let b := (c.vals.headD 0#64).toNat
  let stream := b / 2 ^ 48
  let v := (coreOf s c.core).vec
  let mask := maskOf s c m.toNat
  let ctr (i : Nat) : Word :=
    if stream = 0xFFFF then runningCtr c.core (v.rc + i)
    else BitVec.ofNat 64 (stream * 2 ^ 48 + (b % 2 ^ 48 + i) % 2 ^ 48)
  let val (i : Nat) : Nat :=
    let y := gmix v.rkey (ctr i)
    if c.et = 0 then rnd (.fin false (y.toNat / 2 ^ 40) (-24)) 0 0 false Rand.zero else randBits y (etWidth c.et)
  let old := lanesOf c.lb (oldRow s c vd)
  let active := fun i => mask.getLsbD i
  let s := if stream = 0xFFFF then
      modCore s c.core (fun k => { k with vec := { k.vec with rc := k.vec.rc + c.lanes } }) else s
  writeRow s c vd (rowBytes c.lb ((upFrom 0 c.lanes).map (fun i => if active i then val i else old.getD i 0))) []
    (wholeGranules c.lb active)

/-! Reductions, scans and top-k (R232, R233). -/

/-- Running results of a segmented fold: at each lane the accumulator, restarted where a segment starts. -/
def scanLanes (op : Nat → Nat → Nat → Nat) (starts : Nat → Bool) : Nat → Nat → List Nat → List Nat → List Nat
  | i, acc, x :: xs, z :: zs =>
    let a := if i = 0 ∨ starts i = true then x else op acc x z
    a :: scanLanes op starts (i + 1) a xs zs
  | _, _, _, _ => []

/-- Each lane takes the scan value of its segment's last lane; l is read from the last lane down. -/
def spreadBack (starts : Nat → Bool) : Nat → Option Nat → List Nat → List Nat
  | _, _, [] => []
  | i, cur, x :: rest =>
    let v := cur.getD x
    v :: spreadBack starts (i - 1) (if i = 0 ∨ starts i = true then none else some v) rest

/-- The segmented forms: a reduction spreads each segment's result over its lanes (R232). -/
def vecScan (spread sums : Bool) (op : Cmd → Nat → Nat → Nat → Nat) (vd va : RegNo) (m : BitVec 2) (s : State)
    (c : Cmd) : State :=
  let mask := maskOf s c m.toNat
  let starts := fun i => mask.getLsbD i
  let xs := lanesOf c.lb (readRow s c va)
  let r := drawZ s c (sums && c.rm == 4 && etFloat c.et) c.lanes
  let scan := scanLanes (op c) starts 0 0 xs r.1
  let out := if spread then (spreadBack starts (c.lanes - 1) none scan.reverse).reverse else scan
  let bad := if (badGranules s c va).isEmpty then [] else upFrom 0 8
  let s := popPorts (noteBad r.2 c [va]) c [va]
  writeRow s c vd (rowBytes c.lb out) bad (upFrom 0 8)

/-- A sum of two lanes (R232). -/
def laneSum (c : Cmd) (x y z : Nat) : Nat := laneArith c (fun a b _ => a.add b) (fun a b _ => a + b) x y 0 z

/-- Whether lane value x ranks above y: NaN ranks below every number (R233). -/
def ranksAbove (et x y : Nat) : Bool :=
  if etFloat et then
    match decNum et x, decNum et y with
    | .nan, _ => false
    | _, .nan => true
    | a, b => (b.lt a).getD false
  else decide (patInt (etWidth et) y < patInt (etWidth et) x)

/-- The best of a list of (offset, value), the first among equals. -/
def bestOf (et : Nat) (l : List (Nat × Nat)) : Option (Nat × Nat) :=
  l.foldl (fun b p =>
    match b with
    | none => some p
    | some q => if ranksAbove et p.2 q.2 then some p else some q) none

/-- The best k of a list in rank order. -/
def topOf (et : Nat) (l : List (Nat × Nat)) : Nat → List (Nat × Nat)
  | 0 => []
  | k + 1 =>
    match bestOf et l with
    | none => []
    | some p => p :: topOf et (l.filter (fun q => q.1 != p.1)) k

/-- Lanes cut into segments (R232). -/
def segments (starts : Nat → Bool) : Nat → List Nat → List (List Nat)
  | _, [] => []
  | i, x :: rest =>
    match segments starts (i + 1) rest with
    | [] => [[x]]
    | g :: gs => if starts (i + 1) then [x] :: g :: gs else (x :: g) :: gs

/-- The lowest value of a type (R233). -/
def lowestOf (et : Nat) : Nat :=
  match et with
  | 0 => 0xFF800000
  | 1 => 0xFF80
  | 2 => 0xFE
  | 3 => 0xFC
  | _ => 2 ^ (etWidth et - 1)

/-- One segment's ranked values or offsets, filled up (R233). -/
def topSegment (et k : Nat) (vals : Bool) (seg : List Nat) : List Nat :=
  let top := topOf et ((upFrom 0 seg.length).zip seg) (min k seg.length)
  top.map (fun p => if vals then p.2 else p.1)
  ++ List.replicate (seg.length - top.length) (if vals then lowestOf et else 2 ^ etWidth et - 1)

/-- VTOPK (R233). -/
def vecTopk (vd va : RegNo) (m : BitVec 2) (s : State) (c : Cmd) : State :=
  let mask := maskOf s c m.toNat
  let k := wbits (c.vals.headD 0#64) 3 0
  let segs := segments (fun i => mask.getLsbD i) 0 (lanesOf c.lb (readRow s c va))
  let bad := if (badGranules s c va).isEmpty then [] else upFrom 0 8
  let s := popPorts (noteBad s c [va]) c [va]
  let s := writeRow s c vd (rowBytes c.lb (segs.flatMap (topSegment c.et k true))) bad (upFrom 0 8)
  writeRow s c (vd + 1#6) (rowBytes c.lb (segs.flatMap (topSegment c.et k false))) bad (upFrom 0 8)

/-! Permutes and lane moves (R234). -/

/-- VPERM (R234). -/
def vecPerm (sc : Bool) (vd va vb : RegNo) (m : BitVec 2) (s : State) (c : Cmd) : State :=
  let mask := maskOf s c m.toNat
  let active := fun i => mask.getLsbD i
  let srcs := if sc then [va] else [va, vb]
  let xs := lanesOf c.lb (readRow s c va)
  let ys := secondLanes s c sc vb
  let old := lanesOf c.lb (oldRow s c vd)
  let bad := if (srcs.flatMap (badGranules s c)).isEmpty then [] else liveGranules c.lb active
  let out := (upFrom 0 c.lanes).map (fun i => if active i then xs.getD (ys.getD i 0 % c.lanes) 0 else old.getD i 0)
  let s := popPorts (noteBad s c srcs) c srcs
  writeRow s c vd (rowBytes c.lb out) bad (wholeGranules c.lb active)

/-- VBCAST (R234). -/
def vecBcast (vd : RegNo) (m : BitVec 2) (s : State) (c : Cmd) : State :=
  let mask := maskOf s c m.toNat
  let active := fun i => mask.getLsbD i
  let v := (c.vals.headD 0#64).toNat % 2 ^ etWidth c.et
  let old := lanesOf c.lb (oldRow s c vd)
  writeRow s c vd (rowBytes c.lb ((upFrom 0 c.lanes).map (fun i => if active i then v else old.getD i 0))) []
    (wholeGranules c.lb active)

/-- A scalar register that a vector word writes is filled (R220), with a fault mark where its read failed (R221). -/
def vecFill (s : State) (c : Cmd) (v : Word) (bad : Option Nat) : State :=
  let mark := bad.map (fun off => (⟨9, genericOf s c off, false⟩ : Mark))
  modCtx s c.core .C (fun x => x.fill c.id 0 v mark [])

/-- VEXTX (R234): the granule of the lane is the one that it reads. -/
def vecExtx (va : RegNo) (s : State) (c : Cmd) : State :=
  let i := (c.vals.headD 0#64).toNat % c.lanes
  let x := (lanesOf c.lb (readRow s c va)).getD i 0
  let v := if etInt c.et then BitVec.ofInt 64 (patInt (etWidth c.et) x) else BitVec.ofNat 64 x
  let g := i * c.lb / 32
  let bad := if (badGranules s c va).contains g then some (256 * srcRow s c va + 32 * g) else none
  let s := noteFailures s c bad.toList
  vecFill (popPorts s c [va]) c v bad

/-! Mask words (R235). -/

/-- VMAND, VMOR, VMXOR, VMANDN (R235). -/
def vecMask (md ma mb : BitVec 3) (f : BitVec 256 → BitVec 256 → BitVec 256) (s : State) (c : Cmd) : State :=
  setMask s c md.toNat (f (maskOf s c ma.toNat) (maskOf s c mb.toNat))

/-- Set bits of a mask. -/
def maskPop (m : BitVec 256) : Nat := (upFrom 0 256).foldl (fun n i => if m.getLsbD i then n + 1 else n) 0

/-- VMSET (R235). -/
def vecMset (md : BitVec 3) (q : BitVec 2) (s : State) (c : Cmd) : State :=
  let m := maskOf s c md.toNat
  let hole := BitVec.ofNat 256 ((2 ^ 64 - 1) * 2 ^ (64 * q.toNat))
  setMask s c md.toNat ((m &&& ~~~hole) ||| BitVec.ofNat 256 ((c.vals.headD 0#64).toNat * 2 ^ (64 * q.toNat)))

/-! Rows and walks (R236 to R239). -/

/-- Where the address of a VLDR or VSTR leads. -/
def vecPlace (c : Cmd) (l : List Extent) : Nat × Nat :=
  match l with
  | ⟨.sp k, lo, _⟩ :: _ => (k, lo)
  | _ => (c.core, 0)

/-- VLDR (R236). A failing granule of the own scratchpad is named by its local address, whichever window named it (R221). -/
def vecLdr (vd : RegNo) (s : State) (c : Cmd) : State :=
  let p := vecPlace c c.reads
  let row := if p.1 = c.core then spView s p.1 p.2 256
    else viewBytes s c.core c.part (.sp p.1 p.2) (memRead (coreOf s p.1).sp p.2 256)
  let bad := (upFrom 0 8).filter (fun g =>
    (coreOf s p.1).spBad.contains (p.2 / 32 + g) || nearPattern s c.core c.part (.sp p.1 (p.2 + 32 * g)) 32)
  let ea (g : Nat) : Word :=
    if p.1 = c.core then genericOf s c (p.2 + 32 * g) else c.vals.headD 0#64 + BitVec.ofNat 64 (32 * g)
  let s := bad.foldl (fun s g => vecError s c (ea g)) s
  writeRow s c vd row bad (upFrom 0 8)

/-- A granule of a VSTR to another core's scratchpad: an access with its near event done (R146, R223). With bad it carries the
uncorrectable pattern (R221). -/
def vecStore (s : State) (c : Cmd) (ea : Word) (k off : Nat) (data : List Byte) (bad : Bool) : State :=
  let a : Access :=
    { id := s.nextId, core := c.core, ctx := some .C, seq := c.seq, slot := c.slot, kind := .vec, cls := 16,
      ea := ea, dest := .sp k off, size := data.length, data := data, nearAt := s.nearNext,
      notice := none, denied := false, retry := none, refused := false, granted := false, since := 0, sync := 0,
      part := c.part, asid := c.asid, gen := c.gen, cmd := c.id, store := if bad then 1 else 0 }
  { addAccess s a with nearNext := s.nearNext + 1 }

/-- VSTR (R236). -/
def vecStr (vd : RegNo) (s : State) (c : Cmd) : State :=
  let p := vecPlace c c.writes
  let row := readRow s c vd
  let bad := badGranules s c vd
  let s := popPorts (noteBad s c [vd]) c [vd]
  if p.1 = c.core then
    modCore (evictRow s c p.2) c.core (fun k =>
      { k with
        sp := memWrite k.sp p.2 row
        spBad := (bad.map (fun g => p.2 / 32 + g)).foldl insertNat (clearMarks k.spBad p.2 256) })
  else
    (upFrom 0 8).foldl (fun s g =>
      vecStore s c (c.vals.headD 0#64 + BitVec.ofNat 64 (32 * g)) p.1 (p.2 + 32 * g) ((row.drop (32 * g)).take 32)
        (bad.contains g)) s

/-- VWALK (R238). -/
def vecWalk (s : State) (c : Cmd) : State :=
  modCore s c.core (fun k => { k with vec := k.vec.setWalk (c.vals.headD 0#64) (c.vals.getD 1 0#64) })

/-- VLDW (R239). A row's length feeds the lanes from that row's first on that read it: where its granule fails they take 0 in m3
(R221). -/
def vecLdw (vd : RegNo) (s : State) (c : Cmd) : State :=
  let r := walkOf s c (coreOf s c.core).vec
  let n := r.1.length
  let failed (off len : Nat) : List Nat := (granulesOf off len).filter (fun g => (coreOf s c.core).spBad.contains g)
  let failing (off len : Nat) : Bool := !(failed off len).isEmpty
  let inside (off : Nat) : Bool := decide (off < Config.spBytes)
  let elem (off : Nat) : Nat := leNat ((upFrom 0 c.lb).map (fun i =>
    if inside (off + i) then ((spView s c.core (off + i) 1).headD 0#8) else 0#8))
  let fed := (r.2.1.find? (fun o => failing o.1 2)).map (fun o => o.2)
  let all := (r.2.1.map (fun o => failed o.1 2) ++ r.1.map (fun p => failed p.1 c.lb)).foldl unionNat []
  let m3 := maskBits (fun i => fed.all (fun n => decide (i < n)) &&
    (match r.1[i]? with
     | some p => p.2 && !failing p.1 c.lb
     | none => decide (i = n) && decide (n < c.lanes)))
  let lanes := r.1.map (fun p => elem p.1) ++ List.replicate (c.lanes - n) 0
  let bad := if all.isEmpty then [] else upFrom 0 8
  let s := noteFailures s c (all.map (fun g => 32 * g))
  let s := modCore s c.core (fun k => { k with vec := { k.vec with cr := r.2.2.1, cc := r.2.2.2 } })
  writeRow (setMask s c 3 m3) c vd (rowBytes c.lb lanes) bad (upFrom 0 8)

/-! What each word does when the unit executes it (R220). -/

/-- The execution of a vector word. -/
def runVector (s : State) (c : Cmd) : State :=
  match c.instr with
  | .vadd sc vd va vb m =>
    vecLane sc vd va vb m false true (fun c x y d z => laneArith c (fun a b _ => a.add b) (fun a b _ => a + b) x y d z) s c
  | .vsub sc vd va vb m =>
    vecLane sc vd va vb m false true
      (fun c x y d z => laneArith c (fun a b _ => a.add b.neg) (fun a b _ => a - b) x y d z) s c
  | .vmul sc vd va vb m =>
    vecLane sc vd va vb m false true (fun c x y d z => laneArith c (fun a b _ => a.mul b) (fun a b _ => a * b) x y d z) s c
  | .vfma sc vd va vb m =>
    vecLane sc vd va vb m true true
      (fun c x y d z => laneArith c (fun a b e => (a.mul b).add e) (fun a b e => a * b + e) x y d z) s c
  | .vfnma sc vd va vb m =>
    vecLane sc vd va vb m true true
      (fun c x y d z => laneArith c (fun a b e => e.add (a.mul b).neg) (fun a b e => e - a * b) x y d z) s c
  | .vmin sc vd va vb m => vecLane sc vd va vb m false false (fun c x y _ _ => laneMin c x y) s c
  | .vmax sc vd va vb m => vecLane sc vd va vb m false false (fun c x y _ _ => laneMax c x y) s c
  | .vminn sc vd va vb m => vecLane sc vd va vb m false false (fun _ x y _ _ => min x y) s c
  | .vmaxn sc vd va vb m => vecLane sc vd va vb m false false (fun _ x y _ _ => max x y) s c
  | .vabs vd va m => vecUnary vd va m laneAbs s c
  | .vneg vd va m => vecUnary vd va m laneNeg s c
  | .vand sc vd va vb m => vecLane sc vd va vb m false false (fun _ x y _ _ => x &&& y) s c
  | .vor sc vd va vb m => vecLane sc vd va vb m false false (fun _ x y _ _ => x ||| y) s c
  | .vxor sc vd va vb m => vecLane sc vd va vb m false false (fun _ x y _ _ => x ^^^ y) s c
  | .vandn sc vd va vb m =>
    vecLane sc vd va vb m false false (fun c x y _ _ => x &&& (y ^^^ (2 ^ etWidth c.et - 1))) s c
  | .vshl sc vd va vb m => vecLane sc vd va vb m false false (fun c x y _ _ => laneShl c x y) s c
  | .vshr sc vd va vb m => vecLane sc vd va vb m false false (fun c x y _ _ => laneShr c x y) s c
  | .vsra sc vd va vb m => vecLane sc vd va vb m false false (fun c x y _ _ => laneSra c x y) s c
  | .vexp2 vd va m => vecUnary vd va m (fun _ x => rnd (exp2 (decNum 0 x)) 0 0 false Rand.zero) s c
  | .vlog2 vd va m => vecUnary vd va m (fun _ x => rnd (log2Num (decNum 0 x)) 0 0 false Rand.zero) s c
  | .vrecip vd va m => vecUnary vd va m (fun _ x => rnd (recip (decNum 0 x)) 0 0 false Rand.zero) s c
  | .vrsq vd va m => vecUnary vd va m (fun _ x => rnd (rsqrt (decNum 0 x)) 0 0 false Rand.zero) s c
  | .vcmpEq sc md va vb m => vecCmp .eq sc md va vb m s c
  | .vcmpNe sc md va vb m => vecCmp .ne sc md va vb m s c
  | .vcmpLt sc md va vb m => vecCmp .lt sc md va vb m s c
  | .vcmpGe sc md va vb m => vecCmp .ge sc md va vb m s c
  | .vcmpLtn sc md va vb m => vecCmp .ltn sc md va vb m s c
  | .vcmpGen sc md va vb m => vecCmp .gen sc md va vb m s c
  | .vsel sc vd va vb m => vecSel sc vd va vb m s c
  | .vcvt t vd va p sat rm m => vecCvt t vd va p sat rm m s c
  | .vrng vd _ m => vecRng vd m s c
  | .vkey _ => modCore s c.core (fun k => { k with vec := { k.vec with rkey := c.vals.headD 0#64 } })
  | .vrsum vd va m => vecScan true true laneSum vd va m s c
  | .vrmax vd va m => vecScan true false (fun c x y _ => laneMax c x y) vd va m s c
  | .vrmin vd va m => vecScan true false (fun c x y _ => laneMin c x y) vd va m s c
  | .vscan vd va m => vecScan false true laneSum vd va m s c
  | .vscanx vd va m => vecScan false false (fun c x y _ => laneMax c x y) vd va m s c
  | .vtopk vd va _ m => vecTopk vd va m s c
  | .vperm sc vd va vb m => vecPerm sc vd va vb m s c
  | .vbcast vd _ m => vecBcast vd m s c
  | .vextx _ va _ => vecExtx va s c
  | .vmand md ma mb => vecMask md ma mb (fun a b => a &&& b) s c
  | .vmor md ma mb => vecMask md ma mb (fun a b => a ||| b) s c
  | .vmxor md ma mb => vecMask md ma mb (fun a b => a ^^^ b) s c
  | .vmandn md ma mb => vecMask md ma mb (fun a b => a &&& ~~~b) s c
  | .vmpopc _ ma => vecFill s c (BitVec.ofNat 64 (maskPop (maskOf s c ma.toNat))) none
  | .vmget _ ma q => vecFill s c ((maskOf s c ma.toNat >>> (64 * q.toNat)).setWidth 64) none
  | .vmset md q _ => vecMset md q s c
  | .vldr vd _ => vecLdr vd s c
  | .vstr vd _ => vecStr vd s c
  | .vwalk _ _ => vecWalk s c
  | .vldw vd => vecLdw vd s c
  | _ => s

/-- Whether the oldest vector word is held: by a load before its CSYNC, by a lock on a row or byte that it reaches, by an earlier scalar
access of C that it overlaps, by a write of the core that has not reached its home, or by an earlier VSTR (R136, R159, R223, R266). -/
def vectorHeld (s : State) (c : Cmd) : Bool :=
  let writes := vecWrites s c
  let all := vecReads s c ++ writes
  let touch (e : Extent) (a : Access) : Bool :=
    match a.spPlace s with
    | some (k, o) => e.hits k o a.size
    | none => false
  s.acc.any (fun a =>
    a.core == c.core &&
    (a.kind == .vec || c.waits.contains a.id
     || (a.ctx == some .C && a.kind != .eng && a.kind != .ldc && decide (a.place < 4 * c.seq + c.slot) && all.any (fun e => touch e a))
     || (a.kind.writes && a.nearAt != 0 && writes.any (fun e => touch e a))))
  || all.any (fun e => e.space == .sp c.core && lockHolds s c.core (some .C) c.seq c.slot e.lo (e.hi - e.lo))

/-- VECTOR_WORD_COMPLETE: the oldest vector word of a core executes and completes (R220, R223). -/
def execVectorWordComplete (core : Nat) (s : State) : Host.Outcome State Fault Refusal :=
  .next (match oldestCmd (s.cmds.filter (fun c => c.core == core && c.cls == .vector)) with
    | none => s
    | some c => if !gangRuns s c || vectorHeld s c then s else dropCmd (runVector s c) c.id)

/-! The words. -/


/-- VADD (R227). -/
def execVadd (sc : Bool) (vd : RegNo) (va : RegNo) (vb : RegNo) (m : BitVec 2) (s : State) : Host.Outcome State Fault Refusal :=
  issueWord (.vadd sc vd va vb m) (vectorFault (.vadd sc vd va vb m)) (issueVector (.vadd sc vd va vb m)) s

/-- VSUB (R227). -/
def execVsub (sc : Bool) (vd : RegNo) (va : RegNo) (vb : RegNo) (m : BitVec 2) (s : State) : Host.Outcome State Fault Refusal :=
  issueWord (.vsub sc vd va vb m) (vectorFault (.vsub sc vd va vb m)) (issueVector (.vsub sc vd va vb m)) s

/-- VMUL (R227). -/
def execVmul (sc : Bool) (vd : RegNo) (va : RegNo) (vb : RegNo) (m : BitVec 2) (s : State) : Host.Outcome State Fault Refusal :=
  issueWord (.vmul sc vd va vb m) (vectorFault (.vmul sc vd va vb m)) (issueVector (.vmul sc vd va vb m)) s

/-- VFMA (R227). -/
def execVfma (sc : Bool) (vd : RegNo) (va : RegNo) (vb : RegNo) (m : BitVec 2) (s : State) : Host.Outcome State Fault Refusal :=
  issueWord (.vfma sc vd va vb m) (vectorFault (.vfma sc vd va vb m)) (issueVector (.vfma sc vd va vb m)) s

/-- VFNMA (R227). -/
def execVfnma (sc : Bool) (vd : RegNo) (va : RegNo) (vb : RegNo) (m : BitVec 2) (s : State) : Host.Outcome State Fault Refusal :=
  issueWord (.vfnma sc vd va vb m) (vectorFault (.vfnma sc vd va vb m)) (issueVector (.vfnma sc vd va vb m)) s

/-- VMIN (R227). -/
def execVmin (sc : Bool) (vd : RegNo) (va : RegNo) (vb : RegNo) (m : BitVec 2) (s : State) : Host.Outcome State Fault Refusal :=
  issueWord (.vmin sc vd va vb m) (vectorFault (.vmin sc vd va vb m)) (issueVector (.vmin sc vd va vb m)) s

/-- VMAX (R227). -/
def execVmax (sc : Bool) (vd : RegNo) (va : RegNo) (vb : RegNo) (m : BitVec 2) (s : State) : Host.Outcome State Fault Refusal :=
  issueWord (.vmax sc vd va vb m) (vectorFault (.vmax sc vd va vb m)) (issueVector (.vmax sc vd va vb m)) s

/-- VMINN (R227). -/
def execVminn (sc : Bool) (vd : RegNo) (va : RegNo) (vb : RegNo) (m : BitVec 2) (s : State) : Host.Outcome State Fault Refusal :=
  issueWord (.vminn sc vd va vb m) (vectorFault (.vminn sc vd va vb m)) (issueVector (.vminn sc vd va vb m)) s

/-- VMAXN (R227). -/
def execVmaxn (sc : Bool) (vd : RegNo) (va : RegNo) (vb : RegNo) (m : BitVec 2) (s : State) : Host.Outcome State Fault Refusal :=
  issueWord (.vmaxn sc vd va vb m) (vectorFault (.vmaxn sc vd va vb m)) (issueVector (.vmaxn sc vd va vb m)) s

/-- VABS (R227). -/
def execVabs (vd : RegNo) (va : RegNo) (m : BitVec 2) (s : State) : Host.Outcome State Fault Refusal :=
  issueWord (.vabs vd va m) (vectorFault (.vabs vd va m)) (issueVector (.vabs vd va m)) s

/-- VNEG (R227). -/
def execVneg (vd : RegNo) (va : RegNo) (m : BitVec 2) (s : State) : Host.Outcome State Fault Refusal :=
  issueWord (.vneg vd va m) (vectorFault (.vneg vd va m)) (issueVector (.vneg vd va m)) s

/-- VAND (R227). -/
def execVand (sc : Bool) (vd : RegNo) (va : RegNo) (vb : RegNo) (m : BitVec 2) (s : State) : Host.Outcome State Fault Refusal :=
  issueWord (.vand sc vd va vb m) (vectorFault (.vand sc vd va vb m)) (issueVector (.vand sc vd va vb m)) s

/-- VOR (R227). -/
def execVor (sc : Bool) (vd : RegNo) (va : RegNo) (vb : RegNo) (m : BitVec 2) (s : State) : Host.Outcome State Fault Refusal :=
  issueWord (.vor sc vd va vb m) (vectorFault (.vor sc vd va vb m)) (issueVector (.vor sc vd va vb m)) s

/-- VXOR (R227). -/
def execVxor (sc : Bool) (vd : RegNo) (va : RegNo) (vb : RegNo) (m : BitVec 2) (s : State) : Host.Outcome State Fault Refusal :=
  issueWord (.vxor sc vd va vb m) (vectorFault (.vxor sc vd va vb m)) (issueVector (.vxor sc vd va vb m)) s

/-- VANDN (R227). -/
def execVandn (sc : Bool) (vd : RegNo) (va : RegNo) (vb : RegNo) (m : BitVec 2) (s : State) : Host.Outcome State Fault Refusal :=
  issueWord (.vandn sc vd va vb m) (vectorFault (.vandn sc vd va vb m)) (issueVector (.vandn sc vd va vb m)) s

/-- VSHL (R227). -/
def execVshl (sc : Bool) (vd : RegNo) (va : RegNo) (vb : RegNo) (m : BitVec 2) (s : State) : Host.Outcome State Fault Refusal :=
  issueWord (.vshl sc vd va vb m) (vectorFault (.vshl sc vd va vb m)) (issueVector (.vshl sc vd va vb m)) s

/-- VSHR (R227). -/
def execVshr (sc : Bool) (vd : RegNo) (va : RegNo) (vb : RegNo) (m : BitVec 2) (s : State) : Host.Outcome State Fault Refusal :=
  issueWord (.vshr sc vd va vb m) (vectorFault (.vshr sc vd va vb m)) (issueVector (.vshr sc vd va vb m)) s

/-- VSRA (R227). -/
def execVsra (sc : Bool) (vd : RegNo) (va : RegNo) (vb : RegNo) (m : BitVec 2) (s : State) : Host.Outcome State Fault Refusal :=
  issueWord (.vsra sc vd va vb m) (vectorFault (.vsra sc vd va vb m)) (issueVector (.vsra sc vd va vb m)) s

/-- VEXP2 (R228). -/
def execVexp2 (vd : RegNo) (va : RegNo) (m : BitVec 2) (s : State) : Host.Outcome State Fault Refusal :=
  issueWord (.vexp2 vd va m) (vectorFault (.vexp2 vd va m)) (issueVector (.vexp2 vd va m)) s

/-- VLOG2 (R228). -/
def execVlog2 (vd : RegNo) (va : RegNo) (m : BitVec 2) (s : State) : Host.Outcome State Fault Refusal :=
  issueWord (.vlog2 vd va m) (vectorFault (.vlog2 vd va m)) (issueVector (.vlog2 vd va m)) s

/-- VRECIP (R228). -/
def execVrecip (vd : RegNo) (va : RegNo) (m : BitVec 2) (s : State) : Host.Outcome State Fault Refusal :=
  issueWord (.vrecip vd va m) (vectorFault (.vrecip vd va m)) (issueVector (.vrecip vd va m)) s

/-- VRSQ (R228). -/
def execVrsq (vd : RegNo) (va : RegNo) (m : BitVec 2) (s : State) : Host.Outcome State Fault Refusal :=
  issueWord (.vrsq vd va m) (vectorFault (.vrsq vd va m)) (issueVector (.vrsq vd va m)) s

/-- VCMP_EQ (R229). -/
def execVcmpEq (sc : Bool) (md : BitVec 3) (va : RegNo) (vb : RegNo) (m : BitVec 2) (s : State) : Host.Outcome State Fault Refusal :=
  issueWord (.vcmpEq sc md va vb m) (vectorFault (.vcmpEq sc md va vb m)) (issueVector (.vcmpEq sc md va vb m)) s

/-- VCMP_NE (R229). -/
def execVcmpNe (sc : Bool) (md : BitVec 3) (va : RegNo) (vb : RegNo) (m : BitVec 2) (s : State) : Host.Outcome State Fault Refusal :=
  issueWord (.vcmpNe sc md va vb m) (vectorFault (.vcmpNe sc md va vb m)) (issueVector (.vcmpNe sc md va vb m)) s

/-- VCMP_LT (R229). -/
def execVcmpLt (sc : Bool) (md : BitVec 3) (va : RegNo) (vb : RegNo) (m : BitVec 2) (s : State) : Host.Outcome State Fault Refusal :=
  issueWord (.vcmpLt sc md va vb m) (vectorFault (.vcmpLt sc md va vb m)) (issueVector (.vcmpLt sc md va vb m)) s

/-- VCMP_GE (R229). -/
def execVcmpGe (sc : Bool) (md : BitVec 3) (va : RegNo) (vb : RegNo) (m : BitVec 2) (s : State) : Host.Outcome State Fault Refusal :=
  issueWord (.vcmpGe sc md va vb m) (vectorFault (.vcmpGe sc md va vb m)) (issueVector (.vcmpGe sc md va vb m)) s

/-- VCMP_LTN (R229). -/
def execVcmpLtn (sc : Bool) (md : BitVec 3) (va : RegNo) (vb : RegNo) (m : BitVec 2) (s : State) : Host.Outcome State Fault Refusal :=
  issueWord (.vcmpLtn sc md va vb m) (vectorFault (.vcmpLtn sc md va vb m)) (issueVector (.vcmpLtn sc md va vb m)) s

/-- VCMP_GEN (R229). -/
def execVcmpGen (sc : Bool) (md : BitVec 3) (va : RegNo) (vb : RegNo) (m : BitVec 2) (s : State) : Host.Outcome State Fault Refusal :=
  issueWord (.vcmpGen sc md va vb m) (vectorFault (.vcmpGen sc md va vb m)) (issueVector (.vcmpGen sc md va vb m)) s

/-- VSEL (R229). -/
def execVsel (sc : Bool) (vd : RegNo) (va : RegNo) (vb : RegNo) (m : BitVec 2) (s : State) : Host.Outcome State Fault Refusal :=
  issueWord (.vsel sc vd va vb m) (vectorFault (.vsel sc vd va vb m)) (issueVector (.vsel sc vd va vb m)) s

/-- VCVT (R230). -/
def execVcvt (t : BitVec 3) (vd : RegNo) (va : RegNo) (p : BitVec 2) (sat : Bool) (rm : BitVec 3) (m : BitVec 2) (s : State) : Host.Outcome State Fault Refusal :=
  issueWord (.vcvt t vd va p sat rm m) (vectorFault (.vcvt t vd va p sat rm m)) (issueVector (.vcvt t vd va p sat rm m)) s

/-- VRNG (R231). -/
def execVrng (vd : RegNo) (xb : RegNo) (m : BitVec 2) (s : State) : Host.Outcome State Fault Refusal :=
  issueWord (.vrng vd xb m) (vectorFault (.vrng vd xb m)) (issueVector (.vrng vd xb m)) s

/-- VKEY (R231). -/
def execVkey (xb : RegNo) (s : State) : Host.Outcome State Fault Refusal :=
  issueWord (.vkey xb) (vectorFault (.vkey xb)) (issueVector (.vkey xb)) s

/-- VRSUM (R232). -/
def execVrsum (vd : RegNo) (va : RegNo) (m : BitVec 2) (s : State) : Host.Outcome State Fault Refusal :=
  issueWord (.vrsum vd va m) (vectorFault (.vrsum vd va m)) (issueVector (.vrsum vd va m)) s

/-- VRMAX (R232). -/
def execVrmax (vd : RegNo) (va : RegNo) (m : BitVec 2) (s : State) : Host.Outcome State Fault Refusal :=
  issueWord (.vrmax vd va m) (vectorFault (.vrmax vd va m)) (issueVector (.vrmax vd va m)) s

/-- VRMIN (R232). -/
def execVrmin (vd : RegNo) (va : RegNo) (m : BitVec 2) (s : State) : Host.Outcome State Fault Refusal :=
  issueWord (.vrmin vd va m) (vectorFault (.vrmin vd va m)) (issueVector (.vrmin vd va m)) s

/-- VSCAN (R232). -/
def execVscan (vd : RegNo) (va : RegNo) (m : BitVec 2) (s : State) : Host.Outcome State Fault Refusal :=
  issueWord (.vscan vd va m) (vectorFault (.vscan vd va m)) (issueVector (.vscan vd va m)) s

/-- VSCANX (R232). -/
def execVscanx (vd : RegNo) (va : RegNo) (m : BitVec 2) (s : State) : Host.Outcome State Fault Refusal :=
  issueWord (.vscanx vd va m) (vectorFault (.vscanx vd va m)) (issueVector (.vscanx vd va m)) s

/-- VTOPK (R233). -/
def execVtopk (vd : RegNo) (va : RegNo) (xb : RegNo) (m : BitVec 2) (s : State) : Host.Outcome State Fault Refusal :=
  issueWord (.vtopk vd va xb m) (vectorFault (.vtopk vd va xb m)) (issueVector (.vtopk vd va xb m)) s

/-- VPERM (R234). -/
def execVperm (sc : Bool) (vd : RegNo) (va : RegNo) (vb : RegNo) (m : BitVec 2) (s : State) : Host.Outcome State Fault Refusal :=
  issueWord (.vperm sc vd va vb m) (vectorFault (.vperm sc vd va vb m)) (issueVector (.vperm sc vd va vb m)) s

/-- VBCAST (R234). -/
def execVbcast (vd : RegNo) (xb : RegNo) (m : BitVec 2) (s : State) : Host.Outcome State Fault Refusal :=
  issueWord (.vbcast vd xb m) (vectorFault (.vbcast vd xb m)) (issueVector (.vbcast vd xb m)) s

/-- VEXTX (R234). -/
def execVextx (xd : RegNo) (va : RegNo) (xb : RegNo) (s : State) : Host.Outcome State Fault Refusal :=
  issueWord (.vextx xd va xb) (vectorFault (.vextx xd va xb)) (issueVector (.vextx xd va xb)) s

/-- VMAND (R235). -/
def execVmand (md : BitVec 3) (ma : BitVec 3) (mb : BitVec 3) (s : State) : Host.Outcome State Fault Refusal :=
  issueWord (.vmand md ma mb) (vectorFault (.vmand md ma mb)) (issueVector (.vmand md ma mb)) s

/-- VMOR (R235). -/
def execVmor (md : BitVec 3) (ma : BitVec 3) (mb : BitVec 3) (s : State) : Host.Outcome State Fault Refusal :=
  issueWord (.vmor md ma mb) (vectorFault (.vmor md ma mb)) (issueVector (.vmor md ma mb)) s

/-- VMXOR (R235). -/
def execVmxor (md : BitVec 3) (ma : BitVec 3) (mb : BitVec 3) (s : State) : Host.Outcome State Fault Refusal :=
  issueWord (.vmxor md ma mb) (vectorFault (.vmxor md ma mb)) (issueVector (.vmxor md ma mb)) s

/-- VMANDN (R235). -/
def execVmandn (md : BitVec 3) (ma : BitVec 3) (mb : BitVec 3) (s : State) : Host.Outcome State Fault Refusal :=
  issueWord (.vmandn md ma mb) (vectorFault (.vmandn md ma mb)) (issueVector (.vmandn md ma mb)) s

/-- VMPOPC (R235). -/
def execVmpopc (xd : RegNo) (ma : BitVec 3) (s : State) : Host.Outcome State Fault Refusal :=
  issueWord (.vmpopc xd ma) (vectorFault (.vmpopc xd ma)) (issueVector (.vmpopc xd ma)) s

/-- VMGET (R235). -/
def execVmget (xd : RegNo) (ma : BitVec 3) (q : BitVec 2) (s : State) : Host.Outcome State Fault Refusal :=
  issueWord (.vmget xd ma q) (vectorFault (.vmget xd ma q)) (issueVector (.vmget xd ma q)) s

/-- VMSET (R235). -/
def execVmset (md : BitVec 3) (q : BitVec 2) (xb : RegNo) (s : State) : Host.Outcome State Fault Refusal :=
  issueWord (.vmset md q xb) (vectorFault (.vmset md q xb)) (issueVector (.vmset md q xb)) s

/-- VLDR (R236). -/
def execVldr (vd : RegNo) (xb : RegNo) (s : State) : Host.Outcome State Fault Refusal :=
  issueWord (.vldr vd xb) (vectorFault (.vldr vd xb)) (issueVector (.vldr vd xb)) s

/-- VSTR (R236). -/
def execVstr (vd : RegNo) (xb : RegNo) (s : State) : Host.Outcome State Fault Refusal :=
  issueWord (.vstr vd xb) (vectorFault (.vstr vd xb)) (issueVector (.vstr vd xb)) s

/-- VWIN (R237): the window moves for the next packet. -/
def execVwin (xb : RegNo) (s : State) : Host.Outcome State Fault Refusal :=
  issueWord (.vwin xb) (vectorFault (.vwin xb)) (fun f s =>
    issueVector (.vwin xb) f (modCore s f.core (fun k =>
      { k with vec := { k.vec with vwin := BitVec.ofNat 64 ((wbits f.vwin 11 0 + (f.rd xb).toNat) % 4096) } }))) s

/-- VWALK (R238). -/
def execVwalk (xa : RegNo) (xb : RegNo) (s : State) : Host.Outcome State Fault Refusal :=
  issueWord (.vwalk xa xb) (vectorFault (.vwalk xa xb)) (issueVector (.vwalk xa xb)) s

/-- VLDW (R239). -/
def execVldw (vd : RegNo) (s : State) : Host.Outcome State Fault Refusal :=
  issueWord (.vldw vd) (vectorFault (.vldw vd)) (issueVector (.vldw vd)) s

/-- VFENCE: it waits at issue for every earlier vector word, and failed vector reads that no outstanding FENCE covers first are
reported (R221, R223). -/
def execVfence (s : State) : Host.Outcome State Fault Refusal :=
  issueWord .vfence noFault (fun f s =>
    reportDrops s f.core .C (fun d => d.cls == 16 && !coveredBefore .C (ctxOf s f.core .C) (4 * f.snap.seq + f.slot) d)) s

end Sys2Proof.Machine
end

