-- ==== Sys2Proof/Machine/Words.lean ====
section
/-! DEFINITION. The words of a packet: each acts as its own meaning says, and each has its address and target faults (R47,
R169). -/

namespace Sys2Proof.Machine

/-- A word of a packet acts in the packet's frame, by its own meaning. -/
def runWord (i : Instr) (s : State) : Host.Outcome State Fault Refusal :=
  match i with
  | .add xd xa xb fa fb => Sys2Proof.Machine.execAdd xd xa xb fa fb s
  | .sub xd xa xb fa fb => Sys2Proof.Machine.execSub xd xa xb fa fb s
  | .mul xd xa xb fa fb => Sys2Proof.Machine.execMul xd xa xb fa fb s
  | .mulh xd xa xb fa fb => Sys2Proof.Machine.execMulh xd xa xb fa fb s
  | .mulhn xd xa xb fa fb => Sys2Proof.Machine.execMulhn xd xa xb fa fb s
  | .div xd xa xb fa fb => Sys2Proof.Machine.execDiv xd xa xb fa fb s
  | .divn xd xa xb fa fb => Sys2Proof.Machine.execDivn xd xa xb fa fb s
  | .rem xd xa xb fa fb => Sys2Proof.Machine.execRem xd xa xb fa fb s
  | .remn xd xa xb fa fb => Sys2Proof.Machine.execRemn xd xa xb fa fb s
  | .and xd xa xb fa fb => Sys2Proof.Machine.execAnd xd xa xb fa fb s
  | .or xd xa xb fa fb => Sys2Proof.Machine.execOr xd xa xb fa fb s
  | .xor xd xa xb fa fb => Sys2Proof.Machine.execXor xd xa xb fa fb s
  | .andn xd xa xb fa fb => Sys2Proof.Machine.execAndn xd xa xb fa fb s
  | .orn xd xa xb fa fb => Sys2Proof.Machine.execOrn xd xa xb fa fb s
  | .shl xd xa xb fa fb => Sys2Proof.Machine.execShl xd xa xb fa fb s
  | .shr xd xa xb fa fb => Sys2Proof.Machine.execShr xd xa xb fa fb s
  | .sra xd xa xb fa fb => Sys2Proof.Machine.execSra xd xa xb fa fb s
  | .rol xd xa xb fa fb => Sys2Proof.Machine.execRol xd xa xb fa fb s
  | .ror xd xa xb fa fb => Sys2Proof.Machine.execRor xd xa xb fa fb s
  | .min xd xa xb fa fb => Sys2Proof.Machine.execMin xd xa xb fa fb s
  | .max xd xa xb fa fb => Sys2Proof.Machine.execMax xd xa xb fa fb s
  | .minn xd xa xb fa fb => Sys2Proof.Machine.execMinn xd xa xb fa fb s
  | .maxn xd xa xb fa fb => Sys2Proof.Machine.execMaxn xd xa xb fa fb s
  | .clz xd xa fa => Sys2Proof.Machine.execClz xd xa fa s
  | .ctz xd xa fa => Sys2Proof.Machine.execCtz xd xa fa s
  | .popc xd xa fa => Sys2Proof.Machine.execPopc xd xa fa s
  | .brev xd xa fa => Sys2Proof.Machine.execBrev xd xa fa s
  | .bswap xd xa fa => Sys2Proof.Machine.execBswap xd xa fa s
  | .clmul xd xa xb fa fb => Sys2Proof.Machine.execClmul xd xa xb fa fb s
  | .clmulh xd xa xb fa fb => Sys2Proof.Machine.execClmulh xd xa xb fa fb s
  | .ext xd xa xb fa fb => Sys2Proof.Machine.execExt xd xa xb fa fb s
  | .extn xd xa xb fa fb => Sys2Proof.Machine.execExtn xd xa xb fa fb s
  | .ins xd xa xb fa fb => Sys2Proof.Machine.execIns xd xa xb fa fb s
  | .shladd xd xa xb fa fb n => Sys2Proof.Machine.execShladd xd xa xb fa fb n s
  | .slt xd xa xb fa fb => Sys2Proof.Machine.execSlt xd xa xb fa fb s
  | .sltn xd xa xb fa fb => Sys2Proof.Machine.execSltn xd xa xb fa fb s
  | .cmppEq p xa xb fa fb => Sys2Proof.Machine.execCmppEq p xa xb fa fb s
  | .cmppNe p xa xb fa fb => Sys2Proof.Machine.execCmppNe p xa xb fa fb s
  | .cmppLt p xa xb fa fb => Sys2Proof.Machine.execCmppLt p xa xb fa fb s
  | .cmppGe p xa xb fa fb => Sys2Proof.Machine.execCmppGe p xa xb fa fb s
  | .cmppLtn p xa xb fa fb => Sys2Proof.Machine.execCmppLtn p xa xb fa fb s
  | .cmppGen p xa xb fa fb => Sys2Proof.Machine.execCmppGen p xa xb fa fb s
  | .selP8P11 xd xa xb fa fb n => Sys2Proof.Machine.execSelP8P11 xd xa xb fa fb n s
  | .selP12P15 xd xa xb fa fb n => Sys2Proof.Machine.execSelP12P15 xd xa xb fa fb n s
  | .aconv xd xa fa => Sys2Proof.Machine.execAconv xd xa fa s
  | .agen xd xa xb fa fb => Sys2Proof.Machine.execAgen xd xa xb fa fb s
  | .atest xd xa fa => Sys2Proof.Machine.execAtest xd xa fa s
  | .addi xd xa fa imm => Sys2Proof.Machine.execAddi xd xa fa imm s
  | .andi xd xa fa imm => Sys2Proof.Machine.execAndi xd xa fa imm s
  | .ori xd xa fa imm => Sys2Proof.Machine.execOri xd xa fa imm s
  | .xori xd xa fa imm => Sys2Proof.Machine.execXori xd xa fa imm s
  | .shli xd xa fa sh => Sys2Proof.Machine.execShli xd xa fa sh s
  | .shri xd xa fa sh => Sys2Proof.Machine.execShri xd xa fa sh s
  | .srai xd xa fa sh => Sys2Proof.Machine.execSrai xd xa fa sh s
  | .roli xd xa fa sh => Sys2Proof.Machine.execRoli xd xa fa sh s
  | .rori xd xa fa sh => Sys2Proof.Machine.execRori xd xa fa sh s
  | .slti xd xa fa imm => Sys2Proof.Machine.execSlti xd xa fa imm s
  | .sltni xd xa fa imm => Sys2Proof.Machine.execSltni xd xa fa imm s
  | .muli xd xa fa imm => Sys2Proof.Machine.execMuli xd xa fa imm s
  | .cmppiEq p xa fa imm => Sys2Proof.Machine.execCmppiEq p xa fa imm s
  | .cmppiNe p xa fa imm => Sys2Proof.Machine.execCmppiNe p xa fa imm s
  | .cmppiLt p xa fa imm => Sys2Proof.Machine.execCmppiLt p xa fa imm s
  | .cmppiGe p xa fa imm => Sys2Proof.Machine.execCmppiGe p xa fa imm s
  | .cmppiLtn p xa fa imm => Sys2Proof.Machine.execCmppiLtn p xa fa imm s
  | .cmppiGen p xa fa imm => Sys2Proof.Machine.execCmppiGen p xa fa imm s
  | .ld size cls xd xa fa imm => Sys2Proof.Machine.execLd size cls xd xa fa imm s
  | .st size cls xd xa fa imm => Sys2Proof.Machine.execSt size cls xd xa fa imm s
  | .beq xa xb fa fb off => Sys2Proof.Machine.execBeq xa xb fa fb off s
  | .bne xa xb fa fb off => Sys2Proof.Machine.execBne xa xb fa fb off s
  | .blt xa xb fa fb off => Sys2Proof.Machine.execBlt xa xb fa fb off s
  | .bge xa xb fa fb off => Sys2Proof.Machine.execBge xa xb fa fb off s
  | .bltn xa xb fa fb off => Sys2Proof.Machine.execBltn xa xb fa fb off s
  | .bgen xa xb fa fb off => Sys2Proof.Machine.execBgen xa xb fa fb off s
  | .bp neg p off => Sys2Proof.Machine.execBp neg p off s
  | .j off => Sys2Proof.Machine.execJ off s
  | .jl off => Sys2Proof.Machine.execJl off s
  | .jr xa fa => Sys2Proof.Machine.execJr xa fa s
  | .loopS xa k fa off => Sys2Proof.Machine.execLoopS xa k fa off s
  | .loopO xa fa off => Sys2Proof.Machine.execLoopO xa fa off s
  | .pshv xa fa side => Sys2Proof.Machine.execPshv xa fa side s
  | .tokst xd => Sys2Proof.Machine.execTokst xd s
  | .sbind xa fa n => Sys2Proof.Machine.execSbind xa fa n s
  | .fence mask scope => Sys2Proof.Machine.execFence mask scope s
  | .csync => Sys2Proof.Machine.execCsync s
  | .qpoint => Sys2Proof.Machine.execQpoint s
  | .tsc xd => Sys2Proof.Machine.execTsc xd s
  | .csrr xd r => Sys2Proof.Machine.execCsrr xd r s
  | .csrw r xa fa => Sys2Proof.Machine.execCsrw r xa fa s
  | .trap n => Sys2Proof.Machine.execTrap n s
  | .eret => Sys2Proof.Machine.execEret s
  | .tplLd slot xa fa eng => Sys2Proof.Machine.execTplLd slot xa fa eng s
  | .tend => Sys2Proof.Machine.execTend s
  | .ldNatural xd xa fa cls size => Sys2Proof.Machine.execLdNatural xd xa fa cls size s
  | .ldc xd xa fa size => Sys2Proof.Machine.execLdc xd xa fa size s
  | .wld xd k imm => Sys2Proof.Machine.execWld xd k imm s
  | .wins xd k imm => Sys2Proof.Machine.execWins xd k imm s
  | .vadd sc vd va vb m => Sys2Proof.Machine.execVadd sc vd va vb m s
  | .vsub sc vd va vb m => Sys2Proof.Machine.execVsub sc vd va vb m s
  | .vmul sc vd va vb m => Sys2Proof.Machine.execVmul sc vd va vb m s
  | .vfma sc vd va vb m => Sys2Proof.Machine.execVfma sc vd va vb m s
  | .vfnma sc vd va vb m => Sys2Proof.Machine.execVfnma sc vd va vb m s
  | .vmin sc vd va vb m => Sys2Proof.Machine.execVmin sc vd va vb m s
  | .vmax sc vd va vb m => Sys2Proof.Machine.execVmax sc vd va vb m s
  | .vminn sc vd va vb m => Sys2Proof.Machine.execVminn sc vd va vb m s
  | .vmaxn sc vd va vb m => Sys2Proof.Machine.execVmaxn sc vd va vb m s
  | .vabs vd va m => Sys2Proof.Machine.execVabs vd va m s
  | .vneg vd va m => Sys2Proof.Machine.execVneg vd va m s
  | .vand sc vd va vb m => Sys2Proof.Machine.execVand sc vd va vb m s
  | .vor sc vd va vb m => Sys2Proof.Machine.execVor sc vd va vb m s
  | .vxor sc vd va vb m => Sys2Proof.Machine.execVxor sc vd va vb m s
  | .vandn sc vd va vb m => Sys2Proof.Machine.execVandn sc vd va vb m s
  | .vshl sc vd va vb m => Sys2Proof.Machine.execVshl sc vd va vb m s
  | .vshr sc vd va vb m => Sys2Proof.Machine.execVshr sc vd va vb m s
  | .vsra sc vd va vb m => Sys2Proof.Machine.execVsra sc vd va vb m s
  | .vexp2 vd va m => Sys2Proof.Machine.execVexp2 vd va m s
  | .vlog2 vd va m => Sys2Proof.Machine.execVlog2 vd va m s
  | .vrecip vd va m => Sys2Proof.Machine.execVrecip vd va m s
  | .vrsq vd va m => Sys2Proof.Machine.execVrsq vd va m s
  | .vcmpEq sc md va vb m => Sys2Proof.Machine.execVcmpEq sc md va vb m s
  | .vcmpNe sc md va vb m => Sys2Proof.Machine.execVcmpNe sc md va vb m s
  | .vcmpLt sc md va vb m => Sys2Proof.Machine.execVcmpLt sc md va vb m s
  | .vcmpGe sc md va vb m => Sys2Proof.Machine.execVcmpGe sc md va vb m s
  | .vcmpLtn sc md va vb m => Sys2Proof.Machine.execVcmpLtn sc md va vb m s
  | .vcmpGen sc md va vb m => Sys2Proof.Machine.execVcmpGen sc md va vb m s
  | .vsel sc vd va vb m => Sys2Proof.Machine.execVsel sc vd va vb m s
  | .vcvt t vd va p sat rm m => Sys2Proof.Machine.execVcvt t vd va p sat rm m s
  | .vrng vd xb m => Sys2Proof.Machine.execVrng vd xb m s
  | .vkey xb => Sys2Proof.Machine.execVkey xb s
  | .vrsum vd va m => Sys2Proof.Machine.execVrsum vd va m s
  | .vrmax vd va m => Sys2Proof.Machine.execVrmax vd va m s
  | .vrmin vd va m => Sys2Proof.Machine.execVrmin vd va m s
  | .vscan vd va m => Sys2Proof.Machine.execVscan vd va m s
  | .vscanx vd va m => Sys2Proof.Machine.execVscanx vd va m s
  | .vtopk vd va xb m => Sys2Proof.Machine.execVtopk vd va xb m s
  | .vperm sc vd va vb m => Sys2Proof.Machine.execVperm sc vd va vb m s
  | .vbcast vd xb m => Sys2Proof.Machine.execVbcast vd xb m s
  | .vextx xd va xb => Sys2Proof.Machine.execVextx xd va xb s
  | .vmand md ma mb => Sys2Proof.Machine.execVmand md ma mb s
  | .vmor md ma mb => Sys2Proof.Machine.execVmor md ma mb s
  | .vmxor md ma mb => Sys2Proof.Machine.execVmxor md ma mb s
  | .vmandn md ma mb => Sys2Proof.Machine.execVmandn md ma mb s
  | .vmpopc xd ma => Sys2Proof.Machine.execVmpopc xd ma s
  | .vmget xd ma q => Sys2Proof.Machine.execVmget xd ma q s
  | .vmset md q xb => Sys2Proof.Machine.execVmset md q xb s
  | .vldr vd xb => Sys2Proof.Machine.execVldr vd xb s
  | .vstr vd xb => Sys2Proof.Machine.execVstr vd xb s
  | .vwin xb => Sys2Proof.Machine.execVwin xb s
  | .vwalk xa xb => Sys2Proof.Machine.execVwalk xa xb s
  | .vldw vd => Sys2Proof.Machine.execVldw vd s
  | .vfence => Sys2Proof.Machine.execVfence s
  | .mma tpl fsel value => Sys2Proof.Machine.execMma tpl fsel value s
  | .mmag tpl fsel value => Sys2Proof.Machine.execMmag tpl fsel value s
  | .mwld tpl fsel value => Sys2Proof.Machine.execMwld tpl fsel value s
  | .mdrain tpl fsel value => Sys2Proof.Machine.execMdrain tpl fsel value s
  | .mzero tpl fsel value => Sys2Proof.Machine.execMzero tpl fsel value s
  | .mfmt tpl fsel value => Sys2Proof.Machine.execMfmt tpl fsel value s
  | .mstat tpl fsel value => Sys2Proof.Machine.execMstat tpl fsel value s
  | .mfence tpl fsel value => Sys2Proof.Machine.execMfence tpl fsel value s
  | .cpyIn tpl fsel value => Sys2Proof.Machine.execCpyIn tpl fsel value s
  | .cpyOut tpl fsel value => Sys2Proof.Machine.execCpyOut tpl fsel value s
  | .cpyGather tpl fsel value => Sys2Proof.Machine.execCpyGather tpl fsel value s
  | .cpyScat tpl fsel value => Sys2Proof.Machine.execCpyScat tpl fsel value s
  | .cpyRing tpl fsel value => Sys2Proof.Machine.execCpyRing tpl fsel value s
  | .cpyT tpl fsel value => Sys2Proof.Machine.execCpyT tpl fsel value s
  | .cpyFollow tpl fsel value => Sys2Proof.Machine.execCpyFollow tpl fsel value s
  | .cpyBar tpl fsel value => Sys2Proof.Machine.execCpyBar tpl fsel value s
  | .cpyFill tpl fsel value => Sys2Proof.Machine.execCpyFill tpl fsel value s
  | .lrec tpl fsel value => Sys2Proof.Machine.execLrec tpl fsel value s
  | .cpyStat tpl fsel value => Sys2Proof.Machine.execCpyStat tpl fsel value s
  | .xsort tpl fsel value => Sys2Proof.Machine.execXsort tpl fsel value s
  | .xa2a tpl fsel value => Sys2Proof.Machine.execXa2a tpl fsel value s
  | .xchOpen tpl fsel value => Sys2Proof.Machine.execXchOpen tpl fsel value s
  | .xchWin tpl fsel value => Sys2Proof.Machine.execXchWin tpl fsel value s
  | .xchSend tpl fsel value => Sys2Proof.Machine.execXchSend tpl fsel value s
  | .xchRecv tpl fsel value => Sys2Proof.Machine.execXchRecv tpl fsel value s
  | .xchClose tpl fsel value => Sys2Proof.Machine.execXchClose tpl fsel value s
  | .xringRs tpl fsel value => Sys2Proof.Machine.execXringRs tpl fsel value s
  | .xringAg tpl fsel value => Sys2Proof.Machine.execXringAg tpl fsel value s
  | .xstat tpl fsel value => Sys2Proof.Machine.execXstat tpl fsel value s
  | .ald ord scope xd xa => Sys2Proof.Machine.execAld ord scope xd xa s
  | .ast ord scope xa xb => Sys2Proof.Machine.execAst ord scope xa xb s
  | .aswp ord scope xd xa xb => Sys2Proof.Machine.execAswp ord scope xd xa xb s
  | .aadd ord scope xd xa xb => Sys2Proof.Machine.execAadd ord scope xd xa xb s
  | .aand ord scope xd xa xb => Sys2Proof.Machine.execAand ord scope xd xa xb s
  | .aor ord scope xd xa xb => Sys2Proof.Machine.execAor ord scope xd xa xb s
  | .axor ord scope xd xa xb => Sys2Proof.Machine.execAxor ord scope xd xa xb s
  | .amin ord scope xd xa xb => Sys2Proof.Machine.execAmin ord scope xd xa xb s
  | .amax ord scope xd xa xb => Sys2Proof.Machine.execAmax ord scope xd xa xb s
  | .aminn ord scope xd xa xb => Sys2Proof.Machine.execAminn ord scope xd xa xb s
  | .amaxn ord scope xd xa xb => Sys2Proof.Machine.execAmaxn ord scope xd xa xb s
  | .afadd ord scope xd xa xb => Sys2Proof.Machine.execAfadd ord scope xd xa xb s
  | .acas ord scope xd xa xp => Sys2Proof.Machine.execAcas ord scope xd xa xp s
  | .acasFa ord scope xd xa xp => Sys2Proof.Machine.execAcasFa ord scope xd xa xp s
  | .abinit ord scope xa xb => Sys2Proof.Machine.execAbinit ord scope xa xb s
  | .abarr ord scope xd xa => Sys2Proof.Machine.execAbarr ord scope xd xa s
  | .abexp ord scope xa xb => Sys2Proof.Machine.execAbexp ord scope xa xb s
  | .abwait ord scope xd xa xb => Sys2Proof.Machine.execAbwait ord scope xd xa xb s
  | .asemp ord scope xa xb => Sys2Proof.Machine.execAsemp ord scope xa xb s
  | .asemw ord scope xd xa xb => Sys2Proof.Machine.execAsemw ord scope xd xa xb s
  | .sst ord scope xd xa xb => Sys2Proof.Machine.execSst ord scope xd xa xb s
  | .sstT ord scope xd xa xb => Sys2Proof.Machine.execSstT ord scope xd xa xb s
  | .spf ord scope xd xa xb => Sys2Proof.Machine.execSpf ord scope xd xa xb s
  | .srel ord scope xd xa => Sys2Proof.Machine.execSrel ord scope xd xa s
  | .sqry ord scope xd xa => Sys2Proof.Machine.execSqry ord scope xd xa s
  | .spol ord scope xd xa xb => Sys2Proof.Machine.execSpol ord scope xd xa xb s
  | .lexp scope xd xa xb => Sys2Proof.Machine.execLexp scope xd xa xb s
  | .lred ord scope xd xa xb => Sys2Proof.Machine.execLred ord scope xd xa xb s
  | .lopt scope xd xa xb => Sys2Proof.Machine.execLopt scope xd xa xb s
  | .lqry ord scope xd xa => Sys2Proof.Machine.execLqry ord scope xd xa s
  | .nlook scope xd xa xb => Sys2Proof.Machine.execNlook scope xd xa xb s
  | .nref scope xd xn => Sys2Proof.Machine.execNref scope xd xn s
  | .nrel ord scope xd xn => Sys2Proof.Machine.execNrel ord scope xd xn s
  | .nswap ord scope xd xa xq => Sys2Proof.Machine.execNswap ord scope xd xa xq s
  | .nget ord scope xd xn xb => Sys2Proof.Machine.execNget ord scope xd xn xb s
  | .nout scope xd xn xp => Sys2Proof.Machine.execNout scope xd xn xp s
  | .nhas scope xd xn => Sys2Proof.Machine.execNhas scope xd xn s
  | .nxfer ord scope xd xn xb => Sys2Proof.Machine.execNxfer ord scope xd xn xb s
  | .grow scope xd xb => Sys2Proof.Machine.execGrow scope xd xb s
  | .post ord scope xd xa => Sys2Proof.Machine.execPost ord scope xd xa s
  | .fencew ord scope xd => Sys2Proof.Machine.execFencew ord scope xd s
  | .gbind ord scope xd xa xb => Sys2Proof.Machine.execGbind ord scope xd xa xb s
  | .grebind ord scope xd xa xb => Sys2Proof.Machine.execGrebind ord scope xd xa xb s
  | .gstat scope xd xb => Sys2Proof.Machine.execGstat scope xd xb s
  | .ptset scope xd xa xb => Sys2Proof.Machine.execPtset scope xd xa xb s
  | .hmrisk scope xd => Sys2Proof.Machine.execHmrisk scope xd s
  | .prack scope => Sys2Proof.Machine.execPrack scope s
  | _ => .next s

/-- The operand and address faults of a word, item 6 of R169. -/
def addressFault (w : Instr) (f : Issue) (s : State) : Option (Nat × Word) :=
  match w with
  | .ld size _ _ xa _ imm => addrFault (memAddr xa imm (accSize size)) (accSize size) .read f s
  | .st size _ _ xa _ imm => addrFault (memAddr xa imm (accSize size)) (accSize size) .write f s
  | .ldNatural _ xa _ _ size => addrFault (fun f => f.rd xa) (accSize size) .read f s
  | .ldc _ xa _ size => constFault (fun f => f.rd xa) (accSize size) f s
  | .tplLd _ xa _ _ => addrFault (fun f => f.rd xa) 64 .read f s
  | .sbind xa _ n => sbindFault xa n f s
  | _ =>
    match wordCls w with
    | some .vector => vectorFault w f s
    | some .matrix => matrixFault w f s
    | some .copy => copyFault w f s
    | some .atomic => atomicFault w f s
    | some .prism => prismFault w f s
    | some .stash => stashFault w f s
    | some .line => lineFault w f s
    | some .sched | none => none

/-- The target faults of a word, item 7 of R169. -/
def flowFault (w : Instr) (f : Issue) (s : State) : Option (Nat × Word) :=
  match w with
  | .beq xa xb _ _ off => targetFault (takenOn .eq xa xb) (relTarget off) f s
  | .bne xa xb _ _ off => targetFault (takenOn .ne xa xb) (relTarget off) f s
  | .blt xa xb _ _ off => targetFault (takenOn .lt xa xb) (relTarget off) f s
  | .bge xa xb _ _ off => targetFault (takenOn .ge xa xb) (relTarget off) f s
  | .bltn xa xb _ _ off => targetFault (takenOn .ltn xa xb) (relTarget off) f s
  | .bgen xa xb _ _ off => targetFault (takenOn .gen xa xb) (relTarget off) f s
  | .bp neg p off => targetFault (takenPred neg p) (relTarget off) f s
  | .j off | .jl off => targetFault (fun _ => true) (relTarget off) f s
  | .jr xa _ => absFault (f.rd xa)
  | .loopS xa _ _ off | .loopO xa _ off => targetFault (fun _ => true) (loopTarget xa off) f s
  | .eret => eretFault f s
  | _ => none

end Sys2Proof.Machine
end

