-- ==== Sys2Proof/Machine/Issue.lean ====
section
/-! DEFINITION. PACKET_ISSUE: fetching a packet, its checks, the issue rule, the choice among its faults, and its effect in
the order of R47 (R45 to R49, R64, R74 to R77, R81 to R83, R120, R129 to R133, R142, R164, R169, R170). -/

namespace Sys2Proof.Machine

/-! The packet (R45, R46). -/

/-- A packet's head. -/
structure Head where
  raw : IWord
  popl : Bool
  popr : Bool
  pushl : Bool
  pushr : Bool
  pred : Nat
  sense : Bool
  tick : Bool
  hold : Nat
  deriving DecidableEq, Repr

/-- The head's fields (R46). -/
def headOf (w : IWord) : Head :=
  ⟨w, bit w 31, bit w 30, bit w 29, bit w 28, fld w 24 4, bit w 23, bit w 22, fld w 18 4⟩

/-- Part n of a packet's 16 bytes. -/
def packetPart (b : List Byte) (n : Nat) : IWord := BitVec.ofNat 32 (leNat ((b.drop (4 * n)).take 4))

/-- A word of a packet with its slot, 0 to 2, and what it decodes to. -/
structure SlotWord where
  slot : Nat
  raw : IWord
  dec : Except Reject Instr

/-- A slot's word as it decodes when the context's registers are those of c: a P-form word by the op of the command that it
would form (R53). -/
def slotWord (k : Core) (c : Ctx) (b : List Byte) (n : Nat) : SlotWord :=
  let w := packetPart b (n + 1)
  ⟨n, w, decodeWord (formedOp k c w) w⟩

/-- The three words of a packet. -/
def packetWords (k : Core) (c : Ctx) (b : List Byte) : List SlotWord := [slotWord k c b 0, slotWord k c b 1, slotWord k c b 2]

/-- The engine class of a word's class field (R50). -/
def rawCls (w : IWord) : Option Cls :=
  match fld w 28 4 with
  | 8 => some .vector
  | 9 => some .matrix
  | 10 => some .copy
  | 11 => some .atomic
  | 12 => some .prism
  | 13 => some .stash
  | 14 => some .line
  | 15 => some .sched
  | _ => none

/-! What a word asks for, the words whose op is not assigned included. -/

/-- What a P-form word asks of the registers when the op of its formed command is not assigned. -/
def rawNeeds (k : Core) (c : Ctx) (w : IWord) : Needs :=
  match rawCls w with
  | none => ⟨[], [], []⟩
  | some e =>
    let f := formImage e c (k.tpl e (fld w 22 6)).img (fld w 16 6) (fld w 0 16)
    let d : RegNo := BitVec.ofNat 6 (tplField e f.img 2)
    ⟨f.regs ++ [(d, false)], [], [d]⟩

/-- What a slot asks of the registers (R64, R81); a word that check 3 refuses asks what the fields of its word name. -/
def SlotWord.needs (x : SlotWord) (k : Core) (c : Ctx) : Needs :=
  match x.dec with
  | .ok i => needsOf k c i
  | .error r =>
    match r.instr with
    | some i => needsOf k c i
    | none => if ((rawCls x.raw).map Cls.tracked).getD false then rawNeeds k c x.raw else ⟨[], [], []⟩

/-- The completion registers that a slot names (R19), and the other registers that it writes. -/
def SlotWord.named (x : SlotWord) (k : Core) (c : Ctx) : List RegNo × List RegNo :=
  let n := x.needs k c
  if ((rawCls x.raw).map Cls.tracked).getD false then (n.fills, n.dst) else ([], n.dst ++ n.fills)

/-- The registers, with their modes, from which the command that a slot would form takes its completion registers: a register
source or a register patch names them, or the op or the matrix template that CPY.FOLLOW forms a second command from, or a register
patch names a register source (R12, R244, R284). -/
def SlotWord.doneFrom (x : SlotWord) (k : Core) (c : Ctx) : List (RegNo × Bool) :=
  let named (f : Formed) (l : List Nat) : List (RegNo × Bool) :=
    (f.ents.filter (fun y => l.contains (rsFld y.2))).map (fun y => (rsReg y.2, rsTrap y.2))
  match rawCls x.raw with
  | some .matrix | some .copy | some .prism =>
    let w := x.raw
    let e := ((rawCls w).getD .matrix)
    let f := formImage e c (k.tpl e (fld w 22 6)).img (fld w 16 6) (fld w 0 16)
    let own : List Nat := if e = .copy then [1, 2, 7] else [1, 2]
    let patched : Bool := fld w 16 6 == 63 && (own ++ rsFields e).contains (fld w 8 6)
    named f own ++ (if patched then [(reg w 0, false)] else [])
    ++ (if e = .copy ∧ cpOp f.img = 7 then named (formImage .matrix c (k.tpl .matrix (cpFtpl f.img)).img 0 0) [1, 2] else [])
  | _ => []

/-- Whether the completion registers of a slot's command depend on registers. -/
def SlotWord.readsDone (x : SlotWord) (k : Core) (c : Ctx) : Bool := !(x.doneFrom k c).isEmpty

/-! Checks 1 to 3 (R48, R49). -/

/-- Whether a word is a B-form word, uses the memory port, is an LDC, or changes the context (R48). -/
def isB (w : IWord) : Bool := fld w 28 4 == 3
def usesPort (w : IWord) : Bool := fld w 28 4 == 2 || (fld w 28 4 == 4 && fld w 22 6 == 0x0D)
def isLdc (w : IWord) : Bool := fld w 28 4 == 4 && fld w 22 6 == 0x0E
def changesCtx (w : IWord) : Bool := fld w 28 4 == 4 && (fld w 22 6 == 0x09 || fld w 22 6 == 0x0A || fld w 22 6 == 0x0C)

/-- How many words of a packet have a property. -/
def countWords (p : IWord → Bool) (l : List SlotWord) : Nat := (l.filter (fun x => p x.raw)).length

/-- Whether two words of one engine class stand in a packet. -/
def twoOfClass (l : List SlotWord) : Bool :=
  (upFrom 8 8).any (fun n => decide (2 ≤ countWords (fun w => fld w 28 4 == n) l))

/-- Whether a word writes a register that another word names as its completion register, or two name the same, x0 apart
(R48). -/
def completionClash (k : Core) (c : Ctx) (l : List SlotWord) : Bool :=
  l.any (fun x => l.any (fun y =>
    x.slot != y.slot &&
    (x.named k c).1.any (fun r => r != 0#6 && ((y.named k c).1.contains r || (y.named k c).2.contains r))))

/-- Whether a packet breaks a slot rule as check 2 finds it (R48). A completion register that a command takes from a register is
known when the packet issues (R12): tryPacket judges it then (log entry 95). -/
def breaksSlotRule (k : Core) (c : Ctx) (l : List SlotWord) : Bool :=
  l.any (fun x => x.slot != 2 && isB x.raw)
  || decide (1 < countWords usesPort l) || decide (1 < countWords isLdc l) || twoOfClass l
  || (l.any (fun x => isB x.raw) && l.any (fun x => changesCtx x.raw))
  || completionClash k c (l.filter (fun x => !x.readsDone k c))

/-- The fault of check 3 for one word: it decodes to nothing, or its context may not issue it (R9, R49, R168). -/
def SlotWord.illegal (x : SlotWord) (priv : Bool) (i : CtxId) : Option (Nat × Word) :=
  match x.dec with
  | .ok w => (illegalHere priv i w).map (fun code => (code, wordVal x.slot x.raw))
  | .error .engineOp =>
    if ((rawCls x.raw).map (fun e => e.allows i)).getD false then none else some (2, wordVal x.slot x.raw)
  | .error _ => some (2, wordVal x.slot x.raw)

/-- The fault of checks 1 to 3 (R49). -/
def decodeFault (k : Core) (c : Ctx) (priv : Bool) (i : CtxId) (h : Head) (l : List SlotWord) : Option (Nat × Word) :=
  if fld h.raw 0 18 ≠ 0 ∨ breaksSlotRule k c l = true then some (1, h.raw.setWidth 64)
  else l.findSome? (fun x => x.illegal priv i)

/-! The tick and squashing (R47, R82). -/

/-- Whether a context of the role has ended, has passed its n-th tick packet, or waits at it. -/
def tickMet (c : Ctx) (n : Nat) : Bool := c.ended || decide (n < c.ticks) || (c.ticks == n && c.tickWait)

/-- Whether the gang's schedule lets a context issue its next tick packet, which has n before it (R82). -/
def tickOpen (s : State) (t : Task) (core : Nat) (i : CtxId) (n : Nat) : Bool :=
  match gangOf s t.gang with
  | none => true
  | some g => g.cores.all (fun m => m == core || tickMet (ctxOf s m i) n)

/-- Whether a packet is squashed (R47). -/
def squashed (c : Ctx) (h : Head) : Bool := c.pred h.pred == h.sense

/-! Pops (R47, R70, R142). -/

/-- The register that a pop from a side writes. -/
def popReg : Side → RegNo
  | .left => 60#6
  | .right => 61#6

/-- Whether a pop can be made: its FIFO holds an entry and its register is full (R64, R81). -/
def popReady (c : Ctx) (d : Side) : Bool := !(c.fifo d).isEmpty && c.fullX (popReg d)

/-- A context after a pop; what happens before the push happens before what follows the pop. -/
def Ctx.popSide (c : Ctx) (d : Side) : Ctx :=
  match c.fifo d with
  | [] => c
  | t :: rest => { (c.setFifo d rest).popX (popReg d) t.val with hb := unionNat c.hb t.hb }

/-- A context after a packet's pops. -/
def popAll (h : Head) (c : Ctx) : Ctx :=
  let c := if h.popl then c.popSide .left else c
  if h.popr then c.popSide .right else c

/-! The issue rule (R81). -/

/-- Entries that a packet pushes to a side. -/
def pushCount (h : Head) (l : List Instr) (d : Side) : Nat :=
  (l.filter (fun w =>
    match w with
    | .pshv _ _ e => e == d
    | _ => false)).length + (if (match d with
      | .left => h.pushl
      | .right => h.pushr) then 1 else 0)

/-- Whether a FIFO has room for what a packet pushes into it (R70). -/
def pushRoom (k : Core) (i : CtxId) (h : Head) (l : List Instr) (d : Side) : Bool :=
  pushCount h l d == 0 || decide (outCount k i d + pushCount h l d ≤ 16)

/-- The instructions of a packet's words. -/
def instrsOf (l : List SlotWord) : List Instr :=
  l.filterMap (fun x =>
    match x.dec with
    | .ok i => some i
    | .error _ => none)

/-- Whether everything but queue room lets a packet issue. snap is the context after the pops. -/
def packetReady (s : State) (core : Nat) (i : CtxId) (h : Head) (snap : Ctx) (l : List SlotWord) : Bool :=
  let k := coreOf s core
  let w := instrsOf l
  l.all (fun x => needsMet snap (x.needs k snap)) && w.all (fun x => wordOwnReady s core i snap.seq x)
  && pushRoom k i h w .left && pushRoom k i h w .right

/-- The classes of a packet's words whose queue has no room (R81): a word targets the queue of its class, MFMT that of the matrix
engine, which it does not enter (R259; log entry 96). -/
def fullQueues (s : State) (core : Nat) (i : CtxId) (l : List SlotWord) : List Cls :=
  (l.filterMap (fun x => rawCls x.raw)).filter (fun e => !queueRoom s core e i)

/-- A context waits for room in queues (R83). -/
def waitFor (s : State) (core : Nat) (i : CtxId) (l : List Cls) : State :=
  modCore s core (fun k =>
    { k with waiting := l.foldl (fun w e => kput w e.code (insertNat (kgetD w e.code []) i.num)) k.waiting })

/-! The faults of a packet (R169). -/

/-- The reserved-field fault of a slot (R49 check 5, R53): where the op is not assigned, it names field 1, but a register-source
entry of a matrix template that breaks R243 comes first (R294; log entry 38), and a marked slot's image is not known (R132). -/
def SlotWord.reserved (x : SlotWord) (f : Issue) (s : State) : Option (Nat × Word) :=
  match x.dec, rawCls x.raw with
  | .ok i, _ => earlyReserved i { f with slot := x.slot } s
  | .error _, some e =>
    let k := coreOf s f.core
    let tpl := fld x.raw 22 6
    if (k.tpl e tpl).mark.isSome then none
    else
      let c := formImage e f.snap (k.tpl e tpl).img (fld x.raw 16 6) (fld x.raw 0 16)
      some (3, fieldVal x.slot (if e = .matrix then (reservedEntry e c).getD 1 else 1) tpl)
  | .error _, none => none

/-- The operand or address fault of a slot, a reserved field of a copy or Prism template first (R276, R315); that of a word
whose op is not assigned is its template's mark (R132). -/
def SlotWord.address (x : SlotWord) (f : Issue) (s : State) : Option (Nat × Word) :=
  match x.dec, rawCls x.raw with
  | .ok i, _ => (lateReserved i { f with slot := x.slot } s).or (addressFault i { f with slot := x.slot } s)
  | .error _, some e => ((coreOf s f.core).tpl e (fld x.raw 22 6)).mark.map (fun m => (m.code, m.addr))
  | .error _, none => none

/-- The target fault of a slot. -/
def SlotWord.flow (x : SlotWord) (f : Issue) (s : State) : Option (Nat × Word) :=
  match x.dec with
  | .ok i => flowFault i { f with slot := x.slot } s
  | .error _ => none

/-- FE_TRAP's fault of a slot (R64). -/
def SlotWord.empty (x : SlotWord) (k : Core) (c : Ctx) : Option (Nat × Word) :=
  (emptySource c (x.needs k c)).map (fun r => (4, BitVec.ofNat 64 (x.slot * 2 ^ 32 + r.toNat)))

/-- A fault of items 3 to 7 of R169: the first kind that a slot has, in slot order. -/
def packetFault (f : Issue) (s : State) (l : List SlotWord) : Option (Nat × Word) :=
  let k := coreOf s f.core
  (l.findSome? (fun x => x.reserved f s)).or
    ((l.findSome? (fun x => markedSource f.snap (x.needs k f.snap))).or
      ((l.findSome? (fun x => x.empty k f.snap)).or
        ((l.findSome? (fun x => x.address f s)).or (l.findSome? (fun x => x.flow f s)))))

/-- The word of a loop whose loop is active already (R72, R73). -/
def loopFault (c : Ctx) (l : List SlotWord) : Option (Nat × Word) :=
  (l.find? (fun x =>
    match x.dec with
    | .ok i => loopBusy c i
    | .error _ => false)).map (fun x => (2, wordVal x.slot x.raw))

/-! Flow at the packet's end (R74 to R77). -/

/-- The address after a packet; bits [63:48] of pc are 0 (R67). -/
def afterPacket (pc : Word) : Word := (pc + 16#64) &&& 0x0000FFFFFFFFFFFF#64

/-- The inner loop ends if it is active (R74). -/
def Ctx.endInner (c : Ctx) : Ctx := if lcAct c.lc0 then { c with lc0 := lcOff c.lc0 }.clearStage else c

/-- The outer boundary, where the packet is the outer loop's last (R75). -/
def Ctx.outerStep (c : Ctx) (pc : Word) : Ctx × Option Word :=
  if lcAct c.lc1 ∧ pc.toNat = lcEnd c.lc1 then
    let j := (li1J c.li1 + 1) % 2 ^ 32
    let d := { c with li1 := BitVec.ofNat 64 (li1N c.li1 * 2 ^ 32 + j) }
    if j < li1N c.li1 then (d.endInner, some (BitVec.ofNat 64 (lcStart c.lc1)))
    else ({ d with lc1 := lcOff d.lc1 }.endInner, some (afterPacket pc))
  else (c, none)

/-- The step boundary and outer boundary of a packet that takes no branch: the context, and the next pc where a boundary sets
it (R74, R75). -/
def Ctx.boundary (c : Ctx) (pc : Word) : Ctx × Option Word :=
  if lcAct c.lc0 ∧ pc.toNat = lcEnd c.lc0 then
    let d := { c with li0 := c.li0 + 1#64 }.shiftBlock
    if d.li0.toNat + 2 ≤ skN d.sk0 + skK d.sk0 then (d.setStage, some (BitVec.ofNat 64 (lcStart d.lc0)))
    else
      let r := d.endInner.outerStep pc
      (r.1, some (r.2.getD (afterPacket pc)))
  else c.outerStep pc

/-- The loops after a taken branch at pc: each loop whose body the target leaves ends (R76). -/
def Ctx.branchOut (c : Ctx) (pc target : Word) : Ctx :=
  let inside := (lcAct c.lc0 && lcHolds c.lc0 pc.toNat) || (lcAct c.lc1 && lcHolds c.lc1 pc.toNat)
  if !inside then c
  else
    let d := if lcHolds c.lc0 target.toNat then c else c.endInner
    if lcAct c.lc1 && !lcHolds c.lc1 target.toNat then { d with lc1 := lcOff d.lc1 } else d

/-- The context and its next pc at the end of a packet at pc; f is the packet's frame (R74 to R76). -/
def Ctx.flowOn (c : Ctx) (pc : Word) (f : Issue) : Ctx :=
  match f.next, f.loop with
  | some t, false => { c.branchOut pc t with pc := t }
  | n, _ =>
    let r := c.boundary pc
    { r.1 with pc := r.2.getD (n.getD (afterPacket pc)) }

/-! The packet's effect (R47). -/

/-- The frame in which a packet's words act. -/
def frameOf (s : State) (core : Nat) (i : CtxId) (pc : Word) (snap : Ctx) (l : List Instr) : Issue :=
  let v := (coreOf s core).vec
  { core := core, ctx := i, slot := 0, pc := pc, snap := snap, vtype := v.vtype, vwin := v.vwin, ports := v.ports,
    tpc := l.foldl (fun t w =>
      match w with
      | .csrw .tpc xa _ => snap.readX xa
      | _ => t) snap.tpc
    checked := true, next := none, loop := false, pushes := [], trap := none, bsc := none, eret := false, tend := false,
    prack := false }

/-- A word acts in its slot. -/
def actIn (s : State) (x : SlotWord) : State :=
  match x.dec with
  | .error _ => s
  | .ok i =>
    match runWord i (setFrame s (fun f => { f with slot := x.slot })) with
    | .next t => t
    | .fault _ | .refused _ => s

/-- The entries that a packet pushes, PSHV words first (R47 step 5). -/
def pushesOf (h : Head) (f : Issue) : List (Side × Word) :=
  f.pushes ++ (if h.pushl then [(Side.left, 0#64)] else []) ++ (if h.pushr then [(Side.right, 0#64)] else [])

/-- Entries on their way, with what they cover (R142). -/
def pushAll (s : State) (core : Nat) (i : CtxId) (l : List (Side × Word)) : State :=
  let waits := ownPending s core i
  let cmds := if i = .C then vectorPending s core else []
  let hb := coveredAt s core i
  if l.isEmpty then s
  else modCtx s core i (fun c => { c with outs := c.outs ++ l.map (fun p => ⟨p.1, p.2, waits, cmds, hb⟩) })

/-- TEND: the context ends; in a handler its fault is returned to the scheduler (R133, R164). -/
def endContext (s : State) (core : Nat) (i : CtxId) (inh : Bool) : State :=
  let c := ctxOf s core i
  let s := setCtx s core i { c with ended := true }
  if inh then returnFault s core i (wbits c.tcause 15 0) c.tpc else s

/-- What takes effect last: ERET, then TRAP, then TEND, then the boundary after PRACK (R47 step 6, R130, R131, R133,
R383). -/
def lastEffects (s : State) (core : Nat) (i : CtxId) (f : Issue) : State :=
  let s := if f.eret then eret s core i else s
  let c := ctxOf s core i
  let s := match f.trap with
    | some n => takeTrap s core i c.pc (BitVec.ofNat 64 n) (Cause.own 0xA)
    | none => s
  let s := if f.tend then endContext s core i c.inh else s
  if f.prack then prackGang s core else s

/-- The context's counts after a packet has issued: its hold, its place, and its tick (R81, R82). -/
def Ctx.issued (c : Ctx) (h : Head) : Ctx :=
  { c with
    hold := h.hold + 1
    ticks := if h.tick then c.ticks + 1 else c.ticks
    tickWait := false
    seq := c.seq + 1 }

/-- A packet whose words have acted is over: block shifts of CSRW, loops and the next pc, pushes, and what comes last. A CSRW of
bsc shifts before the boundary of its packet does (log entry 32). -/
def closePacket (s : State) (core : Nat) (i : CtxId) (h : Head) (f : Issue) (pushes : List (Side × Word)) : State :=
  let s := { s with issue := none }
  let s := pushAll s core i pushes
  let s := modCtx s core i (fun c =>
    let c := match f.bsc with
      | some b => c.shiftBlocks (b - c.bsc).toNat
      | none => c
    (c.flowOn f.pc f).issued h)
  lastEffects s core i f

/-- A packet that the issue rule lets issue takes effect (R47). -/
def runPacket (s : State) (core : Nat) (i : CtxId) (h : Head) (f : Issue) (l : List SlotWord) : State :=
  let s := l.foldl actIn { setCtx s core i f.snap with issue := some f }
  let f := s.issue.getD f
  closePacket s core i h f (pushesOf h f)

/-- A squashed packet issues (R47 step 1). -/
def runSquashed (s : State) (core : Nat) (i : CtxId) (h : Head) (pc : Word) : State :=
  closePacket s core i h (frameOf s core i pc (ctxOf s core i) []) []

/-- A precise fault of the packet at pc; its context waits for no queue any more. -/
def packetTrap (s : State) (core : Nat) (i : CtxId) (pc : Word) (code : Nat) (v : Word) : State :=
  raise (modCore s core (fun k => k.leaveWait i)) core i pc code v

/-- The instant of the clock: two steps at one instant stand in one cycle. -/
def instant (s : State) : Nat := 2 * s.tsc + (if s.half then 1 else 0)

/-- Whether a packet with a word for an engine comes too late for its cycle: a later context has issued one in it (R11). -/
def slotPassed (s : State) (core : Nat) (i : CtxId) (l : List SlotWord) : Bool :=
  let k := coreOf s core
  l.any (fun x => (rawCls x.raw).isSome) && k.slotAt == instant s && decide (i.num < k.slotMax)

/-- A packet with a word for an engine has issued in its cycle (R11). -/
def markSlot (s : State) (core : Nat) (i : CtxId) (l : List SlotWord) : State :=
  if l.any (fun x => (rawCls x.raw).isSome) then
    modCore s core (fun k => { k with slotAt := instant s, slotMax := i.num })
  else s

/-- What check 2 leaves for the issue of a packet: a completion register that a command has taken from a register (R12, R48), and
a loop word whose loop is active (R72, R73). A word that takes it from an empty or marked register takes none: its packet does not
issue (R64, R110). -/
def issueFault (k : Core) (snap : Ctx) (h : Head) (l : List SlotWord) : Option (Nat × Word) :=
  let known (x : SlotWord) : Bool :=
    let n : Needs := ⟨x.doneFrom k snap, [], []⟩
    (emptySource snap n).isNone && (markedSource snap n).isNone
  if completionClash k snap (l.filter known) then some (1, h.raw.setWidth 64) else loopFault snap l

/-- A packet that is not squashed: it waits, faults or issues (R64, R81, R169). -/
def tryPacket (s : State) (core : Nat) (i : CtxId) (h : Head) (b : List Byte) : State :=
  let c := ctxOf s core i
  if (h.popl && !popReady c .left) || (h.popr && !popReady c .right) then s
  else
    let snap := popAll h c
    let l := packetWords (coreOf s core) snap b
    if !packetReady s core i h snap l then s
    else if !(fullQueues s core i l).isEmpty then waitFor s core i (fullQueues s core i l)
    else if slotPassed s core i l then s
    else
      let f := frameOf s core i c.pc snap (instrsOf l)
      match (issueFault (coreOf s core) snap h l).or (packetFault f s l) with
      | some (code, v) => packetTrap s core i c.pc code v
      | none => runPacket (markSlot s core i l) core i h f l

/-- A packet that has been fetched: the checks, its tick, and squashing. A context that has reached a tick packet waits at it until
it issues, whatever holds it (R82). A squashed packet reads no register, so a completion register that it would take from one is not
judged (log entry 95). -/
def considerPacket (s : State) (t : Task) (core : Nat) (i : CtxId) (b : List Byte) : State :=
  let c := ctxOf s core i
  let k := coreOf s core
  let h := headOf (packetPart b 0)
  match decodeFault k c t.priv i h (packetWords k c b) with
  | some (code, v) => packetTrap s core i c.pc code v
  | none =>
    let s := if h.tick then modCtx s core i (fun c => { c with tickWait := true }) else s
    if h.tick && !tickOpen s t core i c.ticks then s
    else if squashed c h then runSquashed s core i h c.pc
    else tryPacket s core i h b

/-! Fetching (R120). -/

/-- A packet's bytes, or what its fetch meets. -/
inductive Fetched where
  | bytes (b : List Byte)
  | range
  | error (code : Nat) (ipa : Nat) (l : Loc) (leaf : Word)
  | miss (ipa : Nat) (bad : Bool)
  | wait
  deriving DecidableEq, Repr

/-- The packet at pc, read through the range table with execute permission. -/
def fetch (s : State) (t : Task) (core : Nat) (pc : Word) : Fetched :=
  if aperture t pc ≠ .shared then .range
  else
    match sharedDest t pc .exec with
    | .error _ => .range
    | .ok d =>
      match judgeRead s core t.part t.asid t.gen d 16, findDest s t.part t.asid t.gen d false with
      | .ok l _, _ => .bytes (viewBytes s core t.part d (locBytes s l 16))
      | .err code l leaf, _ => .error code d.ipaOr l leaf
      | .wait, .miss bad => .miss d.ipaOr bad
      | .wait, .place _ _ => .wait

/-- The state after a packet's fetch, which has used its leaf (R177, R178). -/
def fetchUse (s : State) (t : Task) (pc : Word) : State :=
  match sharedDest t pc .exec with
  | .error _ => s
  | .ok d => useLeaf s t.part t.asid t.gen d

/-- Whether a task's gang lets its contexts issue: its stall wire is down, and no pre-emption has stopped it (R84, R187). -/
def issueOpen (s : State) (t : Task) : Bool :=
  match gangOf s t.gang with
  | none => true
  | some g => !g.stalled && !g.stopping && !g.saved

/-- PACKET_ISSUE: a context issues the packet at its pc, if the issue rule lets it (R47, R81). A pending report is delivered
before (R169, R170). -/
def execPacketIssue (core : Nat) (ctx : CtxId) (s : State) : Host.Outcome State Fault Refusal :=
  .next (match taskOf s core with
    | none => s
    | some t =>
      let c := ctxOf s core ctx
      if c.ended || c.stopped || !issueOpen s t || c.hold != 0 || !c.images.isEmpty || fenceDue s core ctx then s
      else
        match (if c.inh then none else firstReport c.reports) with
        | some r => deliverReport s core ctx r
        | none =>
          match fetch s t core c.pc with
          | .bytes b => considerPacket (fetchUse s t c.pc) t core ctx b
          | .range => packetTrap s core ctx c.pc 5 c.pc
          | .error code ipa l leaf =>
            let s := consume s t.part core 16 (some ctx) c.pc ipa code l leaf
            if code = 8 ∧ leafPpol leaf = 2 then s else packetTrap s core ctx c.pc code c.pc
          | .miss ipa bad => raiseNotice s t.part t.asid t.gen 2 core (some t.gang) ipa bad (.fetch ctx)
          | .wait => s)

end Sys2Proof.Machine
end

