-- ==== Sys2Proof/Machine/Schedule.lean ====
section
/-! DEFINITION. Which step comes next, the frame around every step, and how a word is placed for the next fetch (log
entries 1 and 9). -/

namespace Sys2Proof.Machine

/-! The next step. -/

/-- The steps that a context could take. -/
def ctxSteps (core : Nat) (c : Core) (i : CtxId) : List Instr :=
  let x := c.ctx i
  (if x.ended || x.stopped then [] else [.packetIssue core i])
  ++ (if x.reports.isEmpty then [] else [.pendingReportDelivery core i])
  ++ (if x.hold = 0 then [] else [.holdExpiry core i])
  ++ x.fences.map (fun f => .fenceComplete core i f.id)

/-- The queues of a core for which contexts contend. -/
def contended (core : Nat) (c : Core) : List Instr :=
  [Cls.vector, .matrix, .copy, .atomic, .prism, .stash, .line, .sched].filterMap (fun e =>
    if (queueWaiting c e).length < 2 then none else some (.queueEntryGrant core e))

/-- The steps that a core could take. -/
def coreSteps (core : Nat) (c : Core) : List Instr :=
  if c.task.isNone then []
  else
    ctxSteps core c .L ++ ctxSteps core c .C ++ ctxSteps core c .S
    ++ (if c.ctxL.ended && c.ctxC.ended && c.ctxS.ended then [.taskRetire core] else [])
    ++ [.trackerAdmit core, .vectorWordComplete core] ++ contended core c

/-- The step that an access waits for. -/
def accStep (s : State) (a : Access) : Instr :=
  match (if a.granted then none else a.spPlace s), a.kind with
  | some (c, o), _ => .bankGrant c (bankOf o)
  | none, .tpl => .templateImageArrival a.id
  | none, .load | none, .loadn | none, .ldc => .loadFill a.id
  | none, .store | none, .eng | none, .vec | none, .acc => .storePerform a.id true

/-- The step that a command waits for. -/
def cmdStep (c : Cmd) : Instr :=
  match c.cls, c.phase with
  | .atomic, _ | .sched, _ => .replyFill c.id
  | .vector, _ => .vectorWordComplete c.core
  | _, .queued => .trackerAdmit c.core
  | _, .admitted => .commandStart c.id
  | _, .finished => .commandComplete c.id
  | _, _ => .engineMicroOp c.id

/-- The steps that a partition could take; the scan places the firings of a period too (R397). -/
def partSteps (n : Nat) (p : Partition) : List Instr :=
  (if p.queues.isEmpty && !p.boundary && !p.rootDue && (busySlots p).isEmpty then [] else [.schedulerScan n])
  ++ (if p.pendNotices.isEmpty then [] else [.noticeQueueWrite n .notice])
  ++ (if p.pendRecords.isEmpty then [] else [.noticeQueueWrite n .machineCheck])

/-- The steps that could come next of themselves. An event of another kind comes when the agenda lists it (log entry 1). -/
def moduleSteps (s : State) : List Instr :=
  s.cores.flatMap (fun k => coreSteps k.1 k.2) ++ s.acc.map (accStep s) ++ s.cmds.map cmdStep
  ++ s.parts.flatMap (fun p => partSteps p.1 p.2)

/-- The next step: the first of the agenda, else one of the module's own, taken in rotation (log entry 1). -/
def nextStep (s : State) : Instr :=
  match s.agenda with
  | e :: _ => e
  | [] =>
    let l := moduleSteps s
    l.getD ((2 * s.tsc + (if s.half then 1 else 0)) % l.length) (.packetIssue 0 .L)

/-- The state without the step that is being taken. -/
def takeAgenda (s : State) : State := { s with agenda := s.agenda.drop 1 }

/-- Cycles that pass with a step: the next of the pace, else one. -/
def paceOf (s : State) : Nat :=
  match s.pace with
  | n :: _ => n
  | [] => 1

/-- What follows every step: the clock runs, and pushes that may do so enter their FIFOs. -/
def afterStep (s : State) : State := settle { advance s (paceOf s) with pace := s.pace.drop 1 }

/-! Placing a word (log entry 9). -/

/-- A valid leaf of home 00 for a page frame, and a table pointer (R175). -/
def leafWord (pa : Nat) : Word := BitVec.ofNat 64 (2 ^ 63 + pa + 2)
def pointerWord (pa : Nat) : Word := BitVec.ofNat 64 (2 ^ 63 + pa)

/-- Memory with four tables that map page 1 of ASID 1 to the frame at 0x10000. -/
def fetchTables (m : Memory) : Memory :=
  memWrite (memWrite (memWrite (memWrite m 0x1000 (wordBytes (pointerWord 0x2000)))
    0x2000 (wordBytes (pointerWord 0x3000))) 0x3000 (wordBytes (pointerWord 0x4000)))
    0x4008 (wordBytes (leafWord 0x10000))

/-- The task under which a placed word runs. -/
def fetchTask : Task :=
  { gang := 0, part := 0, asid := 1, gen := 0, priv := true, lwb := 0x100000#64, cwb := 0x800000#64, gid := 0, tid := 0,
    sid := 0, tag := 0, grp := 0, kind := 0, fenced := false, rset := 0#64, rcnt := 1,
    ranges := [⟨true, 1, 2, 0, 0, true, true, true⟩] }

/-- The gang of that task. -/
def fetchGang : Gang :=
  { part := 0, asid := 1, gen := 0, cores := [0], priv := true, record := [], grid := 1, gid := 0,
    pos := 0, budget := 2 ^ 40, notices := [], watch := [], flag := none, stopping := false, saved := false,
    retired := false, preloaded := false,
    placedAt := 0, firing := none, securing := false, tag := 0, sid := 0, kind := 0 }

/-- The context that may issue a word of a class. -/
def fetchCtx (w : IWord) : CtxId := if fld w 28 4 = 8 ∨ fld w 28 4 = 9 then .C else .L

/-- The packet that holds a word: slot c for a branch, else slot a (R46). -/
def fetchBytes (w : IWord) : List Byte :=
  if fld w 28 4 = 3 then natBytes 0 12 ++ natBytes w.toNat 4 else natBytes 0 4 ++ natBytes w.toNat 4 ++ natBytes 0 8

/-- A context ready to issue its packet at 0x10000. -/
def Ctx.ready (c : Ctx) : Ctx :=
  { c with pc := 0x10000#64, hold := 0, images := [], tickWait := false, ended := false, stopped := false, reports := [], fences := [] }

/-- A template whose op is 1, in the slot that a P-form word names. -/
def fetchSlot (c : Core) (w : IWord) : Core :=
  let t : TplSlot := ⟨BitVec.ofNat 512 (2 ^ 58), none⟩
  match fld w 28 4 with
  | 9 => { c with mx := kput c.mx (fld w 22 6) t }
  | 10 => { c with cp := kput c.cp (fld w 22 6) t }
  | 12 => { c with xe := kput c.xe (fld w 22 6) t }
  | _ => c

/-- A core with the placed word's task. -/
def fetchCore (c : Core) (w : IWord) : Core :=
  let c := { fetchSlot c w with task := some fetchTask, slotMax := 0 }
  c.setCtx (fetchCtx w) (c.ctx (fetchCtx w)).ready

/-- The state whose next step issues a packet that holds one word. -/
def placeWord (s : State) (w : IWord) : State :=
  { setCore s 0 (fetchCore (coreOf s 0) w) with
    mem := memWrite (fetchTables s.mem) 0x10000 (fetchBytes w)
    poison := [], bad := [], tcache := [], wcache := [], l2 := []
    gangs := kput s.gangs 0 fetchGang
    parts := kput s.parts 0
      { (partOf s 0).getD (Partition.fresh [0]) with roots := kput [] 1 0x1000, gens := [], curAsid := 1 }
    boot := .ready, units := Units.reset, issue := none
    agenda := [.packetIssue 0 (fetchCtx w)] }

end Sys2Proof.Machine
end

