-- ==== Sys2Proof/Machine/Step.lean ====
section
/-! DEFINITION. One step of the module, and the placing of one word where the next step fetches. -/

namespace Sys2Proof.Machine

/-- One step: the next event acts, the clock runs, and pushes enter their FIFOs. -/
def step (s : State) : Host.Outcome State Fault Refusal :=
  match exec (nextStep s) (takeAgenda s) with
  | .next t => .next (afterStep t)
  | .fault r => .fault r
  | .refused r => .refused r

/-- The state in which the next step fetches and issues a packet that holds the word (log entry 9). -/
def State.withFetchWord (s : State) (_nbits w : Nat) : State := placeWord s (BitVec.ofNat 32 w)

end Sys2Proof.Machine
end

