-- ==== Sys2Proof/Safety.lean ====
section
/-! DEFINITION. The terms in which claims are made: what a step leaves as it was, and what a word of a packet does to its
context, its packet, and the engines' queues. -/

namespace Sys2Proof.Machine

/-! The helpers of the spec's pseudocode (R88, R99). -/

/-- An integer reduced modulo 2^64 (R88). -/
def w64 (v : Int) : Word := BitVec.ofInt 64 v

/-- The w low bits of v, sign-extended to 64 bits; 0 where w is 0 (R88, R100). -/
def sextNat (v w : Nat) : Word :=
  if w = 0 then 0#64 else if v % 2 ^ w < 2 ^ (w - 1) then w64 (v % 2 ^ w : Nat) else w64 ((v % 2 ^ w : Nat) - 2 ^ w)

/-- Memory and every scratchpad are in canonical form: addresses strictly rising, and no byte listed that reads as 0 anyway. -/
def State.memoryWf (s : State) : Bool := s.mem.wf && s.cores.all (fun k => k.2.sp.wf)

/-- The words of a packet act in frame f: the packet has been fetched, popped and checked, and issues (R47, R169). -/
def Acting (s : State) (f : Issue) : Prop := s.issue = some f ∧ f.checked = true

/-- Every byte of memory and of every scratchpad reads in t as it does in s. -/
def SameBytes (s t : State) : Prop :=
  (∀ a, memByte t.mem a = memByte s.mem a) ∧
  ∀ n a, memByte (coreOf t n).sp a = memByte (coreOf s n).sp a

/-- Of the whole state, t differs from s at most in the cores, the packet's frame, the accesses and commands that have
issued, and the number of the next one. -/
def OnlyIssued (s t : State) : Prop :=
  { t with cores := s.cores, issue := s.issue, acc := s.acc, cmds := s.cmds, nextId := s.nextId } = s

/-- Of the cores, t differs from s at most in one context of one core. -/
def OnlyContext (s t : State) (core : Nat) (i : CtxId) : Prop :=
  (∀ n, n ≠ core → coreOf t n = coreOf s n) ∧ (coreOf t core).setCtx i (ctxOf s core i) = coreOf s core

/-- Of a context, d differs from c at most in its registers and in what it has acquired by reading them (R142). -/
def OnlyRegs (c d : Ctx) : Prop := { d with x := c.x, hb := c.hb } = c

/-- A register holds in d what it holds in c: value, mark and pending fills. -/
def SameReg (c d : Ctx) (q : RegNo) : Prop :=
  (d.reg q).val = (c.reg q).val ∧ (d.reg q).mark = (c.reg q).mark ∧ (d.reg q).pend = (c.reg q).pend ∧
  (d.reg q).rank = (c.reg q).rank

/-- Accesses, commands, their numbers and the packet's frame are as before. -/
def NothingIssued (s t : State) : Prop :=
  t.issue = s.issue ∧ t.acc = s.acc ∧ t.cmds = s.cmds ∧ t.nextId = s.nextId

/-- A word's whole frame: nothing changes but its context, and there but registers. -/
def RegFrame (s t : State) (f : Issue) : Prop :=
  OnlyIssued s t ∧ NothingIssued s t ∧ SameBytes s t ∧ OnlyContext s t f.core f.ctx ∧
  OnlyRegs (ctxOf s f.core f.ctx) (ctxOf t f.core f.ctx)

/-- The word completes by writing v to register xd, which holds no fault mark then; x0 stays zero (R62, R110). Every other
register and all other state keep their values. -/
def Gives (i : Instr) (s : State) (f : Issue) (xd : RegNo) (v : Word) : Prop :=
  ∃ t, exec i s = .next t ∧ RegFrame s t f ∧
    (xd ≠ 0#6 → ((ctxOf t f.core f.ctx).reg xd).val = v ∧ ((ctxOf t f.core f.ctx).reg xd).mark = none ∧
      ((ctxOf t f.core f.ctx).reg xd).pend = ((ctxOf s f.core f.ctx).reg xd).pend) ∧
    ∀ q, q ≠ xd ∨ q = 0#6 → SameReg (ctxOf s f.core f.ctx) (ctxOf t f.core f.ctx) q

/-- The word completes by making predicate n, of p8 to p15, b (R103). Every register, every other predicate and all other
state keep their values. -/
def Decides (i : Instr) (s : State) (f : Issue) (n : Nat) (b : Bool) : Prop :=
  ∃ t, exec i s = .next t ∧ OnlyIssued s t ∧ NothingIssued s t ∧ SameBytes s t ∧ OnlyContext s t f.core f.ctx ∧
    OnlyRegs (ctxOf s f.core f.ctx) { ctxOf t f.core f.ctx with p := (ctxOf s f.core f.ctx).p } ∧
    (∀ q, SameReg (ctxOf s f.core f.ctx) (ctxOf t f.core f.ctx) q) ∧
    (ctxOf t f.core f.ctx).pred n = b ∧
    ∀ m, m ≠ n → (ctxOf t f.core f.ctx).pred m = (ctxOf s f.core f.ctx).pred m

/-- The word completes by changing the packet's frame to g. Every register and all other state keep their values. -/
def Steers (i : Instr) (s : State) (f : Issue) (g : Issue) : Prop :=
  ∃ t, exec i s = .next t ∧ t.issue = some g ∧ OnlyIssued s t ∧ t.acc = s.acc ∧ t.cmds = s.cmds ∧ t.nextId = s.nextId ∧
    SameBytes s t ∧ OnlyContext s t f.core f.ctx ∧ OnlyRegs (ctxOf s f.core f.ctx) (ctxOf t f.core f.ctx) ∧
    ∀ q, SameReg (ctxOf s f.core f.ctx) (ctxOf t f.core f.ctx) q

/-- Register q keeps its value and its mark and becomes empty until the fill that access or command n makes arrives for it, behind
those that it waits for already (R63). x0 is never empty. -/
def Empties (c d : Ctx) (q : RegNo) (n slot : Nat) : Prop :=
  (d.reg q).val = (c.reg q).val ∧ (d.reg q).mark = (c.reg q).mark ∧
  (q ≠ 0#6 → (d.reg q).pend = (c.reg q).pend ++ [⟨n, slot, 0⟩])

/-- The word completes by issuing the access a, which holds its address, its size, and whether its bytes are sign-extended. Registers
in fills wait for the fill that this access makes and keep their values; every other register and all other state stay as they
are. -/
def Accesses (i : Instr) (s : State) (f : Issue) (a : Access) (fills : List RegNo) : Prop :=
  ∃ t, exec i s = .next t ∧ t.acc = s.acc ++ [a] ∧ t.nextId = s.nextId + 1 ∧ t.issue = s.issue ∧ t.cmds = s.cmds ∧
    OnlyIssued s t ∧ SameBytes s t ∧ OnlyContext s t f.core f.ctx ∧
    OnlyRegs (ctxOf s f.core f.ctx) (ctxOf t f.core f.ctx) ∧
    (∀ q, q ∈ fills → Empties (ctxOf s f.core f.ctx) (ctxOf t f.core f.ctx) q a.id f.slot) ∧
    ∀ q, q ∉ fills ∨ q = 0#6 → SameReg (ctxOf s f.core f.ctx) (ctxOf t f.core f.ctx) q

/-- Of a core, l differs from k at most in one context and in how its engine queues are shared (R83). -/
def OnlyQueues (k l : Core) (i : CtxId) : Prop :=
  { l.setCtx i (k.ctx i) with grants := k.grants, won := k.won, waiting := k.waiting } = k

/-- t is s with a command c sent to the queue of its engine (R11). Its reply registers, those in fills, become empty and keep
their values until the command fills them (R19, R63); every other register and all other state stay as they are. -/
def SentTo (s t : State) (f : Issue) (fills : List RegNo) (c : Cmd) : Prop :=
  t.cmds = s.cmds ++ [c] ∧ t.nextId = s.nextId + 1 ∧ t.issue = s.issue ∧ t.acc = s.acc ∧
    OnlyIssued s t ∧ SameBytes s t ∧ (∀ n, n ≠ f.core → coreOf t n = coreOf s n) ∧
    OnlyQueues (coreOf s f.core) (coreOf t f.core) f.ctx ∧
    OnlyRegs (ctxOf s f.core f.ctx) (ctxOf t f.core f.ctx) ∧
    (∀ q, q ∈ fills → q ≠ 0#6 → (ctxOf t f.core f.ctx).fullX q = false) ∧
    (∀ q, (ctxOf t f.core f.ctx).readX q = (ctxOf s f.core f.ctx).readX q) ∧
    ∀ q, q ∉ fills ∨ q = 0#6 → SameReg (ctxOf s f.core f.ctx) (ctxOf t f.core f.ctx) q

/-- Of a state, t differs from s at most in the cores and in what has been preloaded for the gang of a core's task, which a fault
discards (R390). -/
def OnlyCores (s t : State) (core : Nat) : Prop :=
  { t with cores := s.cores, gangs := s.gangs } = s ∧
  ∀ n, gangOf t n = (gangOf s n).map (fun g =>
    if (taskOf s core).map (fun k => k.gang) = some n then { g with preloaded := false } else g)

/-- The word completes by sending a command c. -/
def Sends (i : Instr) (s : State) (f : Issue) (fills : List RegNo) (c : Cmd) : Prop :=
  ∃ t, exec i s = .next t ∧ SentTo s t f fills c

/-- What every command holds as it is sent: its word, its place, its engine, its number, and its context's packet (R11). -/
def Cmd.sentBy (c : Cmd) (i : Instr) (e : Cls) (s : State) (f : Issue) : Prop :=
  c.instr = i ∧ c.cls = e ∧ c.core = f.core ∧ c.ctx = f.ctx ∧ c.slot = f.slot ∧ c.seq = f.snap.seq ∧
  c.id = s.nextId ∧ c.disp = s.nextId ∧ c.phase = .queued ∧ c.upc = 0 ∧ c.code = 0 ∧ c.value = 0 ∧ c.fault = 0

/-! Fills, writes and messages. -/

/-- Of the cores, t differs from s at most in one. -/
def OnlyCore (s t : State) (core : Nat) : Prop := ∀ n, n ≠ core → coreOf t n = coreOf s n

/-- Register q of a context waits for one fill, which n makes, and no later writer of its packet has replaced it (R63, R107). -/
def Awaits (c : Ctx) (q : RegNo) (n : Nat) : Prop :=
  q ≠ 0#6 ∧ ∃ slot, (c.reg q).pend = [⟨n, slot, 0⟩] ∧ (c.reg q).rank ≤ slot + 1

/-- A context of a core has taken the fill that n makes: a register that waits for it is full, with value v and mark m.
Registers to which n makes no fill, and all else in the cores, stay as they are. -/
def Filled (s t : State) (core : Nat) (i : CtxId) (n : Nat) (v : Word) (m : Option Mark) : Prop :=
  OnlyContext s t core i ∧ OnlyRegs (ctxOf s core i) (ctxOf t core i) ∧
  (∀ q, Awaits (ctxOf s core i) q n →
    ((ctxOf t core i).reg q).val = v ∧ ((ctxOf t core i).reg q).mark = m ∧ ((ctxOf t core i).reg q).pend = []) ∧
  ∀ q, (∀ p ∈ ((ctxOf s core i).reg q).pend, p.id ≠ n) → SameReg (ctxOf s core i) (ctxOf t core i) q

/-- Each register of a context that waits for the one fill that n makes is full in t, with value v and mark m. -/
def Takes (s t : State) (core : Nat) (i : CtxId) (n : Nat) (v : Word) (m : Option Mark) : Prop :=
  ∀ q, Awaits (ctxOf s core i) q n →
    ((ctxOf t core i).reg q).val = v ∧ ((ctxOf t core i).reg q).mark = m ∧ ((ctxOf t core i).reg q).pend = []

/-- Of all memories, t differs from s in the bytes written at a place and in no other. -/
def Wrote (s t : State) (l : Loc) (data : List Byte) : Prop :=
  match l with
  | .pa p =>
    (∀ n a, memByte (coreOf t n).sp a = memByte (coreOf s n).sp a) ∧
    ∀ a, memByte t.mem a = if p ≤ a ∧ a < p + data.length then data.getD (a - p) 0#8 else memByte s.mem a
  | .sp k o =>
    (∀ a, memByte t.mem a = memByte s.mem a) ∧
    ∀ n a, memByte (coreOf t n).sp a =
      if n = k ∧ o ≤ a ∧ a < o + data.length then data.getD (a - o) 0#8 else memByte (coreOf s n).sp a

/-- The health monitor's log, latest first, holds one event more: of an input, now, from a unit, in the order of time and source
number (R24, R415). -/
def Logged (s t : State) (input src : Nat) : Prop :=
  ∃ a b, s.health = a ++ b ∧ t.health = a ++ ⟨input, s.tsc, src⟩ :: b ∧
    (∀ x ∈ a, s.tsc * 2 ^ 16 + src < x.at_ * 2 ^ 16 + x.src) ∧
    ∀ x, b.head? = some x → x.at_ * 2 ^ 16 + x.src ≤ s.tsc * 2 ^ 16 + src

/-- Of a partition's commands, t differs from s in command n alone. -/
def OnlyCmd (s t : State) (n : Nat) : Prop := ∀ m, m ≠ n → cmdOf t m = cmdOf s m

/-- The command is over, its reply is the status word of a code and a value (R20), and of the rest t differs from u at most in the
registers that the reply fills. u is what the command leaves otherwise. -/
def Answers (u t : State) (c : Cmd) (code value : Nat) : Prop :=
  { t with cores := u.cores, cmds := u.cmds } = u ∧ OnlyCmd u t c.id ∧ cmdOf t c.id = none ∧
  Filled u t c.core c.ctx c.id (w64 (code % 2 ^ 16 * 2 ^ 48 + value % 2 ^ 48 : Nat)) none

/-! What an engine's micro-operations do. -/

/-- A command's next micro-operation is due at its engine (R18). -/
def AtWork (s : State) (c : Cmd) (e : Cls) : Prop := cmdOf s c.id = some c ∧ c.cls = e ∧ mayRun s c = true

/-- Nothing keeps a command from its core's scratchpad: no granule there fails its ECC, and no write of an older command that an edge
puts before the command's own is on its way (R156, R267, R292). -/
def Unheld (s : State) (c : Cmd) : Prop := (coreOf s c.core).spBad = [] ∧ ∀ a ∈ s.acc, a.cmd ∉ c.edges

/-- The command's next micro-operation leaves u, but for the command, which it leaves as d. -/
def Works (s : State) (c : Cmd) (u : State) (d : Cmd) : Prop :=
  ∃ t, exec (.engineMicroOp c.id) s = .next t ∧ { t with cmds := u.cmds } = u ∧ OnlyCmd u t c.id ∧ cmdOf t c.id = some d

/-- Of a state, u differs from s at most in what its translation caches and its L2 hold, after requests that have used their leaves
(R177, R178). -/
def Cached (s u : State) : Prop := { u with tcache := s.tcache, wcache := s.wcache, l2 := s.l2 } = s

/-- Bytes with the places at which they stand from an offset on. -/
def placed (off : Nat) (data : List Byte) : List (Nat × Byte) := (upFrom off data.length).zip data

/-- u is s with writes that a command makes to its own core's scratchpad, of a kind: together they hold rows of bytes at offsets, in
their order. None crosses a granule. The near event of a write has happened; an accumulation has none (R146, R156, R264). -/
def Stores (s u : State) (c : Cmd) (kind : AccKind) (rows : List (Nat × List Byte)) : Prop :=
  s.nearNext ≤ u.nearNext ∧ ∃ l, u.acc = s.acc ++ l ∧ u.nextId = s.nextId + l.length ∧
    { u with acc := s.acc, nextId := s.nextId, nearNext := s.nearNext } = s ∧
    (∀ a ∈ l, a.kind = kind ∧ a.cls = 16 ∧ a.cmd = c.id ∧ a.core = c.core ∧ a.sync = c.upc ∧
      (if kind = .acc then a.nearAt = 0 else s.nearNext ≤ a.nearAt) ∧
      ∃ o, a.dest = .sp c.core o ∧ 0 < a.size ∧ a.size = a.data.length ∧ o / 32 = (o + a.size - 1) / 32) ∧
    l.flatMap (fun a => placed (match a.dest with
      | .sp _ o | .ipa o => o) a.data) = rows.flatMap (fun r => placed r.1 r.2)

/-- u is s with writes that a command makes at generic addresses, of its ordering class: together they hold runs of bytes at
addresses, in their order. The runs of one granule, and no others, share their near event (R106, R156, R174). -/
def Scatters (s u : State) (c : Cmd) (runs : List (Word × List Byte)) : Prop :=
  ∃ l, u.acc = s.acc ++ l ∧ u.nextId = s.nextId + l.length ∧
    { u with acc := s.acc, nextId := s.nextId, nearNext := s.nearNext } = s ∧ l.map (fun a => (a.ea, a.data)) = runs ∧
    (∀ a ∈ l, a.kind = .eng ∧ a.cls = c.acls ∧ a.cmd = c.id ∧ a.core = c.core ∧ a.sync = c.upc ∧ s.nearNext ≤ a.nearAt ∧
      a.size = a.data.length ∧ engDest s c a.ea 1 .write = .ok a.dest) ∧
    ∀ a ∈ l, ∀ b ∈ l, a.nearAt = b.nearAt ↔ a.ea.toNat / 32 = b.ea.toNat / 32

/-- u is s with bytes written at their home by a line engine, with the far event of the write (R146, R154, R350). -/
def Homed (s u : State) (l : Loc) (data : List Byte) : Prop :=
  Wrote s u l data ∧ u.nextId = s.nextId + 1 ∧
  { u with cores := s.cores, acc := s.acc, mem := s.mem, poison := s.poison, bad := s.bad, tcache := s.tcache, wcache := s.wcache,
           l2 := s.l2, backInv := s.backInv, nextId := s.nextId } = s

/-- The positions of a window whose bytes begin in n bytes of its image from byte a, in their order (R272). -/
def Window.within (w : Window) (a n : Nat) : List Nat :=
  (List.range w.count).filter (fun e => decide (a ≤ w.byte e) && decide (w.byte e < a + n))

/-- data are the n bytes of a window's image from byte a: at each position that begins there the bytes that val gives it, and 0 at
every byte of no position (R272, R279). -/
def Window.Shows (w : Window) (a n : Nat) (val : Nat → List Byte) (data : List Byte) : Prop :=
  data.length = n ∧ (∀ e ∈ w.within a n, (data.drop (w.byte e - a)).take w.es = val e) ∧
  ∀ i, i < n → (∀ e ∈ w.within a n, ¬(w.byte e ≤ a + i ∧ a + i < w.byte e + w.es)) → data.getD i 0#8 = 0#8

/-- No write of a core's agents stands between its near and its far event. -/
def Settled (s : State) (core : Nat) : Prop := ∀ x ∈ s.acc, x.core = core → x.kind.writes = true → x.nearAt = 0

/-- Two extents share a granule of a scratchpad or a line of shared memory (R14). -/
def Extent.Shares (x y : Extent) : Prop :=
  x.space = y.space ∧ x.lo < x.hi ∧ y.lo < y.hi ∧
  ∃ u, (let g : Nat := match x.space with
      | .sp _ => 32
      | _ => 256
    x.lo / g ≤ u ∧ u ≤ (x.hi - 1) / g ∧ y.lo / g ≤ u ∧ u ≤ (y.hi - 1) / g)

/-! The mailboxes (R401). -/

/-- A function's mailbox holds a command that has not run. -/
def Holds (s : State) (fn op : Nat) : Prop :=
  (mailOf s fn).command.getLsbD 63 = true ∧ mailOp (mailOf s fn).command = op ∧ (mailOf s fn).waiting = none

/-- Every command for the same partition whose doorbell another function rang first has run (R402). -/
def InTurn (s : State) (fn : Nat) : Prop := mailBefore s fn = false

/-- A function's mailbox holds a command whose turn it is. -/
def Sent (s : State) (fn op : Nat) : Prop := Holds s fn op ∧ InTurn s fn

/-- A doubleword of a function's payload window. -/
def payload (s : State) (fn off : Nat) : Nat := leNat (memRead (mailOf s fn).payload off 8)

/-- Of the interrupts, t adds to s those of a list, latest first, but for those that their function's table masks (R408). -/
def Raises (s t : State) (l : List (Nat × Nat)) : Prop := t.msix = l.filter (fun v => !s.masked.contains v) ++ s.msix

/-- A function's command ends: its status holds the code, go falls, the reply is in the window where there is one, and vector 0 is
raised (R401). Apart from that, the command leaves the state u; the vectors that u raises come before. -/
def Ends (s t u : State) (fn code : Nat) (reply : Option (List Byte)) : Prop :=
  { t with mail := s.mail, msix := u.msix } = u ∧ Raises u t [(fn, 0)] ∧ (∀ n, n ≠ fn → mailOf t n = mailOf s n) ∧
  (mailOf t fn).command.getLsbD 63 = false ∧ (∀ i, i < 63 → (mailOf t fn).command.getLsbD i = (mailOf s fn).command.getLsbD i) ∧
  (mailOf t fn).status.toNat = code * 2 ^ 48 ∧ (mailOf t fn).waiting = none ∧
  match reply with
  | none => (mailOf t fn).payload = (mailOf s fn).payload
  | some b => ∀ a, memByte (mailOf t fn).payload a = b.getD a 0#8

end Sys2Proof.Machine
end

