-- ==== Sys2Proof/Certificates/Slice0/Obligations.lean ====
section
/-! DEFINITION. The statements about the model that are to be proved. -/

open Sys2Proof Sys2Proof.Machine

/-! Scalar words. f is the frame of the packet; f.rd reads a register as every word of the packet reads it (R47, R89). -/

/-- R92: ADD, SUB, MUL, MULH, MULHN, ADDI and MULI. -/
def Obligations.AddSubMul : Prop :=
  ∀ (s : State) (f : Issue) (xd xa xb : RegNo) (fa fb : Bool) (imm : BitVec 9), Acting s f →
    let a := f.rd xa
    let b := f.rd xb
    Gives (.add xd xa xb fa fb) s f xd (w64 (a.toNat + b.toNat)) ∧
    Gives (.sub xd xa xb fa fb) s f xd (w64 ((a.toNat : Int) - b.toNat)) ∧
    Gives (.mul xd xa xb fa fb) s f xd (w64 (a.toNat * b.toNat)) ∧
    Gives (.mulh xd xa xb fa fb) s f xd (w64 (a.toInt * b.toInt / 2 ^ 64)) ∧
    Gives (.mulhn xd xa xb fa fb) s f xd (w64 (a.toNat * b.toNat / 2 ^ 64)) ∧
    Gives (.addi xd xa fa imm) s f xd (w64 (a.toNat + imm.toInt)) ∧
    Gives (.muli xd xa fa imm) s f xd (w64 (a.toInt * imm.toInt))

/-- R93: DIV, REM, DIVN and REMN, and that quotient and remainder give the dividend back. -/
def Obligations.DivRem : Prop :=
  ∀ (s : State) (f : Issue) (xd xa xb : RegNo) (fa fb : Bool), Acting s f →
    let a := f.rd xa
    let b := f.rd xb
    ∃ q r qn rn : Word,
      Gives (.div xd xa xb fa fb) s f xd q ∧ Gives (.rem xd xa xb fa fb) s f xd r ∧
      Gives (.divn xd xa xb fa fb) s f xd qn ∧ Gives (.remn xd xa xb fa fb) s f xd rn ∧
      q = (if b = 0#64 then wOnes else if a = wMin ∧ b = wOnes then wMin else w64 (a.toInt.tdiv b.toInt)) ∧
      r = (if b = 0#64 then a else if a = wMin ∧ b = wOnes then 0#64
        else w64 (a.toInt - b.toInt * a.toInt.tdiv b.toInt)) ∧
      qn = (if b = 0#64 then wOnes else w64 (a.toNat / b.toNat)) ∧
      rn = (if b = 0#64 then a else w64 (a.toNat % b.toNat)) ∧
      a = q * b + r ∧ a = qn * b + rn ∧ (r ≠ 0#64 → (r.toInt < 0 ↔ a.toInt < 0))

/-- R94: the logic words, bit by bit; immediates are sign-extended. -/
def Obligations.Logic : Prop :=
  ∀ (s : State) (f : Issue) (xd xa xb : RegNo) (fa fb : Bool) (imm : BitVec 9), Acting s f →
    let a := f.rd xa
    let b := f.rd xb
    let j := w64 imm.toInt
    ∃ v0 v1 v2 v3 v4 v5 v6 v7 : Word,
      Gives (.and xd xa xb fa fb) s f xd v0 ∧ Gives (.or xd xa xb fa fb) s f xd v1 ∧
      Gives (.xor xd xa xb fa fb) s f xd v2 ∧ Gives (.andn xd xa xb fa fb) s f xd v3 ∧
      Gives (.orn xd xa xb fa fb) s f xd v4 ∧ Gives (.andi xd xa fa imm) s f xd v5 ∧
      Gives (.ori xd xa fa imm) s f xd v6 ∧ Gives (.xori xd xa fa imm) s f xd v7 ∧
      ∀ n, n < 64 →
        v0.getLsbD n = (a.getLsbD n && b.getLsbD n) ∧ v1.getLsbD n = (a.getLsbD n || b.getLsbD n) ∧
        v2.getLsbD n = (a.getLsbD n ^^ b.getLsbD n) ∧ v3.getLsbD n = (a.getLsbD n && !b.getLsbD n) ∧
        v4.getLsbD n = (a.getLsbD n || !b.getLsbD n) ∧ v5.getLsbD n = (a.getLsbD n && j.getLsbD n) ∧
        v6.getLsbD n = (a.getLsbD n || j.getLsbD n) ∧ v7.getLsbD n = (a.getLsbD n ^^ j.getLsbD n)

/-- R95: shifts and rotates by b[5:0] or by an immediate of 0 to 63. -/
def Obligations.Shifts : Prop :=
  ∀ (s : State) (f : Issue) (xd xa xb : RegNo) (fa fb : Bool) (sh : BitVec 6), Acting s f →
    let a := f.rd xa
    let left (c : Nat) : Word := w64 (a.toNat * 2 ^ c : Nat)
    let right (c : Nat) : Word := w64 (a.toNat / 2 ^ c : Nat)
    let arith (c : Nat) : Word := w64 (a.toInt / 2 ^ c)
    let rotl (c : Nat) : Word := if c = 0 then a else left c ||| right (64 - c)
    let rotr (c : Nat) : Word := if c = 0 then a else right c ||| left (64 - c)
    let c := (f.rd xb).toNat % 64
    let d := sh.toNat
    Gives (.shl xd xa xb fa fb) s f xd (left c) ∧ Gives (.shli xd xa fa sh) s f xd (left d) ∧
    Gives (.shr xd xa xb fa fb) s f xd (right c) ∧ Gives (.shri xd xa fa sh) s f xd (right d) ∧
    Gives (.sra xd xa xb fa fb) s f xd (arith c) ∧ Gives (.srai xd xa fa sh) s f xd (arith d) ∧
    Gives (.rol xd xa xb fa fb) s f xd (rotl c) ∧ Gives (.roli xd xa fa sh) s f xd (rotl d) ∧
    Gives (.ror xd xa xb fa fb) s f xd (rotr c) ∧ Gives (.rori xd xa fa sh) s f xd (rotr d)

/-- R96: minima, maxima and set-if-less. -/
def Obligations.MinMaxSet : Prop :=
  ∀ (s : State) (f : Issue) (xd xa xb : RegNo) (fa fb : Bool) (imm : BitVec 9), Acting s f →
    let a := f.rd xa
    let b := f.rd xb
    Gives (.min xd xa xb fa fb) s f xd (if a.toInt ≤ b.toInt then a else b) ∧
    Gives (.max xd xa xb fa fb) s f xd (if a.toInt ≥ b.toInt then a else b) ∧
    Gives (.minn xd xa xb fa fb) s f xd (if a.toNat ≤ b.toNat then a else b) ∧
    Gives (.maxn xd xa xb fa fb) s f xd (if a.toNat ≥ b.toNat then a else b) ∧
    Gives (.slt xd xa xb fa fb) s f xd (if a.toInt < b.toInt then 1#64 else 0#64) ∧
    Gives (.sltn xd xa xb fa fb) s f xd (if a.toNat < b.toNat then 1#64 else 0#64) ∧
    Gives (.slti xd xa fa imm) s f xd (if a.toInt < imm.toInt then 1#64 else 0#64) ∧
    Gives (.sltni xd xa fa imm) s f xd (if a.toNat < (w64 imm.toInt).toNat then 1#64 else 0#64)

/-- R97: CLZ, CTZ, POPC, BREV and BSWAP. -/
def Obligations.BitCounts : Prop :=
  ∀ (s : State) (f : Issue) (xd xa : RegNo) (fa : Bool), Acting s f →
    let a := f.rd xa
    ∃ (z t : Nat) (v w : Word),
      Gives (.clz xd xa fa) s f xd (BitVec.ofNat 64 z) ∧ Gives (.ctz xd xa fa) s f xd (BitVec.ofNat 64 t) ∧
      Gives (.popc xd xa fa) s f xd (BitVec.ofNat 64 ((List.range 64).filter (fun i => a.getLsbD i)).length) ∧
      Gives (.brev xd xa fa) s f xd v ∧ Gives (.bswap xd xa fa) s f xd w ∧
      z ≤ 64 ∧ (∀ i, i < z → a.getLsbD (63 - i) = false) ∧ (z < 64 → a.getLsbD (63 - z) = true) ∧
      t ≤ 64 ∧ (∀ i, i < t → a.getLsbD i = false) ∧ (t < 64 → a.getLsbD t = true) ∧
      (a = 0#64 → z = 64 ∧ t = 64) ∧
      (∀ i, i < 64 → v.getLsbD i = a.getLsbD (63 - i)) ∧
      ∀ i, i < 8 → w.extractLsb' (8 * i) 8 = a.extractLsb' (8 * (7 - i)) 8

/-- R98: CLMUL and CLMULH. -/
def Obligations.CarryLess : Prop :=
  ∀ (s : State) (f : Issue) (xd xa xb : RegNo) (fa fb : Bool), Acting s f →
    let a := f.rd xa
    let b := f.rd xb
    let p := (List.range 64).foldl (fun p i => if b.getLsbD i then p ^^^ (a.setWidth 128 <<< i) else p) 0#128
    Gives (.clmul xd xa xb fa fb) s f xd (p.extractLsb' 0 64) ∧
    Gives (.clmulh xd xa xb fa fb) s f xd (p.extractLsb' 64 64)

/-- R99, R100, R101: EXT, EXTN and INS under a field descriptor. -/
def Obligations.BitFields : Prop :=
  ∀ (s : State) (f : Issue) (xd xa xb : RegNo) (fa fb : Bool), Acting s f →
    let a := f.rd xa
    let b := f.rd xb
    let x := f.rd xd
    let pos := b.toNat % 2 ^ 6
    let len := b.toNat / 2 ^ 8 % 2 ^ 7
    let l := min len 64
    let m := w64 ((2 ^ l - 1) * 2 ^ pos)
    Gives (.extn xd xa xb fa fb) s f xd (w64 (a.toNat / 2 ^ pos % 2 ^ l : Nat)) ∧
    Gives (.ext xd xa xb fa fb) s f xd (sextNat (a.toNat / 2 ^ pos) l) ∧
    Gives (.ins xd xa xb fa fb) s f xd ((x &&& ~~~m) ||| (w64 (a.toNat * 2 ^ pos : Nat) &&& m))

/-- R60, R102, R104: WLD, WINS, SHLADD and SEL. -/
def Obligations.WideSelect : Prop :=
  ∀ (s : State) (f : Issue) (xd xa xb : RegNo) (fa fb : Bool) (k n : BitVec 2) (imm : BitVec 16), Acting s f →
    let a := f.rd xa
    let b := f.rd xb
    ∃ w : Word,
      Gives (.wld xd k imm) s f xd (w64 (imm.toNat * 2 ^ (16 * k.toNat) : Nat)) ∧
      Gives (.wins xd k imm) s f xd w ∧
      (∀ i, i < 64 → w.getLsbD i =
        if 16 * k.toNat ≤ i ∧ i < 16 * k.toNat + 16 then imm.getLsbD (i - 16 * k.toNat) else (f.rd xd).getLsbD i) ∧
      Gives (.shladd xd xa xb fa fb n) s f xd (w64 (a.toNat * 2 ^ (n.toNat + 1) + b.toNat : Nat)) ∧
      Gives (.selP8P11 xd xa xb fa fb n) s f xd (if f.snap.pred (8 + n.toNat) then a else b) ∧
      Gives (.selP12P15 xd xa xb fa fb n) s f xd (if f.snap.pred (12 + n.toNat) then a else b)

/-- R103: CMPP and CMPPI write one of p8 to p15. -/
def Obligations.Comparisons : Prop :=
  ∀ (s : State) (f : Issue) (p : BitVec 3) (xa xb : RegNo) (fa fb : Bool) (imm : BitVec 9), Acting s f →
    let a := f.rd xa
    let b := f.rd xb
    let j := w64 imm.toInt
    let n := 8 + p.toNat
    Decides (.cmppEq p xa xb fa fb) s f n (decide (a = b)) ∧
    Decides (.cmppNe p xa xb fa fb) s f n (decide (a ≠ b)) ∧
    Decides (.cmppLt p xa xb fa fb) s f n (decide (a.toInt < b.toInt)) ∧
    Decides (.cmppGe p xa xb fa fb) s f n (decide (a.toInt ≥ b.toInt)) ∧
    Decides (.cmppLtn p xa xb fa fb) s f n (decide (a.toNat < b.toNat)) ∧
    Decides (.cmppGen p xa xb fa fb) s f n (decide (a.toNat ≥ b.toNat)) ∧
    Decides (.cmppiEq p xa fa imm) s f n (decide (a = j)) ∧
    Decides (.cmppiNe p xa fa imm) s f n (decide (a ≠ j)) ∧
    Decides (.cmppiLt p xa fa imm) s f n (decide (a.toInt < j.toInt)) ∧
    Decides (.cmppiGe p xa fa imm) s f n (decide (a.toInt ≥ j.toInt)) ∧
    Decides (.cmppiLtn p xa fa imm) s f n (decide (a.toNat < j.toNat)) ∧
    Decides (.cmppiGen p xa fa imm) s f n (decide (a.toNat ≥ j.toNat))

/-! Addresses, memory words and special registers. -/

/-- R114, R115, R116: the aperture words. -/
def Obligations.ApertureWords : Prop :=
  ∀ (s : State) (f : Issue) (xd xa xb : RegNo) (fa fb : Bool), Acting s f →
    let a := f.rd xa
    let b := f.rd xb
    let t := frameTask s f
    let isLocal := t.lwb.toNat ≤ a.toNat ∧ a.toNat < t.lwb.toNat + 2 ^ 20
    let isCluster := ¬isLocal ∧ t.cwb.toNat ≤ a.toNat ∧ a.toNat < t.cwb.toNat + 2 ^ 23
    let peer := f.core / 8 * 8 + (a - t.cwb).toNat / 2 ^ 20
    let reached := (isLocal ∧ (a - t.lwb).toNat < 768 * 1024) ∨
      (isCluster ∧ (a - t.cwb).toNat % 2 ^ 20 < 768 * 1024 ∧ s.units.cores.getLsbD peer = true)
    ∃ v : Word,
      Gives (.aconv xd xa fa) s f xd (if isLocal then a - t.lwb else if isCluster then a - t.cwb else a) ∧
      Gives (.agen xd xa xb fa fb) s f xd
        (if b.toNat % 4 = 1 then t.lwb + w64 (a.toNat % 2 ^ 20 : Nat)
         else if b.toNat % 4 = 2 then t.cwb + w64 (a.toNat % 2 ^ 23 : Nat) else a) ∧
      Gives (.atest xd xa fa) s f xd v ∧
      (isLocal ∨ isCluster →
        v = w64 ((if reached then 28 else 0) + (if isLocal then 1 else 2) : Nat)) ∧
      (¬isLocal → ¬isCluster →
        match findRange t.ranges a.toNat with
        | none => v = 0#64
        | some (n, e) =>
          v = w64 (n * 2 ^ 8 + (if e.x then 2 ^ 5 else 0) + (if e.w then 2 ^ 4 else 0) + (if e.r then 2 ^ 3 else 0) + 4 : Nat))

/-- R122, R127, R128: TOKST, TSC and CSRR. A vector word of an earlier packet makes vtype read as busy. -/
def Obligations.ReadSpecial : Prop :=
  ∀ (s : State) (f : Issue) (xd : RegNo), Acting s f →
    let c := f.snap
    let t := frameTask s f
    let k := coreOf s f.core
    let into (i : CtxId) (d : Side) : Nat := ((k.ctx i).fifo d).length
    let leaving (d : Side) : Nat := ((k.ctx f.ctx).outs.filter (fun p => p.side == d)).length
    Gives (.tokst xd) s f xd (w64 ((into f.ctx.right .left + leaving .right) * 2 ^ 24
      + (into f.ctx.left .right + leaving .left) * 2 ^ 16 + into f.ctx .right * 2 ^ 8 + into f.ctx .left : Nat)) ∧
    Gives (.tsc xd) s f xd (w64 s.tsc) ∧
    Gives (.csrr xd .pc) s f xd f.pc ∧
    Gives (.csrr xd .lc0) s f xd c.lc0 ∧ Gives (.csrr xd .li0) s f xd c.li0 ∧ Gives (.csrr xd .sk0) s f xd c.sk0 ∧
    Gives (.csrr xd .lc1) s f xd c.lc1 ∧ Gives (.csrr xd .li1) s f xd c.li1 ∧
    Gives (.csrr xd .bsc) s f xd (w64 c.bsc.toNat) ∧
    Gives (.csrr xd .lwb) s f xd t.lwb ∧ Gives (.csrr xd .cwb) s f xd t.cwb ∧
    Gives (.csrr xd .tvb) s f xd c.tvb ∧ Gives (.csrr xd .tcause) s f xd c.tcause ∧
    Gives (.csrr xd .tval) s f xd c.tval ∧ Gives (.csrr xd .tpc) s f xd c.tpc ∧
    (∃ v : Word, Gives (.csrr xd .vtype) s f xd v ∧
      ∀ n, n < 64 → v.getLsbD n = (f.vtype.getLsbD n || (decide (n = 63) &&
        s.cmds.any (fun d => d.core == f.core && d.cls == .vector && decide (d.seq < c.seq))))) ∧
    Gives (.csrr xd .vwin) s f xd f.vwin ∧
    Gives (.csrr xd .gid) s f xd (w64 t.gid) ∧ Gives (.csrr xd .tid) s f xd (w64 t.tid) ∧
    Gives (.csrr xd .sid) s f xd (w64 t.sid) ∧ Gives (.csrr xd .tag) s f xd (w64 t.tag) ∧
    Gives (.csrr xd .grp) s f xd (w64 t.grp) ∧ Gives (.csrr xd .tsc) s f xd (w64 s.tsc)

/-- R106, R107, R109, R112: a load whose address passes the checks issues its access, which holds the address, the size, and whether
its bytes are sign-extended. Its register keeps its value and waits for the fill that this access makes (ReadsPerform says what the
fill holds). A load into x0 makes its access. -/
def Obligations.LoadsIssue : Prop :=
  ∀ (s : State) (f : Issue) (size : BitVec 2) (cls : BitVec 4) (xd xa : RegNo) (fa : Bool) (imm : BitVec 8) (d : Dest),
    Acting s f →
    let n : Nat := 2 ^ size.toNat
    let near := w64 ((f.rd xa).toNat + imm.toInt * n)
    (checkAddr s (frameTask s f) f.core near n .read = .ok d →
      Accesses (.ld size cls xd xa fa imm) s f (newAccess s f .load cls.toNat near d n []) [xd]) ∧
    (checkAddr s (frameTask s f) f.core (f.rd xa) n .read = .ok d →
      Accesses (.ldNatural xd xa fa cls size) s f (newAccess s f .loadn cls.toNat (f.rd xa) d n []) [xd] ∧
      (aperture (frameTask s f) (f.rd xa) = .shared →
        Accesses (.ldc xd xa fa size) s f (newAccess s f .ldc 16 (f.rd xa) d n []) [xd]))

/-- R106, R108: a store whose address passes the checks issues an access with the low bytes of its register, least
significant byte first, and makes no register empty. -/
def Obligations.StoresIssue : Prop :=
  ∀ (s : State) (f : Issue) (size : BitVec 2) (cls : BitVec 4) (xd xa : RegNo) (fa : Bool) (imm : BitVec 8) (d : Dest),
    Acting s f →
    let n : Nat := 2 ^ size.toNat
    let ea := w64 ((f.rd xa).toNat + imm.toInt * n)
    checkAddr s (frameTask s f) f.core ea n .write = .ok d →
    ∃ data : List Byte, Accesses (.st size cls xd xa fa imm) s f (newAccess s f .store cls.toNat ea d n data) [] ∧
      data.length = n ∧ ∀ k, k < n → data[k]? = some ((f.rd xd).extractLsb' (8 * k) 8)

/-- R106, R174: the checks of an access of 1, 2, 4 or 8 bytes, in their order, and where it goes: a byte of a scratchpad, or the IPA
that its range entry gives, which must lie below 2^52. -/
def Obligations.AddressChecks : Prop :=
  ∀ (s : State) (t : Task) (core : Nat) (ea : Word) (k : Nat) (p : Perm), k < 4 → p ≠ .exec →
    let n : Nat := 2 ^ k
    let isLocal := t.lwb.toNat ≤ ea.toNat ∧ ea.toNat < t.lwb.toNat + 2 ^ 20
    let isCluster := ¬isLocal ∧ t.cwb.toNat ≤ ea.toNat ∧ ea.toNat < t.cwb.toNat + 2 ^ 23
    let off := (ea - t.cwb).toNat
    let peer := core / 8 * 8 + off / 2 ^ 20
    (ea.toNat % n ≠ 0 → checkAddr s t core ea n p = .error .align) ∧
    (ea.toNat % n = 0 → isLocal →
      checkAddr s t core ea n p =
        if (ea - t.lwb).toNat ≥ 768 * 1024 then .error .localRange else .ok (.sp core (ea - t.lwb).toNat)) ∧
    (ea.toNat % n = 0 → isCluster →
      checkAddr s t core ea n p =
        if off % 2 ^ 20 ≥ 768 * 1024 ∨ s.units.cores.getLsbD peer = false then .error .localRange
        else .ok (.sp peer (off % 2 ^ 20))) ∧
    (ea.toNat % n = 0 → ¬isLocal → ¬isCluster →
      match findRange t.ranges ea.toNat with
      | none => checkAddr s t core ea n p = .error .range
      | some (_, e) =>
        let ipa := (w64 (ea.toNat + e.off * 2 ^ 16)).toNat
        checkAddr s t core ea n p =
          if (if p = .write then e.w else e.r) = true ∧ ipa < 2 ^ 52 then .ok (.ipa ipa) else .error .range)

/-- R106, R112, R132, R163, R166: a load, store, LDC or TPL.LD that stands alone before its packet has been checked, with its registers
full and unmarked, raises the fault that its address check finds; nothing of it takes effect. An LDC outside shared space raises
RANGE once it is aligned. -/
def Obligations.AddressTraps : Prop :=
  ∀ (s : State) (f : Issue) (size : BitVec 2) (cls : BitVec 4) (xd xa : RegNo) (fa : Bool) (imm : BitVec 8) (e : AddrFault),
    s.issue = some f → f.checked = false →
    (f.snap.reg xa).pend = [] → (f.snap.reg xa).mark = none → (f.snap.reg xd).pend = [] → (f.snap.reg xd).mark = none →
    let n : Nat := 2 ^ size.toNat
    let ea := w64 ((f.rd xa).toNat + imm.toInt * n)
    let code := match e with
      | .align => 7
      | .localRange => 6
      | .range => 5
    (checkAddr s (frameTask s f) f.core ea n .read = .error e →
      exec (.ld size cls xd xa fa imm) s = .next (raise s f.core f.ctx f.pc code ea)) ∧
    (checkAddr s (frameTask s f) f.core ea n .write = .error e →
      exec (.st size cls xd xa fa imm) s = .next (raise s f.core f.ctx f.pc code ea)) ∧
    (checkAddr s (frameTask s f) f.core (f.rd xa) n .read = .error e →
      exec (.ldNatural xd xa fa cls size) s = .next (raise s f.core f.ctx f.pc code (f.rd xa))) ∧
    ((f.rd xa).toNat % n = 0 → aperture (frameTask s f) (f.rd xa) ≠ .shared →
      exec (.ldc xd xa fa size) s = .next (raise s f.core f.ctx f.pc 5 (f.rd xa))) ∧
    (e = .align ∨ aperture (frameTask s f) (f.rd xa) = .shared → checkAddr s (frameTask s f) f.core (f.rd xa) n .read = .error e →
      exec (.ldc xd xa fa size) s = .next (raise s f.core f.ctx f.pc code (f.rd xa))) ∧
    ∀ (slot : BitVec 6) (eng : TplEng), checkAddr s (frameTask s f) f.core (f.rd xa) 64 .read = .error e →
      exec (.tplLd slot xa fa eng) s = .next (raise s f.core f.ctx f.pc code (f.rd xa))

/-- R132, R17: TPL.LD issues the read of its image, in class 15, and its context's hold waits for it. -/
def Obligations.ImageLoad : Prop :=
  ∀ (s : State) (f : Issue) (slot : BitVec 6) (xa : RegNo) (fa : Bool) (eng : TplEng) (d : Dest), Acting s f →
    checkAddr s (frameTask s f) f.core (f.rd xa) 64 .read = .ok d →
    let a := { newAccess s f .tpl 15 (f.rd xa) d 64 [] with store := 64 * eng.code + slot.toNat }
    ∃ t, exec (.tplLd slot xa fa eng) s = .next t ∧ t.acc = s.acc ++ [a] ∧ t.nextId = s.nextId + 1 ∧ t.issue = s.issue ∧
      t.cmds = s.cmds ∧ OnlyIssued s t ∧ SameBytes s t ∧ OnlyContext s t f.core f.ctx ∧
      OnlyRegs (ctxOf s f.core f.ctx) { ctxOf t f.core f.ctx with images := (ctxOf s f.core f.ctx).images } ∧
      (ctxOf t f.core f.ctx).images = (ctxOf s f.core f.ctx).images ++ [s.nextId] ∧
      ∀ q, SameReg (ctxOf s f.core f.ctx) (ctxOf t f.core f.ctx) q

/-- R124, R150, R113, R126, R184, R221, R223: FENCE records what it waits for: the accesses of its context in the classes of its mask and,
at a scope above ctx, its vector accesses, and what its context has acquired but for its own accesses in other classes. CSYNC; VFENCE, which
reports the oldest failed vector access of its context that no earlier FENCE covers; and QPOINT: nothing where no invalidation is pending;
else its core acknowledges the one that is, with its table loaded again where its range set is named, and the last core that runs a task
completes it. That a FENCE waits at every scope for what its context has acquired is log entry 18, and the number of the completion comes
from the one series of log entry 26. -/
def Obligations.FenceWords : Prop :=
  ∀ (s : State) (f : Issue) (mask : BitVec 16) (scope : Scope), Acting s f →
    let c := ctxOf s f.core f.ctx
    let mine (a : Access) : Prop := a ∈ s.acc ++ s.backInv ∧ a.core = f.core ∧ a.ctx = some f.ctx
    let masked (a : Access) : Prop := a.cls < 16 ∧ mask.getLsbD a.cls = true
    (∃ t w, exec (.fence mask scope) s = .next t ∧ OnlyIssued s t ∧ t.issue = s.issue ∧ t.acc = s.acc ∧ t.cmds = s.cmds ∧
      t.nextId = s.nextId + 1 ∧ SameBytes s t ∧
      coreOf t f.core = (coreOf s f.core).setCtx f.ctx
        { c with fences := c.fences ++ [⟨s.nextId, 4 * f.snap.seq + f.slot, mask, scope, w⟩] } ∧
      (∀ n, n ≠ f.core → coreOf t n = coreOf s n) ∧
      ∀ n, n ∈ w ↔ (∃ a, mine a ∧ a.id = n ∧ a.kind ≠ .ldc ∧ if a.kind = .vec then scope ≠ .ctx else masked a) ∨
        (n ∈ c.hb ∧ performedHost s n = false ∧ ∀ a, mine a → a.id = n → a.kind ≠ .vec → masked a)) ∧
    (∃ t, exec .csync s = .next t ∧ OnlyIssued s t ∧ NothingIssued s t ∧ SameBytes s t ∧
      coreOf t f.core = { coreOf s f.core with consts := [] }.setCtx f.ctx { c with sync := 4 * f.snap.seq + f.slot } ∧
      ∀ n, n ≠ f.core → coreOf t n = coreOf s n) ∧
    ((∀ k p, taskOf s f.core = some k → partOf s k.part = some p → p.invals = []) →
      ∃ t, exec .qpoint s = .next t ∧ t = { s with cores := t.cores, parts := t.parts } ∧
        (∀ n, coreOf t n = coreOf s n) ∧ ∀ n, partOf t n = partOf s n) ∧
    (∀ k p v, taskOf s f.core = some k → partOf s k.part = some p → p.invals = [v] → f.core ∉ v.acks →
      let loaded (t : State) : Prop := OnlyCore s t f.core ∧
        if v.rset = some k.rset.toNat then
          ∃ l, coreOf t f.core = { coreOf s f.core with task := some { k with ranges := l } } ∧
            ∀ r, readRanges s k.part k.asid k.gen k.rset.toNat k.rcnt = some r → l = r
        else coreOf t f.core = coreOf s f.core
      ((∃ n ∈ partCores p, n ≠ f.core ∧ n ∉ v.acks ∧ coreRuns s n = true) →
        ∃ t w, exec .qpoint s = .next t ∧ { t with cores := s.cores, parts := s.parts } = s ∧ loaded t ∧
          (∀ n, n ≠ k.part → partOf t n = partOf s n) ∧ partOf t k.part = some { p with invals := [w] } ∧
          { w with acks := v.acks } = v ∧ ∀ n, n ∈ w.acks ↔ n ∈ v.acks ∨ n = f.core) ∧
      ((∀ n ∈ partCores p, coreSaved s n = false ∧ (n = f.core ∨ n ∈ v.acks ∨ taskOf s n = none)) →
        ∃ t, exec .qpoint s = .next t ∧
          { t with cores := s.cores, parts := s.parts, gangs := s.gangs, tcache := s.tcache, wcache := s.wcache, l2 := s.l2,
                   noticeNext := s.noticeNext } = s ∧
          loaded t ∧ t.noticeNext = s.noticeNext + 1 ∧ (∀ n, n ≠ k.part → partOf t n = partOf s n) ∧
          partOf t k.part = some { p with invals := [], pendNotices := p.pendNotices ++ if p.noticeRing.isSome = true then
            [[w64 s.noticeNext, w64 (v.asid * 2 ^ 48 + v.gen * 2 ^ 44 + 3 * 2 ^ 42 + 0x3FF * 2 ^ 32 : Nat),
              w64 (if v.rset = none then v.lo else 0 : Nat), w64 s.tsc]] else [] } ∧
          (∀ e, e ∈ t.tcache ↔ e ∈ s.tcache ∧ v.drops k.part e = false) ∧
          (∀ e, e ∈ t.wcache ↔ e ∈ s.wcache ∧ v.dropsTable k.part e = false) ∧
          (∀ e, e ∈ t.l2 ↔ e ∈ s.l2 ∧ v.dropsLine k.part e = false) ∧
          ∀ m, gangOf t m = (gangOf s m).map (fun g => { g with watch := g.watch.filter (fun n => n != v.id) }))) ∧
    (f.ctx = .C →
      ∃ t, exec .vfence s = .next t ∧ { t with cores := s.cores, nextId := s.nextId } = s ∧ SameBytes s t ∧
        OnlyContext s t f.core .C ∧
        let told (x : Drop) : Prop := x.cls = 16 ∧ ∀ g ∈ c.fences, g.at_ < 4 * f.snap.seq + f.slot → g.at_ ≤ x.seq ∨ g.scope = .ctx
        ((∀ x ∈ c.drops, ¬told x) → ctxOf t f.core .C = c ∧ t.nextId = s.nextId) ∧
        ∀ x ∈ c.drops, told x → (∀ y ∈ c.drops, told y → y = x ∨ x.seq < y.seq) → t.nextId = s.nextId + 1 ∧ ∃ l,
          ctxOf t f.core .C = { c with drops := l, reports := c.reports ++ [⟨false, s.nextId, 0, 0, 0, 0, 0xB, x.ea, 0⟩] } ∧
          ∀ y, y ∈ l ↔ y ∈ c.drops ∧ ¬told y)

/-! Branches, jumps and loops (R117, R118, R72, R73). -/

/-- R77, R117: the conditional branches, BP and J. A taken word sets the packet's next pc; one that is not taken has no effect. A
target at or above 2^48 raises RANGE, with the target as tval, where the word is taken and its registers are full and unmarked. -/
def Obligations.Branches : Prop :=
  ∀ (s : State) (f : Issue) (xa xb : RegNo) (fa fb : Bool) (neg : Bool) (p : BitVec 4) (off : BitVec 10),
    let a := f.rd xa
    let b := f.rd xb
    let target := w64 (f.pc.toNat + 16 * off.toInt)
    (s.issue = some f → f.checked = false → 2 ^ 48 ≤ target.toNat →
      (∀ r, r = xa ∨ r = xb → (f.snap.reg r).pend = [] ∧ (f.snap.reg r).mark = none) →
      let traps (i : Instr) : Prop := exec i s = .next (raise s f.core f.ctx f.pc 5 target)
      (a = b → traps (.beq xa xb fa fb off)) ∧ (a ≠ b → traps (.bne xa xb fa fb off)) ∧
      (a.toInt < b.toInt → traps (.blt xa xb fa fb off)) ∧ (a.toInt ≥ b.toInt → traps (.bge xa xb fa fb off)) ∧
      (a.toNat < b.toNat → traps (.bltn xa xb fa fb off)) ∧ (a.toNat ≥ b.toNat → traps (.bgen xa xb fa fb off)) ∧
      (f.snap.pred p.toNat ≠ neg → traps (.bp neg p off)) ∧ traps (.j off)) ∧
    (Acting s f →
    let goes (c : Prop) [Decidable c] : Issue := if c then { f with next := some target } else f
    Steers (.beq xa xb fa fb off) s f (goes (a = b)) ∧
    Steers (.bne xa xb fa fb off) s f (goes (a ≠ b)) ∧
    Steers (.blt xa xb fa fb off) s f (goes (a.toInt < b.toInt)) ∧
    Steers (.bge xa xb fa fb off) s f (goes (a.toInt ≥ b.toInt)) ∧
    Steers (.bltn xa xb fa fb off) s f (goes (a.toNat < b.toNat)) ∧
    Steers (.bgen xa xb fa fb off) s f (goes (a.toNat ≥ b.toNat)) ∧
    Steers (.bp neg p off) s f (goes (f.snap.pred p.toNat ≠ neg)) ∧
    Steers (.j off) s f { f with next := some target })

/-- R77, R117, R118: JR goes to its register; JL also writes P + 16 to x62. A target at or above 2^48 raises RANGE, and one of JR
that is no multiple of 16 ALIGN, with the target as tval. -/
def Obligations.Jumps : Prop :=
  ∀ (s : State) (f : Issue) (xa : RegNo) (fa : Bool) (off : BitVec 10),
    let target := w64 (f.pc.toNat + 16 * off.toInt)
    (s.issue = some f → f.checked = false →
      ((f.snap.reg xa).pend = [] → (f.snap.reg xa).mark = none →
        (2 ^ 48 ≤ (f.rd xa).toNat → exec (.jr xa fa) s = .next (raise s f.core f.ctx f.pc 5 (f.rd xa))) ∧
        ((f.rd xa).toNat < 2 ^ 48 → (f.rd xa).toNat % 16 ≠ 0 →
          exec (.jr xa fa) s = .next (raise s f.core f.ctx f.pc 7 (f.rd xa)))) ∧
      ((f.snap.reg 62#6).pend = [] → 2 ^ 48 ≤ target.toNat →
        exec (.jl off) s = .next (raise s f.core f.ctx f.pc 5 target))) ∧
    (Acting s f →
    Steers (.jr xa fa) s f { f with next := some (f.rd xa) } ∧
    ∃ t, exec (.jl off) s = .next t ∧ t.issue = some { f with next := some target } ∧ OnlyIssued s t ∧ t.acc = s.acc ∧
      t.cmds = s.cmds ∧ t.nextId = s.nextId ∧ SameBytes s t ∧ OnlyContext s t f.core f.ctx ∧
      OnlyRegs (ctxOf s f.core f.ctx) (ctxOf t f.core f.ctx) ∧
      ((ctxOf t f.core f.ctx).reg 62#6).val = f.pc + 16#64 ∧ ((ctxOf t f.core f.ctx).reg 62#6).mark = none ∧
      ((ctxOf t f.core f.ctx).reg 62#6).pend = ((ctxOf s f.core f.ctx).reg 62#6).pend ∧
      ∀ q, q ≠ 62#6 → SameReg (ctxOf s f.core f.ctx) (ctxOf t f.core f.ctx) q)

/-- R72, R73, R77, R68: LOOP.S and LOOP.O set their loop registers and go into the body, or past it where the count is 0. A loop word
whose loop is active is illegal, and a target at or above 2^48 raises RANGE. -/
def Obligations.Loops : Prop :=
  ∀ (s : State) (f : Issue) (xa : RegNo) (k : BitVec 6) (fa : Bool) (d : BitVec 10), k.toNat < 8 → d.toNat < 512 →
    f.pc.toNat % 16 = 0 →
    let n := (f.rd xa).toNat % 2 ^ 32
    (s.issue = some f → f.checked = false →
      (lcAct f.snap.lc0 = true → exec (.loopS xa k fa d) s = .next (raise s f.core f.ctx f.pc 2
        (w64 (f.slot * 2 ^ 32 + (encode (.loopS xa k fa d)).toNat : Nat)))) ∧
      (lcAct f.snap.lc1 = true → exec (.loopO xa fa d) s = .next (raise s f.core f.ctx f.pc 2
        (w64 (f.slot * 2 ^ 32 + (encode (.loopO xa fa d)).toNat : Nat)))) ∧
      ((f.snap.reg xa).pend = [] → (f.snap.reg xa).mark = none →
        let target := f.pc + (if n = 0 then w64 (16 * (d.toNat + 1) : Nat) else 16#64)
        2 ^ 48 ≤ target.toNat →
        (lcAct f.snap.lc0 = false → exec (.loopS xa k fa d) s = .next (raise s f.core f.ctx f.pc 5 target)) ∧
        (lcAct f.snap.lc1 = false → exec (.loopO xa fa d) s = .next (raise s f.core f.ctx f.pc 5 target)))) ∧
    (Acting s f → f.pc.toNat + 16 < 2 ^ 48 →
    let start := f.pc.toNat + 16
    let desc := w64 (2 ^ 63 + d.toNat * 2 ^ 54 + start / 16 * 2 ^ 4 : Nat)
    let c := ctxOf s f.core f.ctx
    (n = 0 →
      Steers (.loopS xa k fa d) s f { f with next := some (f.pc + w64 (16 * (d.toNat + 1) : Nat)), loop := true } ∧
      Steers (.loopO xa fa d) s f { f with next := some (f.pc + w64 (16 * (d.toNat + 1) : Nat)), loop := true }) ∧
    (n ≠ 0 →
      (∃ t, exec (.loopS xa k fa d) s = .next t ∧ t.issue = some { f with next := some (f.pc + 16#64), loop := true } ∧
        OnlyIssued s t ∧ t.acc = s.acc ∧ t.cmds = s.cmds ∧ t.nextId = s.nextId ∧ SameBytes s t ∧
        OnlyContext s t f.core f.ctx ∧
        (let e := ctxOf t f.core f.ctx
         OnlyRegs c { e with lc0 := c.lc0, sk0 := c.sk0, li0 := c.li0, p := c.p } ∧ (∀ q, SameReg c e q) ∧
         e.lc0 = desc ∧ e.sk0 = w64 (k.toNat * 2 ^ 32 + n : Nat) ∧ e.li0 = 0#64 ∧
         (∀ j, 1 ≤ j → j < 8 → e.pred j = decide (j ≤ k.toNat ∧ j = 1)) ∧ ∀ j, 8 ≤ j → e.pred j = c.pred j)) ∧
      ∃ t, exec (.loopO xa fa d) s = .next t ∧ t.issue = some { f with next := some (f.pc + 16#64), loop := true } ∧
        OnlyIssued s t ∧ t.acc = s.acc ∧ t.cmds = s.cmds ∧ t.nextId = s.nextId ∧ SameBytes s t ∧
        OnlyContext s t f.core f.ctx ∧
        (let e := ctxOf t f.core f.ctx
         OnlyRegs c { e with lc1 := c.lc1, li1 := c.li1 } ∧ (∀ q, SameReg c e q) ∧
         e.lc1 = desc ∧ e.li1 = w64 (n * 2 ^ 32 : Nat))))

/-! Tokens, streams, special registers, traps and the end. -/

/-- R121, R130, R131, R133, R383: PSHV joins the packet's pushes; TRAP, ERET, TEND and PRACK are left for the packet's end. ERET to
a tpc at or above 2^48 raises RANGE, and to one that is no multiple of 16 ALIGN. -/
def Obligations.LateWords : Prop :=
  ∀ (s : State) (f : Issue) (xa : RegNo) (fa : Bool) (side : Side) (n : BitVec 8) (scope : Scope),
    (s.issue = some f → f.checked = false →
      (2 ^ 48 ≤ f.tpc.toNat → exec .eret s = .next (raise s f.core f.ctx f.pc 5 f.tpc)) ∧
      (f.tpc.toNat < 2 ^ 48 → f.tpc.toNat % 16 ≠ 0 → exec .eret s = .next (raise s f.core f.ctx f.pc 7 f.tpc))) ∧
    (Acting s f →
    Steers (.pshv xa fa side) s f { f with pushes := f.pushes ++ [(side, f.rd xa)] } ∧
    Steers (.trap n) s f { f with trap := some n.toNat } ∧
    Steers .eret s f { f with eret := true } ∧
    Steers .tend s f { f with tend := true } ∧
    Steers (.prack scope) s f { f with prack := true })

/-- R123: SBIND binds a port to an empty ring, or unbinds it where xa is x0. -/
def Obligations.StreamBinding : Prop :=
  ∀ (s : State) (f : Issue) (xa : RegNo) (fa : Bool) (n : BitVec 2), Acting s f →
    let a := f.rd xa
    let k := coreOf s f.core
    ∃ t, exec (.sbind xa fa n) s = .next t ∧ OnlyIssued s t ∧ NothingIssued s t ∧ SameBytes s t ∧
      (∀ m, m ≠ f.core → coreOf t m = coreOf s m) ∧
      OnlyRegs (ctxOf s f.core f.ctx) (ctxOf t f.core f.ctx) ∧
      (∀ q, SameReg (ctxOf s f.core f.ctx) (ctxOf t f.core f.ctx) q) ∧
      ∃ ports, (coreOf t f.core).setCtx f.ctx (ctxOf s f.core f.ctx) = { k with vec := { k.vec with ports := ports } } ∧
        (∀ m, m ≠ n.toNat → kget ports m = kget k.vec.ports m) ∧
        (xa = 0#6 → kget ports n.toNat = none) ∧
        (xa ≠ 0#6 → kget ports n.toNat =
          some ⟨a.getLsbD 63, a.toNat % 2 ^ 12, a.toNat / 2 ^ 12 % 2 ^ 12, 0, 0⟩)

/-- R129, R68, R72: CSRW writes the bits of its register that R67 and R68 do not mark as reading 0. After a write of lc0, li0
or sk0 the stage predicates are set again. A bsc write is left for the packet's end. -/
def Obligations.WriteSpecial : Prop :=
  ∀ (s : State) (f : Issue) (xa : RegNo) (fa : Bool), Acting s f →
    let a := f.rd xa
    let c := ctxOf s f.core f.ctx
    let k := coreOf s f.core
    let lc := a &&& 0xFFC0FFFFFFFFFFF0#64
    let ctxBecomes (r : Csr) (good : Ctx → Prop) : Prop :=
      ∃ t, exec (.csrw r xa fa) s = .next t ∧ OnlyIssued s t ∧ NothingIssued s t ∧ SameBytes s t ∧
        OnlyContext s t f.core f.ctx ∧ (∀ q, SameReg c (ctxOf t f.core f.ctx) q) ∧
        good { ctxOf t f.core f.ctx with x := c.x, hb := c.hb }
    let staged (d e : Ctx) : Prop :=
      { e with p := c.p } = d ∧ (∀ j, 8 ≤ j → e.pred j = c.pred j) ∧
      ∀ j : Nat, 1 ≤ j → j < 8 → e.pred j = decide (e.lc0.getLsbD 63 = true ∧ j ≤ e.sk0.toNat / 2 ^ 32 % 2 ^ 3 ∧
        (0 : Int) ≤ e.li0.toNat - (j - 1 : Int) ∧ e.li0.toNat - (j - 1 : Int) < (e.sk0.toNat % 2 ^ 32 : Nat))
    let vecBecomes (r : Csr) (v : Vec) : Prop :=
      ∃ t, exec (.csrw r xa fa) s = .next t ∧ OnlyIssued s t ∧ NothingIssued s t ∧ SameBytes s t ∧
        (∀ m, m ≠ f.core → coreOf t m = coreOf s m) ∧
        OnlyRegs c (ctxOf t f.core f.ctx) ∧ (∀ q, SameReg c (ctxOf t f.core f.ctx) q) ∧
        (coreOf t f.core).setCtx f.ctx c = { k with vec := v }
    ctxBecomes .lc0 (staged { c with lc0 := lc }) ∧
    ctxBecomes .li0 (staged { c with li0 := a }) ∧
    ctxBecomes .sk0 (staged { c with sk0 := a &&& 0x7FFFFFFFF#64 }) ∧
    ctxBecomes .lc1 (fun e => e = { c with lc1 := lc }) ∧
    ctxBecomes .li1 (fun e => e = { c with li1 := a }) ∧
    ctxBecomes .tvb (fun e => e = { c with tvb := a &&& 0xFFFFFFFFFFFFFFF0#64 }) ∧
    ctxBecomes .tcause (fun e => e = { c with tcause := a &&& 0x80FFFFFFFFFFFFFF#64 }) ∧
    ctxBecomes .tval (fun e => e = { c with tval := a }) ∧
    ctxBecomes .tpc (fun e => e = { c with tpc := a }) ∧
    Steers (.csrw .bsc xa fa) s f { f with bsc := some (a.extractLsb' 0 4) } ∧
    vecBecomes .vtype { k.vec with vtype := a &&& 0x1FFFFFFF#64 } ∧
    vecBecomes .vwin { k.vec with vwin := a &&& 0xFFF#64 }

/-- R65, R74, R75, R76: a block shift moves every register of the block one up with its mark and fills, and wraps the top one round.
What the end of a packet does to the loops: a branch inside an active body ends the loops whose bodies its target leaves; a packet that
takes none makes a step boundary where it is the inner loop's last, with a block shift, and an outer boundary where it is the outer
loop's last and the inner loop, if it is its last too, has just ended. The last packet's address is as log entry 113 says; a loop word is no
taken branch, so that its packet's boundaries are judged (log entry 31), and the next address is P + 16 modulo 2^48 (log entry 33). -/
def Obligations.BlockShiftAndLoopEnds : Prop :=
  ∀ c : Ctx,
    (∀ n : Nat, 32 ≤ n → n < 47 → c.shiftBlock.reg (BitVec.ofNat 6 (n + 1)) = c.reg (BitVec.ofNat 6 n)) ∧
    c.shiftBlock.reg 32#6 = c.reg 47#6 ∧
    (∀ n : Nat, n < 32 ∨ (47 < n ∧ n < 64) → c.shiftBlock.reg (BitVec.ofNat 6 n) = c.reg (BitVec.ofNat 6 n)) ∧
    c.shiftBlock.bsc.toNat = (c.bsc.toNat + 1) % 16 ∧
    { c.shiftBlock with x := c.x, bsc := c.bsc } = c ∧
    ∀ f : Issue,
      let pc := f.pc
      let d := c.flowOn pc f
      let after := (pc + 16#64) &&& 0x0000FFFFFFFFFFFF#64
      let off (l : Word) : Word := l &&& 0x7FFFFFFFFFFFFFFF#64
      let last (l : Word) : Prop := l.getLsbD 63 = true ∧ pc.toNat = lcEnd l
      let stops (x y : Ctx) : Prop :=
        { y with lc0 := x.lc0, p := x.p } = x ∧ y.lc0 = off x.lc0 ∧ (∀ j, 8 ≤ j → y.pred j = x.pred j) ∧
        ∀ j, 1 ≤ j → j < 8 → y.pred j = (x.pred j && !x.lc0.getLsbD 63)
      let outer (x : Ctx) : Prop :=
        let n := c.li1.toNat / 2 ^ 32
        let j := (c.li1.toNat + 1) % 2 ^ 32
        ∃ y, stops x y ∧ d = { y with
          li1 := w64 (n * 2 ^ 32 + j : Nat), lc1 := if j < n then c.lc1 else off c.lc1
          pc := if j < n then w64 (lcStart c.lc1) else after }
      (∀ t, f.next = some t → f.loop = false →
        let inside : Prop := c.lc0.getLsbD 63 = true ∧ lcHolds c.lc0 pc.toNat = true ∨ c.lc1.getLsbD 63 = true ∧ lcHolds c.lc1 pc.toNat = true
        ∃ y, (if inside ∧ lcHolds c.lc0 t.toNat = false then stops c y else y = c) ∧
          d = { y with pc := t, lc1 := if inside ∧ lcHolds c.lc1 t.toNat = false then off c.lc1 else c.lc1 }) ∧
      (f.next = none ∨ f.loop = true →
        (¬last c.lc0 → ¬last c.lc1 → d = { c with pc := f.next.getD after }) ∧
        (¬last c.lc0 → last c.lc1 → outer c) ∧
        (last c.lc0 →
          let x := { c with li0 := c.li0 + 1#64 }.shiftBlock
          let n := c.sk0.toNat % 2 ^ 32
          let k := c.sk0.toNat / 2 ^ 32 % 2 ^ 3
          if x.li0.toNat + 2 ≤ n + k then
            { d with pc := c.pc, p := c.p } = x ∧ d.pc = w64 (lcStart c.lc0) ∧ (∀ j, 8 ≤ j → d.pred j = c.pred j) ∧
            ∀ j : Nat, 1 ≤ j → j < 8 → d.pred j = decide (j ≤ k ∧ j - 1 ≤ x.li0.toNat ∧ x.li0.toNat < j - 1 + n)
          else ∃ y, stops x y ∧ (last c.lc1 → outer y) ∧ (¬last c.lc1 → d = { y with pc := after })))

/-- R67, R163, R165, R390: a precise fault with a handler enters it in one step; bits [63:48] of pc stay 0 (log entry 90). Registers,
predicates, FIFOs, loop state and all other state are unchanged, but that what has been preloaded for the gang is discarded. -/
def Obligations.TrapEntry : Prop :=
  ∀ (s : State) (core : Nat) (i : CtxId) (pc v : Word) (code : Nat),
    let c := ctxOf s core i
    c.tvb ≠ 0#64 → c.tcause.getLsbD 63 = false → code < 2 ^ 16 →
    let t := raise s core i pc code v
    OnlyCores s t core ∧ SameBytes s t ∧ OnlyContext s t core i ∧
    ctxOf t core i =
      { c with tpc := pc, tval := v, tcause := w64 (2 ^ 63 + code : Nat), hold := 0, images := [], tickWait := false,
               pc := c.tvb &&& 0x0000FFFFFFFFFFFF#64, handling := 0 :: c.handling }

/-- R164: without a handler, or inside one, a precise fault stops the context and is returned to the scheduler, which resets
the task's partition. TEND inside a handler returns the fault that tcause holds. -/
def Obligations.FaultReturned : Prop :=
  ∀ (s : State) (core : Nat) (i : CtxId) (pc v : Word) (code : Nat) (k : Task) (f : Issue), taskOf s core = some k →
    let c := ctxOf s core i
    (c.tvb = 0#64 ∨ c.tcause.getLsbD 63 = true →
      ∃ u, raise s core i pc code v = resetPartition u k.part code i.num core pc ∧
        OnlyCores s u core ∧ OnlyContext s u core i ∧ ctxOf u core i = { c with stopped := true }) ∧
    (c.tcause.getLsbD 63 = true →
      ∃ u, lastEffects s core i { f with eret := false, trap := none, tend := true, prack := false } =
          resetPartition u k.part (c.tcause.toNat % 2 ^ 16) i.num core c.tpc ∧
        { u with cores := s.cores } = s ∧ OnlyContext s u core i ∧
        ctxOf u core i = { c with ended := true, stopped := true })

/-- R130, R131, R133, R163, R170, R187, R302, R383, R398: what takes effect last in a packet. ERET goes to tpc and clears inh, and a
held command that the handled report named goes on at its micro-PC, a copy's micro-operation from its start, or is sent again where its
engine is not tracked; a scheduler word is sent as of the ERET, behind what its context has issued. TRAP n enters the handler with the pc
that the packet leaves (bits [63:48] of pc stay 0: log entry 90), and what has been preloaded for the gang is discarded; TEND ends the
context; after PRACK a gang whose flag is set stops, and is saved where nothing of it is to fill: what the save holds stays in place (log
entries 50 and 87). -/
def Obligations.LastEffects : Prop :=
  ∀ (s : State) (core : Nat) (i : CtxId) (f : Issue) (n : BitVec 8),
    let c := ctxOf s core i
    let quiet : Issue := { f with eret := false, trap := none, tend := false, prack := false }
    let only (t : State) (d : Ctx) : Prop :=
      { t with cores := s.cores } = s ∧ SameBytes s t ∧ OnlyContext s t core i ∧ ctxOf t core i = d
    (c.handling.headD 0 = 0 →
      only (lastEffects s core i { quiet with eret := true })
        { c with pc := c.tpc, tcause := c.tcause &&& 0x7FFFFFFFFFFFFFFF#64, handling := c.handling.drop 1 }) ∧
    (∀ m l d, c.handling = m :: l → m ≠ 0 → cmdOf s m = some d → d.phase = .held →
      let t := lastEffects s core i { quiet with eret := true }
      let e : Cmd := { d with
        phase := if d.cls.tracked = true then d.back else .queued, fault := 0, denied := false, lost := none
        work := if d.cls = .copy then [] else d.work }
      (d.cls ≠ .sched → cmdOf t m = some e) ∧
      (d.cls = .sched → ∃ e', cmdOf t m = some e' ∧
        { e' with disp := d.disp, seq := d.seq, slot := d.slot, edges := d.edges, waits := d.waits, farWaits := d.farWaits } = e ∧
        e'.disp = s.nextId ∧ e'.seq = (ctxOf s d.core d.ctx).seq ∧ e'.slot = 0 ∧
        (d.ctx = .C → ∀ x ∈ s.cmds, x.core = d.core → x.cls = .vector → x.id ∈ e'.edges) ∧ (∀ n ∈ d.waits, n ∈ e'.waits) ∧
        ∀ a ∈ s.acc, a.core = d.core → a.ctx = some d.ctx → a.id ∈ e'.waits) ∧
      (∀ o, o ≠ m → cmdOf t o = cmdOf s o) ∧ { t with cores := s.cores, cmds := s.cmds, nextId := s.nextId } = s ∧
      t.nextId = s.nextId + 1 ∧ OnlyContext s t core i ∧
      ctxOf t core i = { c with pc := c.tpc, tcause := c.tcause &&& 0x7FFFFFFFFFFFFFFF#64, handling := l }) ∧
    (c.tvb ≠ 0#64 → c.tcause.getLsbD 63 = false →
      let t := lastEffects s core i { quiet with trap := some n.toNat }
      OnlyCores s t core ∧ SameBytes s t ∧ OnlyContext s t core i ∧ ctxOf t core i =
        { c with tpc := c.pc, tval := w64 n.toNat, tcause := w64 (2 ^ 63 + 0xA : Nat), hold := 0, images := [],
                 tickWait := false, pc := c.tvb &&& 0x0000FFFFFFFFFFFF#64, handling := 0 :: c.handling }) ∧
    (c.tcause.getLsbD 63 = false →
      only (lastEffects s core i { quiet with tend := true }) { c with ended := true }) ∧
    (∀ k g, taskOf s core = some k → gangOf s k.gang = some g →
      let t := lastEffects s core i { quiet with prack := true }
      let stops (h : Gang) : Prop := { t with gangs := s.gangs } = s ∧ gangOf t k.gang = some h ∧
        ∀ n, n ≠ k.gang → gangOf t n = gangOf s n
      (g.flag = none → t = s) ∧
      (g.flag ≠ none → g.notices = [] → g.watch = [] → g.saved = false →
        ((∃ a ∈ s.acc, a.core ∈ g.cores ∧ a.kind.writes = false) → stops { g with stopping := true }) ∧
        ((∀ a ∈ s.acc, a.core ∈ g.cores → a.kind.writes = true) → (∀ d ∈ s.cmds, d.gang ≠ k.gang ∧ d.core ∉ g.cores) →
          ∀ p, partOf s g.part = some p → p.saveAt = none → p.invals = [] →
            stops { g with stopping := true, saved := true, preloaded := false }))) ∧
    lastEffects s core i quiet = s

/-! Engine words (R11, R12, R19, R63). -/

/-- R11, R219: a vector word is sent to the vector unit with vtype, vwin, the bindings and its scalar registers. VWIN also moves
the window. VFENCE is not sent: see FenceWords. -/
def Obligations.VectorSent : Prop :=
  ∀ (s : State) (f : Issue) (i : Instr) (xb : RegNo), Acting s f →
    (wordCls i = some .vector → (∀ r, i ≠ .vwin r) → i ≠ .vfence →
      ∃ c, Sends i s f (fillRegs i) c ∧ c.sentBy i .vector s f ∧ c.vals = (srcRegs i).map (fun r => f.rd r.1) ∧
        c.vtype = f.vtype ∧ c.vwin = f.vwin ∧ c.ports = f.ports) ∧
    ∃ t c, exec (.vwin xb) s = .next t ∧
      SentTo (modCore s f.core (fun k => { k with vec := { k.vec with
        vwin := w64 ((f.vwin.toNat % 4096 + (f.rd xb).toNat) % 4096 : Nat) } })) t f [] c ∧
      c.sentBy (.vwin xb) .vector s f ∧ c.vals = [f.rd xb]

/-- R244, R246, R259: a matrix word forms its command at issue and sends it; MFMT writes its format entry and sends
nothing. -/
def Obligations.MatrixSent : Prop :=
  ∀ (s : State) (f : Issue) (tpl fsel : BitVec 6) (value : BitVec 16), Acting s f →
    let formed (op : Nat) : TplImage := (formCmd (coreOf s f.core) f.snap .matrix op tpl.toNat fsel.toNat value.toNat).img
    let sent (i : Instr) (op : Nat) : Prop :=
      ∃ c, Sends i s f [BitVec.ofNat 6 (tplField .matrix (formed op) 2)] c ∧ c.sentBy i .matrix s f ∧
        c.img = formed op ∧ c.tslot = tpl.toNat ∧ c.fmt = fmtEntry (coreOf s f.core) f.snap (formed op)
    sent (.mma tpl fsel value) 1 ∧ sent (.mmag tpl fsel value) 2 ∧ sent (.mwld tpl fsel value) 3 ∧
    sent (.mdrain tpl fsel value) 4 ∧ sent (.mzero tpl fsel value) 5 ∧ sent (.mstat tpl fsel value) 7 ∧
    sent (.mfence tpl fsel value) 8 ∧
    ∃ t, exec (.mfmt tpl fsel value) s = .next t ∧ OnlyIssued s t ∧ NothingIssued s t ∧ SameBytes s t ∧
      (∀ m, m ≠ f.core → coreOf t m = coreOf s m) ∧
      OnlyRegs (ctxOf s f.core f.ctx) (ctxOf t f.core f.ctx) ∧
      (∀ q, SameReg (ctxOf s f.core f.ctx) (ctxOf t f.core f.ctx) q) ∧
      ∃ fmts, (coreOf t f.core).setCtx f.ctx (ctxOf s f.core f.ctx) = { coreOf s f.core with fmts := fmts } ∧
        kget fmts (fmtNo (formed 6) f.snap) = some (mxFval (formed 6)) ∧
        ∀ m, m ≠ fmtNo (formed 6) f.snap → kget fmts m = kget (coreOf s f.core).fmts m

/-- R276, R284: a copy word forms its command at issue, captures its record and sends it. CPY.FOLLOW also forms its matrix
command, whose completion register becomes empty too. -/
def Obligations.CopySent : Prop :=
  ∀ (s : State) (f : Issue) (tpl fsel : BitVec 6) (value : BitVec 16), Acting s f →
    let k := coreOf s f.core
    let formed (op : Nat) : TplImage := (formCmd k f.snap .copy op tpl.toNat fsel.toNat value.toNat).img
    let right (c : Cmd) (i : Instr) (op : Nat) : Prop :=
      c.sentBy i .copy s f ∧ c.img = formed op ∧ c.tslot = tpl.toNat ∧ c.lrec = (k.recSlot (cpRec (formed op))).img
    let done (op : Nat) : RegNo := BitVec.ofNat 6 (tplField .copy (formed op) 2)
    let sent (i : Instr) (op : Nat) : Prop := ∃ c, Sends i s f [done op] c ∧ right c i op
    sent (.cpyIn tpl fsel value) 1 ∧ sent (.cpyOut tpl fsel value) 2 ∧ sent (.cpyGather tpl fsel value) 3 ∧
    sent (.cpyScat tpl fsel value) 4 ∧ sent (.cpyRing tpl fsel value) 5 ∧ sent (.cpyT tpl fsel value) 6 ∧
    sent (.cpyBar tpl fsel value) 8 ∧ sent (.cpyFill tpl fsel value) 9 ∧ sent (.lrec tpl fsel value) 10 ∧
    sent (.cpyStat tpl fsel value) 11 ∧
    (let m := (formImage .matrix f.snap (k.tpl .matrix (cpFtpl (formed 7))).img 0 0).img
     let fills := done 7 :: (if mxOp m = 6 then [] else [BitVec.ofNat 6 (mxDone m)])
     ∃ c t, exec (.cpyFollow tpl fsel value) s = .next t ∧ SentTo s { t with nextId := s.nextId + 1 } f fills c ∧
       t.nextId = s.nextId + 2 ∧ right c (.cpyFollow tpl fsel value) 7 ∧ c.fslot = cpFtpl (formed 7) ∧ c.fimg = m)

/-- R315, R321: a Prism word forms its command at issue and sends it. XCH.RECV on an open channel also takes its target, the
bytes received so far and those that it asks for. -/
def Obligations.PrismSent : Prop :=
  ∀ (s : State) (f : Issue) (tpl fsel : BitVec 6) (value : BitVec 16), Acting s f →
    let formed (op : Nat) : TplImage := (formCmd (coreOf s f.core) f.snap .prism op tpl.toNat fsel.toNat value.toNat).img
    let done (op : Nat) : RegNo := BitVec.ofNat 6 (tplField .prism (formed op) 2)
    let right (c : Cmd) (i : Instr) (op : Nat) : Prop := c.sentBy i .prism s f ∧ c.img = formed op ∧ c.tslot = tpl.toNat
    let sent (i : Instr) (op : Nat) : Prop := ∃ c, Sends i s f [done op] c ∧ right c i op
    sent (.xsort tpl fsel value) 1 ∧ sent (.xa2a tpl fsel value) 2 ∧ sent (.xchOpen tpl fsel value) 3 ∧
    sent (.xchWin tpl fsel value) 4 ∧ sent (.xchSend tpl fsel value) 5 ∧ sent (.xchClose tpl fsel value) 7 ∧
    sent (.xringRs tpl fsel value) 8 ∧ sent (.xringAg tpl fsel value) 9 ∧ sent (.xstat tpl fsel value) 10 ∧
    ∃ c t, exec (.xchRecv tpl fsel value) s = .next t ∧ SentTo s { t with recvs := s.recvs } f [done 6] c ∧
      right c (.xchRecv tpl fsel value) 6 ∧
      (∀ n, n ≠ xeChan (formed 6) → kget t.recvs n = kget s.recvs n) ∧
      match kget s.recvs (xeChan (formed 6)) with
      | none => t.recvs = s.recvs ∧ c.work = []
      | some r =>
        if r.core = f.core ∧ r.part = (frameTask s f).part then
          c.work = [r.rcv + xeN (formed 6) * r.rsz] ∧
          kget t.recvs (xeChan (formed 6)) = some { r with rcv := r.rcv + xeN (formed 6) * r.rsz }
        else t.recvs = s.recvs ∧ c.work = []

/-- R11, R63, R297, R332, R348, R370: an atomic, stash, line or scheduler word is sent with the registers that it reads; its
reply registers become empty. PRACK is not among them. -/
def Obligations.ReplyWordsSent : Prop :=
  ∀ (s : State) (f : Issue) (i : Instr) (e : Cls), Acting s f → wordCls i = some e →
    e = .atomic ∨ e = .stash ∨ e = .line ∨ e = .sched → (∀ sc, i ≠ .prack sc) →
    ∃ c, Sends i s f (fillRegs i) c ∧ c.sentBy i e s f ∧ c.vals = (srcRegs i).map (fun r => f.rd r.1) ∧
      c.waits = ownPending s f.core f.ctx ∧
      (releases (ordScope i).1 = true → ∀ n, n ∈ coveredAt s f.core f.ctx → n ∈ c.farWaits) ∧
      (releases (ordScope i).1 = false → c.farWaits = [])

/-- R168: PTSET of an unprivileged task raises PRIV, and nothing of it takes effect. -/
def Obligations.PrivilegeTrap : Prop :=
  ∀ (s : State) (f : Issue) (scope : Scope) (xd xa : RegNo) (xb : BitVec 5), s.issue = some f → f.checked = false →
    (frameTask s f).priv = false →
    exec (.ptset scope xd xa xb) s = .next (raise s f.core f.ctx f.pc 0xD
      (w64 (f.slot * 2 ^ 32 + (encode (.ptset scope xd xa xb)).toNat : Nat)))

/-! Engines (R14, R19, R20, R81, R83, R260, R288). -/

/-- R81, R83, R14: a hold runs out on the agenda's pace (log entries 1 and 23), a contended queue entry is granted in round robin, context
L first where none has won one (log entry 3), the tracker takes the oldest queued command, and a command starts when its edges are
satisfied. -/
def Obligations.QueuesAndTracker : Prop :=
  (∀ (s : State) (core : Nat) (i : CtxId), (ctxOf s core i).hold ≠ 0 → coreSaved s core = false →
    ∃ t, exec (.holdExpiry core i) s = .next t ∧ { t with pace := s.pace } = s ∧
      (ctxOf (advance t (paceOf t)) core i).hold = 0) ∧
  (∀ (s : State) (core : Nat) (e : Cls) (l : List Nat) (i j : CtxId),
    let k := coreOf s core
    let last := match kget k.won e.code with
      | some w => w.num
      | none => 2
    kget k.grants e.code = none → kget k.waiting e.code = some l → i ≠ j → i.num ∈ l → j.num ∈ l →
    queueLength s core e < 32 →
    ∃ w t, exec (.queueEntryGrant core e) s = .next t ∧ { t with cores := s.cores } = s ∧ OnlyCore s t core ∧
      coreOf t core = { k with grants := kput k.grants e.code w, won := kput k.won e.code w } ∧
      w.num ∈ l ∧ ∀ o : CtxId, o.num ∈ l → (w.num + 2 - last) % 3 ≤ (o.num + 2 - last) % 3) ∧
  (∀ (s : State) (c : Cmd), cmdOf s c.id = some c → c.cls.tracked = true → c.phase = .queued →
    (∀ d ∈ s.cmds, d.core = c.core → d.cls.tracked = true → d.phase = .queued → d = c ∨ c.disp < d.disp) →
    (tracked s c.core).length < 32 → (∀ g, gangOf s c.gang = some g → g.saved = false) →
    ∃ t edges, exec (.trackerAdmit c.core) s = .next t ∧ { t with cmds := s.cmds } = s ∧ OnlyCmd s t c.id ∧
      cmdOf t c.id = some { c with phase := .admitted, edges := c.edges ++ edges } ∧
      ∀ n, n ∈ edges ↔ ∃ o ∈ s.cmds, o.id = n ∧ o.core = c.core ∧ o.cls.tracked = true ∧ o.phase ≠ .queued ∧
        ((∃ x ∈ c.reads, ∃ y ∈ o.writes, x.Shares y) ∨ ∃ x ∈ c.writes, ∃ y ∈ o.reads ++ o.writes, x.Shares y)) ∧
  ∀ (s : State) (c : Cmd), cmdOf s c.id = some c → c.phase = .admitted → c.cls.tracked = true →
    (waitsDone s c = true → gangRuns s c = true → engineFree s c = true → (∀ n ∈ c.edges, cmdOf s n = none) →
      ∃ t, exec (.commandStart c.id) s = .next t ∧ { t with cmds := s.cmds } = s ∧ OnlyCmd s t c.id ∧
        cmdOf t c.id = some { c with phase := .running }) ∧
    ((∃ n ∈ c.edges, cmdOf s n ≠ none) → exec (.commandStart c.id) s = .next s)

/-- R249 to R264, R278 to R288, R316 to R325, R332 to R340, R347 to R364, R19, R20: what the micro-operations of the matrix engine, the
copy engine, Prism, the stash engines and the line engines compute and write, and what a command's completion fills. A micro-operation is
stated for a command that runs, whose operands can be read and whose writes nothing holds. A copy's transposed granules and the placement
of CPY.FOLLOW's command come behind the image's whole set (log entry 120); XCH.RECV takes its target at dispatch, or later where its
channel was not open (log entry 100); one piece of an XA2A is under way at a time (log entry 21); MWLD, MDRAIN and MZERO work in the
blocks of log entry 15; the padding of a transposed stash image is a free value (log entry 24), and so is whether a fetch from a pool
fails (log entry 103); the pages of the named store lie where log entry 66 has them; a transfer to the own node sends no line (log entry
30). -/
def Obligations.EngineCompletion : Prop :=
  (∀ (s : State) (c : Cmd), cmdOf s c.id = some c → mayRun s c = true →
    let k := coreOf s c.core
    (c.cls = .matrix → mxOp c.img = 7 →
      ∃ t, exec (.engineMicroOp c.id) s = .next t ∧ { t with cores := s.cores, cmds := s.cmds } = s ∧ OnlyCmd s t c.id ∧
        OnlyCore s t c.core ∧ coreOf t c.core = { k with sticky := if mxClr c.img = 1 then 0#4 else k.sticky } ∧
        cmdOf t c.id = some { c with phase := .finished, code := 0, value := k.sticky.toNat }) ∧
    (c.cls = .copy → cpOp c.img = 11 →
      (∀ a ∈ s.acc, a.core = c.core → a.kind = .eng → a.store = 10 → c.id ≤ a.cmd) →
      ∃ t l, exec (.engineMicroOp c.id) s = .next t ∧ { t with cmds := s.cmds } = s ∧ OnlyCmd s t c.id ∧
        cmdOf t c.id = some { c with phase := .finished, code := 0, value := k.total.toNat, acq := l } ∧
        ∀ n, n ∈ l ↔ ∃ a ∈ s.backInv, a.id = n ∧ a.core = c.core ∧ a.kind = .eng ∧ a.store = 10 ∧ a.cmd < c.id)) ∧
  (∀ (s : State) (c : Cmd), AtWork s c .matrix → Unheld s c →
    let t := c.img
    let e := c.fmt
    let k := coreOf s c.core
    let rd (off n : Nat) : List Byte := spView s c.core off n
    let ends (u : State) (value : Nat) : Prop := Works s c u { c with phase := .finished, code := 0, value := value }
    let goes (u : State) : Prop := Works s c u { c with upc := c.upc + 1 }
    let ks : Nat := if fmtA e = 1 then 64 else 128
    let nkg := (mxK t + ks - 1) / ks
    let ncg := (mxN t + 63) / 64
    let blocks (n : Nat) : Nat := (n + 63) / 64
    let passes (l : List Nat) : Nat := (l.map (fun n => ncg * nkg * blocks n)).sum
    let pat (g j x : Nat) : Nat :=
      let b := mxBof t + j * mxBstr t + g * mxBgstr t
      match fmtB e with
      | 1 => leNat (rd (b + 2 * x) 2)
      | 7 => leNat (rd (b + x / 2) 1) / 2 ^ (4 * (x % 2)) % 16
      | 8 => leNat (rd (b + 12 * (x / 32)) 12) / 2 ^ (3 * (x % 32)) % 8
      | _ => leNat (rd (b + x) 1)
    let scale (g j x : Nat) : Nat :=
      if fmtB e = 7 ∨ fmtB e = 8 then leNat (rd (mxBscl t + j * mxBsstr t + g * mxBgstr t + 2 * (x / fmtG e)) 2)
      else if fmtBmx e = true then
        leNat (rd (mxBpof t + g * mxBgstr t + x / (ks / 2 ^ fmtBgc e) * ((mxN t + 2 ^ fmtBgc e - 1) / 2 ^ fmtBgc e) + j / 2 ^ fmtBgc e) 1)
      else 127
    let starts (l : List Nat) : Prop :=
      let w := k.shadow
      let fits : Prop := w.valid = true ∧ w.btype = fmtB e ∧ w.g = fmtGc e
      (mxBpre t = 1 → ¬fits → exec (.engineMicroOp c.id) s = .next (engineFault s c 0x904 0#64)) ∧
      (mxBpre t ≠ 1 ∨ fits → Works s c (setCore s c.core { k with shadow := Shadow.reset })
        { c with upc := 1, work := l, tile := if mxBpre t = 1 then some w else none })
    (mxOp t = 1 → c.upc = 0 → starts [mxM t]) ∧
    (mxOp t = 2 → c.upc = 0 →
      let l := (List.range (mxNg t)).map (fun g => leNat (((rd (mxRof t) (4 * mxNg t)).drop (4 * g)).take 4))
      (∀ g, g < mxNg t → (l.take g).sum ≤ mxM t → mxM t < (l.take (g + 1)).sum →
        exec (.engineMicroOp c.id) s = .next (engineFault s c 0x903 (BitVec.ofNat 64 g))) ∧
      (l.sum ≤ mxM t → 2 ^ 24 ≤ 1 + passes l → exec (.engineMicroOp c.id) s = .next (engineFault s c 0x903 0xFFFFFFFF#64)) ∧
      (l.sum ≤ mxM t → 1 + passes l < 2 ^ 24 → starts l)) ∧
    (∀ (l r : List Nat) (n cg kg b : Nat), mxOp t = 1 ∨ mxOp t = 2 → c.work = l ++ n :: r → cg < ncg → kg < nkg → b < blocks n →
      c.upc = 1 + passes l + (cg * nkg + kg) * blocks n + b →
      let g := l.length
      let rows := (List.range (min 64 (n - 64 * b))).map (fun i => l.sum + 64 * b + i)
      let cols := (List.range (min 64 (mxN t - 64 * cg))).map (fun j => 64 * cg + j)
      let m := min ks (mxK t - kg * ks)
      let steps := (List.range m).map (fun x => kg * ks + x)
      let av (i : Nat) : List Machine.Num :=
        let a := mxAof t + i * mxAstr t
        match mxAsrc t with
        | 1 => unpackRow ((fmtOf (fmtA e)).getD e4m3) rd a (mxK t) (mxZbm t == 1) (kg * ks) m
        | 2 => steps.map (fun x => decNum (fmtA e)
            (rnd (decNum 0 (leNat (rd (a + 4 * x) 4))) (fmtA e) (mxDrm t) (mxDsat t == 1) Rand.zero))
        | _ => steps.map (fun x =>
            let z := if fmtA e = 1 then 2 else 1
            let y := decNum (fmtA e) (leNat (rd (a + z * x) z))
            if fmtAmx e = true then
              y.mul (decE8 (leNat (rd (mxApof t + i / 2 ^ fmtAgc e * (nkg * 2 ^ fmtAgc e) + x / (ks / 2 ^ fmtAgc e)) 1)))
            else y)
      let bv (j : Nat) : List Machine.Num := match (if g = 0 ∧ cg = 0 ∧ kg = 0 then c.tile else none) with
        | some w => (List.range m).map (tileVal w j)
        | none => steps.map (fun x => bVal (fmtB e) (pat g j x, scale g j x))
      let sum (i j : Nat) : Machine.Num := Machine.Num.sum (List.zipWith Machine.Num.mul (av i) (bv j) ++ if m < ks then [.fin false 0 0] else [])
      let add (i j : Nat) : Nat := rndFloat ((sum i j).mul (tileScale t)) fp32 0 false Rand.zero
      let fresh : Prop := mxMode t = 0 ∧ kg = 0
      let out (v : Nat → Nat → Nat) : List (Nat × List Byte) := rows.map (fun i =>
        (mxCof t + i * mxCstr t + 4 * (64 * cg), cols.flatMap (fun j => natBytes (v i j) 4)))
      let val (i j : Nat) : Nat := addFp32 0 (add i j)
      (fresh → ∃ u, Stores s u c .eng (out val) ∧ goes (setCore u c.core { k with
        sticky := k.sticky ||| accSticky (rows.flatMap (fun i => cols.map (fun j => decNum 0 (val i j)))) })) ∧
      (¬fresh → ∃ u, Stores s u c .acc (out add) ∧ goes u)) ∧
    (mxOp t = 1 → c.upc = 1 + passes c.work → ends s (mxM t * mxN t)) ∧
    (mxOp t = 2 → c.upc = 1 + passes c.work → ends s (c.work.sum * mxN t)) ∧
    (mxOp t = 3 →
      let m := min (mxK t) ks
      let cells := (List.range (min (mxN t) 64)).flatMap (fun j => (List.range m).map (fun x => (j, x)))
      ends (setCore s c.core { k with
        shadow := ⟨true, fmtB e, fmtGc e, m, cells.map (fun p => pat 0 p.1 p.2), cells.map (fun p => scale 0 p.1 p.2)⟩ })
        (((mxReads 3 t e).filter MxExt.live).map (fun x => x.count * x.size)).sum) ∧
    (mxOp t = 4 ∨ mxOp t = 5 →
      let place (i : Nat) : Nat := mxCof t + i * mxCstr t
      let rows := (List.range (min 64 (mxM t - 64 * (c.upc - 1)))).map (fun i => 64 * (c.upc - 1) + i)
      (c.upc = 0 → goes s) ∧
      (1 ≤ c.upc → c.upc ≤ blocks (mxM t) → mxOp t = 4 →
        let row (i : Nat) : List Nat :=
          (List.range (mxN t)).map (fun j => leNat (((rd (place i) (4 * mxN t)).drop (4 * j)).take 4))
        let xs (i : Nat) : List Machine.Num := (row i).map (decNum 0)
        let sat := mxDsat t == 1
        let made (i : Nat) : List Byte := match mxDtype t with
          | 0 => (row i).flatMap (fun v => natBytes v 4)
          | 1 => (xs i).flatMap (fun x => natBytes (rndFloat x bf16 (mxDrm t) sat Rand.zero) 2)
          | 2 => packRow e4m3 (mxDrm t) sat (mxZbm t == 1) (xs i)
          | _ => packRow e5m2 (mxDrm t) sat (mxZbm t == 1) (xs i)
        let nan (i : Nat) : Bool := match mxDtype t with
          | 0 | 1 => (xs i).any Machine.Num.isNan
          | 2 => packNan e4m3 (mxDrm t) sat (xs i)
          | _ => packNan e5m2 (mxDrm t) sat (xs i)
        let past (i : Nat) : Bool := mxDtype t == 1 && (xs i).any (fun x => bf16Over x (mxDrm t))
        let full (i : Nat) : List Byte := made i ++ List.replicate (32 * (((made i).length + 31) / 32) - (made i).length) 0#8
        ∃ u, Stores s u c .eng (rows.map (fun i => (mxDof t + i * mxDstr t, full i))) ∧
          Works s c (setCore u c.core { k with
            sticky := k.sticky ||| ((if rows.any nan = true then 8#4 else 0#4) ||| if rows.any past = true then 4#4 else 0#4) })
            { c with upc := c.upc + 1, counted := c.counted + (rows.map (fun i => (full i).length)).sum }) ∧
      (1 ≤ c.upc → c.upc ≤ blocks (mxM t) → mxOp t = 5 →
        ∃ u, Stores s u c .eng (rows.map (fun i => (place i, List.replicate (4 * mxN t) 0#8))) ∧ goes u) ∧
      (blocks (mxM t) < c.upc → ends s (if mxOp t = 4 then c.counted else mxM t * mxN t))) ∧
    (mxOp t = 8 →
      ((∀ a ∈ s.acc, a.core = c.core → a.kind = .eng ∨ a.kind = .acc → a.store ≠ 9) → ends s 0) ∧
      ((∃ a ∈ s.acc, a.core = c.core ∧ (a.kind = .eng ∨ a.kind = .acc) ∧ a.store = 9) → exec (.engineMicroOp c.id) s = .next s))) ∧
  (∀ (l : List (Word × List Byte)),
    (∀ p ∈ l, p.2 ≠ [] ∧ p.1.toNat / 32 = (p.1.toNat + p.2.length - 1) / 32) →
    ∀ (a : Nat) (b : Byte), lastByte l a = some b ↔
      ∃ p ∈ (granuleRuns l).flatten, p.1.toNat ≤ a ∧ p.2[a - p.1.toNat]? = some b) ∧
  (∀ (s : State) (c : Cmd), AtWork s c .copy → Unheld s c →
    let t := c.img
    let op := cpOp t
    let w := c.window
    let k := coreOf s c.core
    let n := c.upc - 1
    let whole := w.count * w.es
    let inner := ((List.range w.count).filter w.inside).length * w.es
    let onward : Cmd := { c with upc := c.upc + 1 }
    let ends (u : State) (code value : Nat) : Prop := Works s c u { c with phase := .finished, code := code, value := value }
    let idles : Prop := exec (.engineMicroOp c.id) s = .next s
    let faults (code value : Nat) : Prop := exec (.engineMicroOp c.id) s = .next (engineFault s c code (BitVec.ofNat 64 value))
    let read (a m : Nat) (val : Nat → List Byte) : Prop := ∀ e ∈ w.within a m,
      if op ≠ 9 ∧ w.inside e = true then engGet s c (w.addr e) w.es = .ok (val e) else val e = natBytes w.fill w.es
    let writes (a : Nat) (data : List Byte) (d : List (Word × List Byte) → Cmd) : Prop :=
      let l := ((w.within a data.length).filter w.inside).map (fun e => (w.addr e, (data.drop (w.byte e - a)).take w.es))
      (∀ p ∈ l, ∃ x, engDest s c p.1 p.2.length .write = .ok x) →
      (∀ p ∈ (granuleRuns l).flatten, (engTestAt s c p.1 p.2.length).good = true) →
      ∃ u, Scatters s u c (granuleRuns l).flatten ∧ Works s c u (d l)
    (c.upc = 0 → op ∈ [1, 2, 5, 6, 7, 9, 10] → Works s c s onward) ∧
    (c.upc = 0 → op = 3 ∨ op = 4 →
      let b := spView s c.core (cpIxof t) (4 * cpNidx t)
      let list := (List.range (cpNidx t)).map (fun i => (BitVec.ofNat 32 (leNat ((b.drop (4 * i)).take 4))).toInt)
      Works s c s { onward with
        list := list, locks := if op = 4 then copyLocks s c.core t (windowOf t c.lrec list) c.writes false else none }) ∧
    (c.upc = 0 → op = 8 → ∀ p, partOf s c.part = some p →
      (bindError p (cpBar t) = none → Works s c (touchBlock s c.part (cpBar t)) onward) ∧
      ∀ code, bindError p (cpBar t) = some code → faults code (cpBar t)) ∧
    (1 ≤ c.upc → n < w.set → op ∈ [1, 3, 6, 7, 9] → cpDst t % 32 = 0 → ∀ val, read (32 * n) 32 val →
      ∃ v u data, Cached s v ∧ w.Shows (32 * n) 32 val data ∧ Stores v u c .eng [(w.place (cpDst t) n, data)] ∧ Works s c u onward) ∧
    (1 ≤ c.upc → n < w.set → op ∈ [2, 4] → writes (32 * n) (spView s c.core (w.place (cpDst t) n) 32) (fun _ => onward)) ∧
    (1 ≤ c.upc → n < w.set → op = 8 → c.work = [] → writes (32 * n) (spView s c.core (w.place (cpDst t) n) 32) (fun l =>
      { c with work := [(l.map (fun p => p.2.length)).sum] })) ∧
    (1 ≤ c.upc → n < w.set → op = 8 → ∀ m r p, c.work = m :: r → partOf s c.part = some p → (∀ a ∈ s.acc, a.cmd ≠ c.id) →
      (∀ o ∈ s.cmds, o.core = c.core → o.ctx = c.ctx → o.cls = .atomic → o.disp < c.disp → o.phase = .waiting) →
      let b := barrierAt p (cpBar t)
      (c.refused = true ∨ b.pz = true → Works s c s { onward with work := [], refused := true }) ∧
      (c.refused = false → b.pz = false → cpBar t ∉ p.syncPz → cpBar t + 8 ∉ p.syncPz → -2 ^ 31 ≤ b.b - m → b.a ≠ 0 →
        (∀ x ∈ p.waiters, x.sem = true → x.addr ≠ cpBar t ∧ x.addr ≠ cpBar t + 8) →
        ∃ u q, Works s c u { onward with work := [], counted := c.counted + m } ∧
          { u with parts := s.parts, resident := s.resident } = s ∧ (∀ i, i ≠ c.part → partOf u i = partOf s i) ∧
          partOf u c.part = some q ∧ { q with sync := p.sync } = p ∧ barrierAt q (cpBar t) = { b with b := b.b - m })) ∧
    (c.upc = w.set + 1 → (op ∈ [1, 3, 9] → ends s 0 whole) ∧ (op ∈ [2, 4] → ends s 0 inner) ∧
      (op = 8 → ends s (if c.refused = true then 0xA81 else 0) c.counted)) ∧
    (op = 5 → 1 ≤ c.upc →
      let out := ((kget c.ports (cpPort t - 60)).map (fun p => p.out)).getD false
      let count := (w.granules + 7) / 8
      (c.upc = count + 1 → ends s 0 (if out = true then inner else whole)) ∧
      (n < count → out = true → c.elem.length = 256 * (n + 1) → writes (256 * n) (c.elem.drop (256 * n)) (fun _ => onward)) ∧
      ∀ p, kget k.vec.ports (cpPort t - 60) = some p → n < count →
        let put (p : Port) : Vec := { k.vec with ports := kput k.vec.ports (cpPort t - 60) p }
        (out = true → c.elem.length = 256 * n → (p.count = 0 → idles) ∧
          (p.count ≠ 0 → Works s c (setCore s c.core { k with vec := put { p with head := (p.head + 1) % p.len, count := p.count - 1 } })
            { c with elem := c.elem ++ spView s c.core (256 * (p.base + p.head)) 256 })) ∧
        (out = false → ∀ val, read (256 * n) 256 val →
          (p.len ≤ p.count → idles) ∧
          (p.count < p.len → (∀ x ∈ s.acc, x.core = c.core → x.kind.writes = true → x.cmd = c.id ∨ x.nearAt = 0) →
            ∃ u data, w.Shows (256 * n) 256 val data ∧ Works s c u onward ∧
              Wrote s u (.sp c.core (256 * (p.base + (p.head + p.count) % p.len))) data ∧ OnlyCore s u c.core ∧
              { u with cores := s.cores, tcache := s.tcache, wcache := s.wcache, l2 := s.l2 } = s ∧
              { coreOf u c.core with sp := k.sp, spBad := k.spBad } = { k with vec := put { p with count := p.count + 1 } }))) ∧
    (op = 6 →
      (∀ a b r, w.box = a :: b :: r → w.turned = { w with box := b :: a :: r } ∧
        ∀ i j q, i < a → j < b → w.turnBack (j + b * (i + a * q)) = i + a * (j + b * q)) ∧
      (w.set + 1 ≤ c.upc → n - w.set < w.turned.set → cpDst2 t % 32 = 0 →
        let m := n - w.set
        let val (e : Nat) : List Byte :=
          let b := w.byte (w.turnBack e)
          spView s c.core (w.place (cpDst t) (b / 32) + b % 32) w.es
        ∃ u data, w.turned.Shows (32 * m) 32 val data ∧ Stores s u c .eng [(w.turned.place (cpDst2 t) m, data)] ∧ Works s c u onward) ∧
      (c.upc = w.set + w.turned.set + 1 → ends s 0 (2 * whole))) ∧
    (op = 7 → c.upc = w.set + 1 →
      (mxOp c.fimg = 6 → ends (setCore s c.core { k with fmts := kput k.fmts c.ffmt (mxFval c.fimg) }) 0 whole) ∧
      (mxOp c.fimg ≠ 6 → 32 ≤ queueLength s c.core .matrix → idles) ∧
      (mxOp c.fimg ≠ 6 → queueLength s c.core .matrix < 32 →
        ∃ m l, exec (.engineMicroOp c.id) s = .next { s with cmds := l ++ [m], nextId := s.nextId + 1 } ∧
          OnlyCmd s { s with cmds := l } c.id ∧
          cmdOf { s with cmds := l } c.id = some { c with phase := .finished, code := 0, value := whole } ∧
          m.id = c.id + 1 ∧ m.core = c.core ∧ m.ctx = c.ctx ∧ m.cls = .matrix ∧ m.part = c.part ∧ m.gang = c.gang ∧
          m.tslot = c.fslot ∧ m.creg = c.freg ∧ m.img = c.fimg ∧ m.fmt = c.ffmt ∧ m.disp = s.nextId ∧ m.phase = .queued ∧ m.upc = 0 ∧
          m.edges = [] ∧ m.reads = footprint c.core (mxReads (mxOp c.fimg) c.fimg c.ffmt ++ mxOwn (mxOp c.fimg) c.fimg) ∧
          m.writes = footprint c.core (mxWrites (mxOp c.fimg) c.fimg))) ∧
    (op = 10 → 1 ≤ c.upc →
      let a := BitVec.ofNat 64 (cpAddr t)
      let put (u : State) (r : RecSlot) : State := modCore u c.core (fun k => { k with recs := kput k.recs (cpRec t) r })
      (∀ b0 b1 b2, engGet s c a 32 = .ok b0 → engGet s c (a + 32#64) 32 = .ok b1 → engGet s c (a + 64#64) 32 = .ok b2 →
        ∃ v, Cached s v ∧ ends (put v ⟨BitVec.ofNat 768 (leNat (b0 ++ b1 ++ b2)), none⟩) 0 96) ∧
      (∀ code ipa l leaf, engGet s c a 32 = .error code a ipa l leaf → code = 8 ∨ code = 0xC → leafPpol leaf = 0 →
        sharedAddr s c a = true → ends (put s { k.recSlot (cpRec t) with mark := some a }) 0 96))) ∧
  (∀ (s : State) (c : Cmd), AtWork s c .prism →
    let t := c.img
    let op := xeOp t
    let ch := xeChan t
    let ident := identNo s c.part
    let die := dieOf c.core
    let rd (off n : Nat) : List Byte := spView s c.core off n
    let finished (code value : Nat) : Cmd := { c with phase := .finished, code := code, value := value }
    let ends (u : State) (code value : Nat) : Prop := Works s c u (finished code value)
    let goes (u : State) : Prop := Works s c u { c with upc := c.upc + 1 }
    let idles : Prop := exec (.engineMicroOp c.id) s = .next s
    let faults (code value : Nat) : Prop := exec (.engineMicroOp c.id) s = .next (engineFault s c code (BitVec.ofNat 64 value))
    (op = 1 → Unheld s c →
      let key (x : Nat) : Nat × Nat × Nat := (nbits x 35 24, nbits x 23 0, nbits x 38 36)
      let before (x y : Nat × Nat × Nat) : Prop :=
        x.1 < y.1 ∨ x.1 = y.1 ∧ (x.2.1 < y.2.1 ∨ x.2.1 = y.2.1 ∧ x.2.2 ≤ y.2.2)
      let mine (j : Nat) : List Nat := c.work.filter (fun x => nbits x 35 24 == j)
      let kept (j : Nat) : Nat := if xeCap t = 0 then (mine j).length else min (mine j).length (xeCap t)
      let experts := List.range (xeE t)
      let good := experts.flatMap (fun j => (mine j).take (kept j))
      let beyond := experts.flatMap (fun j => (mine j).drop (kept j))
      let puts (rows : List (Nat × List Byte)) : Prop := ∃ u, Stores s u c .eng rows ∧ goes u
      (c.upc = 0 →
        let b := rd (xeLa t) (8 * (xeT t * xeK t))
        let l := (List.range (xeT t * xeK t)).map (fun i => leNat ((b.drop (8 * i)).take 8))
        let bad (x : Nat) : Prop := xeE t ≤ nbits x 35 24 ∧ nbits x 35 24 ≠ 0xFFF
        (∀ i x, l[i]? = some x → bad x → (∀ j y, j < i → l[j]? = some y → ¬bad y) → faults 0xC06 i) ∧
        ((∀ x ∈ l, ¬bad x) → ∃ m, Works s c s { c with upc := 1, work := m } ∧ m.Pairwise (fun x y => before (key x) (key y)) ∧
          ∀ k, m.filter (fun x => key x == k) = l.filter (fun x => nbits x 35 24 != 0xFFF && key x == k))) ∧
      (c.upc = 1 → puts [(xeLb t, good.flatMap (fun x => natBytes x 8))]) ∧
      (c.upc = 2 → puts [(xeLc t, experts.flatMap (fun j => natBytes (kept j) 4)),
        (xeLd t, experts.flatMap (fun j => natBytes ((List.range j).map kept).sum 4))]) ∧
      (c.upc = 3 → puts [(xeLe t, beyond.flatMap (fun x => natBytes x 8))]) ∧
      (4 ≤ c.upc → ends s 0 (beyond.length * 2 ^ 24 + good.length))) ∧
    (op = 2 →
      let np := xeNpeer t
      let me := xeMe t
      let bar := xeGa t
      (c.work = [] → Unheld s c → ∀ p, partOf s c.part = some p →
        let word (off i : Nat) : Nat := leNat (((rd off (4 * np)).drop (4 * i)).take 4)
        let peers := (List.range np).map (fun i => word (xeLa t) i % 2 ^ 16)
        let counts := (List.range np).map (word (xeLb t))
        let others := ((List.range np).zip peers).filter (fun q => q.1 != me)
        let row (i node : Nat) : CountRow := ⟨ident, s.node, node, xeGtag t, xeSeq t, np, me, nth peers me != s.node, counts, xeLd t,
          xeLf t, c.core, bar, i, die, s.nextId⟩
        (xeN t < counts.sum → faults 0xC07 counts.sum) ∧
        (counts.sum ≤ xeN t → ∀ code, bindError p bar = some code → faults code bar) ∧
        (counts.sum ≤ xeN t → bindError p bar = none → (∀ q ∈ others, nodeRefuses s c.part q.2 true = false) →
          Works s c { touchBlock s c.part bar with
              nextId := s.nextId + 1
              net := { s.net with rows := s.net.rows ++ others.map (fun q => row q.1 q.2) } }
            { c with
              work := [1, if nth peers me = s.node then 0 else 1] ++ peers ++ counts
              list := (((List.range np).zip (peers.zip counts)).filter (fun q => q.1 != me && q.2.2 != 0)).map (fun q => (q.2.1 : Int)) })) ∧
      (c.work ≠ [] → a2aRows s c = none → idles) ∧
      (c.work ≠ [] → ∀ rows, a2aRows s c = some rows →
        let cnt (i r : Nat) : Nat := nth (rows.getD i default).counts r
        let due (r : Nat) : Nat := (rows.map (fun x => nth x.counts r)).sum
        let dropped : State := { s with heldRows := s.heldRows.filter (fun r => !rowMine s c r) }
        let unlike : Prop := ∃ (i : Nat) (x : CountRow), rows[i]? = some x ∧ (x.gerr = true ∨ x.npeer ≠ np ∨ x.me ≠ i)
        let large : Prop := ∃ (i : Nat) (x : CountRow), rows[i]? = some x ∧ x.lf < due i
        (c.upc = 0 → (unlike → ends dropped 0xC82 0) ∧ (¬unlike → large → ends dropped 0xC81 0) ∧
          (¬unlike → ¬large → goes s)) ∧
        (c.upc = 1 → ∀ p, partOf s c.part = some p →
          let b := barrierAt p bar
          let table := (List.range rows.length).flatMap (fun i =>
            natBytes (cnt i me) 4 ++ natBytes ((List.range i).map (fun j => cnt j me)).sum 4)
          (isBarrier p bar = false → faults 0xB02 bar) ∧ (isBarrier p bar = true → b.pz = true → faults 0xB04 bar) ∧
          (isBarrier p bar = true → b.pz = false → bar ∉ p.syncPz → bar + 8 ∉ p.syncPz → Unheld s c →
            (∀ o ∈ s.cmds, o.core = c.core → o.ctx = c.ctx → o.cls = .atomic → o.disp < c.disp → o.phase = .waiting) →
            b.a ≠ 0 → b.b + due me < 2 ^ 31 → (∀ x ∈ p.waiters, x.sem = true → x.addr ≠ bar ∧ x.addr ≠ bar + 8) →
            ∃ u v q, Stores s u c .eng [(xeLe t, table)] ∧ Works s c v { c with upc := 2 } ∧
              { v with parts := u.parts, resident := u.resident } = u ∧ (∀ i, i ≠ c.part → partOf v i = partOf s i) ∧
              partOf v c.part = some q ∧ { q with sync := p.sync } = p ∧ barrierAt q bar = { b with b := b.b + due me })) ∧
        (2 ≤ c.upc → c.upc < np + 2 → (∀ m ∈ s.net.pieces, m.cmd ≠ c.id) →
          let r := c.upc - 2
          let counts := (c.work.drop 2).drop np
          let node := if r = me then s.node else nth ((c.work.drop 2).take np) r
          let x := rows.getD r default
          (nth counts r = 0 → goes s) ∧
          (nth counts r ≠ 0 → Unheld s c → (r ≠ me → classHeld s c node = false) → (r = me → countHeld s c = false) →
            goes { s with
              nextId := s.nextId + 1
              net := { s.net with pieces := s.net.pieces ++ [⟨ident, s.node, node, xeGtag t, xeSeq t, me, x.core,
                x.ld + ((List.range rows.length).map (fun i => if i < me then cnt i r else 0)).sum, x.bar,
                rd (xeLc t + (counts.take r).sum) (nth counts r), false, c.id, die, s.nextId⟩] } })) ∧
        (np + 2 ≤ c.upc → (∀ m ∈ s.net.pieces, m.cmd ≠ c.id) → ends dropped 0 ((c.work.drop 2).drop np).sum))) ∧
    (op = 3 → xeDir t = 0 →
      (kget s.sends ch ≠ none → faults 0xC02 ch) ∧
      (kget s.sends ch = none → nodeRefuses s c.part (xePnode t) false = true → faults 0xC05 (xePnode t)) ∧
      (kget s.sends ch = none → nodeRefuses s c.part (xePnode t) false = false →
        ends { s with sends := kput s.sends ch ⟨c.core, c.part, xePnode t, xePchan t, xeLe t, 0⟩ } 0 0)) ∧
    (op = 3 → xeDir t ≠ 0 →
      (kget s.recvs ch ≠ none → faults 0xC02 ch) ∧
      (kget s.recvs ch = none → nodeRefuses s c.part (xePnode t) true = true → faults 0xC05 (xePnode t)) ∧
      (kget s.recvs ch = none → nodeRefuses s c.part (xePnode t) true = false →
        ends { s with
          recvs := kput s.recvs ch
            ⟨c.core, c.part, xePnode t, xePchan t, xeLa t, xeLf t, xeLe t, xeGa t, xeBq t == 1, xeBsid t, 0, 0, none⟩
          nextId := s.nextId + 1
          net := { s.net with ends := s.net.ends ++ [⟨ident, s.node, ch, xePnode t, xePchan t, xeGa t, 0, die, s.nextId⟩] } } 0 0)) ∧
    (op ∈ [4, 6] ∨ op = 7 ∧ xeDir t ≠ 0 ∨ op = 10 ∧ xeSel t = 3 → c.upc = 0 →
      (∀ r, kget s.recvs ch = some r → ¬(r.core = c.core ∧ r.part = c.part)) → faults 0xC02 ch) ∧
    (op = 5 ∨ op = 7 ∧ xeDir t = 0 ∨ op = 10 ∧ xeSel t ∈ [1, 2] → c.upc = 0 →
      (∀ x, kget s.sends ch = some x → ¬(x.core = c.core ∧ x.part = c.part)) → faults 0xC02 ch) ∧
    (∀ r, kget s.recvs ch = some r → r.core = c.core → r.part = c.part →
      let put (r : RecvCh) : KMap RecvCh := kput s.recvs ch r
      (op = 4 → c.upc = 0 → nodeRefuses s c.part r.pnode true = false →
        goes { s with
          recvs := put { r with wend := xeGa t }, nextId := s.nextId + 1
          net := { s.net with ends := s.net.ends ++ [⟨ident, s.node, ch, r.pnode, r.pchan, xeGa t, c.id, die, s.nextId⟩] } }) ∧
      (op = 6 → c.work = [] → Works s c { s with recvs := put { r with rcv := r.rcv + xeN t * r.rsz } }
        { c with work := [r.rcv + xeN t * r.rsz] }) ∧
      (op = 6 → ∀ target l, c.work = target :: l →
        (target ≤ r.dlv → ends s 0 target) ∧ (r.dlv < target → r.eos ≠ none → ends s 0xC83 r.dlv) ∧
        (r.dlv < target → r.eos = none → Works s c s { c with upc := 1 })) ∧
      (op = 7 → xeDir t ≠ 0 → nodeRefuses s c.part r.pnode true = false →
        ends { s with
          recvs := kdel s.recvs ch, nextId := s.nextId + 1
          net := { s.net with rcloses := s.net.rcloses ++ [⟨ident, s.node, ch, r.pnode, r.pchan, die, s.nextId⟩] } } 0 r.dlv) ∧
      (op = 10 → xeSel t = 3 → ends s 0 r.dlv)) ∧
    (op = 4 → 1 ≤ c.upc → ((∃ m ∈ s.net.ends, m.cmd = c.id) → idles) ∧ ((∀ m ∈ s.net.ends, m.cmd ≠ c.id) → ends s 0 (xeGa t))) ∧
    (∀ x, kget s.sends ch = some x → x.core = c.core → x.part = c.part →
      let flies : Prop := ∃ m ∈ s.net.records, m.cmd = c.id
      let known := endOf s.known ch ident x.pnode x.pchan
      let wend := (known.map (fun k => k.wend)).getD 0
      let closed : Prop := ∃ k, known = some k ∧ k.closed = true
      (op = 5 → c.upc = 0 → nodeRefuses s c.part x.pnode false = false → goes s) ∧
      (op = 5 → 1 ≤ c.upc → c.upc ≤ xeN t → sendsBefore s c = false →
        (closed → ¬flies → faults 0xC03 x.sof) ∧ (closed → flies → idles) ∧ (¬closed → wend < x.sof + x.rsz → idles) ∧
        (¬closed → x.sof + x.rsz ≤ wend → classHeld s c x.pnode = false → nodeRefuses s c.part x.pnode true = false → Unheld s c →
          goes { s with
            nextId := s.nextId + 1, sends := kput s.sends ch { x with sof := x.sof + x.rsz }
            net := { s.net with records := s.net.records ++ [⟨ident, s.node, ch, x.pnode, x.pchan, x.sof, x.rsz, xeTag t, xeKind t,
              rd (xeLa t + (c.upc - 1) * x.rsz) x.rsz, c.id, die, s.nextId⟩] } })) ∧
      (op = 5 → xeN t < c.upc → (flies → idles) ∧ (¬flies → ends s 0 (xeN t * x.rsz))) ∧
      (op = 7 → xeDir t = 0 → sendsBefore s c = true → idles) ∧
      (op = 7 → xeDir t = 0 → sendsBefore s c = false → nodeRefuses s c.part x.pnode true = false →
        ends { s with
          sends := kdel s.sends ch, known := forgetEnd s.known ch ident x, nextId := s.nextId + 1
          net := { s.net with closes := s.net.closes ++ [⟨ident, s.node, ch, x.pnode, x.pchan, x.sof, die, s.nextId⟩] } } 0 x.sof) ∧
      (op = 10 → (xeSel t = 1 → ends s 0 x.sof) ∧ (xeSel t = 2 → ends s 0 wend))) ∧
    (op = 10 → (xeSel t = 4 → ends s 0 s.units.links.toNat) ∧
      (xeSel t = 0 → ends s 0 (s.node % 2 ^ 16 * 2 ^ 32 + s.rg % 2 ^ 8 * 2 ^ 24 + s.q % 2 ^ 8 * 2 ^ 16))) ∧
    (op = 8 ∨ op = 9 →
      let rg := s.rg
      let q := s.q
      let es : Nat := if xeEtype t = 0 then 4 else 2
      let size := (xeN t + rg - 1) / rg
      let lo (j : Nat) : Nat := min (xeN t) (j * size)
      let len (j : Nat) : Nat := min (xeN t) ((j + 1) * size) - lo j
      let own := ringOf s c
      let head : RingHeader := ⟨q, op == 8, xeN t, xeEtype t⟩
      let sends (u : State) (h : Option RingHeader) (j hops : Nat) (data : List (BitVec 32)) : State := { u with
        net := { u.net with rings := u.net.rings ++ [⟨ident, (q + 1) % rg, xeGtag t, xeSeq t, h, j, hops, data⟩] } }
      let gone : State := putRing s { own with headers := [], chunks := [] }
      let taken (u : State) (j : Nat) : State := putRing u { own with chunks := kdel own.chunks j }
      (c.upc = 0 → rg = 0 → faults 0xC05 s.node) ∧
      (c.upc = 0 → rg = 1 ∨ 1 < rg ∧ ringRefused s c = none →
        let lone : State := putRing s { own with headers := kput own.headers q head }
        (c.work = [] → Works s c (if rg = 1 then lone else sends lone (some head) 0 1 []) { c with work := [1] }) ∧
        (c.work ≠ [] → own.headers.length < rg → idles) ∧
        (c.work ≠ [] → rg ≤ own.headers.length →
          (∀ x ∈ own.headers, x.2.scatter = head.scatter ∧ x.2.n = head.n ∧ x.2.etype = head.etype) → Works s c s { c with upc := 1 }) ∧
        (c.work ≠ [] → rg ≤ own.headers.length →
          (∃ x ∈ own.headers, ¬(x.2.scatter = head.scatter ∧ x.2.n = head.n ∧ x.2.etype = head.etype)) → ends gone 0xC82 0)) ∧
      (op = 8 → 1 ≤ c.upc → c.upc ≤ rg → (c.upc < rg → ringRefused s c = none) → Unheld s c →
        let j := (q + 2 * rg - c.upc) % rg
        let vals := (List.range (len j)).map (fun i => leNat (((rd (xeLa t + lo j * es) (len j * es)).drop (es * i)).take es))
        (1 < c.upc → kget own.chunks j = none → idles) ∧
        ∀ l : List Machine.Num,
          (c.upc = 1 → l = vals.map (fun v => rne32 (decNum (xeEtype t) v))) →
          (1 < c.upc → ∃ m, kget own.chunks j = some m ∧
            l = List.zipWith (fun v h => rne32 ((decFloat fp32 (BitVec.toNat h)).add (decNum (xeEtype t) v))) vals m) →
          (c.upc < rg → goes (sends (taken s j) none j c.upc (l.map (fun x => BitVec.ofNat 32 (rndFloat x fp32 0 false Rand.zero))))) ∧
          (c.upc = rg → ∃ u, Stores s u c .eng [(xeLb t, l.flatMap (fun x => natBytes (rnd x (xeEtype t) 0 false Rand.zero) es))] ∧
            goes (taken u j))) ∧
      (op = 9 → 1 ≤ c.upc → c.upc ≤ rg → (c.upc < rg → ringRefused s c = none) → Unheld s c →
        let j := (q + 2 * rg + 1 - c.upc) % rg
        let vals := (List.range (len j)).map (fun i => leNat (((rd (xeLa t) (len j * es)).drop (es * i)).take es))
        (1 < c.upc → kget own.chunks j = none → idles) ∧
        ∀ l, (if c.upc = 1 then l = vals.map (BitVec.ofNat 32) else kget own.chunks j = some l) →
          ∃ u, Stores s u c .eng [(xeLb t + lo j * es, l.flatMap (fun x => natBytes (BitVec.toNat x) es))] ∧
            goes (if c.upc < rg then sends (taken u j) none j c.upc l else taken u j)) ∧
      (rg < c.upc → 1 ≤ c.upc → ends gone 0 (if op = 8 then len q * es else xeN t * es)))) ∧
  (∀ (line fmt es etype : Nat) (b : List Byte), fmt ≠ 2 → 0 < es → b.length % es = 0 →
    expandForm (storeForm line fmt es etype b) b.length es etype = b) ∧
  (∀ (s : State) (c : Cmd) (p : Partition), AtWork s c .stash → partOf s c.part = some p → (c.work = [] → stashBefore s c = false) →
    let key := c.key
    let d := c.val 1
    let at_ : State := if c.work = [] then { s with nextId := s.nextId + 1 } else s
    let here : Cmd := if c.work = [] then { c with work := [s.nextId] } else c
    let onward : Cmd := { here with upc := c.upc + 1 }
    let ends (u : State) (code value : Nat) : Prop := Works s c u { here with phase := .finished, code := code, value := value }
    let waits : Prop := Works s c at_ here
    let ahead (o : Cmd) : Prop := o ∈ s.cmds ∧ o.part = c.part ∧ o.cls = .stash ∧ o.key = key ∧ o.phase ≠ .finished ∧ o.work ≠ [] ∧
      (o.id ≠ c.id ∨ c.work ≠ []) ∧ o.arrival < here.arrival
    let turn : Prop := c.upc = 0 → ∀ o, ahead o → o.upc ≠ 0
    let put (u : State) (e : StashEntry) : State := modPart u c.part (fun p => { p with stash := kput p.stash key e })
    let stored (u : State) (e : StashEntry) : Prop :=
      { u with parts := s.parts, mdcache := s.mdcache, free := s.free } = at_ ∧ u.parts = (put s e).parts
    let gone (e : StashEntry) : StashEntry :=
      { e with state := 3, pol := 4, tr := false, bytes := 0, room := 0, blocks := [], owner := 0 }
    let need (e : StashEntry) (pol : Nat) : Nat := (e.sizes.map (fun b => 256 * worstLines (formOf pol e.q e.pk) b e.es)).sum
    let fits (e : StashEntry) (pol : Nat) : Prop := poolUsed p e.die (poolOf pol) + need e pol ≤ poolSize p e.die (poolOf pol)
    let takes (e : StashEntry) (least pol : Nat) : Prop :=
      least ≤ pol ∧ pol < 4 ∧ fits e pol ∧ ∀ q, least ≤ q → q < pol → ¬fits e q
    let total (l : List Block) : Nat := (l.map (fun b => 256 * b.md.lines)).sum
    let sound (e : StashEntry) (n : Nat) : Prop := (e.blocks.getD n default).md.pz = false ∧ Config.poolFails s.free = false ∧
      (s.mdcache.contains ⟨e.die, c.part, false, key, n⟩ = false → Config.poolFails (s.free + 1) = false)
    let word (tr : Bool) : Prop := ∃ o sc xd xa xb, c.instr = if tr = true then .sstT o sc xd xa xb else .sst o sc xd xa xb
    (∀ o sc xd xa, c.instr = .sqry o sc xd xa → ends at_ 0 (match kget p.stash key with
      | none => 0
      | some e => (if e.state = 2 ∧ e.blocks.any (fun b => b.md.pz) = true then 4 else e.state) * 2 ^ 44 + e.pol * 2 ^ 40
          + (if e.tr = true then 2 ^ 39 else 0) + e.bytes)) ∧
    (∀ tr, word tr → turn →
      (c.upc = 0 → kget p.stash key ≠ none → ends at_ 0xD84 0) ∧
      (c.upc = 0 → kget p.stash key = none →
        let held := (p.stash.filter (fun e => keyHome e.1 == keyHome key)).length
        let e : StashEntry := ⟨1, 4, dieOf c.core, sdEtype d, sdPk d, sdQ d, sdRows d, sdCols d, tr, 0, 0, [], 0, 0, [], c.id⟩
        (nth p.stashCap (keyHome key) ≤ held → ends at_ 0 (4 * 2 ^ 44)) ∧
        (held < nth p.stashCap (keyHome key) →
          (∀ pol, takes e (sdPol d) pol → Works s c (put at_ { e with pol := pol, room := need e pol }) onward) ∧
          ((∀ pol, sdPol d ≤ pol → pol < 4 → ¬fits e pol) → ends (put at_ (gone e)) 0 (4 * 2 ^ 44)))) ∧
      ∀ e, kget p.stash key = some e → 1 ≤ c.upc →
        let n := c.upc - 1
        let own := (blockSizes e.size).length
        let size := nth e.sizes n
        (n < e.sizes.length → (coreOf s c.core).spBad = [] →
          ∃ u line b, b.length = size ∧ (n < own → b = spView s c.core (sdOff d + 4096 * n) size) ∧
            (own ≤ n → ∀ i r j x, i < size → j < e.rows → x < e.es → 4096 * (n - own) + i = r * pitchOf e.rows e.es + j * e.es + x →
              b.getD i 0#8 = (spView s c.core (sdOff d + (j * pitchOf e.cols e.es + r * e.es + x)) 1).headD 0#8) ∧
            stored u { e with blocks := e.blocks.take n ++ [storeForm line (formOf e.pol e.q e.pk) e.es e.etype b] } ∧
            Works s c u onward) ∧
        (e.sizes.length ≤ n → ends (put at_ { e with state := 2, bytes := total e.blocks, room := total e.blocks, owner := 0 }) 0
          (e.pol * 2 ^ 44 + total e.blocks))) ∧
    (∀ o sc xd xa xb, c.instr = .spf o sc xd xa xb → turn →
      (c.upc = 0 → (∀ e, kget p.stash key = some e → e.state = 3) →
        let code : Nat := if kget p.stash key = none then 0xD83 else 0xD81
        let r : Entry := ⟨key / 2 ^ 48 % 2 ^ 16, key / 2 ^ 44 % 2 ^ 4, 3, s.tsc, srcStash (keyHome key), none, false, 0, 0, false⟩
        (sameR p r = true → ends at_ code 0) ∧
        (sameR p r = false → logRoom p = false ∨ logOrder p r.at_ r.src = false → waits) ∧
        (sameR p r = false → logRoom p = true → logOrder p r.at_ r.src = true → (queueOf p r.sid 3).length < 256 →
          ends (modPart at_ c.part (fun p => admitEntry p r)) code 0)) ∧
      ∀ e, kget p.stash key = some e →
        let tr := d.getLsbD 63
        let size := if tr = true then e.turned else e.size
        let own := (blockSizes e.size).length
        let base := if tr = true then own else 0
        let sizes := if tr = true then blockSizes e.turned else blockSizes e.size
        let n := c.upc - 1
        let at_n := base + n
        let blk := e.blocks.getD at_n default
        let lost : Cmd := { onward with work := if here.work.length < 2 then here.work ++ [4096 * n] else here.work }
        (c.upc = 0 → e.state ≠ 3 → (e.owner ≠ 0 → waits) ∧
          (e.owner = 0 → tr = true → e.tr = false → ends at_ 0xD86 0) ∧
          (e.owner = 0 → tr = false ∨ e.tr = true → 256 * ddNrow d < size → ends at_ 0xD85 size) ∧
          (e.owner = 0 → tr = false ∨ e.tr = true → size ≤ 256 * ddNrow d → Works s c at_ onward)) ∧
        (1 ≤ c.upc → n < sizes.length →
          (sound e at_n → Unheld s c → ∃ v u, { v with mdcache := s.mdcache, free := s.free } = at_ ∧
            Stores v u c .eng [(ddOff d + 4096 * n, expandForm blk (nth sizes n) e.es e.etype)] ∧ Works s c u onward) ∧
          (blk.md.pz = true → Works s c (put at_ { e with blocks := e.blocks.set at_n blk }) lost) ∧
          (blk.md.pz = false → ¬sound e at_n → ∃ u q, Works s c u lost ∧ partOf u c.part = some q ∧
            kget q.stash key = some { e with blocks := e.blocks.set at_n { blk with md := { blk.md with pz := true } } })) ∧
        (1 ≤ c.upc → sizes.length ≤ n → match here.work with
          | _ :: off :: _ => ends at_ 0xD82 off
          | _ => ends at_ 0 size)) ∧
    (∀ o sc xd xa, c.instr = .srel o sc xd xa → turn →
      (kget p.stash key = none → ends at_ 0xD83 0) ∧
      ∀ e, kget p.stash key = some e →
        (e.owner ≠ 0 ∨ (∃ o, ahead o ∧ o.prefetching = true) → waits) ∧
        (e.owner = 0 → (∀ o, ahead o → o.prefetching = false) →
          ends (modPart at_ c.part (fun p => { p with stash := kdel p.stash key })) 0 e.bytes)) ∧
    (∀ o sc xd xa xb, c.instr = .spol o sc xd xa xb → turn →
      (c.upc = 0 → kget p.stash key = none → ends at_ 0xD83 0) ∧
      ∀ e, kget p.stash key = some e →
        let free : Prop := e.owner = 0 ∧ ∀ o, ahead o → o.prefetching = false
        let n := c.upc - 1
        let blk := e.blocks.getD n default
        (c.upc = 0 → ¬free → waits) ∧ (c.upc = 0 → free → e.state = 3 → ends at_ 0xD81 0) ∧
        (c.upc = 0 → free → e.state ≠ 3 → (∀ pol, takes e (d.toNat / 2 ^ 60) pol →
            Works s c (put at_ { e with toPol := pol, toRoom := need e pol, moved := [], owner := c.id }) onward) ∧
          ((∀ pol, d.toNat / 2 ^ 60 ≤ pol → pol < 4 → ¬fits e pol) → ends (put at_ (gone e)) 0 (4 * 2 ^ 44))) ∧
        (1 ≤ c.upc → n < e.sizes.length →
          (sound e n → ∃ u line, stored u { e with moved := e.moved.take n ++
              [storeForm line (formOf e.toPol e.q e.pk) e.es e.etype (expandForm blk (nth e.sizes n) e.es e.etype)] } ∧ Works s c u onward) ∧
          (blk.md.pz = true → Works s c (put at_ { e with moved := e.moved.take n ++ [blk] }) onward)) ∧
        (1 ≤ c.upc → e.sizes.length ≤ n → ends (put at_ { e with
            pol := e.toPol, bytes := total e.moved, room := total e.moved, blocks := e.moved, toPol := 0, toRoom := 0, moved := []
            owner := 0 }) 0 (e.toPol * 2 ^ 44 + total e.moved)))) ∧
  (∀ (s : State) (c : Cmd) (p : Partition), AtWork s c .line → lineBefore s c = false → partOf s c.part = some p →
    let v (i : Nat) : Word := c.val i
    let here : Cmd := if c.work = [] then { c with work := [1] } else c
    let finished (code value : Nat) : Cmd := { here with phase := .finished, code := code, value := value }
    let ends (u : State) (code value : Nat) : Prop := Works s c u (finished code value)
    let named (u : State) (code value name : Nat) : Prop :=
      Works s c u { finished code value with out := [BitVec.ofNat 64 name, BitVec.ofNat 64 (name / 2 ^ 64)] }
    let gets (a : Word) (n : Nat) (b : List Byte) : Prop := ∃ l : List (List Byte), l.length = n ∧ b = l.flatten ∧
      ∀ i x, l[i]? = some x → engGet s c (a + BitVec.ofNat 64 (32 * i)) 32 = .ok x
    let open_ (ea : Word) (n : Nat) (r : Perm) (ipa : Nat) : Prop :=
      lineIpa s c ea n r = .ok ipa ∧ homeHeld s c ipa n = false ∧ (homeAns s c.part c.asid c.gen ea ipa n (r == .write)).good = true
    let holds (ea : Word) (n : Nat) (ipa : Nat) (b : List Byte) : Prop := homeAns s c.part c.asid c.gen ea ipa n false = .ok b
    let others (u : State) : Prop := ∀ i, i ≠ c.part → partOf u i = partOf s i
    let put (u : State) (q : Partition) : State := modPart u c.part (fun _ => q)
    let fp (b : List Byte) (i : Nat) : Machine.Num := decFloat fp32 (leNat ((b.drop (4 * i)).take 4))
    (∀ sc xd xa xb, c.instr = .lopt sc xd xa xb → ∀ b, gets (v 0) 4 b →
      let d := (List.range 16).map (fun i => leWord ((b.drop (8 * i)).take 8))
      let n := (v 1).toNat % 16
      (badDesc d = true ∨ descIpas s c d = none → ends s 0xE84 0) ∧
      (badDesc d = false → ∀ ipas, descIpas s c d = some ipas → (∀ x ∈ p.slots, x.acc < s.nextId) →
        ∃ w u a q, Cached s w ∧ ends u 0 0 ∧ { u with acc := s.acc, nextId := s.nextId, nearNext := s.nearNext, parts := s.parts } = w ∧
          u.acc = s.acc ++ [a] ∧ a.id = s.nextId ∧ a.core = c.core ∧ a.cmd = c.id ∧ a.kind = .eng ∧ a.data = [] ∧ others u ∧
          partOf u c.part = some q ∧ { q with slots := p.slots } = p ∧ slotFor u q c.core n = some ⟨d, ipas, c.asid, c.gen⟩ ∧
          (∀ k, k ≠ c.core → slotFor u q k n = slotFor s p k n) ∧ ∀ k m, m ≠ n → slotFor u q k m = slotFor s p k m)) ∧
    (∀ sc xd xa xb, c.instr = .lexp sc xd xa xb →
      let x := v 1
      let n := x.toNat % 2 ^ 32
      let ea := v 0 + BitVec.ofNat 64 (256 * c.counted)
      let skips (code : Nat) : Prop := Works s c s { here with counted := c.counted + 1, code := if c.code = 0 then code else c.code }
      (n ≤ c.counted → ends s c.code c.value) ∧
      (c.counted < n → ∀ ipa, open_ ea 256 .write ipa →
        let slot := x.toNat / 2 ^ 44 % 16
        let slice := sliceOf s c.part c.asid c.gen ipa
        (slotFor s p c.core slot = none → ends s 0xE84 c.value) ∧
        ∀ d, slotFor s p c.core slot = some d →
          (armedFor s p c.core ipa ≠ none → skips 0xE81) ∧
          (armedFor s p c.core ipa = none → armedAt p ipa ≠ none → Works s c s here) ∧
          (armedAt p ipa = none → 2048 ≤ (p.lines.filter (fun a => a.slice == slice)).length → skips 0xE83) ∧
          (armedAt p ipa = none → (p.lines.filter (fun a => a.slice == slice)).length < 2048 →
            (x.getLsbD 43 = true → engDest s c ea 1 .write = .ok (.ipa ipa)) →
            ∃ u a w, Works s c u { here with counted := c.counted + 1, value := c.value + 1 } ∧
              { u with acc := s.acc, nextId := s.nextId, nearNext := s.nearNext, parts := s.parts } = w ∧ Cached s w ∧
              u.acc = s.acc ++ [a] ∧ a.id = s.nextId ∧ a.core = c.core ∧ a.cmd = c.id ∧ a.kind = .eng ∧
              (if x.getLsbD 43 = true then a.dest = .ipa ipa ∧ a.data = List.replicate 256 0#8 else a.data = []) ∧
              u.parts = (put s { p with
                lines := p.lines ++ [⟨ipa, x.toNat / 2 ^ 48 % 2 ^ 16, slice, d, c.core, s.nextId⟩] }).parts))) ∧
    (∀ o sc xd xa xb, c.instr = .lred o sc xd xa xb → ∀ b ipa, gets (v 1) 8 b → open_ (v 0) 256 .write ipa →
      (armedFor s p c.core ipa = none → ends s 0xE82 0) ∧
      ∀ line g, armedFor s p c.core ipa = some line → holds (v 0) 256 ipa g →
        let sum := (List.range 64).flatMap (fun i => natBytes (rndFloat (rne32 ((fp g i).add (fp b i))) fp32 0 false Rand.zero) 4)
        ∃ w, Cached s w ∧ ∀ l leaf, findDest w c.part c.asid c.gen (.ipa ipa) true = .place l leaf →
          (1 < line.count → ∃ h, Homed w h l sum ∧ ends (put h { p with
            lines := p.lines.map (fun a => if a.ipa = ipa then { a with count := line.count - 1 } else a) }) 0 (line.count - 1)) ∧
          (line.count ≤ 1 → ∃ h t, Homed w h l sum ∧ exec (.engineMicroOp c.id) s = .next t ∧
            let x : Update := ⟨h.nextId, ipa, line.desc, none, 0, none, []⟩
            let u := put { h with nextId := h.nextId + 1 } { p with
              lines := p.lines.filter (fun a => a.ipa != ipa), updates := p.updates ++ [x] }
            ∃ r, { r with cmds := u.cmds } = u ∧ OnlyCmd u r c.id ∧ cmdOf r c.id = some (finished 0 0) ∧ t = runUpdate r c.part x)) ∧
    (∀ o sc xd xa, c.instr = .lqry o sc xd xa → ∀ ipa, open_ (v 0) 256 .read ipa →
      (armedFor s p c.core ipa = none → ends s 0 0) ∧
      ∀ line, armedFor s p c.core ipa = some line → ends s 0 (2 ^ 16 + line.count)) ∧
    (∀ sc xd xa xb, c.instr = .nlook sc xd xa xb → ∀ b, gets (v 0) 8 b → ∃ w, Cached s w ∧
      let inner := (v 1).getLsbD 0
      let kids := if inner = true then childNames b else []
      (nameRow p inner b = none → named w 0xE85 0 0) ∧
      ∀ n, nameRow p inner b = some n →
        (∀ e, nameAt p n = some e → nameErr s p e = none →
          (nameData s p e ≠ b → named w 0xE85 0 0) ∧
          (nameData s p e = b → named (put w { p with
            names := p.names.map (fun x => if x.name = n then { x with count := satInc x.count } else x) }) 0 0 n)) ∧
        (nameAt p n = none →
          let bad (k : Nat) : Prop := k ≠ 0 ∧ badName k = true
          let away (k : Nat) : Prop := k ≠ 0 ∧ nameAt p k = none
          (∀ i k, kids[i]? = some k → bad k → (∀ j x, j < i → kids[j]? = some x → ¬bad x) → named w 0xE88 i 0) ∧
          ((∀ k ∈ kids, ¬bad k) → ∀ i k, kids[i]? = some k → away k → (∀ j x, j < i → kids[j]? = some x → ¬away x) →
            named w 0xE86 i 0) ∧
          ((∀ k ∈ kids, ¬bad k ∧ ¬away k) →
            let size := (p.names.filter (fun e => nameSlice s e.name == nameSlice s n)).length
            (p.nameCap ≤ size ∨ freeLine p = none → named w 0xE87 0 0) ∧
            (size < p.nameCap → ∀ l, freeLine p = some l →
              ∃ u q, named u 0 1 n ∧ Wrote s u (.pa (lineAddr p l)) b ∧ others u ∧
                { u with mem := s.mem, poison := s.poison, bad := s.bad, parts := s.parts } = w ∧
                partOf u c.part = some q ∧ { q with names := p.names } = p ∧ nameAt q n = some ⟨n, l, 1⟩ ∧
                ∀ m, m ≠ n → nameAt q m = (nameAt p m).map (fun e =>
                  { e with count := Nat.repeat satInc ((kids.filter (fun k => k != 0)).count m) e.count }))))) ∧
    (let n := (v 0).toNat + (v 1).toNat * 2 ^ 64
      let counts (g : Nat → Nat) : State := put s { p with names := p.names.map (fun x => if x.name = n then { x with count := g x.count } else x) }
      (∀ sc xd xn, c.instr = .nref sc xd xn → (badName n = true → ends s 0xE88 0) ∧
        (badName n = false → nameAt p n = none → ends s 0xE86 0) ∧
        ∀ e, badName n = false → nameAt p n = some e → ends (counts satInc) 0 (satInc e.count)) ∧
      (∀ o sc xd xn, c.instr = .nrel o sc xd xn → (badName n = true → ends s 0xE88 0) ∧
        (badName n = false → nameAt p n = none → ends s 0xE86 0) ∧
        ∀ e, badName n = false → nameAt p n = some e →
          (e.count = 0xFFFFFFFF → ends s 0 0xFFFFFFFF) ∧
          (e.count ≠ 0xFFFFFFFF → 1 < e.count → ends (counts (fun k => k - 1)) 0 (e.count - 1)) ∧
          (e.count ≤ 1 → n.testBit 2 = false → ends (put s { p with names := p.names.filter (fun x => x.name != n) }) 0 (e.count - 1)) ∧
          (e.count ≤ 1 → n.testBit 2 = true → (∀ g ∈ s.bad, g ∉ granulesOf (lineAddr p e.line) 256) → s.poison = [] →
            ends (put s { p with
              names := p.names.filter (fun x => x.name != n)
              releases := p.releases ++ (childNames (nameData s p e)).filter (fun k => k != 0) }) 0 (e.count - 1))) ∧
      (∀ sc xd xn, c.instr = .nhas sc xd xn → (badName n = true → ends s 0xE88 0) ∧
        (badName n = false → nameAt p n = none → ends s 0 0) ∧
        ∀ e, badName n = false → nameAt p n = some e → ends s 0 (2 ^ 32 + e.count))) ∧
    (∀ o sc xd xa xq, c.instr = .nswap o sc xd xa xq → ∀ ipa b, open_ (v 0) 16 .write ipa → holds (v 0) 16 ipa b → ∃ w, Cached s w ∧
      let old := leNat b
      let expected := (v 1).toNat + (v 2).toNat * 2 ^ 64
      (old ≠ expected → named w 0xE8A 0 old) ∧
      (old = expected → ∀ l leaf, findDest w c.part c.asid c.gen (.ipa ipa) true = .place l leaf →
        ∃ h u a q, Homed w h l (natBytes (v 3).toNat 8 ++ natBytes (v 4).toNat 8) ∧
          Works s c u { finished 0 0 with out := [BitVec.ofNat 64 old, BitVec.ofNat 64 (old / 2 ^ 64)], acq := a } ∧
          { u with parts := h.parts } = h ∧ others u ∧ partOf u c.part = some q ∧ { q with syncHb := p.syncHb } = p)) ∧
    (∀ o sc xd xn xb, c.instr = .nget o sc xd xn xb →
      let root := (v 0).getLsbD 63
      ∀ ipa b, (root = true → open_ (v 1) 16 .read ipa ∧ holds (v 1) 16 ipa b) →
      let n := if root = true then leNat b else (v 1).toNat + (v 2).toNat * 2 ^ 64
      ∃ w a, Cached s w ∧
        let replies (u : State) (code value : Nat) : Prop :=
          Works s c u { finished code value with out := [BitVec.ofNat 64 n, BitVec.ofNat 64 (n / 2 ^ 64)], acq := a }
        (badName n = true → replies w 0xE88 0) ∧ (badName n = false → nameAt p n = none → replies w 0xE86 0) ∧
        ∀ e, badName n = false → nameAt p n = some e → nameErr s p e = none → Unheld s c →
          ∃ u, Stores w u c .eng [((v 0).toNat % 2 ^ 20, nameData s p e)] ∧ replies u 0 256) ∧
    (∀ sc xd xn xp, c.instr = .nout sc xd xn xp →
      let n := (v 2).toNat + (v 3).toNat * 2 ^ 64
      let depth := (v 1).toNat / 2 ^ 60
      let pos := c.counted
      let ea := v 0 + BitVec.ofNat 64 (256 * pos)
      (n ≠ 0 → badName n = true → ends s 0xE88 0) ∧
      (n = 0 ∨ badName n = false →
        (min ((v 1).toNat % 2 ^ 32) (16 ^ depth) ≤ pos → ends s 0 pos) ∧
        (pos < min ((v 1).toNat % 2 ^ 32) (16 ^ depth) →
          (∀ code, leafAt s p pos depth n = .status code → ends s code pos) ∧
          ∀ b x ipa, leafAt s p pos depth n = .ok b → open_ ea 256 .write ipa → engDest s c ea 1 .write = .ok x → Unheld s c →
            ∃ u, Scatters s u c [(ea, b)] ∧ Works s c u { here with counted := pos + 1 }))) ∧
    (∀ o sc xd xn xb, c.instr = .nxfer o sc xd xn xb →
      let node := (v 0).toNat
      let root := (v 1).toNat + (v 2).toNat * 2 ^ 64
      let x := partnerOf s node
      let n := c.counted
      let l := (missingLines s p (p.names.length + 1) root x.has).drop x.has.length
      let reaches : Prop := x.link = true ∧ pathUp s true s.node node = true
      let quiet : Prop := ∀ m ∈ l, ∀ e, nameAt p m = some e → nameErr s p e = none
      let stops (u : State) (code lines : Nat) : Prop := ends (writeSecured u c.part c.core node code lines root) code lines
      let refuses : Prop := if node = s.node then node ∉ p.mirrors else nodeRefuses s c.part node true = true ∨ x.accepts = false
      (refuses → stops s 0xE8C n) ∧ (¬refuses → badName root = true → stops s 0xE88 n) ∧
      (¬refuses → badName root = false → nameAt p root = none → stops s 0xE86 n) ∧
      (¬refuses → badName root = false → nameAt p root ≠ none → node = s.node → kget p.mirrorTab node = none → root ≠ 0 →
        stops (put s { p with
          names := p.names.map (fun e => if e.name = root then { e with count := satInc e.count } else e)
          mirrorTab := kput p.mirrorTab node root }) 0xE8B 0) ∧
      (¬refuses → badName root = false → nameAt p root ≠ none → node ≠ s.node → quiet →
        (¬reaches → stops s 0xE8F n) ∧
        (reaches → n < l.length → partnerEnds x n = 0 → Works s c s { here with counted := n + 1 }) ∧
        (reaches → n < l.length → partnerEnds x n ≠ 0 → stops s (partnerEnds x n) (n + 1)) ∧
        (reaches → l.length ≤ n → stops { s with partners :=
            { x with has := x.has ++ l, room := x.room - l.length } :: s.partners.filter (fun y => y.node != node) }
          (if x.feed = s.feed then 0xE8B else 0) n))) ∧
    (∀ a, p.secAt = some a → writeDropped s (.pa a) 48 = false → ∀ core node code lines root,
      let step : Nat := match slotFor s p core 0 with
        | some d => (d.dw 15).toNat / 2 ^ 32
        | none => 0
      writeSecured s c.part core node code lines root = locWrite s (.pa a) (natBytes s.tsc 8 ++
        natBytes (node * 2 ^ 48 + code * 2 ^ 32 + if code = 0 then 2 ^ 31 else 0) 8 ++ natBytes lines 8 ++ natBytes step 8 ++
        natBytes root 16))) ∧
  (∀ (s : State) (p : Partition) (pos n : Nat), leafAt s p pos 0 0 = .ok (List.replicate 256 0#8) ∧
    ∀ d, leafAt s p pos (d + 1) 0 = .ok (List.replicate 256 0#8) ∧
    (n ≠ 0 → nameAt p n = none → leafAt s p pos d n = .status 0xE86) ∧
    ∀ e, n ≠ 0 → nameAt p n = some e → nameErr s p e = none →
      (n.testBit 2 = false → leafAt s p pos 0 n = .ok (nameData s p e) ∧ leafAt s p pos (d + 1) n = .status 0xE89) ∧
      (n.testBit 2 = true → leafAt s p pos 0 n = .status 0xE89 ∧
        leafAt s p pos (d + 1) n = leafAt s p pos d (nth (childNames (nameData s p e)) (pos / 16 ^ d % 16)))) ∧
  (∀ (s : State) (part : Nat) (p : Partition) (u : Update), partOf s part = some p → u.fail = none →
    let d := u.desc
    let adam : Prop := dwAlg d.dws = 1
    let line (i : Nat) : Nat := (nth d.ipas i + (u.ipa + 2 ^ 64 - nth d.ipas 0) % 2 ^ 64 / 256 * 256) % 2 ^ 64
    let table : Nat := (nth d.ipas 7 + (u.ipa + 2 ^ 64 - nth d.ipas 0) % 2 ^ 64 / 256 * 16) % 2 ^ 64
    let ans (ipa n : Nat) (write : Bool) : EngAns := homeAns s part d.asid d.gen (BitVec.ofNat 64 ipa) ipa n write
    let ins : List Nat := [u.ipa, line 1, line 3] ++ if adam then [line 5] else []
    let outs : List Nat := [line 2, line 4] ++ if adam then [line 6] else []
    (∀ a ∈ ins, (ans a 256 false).good = true) → (∀ a ∈ outs, (ans a 256 true).good = true) →
    (dwNm d.dws = true → (ans table 16 true).good = true) →
    let el (a i : Nat) : Machine.Num := decFloat fp32 (leNat (((ans a 256 false).bytes.drop (4 * i)).take 4))
    let f : Machine.Num := d.lo 10
    let gs : Machine.Num := d.lo 14
    let mu : Machine.Num := d.hi 11
    let eta : Machine.Num := d.hi 10
    let g (i : Nat) : Machine.Num := rne32 ((el u.ipa i).mul gs)
    let m (i : Nat) : Machine.Num := if adam then rne32 ((rne32 (mu.mul (el (line 3) i))).add (rne32 ((d.lo 11).mul (g i))))
      else rne32 ((rne32 (mu.mul (el (line 3) i))).add (g i))
    let r (i : Nat) : Machine.Num := rne32 ((rne32 ((d.hi 12).mul (el (line 5) i))).add (rne32 ((d.lo 12).mul (rne32 ((g i).mul (g i))))))
    let q (i : Nat) : Machine.Num := rne32 ((rne32 (rne32 ((r i).mul (d.lo 13))).root).add (d.hi 14))
    let by_ (i : Nat) : Machine.Num := if adam then rne32 ((rne32 ((m i).mul (d.hi 13))).quot (q i)) else m i
    let w (i : Nat) : Machine.Num := rne32 ((rne32 ((el (line 1) i).mul f)).add (rne32 (eta.mul (by_ i))).neg)
    let bytes (x : Nat → Machine.Num) : List Byte := (List.range 64).flatMap (fun i => natBytes (rndFloat (x i) fp32 0 false Rand.zero) 4)
    let made : List (List Byte) := [bytes w, bytes m] ++ if adam then [bytes r] else []
    (dwNm d.dws = true → ∀ e, (nameRow p false (bytes w)).bind (nameAt p) = some e → nameErr s p e = none) →
    ∃ v, Cached s v ∧
      let a := (outs.zip made).foldl (fun x y => homeWrite x part d.asid d.gen 0x3FF 0 y.1 y.2) v
      let b := if dwNm d.dws = true then
          let l := lookName a part false (bytes w)
          homeWrite l.1 part d.asid d.gen 0x3FF 0 table (natBytes l.2.2.2 16)
        else a
      let bar := (d.dw 9).toNat
      let z := if dwBc d.dws = true ∧ ((partOf b part).map (fun p => isBarrier p bar)).getD false = true ∧ refusesCounts b part bar = false ∧
          countError b part bar = none then countBytes b part bar 256 else b
      runUpdate s part u = modPart z part (fun p => { p with updates := p.updates.filter (fun x => x.id != u.id) })) ∧
  ∀ (s : State) (c : Cmd), cmdOf s c.id = some c → c.phase = .finished →
    (∀ g, gangOf s c.gang = some g → g.saved = false) → waitsDone s c = true →
    (∀ a ∈ s.acc ++ s.backInv, a.cmd = c.id → a.nearAt ≠ 0) →
    let total := if c.cls = .copy ∧ cpOp c.img ≠ 11 then (coreOf s c.core).total + BitVec.ofNat 48 c.value
      else (coreOf s c.core).total
    ∃ t, exec (.commandComplete c.id) s = .next t ∧ { t with cores := s.cores, cmds := s.cmds } = s ∧ OnlyCmd s t c.id ∧
      cmdOf t c.id = none ∧ (coreOf t c.core).total = total ∧
      Filled s (setCore t c.core { coreOf t c.core with total := (coreOf s c.core).total }) c.core c.ctx c.id
        (w64 (c.code % 2 ^ 16 * 2 ^ 48 + c.value % 2 ^ 48 : Nat)) none

/-- R300 to R302, R305 to R307, R310, R376, R378, R379, R381 to R385, R388, R393: what an atomic word does at a variable, the barrier
words at a pair, and the semaphore words; what each scheduler word does and replies. old is a variable's value; b and c.val 2 are a word's
second and third operands; y is the barrier that a barrier word leaves, before check() of R306. The first conjunct is for a variable at
which no semaphore request waits, the second for a pair at which none does (log entry 125), the third for one with at most one. Requests
that miss or wait for room, and the order of the log (log entry 127), are as in PagesAndRings and TasksPlaced. -/
def Obligations.AtomicReplies : Prop :=
  (∀ (s : State) (c : Cmd) (p : Partition), cmdOf s c.id = some c → c.cls = .atomic → partOf s c.part = some p →
    retryDue s c = true → c.phase = .queued → atomicBefore s c = false → gangRuns s c = true → edgesDone s c = true →
    waitsDone s c = true →
    let x := (c.val 0).toNat
    let b := c.val 1
    let old := readSync p x
    let low := rndFloat ((decNum 0 (old.toNat % 2 ^ 32)).add (decNum 0 (b.toNat % 2 ^ 32))) fp32 0 false Rand.zero
    let new : Option Word := match c.instr with
      | .ald .. => some old
      | .ast .. | .aswp .. => some b
      | .aadd .. => some (old + b)
      | .aand .. => some (old &&& b)
      | .aor .. => some (old ||| b)
      | .axor .. => some (old ^^^ b)
      | .amin .. => some (if b.toInt < old.toInt then b else old)
      | .amax .. => some (if b.toInt > old.toInt then b else old)
      | .aminn .. => some (if b.toNat < old.toNat then b else old)
      | .amaxn .. => some (if b.toNat > old.toNat then b else old)
      | .afadd .. => some (w64 (old.toNat / 2 ^ 32 * 2 ^ 32 + low : Nat))
      | .acas .. | .acasFa .. => some (if old = b then c.val 2 else old)
      | _ => none
    atomicError p c x = none → (∀ w ∈ p.waiters, w.addr = x → w.sem = false) → ∀ v, new = some v →
    ∃ t q, exec (.replyFill c.id) s = .next t ∧
      { t with cores := s.cores, cmds := s.cmds, parts := s.parts, resident := s.resident } = s ∧ OnlyCmd s t c.id ∧
      cmdOf t c.id = none ∧ partOf t c.part = some q ∧ (∀ n, n ≠ c.part → partOf t n = partOf s n) ∧
      { q with sync := p.sync, syncPz := p.syncPz, syncHb := p.syncHb } = p ∧ readSync q x = v ∧
      (∀ y, y ≠ x → rawSync q y = rawSync p y) ∧
      match c.instr with
      | .ast .. => t.cores = s.cores
      | _ => Filled s t c.core c.ctx c.id old none) ∧
  (∀ (s : State) (c : Cmd) (p : Partition), cmdOf s c.id = some c → c.cls = .atomic → partOf s c.part = some p →
    retryDue s c = true → c.phase = .queued → atomicBefore s c = false → gangRuns s c = true → edgesDone s c = true →
    waitsDone s c = true →
    let x := (c.val 0).toNat
    let n : Nat := (c.val 1).toNat % 2 ^ 32
    let old := barrierAt p x
    atomicError p c x = none → x % 16 = 0 → (∀ w ∈ p.waiters, w.cmd ≠ c.id ∧ (w.sem = true → w.addr ≠ x ∧ w.addr ≠ x + 8)) →
    let ran (t : State) (q : Partition) : Prop := exec (.replyFill c.id) s = .next t ∧
      { t with cores := s.cores, cmds := s.cmds, parts := s.parts, resident := s.resident } = s ∧ partOf t c.part = some q ∧
      (∀ m, m ≠ c.part → partOf t m = partOf s m) ∧
      { q with sync := p.sync, syncPz := p.syncPz, syncHb := p.syncHb, waiters := p.waiters, ib := p.ib } = p ∧
      (∀ a, a ≠ x → a ≠ x + 8 → rawSync q a = rawSync p a) ∧ ∀ a, a / 16 ≠ x / 16 → isBarrier q a = isBarrier p a
    let kept (t : State) (q : Partition) : Prop := q.waiters = p.waiters ∧ ∀ m, m ≠ c.id → cmdOf t m = cmdOf s m
    let released (t : State) (q : Partition) (st phase : Nat) : Prop :=
      q.waiters = p.waiters.filter (fun w => w.sem || w.addr != x) ∧
      ∀ w ∈ p.waiters, w.sem = false → w.addr = x → ∀ d, cmdOf s w.cmd = some d → cmdOf t d.id = none ∧
        Takes s t d.core d.ctx d.id (w64 ((if st = 0 then 0 else 0xB80 + st) * 2 ^ 48 + phase : Nat))
          (if st = 0 then none else some ⟨0xB80 + st, w64 (x : Nat), true⟩)
    let checked (t : State) (q : Partition) (y : Barrier) : Prop :=
      if y.a = 0 ∧ y.b ≤ 0 then
        let st := if y.b = 0 then 0 else 1
        let phase := (y.phase + 1) % 2 ^ 16
        barrierAt q x = { y with phase := phase, a := y.n, b := 0, st := st } ∧ released t q st phase
      else barrierAt q x = y ∧ kept t q
    (∀ o sc xa xb, c.instr = .abinit o sc xa xb → ∃ t q, ran t q ∧ cmdOf t c.id = none ∧ isBarrier q x = true ∧
      barrierAt q x = ⟨false, 0, 0, n, n, 0⟩ ∧ released t q 3 0) ∧
    (∀ o sc xd xa, c.instr = .abarr o sc xd xa → ∃ t q, ran t q ∧ cmdOf t c.id = none ∧ checked t q { old with a := old.a - 1 } ∧
      Takes s t c.core c.ctx c.id (w64 old.phase) none) ∧
    (∀ o sc xa xb, c.instr = .abexp o sc xa xb → ∃ t q, ran t q ∧ cmdOf t c.id = none ∧
      checked t q { old with b := old.b + ((c.val 1).setWidth 32).toInt }) ∧
    (∀ o sc xd xa xb, c.instr = .abwait o sc xd xa xb →
      let fills (st : Nat) : Prop := ∃ t q, ran t q ∧ cmdOf t c.id = none ∧ kept t q ∧ barrierAt q x = old ∧
        Filled s t c.core c.ctx c.id (w64 ((if st = 0 then 0 else 0xB80 + st) * 2 ^ 48 + old.phase : Nat))
          (if st = 0 then none else some ⟨0xB80 + st, w64 (x : Nat), true⟩)
      if old.pz = true then fills 2
      else if old.phase ≠ (c.val 1).toNat % 2 ^ 16 then fills old.st
      else ∃ t q, ran t q ∧ t.cores = s.cores ∧ barrierAt q x = old ∧ cmdOf t c.id = some { c with phase := .waiting } ∧
        (∀ m, m ≠ c.id → cmdOf t m = cmdOf s m) ∧ q.waiters = p.waiters ++ [⟨x, false, (c.val 1).toNat % 2 ^ 16, c.id⟩])) ∧
  (∀ (s : State) (c : Cmd) (p : Partition), cmdOf s c.id = some c → c.cls = .atomic → partOf s c.part = some p →
    retryDue s c = true → c.phase = .queued → atomicBefore s c = false → gangRuns s c = true → edgesDone s c = true →
    waitsDone s c = true →
    let x := (c.val 0).toNat
    let n : Nat := (c.val 1).toNat % 2 ^ 32
    let old := readSync p x
    atomicError p c x = none → (∀ w ∈ p.waiters, w.cmd ≠ c.id) →
    let ran (t : State) (v : Word) (l : List Waiter) : Prop := exec (.replyFill c.id) s = .next t ∧
      { t with cores := s.cores, cmds := s.cmds, parts := s.parts, resident := s.resident } = s ∧
      (∀ m, m ≠ c.part → partOf t m = partOf s m) ∧ ∃ q, partOf t c.part = some q ∧
        { q with sync := p.sync, syncPz := p.syncPz, syncHb := p.syncHb, waiters := p.waiters } = p ∧ q.waiters = l ∧
        readSync q x = v ∧ ∀ a, a ≠ x → rawSync q a = rawSync p a
    (∀ o sc xa xb, c.instr = .asemp o sc xa xb →
      ((∀ w ∈ p.waiters, w.sem = true → w.addr ≠ x) → ∃ t, ran t (old + w64 n) p.waiters ∧ t.cores = s.cores ∧
        cmdOf t c.id = none ∧ ∀ m, m ≠ c.id → cmdOf t m = cmdOf s m) ∧
      ∀ (l r : List Waiter) (w : Waiter) (d : Cmd), p.waiters = l ++ w :: r → w.sem = true → w.addr = x →
        (∀ y ∈ l ++ r, y.cmd ≠ w.cmd ∧ (y.sem = true → y.addr ≠ x)) → cmdOf s w.cmd = some d →
        if (w.arg : Int) ≤ old.toInt + n then ∃ t, ran t (old + w64 n - w64 w.arg) (l ++ r) ∧ cmdOf t c.id = none ∧ cmdOf t d.id = none ∧
          (∀ m, m ≠ c.id → m ≠ d.id → cmdOf t m = cmdOf s m) ∧ Filled s t d.core d.ctx d.id (old + w64 n) none
        else ∃ t, ran t (old + w64 n) p.waiters ∧ t.cores = s.cores ∧ cmdOf t c.id = none ∧ ∀ m, m ≠ c.id → cmdOf t m = cmdOf s m) ∧
    (∀ o sc xd xa xb, c.instr = .asemw o sc xd xa xb →
      if (∃ w ∈ p.waiters, w.sem = true ∧ w.addr = x ∧ old.toInt < w.arg) ∨ (old.toInt < n ∧ ∀ w ∈ p.waiters, w.sem = true → w.addr ≠ x) then
        (∀ w ∈ p.waiters, w.sem = true → w.addr = x → old.toInt < w.arg) →
        ∃ t, ran t old (p.waiters ++ [⟨x, true, n, c.id⟩]) ∧ t.cores = s.cores ∧ cmdOf t c.id = some { c with phase := .waiting } ∧
          ∀ m, m ≠ c.id → cmdOf t m = cmdOf s m
      else (∀ w ∈ p.waiters, w.sem = true → w.addr ≠ x) →
        ∃ t, ran t (old - w64 n) p.waiters ∧ cmdOf t c.id = none ∧ (∀ m, m ≠ c.id → cmdOf t m = cmdOf s m) ∧
          Filled s t c.core c.ctx c.id old none)) ∧
  (∀ (s : State) (c : Cmd) (p : Partition) (k : Task) (g : Gang), cmdOf s c.id = some c → c.cls = .sched → partOf s c.part = some p →
    retryDue s c = true → c.phase = .queued → c.notice = none → schedBefore s c = false → gangRuns s c = true → edgesDone s c = true →
    waitsDone s c = true → taskOf s c.core = some k → gangOf s c.gang = some g →
    let a := c.val 0
    let b := (c.val 1).toNat
    let answers (u : State) (code value : Nat) : Prop := ∃ t, exec (.replyFill c.id) s = .next t ∧ Answers u t c code value
    let slot := b % 16
    let badBind : Prop := a.toNat % 64 ≠ 0 ∨ b / 16 % 4 ≠ 0
    let binds : Prop := ∀ r q occ runs total, (∀ x ∈ schedGet s c a 82, x.good = true) → r = allBytes (schedGet s c a 82) →
      solveGraph r = .ok q occ runs total →
      let u := schedUse s c a 82
      let out := areaPieces (c.val 1 &&& 0xFFFFFFFFFFFFFFC0#64) (areaBytes q occ runs total) 400
      (∀ x ∈ out, (schedAns u c x.1 x.2.length .write).good = true) →
      let x : GraphSlot := ⟨nodesIn r, (edgesIn r).map (fun e => (e.src, e.dst)), q, runs, none, [], [], 0⟩
      answers (modPart (out.foldl (writePiece c) u) c.part (fun p => { p with graphs := kput p.graphs slot x })) 0 total
    (∀ sc xd xb, c.instr = .grow sc xd xb → ∀ x, gridOf p g.grid = some x →
      let n := a.toNat
      (n = 0 ∨ 65536 < n → answers s 0xF86 0) ∧
      (1 ≤ n → n ≤ 65536 → 65536 < x.g + n → answers s 0xF82 x.g) ∧
      (1 ≤ n → x.g + n ≤ 65536 → logRoom p = false → exec (.replyFill c.id) s = .next s) ∧
      (1 ≤ n → x.g + n ≤ 65536 → logRoom p = true →
        (∀ y, p.log.getLast? = some y → y.at_ = s.tsc → y.src ≤ 2 ^ 14 * (c.core / 128) + c.core % 128) →
        ∃ u q, answers u 0 (x.g + n) ∧ { u with cores := s.cores, parts := s.parts } = s ∧ OnlyCore s u c.core ∧
          { coreOf u c.core with task := some k } = coreOf s c.core ∧ taskOf u c.core = some { k with grp := x.g + n } ∧
          (∀ m, m ≠ c.part → partOf u m = partOf s m) ∧ partOf u c.part = some q ∧
          gridOf q x.id = some { x with g := x.g + n, ranges := x.ranges ++ [⟨x.g, x.g + n, x.epoch + 1, none⟩], epoch := x.epoch + 1 } ∧
          (∀ m, m ≠ x.id → gridOf q m = gridOf p m) ∧ q.logNext = p.logNext ∧
          q.log = p.log ++ [⟨p.logNext, s.tsc, 2 ^ 14 * (c.core / 128) + c.core % 128, none, x.id, n⟩])) ∧
    (∀ o sc xd, c.instr = .fencew o sc xd →
      (p.logCap = none → answers s 0 p.fenceSeq) ∧
      (p.logCap ≠ none →
        let pos := oldestPos s c.part p
        ∃ u, answers u 0 (p.fenceSeq + 1) ∧ { u with mem := s.mem, poison := s.poison, bad := s.bad, parts := s.parts } = s ∧
          Wrote s u (.pa p.fenceAt) (natBytes (p.fenceSeq + 1) 8 ++ natBytes s.tsc 8 ++ natBytes pos 8 ++
            natBytes (k.tag * 2 ^ 48 + k.sid * 2 ^ 44 + k.kind * 2 ^ 42 + p.replays % 2 ^ 32) 8) ∧
          (∀ m, m ≠ c.part → partOf u m = partOf s m) ∧
          partOf u c.part = some { p with fenceSeq := p.fenceSeq + 1, log := p.log.filter (fun e => decide (pos ≤ e.pos)) })) ∧
    (∀ o sc xd xa xb, c.instr = .gbind o sc xd xa xb →
      (badBind → answers s 0xF86 0) ∧ (¬badBind → kget p.graphs slot ≠ none → answers s 0xF85 0) ∧
      (¬badBind → kget p.graphs slot = none → binds)) ∧
    (∀ o sc xd xa xb, c.instr = .grebind o sc xd xa xb →
      (badBind → answers s 0xF86 0) ∧ (¬badBind → kget p.graphs slot = none → answers s 0xF84 0) ∧
      ∀ x, kget p.graphs slot = some x → ¬badBind →
        (x.period ≠ none → answers s 0xF83 0) ∧
        (x.period = none → a = 0#64 → answers (modPart s c.part (fun p => { p with graphs := kdel p.graphs slot })) 0 0) ∧
        (x.period = none → a ≠ 0#64 → binds)) ∧
    (∀ sc xd xb, c.instr = .gstat sc xd xb →
      let arg := a.toNat % 256
      let what := a.toNat / 256
      (3 < what ∨ (what = 0 ∧ arg ≠ 0) ∨ (what = 1 ∧ 64 ≤ arg) ∨ (2 ≤ what ∧ 16 ≤ arg) → answers s 0xF86 0) ∧
      (what = 0 → arg = 0 → answers s 0 ((if g.flag ≠ none then 2 ^ 16 else 0) + p.replays % 2 ^ 16)) ∧
      (what = 1 → arg < 64 → answers s 0 (kgetD p.queues arg []).length) ∧
      (what = 2 → arg < 16 → answers s 0 (match kget p.graphs arg with
        | none => 0
        | some x => 2 ^ 47 + (if x.period ≠ none then 2 ^ 46 else 0) + x.periods % 2 ^ 32)) ∧
      (what = 3 → arg < 16 → answers s 0 (p.inflight.filter (fun x => x.2 == arg)).length)) ∧
    (∀ sc xd xa xb, c.instr = .ptset sc xd xa xb →
      let t := b / 256
      let i := b % 256
      let fits : Prop := t = 0 ∧ i < 16 ∧ a.getLsbD 52 = false ∧ a.toNat / 2 ^ 32 % 2 ^ 8 = 0 ∨
        t = 1 ∧ i < 64 ∧ a.toNat / 2 ^ 48 % 2 ^ 10 = 0 ∧ a.toNat % 2 ^ 7 = 0 ∨
        t = 2 ∧ (i = 0 ∧ a.toNat % 2 ^ 4 = 0 ∨ i = 1 ∧ a.toNat / 2 ^ 9 = 0 ∨ i = 2 ∧ a.toNat % 2 ^ 7 = 0)
      (¬fits → answers s 0xF86 0) ∧
      (fits →
        let table (p : Partition) : KMap Word := if t = 0 then p.policy else if t = 1 then p.stage else p.ctl
        ∃ u q, answers u 0 (kgetD (table p) i 0#64).toNat ∧ { u with parts := s.parts } = s ∧
          (∀ m, m ≠ c.part → partOf u m = partOf s m) ∧ partOf u c.part = some q ∧ table q = kput (table p) i a ∧
          { q with policy := if t = 0 then p.policy else q.policy, stage := if t = 1 then p.stage else q.stage
                   ctl := if t = 2 then p.ctl else q.ctl, secured := p.secured, boundary := p.boundary } = p ∧
          let ctl : Word := kgetD q.ctl 1 0#64
          q.secured = (p.secured && decide (ctl.toNat % 256 ≤ s.risk)) ∧
          q.boundary = (p.boundary && ctl.getLsbD 8 && decide (ctl.toNat % 256 ≤ s.risk) && !q.secured))) ∧
    ∀ sc xd, c.instr = .hmrisk sc xd →
      let ctl : Word := kgetD p.ctl 1 0#64
      let armed : Prop := ctl.getLsbD 8 = true ∧ ctl.toNat % 256 ≤ s.risk ∧ p.secured = false
      ∀ v, (armed → v = 2 ^ 16) → (¬armed → v = 0) → answers s 0 (v + ctl.toNat % 256 * 2 ^ 8 + s.risk % 2 ^ 8)) ∧
  ∀ (r : List Byte) (q occ : List Nat) (runs : List (Nat × Nat)) (total : Nat), solveGraph r = .ok q occ runs total →
    total = q.sum ∧ q.length = gNodes r ∧ (∀ n ∈ q, 1 ≤ n ∧ n ≤ 65535) ∧
    (∀ e ∈ edgesIn r, q.getD e.src 0 * e.p = q.getD e.dst 0 * e.c) ∧
    ∀ n, n < gNodes r → ((firingsOf runs).filter (fun m => m == n)).length = q.getD n 0

/-! Accesses perform (R107, R110, R132, R141, R146, R147, R264). -/

/-- R107, R109, R112, R110, R182, R264, R132, R141: a load whose access nothing holds fills its register with the bytes at its
place, sign-extended or as a natural number; an LDC that hits its core's constant cache takes them there; a read error or a
denied page leaves a fault mark. A bank grants the request whose turn it is, port 0 first where it has granted none (log entry 3); only
accesses compete for it (log entry 78). A template image arrives whole, and no longer
holds its context. A line leaves the constant cache. No write of the reading core is on its way (see StoresPerform). -/
def Obligations.ReadsPerform : Prop :=
  (∀ (s : State) (a : Access) (i : CtxId), accOf s a.id = some a → a.ctx = some i →
    let ends (v : Word) (m : Option Mark) (t : State) : Prop :=
      accOf t a.id = none ∧ (∀ n, n ≠ a.id → accOf t n = accOf s n) ∧ Filled s t a.core i a.id v m
    (a.kind = .load ∨ a.kind = .loadn →
      (a.denied = false → a.parked s = false → nearHeld s a = false → Settled s a.core → ∀ l leaf,
        judge s a.part a.asid a.gen a.dest a.size false = .ok l leaf → bankReady s a = true →
        let n := leNat (locBytes s l a.size)
        ∃ t, exec (.loadFill a.id) s = .next t ∧ { t with cores := s.cores, acc := s.acc, tcache := s.tcache, wcache := s.wcache, l2 := s.l2 } = s ∧
          ends (if a.kind = .load then sextNat n (8 * a.size) else w64 n) none t) ∧
      (a.denied = false → a.parked s = false → nearHeld s a = false → ∀ l leaf code,
        judge s a.part a.asid a.gen a.dest a.size false = .err code l leaf → code = 8 ∨ code = 0xC → leafPpol leaf = 0 →
        ∃ t, exec (.loadFill a.id) s = .next t ∧ { t with cores := s.cores, acc := s.acc } = s ∧
          ∃ v, ends v (some ⟨code, a.ea, false⟩) t) ∧
      (a.denied = true →
        ∃ t, exec (.loadFill a.id) s = .next t ∧ { t with cores := s.cores, acc := s.acc } = s ∧
          ∃ v, ends v (some ⟨0xE, a.ea, false⟩) t)) ∧
    (a.kind = .ldc → a.denied = false → a.parked s = false → nearHeld s a = false → ∀ x line, a.dest = .ipa x →
      kget (coreOf s a.core).consts (x / 256) = some line →
      ∃ t, exec (.loadFill a.id) s = .next t ∧ { t with cores := s.cores, acc := s.acc } = s ∧
        ends (w64 (leNat ((line.drop (x % 256)).take a.size))) none t) ∧
    (a.kind = .tpl → a.denied = false → a.parked s = false → nearHeld s a = false → Settled s a.core → ∀ l leaf,
      judge s a.part a.asid a.gen a.dest 64 false = .ok l leaf → bankReady s a = true →
      ∀ e : Cls, ∀ j n : Nat, (e, j) = (.matrix, 0) ∨ (e, j) = (.copy, 1) ∨ (e, j) = (.prism, 2) → n < 64 →
      a.store = 64 * j + n →
      ∃ t, exec (.templateImageArrival a.id) s = .next t ∧ { t with cores := s.cores, acc := s.acc, tcache := s.tcache, wcache := s.wcache, l2 := s.l2 } = s ∧
        accOf t a.id = none ∧ (∀ n, n ≠ a.id → accOf t n = accOf s n) ∧ OnlyCore s t a.core ∧
        (let k := coreOf s a.core
         let k' := coreOf t a.core
         { k' with mx := k.mx, cp := k.cp, xe := k.xe }.setCtx i
             { k'.ctx i with images := (k.ctx i).images } = k ∧
         (k'.ctx i).images = (k.ctx i).images.filter (fun m => m != a.id) ∧
         k'.tpl e n = ⟨BitVec.ofNat 512 (leNat (locBytes s l 64)), none⟩ ∧
         ∀ e' m, e' ≠ e ∨ m ≠ n → k'.tpl e' m = k.tpl e' m))) ∧
  (∀ (s : State) (core bank : Nat) (a : Access), accOf s a.id = some a → wantsBank s core bank a = true →
    let port (x : Access) : Nat := bankPort core x
    let turn (x : Access) : Nat := (port x + 7 - kgetD (coreOf s core).banks bank 7) % 8
    (∀ x ∈ s.acc, wantsBank s core bank x = true → x = a ∨
      (if 32 ≤ x.since ∨ 32 ≤ a.since then x.since < a.since ∨ (x.since = a.since ∧ port a < port x) else turn a < turn x)) →
    ∃ t, exec (.bankGrant core bank) s = .next t ∧ { t with cores := s.cores, acc := s.acc } = s ∧ OnlyCore s t core ∧
      coreOf t core = { coreOf s core with banks := kput (coreOf s core).banks bank (port a) } ∧
      accOf t a.id = some { a with granted := true } ∧ ∀ n, n ≠ a.id → accOf t n = accOf s n) ∧
  ∀ (s : State) (core line : Nat), ∃ t, exec (.constantLineEvict core line) s = .next t ∧ { t with cores := s.cores } = s ∧
    OnlyCore s t core ∧ { coreOf t core with consts := (coreOf s core).consts } = coreOf s core ∧
    kget (coreOf t core).consts line = none ∧
    ∀ n, n ≠ line → kget (coreOf t core).consts n = kget (coreOf s core).consts n

/-- R146, R147, R154, R110, R125, R260, R264, R265, R417: the near event of a write lets its own core's agents read it and changes no
home; the far event writes its bytes there, once layer 1 and its bank allow it; an accumulation of the matrix engine adds to what is
there, in one grant of its bank; a write that the memory side rejects is dropped, and its context hears of it at a FENCE, or it faults the
command that makes it: a copy at the micro-operation of the write, whose writes go, another with its write kept until it resumes (log
entry 121). -/
def Obligations.WritesPerform : Prop :=
  ∀ (s : State) (a : Access), accOf s a.id = some a → a.kind.writes = true → a.denied = false → a.parked s = false →
    writeParked s a = false → (nearHeld s a = false ∨ a.nearAt ≠ 0) →
    (∀ l leaf, judge s a.part a.asid a.gen a.dest a.size true = .ok l leaf →
      let far (t : State) : Prop :=
        { t with cores := s.cores, acc := s.acc, mem := s.mem, poison := s.poison, bad := s.bad, tcache := s.tcache,
                 wcache := s.wcache, l2 := s.l2, backInv := s.backInv } = s ∧
        t.backInv = s.backInv ++
          (if ∃ n ∈ hostLinesOf a.part a.dest a.size, kget s.hostLines n ≠ none then [a] else []) ∧
        accOf t a.id = none ∧ ∀ n, n ≠ a.id → accOf t n = accOf s n
      (a.nearAt = 0 → (∀ o, l = .sp a.core o → a.kind = .eng) →
        ∃ t, exec (.storePerform a.id false) s = .next t ∧ { t with acc := s.acc, nearNext := s.nearNext } = s ∧
          accOf t a.id = some { a with nearAt := s.nearNext } ∧ (∀ n, n ≠ a.id → accOf t n = accOf s n) ∧
          t.nearNext = s.nearNext + 1 ∧ SameBytes s t ∧
          ∀ d b, a.byteAt s a.part d = some b → (∀ x ∈ s.acc, x.id = a.id → x = a) → (∀ x ∈ s.acc, x.nearAt < s.nearNext) →
            nearByte t a.core a.part d = some (s.nearNext, b)) ∧
      (a.kind ≠ .acc → farHeld s a = false → bankReady s a = true →
        (a.kind = .eng → a.nearAt ≠ 0 → s.acc.filter (fun x => x.kind == .eng && x.cmd == a.cmd && x.nearAt == a.nearAt) = [a]) →
        ∃ t, exec (.storePerform a.id true) s = .next t ∧ Wrote s t l a.data ∧ far t ∧
          ∀ n, { coreOf t n with sp := (coreOf s n).sp, spBad := (coreOf s n).spBad, consts := (coreOf s n).consts } =
            coreOf s n) ∧
      (a.kind = .acc → a.nearAt = 0 → farHeld s a = false → bankReady s a = true → ∀ o, l = .sp a.core o → a.data.length = a.size →
        a.size % 4 = 0 →
        ∃ t data, exec (.storePerform a.id true) s = .next t ∧ Wrote s t l data ∧ data.length = a.size ∧ far t ∧
          (let el (b : List Byte) (n : Nat) : Nat := leNat ((b.drop (4 * n)).take 4)
           let old := locBytes s l a.size
           (∀ n, n < a.size / 4 → el data n =
             rndFloat ((decNum 0 (el old n)).add (decNum 0 (el a.data n))) fp32 0 false Rand.zero) ∧
           ∃ nan inf : Bool, (nan = true ↔ ∃ n, n < a.size / 4 ∧ (decNum 0 (el data n)).isNan = true) ∧
             (inf = true ↔ ∃ n, n < a.size / 4 ∧ (decNum 0 (el data n)).isInf = true) ∧
             ∀ n, { coreOf t n with sp := (coreOf s n).sp, spBad := (coreOf s n).spBad, consts := (coreOf s n).consts } =
               if n = a.core then { coreOf s n with sticky := (coreOf s n).sticky |||
                 ((if nan = true then 1#4 else 0#4) ||| if inf = true then 2#4 else 0#4) } else coreOf s n))) ∧
    (∀ l leaf code c, judge s a.part a.asid a.gen a.dest a.size true = .err code l leaf → code = 8 ∨ code = 0xC → leafPpol leaf = 0 →
      a.kind = .eng ∨ a.kind = .acc → cmdOf s a.cmd = some c → c.phase ≠ .held → (ctxOf s c.core c.ctx).ended = false → ∀ far,
      let told (t : State) : Prop := (∀ n, coreOf t n = coreOf (setCtx s c.core c.ctx { ctxOf s c.core c.ctx with
        reports := (ctxOf s c.core c.ctx).reports ++ [⟨true, c.disp, c.cls.code, c.tslot, c.creg, a.sync, code, a.ea, c.id⟩] }) n) ∧
        OnlyCmd s t c.id ∧ SameBytes s t
      ∃ t, exec (.storePerform a.id far) s = .next t ∧ told t ∧
        { t with cores := s.cores, acc := s.acc, cmds := s.cmds, gangs := s.gangs } = s ∧
        (c.cls ≠ .copy → cmdOf t c.id = some { c with phase := .held, fault := code, back := c.phase, lost := some a.id } ∧
          ∀ n, accOf t n = accOf s n) ∧
        (c.cls = .copy → cpOp c.img ≠ 8 → cmdOf t c.id = some { c with upc := a.sync, phase := .held, fault := code, back := .running } ∧
          (a.kind = .eng → a.nearAt ≠ 0 → ∀ x, x ∈ t.acc ↔
            x ∈ s.acc ∧ ∀ y ∈ s.acc, y.kind = .eng → y.cmd = a.cmd → y.nearAt = a.nearAt → y.id ≠ x.id) ∧
          (a.kind = .acc ∨ a.nearAt = 0 → t.acc = s.acc.filter (fun x => x.id != a.id)))) ∧
    (∀ l leaf code i, judge s a.part a.asid a.gen a.dest a.size true = .err code l leaf → code = 8 ∨ code = 0xC →
      a.ctx = some i → writeCmd s a = none → ∀ far,
      ∃ t, exec (.storePerform a.id far) s = .next t ∧ SameBytes s t ∧
        { t with cores := s.cores, acc := s.acc, parts := s.parts, health := s.health } = s ∧
        accOf t a.id = none ∧ (∀ n, n ≠ a.id → accOf t n = accOf s n) ∧ OnlyContext s t a.core i ∧
        (let c := ctxOf s a.core i
         ctxOf t a.core i = { c with drops := c.drops ++ [⟨4 * a.seq + a.slot, a.cls, a.ea⟩], records := c.records + 1 }))

/-! Fences, reports, page faults and migration (R124, R125, R153, R155, R163, R170, R179, R185, R407, R418). -/

/-- R124, R125, R150, R153, R163, R165, R170, R223: a FENCE completes once all that it waits for has performed at its scope, the
accesses of earlier vector words included, and no refused access of its mask is left; it reports the oldest in program order of the
dropped accesses that it is the first to cover, if there is one; until then nothing happens. The report that comes first enters the
handler, bits [63:48] of pc staying 0 (log entry 90), and what has been preloaded for the gang is discarded. -/
def Obligations.FencesAndReports : Prop :=
  (∀ (s : State) (core : Nat) (i : CtxId) (n : Nat) (f : FenceRec),
    let c := ctxOf s core i
    c.fences.find? (fun g => g.id == n) = some f →
    ((∀ w ∈ f.waits, performedAt s f.scope w = true) →
      (f.scope = .ctx ∨ i ≠ .C ∨ (∀ d ∈ s.cmds, d.core = core → d.cls = .vector → f.at_ ≤ 4 * d.seq + d.slot) ∧
        ∀ a ∈ s.acc ++ s.backInv, a.core = core → a.kind = .vec → 4 * a.seq + a.slot < f.at_ → performedAt s f.scope a.id = true) →
      (∀ a ∈ s.acc, a.core = core → a.ctx = some i → a.refused = true → 4 * a.seq + a.slot < f.at_ → a.cls < 16 →
        f.mask.getLsbD a.cls = false) →
      let d := { c with fences := c.fences.filter (fun g => g.id != n) }
      let covered (g : FenceRec) (x : Drop) : Prop :=
        x.seq < g.at_ ∧ if x.cls = 16 then i = .C ∧ g.scope ≠ .ctx else g.mask.getLsbD x.cls = true
      let told (x : Drop) : Prop := covered f x ∧ ∀ g ∈ c.fences, g.at_ < f.at_ → ¬covered g x
      ∃ t, exec (.fenceComplete core i n) s = .next t ∧ { t with cores := s.cores, nextId := s.nextId } = s ∧
        OnlyContext s t core i ∧
        ((∀ x ∈ c.drops, ¬told x) → t.nextId = s.nextId ∧ ctxOf t core i = d) ∧
        ∀ x ∈ c.drops, told x → (∀ y ∈ c.drops, told y → y = x ∨ x.seq < y.seq) → t.nextId = s.nextId + 1 ∧ ∃ l,
          ctxOf t core i = { d with drops := l, reports := c.reports ++ [⟨false, s.nextId, 0, 0, 0, 0, 0xB, x.ea, 0⟩] } ∧
          ∀ y, y ∈ l ↔ y ∈ c.drops ∧ ¬told y) ∧
    ((∃ w ∈ f.waits, performedAt s f.scope w = false) ∨
      (∃ a ∈ s.acc, a.core = core ∧ a.ctx = some i ∧ a.refused = true ∧ 4 * a.seq + a.slot < f.at_ ∧ a.cls < 16 ∧
        f.mask.getLsbD a.cls = true) → exec (.fenceComplete core i n) s = .next s)) ∧
  ∀ (s : State) (core : Nat) (i : CtxId) (r : Report),
    let c := ctxOf s core i
    r ∈ c.reports →
    (∀ q ∈ c.reports, q = r ∨ (r.engine = true ∧ q.engine = false) ∨ (r.engine = q.engine ∧ r.order < q.order)) →
    c.tcause.getLsbD 63 = false → c.ended = false → c.stopped = false → c.tvb ≠ 0#64 →
    r.code < 2 ^ 16 → r.ecls < 2 ^ 4 → r.tslot < 2 ^ 6 → r.creg < 2 ^ 6 → r.upc < 2 ^ 24 → c.records < 2 ^ 24 →
    ∃ t, exec (.pendingReportDelivery core i) s = .next t ∧ OnlyCores s t core ∧ OnlyCore s t core ∧
      { coreOf t core with waiting := (coreOf s core).waiting, grants := (coreOf s core).grants }.setCtx i c = coreOf s core ∧
      ctxOf t core i =
        { c with reports := c.reports.erase r, records := if r.engine = true then c.records else 0,
                 tpc := c.pc, tval := r.tval,
                 tcause := w64 (if r.engine = true then
                     2 ^ 63 + r.ecls * 2 ^ 52 + r.tslot * 2 ^ 46 + r.creg * 2 ^ 40 + r.upc * 2 ^ 16 + r.code
                   else 2 ^ 63 + c.records * 2 ^ 16 + r.code : Nat),
                 hold := 0, images := [], tickWait := false, pc := c.tvb &&& 0x0000FFFFFFFFFFFF#64,
                 handling := r.cmd :: c.handling }

/-- R84, R111, R153, R155, R175, R179, R183, R185, R407, R418: an access that misses is held, its notice is queued and the stall wire of
its gang rises (State.malformed holds the numbers of the notices that meet a malformed entry, log entry 75, and an entry that the
controller cannot read is one, log entry 117); an access or a command that another device homes waits out its hint where it is refused,
and one of another device that misses here is refused with a notice that names core 0x3FF and holds nothing (log entry 114); a page moves
with its bytes and with the leaf in its table (log entry 77); the watchdog raises the wires of the gangs that have not acknowledged; the
oldest notice or record is written to its ring. -/
def Obligations.PagesAndRings : Prop :=
  (∀ (s : State) (a : Access) (x : Nat) (bad : Bool) (p : Partition) (k : Task) (g : Gang),
    accOf s a.id = some a →
    a.dest = .ipa x → findDest s a.part a.asid a.gen (.ipa x) a.kind.writes = .miss bad → a.denied = false →
    a.parked s = false → writeParked s a = false → nearHeld s a = false → partOf s a.part = some p →
    taskOf s a.core = some k → gangOf s k.gang = some g →
    let n := s.noticeNext
    let kind := if a.kind.writes = true then 1 else 0
    let met := if bad = true then badEntryOf s a.part a.asid x else none
    ∃ t, exec (.pageFault a.id) s = .next t ∧
      { t with acc := s.acc, parts := s.parts, gangs := s.gangs, noticeNext := n, malformed := s.malformed, health := s.health } = s ∧
      (match met with
        | none => t.health = s.health
        | some e => Logged s t 1 (srcMemory e)) ∧
      t.noticeNext = n + 1 ∧ t.malformed = (if bad = true then [n] else []) ++ s.malformed ∧
      accOf t a.id = some { a with notice := some n } ∧ (∀ m, m ≠ a.id → accOf t m = accOf s m) ∧
      gangOf t k.gang = some { g with notices := g.notices ++ [n] } ∧ (∀ m, m ≠ k.gang → gangOf t m = gangOf s m) ∧
      (∀ m, m ≠ a.part → partOf t m = partOf s m) ∧
      partOf t a.part = some { p with
        notices := p.notices ++ [⟨n, a.asid, a.gen, kind, a.core, some k.gang, x, bad, .held⟩]
        pendRecords := match met with
          | none => p.pendRecords
          | some e => if p.mcRing.isSome = true then
            insertRecord p.pendRecords (recordWords s a.part (srcMemory e) 9 0 3 0x3FF (w64 (e : Nat)) 0) else p.pendRecords
        pendNotices := p.pendNotices ++ (if p.noticeRing.isSome = true then
          [[w64 n, w64 (a.asid * 2 ^ 48 + a.gen * 2 ^ 44 + kind * 2 ^ 42 + g.cores.getD 0 0x3FF * 2 ^ 32 : Nat), w64 x, w64 s.tsc]]
          else []) }) ∧
  (∀ (s : State) (c : Cmd) (hint : Nat), cmdOf s c.id = some c → accOf s c.id = none → 1 ≤ hint → hint ≤ 65535 →
    ∃ t, exec (.remoteRefusal (.own c.id) hint) s = .next t ∧ { t with cmds := s.cmds } = s ∧ OnlyCmd s t c.id ∧
      cmdOf t c.id = some { c with retry := if nextMisses s c = true then some (s.tsc + hint) else c.retry }) ∧
  (∀ (s : State) (a : Access) (hint : Nat), accOf s a.id = some a → cmdOf s a.id = none → 1 ≤ hint → hint ≤ 65535 →
    (∀ x bad, a.dest = .ipa x → findDest s a.part a.asid a.gen (.ipa x) a.kind.writes = .miss bad →
      ∃ t, exec (.remoteRefusal (.own a.id) hint) s = .next t ∧ { t with acc := s.acc, cmds := s.cmds } = s ∧
        accOf t a.id = some { a with retry := some (s.tsc + hint), refused := true } ∧ (∀ m, m ≠ a.id → accOf t m = accOf s m) ∧
        (∀ m, cmdOf t m = cmdOf s m) ∧ { a with retry := some (s.tsc + hint), refused := true }.parked t = true) ∧
    (∀ u, a.retry = some u → u ≤ s.tsc →
      ∃ t, exec (.retryTimerExpiry a.id) s = .next t ∧ { t with acc := s.acc, cmds := s.cmds } = s ∧
        accOf t a.id = some { a with retry := none } ∧ (∀ m, m ≠ a.id → accOf t m = accOf s m) ∧
        ∀ m, cmdOf t m = cmdOf s m)) ∧
  (∀ (s : State) (part asid ipa hint : Nat) (write bad : Bool) (p : Partition), partOf s part = some p → 1 ≤ hint → hint ≤ 65535 →
    let gen := kgetD p.gens asid 0
    let kind := if write = true then 1 else 0
    let n := s.noticeNext
    findDest s part asid gen (.ipa ipa) write = .miss bad →
    let met := if bad = true then badEntryOf s part asid ipa else none
    ∃ t, exec (.remoteRefusal (.other part asid ipa write) hint) s = .next t ∧
      { t with parts := s.parts, noticeNext := n, malformed := s.malformed, health := s.health } = s ∧
      (match met with
        | none => t.health = s.health
        | some e => Logged s t 1 (srcMemory e)) ∧
      t.noticeNext = n + 1 ∧ t.malformed = (if bad = true then [n] else []) ++ s.malformed ∧
      (∀ m, m ≠ part → partOf t m = partOf s m) ∧
      partOf t part = some { p with
        notices := p.notices ++ [⟨n, asid, gen, kind, 0x3FF, none, ipa, bad, .other⟩]
        pendRecords := match met with
          | none => p.pendRecords
          | some e => if p.mcRing.isSome = true then
            insertRecord p.pendRecords (recordWords s part (srcMemory e) 9 0 3 0x3FF (w64 (e : Nat)) 0) else p.pendRecords
        pendNotices := p.pendNotices ++ (if p.noticeRing.isSome = true then
          [[w64 n, w64 (asid * 2 ^ 48 + gen * 2 ^ 44 + kind * 2 ^ 42 + 0x3FF * 2 ^ 32 : Nat), w64 ipa, w64 s.tsc]] else []) }) ∧
  (∀ (s : State) (part asid ipa frame root e : Nat) (l : Word) (big : Bool) (p : Partition), s.mem.wf = true →
    walk s part asid ipa = .leaf l big → partOf s part = some p → p.roots = [(asid, root)] → leafHome l ≠ 1 →
    let size := if big = true then 2 ^ 25 else 2 ^ 16
    frame % size = 0 → populated s frame = true → leafPa l ≠ frame →
    let moved : State := { s with
      mem := memCopy s.mem (leafPa l) frame size
      poison := markCopy s.poison (leafPa l) frame size, bad := markCopy s.bad (leafPa l) frame size }
    walk moved part asid ipa = .leaf l big → leafEntry moved ipa 0 root 4 = some e →
    ∃ t l', exec (.pageMigration part asid ipa frame) s = .next t ∧
      { t with mem := s.mem, poison := s.poison, bad := s.bad, tcache := s.tcache, l2 := s.l2 } = s ∧
      leafPa l' = frame ∧ (∀ n, n < 16 ∨ 48 ≤ n → l'.getLsbD n = l.getLsbD n) ∧
      ∀ b, memByte t.mem b =
        if e ≤ b ∧ b < e + 8 then (natBytes l'.toNat 8).getD (b - e) 0#8
        else if frame ≤ b ∧ b < frame + size then memByte s.mem (b - frame + leafPa l)
        else memByte s.mem b) ∧
  (∀ (s : State) (part : Nat) (p : Partition) (v : Inval) (a : Access) (k : Task) (g : Gang), partOf s part = some p →
    p.invals.find? (fun w => w.id == v.id) = some v →
    v.since + 1000 * (if p.watchdog = 0 then 1000 else p.watchdog) ≤ s.tsc →
    a ∈ s.acc → v.names a = true → a.core ∈ unackedCores s p v → taskOf s a.core = some k → gangOf s k.gang = some g →
    ∃ t q w, exec (.invalidationWatchdogExpiry part v.id) s = .next t ∧ { t with gangs := s.gangs, parts := s.parts } = s ∧
      gangOf t k.gang = some { g with watch := w } ∧ (∀ n, n ∈ w ↔ n ∈ g.watch ∨ n = v.id) ∧
      (∀ n h, gangOf s n = some h → ∃ h', gangOf t n = some h' ∧ { h' with watch := h.watch } = h) ∧
      (∀ n, n ≠ part → partOf t n = partOf s n) ∧ partOf t part = some q ∧ { q with invals := p.invals } = p ∧
      q.invals.map (fun w => { w with watch := false }) = p.invals.map (fun w => { w with watch := false })) ∧
  ∀ (s : State) (part : Nat) (p : Partition) (r : HostRing) (e : Rec32) (rest : List Rec32), partOf s part = some p →
    let prod := leNat (memRead s.mem r.base 8)
    let cons := min (leNat (memRead s.mem (r.base + 8) 8)) prod
    let raised (t : State) (vec : Nat) : Prop :=
      Raises s t ((match controlFn s part with
        | some fn => [(fn, vec)]
        | none => []) ++ [(0, vec)])
    let entry (t : State) : Prop := ∀ b, memByte t.mem b =
      if r.base ≤ b ∧ b < r.base + 8 then (natBytes (prod + 1) 8).getD (b - r.base) 0#8
      else if r.base + 64 + 32 * (prod % r.cap) ≤ b ∧ b < r.base + 64 + 32 * (prod % r.cap) + (e.flatMap wordBytes).length then
        (e.flatMap wordBytes).getD (b - (r.base + 64 + 32 * (prod % r.cap))) 0#8
      else memByte s.mem b
    let only (t : State) : Prop :=
      { t with mem := s.mem, poison := s.poison, bad := s.bad, parts := s.parts, msix := s.msix } = s ∧
      ∀ n, n ≠ part → partOf t n = partOf s n
    (p.noticeRing = some r → p.pendNotices = e :: rest →
      (prod - cons < r.cap → ∃ t, exec (.noticeQueueWrite part .notice) s = .next t ∧ only t ∧ entry t ∧ raised t 1 ∧
        partOf t part = some { p with pendNotices := rest }) ∧
      (r.cap ≤ prod - cons → exec (.noticeQueueWrite part .notice) s = .next s)) ∧
    (p.mcRing = some r → p.pendRecords = e :: rest →
      ∃ t, exec (.noticeQueueWrite part .machineCheck) s = .next t ∧ only t ∧ raised t 2 ∧
        partOf t part = some { p with pendRecords := rest } ∧
        if prod - cons < r.cap then entry t
        else ∀ b, memByte t.mem b =
          if r.base + 16 ≤ b ∧ b < r.base + 24 then
            (natBytes (leNat (memRead s.mem (r.base + 16) 8) + 1) 8).getD (b - (r.base + 16)) 0#8
          else memByte s.mem b)

/-- R71, R216, R217, R220, R226 to R236, R238, R239, R63: what the oldest vector word of a core does as it completes, where every granule
is sound and no write is on its way: its lanes under its mask, in floating types by the exact operations and the rounding of R206 and in
integer types modulo 2 to the lane's width; comparisons and selects; conversions; random numbers; segmented reductions, scans and
rankings; permutes and lane moves; mask words; loads and stores of rows, and the walk. A register that names a bound port stands for the
element at the port's head or tail, and the port loses or gains one. The rows land in one event (log entry 116). -/
def Obligations.VectorResults : Prop :=
  ∀ (s : State) (c : Cmd), cmdOf s c.id = some c → c.cls = .vector →
    (∀ d ∈ s.cmds, d.core = c.core → d.cls = .vector → d = c ∨ c.disp < d.disp) →
    gangRuns s c = true → vectorHeld s c = false → (∀ n, (coreOf s n).spBad = []) → Settled s c.core →
    (∀ r ∈ (vShape c.instr).reads, r ∈ (vShape c.instr).writes → portOf c.ports r = none) →
    let k := coreOf s c.core
    let et := c.vtype.toNat % 16
    let rm := c.vtype.toNat / 2 ^ 20 % 8
    let sat := c.vtype.getLsbD 23
    let rz := c.vtype.toNat / 2 ^ 24 % 32
    let b : Nat := match et with
      | 0 | 5 => 4
      | 1 => 2
      | 6 => 8
      | _ => 1
    let w := 8 * b
    let lanes := 256 / b
    let src (r : RegNo) : Nat := 256 * srcRow s c r
    let dst (r : RegNo) : Nat := 256 * dstRow s c r
    let bound (r : RegNo) : Prop := portOf c.ports r ≠ none
    let mask (k : Core) (n : Nat) : BitVec 256 := if n = 0 then BitVec.allOnes 256 else k.vec.masks.getD n 0#256
    let lane (m : Memory) (place b n : Nat) : Nat := leNat (memRead m (place + b * n) b)
    let old (r : RegNo) (b n : Nat) : Nat := if portOf c.ports r = none then lane k.sp (dst r) b n else 0
    let sgn (v : Nat) : Int := patInt w v
    let draw (n : Nat) : Nat := if rz = 0 then 0 else randBits (gmix k.vec.rkey (runningCtr c.core (k.vec.rc + n))) rz
    let z (n : Nat) : Nat := if rm = 4 then draw n else 0
    let drawn (on : Prop) [Decidable on] (n : Nat) : Nat := if on ∧ rz ≠ 0 then n else 0
    let fl (v : Machine.Num) (n : Nat) : Int := (rnd v et rm sat ⟨z n, rz, none⟩ : Nat)
    let a := c.vals.headD 0#64
    let d := c.vals.getD 1 0#64
    let ended (t : State) : Prop := exec (.vectorWordComplete c.core) s = .next t ∧ cmdOf t c.id = none ∧ OnlyCmd s t c.id ∧
      OnlyCore s t c.core
    let ran (t : State) : Prop := ended t ∧ { t with cores := s.cores, cmds := s.cmds } = s
    let ported (t : State) (pops pushes : List RegNo) : Prop := ∀ n, kget (coreOf t c.core).vec.ports n =
      (kget k.vec.ports n).map (fun p =>
        let q : Port := if n ∈ portsAmong c.ports pops then { p with head := (p.head + 1) % p.len, count := p.count - 1 } else p
        if n ∈ portsAmong c.ports pushes then { q with count := q.count + 1 } else q)
    let rest (t : State) (v : Vec) (pops pushes : List RegNo) (draws : Nat) : Prop :=
      let l := coreOf t c.core
      { l with sp := k.sp, consts := k.consts, vec := { l.vec with ports := k.vec.ports, rc := k.vec.rc } } = { k with vec := v } ∧
      ported t pops pushes ∧ l.vec.rc = k.vec.rc + draws ∧ ∀ x ∈ l.consts, x ∈ k.consts
    let row (i : Instr) (vd : RegNo) (pops : List RegNo) (draws b : Nat) (f : Nat → Int) : Prop := c.instr = i →
      ∃ t, ran t ∧ rest t k.vec pops [vd] draws ∧
        (∀ x, x < dst vd ∨ dst vd + 256 ≤ x → memByte (coreOf t c.core).sp x = memByte k.sp x) ∧
        ∀ n, n < 256 / b → (lane (coreOf t c.core).sp (dst vd) b n : Int) = f n % 2 ^ (8 * b)
    let second (sc : Bool) (vb : RegNo) (n : Nat) : Nat := if sc = true then a.toNat % 2 ^ w else lane k.sp (src vb) b n
    let binary (op : Bool → RegNo → RegNo → RegNo → BitVec 2 → Instr) (merges rounds : Bool) (f : Nat → Nat → Nat → Nat → Int) : Prop :=
      ∀ sc vd va vb m, row (op sc vd va vb m) vd ((if sc = true then [va] else [va, vb]) ++ if merges = true then [vd] else [])
        (drawn (rounds = true ∧ rm = 4 ∧ et ≤ 3) lanes) b (fun n =>
          if (mask k m.toNat).getLsbD n = true then f (lane k.sp (src va) b n) (second sc vb n) (old vd b n) n else old vd b n)
    let unary (op : RegNo → RegNo → BitVec 2 → Instr) (f : Nat → Int) : Prop :=
      ∀ vd va m, row (op vd va m) vd [va] 0 b (fun n =>
        if (mask k m.toNat).getLsbD n = true then f (lane k.sp (src va) b n) else old vd b n)
    let masks (i : Instr) (md : BitVec 3) (pops : List RegNo) (v : BitVec 256) : Prop := c.instr = i → ∃ t, ran t ∧ ported t pops [] ∧
      { coreOf t c.core with vec := { (coreOf t c.core).vec with masks := k.vec.masks, ports := k.vec.ports } } = k ∧
      ∀ n, n < 8 → mask (coreOf t c.core) n = if n = md.toNat ∧ n ≠ 0 then v else mask k n
    let compares (op : Bool → BitVec 3 → RegNo → RegNo → BitVec 2 → Instr) (f : Nat → Nat → Prop) : Prop := ∀ sc md va vb m,
      ∃ v : BitVec 256, masks (op sc md va vb m) md (if sc = true then [va] else [va, vb]) v ∧ ∀ n, n < 256 →
        (v.getLsbD n = true ↔ n < lanes ∧ (mask k m.toNat).getLsbD n = true ∧ f (lane k.sp (src va) b n) (second sc vb n))
    let num (v : Nat) : Machine.Num := decNum et v
    let before (u v : Nat) : Prop := (num u).lt (num v) = some true ∨
      (num u).lt (num v) = some false ∧ (num v).lt (num u) = some false ∧ u / 2 ^ (w - 1) % 2 = 1 ∧ v / 2 ^ (w - 1) % 2 = 0
    let isNan (v : Nat) : Prop := num v = .nan
    let least (u v : Nat) (r : Int) : Prop :=
      if et ≤ 3 then (isNan u ∨ isNan v → r = nanOf et) ∧ (¬isNan u → ¬isNan v → (before v u → r = v) ∧ (¬before v u → r = u))
      else (sgn u ≤ sgn v → r = u) ∧ (sgn v < sgn u → r = v)
    let most (u v : Nat) (r : Int) : Prop :=
      if et ≤ 3 then (isNan u ∨ isNan v → r = nanOf et) ∧ (¬isNan u → ¬isNan v → (before u v → r = v) ∧ (¬before u v → r = u))
      else (sgn v ≤ sgn u → r = u) ∧ (sgn u < sgn v → r = v)
    let sum (u v n : Nat) (r : Int) : Prop := if et ≤ 3 then r = fl ((num u).add (num v)) n else r = ((u : Int) + v) % 2 ^ w
    let opens (m : BitVec 2) (n : Nat) : Prop := n = 0 ∨ (mask k m.toNat).getLsbD n = true
    let last (m : BitVec 2) (n j : Nat) : Prop :=
      n ≤ j ∧ j < lanes ∧ (∀ i, n < i → i ≤ j → ¬opens m i) ∧ (j + 1 = lanes ∨ opens m (j + 1))
    let folds (op : RegNo → RegNo → BitVec 2 → Instr) (spreads rounds : Bool) (f : Nat → Nat → Nat → Int → Prop) : Prop := ∀ vd va m,
      ∃ acc : Nat → Nat, (∀ n, opens m n → acc n = lane k.sp (src va) b n) ∧
        (∀ n, n + 1 < lanes → ¬opens m (n + 1) → f (acc n) (lane k.sp (src va) b (n + 1)) (n + 1) (acc (n + 1))) ∧
        ∀ end_ : Nat → Nat, (∀ n, n < lanes → if spreads = true then last m n (end_ n) else end_ n = n) →
          row (op vd va m) vd [va] (drawn (rounds = true ∧ rm = 4 ∧ et ≤ 3) lanes) b (fun n => acc (end_ n))
    (∀ r : RegNo, (portOf c.ports r = none → srcRow s c r = c.vwin.toNat % 4096 + r.toNat ∧ dstRow s c r = c.vwin.toNat % 4096 + r.toNat) ∧
      ∀ p, bound r → kget k.vec.ports (r.toNat - 60) = some p →
        srcRow s c r = p.base + p.head % p.len ∧ dstRow s c r = p.base + (p.head + p.count) % p.len) ∧
    (et ≤ 3 →
      binary .vadd false true (fun x y _ n => fl ((num x).add (num y)) n) ∧
      binary .vsub false true (fun x y _ n => fl ((num x).add (num y).neg) n) ∧
      binary .vmul false true (fun x y _ n => fl ((num x).mul (num y)) n) ∧
      binary .vfma true true (fun x y e n => fl (((num x).mul (num y)).add (num e)) n) ∧
      binary .vfnma true true (fun x y e n => fl ((num e).add ((num x).mul (num y)).neg) n) ∧
      unary .vabs (fun x => (x % 2 ^ (w - 1) : Nat)) ∧ unary .vneg (fun x => (x ^^^ 2 ^ (w - 1) : Nat))) ∧
    (et = 4 ∨ et = 5 ∨ et = 6 →
      binary .vadd false true (fun x y _ _ => x + y) ∧ binary .vsub false true (fun x y _ _ => x - y) ∧
      binary .vmul false true (fun x y _ _ => x * y) ∧ binary .vfma true true (fun x y e _ => x * y + e) ∧
      binary .vfnma true true (fun x y e _ => e - x * y) ∧
      binary .vminn false false (fun x y _ _ => min x y) ∧ binary .vmaxn false false (fun x y _ _ => max x y) ∧
      unary .vabs (fun x => (sgn x).natAbs) ∧ unary .vneg (fun x => -x) ∧
      binary .vshl false false (fun x y _ _ => x * 2 ^ (y % w)) ∧ binary .vshr false false (fun x y _ _ => (x / 2 ^ (y % w) : Nat)) ∧
      binary .vsra false false (fun x y _ _ => sgn x / 2 ^ (y % w))) ∧
    (et ≤ 6 →
      (∀ f : Nat → Nat → Int, (∀ u v, least u v (f u v)) → binary .vmin false false (fun x y _ _ => f x y)) ∧
      (∀ f : Nat → Nat → Int, (∀ u v, most u v (f u v)) → binary .vmax false false (fun x y _ _ => f x y)) ∧
      compares .vcmpEq (fun x y => if et ≤ 3 then (num x).same (num y) = true else x = y) ∧
      compares .vcmpNe (fun x y => if et ≤ 3 then (num x).same (num y) = false else x ≠ y) ∧
      compares .vcmpLt (fun x y => if et ≤ 3 then (num x).lt (num y) = some true else sgn x < sgn y) ∧
      compares .vcmpGe (fun x y => if et ≤ 3 then (num x).lt (num y) = some false else sgn y ≤ sgn x) ∧
      folds .vrsum true true sum ∧ folds .vscan false true sum ∧
      folds .vrmax true false (fun u v _ r => most u v r) ∧ folds .vrmin true false (fun u v _ r => least u v r) ∧
      folds .vscanx false false (fun u v _ r => most u v r) ∧
      ∀ vd va xb m, c.instr = .vtopk vd va xb m → ∃ t, ran t ∧ rest t k.vec [va] [vd, vd + 1#6] 0 ∧
        (∀ x, (x < dst vd ∨ dst vd + 256 ≤ x) → (x < dst (vd + 1#6) ∨ dst (vd + 1#6) + 256 ≤ x) →
          memByte (coreOf t c.core).sp x = memByte k.sp x) ∧
        ∀ lo hi i, opens m lo → last m lo (hi - 1) → lo + i < hi →
          let x (n : Nat) : Nat := lane k.sp (src va) b (lo + n)
          let value := lane (coreOf t c.core).sp (dst vd) b (lo + i)
          let place := lane (coreOf t c.core).sp (dst (vd + 1#6)) b (lo + i)
          let first (p q : Nat) : Bool := ranksAbove et (x p) (x q) || (!ranksAbove et (x q) (x p) && decide (p < q))
          (i < a.toNat % 16 → ∃ o, lo + o < hi ∧ place = o ∧ (dst vd ≠ dst (vd + 1#6) → value = x o) ∧
            ((List.range (hi - lo)).filter (fun q => first q o)).length = i) ∧
          (a.toNat % 16 ≤ i → place = 2 ^ w - 1 ∧ (dst vd ≠ dst (vd + 1#6) → value = lowestOf et))) ∧
    (et = 4 ∨ et = 5 ∨ et = 6 ∨ et = 9 → compares .vcmpLtn (fun x y => x < y) ∧ compares .vcmpGen (fun x y => y ≤ x)) ∧
    (et = 0 →
      unary .vexp2 (fun x => (rnd (exp2 (num x)) 0 0 false Rand.zero : Nat)) ∧
      unary .vlog2 (fun x => (rnd (log2Num (num x)) 0 0 false Rand.zero : Nat)) ∧
      unary .vrecip (fun x => (rnd (recip (num x)) 0 0 false Rand.zero : Nat)) ∧
      unary .vrsq (fun x => (rnd (rsqrt (num x)) 0 0 false Rand.zero : Nat))) ∧
    (et = 0 ∨ et = 4 ∨ et = 5 ∨ et = 6 → ∀ vd xb m,
      let running : Prop := a.toNat / 2 ^ 48 = 0xFFFF
      let y (n : Nat) : Word := gmix k.vec.rkey (if a.toNat / 2 ^ 48 = 0xFFFF then runningCtr c.core (k.vec.rc + n)
        else w64 (a.toNat / 2 ^ 48 * 2 ^ 48 + (a.toNat % 2 ^ 48 + n) % 2 ^ 48 : Nat))
      ∀ used, (running → used = lanes) → (¬running → used = 0) → row (.vrng vd xb m) vd [] used b (fun n =>
        if (mask k m.toNat).getLsbD n = false then old vd b n
        else if et = 0 then (rnd (.fin false ((y n).toNat / 2 ^ 40) (-24)) 0 0 false Rand.zero : Nat)
        else ((y n).toNat / 2 ^ (64 - w) : Nat))) ∧
    (et ≤ 6 ∨ et = 9 →
      binary .vand false false (fun x y _ _ => (x &&& y : Nat)) ∧ binary .vor false false (fun x y _ _ => (x ||| y : Nat)) ∧
      binary .vxor false false (fun x y _ _ => (x ^^^ y : Nat)) ∧
      binary .vandn false false (fun x y _ _ => (x &&& (y ^^^ (2 ^ w - 1)) : Nat)) ∧
      (∀ sc vd va vb m, row (.vsel sc vd va vb m) vd (if sc = true then [va] else [va, vb]) 0 b (fun n =>
        if (mask k m.toNat).getLsbD n = true then lane k.sp (src va) b n else second sc vb n)) ∧
      (∀ sc vd va vb m, row (.vperm sc vd va vb m) vd (if sc = true then [va] else [va, vb]) 0 b (fun n =>
        if (mask k m.toNat).getLsbD n = true then lane k.sp (src va) b (second sc vb n % lanes) else old vd b n)) ∧
      (∀ vd xb m, row (.vbcast vd xb m) vd [] 0 b (fun n => if (mask k m.toNat).getLsbD n = true then a.toNat else old vd b n)) ∧
      (∀ (t : BitVec 3) vd va (p : BitVec 2) sat rm m,
        let ty : Nat := if t.toNat = 7 then 9 else t.toNat
        let wb := etWidth ty / 8
        let narrow : Prop := wb ≤ b
        let n := if wb ≤ b then lanes else 256 / wb
        row (.vcvt t vd va p sat rm m) vd [va] (drawn (rm.toNat = 4) n) wb (fun j =>
          if (mask k m.toNat).getLsbD j = true ∧ (narrow → p.toNat * n ≤ j ∧ j < p.toNat * n + n) then
            let at_ := if wb ≤ b then j - p.toNat * n else p.toNat * n + j
            let x := if at_ < lanes then lane k.sp (src va) b at_ else 0
            (convert et x ty rm.toNat sat (if rm.toNat = 4 then draw (if wb ≤ b then j - p.toNat * n else j) else 0) rz : Nat)
          else old vd wb j)) ∧
      (∀ xd va xb, c.instr = .vextx xd va xb → ∃ t, ran t ∧ ported t [va] [] ∧
        let x := lane k.sp (src va) b (a.toNat % lanes)
        Filled s (setCore t c.core { coreOf t c.core with vec := { (coreOf t c.core).vec with ports := k.vec.ports } }) c.core .C c.id
          (if et = 4 ∨ et = 5 ∨ et = 6 then w64 (sgn x) else w64 (x : Nat)) none) ∧
      (∀ vd xb n o, c.instr = .vldr vd xb → c.reads = [⟨.sp n, o, o + 256⟩] → ∃ t, ran t ∧ rest t k.vec [] [vd] 0 ∧
        ∀ x, memByte (coreOf t c.core).sp x =
          if dst vd ≤ x ∧ x < dst vd + 256 then memByte (coreOf s n).sp (o + (x - dst vd)) else memByte k.sp x) ∧
      (∀ vd xb n o, c.instr = .vstr vd xb → c.writes = [⟨.sp n, o, o + 256⟩] → ∃ t, ended t ∧ rest t k.vec [vd] [] 0 ∧
        (n = c.core → ran t ∧ ∀ x, memByte (coreOf t c.core).sp x =
          if o ≤ x ∧ x < o + 256 then memByte k.sp (src vd + (x - o)) else memByte k.sp x) ∧
        (n ≠ c.core → (coreOf t c.core).sp = k.sp ∧
          { t with cores := s.cores, cmds := s.cmds, acc := s.acc, nextId := s.nextId, nearNext := s.nearNext } = s ∧
          t.nextId = s.nextId + 8 ∧ t.nearNext = s.nearNext + 8 ∧ ∃ l, t.acc = s.acc ++ l ∧ l.length = 8 ∧
            ∀ g x, l[g]? = some x → x.id = s.nextId + g ∧ x.nearAt = s.nearNext + g ∧ x.kind = .vec ∧ x.core = c.core ∧
              x.ctx = some .C ∧ x.cmd = c.id ∧ x.seq = c.seq ∧ x.slot = c.slot ∧ x.dest = .sp n (o + 32 * g) ∧ x.size = 32 ∧
              x.data = memRead k.sp (src vd + 32 * g) 32)) ∧
      ∀ vd, c.instr = .vldw vd →
        let r := walkOf s c k.vec
        let n := r.1.length
        (∀ x ∈ r.1, x.1 + b ≤ 786432) → ∃ t, ran t ∧
          rest t { k.vec with cr := r.2.2.1, cc := r.2.2.2, masks := (coreOf t c.core).vec.masks } [] [vd] 0 ∧
          (∀ j, j < 8 → j ≠ 3 → mask (coreOf t c.core) j = mask k j) ∧
          (∀ j, j < 256 → ((mask (coreOf t c.core) 3).getLsbD j = true ↔ (∃ x, r.1[j]? = some x ∧ x.2 = true) ∨ (j = n ∧ n < lanes))) ∧
          (∀ x, x < dst vd ∨ dst vd + 256 ≤ x → memByte (coreOf t c.core).sp x = memByte k.sp x) ∧
          ∀ j, j < lanes → lane (coreOf t c.core).sp (dst vd) b j =
            match r.1[j]? with
            | some x => leNat (memRead k.sp x.1 b)
            | none => 0) ∧
    (∀ (md ma mb : BitVec 3) (q : BitVec 2) (xb : RegNo),
      let x := mask k ma.toNat
      let y := mask k mb.toNat
      masks (.vmand md ma mb) md [] (x &&& y) ∧ masks (.vmor md ma mb) md [] (x ||| y) ∧ masks (.vmxor md ma mb) md [] (x ^^^ y) ∧
      masks (.vmandn md ma mb) md [] (x &&& ~~~y) ∧
      ∃ v : BitVec 256, masks (.vmset md q xb) md [] v ∧ ∀ n, n < 256 → v.getLsbD n =
        if 64 * q.toNat ≤ n ∧ n < 64 * q.toNat + 64 then a.getLsbD (n - 64 * q.toNat) else (mask k md.toNat).getLsbD n) ∧
    (∀ (xd : RegNo) (ma : BitVec 3) (q : BitVec 2),
      (c.instr = .vmpopc xd ma → ∃ t, ran t ∧ Filled s t c.core .C c.id
        (w64 ((List.range 256).filter (fun n => (mask k ma.toNat).getLsbD n)).length) none) ∧
      (c.instr = .vmget xd ma q → ∃ t, ran t ∧ Filled s t c.core .C c.id
        ((mask k ma.toNat).extractLsb' (64 * q.toNat) 64) none)) ∧
    ∀ xa xb : RegNo,
      (c.instr = .vkey xb → ∃ t, ran t ∧ coreOf t c.core = { k with vec := { k.vec with rkey := a } }) ∧
      (c.instr = .vwalk xa xb → ∃ t, ran t ∧ coreOf t c.core = { k with vec := { k.vec with
        nrow := a.toNat / 2 ^ 48, tof := a.toNat % 2 ^ 20, strd := d.toNat / 2 ^ 32, sof := d.toNat % 2 ^ 20,
        cr := 0, cc := 0 } })

/-! Tasks (R79, R80, R85, R187, R188, R368 to R393). -/

/-- R79, R374, R62, R66, R67: a context at task start has its entry address as pc, its argument in x1, the weight root in x2 and x3
where the record has one, and every other register zero and full; only p0 is 1; its special registers are 0, its FIFOs empty, and
its loops inactive. A core at task start has m0 all ones, every other mask, template, record, format and status 0, and no binding. -/
def Obligations.TaskStart : Prop :=
  ∀ (s : State) (n : Nat) (k : Task) (r : List Byte) (off : Nat),
    let dw (o : Nat) : Word := leWord ((r.drop o).take 8)
    let c := startCtx r off
    let t := startCore s n k r
    let d := coreOf t n
    (c.pc = dw off ∧ c.readX 1#6 = dw 0x18 ∧
      (∀ q : RegNo, c.fullX q = true ∧ (c.reg q).mark = none) ∧
      (∀ q : RegNo, q ≠ 1#6 → c.readX q =
        if (dw 0x28).getLsbD 37 = true ∧ q = 2#6 then dw 0x50 else if (dw 0x28).getLsbD 37 = true ∧ q = 3#6 then dw 0x58 else 0#64) ∧
      (∀ m, c.pred m = decide (m = 0)) ∧
      c.lc0 = 0#64 ∧ c.li0 = 0#64 ∧ c.sk0 = 0#64 ∧ c.lc1 = 0#64 ∧ c.li1 = 0#64 ∧ c.bsc = 0#4 ∧ c.tvb = 0#64 ∧
      c.tcause = 0#64 ∧ c.tval = 0#64 ∧ c.tpc = 0#64 ∧ c.fifoL = [] ∧ c.fifoR = [] ∧ c.ended = false ∧ c.reports = []) ∧
    { t with cores := s.cores, free := s.free } = s ∧ OnlyCore s t n ∧ d.task = some k ∧
    d.ctxL = startCtx r 0 ∧ d.ctxC = startCtx r 8 ∧ d.ctxS = startCtx r 0x10 ∧
    d.vec.masks.getD 0 0#256 = BitVec.allOnes 256 ∧ (∀ m, 0 < m → d.vec.masks.getD m 0#256 = 0#256) ∧
    d.vec.vtype = 0#64 ∧ d.vec.vwin = 0#64 ∧ d.vec.ports = [] ∧ d.sticky = 0#4 ∧ d.total = 0#48 ∧
    (∀ e m, d.tpl e m = ⟨0#512, none⟩) ∧ (∀ m, d.recSlot m = ⟨0#768, none⟩) ∧ (∀ m, kgetD d.fmts m 0 = 0)

/-- R80, R372, R373, R375, R380, R368, R388: a core's task retires; the scan places the head of the one queue, also by its age; a firing
is placed; an entry that has waited for room is admitted, behind those of an earlier time or lower source (log entry 127). placed says what
a gang with the next number looks like, and that every core of it starts its task, under the ASID that the partition's last TABLE_ROOT
named (log entry 6). -/
def Obligations.TasksPlaced : Prop :=
  (∀ (s : State) (core : Nat) (k : Task) (p : Partition) (g : Gang), taskOf s core = some k → partOf s k.part = some p →
    gangOf s k.gang = some g → core ∈ g.cores →
    let c := coreOf s core
    (c.ctxL.ended = true ∧ c.ctxC.ended = true ∧ c.ctxS.ended = true ∧ (∀ d ∈ s.cmds, d.core ≠ core) ∧
      (∀ a ∈ s.acc, a.core ≠ core) ∧ g.saved = false → k.kind = 0 → k.fenced = false → p.invals = [] → g.kind = 0 → g.firing = none →
      g.securing = false → gridOf p g.grid = none →
      ∃ t, exec (.taskRetire core) s = .next t ∧ { t with cores := s.cores, gangs := s.gangs, parts := s.parts } = s ∧
        (∀ n, partOf t n = partOf s n) ∧ OnlyCore s t core ∧ taskOf t core = none ∧ (coreOf t core).vec.ports = [] ∧
        (∀ i, ((coreOf t core).ctx i).fifoL = [] ∧ ((coreOf t core).ctx i).fifoR = []) ∧
        (∀ a, memByte (coreOf t core).sp a = memByte c.sp a) ∧
        if ∃ n ∈ g.cores, n ≠ core ∧ taskOf s n ≠ none then t.gangs = s.gangs
        else gangOf t k.gang = none ∧ ∀ n, n ≠ k.gang → gangOf t n = gangOf s n) ∧
    (c.ctxL.ended = false ∨ c.ctxC.ended = false ∨ c.ctxS.ended = false ∨ (∃ d ∈ s.cmds, d.core = core) ∨
      (∃ a ∈ s.acc, a.core = core) ∨ g.saved = true → exec (.taskRetire core) s = .next s)) ∧
  (∀ (s : State) (part : Nat) (p : Partition) (r : List Byte) (l : List RangeEntry) (cores : List Nat) (priv : Bool)
      (grid gid count pos : Nat) (firing : Option (Nat × Nat)) (kind : Nat),
    partOf s part = some p → cores.Nodup → kgetD p.ctl 0 0#64 = 0#64 → p.rootDue = false → p.wrefs = [] →
    let x : Placing := ⟨r, l, cores, priv, grid, gid, count, pos, firing, false, kind⟩
    let placed (t : State) : Prop :=
      t.nextId = s.nextId + 1 ∧ SameBytes { s with cores := [] } { t with cores := [] } ∧
      (∀ n, n ∉ cores → coreOf t n = coreOf s n) ∧ (∀ n, n ≠ s.nextId → gangOf t n = gangOf s n) ∧
      (∃ g, gangOf t s.nextId = some g ∧ g.part = part ∧ g.asid = p.curAsid ∧ g.cores = cores ∧ g.record = r ∧ g.gid = gid ∧
        g.grid = grid ∧ g.budget = (leWord ((r.drop 0x30).take 8)).toNat % 2 ^ 32 ∧ g.placedAt = s.tsc ∧ g.saved = false ∧
        g.firing = firing ∧ g.kind = kind) ∧
      ∀ tid n, cores[tid]? = some n →
        taskOf t n = some (startTask x part p.curAsid (kgetD p.gens p.curAsid 0) s.nextId tid) ∧
        (coreOf t n).ctxL = startCtx r 0 ∧ (coreOf t n).ctxC = startCtx r 8 ∧ (coreOf t n).ctxS = startCtx r 0x10
    let fits (r : List Byte) : Prop :=
      checkRecord s part p r = .ok l ∧ aperturesMeet r = false ∧ fitCores s p (recCores r) = some cores
    (∀ (n hi ep : Nat) (e : Entry) (rest : List Entry) (w : Word) (idx : Nat), p.graphs = [] → p.boundary = false →
      p.queues = [(n, e :: rest)] → e.record = some r → e.priv = priv → e.kind = kind → pos = e.pos → firing = none →
      gridOf p e.grid = some ⟨grid, e, [], count, [⟨gid, hi, ep, none⟩], ep⟩ → fits r →
      (p.policy = [] → ∃ t, exec (.schedulerScan part) s = .next t ∧ placed t) ∧
      (p.policy = [(idx, w)] → idx < 16 → w.getLsbD 63 = true → w.toNat / 2 ^ 61 % 4 = e.kind →
        (w.getLsbD 60 = true ∨ w.toNat / 2 ^ 56 % 16 = e.sid) → w.toNat % 2 ^ 32 ≠ 0 → w.toNat % 2 ^ 32 ≤ s.tsc - e.at_ →
        ∃ t, exec (.policyAgePromotion part idx) s = .next t ∧ placed t)) ∧
    (∀ (slot i n : Nat) (g : GraphSlot) (e : Entry) (rest : List Nat), kget p.graphs slot = some g → g.period = some e →
      (upFrom 0 (firingsOf g.table).length).filter (firingFree g (firingsOf g.table)) = i :: rest →
      n = nth (firingsOf g.table) i → gid = ((upFrom 0 i).filter (fun j => nth (firingsOf g.table) j == n)).length →
      tagRecord s part p (nth g.nodes n) e.tag e.sid e.kind (nth g.q n - 1) gid = .ok r → fits r → priv = false →
      count = nth g.q n → pos = e.pos → firing = some (slot, i) → kind = e.kind → grid = 2 * s.nextId + 1 →
      ∃ t q, exec (.graphFiringPlacement part slot) s = .next t ∧ placed t ∧ partOf t part = some q ∧
        kget q.graphs slot = some { g with placed := g.placed ++ [i] })) ∧
  ∀ (s : State) (p : Partition) (e : Entry),
    sameR p e = false → (queueOf p e.sid e.kind).length < 256 → logRoom p = true →
    (∀ x, p.log.getLast? = some x → x.at_ = e.at_ → x.src ≤ e.src) →
    let e' : Entry := { e with pos := p.logNext, grid := 2 * p.logNext }
    let admitted (t : State) (part : Nat) : Prop := ∃ q, partOf t part = some q ∧ q.logNext = p.logNext + 1 ∧
      q.log = p.log ++ [⟨p.logNext, e.at_, e.src, some e', 0, 0⟩] ∧ queueOf q e.sid e.kind = insertEntry (queueOf p e.sid e.kind) e' ∧
      ∀ n, n ≠ part → partOf t n = partOf s n
    (∀ c, cmdOf s c.id = some c → partOf s c.part = some p → c.cls = .sched → c.phase = .waiting →
      e = recordEntry c.elem ((taskOf s c.core).any (fun k => k.priv)) s.tsc (2 ^ 14 * (c.core / 128) + c.core % 128) →
      ∃ t, exec (.arrivalAdmission (.post c.id)) s = .next t ∧ admitted t c.part ∧
        { t with cores := s.cores, cmds := s.cmds, parts := s.parts } = s ∧ cmdOf t c.id = none ∧ OnlyCmd s t c.id ∧
        Filled s t c.core c.ctx c.id 0#64 none) ∧
    ∀ fn part old, partOf s part = some p → (mailOf s fn).waiting = some (part, old) → e = { old with at_ := s.tsc } →
      ∃ t, exec (.arrivalAdmission (.launch fn)) s = .next t ∧ admitted t part ∧
        { t with mail := s.mail, msix := s.msix, parts := s.parts } = s ∧ Raises s t [(fn, 0)] ∧
        (mailOf t fn).waiting = none ∧ (mailOf t fn).status = 0#64 ∧ (mailOf t fn).command.getLsbD 63 = false ∧
        ∀ m, m ≠ fn → mailOf t m = mailOf s m

/-! Pre-emption, budgets and partition reset (R85, R187, R188, R389 to R392). -/

/-- R85, R186, R187, R188, R389, R390, R391, R392: a spent budget resets the partition; a preload is noted; the age of a head flags
the latest gang; a gang whose flag is due is stopped, and saved once it is quiet, its scratchpads in the save area; what a save holds
stays in place with its cores, which are kept for it (log entries 50 and 87; the OVERRUN record's context L of the gang's first core and
its tpc are log entry 48), so that a saved gang goes on with all of it, its constant
caches empty and its range tables loaded again; a gang whose ASID has been retired meanwhile runs again from its record. -/
def Obligations.Preemption : Prop :=
  ∀ (s : State) (n : Nat) (g : Gang) (p : Partition), gangOf s n = some g → partOf s g.part = some p →
    let others (t : State) : Prop := ∀ m, m ≠ n → gangOf t m = gangOf s m
    (g.saved = false → g.budget ≠ 0 → exec (.budgetExpiry n) s = .next s) ∧
    (g.saved = false → g.budget = 0 → ∃ t q, exec (.budgetExpiry n) s = .next t ∧ partOf t g.part = some q ∧
      q.replays = p.replays + 1 ∧ q.log = p.log ∧ q.policy = p.policy ∧ q.stage = p.stage ∧ q.ctl = p.ctl ∧ q.sync = p.sync ∧
      q.stash = [] ∧ q.lines = [] ∧ q.slots = [] ∧ q.names = [] ∧ (∀ x ∈ q.graphs, x.2.period = none) ∧
      (∀ m, m ≠ g.part → partOf t m = partOf s m) ∧ (∀ c ∈ t.cmds, c.part ≠ g.part) ∧ (∀ x ∈ t.gangs, x.2.part ≠ g.part) ∧
      (∀ k ∈ partCores p, taskOf t k = none) ∧
      (p.mcRing.isSome = true → [w64 s.tsc, w64 (0xC0 * 2 ^ 48 + 0xF10 * 2 ^ 32 + g.cores.headD 0x3FF * 2 ^ 16 : Nat),
        (ctxOf s (g.cores.headD 0) .L).tpc, w64 (g.part * 2 ^ 59 : Nat)] ∈ q.pendRecords) ∧
      (kgetD p.ctl 0 0#64 = 0#64 →
        (∀ k, k ∉ partCores p → coreOf t k = coreOf s k) ∧ ∀ a, memByte t.mem a = memByte s.mem a)) ∧
    (∀ x r, g.saved = false → gridOf p g.grid = some x → r ∈ x.ranges → r.owner = some n →
      ∃ t, exec (.preload n) s = .next t ∧ { t with gangs := s.gangs } = s ∧ gangOf t n = some { g with preloaded := true } ∧
        others t) ∧
    (∀ (idx q : Nat) (w : Word) (e : Entry) (rest : List Entry) (r : List Byte) (before after : List Nat) (cl : Nat),
      kwf s.gangs = true → p.queues = [(q, e :: rest)] → kgetD p.policy idx 0#64 = w → w.getLsbD 63 = true →
      w.toNat / 2 ^ 61 % 4 = e.kind → (w.getLsbD 60 = true ∨ w.toNat / 2 ^ 56 % 16 = e.sid) → w.toNat % 2 ^ 32 ≠ 0 →
      2 * (w.toNat % 2 ^ 32) ≤ s.tsc - e.at_ → e.record = some r → fitCores s p (recCores r) = none →
      p.clusters = before ++ cl :: after → (∀ x ∈ before, ∀ m h, gangOf s m = some h → h.part = g.part → clusterOf (h.cores.headD 0) ≠ x) →
      clusterOf (g.cores.headD 0) = cl → g.saved = false → g.flag = none →
      (∀ m h, m ≠ n → gangOf s m = some h → h.part = g.part → h.saved = false → clusterOf (h.cores.headD 0) = cl →
        h.placedAt < g.placedAt) →
      recCores r ≤ (freeCores s cl).length + g.cores.length →
      ∃ t, exec (.preemptAgeExpiry g.part idx) s = .next t ∧ { t with gangs := s.gangs } = s ∧
        gangOf t n = some { g with flag := some s.tsc } ∧ others t) ∧
    (∀ u, g.flag = some u → g.stopping = false → g.saved = false →
      (s.tsc < u + 20000 ∨ g.notices ≠ [] ∨ g.watch ≠ [] → exec (.preemptTimeout n) s = .next s) ∧
      (u + 20000 ≤ s.tsc → g.notices = [] → g.watch = [] →
        ((∃ a ∈ s.acc, a.core ∈ g.cores ∧ a.kind.writes = false) →
          ∃ t, exec (.preemptTimeout n) s = .next t ∧ { t with gangs := s.gangs } = s ∧
            gangOf t n = some { g with stopping := true } ∧ others t) ∧
        ((∀ a ∈ s.acc, a.core ∈ g.cores → a.kind.writes = true) → (∀ c ∈ s.cmds, c.gang ≠ n ∧ c.core ∉ g.cores) → p.invals = [] →
          ∃ t, exec (.preemptTimeout n) s = .next t ∧
            { t with gangs := s.gangs, mem := s.mem, poison := s.poison, bad := s.bad } = s ∧ others t ∧
            gangOf t n = some { g with stopping := true, saved := true, preloaded := false } ∧
            (p.saveAt = none → t.mem = s.mem ∧ t.poison = s.poison ∧ t.bad = s.bad) ∧
            ∀ a k, p.saveAt = some a → g.cores = [k] → k ∈ partCores p → (coreOf s k).sp.wf = true →
              (∀ b, 786432 ≤ b → memByte (coreOf s k).sp b = 0#8) →
              let area := a + 786432 * (partCores p).findIdx (fun x => x == k)
              (∀ x, x ∈ t.poison ↔ x ∈ s.poison ∧ ¬(area ≤ 32 * x ∧ 32 * x + 32 ≤ area + 786432)) ∧
              (∀ x, x ∈ t.bad ↔ x ∈ s.bad ∧ ¬(area ≤ 32 * x ∧ 32 * x + 32 ≤ area + 786432)) ∧
              ∀ b, memByte t.mem b =
                if area ≤ b ∧ b < area + 786432 then memByte (coreOf s k).sp (b - area) else memByte s.mem b))) ∧
    (g.saved = true → g.retired = false →
      ∃ t, exec (.gangResume n) s = .next t ∧ { t with cores := s.cores, gangs := s.gangs } = s ∧ others t ∧
        gangOf t n = some { g with saved := false, flag := none, stopping := false } ∧
        (∀ k, k ∉ g.cores → coreOf t k = coreOf s k) ∧
        ∀ k ∈ g.cores, (coreOf t k).consts = [] ∧
          { coreOf t k with consts := (coreOf s k).consts, task := taskOf s k } = coreOf s k ∧
          ∀ i, taskOf s k = some i → ∃ l, taskOf t k = some { i with ranges := l } ∧
            ∀ r, readRanges s i.part i.asid i.gen i.rset.toNat i.rcnt = some r → l = r) ∧
    (g.saved = true → g.retired = true → g.cores.Nodup → ∀ l, checkRecord s g.part p g.record = .ok l →
      ∃ t h, exec (.gangResume n) s = .next t ∧ others t ∧ gangOf t n = some h ∧ h.saved = false ∧ h.retired = false ∧
        h.cores = g.cores ∧ h.record = g.record ∧ h.gid = g.gid ∧ (∀ c ∈ t.cmds, c.gang ≠ n) ∧
        (∀ k, k ∉ g.cores → coreOf t k = coreOf s k) ∧
        ∀ k ∈ g.cores, (coreOf t k).ctxL = startCtx g.record 0 ∧ (coreOf t k).ctxC = startCtx g.record 8 ∧
          (coreOf t k).ctxS = startCtx g.record 0x10)

/-! Tradon links and messages of the Prism (R313, R318 to R325). -/

/-- R313, R328, R405, R415: a failed group is replayed and counted, by the port and by the health monitor; a port that has failed
eight replays goes down, and the command of a record on it faults with XE_LINK at that record's micro-operation; a port that is down
comes back at 8, 16 or 32 lanes, and the monitor counts that. -/
def Obligations.Links : Prop :=
  ∀ (s : State) (p : Nat), p < 8 →
    let src : Nat := 2 ^ 14 * (p / 2) + 0xA3 + p % 2
    let only (t : State) (v : Nat) : Prop := ∀ q, q < 8 → portState t q = if q = p then v else portState s q
    (portState s p ≠ 0 → ∃ t, exec (.tradonCrcReplay p) s = .next t ∧ { t with crc := s.crc, health := s.health } = s ∧
      Logged s t 2 src ∧ ∀ q, kgetD t.crc q 0 = if q = p then kgetD s.crc p 0 + 1 else kgetD s.crc q 0) ∧
    (portState s p ≠ 0 → kgetD s.crc p 0 < 8 → exec (.linkDown p) s = .next s) ∧
    (portState s p ≠ 0 → 8 ≤ kgetD s.crc p 0 → ∃ t, exec (.linkDown p) s = .next t ∧ only t 0 ∧ kgetD t.crc p 0 = 0 ∧
      (s.net = ⟨[], [], [], [], [], [], []⟩ → { t with units := s.units, crc := s.crc } = s) ∧
      ∀ (m : ChanRecord) (c : Cmd), s.net = ⟨[m], [], [], [], [], [], []⟩ → m.src = s.node → m.dst ≠ s.node → portTo s m.dst = p →
        cmdOf s m.cmd = some c → c.id = m.cmd → (ctxOf s c.core c.ctx).ended = false →
        t.net = ⟨[], [], [], [], [], [], []⟩ ∧
        (∀ x, kget s.sends m.schan = some x → kget t.sends m.schan = some { x with sof := m.off }) ∧
        cmdOf t c.id = some { c with upc := c.upc - 1, phase := .held, fault := 0xC04, back := if c.phase = .held then c.back else c.phase } ∧
        OnlyCmd s t c.id ∧
        ctxOf t c.core c.ctx = { ctxOf s c.core c.ctx with reports := (ctxOf s c.core c.ctx).reports ++
          [⟨true, c.disp, c.cls.code, c.tslot, c.creg, c.upc - 1, 0xC04, w64 src, c.id⟩] }) ∧
    ∀ n v, portState s p = 0 → (n = 8 ∧ v = 1 ∨ n = 16 ∧ v = 2 ∨ n = 32 ∧ v = 3) →
      ∃ t, exec (.linkRetrain p n) s = .next t ∧ { t with units := s.units, health := s.health } = s ∧ Logged s t 3 src ∧ only t v ∧
        { t.units with links := s.units.links } = s.units

/-- R313, R320 to R325: what a message does as it arrives at this device: a record at its ring, a window end at its sender, the close of
either side, each at the end of that receiver of that identity alone, a count row, an XA2A piece, a ring header or chunk. own says that this
device sent it to itself: it arrives once what its Prism sent before it has, and crosses no port. The others come over the port by which
their node's way here ends, which is up, and whose replays end (log entries 1, 19 and 20). The order of the device's own messages is log
entry 112, the early rows that the package shares are log entry 22, and a piece at a poisoned barrier counts nothing by log entry 101. -/
def Obligations.Messages : Prop :=
  ∀ (s : State), let node := s.node
  let comes (own : Bool) (src dst prism sent : Nat) : Prop :=
    dst = node ∧ (own = true ∧ pathHeld s prism dst sent = false ∨ own = false ∧ src ≠ node ∧ portState s (portFrom s src) ≠ 0)
  let port (t : State) (own : Bool) (src : Nat) : Prop := t.crc = if own = true then s.crc else kdel s.crc (portFrom s src)
  (∀ (m : ChanRecord) (r : RecvCh), let own := s.net.records.find? (fun x => x.schan == m.schan && x.dst == m.dst) == some m
    comes own m.src m.dst m.prism m.sent →
    kget s.recvs m.rchan = some r → identNo s r.part = m.ident → r.pnode = m.src → r.pchan = m.schan → r.rsz = m.rsz →
    m.data.length = m.rsz → (own = false → m.off = r.dlv) → coreSaved s r.core = false →
    let e : Entry := ⟨m.tag, r.bsid, m.kind, s.tsc, 2 ^ 14 * (r.core / 128) + 0xA2, none, false, 0, 0, false⟩
    (r.bq = true → ∃ p, partOf s r.part = some p ∧ sameR p e = false ∧ (queueOf p r.bsid m.kind).length < 256 ∧ logRoom p = true ∧
      ∀ x, p.log.getLast? = some x → x.at_ = s.tsc → x.src ≤ e.src) →
    ∃ t, exec (.channelRecordDelivery m) s = .next t ∧ port t own m.src ∧
      { t with cores := s.cores, recvs := s.recvs, net := s.net, crc := s.crc, parts := s.parts } = s ∧
      Wrote s t (.sp r.core (r.la + m.off % r.rlen)) m.data ∧
      kget t.recvs m.rchan = some { r with dlv := r.dlv + m.rsz } ∧ (∀ n, n ≠ m.rchan → kget t.recvs n = kget s.recvs n) ∧
      t.net = { s.net with records := if own = true then s.net.records.filter (fun x => x != m) else s.net.records } ∧
      (r.bq = false → t.parts = s.parts) ∧
      (r.bq = true → ∀ p, partOf s r.part = some p → ∃ q, partOf t r.part = some q ∧
        queueOf q r.bsid m.kind = insertEntry (queueOf p r.bsid m.kind) { e with pos := p.logNext, grid := 2 * p.logNext })) ∧
  (∀ (m : WindowEnd) (part : Nat), let own := s.net.ends.find? (fun x => x.rchan == m.rchan && x.dst == m.dst) == some m
    comes own m.src m.dst m.prism m.sent → partByIdent s m.ident = some part →
    ∃ t, exec (.windowEndArrival m) s = .next t ∧ port t own m.src ∧ { t with known := s.known, net := s.net, crc := s.crc } = s ∧
      t.net = { s.net with ends := if own = true then s.net.ends.erase m else s.net.ends } ∧
      (∃ again, endOf t.known m.schan m.ident m.src m.rchan = some ⟨m.schan, m.ident, m.src, m.rchan, m.wend, false, again⟩ ∧
        (again = true ↔ (∃ x, kget s.sends m.schan = some x ∧ identNo s x.part = m.ident ∧ x.pnode = m.src ∧ x.pchan = m.rchan) ∧
          ∃ k, endOf s.known m.schan m.ident m.src m.rchan = some k ∧ (k.closed = true ∨ k.again = true))) ∧
      ∀ a b c d, ¬(a = m.schan ∧ b = m.ident ∧ c = m.src ∧ d = m.rchan) → endOf t.known a b c d = endOf s.known a b c d) ∧
  (∀ (m : CloseNotice) (r : RecvCh), let own := s.net.closes.contains m
    comes own m.src m.dst m.prism m.sent →
    (∀ x ∈ s.net.records, ¬(x.src = m.src ∧ x.schan = m.schan ∧ x.dst = m.dst)) → kget s.recvs m.rchan = some r →
    identNo s r.part = m.ident → r.pnode = m.src → r.pchan = m.schan →
    ∃ t, exec (.closeNoticeArrival m) s = .next t ∧ port t own m.src ∧ { t with recvs := s.recvs, net := s.net, crc := s.crc } = s ∧
      t.net = { s.net with closes := if own = true then s.net.closes.erase m else s.net.closes } ∧
      kget t.recvs m.rchan = some { r with eos := some m.final } ∧ ∀ n, n ≠ m.rchan → kget t.recvs n = kget s.recvs n) ∧
  (∀ (m : ReceiverClose) (part : Nat), let own := s.net.rcloses.contains m
    comes own m.src m.dst m.prism m.sent →
    (∀ x ∈ s.net.ends, ¬(x.src = m.src ∧ x.rchan = m.rchan ∧ x.dst = m.dst)) → partByIdent s m.ident = some part →
    (∀ x ∈ s.net.records, ¬(x.ident = m.ident ∧ x.schan = m.schan ∧ x.dst = m.src ∧ x.rchan = m.rchan)) →
    ∃ t, exec (.receiverCloseArrival m) s = .next t ∧ port t own m.src ∧ { t with known := s.known, net := s.net, crc := s.crc } = s ∧
      t.net = { s.net with rcloses := if own = true then s.net.rcloses.erase m else s.net.rcloses } ∧
      endOf t.known m.schan m.ident m.src m.rchan = some { (endOf s.known m.schan m.ident m.src m.rchan).getD
        ⟨m.schan, m.ident, m.src, m.rchan, 0, true, false⟩ with closed := true } ∧
      ∀ a b c d, ¬(a = m.schan ∧ b = m.ident ∧ c = m.src ∧ d = m.rchan) → endOf t.known a b c d = endOf s.known a b c d) ∧
  (∀ (m : CountRow) (part : Nat), let own := s.net.rows.contains m
    comes own m.src m.dst m.prism m.sent → partByIdent s m.ident = some part →
    let early := (s.heldRows.filter (fun r => !rowAwaited s r)).length
    (rowAwaited s m = true ∨ early < 16384 →
      ∃ t, exec (.countRowArrival m) s = .next t ∧ port t own m.src ∧ { t with heldRows := s.heldRows, net := s.net, crc := s.crc } = s ∧
        t.net = { s.net with rows := if own = true then s.net.rows.erase m else s.net.rows } ∧ t.heldRows = s.heldRows ++ [m]) ∧
    (rowAwaited s m = false → 16384 ≤ early → exec (.countRowArrival m) s = .next s)) ∧
  (∀ (m : Piece) (part : Nat) (p : Partition), let own := s.net.pieces.contains m
    comes own m.src m.dst m.prism m.sent → partByIdent s m.ident = some part →
    partOf s part = some p → m.off + m.data.length ≤ 786432 → m.fail = false → (own = true → pieceHeld s m = false) →
    let b := barrierAt p m.bar
    let uncounted : Prop := isBarrier p m.bar = false ∨ b.pz = true ∨ m.bar ∈ p.syncPz ∨ m.bar + 8 ∈ p.syncPz
    uncounted ∨ (-2 ^ 31 ≤ b.b - m.data.length ∧ b.a ≠ 0 ∧
      ∀ w ∈ p.waiters, w.sem = true → w.addr ≠ m.bar ∧ w.addr ≠ m.bar + 8) →
    ∃ t, exec (.xa2aPieceArrival m) s = .next t ∧ port t own m.src ∧
      { t with cores := s.cores, parts := s.parts, resident := s.resident, cmds := s.cmds, net := s.net, crc := s.crc } = s ∧
      t.net = { s.net with pieces := if own = true then s.net.pieces.erase m else s.net.pieces } ∧
      Wrote s t (.sp m.core m.off) m.data ∧ (own = false → t.cmds = s.cmds) ∧
      (uncounted → t.parts = s.parts ∧ t.resident = s.resident) ∧
      (¬uncounted → ∃ q, partOf t part = some q ∧
        barrierAt q m.bar = { b with b := b.b - m.data.length } ∧ { q with sync := p.sync } = p)) ∧
  ∀ (m : RingMsg) (part : Nat), s.rg ≠ 0 → m.dst = s.q → s.net.rings.head? ≠ some m → portState s 6 ≠ 0 →
    partByIdent s m.ident = some part →
    let op := ringAt s m.ident m.gtag m.seq
    ∃ t, exec (.ringChunkArrival m) s = .next t ∧ { t with rings := s.rings, net := s.net, crc := s.crc } = s ∧
      t.crc = kdel s.crc 6 ∧
      (∀ a b c, ¬(a = m.ident ∧ b = m.gtag ∧ c = m.seq) → ringAt t a b c = ringAt s a b c) ∧
      match m.header with
      | some h => ringAt t m.ident m.gtag m.seq = { op with headers := kput op.headers h.member h } ∧
        t.net = { s.net with rings := if (s.q + 1) % s.rg = h.member then s.net.rings
          else s.net.rings ++ [{ m with dst := (s.q + 1) % s.rg, hops := m.hops + 1 }] }
      | none => t.net = s.net ∧ ringAt t m.ident m.gtag m.seq = { op with chunks := kput op.chunks m.chunk m.data }

/-! The memory-side engines' own events (R296, R341, R342, R359, R364). -/

/-- R296, R341, R342, R359, R364: a sync block becomes resident, and a failed fetch poisons its eight variables; a block of a cz page is
compressed, and expanded once its metadata entry is read (whether a fetch of it fails is a free value, log entry 103), and one without
metadata becomes poisoned (the metadata of a block is kept by partition and IPA, log entry 25); a child of a freed line is released, or
waits for a page with a notice of its own (whether it misses is a free value, log entry 126), and a child that cannot be read is not (log
entry 117); a partner's tree is stored, its lines where log entry 66 has them, and the mirror table takes its root. A full block of SRAM in
which every block waits stays (log entry 124). -/
def Obligations.MemoryUnits : Prop :=
  ∀ (s : State) (part : Nat) (p : Partition), partOf s part = some p →
    let others (t : State) : Prop := ∀ n, n ≠ part → partOf t n = partOf s n
    let logged (t : State) (src : Nat) (r : Rec32) : Prop :=
      Logged s t 1 src ∧ ∀ q, partOf t part = some q →
        q.pendRecords = if p.mcRing.isSome = true then insertRecord p.pendRecords r else p.pendRecords
    (∀ (die block : Nat) (bad : Bool), let a := die * 2 ^ 30 + block * 64
      let old := kgetD s.resident die []
      die < 4 → block < 2 ^ 22 → inSpace p a = true → (part, a / 64) ∉ old →
      ∃ t, exec (.syncBlockFetch part die block bad) s = .next t ∧ others t ∧
        (∀ n, n ≠ die → kgetD t.resident n [] = kgetD s.resident n []) ∧
        (old.length < 65536 → kgetD t.resident die [] = (part, a / 64) :: old) ∧
        (∀ l x, old = l ++ [x] → old.length = 65536 → old.Nodup → blockWaits s x = false →
          kgetD t.resident die [] = (part, a / 64) :: l) ∧
        if bad = true then { t with resident := s.resident, parts := s.parts, health := s.health } = s ∧
          logged t (2 ^ 14 * die + 0xA0) (recordWords s part (2 ^ 14 * die + 0xA0) 9 0 3 0x3FF (w64 (a : Nat)) 0) ∧
          ∃ q, partOf t part = some q ∧ { q with syncPz := p.syncPz, pendRecords := p.pendRecords } = p ∧
            ∀ y, y ∈ q.syncPz ↔ y ∈ p.syncPz ∨ ∃ i, i < 8 ∧ y = a + 8 * i
        else { t with resident := s.resident } = s) ∧
    (∀ (asid block : Nat) (l : Word) (big : Bool), walk s part asid (4096 * block) = .leaf l big → leafCz l = true →
      let at_ := leafLoc l big (4096 * block)
      (kget p.cz block = none → block ∉ p.czMissing → locError s at_ 4096 = none →
        let b := storeForm (16 * block) 1 4 0 (locBytes s at_ 4096)
        ∃ t, exec (.czBlockCompress part asid block) s = .next t ∧ { t with parts := s.parts, mdcache := s.mdcache } = s ∧ others t ∧
          partOf t part = some { p with cz := kput p.cz block b.md } ∧ b.md.v = true ∧ b.md.pz = false ∧ b.md.line = 16 * block) ∧
      (∀ m, kget p.cz block = some m → m.pz = false → block ∉ p.czMissing → p.updates = [] →
        let fetched := s.mdcache.contains ⟨walkDie s part (4096 * block), part, true, block, 0⟩
        ∃ t, exec (.czBlockExpand part asid block) s = .next t ∧ others t ∧
          { t with parts := s.parts, mdcache := s.mdcache } = { s with free := if fetched = true then s.free else s.free + 1 } ∧
          if fetched = true ∨ Config.poolFails s.free = false then partOf t part = some { p with cz := kdel p.cz block }
          else partOf t part = some { p with czMissing := insertNat p.czMissing block } ∧ t.mdcache = s.mdcache) ∧
      (block ∈ p.czMissing → p.updates = [] →
        ∃ t q, exec (.czBlockExpand part asid block) s = .next t ∧ { t with parts := s.parts, health := s.health } = s ∧ others t ∧
          logged t (srcOfLoc at_) (recordWords s part (srcOfLoc at_) 0xD03 0 3 0x3FF (w64 (4096 * block : Nat)) (4096 * block)) ∧
          partOf t part = some q ∧ { q with cz := p.cz, czMissing := p.czMissing, pendRecords := p.pendRecords } = p ∧
          kget q.cz block = some ⟨true, true, 0, 0, 0⟩ ∧ ∀ n, n ∈ q.czMissing ↔ n ∈ p.czMissing ∧ n ≠ block)) ∧
    (∀ (n : Nat) (e : NameEntry), n ∈ p.releases → nameAt p n = some e →
      let a := lineAddr p e.line
      let freed : Prop := e.count ≤ 1 ∧ n.testBit 2 = true
      ∃ t q, exec (.backgroundRelease part n) s = .next t ∧ others t ∧ partOf t part = some q ∧ t.free = s.free + 1 ∧
        match Config.storeMiss s.free with
        | some ipa =>
          { t with parts := s.parts, noticeNext := s.noticeNext, free := s.free } = s ∧ t.noticeNext = s.noticeNext + 1 ∧
          q = { p with
            releases := p.releases.erase n, relWaits := p.relWaits ++ [⟨s.noticeNext, n, ipa⟩]
            notices := p.notices ++ [⟨s.noticeNext, p.curAsid, kgetD p.gens p.curAsid 0, 0, 0x3FF, none, ipa, false, .held⟩]
            pendNotices := p.pendNotices ++ if p.noticeRing.isSome = true then
              [[w64 s.noticeNext, w64 (p.curAsid * 2 ^ 48 + kgetD p.gens p.curAsid 0 * 2 ^ 44 + 0x3FF * 2 ^ 32 : Nat), w64 (ipa : Nat),
                w64 s.tsc]] else [] }
        | none =>
          { t with parts := s.parts, health := s.health, free := s.free } = s ∧
          { q with names := p.names, releases := p.releases, pendRecords := p.pendRecords } = p ∧
          (freed → (∃ g ∈ s.bad, g ∈ granulesOf a 256) →
            logged t (srcMemory a) (recordWords s part (srcMemory a) 9 0 3 0x3FF (w64 (a : Nat)) 0)) ∧
          (¬freed ∨ (∀ g ∈ s.bad, g ∉ granulesOf a 256) → t.health = s.health ∧ q.pendRecords = p.pendRecords) ∧
          (∀ m, m ≠ n → nameAt q m = nameAt p m) ∧
          if e.count = 0xFFFFFFFF then nameAt q n = some e ∧ q.releases = p.releases.erase n
          else if 1 < e.count then nameAt q n = some { e with count := e.count - 1 } ∧ q.releases = p.releases.erase n
          else nameAt q n = none ∧ q.releases = p.releases.erase n ++
            if n.testBit 2 = true then
              (((List.range 16).filter (fun i => (locError s (.pa (a + 16 * i)) 16).isNone)).map (fun i =>
                leNat (memRead s.mem (a + 16 * i) 16))).filter (fun c => c != 0)
            else []) ∧
    ∀ m : MirrorMsg, partByIdent s m.ident = some part →
      (m.src = s.node ∨ m.src ∉ p.mirrors → exec (.mirrorTransferReceive m) s = .next s) ∧
      (m.src ≠ s.node → m.src ∈ p.mirrors → kget p.mirrorTab m.src = none → m.root ≠ 0 →
        let stored (t : State) (e : NameEntry) : Prop := others t ∧ ∃ q, partOf t part = some q ∧
          { q with names := p.names, mirrorTab := p.mirrorTab } = p ∧ nameAt q m.root = some e ∧
          kget q.mirrorTab m.src = some m.root ∧ (∀ n, n ≠ m.src → kget q.mirrorTab n = kget p.mirrorTab n) ∧
          ∀ n, n ≠ m.root → nameAt q n = nameAt p n
        (∀ e, m.lines = [] → nameAt p m.root = some e →
          (m.link = false → exec (.mirrorTransferReceive m) s = .next s) ∧
          (m.link = true → ∃ t, exec (.mirrorTransferReceive m) s = .next t ∧ { t with parts := s.parts } = s ∧
            stored t { e with count := if e.count = 0xFFFFFFFF then e.count else e.count + 1 })) ∧
        ∀ row l, m.lines = [(false, row, m.root)] → row.length = 256 → nameRow p false row = some m.root → nameAt p m.root = none →
          (p.names.filter (fun e => nameSlice s e.name == nameSlice s m.root)).length < p.nameCap → freeLine p = some l →
          (m.link = true → ∃ t, exec (.mirrorTransferReceive m) s = .next t ∧
            { t with parts := s.parts, mem := s.mem, poison := s.poison, bad := s.bad } = s ∧
            Wrote s t (.pa (lineAddr p l)) row ∧ stored t ⟨m.root, l, 1⟩) ∧
          (m.link = false → ∃ t q, exec (.mirrorTransferReceive m) s = .next t ∧ partOf t part = some q ∧
            (∀ n, nameAt q n = nameAt p n) ∧ q.mirrorTab = p.mirrorTab))

/-! The module: throttle, health and bring-up; the host's accesses over CXL.mem (R28, R154, R408, R410 to R417). -/

/-- R28, R408, R412, R415, R416: the throttle engages at 105 °C and releases when every die is below 95 °C, and each is logged and raises
vector 3; once in 1 ms the monitor sets the risk from its counts of the last second (corrected errors, input 0, are a free value, log entry
102), which arms the securing of a partition again or takes it back; a power-on reset checks the stored image and leaves host memory as it
is; the CXL link comes up. -/
def Obligations.ModuleEvents : Prop :=
  ∀ (s : State),
    let told : List (Nat × Nat) := ((s.vfs.filter (fun b => b.2.control)).map (fun b => (b.1 + 1, 3))).reverse ++ [(0, 3)]
    (∀ die temp, die < 4 → s.throttled = false → s.temps.length = 4 →
      (840 ≤ temp → ∃ t, exec (.throttleEngage die temp) s = .next t ∧
        { t with health := s.health, msix := s.msix } =
          { s with temps := s.temps.set die temp, throttled := true, throttles := s.throttles + 1 } ∧
        Logged s t 4 0xC2 ∧ Raises s t told) ∧
      (temp < 840 → exec (.throttleEngage die temp) s = .next { s with temps := s.temps.set die temp })) ∧
    (∀ temps : List Nat, temps.length = 4 → s.throttled = true →
      ((∀ x ∈ temps, x < 760) → ∃ t, exec (.throttleRelease temps) s = .next t ∧
        { t with health := s.health, msix := s.msix } = { s with temps := temps, throttled := false } ∧
        Logged s t 6 0xC2 ∧ Raises s t told) ∧
      ((∃ x ∈ temps, 760 ≤ x) → exec (.throttleRelease temps) s = .next s)) ∧
    (s.tsc < s.riskAt + 1000000 → exec .riskUpdate s = .next s) ∧
    (s.riskAt + 1000000 ≤ s.tsc →
      ∃ t w u, exec .riskUpdate s = .next t ∧
        { t with health := s.health, risk := s.risk, riskAt := s.riskAt, parts := s.parts } = s ∧ t.riskAt = s.tsc ∧
        (if ∃ x ∈ s.temps, 760 ≤ x then Logged s u 5 0xC2 else u.health = s.health) ∧
        t.health = u.health.filter (fun h => decide (s.tsc < h.at_ + 1000000000)) ∧
        let count (i : Nat) : Nat := if i = 0 then Config.corrected s.tsc else (t.health.filter (fun h => h.input == i)).length
        t.risk = min 255 (w / 16) ∧
        (∀ i, i < 6 → nth s.weights i * count i ≤ w) ∧ (w = 0 ∨ ∃ i, i < 6 ∧ w = nth s.weights i * count i) ∧
        ∀ n, partOf t n = (partOf s n).map (fun p =>
          let c : Word := kgetD p.ctl 1 0#64
          { p with secured := p.secured && decide (c.toNat % 256 ≤ t.risk)
                   boundary := p.boundary && c.getLsbD 8 && decide (c.toNat % 256 ≤ t.risk) && !p.secured })) ∧
    (∀ found : BringUp, ∃ t, exec (.powerOnReset found) s = .next t ∧
      { t with mem := [], temps := State.reset.temps, partners := [], agenda := [], pace := State.reset.pace, free := State.reset.free, stored := [],
               running := [], found := State.reset.found, boot := .cold, units := State.reset.units } =
        { State.reset with boot := .cold, partners := [], agenda := [], mem := [], stored := [], running := [] } ∧
      (∀ a, memByte t.mem a = if 2 ^ 47 ≤ a then memByte s.mem a else 0#8) ∧ t.stored = s.stored ∧ t.running = s.stored ∧
      t.temps = s.temps ∧ t.found = found ∧
      if imageOk s.stored = true then t.units = ⟨found.cores, found.slices, found.hbm, found.links⟩ ∧
        t.boot = (if found.single = true then .linkDown else .recovery)
      else t.boot = .recovery) ∧
    (s.boot = .linkDown → exec .cxlLinkUp s = .next { s with boot := .waiting })

/-- R154, R172, R175, R410, R415, R417: a host read returns the host's own copy of the line, or the line at its home, or an error, with
the record that a consumption of it leaves, or with the reset of its partition where the page's policy returns the fault to the scheduler
(no context has consumed it: log entry 118); a host write writes its bytes there, marks its granules where it carries poison, which the
monitor counts, and never reaches a named line; a line that the host gives up ends the waits for it. -/
def Obligations.HostMemory : Prop :=
  (∀ (s : State) (part a : Nat) (keep : Bool) (p : Partition), partOf s part = some p →
    let base := a / 64 * 64
    let inside := p.winBase ≤ base ∧ base + 64 ≤ p.winBase + p.winSize
    let line (ipa : Nat) : Nat := part * 2 ^ 46 + ipa / 64
    let records (src code ipa : Nat) : Prop :=
      ∃ t q, exec (.hostMemRead part a keep) s = .next t ∧ t.hostData = none ∧ Logged s t 1 src ∧
        { t with hostData := s.hostData, parts := s.parts, health := s.health } = s ∧ partOf t part = some q ∧
        (p.mcRing.isSome = true → recordWords s part src code 0 3 0x3FF (w64 (base : Nat)) ipa ∈ q.pendRecords)
    (¬inside → exec (.hostMemRead part a keep) s = .next s) ∧
    (∀ d, inside → kget s.hostLines (line (base - p.winBase)) = some d →
      exec (.hostMemRead part a keep) s = .next { s with hostData := some d }) ∧
    let used (t : State) : State := { t with tcache := s.tcache, wcache := s.wcache, l2 := s.l2 }
    (inside → kget s.hostLines (line (base - p.winBase)) = none →
      (∀ ipa l, hostAns s part base 64 false = .ok ipa l →
        ∃ t, exec (.hostMemRead part a keep) s = .next t ∧ { used t with hostData := s.hostData, hostLines := s.hostLines } = s ∧
          t.hostData = some (locBytes s l 64) ∧
          ∀ n, kget t.hostLines n = if keep = true ∧ n = line ipa then some (locBytes s l 64) else kget s.hostLines n) ∧
      (hostAns s part base 64 false = .poisoned → exec (.hostMemRead part a keep) s = .next { s with hostData := none }) ∧
      (hostAns s part base 64 false = .wait → exec (.hostMemRead part a keep) s = .next s) ∧
      (∀ ipa q leaf, hostAns s part base 64 false = .error ipa 8 (.pa q) leaf →
        (leafPpol leaf = 1 → records (srcMemory q) 8 ipa) ∧
        (leafPpol leaf = 2 → exec (.hostMemRead part a keep) s =
          .next (resetPartition { s with hostData := none } part 8 3 0x3FF (w64 (base : Nat)))) ∧
        (leafPpol leaf ≠ 1 → leafPpol leaf ≠ 2 → exec (.hostMemRead part a keep) s = .next { s with hostData := none })) ∧
      (∀ ipa q leaf, hostAns s part base 64 false = .error ipa 9 (.pa q) leaf → records (srcMemory q) 9 ipa) ∧
      (∀ ipa l, hostAns s part base 64 false = .named ipa l → records (srcOfLoc l) 0xC ipa))) ∧
  (∀ (s : State) (part a ipa pa : Nat) (data : List Byte), data ≠ [] → a % 64 + data.length ≤ 64 →
    hostAns s part a data.length true = .ok ipa (.pa pa) →
    (∃ t, exec (.hostMemWrite part a data true) s = .next t ∧
      { t with poison := s.poison, health := s.health, hostLines := s.hostLines } = s ∧ Logged s t 1 (srcMemory pa) ∧
      (∀ n, kget t.hostLines n = if n = part * 2 ^ 46 + ipa / 64 then none else kget s.hostLines n) ∧
      ∀ g, g ∈ t.poison ↔ g ∈ s.poison ∨ pa / 32 ≤ g ∧ g ≤ (pa + data.length - 1) / 32) ∧
    (writeDropped s (.pa pa) data.length = false → ∃ t, exec (.hostMemWrite part a data false) s = .next t ∧
      { t with mem := s.mem, poison := s.poison, bad := s.bad, hostLines := s.hostLines, tcache := s.tcache, wcache := s.wcache,
               l2 := s.l2 } = s ∧ Wrote s t (.pa pa) data ∧
      ∀ n, kget t.hostLines n = (kget s.hostLines n).map (fun d =>
        if n = part * 2 ^ 46 + ipa / 64 then d.take (ipa % 64) ++ data ++ d.drop (ipa % 64 + data.length) else d))) ∧
  ∀ (s : State) (line : Nat), ∃ t, exec (.backInvalidationComplete line) s = .next t ∧
    { t with hostLines := s.hostLines, backInv := s.backInv } = s ∧
    (∀ n, kget t.hostLines n = if n = line then none else kget s.hostLines n) ∧
    ∀ x, x ∈ t.backInv ↔ x ∈ s.backInv ∧ ∃ n ∈ hostLinesOf x.part x.dest x.size, kget t.hostLines n ≠ none

/-! The mailboxes (R400 to R406, R412 to R416). -/

/-- R400 to R404, R406: a write of a function's registers; who may send what, and that a command waits for those for its partition whose
doorbell came first (logCap of key 4 is log entry 84); how partitions are made, reset (the PART_RESET record's context 3, core 0x3FF and
address 0 are log entry 48), bound and destroyed, which ends the LAUNCHes that wait for the partition (log entry 128); and the keys of
PART_CONFIG, of which 1, 4, 6, 8 and 10 are given whole. -/
def Obligations.PartitionCommands : Prop :=
  ∀ (s : State),
    (∀ (fn : Nat) (v : Word), fn ≤ 1024 → s.boot = .ready →
      ((mailOf s fn).command.getLsbD 63 = true → exec (.registerWrite fn 0 v) s = .next s) ∧
      ((mailOf s fn).command.getLsbD 63 = false →
        (v.getLsbD 63 = false ∨ (v.toNat / 2 ^ 48 % 2 ^ 15 = 0 ∧ v.toNat / 2 ^ 13 % 2 ^ 19 = 0 ∧ v.toNat % 2 ^ 13 ≤ 4096 ∧ 1 ≤ v.toNat / 2 ^ 32 % 2 ^ 16 ∧
            v.toNat / 2 ^ 32 % 2 ^ 16 ≤ 0x13) →
          ∃ t, exec (.registerWrite fn 0 v) s = .next t ∧ { t with mail := s.mail, nextId := s.nextId } = s ∧ t.nextId = s.nextId + 1 ∧
            mailOf t fn = { mailOf s fn with command := v, bell := s.nextId } ∧ ∀ n, n ≠ fn → mailOf t n = mailOf s n) ∧
        (v.getLsbD 63 = true → v.toNat / 2 ^ 48 % 2 ^ 15 ≠ 0 ∨ v.toNat / 2 ^ 13 % 2 ^ 19 ≠ 0 ∨ 4096 < v.toNat % 2 ^ 13 ∨
            v.toNat / 2 ^ 32 % 2 ^ 16 = 0 ∨ 0x13 < v.toNat / 2 ^ 32 % 2 ^ 16 →
          ∃ t, exec (.registerWrite fn 0 v) s = .next t ∧ { t with mail := s.mail, msix := s.msix, nextId := s.nextId } = s ∧
            t.nextId = s.nextId + 1 ∧ Raises s t [(fn, 0)] ∧ (mailOf t fn).status.toNat = 0x1081 * 2 ^ 48 ∧
            (mailOf t fn).command.getLsbD 63 = false)) ∧
      ∀ o, o < 512 → ∃ t, exec (.registerWrite fn (0x1000 + 8 * o) v) s = .next t ∧ { t with mail := s.mail } = s ∧
        { mailOf t fn with payload := (mailOf s fn).payload } = mailOf s fn ∧ (∀ n, n ≠ fn → mailOf t n = mailOf s n) ∧
        ∀ a, memByte (mailOf t fn).payload a =
          if 8 * o ≤ a ∧ a < 8 * o + 8 then (natBytes v.toNat 8).getD (a - 8 * o) 0#8 else memByte (mailOf s fn).payload a) ∧
    (∀ (fn off : Nat) (v : Word), fn ≤ 1024 → s.boot = .ready → off % 8 = 0 → off ≠ 0 → (off < 0x1000 ∨ 0x2000 ≤ off) →
      ∃ t, exec (.registerWrite fn off v) s = .next t ∧ { t with masked := s.masked } = s ∧
        ∀ m, m ∈ t.masked ↔ if off ≠ 8 ∧ m.1 = fn ∧ m.2 < 4 ∧ (Config.maskWrite off v m.2).isSome = true then
            Config.maskWrite off v m.2 = some true else m ∈ s.masked) ∧
    (∀ (fn m : Nat) (b c : Binding), m ≠ fn → Holds s fn 7 → Holds s m 7 → bindingOf s fn = some b → bindingOf s m = some c →
      c.part = b.part → (mailOf s m).bell < (mailOf s fn).bell → ¬InTurn s fn) ∧
    (∀ fn : Nat, ¬InTurn s fn → ∀ i : Instr, i ∈ [.getInfo fn, .partCreate fn, .partDestroy fn, .partReset fn, .vfBind fn, .partConfig fn,
      .launch fn, .faultAnswer fn, .invalidate fn, .asidRetire fn, .flush fn, .tableRoot fn, .domainSet fn, .mirrorEnable fn, .preempt fn,
      .attest fn, .pushImage fn, .hmWeights fn, .sensors fn] → exec i s = .next s) ∧
    (Sent s 0 2 → s.boot = .ready →
      let part := payload s 0 0
      let cls := (upFrom 0 64).filter (fun c => (payload s 0 8).testBit c)
      part < 32 → partOf s part = none → cls ≠ [] →
      (∀ c ∈ cls, clusterEnabled s c = true ∧ ∀ x ∈ s.parts, c ∉ x.2.clusters) →
      ∃ t u, exec (.partCreate 0) s = .next t ∧ Ends s t u 0 0 none ∧ { u with parts := s.parts, cores := s.cores } = s ∧
        partOf u part = some (Partition.fresh cls) ∧ (∀ n, n ≠ part → partOf u n = partOf s n) ∧
        ∀ n, coreOf u n = if ∃ c ∈ cls, 8 * c ≤ n ∧ n < 8 * c + 8 then { coreOf s n with sp := [], spBad := [] } else coreOf s n) ∧
    (Sent s 0 3 → s.boot = .ready → ∀ p fn e, partOf s (payload s 0 0) = some p → fn ≠ 0 → kwf s.mail = true →
      (mailOf s fn).waiting = some (payload s 0 0, e) → ∃ t, exec (.partDestroy 0) s = .next t ∧
        (mailOf t fn).waiting = none ∧ (mailOf t fn).command.getLsbD 63 = false ∧ (mailOf t fn).status.toNat = 0x1081 * 2 ^ 48) ∧
    (Sent s 0 3 → s.boot = .ready → ∀ p, partOf s (payload s 0 0) = some p →
      (∀ x ∈ s.mail, ∀ w, x.2.waiting = some w → w.1 ≠ payload s 0 0) →
      ∃ t u, exec (.partDestroy 0) s = .next t ∧ Ends s t u 0 0 none ∧ partOf u (payload s 0 0) = none ∧
        (∀ n, n ≠ payload s 0 0 → partOf u n = partOf s n) ∧ (∀ b ∈ u.vfs, b.2.part ≠ payload s 0 0) ∧
        (∀ g ∈ u.gangs, g.2.part ≠ payload s 0 0) ∧ (∀ k ∈ partCores p, taskOf u k = none) ∧
        (p.mcRing ≠ none → (0, 2) ∉ s.masked → (0, 2) ∈ u.msix) ∧
        (kgetD p.ctl 0 0#64 = 0#64 → ∀ k, k ∉ partCores p → coreOf u k = coreOf s k)) ∧
    (∀ (fn : Nat) (b : Binding) (p : Partition), Sent s fn 4 → s.boot = .ready → bindingOf s fn = some b → partOf s b.part = some p →
      (b.control = true → ∃ t, exec (.partReset fn) s = .next t ∧ Ends s t (resetPartition s b.part 0x1001 3 0x3FF 0#64) fn 0 none) ∧
      (b.control = false → ∃ t, exec (.partReset fn) s = .next t ∧ Ends s t s fn 0x1082 none)) ∧
    (Sent s 0 5 → s.boot = .ready →
      let d := payload s 0 0
      let vf := d % 1024
      let part := d / 2 ^ 16 % 32
      let control := (d / 2 ^ 15 % 2 == 1)
      let busy : Prop := ∃ b, kget s.vfs vf = some b ∧ b.control = true ∧ partBusy s b.part = true
      (d / 2 ^ 31 % 2 = 1 → kget s.vfs vf ≠ none → ¬busy →
        ∃ t, exec (.vfBind 0) s = .next t ∧ Ends s t { s with vfs := kdel s.vfs vf } 0 0 none) ∧
      (d / 2 ^ 31 % 2 = 0 → partOf s part ≠ none → ¬busy →
        (control = false → ∃ t, exec (.vfBind 0) s = .next t ∧ Ends s t { s with vfs := kput s.vfs vf ⟨part, false⟩ } 0 0 none) ∧
        (control = true → partBusy s part = false → (∀ b ∈ s.vfs, b.1 = vf ∨ b.2.part ≠ part ∨ b.2.control = false) →
          ∃ t, exec (.vfBind 0) s = .next t ∧ Ends s t { s with vfs := kput s.vfs vf ⟨part, true⟩ } 0 0 none))) ∧
    (Sent s 0 6 → s.boot = .ready → ∀ p, partOf s (payload s 0 0) = some p →
      let part := payload s 0 0
      let key := payload s 0 8
      let v (i : Nat) : Nat := payload s 0 (0x10 + 8 * i)
      let gives (u : State) : Prop := ∃ t, exec (.partConfig 0) s = .next t ∧ Ends s t u 0 0 none
      (key = 0 ∨ 10 < key → ∃ t, exec (.partConfig 0) s = .next t ∧ Ends s t s 0 0x1081 none) ∧
      (1 ≤ key → key ≤ 10 → key ≠ 8 → partBusy s part = true → ∃ t, exec (.partConfig 0) s = .next t ∧ Ends s t s 0 0x1083 none) ∧
      (key = 8 → if 10 ≤ v 0 ∧ v 0 ≤ 100000 then gives (modPart s part (fun p => { p with watchdog := v 0 }))
        else ∃ t, exec (.partConfig 0) s = .next t ∧ Ends s t s 0 0x1081 none) ∧
      (partBusy s part = false →
        (key = 1 → (∀ d, d < 4 → v (2 * d) % 2 ^ 16 = 0 ∧ v (2 * d) ≤ 2 ^ 28 ∧ (v (2 * d) = 0 ∨ hbmRange s d (v (2 * d + 1)) (v (2 * d)) = true)) →
          placesFree s part 1 (((upFrom 0 4).map (fun d => (v (2 * d + 1), v (2 * d)))).filter (fun a => a.2 != 0)) = true →
          ∃ u q, gives u ∧ partOf u part = some q ∧ q.syncSize = [v 0, v 2, v 4, v 6] ∧ ∀ a, rawSync q a = 0#64 ∧ isBarrier q a = false) ∧
        (key = 4 → v 1 ≠ 0 → deviceRange s (v 0) (v 1) = true → deviceRange s (v 2) 32 = true →
          placesFree s part 4 [(v 0, v 1), (v 2, 32)] = true →
          ∃ u q, gives u ∧ { u with parts := s.parts, mem := s.mem, poison := s.poison, bad := s.bad } = s ∧ partOf u part = some q ∧
            q.logCap = some (v 1 / 256) ∧ q.fenceAt = v 2 ∧ q.log = [] ∧ q.logNext = 0 ∧ q.fenceSeq = 0 ∧
            Wrote s u (.pa (v 2)) (natBytes 0 8 ++ natBytes s.tsc 8 ++ natBytes 0 16)) ∧
        (key = 6 → v 1 ≠ 0 → v 3 ≠ 0 → hostRange (v 0) (64 + 32 * v 1) = true → hostRange (v 2) (64 + 32 * v 3) = true →
          placesFree s part 6 [(v 0, 64 + 32 * v 1), (v 2, 64 + 32 * v 3)] = true →
          ∃ u q, gives u ∧ { u with parts := s.parts, mem := s.mem, poison := s.poison, bad := s.bad } = s ∧ partOf u part = some q ∧
            q.mcRing = some ⟨v 0, v 1⟩ ∧ q.noticeRing = some ⟨v 2, v 3⟩ ∧
            ∀ a, memByte u.mem a = if v 0 ≤ a ∧ a < v 0 + 64 ∨ v 2 ≤ a ∧ a < v 2 + 64 then 0#8 else memByte s.mem a) ∧
        (key = 10 → if v 0 < 2 ^ 16 ∧ ∀ o ∈ s.parts, o.1 = part ∨ o.2.dpart ≠ some (v 0)
          then gives (modPart s part (fun p => { p with dpart := some (v 0) }))
          else ∃ t, exec (.partConfig 0) s = .next t ∧ Ends s t s 0 0x1081 none)))

/-- R181, R184, R186, R312, R364, R368, R391, R403, R413 to R415: what each other command of the mailbox does: work, translation, the
domain, mirrors, health, information, attestation and images. At the end of bring-up tsc is set ahead by a free value (log entry 108).
TABLE_ROOT sets the ASID under which later tasks are placed (log entry 6). -/
def Obligations.DeviceCommands : Prop :=
  ∀ (s : State),
  let fits (fn op part : Nat) : Prop :=
    Sent s fn op ∧ s.boot = .ready ∧ ∃ b, bindingOf s fn = some b ∧ b.control = true ∧ b.part = part
  (∀ (fn part : Nat) (p : Partition) (r : List Byte) (l : List RangeEntry), fits fn 7 part → partOf s part = some p →
    128 ≤ (mailOf s fn).command.toNat % 2 ^ 13 → r = memRead (mailOf s fn).payload 0 128 →
    let e := recordEntry r true s.tsc 0xC2
    (p.logCap = none ∨ p.mcRing = none → ∃ t, exec (.launch fn) s = .next t ∧ Ends s t s fn 0x1085 none) ∧
    (takesWork p = true → checkRecord s part p r = .ok l →
      (mayEnter p e = true → ∃ t, exec (.launch fn) s = .next t ∧ Ends s t (modPart s part (fun p => admitEntry p e)) fn 0 none) ∧
      (mayEnter p e = false → ∃ t, exec (.launch fn) s = .next t ∧ { t with mail := s.mail } = s ∧
        mailOf t fn = { mailOf s fn with waiting := some (part, e) } ∧ ∀ n, n ≠ fn → mailOf t n = mailOf s n))) ∧
  (∀ (n : Nat) (g : Gang), Sent s 0 0xF → s.boot = .ready →
    s.gangs.find? (fun g => g.2.cores.contains (payload s 0 0)) = some (n, g) → gangOf s n = some g → g.flag = none → g.saved = false →
    ∃ t u, exec (.preempt 0) s = .next t ∧ Ends s t u 0 0 none ∧ { u with gangs := s.gangs } = s ∧
      gangOf u n = some { g with flag := some s.tsc } ∧ ∀ m, m ≠ n → gangOf u m = gangOf s m) ∧
  (Sent s 0 8 → s.boot = .ready →
    let num := payload s 0 0
    ((∀ x ∈ s.parts, ∀ n ∈ x.2.notices, n.num ≠ num) → ∃ t, exec (.faultAnswer 0) s = .next t ∧ Ends s t s 0 0x1085 none) ∧
    (∀ part p n r, s.parts = [(part, p)] → p.notices = [n] → n.num = num → n.whose = .held → p.updates = [] → p.relWaits = [r] →
      r.notice = num → ∃ t u q, exec (.faultAnswer 0) s = .next t ∧ Ends s t u 0 0 none ∧ partOf u part = some q ∧ q.relWaits = [] ∧
        (payload s 0 8 % 2 = 0 → q.releases = p.releases ++ [r.name] ∧ q.pendRecords = p.pendRecords) ∧
        (payload s 0 8 % 2 = 1 → q.releases = p.releases ∧ Logged s u 1 (srcSlice (nameSlice s r.name)) ∧
          (p.mcRing.isSome = true → q.pendRecords = insertRecord p.pendRecords
            (recordWords s part (srcSlice (nameSlice s r.name)) 0xE 0 3 0x3FF (w64 (r.ipa : Nat)) r.ipa)))) ∧
    ∀ part p n, s.parts = [(part, p)] → p.notices = [n] → n.num = num → n.whose = .held ∨ n.whose = .other → p.updates = [] →
      p.relWaits = [] →
      ∃ t u q, exec (.faultAnswer 0) s = .next t ∧ Ends s t u 0 0 none ∧
        { u with parts := s.parts, tcache := s.tcache, wcache := s.wcache, l2 := s.l2, gangs := s.gangs, acc := s.acc, cmds := s.cmds } = s ∧
        partOf u part = some q ∧ { q with notices := p.notices } = p ∧ q.notices = [] ∧
        (∀ m, gangOf u m = (gangOf s m).map (fun g =>
          if g.part = part then { g with notices := g.notices.filter (fun x => x != num) } else g)) ∧
        (∀ m, accOf u m = (accOf s m).map (fun a => if a.part = part ∧ a.notice = some num
          then { a with notice := none, denied := payload s 0 8 % 2 == 1 } else a)) ∧
        ∀ m, cmdOf u m = (cmdOf s m).map (fun c => if c.part = part ∧ c.notice = some num
          then { c with notice := none, denied := payload s 0 8 % 2 == 1 } else c)) ∧
  (∀ (fn part : Nat) (p : Partition), partOf s part = some p →
    let v (i : Nat) : Nat := payload s fn (8 * i)
    let gives (i : Instr) (u : State) : Prop := ∃ t, exec i s = .next t ∧ Ends s t u fn 0 none
    (fits fn 9 part → (∃ k ∈ partCores p, coreRuns s k = true) → p.invals = [] → v 0 ≤ 1 → (v 0 = 1 → v 1 < 2 ^ 16 ∧ v 2 ≤ v 3) →
      gives (.invalidate fn) (modPart { s with nextId := s.nextId + 1 } part (fun p => { p with invals :=
        [{ id := s.nextId, rset := if v 0 = 0 then some (v 1) else none, asid := if v 0 = 0 then 0 else v 1,
           gen := kgetD p.gens (if v 0 = 0 then 0 else v 1) 0, lo := if v 0 = 0 then 0 else v 2, hi := if v 0 = 0 then 0 else v 3,
           since := s.tsc, acks := (partCores p).filter (fun n => !coreRuns s n), watch := false }] }))) ∧
    (fits fn 0xA part →
      let asid := v 0 % 2 ^ 16
      let gen := kgetD p.gens asid 0
      let old (u : State) : Prop := ∀ n, gangOf u n = (gangOf s n).map (fun g =>
        { g with retired := g.retired || (g.part == part && g.asid == asid) })
      (gen < 15 → ∃ u, gives (.asidRetire fn) u ∧ { u with gangs := s.gangs } =
        modPart s part (fun p => { p with gens := kput p.gens asid (gen + 1) }) ∧ old u) ∧
      (gen = 15 → asid ∉ p.flushed → ∃ t, exec (.asidRetire fn) s = .next t ∧ Ends s t s fn 0x1085 none) ∧
      (gen = 15 → asid ∈ p.flushed → ∃ u q, gives (.asidRetire fn) u ∧ { u with parts := s.parts, gangs := s.gangs } = s ∧ old u ∧
        partOf u part = some q ∧ kgetD q.gens asid 0 = 0 ∧ asid ∉ q.flushed ∧ ∀ n, n ≠ asid → kgetD q.gens n 0 = kgetD p.gens n 0)) ∧
    (fits fn 0xB part → gives (.flush fn) (modPart { s with
        tcache := s.tcache.filter (fun e => e.part != part), wcache := s.wcache.filter (fun e => e.part != part) } part
      (fun p => { p with flushed := p.gens.map (fun g => g.1) }))) ∧
    (fits fn 0xC part → (v 1 % 4096 = 0 → populated s (v 1) = true →
        gives (.tableRoot fn) (modPart s part (fun p => { p with roots := kput p.roots (v 0 % 2 ^ 16) (v 1), curAsid := v 0 % 2 ^ 16 }))) ∧
      (v 1 % 4096 ≠ 0 ∨ populated s (v 1) = false → ∃ t, exec (.tableRoot fn) s = .next t ∧ Ends s t s fn 0x1081 none))) ∧
  (let v (i : Nat) : Nat := payload s 0 (8 * i)
    let ends (i : Instr) (u : State) (code : Nat) (reply : Option (List Byte)) : Prop := ∃ t, exec i s = .next t ∧ Ends s t u 0 code reply
    (Sent s 0 0xD → s.boot = .ready ∨ s.boot = .waiting →
      (2 ^ 15 ≤ v 0 → ends (.domainSet 0) s 0x1081 none) ∧
      (v 0 < 2 ^ 15 → (∀ i, i = 1 ∨ i = 2 ∨ i = 3 → 1 ≤ v i ∧ v i ≤ 32) → v 4 ≤ 255 → (v 4 ≠ 0 → v 5 < v 4) → v 6 < 2 ^ 16 →
        ends (.domainSet 0) { s with
          node := v 0, dims := (v 1, v 2, v 3), rg := v 4, q := v 5, feed := v 6, boot := .ready
          tsc := if s.boot = .ready then s.tsc else s.tsc + Config.domainLead s.tsc } 0 none)) ∧
    (Sent s 0 0xE → s.boot = .ready → ∀ p, partOf s (v 0) = some p → ∃ u q, ends (.mirrorEnable 0) u 0 none ∧
      { u with parts := s.parts } = s ∧ partOf u (v 0) = some q ∧ { q with mirrors := p.mirrors } = p ∧
      ∀ n, n ∈ q.mirrors ↔ if n = v 1 % 2 ^ 16 then v 1 / 2 ^ 16 % 2 = 1 else n ∈ p.mirrors) ∧
    (Sent s 0 0x12 → s.boot = .ready → (∀ i, i < 6 → v i ≤ 255) →
      ends (.hmWeights 0) { s with weights := [v 0, v 1, v 2, v 3, v 4, v 5] } 0 none) ∧
    (Sent s 0 0x13 → s.boot = .ready → ∀ a b c d, s.temps = [a, b, c, d] →
      ends (.sensors 0) s 0 (some (natBytes a 8 ++ natBytes b 8 ++ natBytes c 8 ++ natBytes d 8 ++
        natBytes (if s.throttled = true then 1 else 0) 8 ++ natBytes s.throttles 8))) ∧
    (Sent s 0 1 → s.boot ≠ .cold → ∃ t b, exec (.getInfo 0) s = .next t ∧ Ends s t s 0 0 (some b) ∧
      b.take 0x68 = natBytes s.units.cores.toNat 64 ++ natBytes s.units.slices.toNat 16 ++ natBytes s.units.hbm.toNat 16 ++
        natBytes s.units.links.toNat 8 ∧
      (b.drop 0x68).take 32 = natBytes (Config.imageVersion s.running) 8 ++ natBytes s.node 8 ++ natBytes s.rg 8 ++ natBytes s.q 8) ∧
    (Sent s 0 0x10 → s.boot ≠ .cold → ∃ t b, exec (.attest 0) s = .next t ∧ Ends s t s 0 0 (some b) ∧
      b.length = 0xA0 + 2420 ∧ b.take 0x20 = memRead (mailOf s 0).payload 0 32 ∧
      ((b.drop 0x40).take 8 = natBytes (Config.imageVersion s.running % 2 ^ 16 + s.node * 2 ^ 16 + s.feed * 2 ^ 32 + 0x1F * 2 ^ 48) 8) ∧
      ∀ i, i < 2420 → b.getD (0xA0 + i) 0#8 = Config.mldsaSign (sha3 (b.take 0xA0)) i) ∧
    (Sent s 0 0x11 → s.boot = .ready → ends (.pushImage 0) s 0x1084 none) ∧
    (Sent s 0 0x11 → s.boot = .recovery → 8 ≤ (mailOf s 0).command.toNat % 2 ^ 13 → v 0 % 2 ^ 32 = s.pushing.length →
      let image := s.pushing ++ memRead (mailOf s 0).payload 8 ((mailOf s 0).command.toNat % 2 ^ 13 - 8)
      (v 0 / 2 ^ 32 % 2 = 0 → ends (.pushImage 0) { s with pushing := image } 0 none) ∧
      (v 0 / 2 ^ 32 % 2 = 1 → if imageOk image = true then
          ends (.pushImage 0) { s with
            pushing := [], running := image, stored := if v 0 / 2 ^ 33 % 2 = 1 then image else s.stored
            units := ⟨s.found.cores, s.found.slices, s.found.hbm, s.found.links⟩
            boot := if s.found.single = true then .linkDown else .recovery } 0 none
        else ends (.pushImage 0) { s with pushing := [], running := image } 0x1086 none)))

/-! Encoding (R50 to R60). -/

/-- R50 to R60, R119, R124, R128, R132, R297, R314, R382: words whose encodings the spec writes out. The number is the op of the command
that a P-form word forms (R53). -/
def Obligations.SpecWordsDecode : Prop :=
  decodeWord 0 0x08C92401#32 = .ok (.cmppNe 1#3 9#6 0#6 false false) ∧
  decodeWord 0 0x05C32008#32 = .ok (.clz 3#6 8#6 true) ∧
  decodeWord 0 0x100701FF#32 = .ok (.addi 7#6 0#6 false (-1#9)) ∧
  decodeWord 0 0x11830C3F#32 = .ok (.srai 3#6 3#6 false 63#6) ∧
  decodeWord 0 0x2E7E7A20#32 = .ok (.st 3#2 3#4 60#6 61#6 false 32#8) ∧
  decodeWord 0 0x370003FE#32 = .ok (.j (-2#10)) ∧
  decodeWord 0 0x3A1C1002#32 = .ok (.loopS 7#6 1#6 false 2#10) ∧
  decodeWord 0 0x43440848#32 = .ok (.ldNatural 4#6 2#6 false 2#4 1#2) ∧
  decodeWord 0 0x40C00218#32 = .ok (.fence 8#16 .pkg) ∧
  decodeWord 0 0x41C20007#32 = .ok (.csrr 2#6 .lwb) ∧
  decodeWord 0 0x42C00C01#32 = .ok (.tplLd 0#6 3#6 false .cp) ∧
  decodeWord 0 0x51010300#32 = .ok (.wld 4#6 0#2 0x1030#16) ∧
  decodeWord 0 0x513ABCD8#32 = .ok (.wins 4#6 3#2 0xABCD#16) ∧
  decodeWord 0 0x8BE00928#32 = .ok (.vwalk 9#6 10#6) ∧
  decodeWord 1 0xA14F0003#32 = .ok (.cpyIn 5#6 15#6 3#16) ∧
  decodeWord 0 0xB18A5009#32 = .ok (.aadd .rlx .part 10#6 0#6 9#5) ∧
  decodeWord 1 0xC0BF1105#32 = .ok (.xsort 2#6 63#6 0x1105#16) ∧
  decodeWord 0 0xD00AA0A6#32 = .ok (.sst .rlx .part 20#6 5#6 6#5) ∧
  decodeWord 0 0xE42AC146#32 = .ok (.nget .acq .part 24#6 5#5 6#5) ∧
  decodeWord 0 0xF1CAA0A6#32 = .ok (.gbind .rel .part 20#6 5#6 6#5) ∧
  decodeWord 0 0xF40A0000#32 = .ok (.prack .part)

/-- R50 to R60: every well-formed word, with every value of its operands, decodes from its encoding. -/
def Obligations.DecodeEncode : Prop :=
  ∀ i : Instr, isWord i = true → wellFormed i = true → decodeWord (wordOp i) (encode i) = .ok i

/-- R50 to R60: whatever the decoder takes is a well-formed word, and its encoding is the word that was read, so that no bit of it
is passed over and no two words mean the same. -/
def Obligations.DecodeSound : Prop :=
  ∀ (op : Nat) (w : IWord) (i : Instr), decodeWord op w = .ok i → isWord i = true ∧ wellFormed i = true ∧ encode i = w

/-! The step. -/

/-- A step takes the first event of the agenda, or one of the module's own steps where the agenda is empty (log entry 1), and what it
does is what exec does; then the clock runs and pushes enter their FIFOs. -/
def Obligations.StepRunsAgenda : Prop :=
  ∀ (s : State),
    let after (t : State) : State := settle { advance t (t.pace.headD 1) with pace := t.pace.drop 1 }
    (∀ i rest t, s.agenda = i :: rest → exec i { s with agenda := rest } = .next t → step s = .next (after t)) ∧
    (s.agenda = [] → ∃ i t, (i ∈ moduleSteps s ∨ moduleSteps s = [] ∧ i = .packetIssue 0 .L) ∧
      exec i s = .next t ∧ step s = .next (after t))

/-- R11, R46 to R49, R64, R74 to R77, R81 to R83, R169: what the issue of a packet does. A context that is held (for hold + 1 cycles, log
entry 23), or whose gang is, or that has a FENCE to report (log entry 43), waits. A packet that cannot be fetched (a precise fault of the
packet, log entry 36), or fails its checks, traps, and its context leaves the queues in which it waited (log entry 41). One at its tick
waits for its gang, and one that its predicate squashes has no effect but on the loops, pc and the context's counts. Another waits for
its pops, its registers and FIFOs, room in its queues, and its turn in the cycle (log entry 82), before its faults are looked for (log
entry 39); then it traps with the first of its faults, or its words, as its bytes decode, act one after the other in
the frame of the packet, and it ends: its pushes are on their way, a CSRW of bsc has shifted the block (before the packet's boundary, log
entry 32), its loops and pc go on, and last come the effects of LastEffects. -/
def Obligations.PacketIssues : Prop :=
  ∀ (s : State) (core : Nat) (i : CtxId) (k : Task) (b : List Byte) (a0 a1 a2 : Instr),
    let c := ctxOf s core i
    let h := headOf (packetPart b 0)
    let issues (t : State) : Prop := exec (.packetIssue core i) s = .next t
    let traps (u : State) (code : Nat) (v : Word) : Prop := issues (raise (modCore u core (fun k => k.leaveWait i)) core i c.pc code v)
    let counted (x : Ctx) : Ctx :=
      { x with hold := h.hold + 1, seq := c.seq + 1, tickWait := false, ticks := c.ticks + if h.tick = true then 1 else 0 }
    (∀ (t : State) (f : Issue) (l : List (Side × Word)),
      let x := ctxOf t core i
      let y : Ctx := { x with outs := x.outs ++ l.map (fun e =>
        ⟨e.1, e.2, ownPending t core i, if i = .C then vectorPending t core else [], coveredAt t core i⟩) }
      let z := match f.bsc with
        | some v => y.shiftBlocks (v - x.bsc).toNat
        | none => y
      ∃ u, closePacket t core i h f l = lastEffects u core i f ∧ { u with cores := t.cores, issue := t.issue } = t ∧ u.issue = none ∧
        OnlyContext t u core i ∧ (x.seq = c.seq → x.ticks = c.ticks → ctxOf u core i = counted (z.flowOn f.pc f))) ∧
    (taskOf s core = some k → c.ended = false → c.stopped = false →
      (c.hold ≠ 0 ∨ c.images ≠ [] ∨ issueOpen s k = false ∨ fenceDue s core i = true → issues s) ∧
      (c.hold = 0 → c.images = [] → issueOpen s k = true → fenceDue s core i = false → c.inh = true ∨ c.reports = [] →
        let got := fetchUse s k c.pc
        let cached (t : State) : State := { t with tcache := s.tcache, wcache := s.wcache, l2 := s.l2 }
        cached got = s ∧
        (fetch s k core c.pc = .wait → issues s) ∧
        (∀ ipa bad, fetch s k core c.pc = .miss ipa bad →
          issues (raiseNotice s k.part k.asid k.gen 2 core (some k.gang) ipa bad (.fetch i))) ∧
        (∀ ipa q leaf, fetch s k core c.pc = .error 8 ipa q leaf → leafPpol leaf = 2 →
          issues (consume s k.part core 16 (some i) c.pc ipa 8 q leaf)) ∧
        (fetch s k core c.pc = .range → traps s 5 c.pc) ∧
        (∀ code ipa q leaf, fetch s k core c.pc = .error code ipa q leaf → code ≠ 8 ∨ leafPpol leaf ≠ 2 →
          traps (consume s k.part core 16 (some i) c.pc ipa code q leaf) code c.pc) ∧
        (fetch s k core c.pc = .bytes b →
          let check := decodeFault (coreOf s core) c k.priv i h (packetWords (coreOf s core) c b)
          (h.raw.toNat % 2 ^ 18 ≠ 0 → traps got 1 (h.raw.setWidth 64)) ∧
          (∀ code v, check = some (code, v) → traps got code v) ∧
          (check = none →
            let d : Ctx := { c with tickWait := c.tickWait || h.tick }
            let u : State := if h.tick = true then setCtx got core i d else got
            (h.tick = true → tickOpen s k core i c.ticks = false → issues u) ∧
            ((h.tick = true → tickOpen s k core i c.ticks = true) →
              (c.pred h.pred = h.sense → ∃ t, issues t ∧ cached { t with cores := s.cores, issue := s.issue } = s ∧ t.issue = none ∧
                OnlyContext s t core i ∧ ∀ f : Issue, f.next = none → f.pc = c.pc → ctxOf t core i = counted (c.flowOn c.pc f)) ∧
              (c.pred h.pred ≠ h.sense →
                (h.popl = true ∧ popReady c .left = false ∨ h.popr = true ∧ popReady c .right = false → issues u) ∧
                ((h.popl = true → popReady c .left = true) → (h.popr = true → popReady c .right = true) →
                  let snap := popAll h d
                  let l := packetWords (coreOf u core) snap b
                  let full := fullQueues u core i l
                  (packetReady u core i h snap l = false ∨ (∃ x ∈ l, needsMet snap (x.needs (coreOf u core) snap) = false) → issues u) ∧
                  (packetReady u core i h snap l = true →
                    (full ≠ [] → issues (waitFor u core i full)) ∧
                    (full = [] → slotPassed u core i l = true → issues u) ∧
                    (full = [] → slotPassed u core i l = false →
                      let f := frameOf u core i c.pc snap (instrsOf l)
                      let fault := (issueFault (coreOf u core) snap h l).or (packetFault f u l)
                      (∀ code v, fault = some (code, v) → traps u code v) ∧
                      (fault = none →
                        (∀ n a, (n, a) ∈ [(0, a0), (1, a1), (2, a2)] →
                          let w := packetPart b (n + 1)
                          decodeWord (formedOp (coreOf u core) snap w) w = .ok a) →
                        ∃ t0 t1 t2,
                          exec a0 (setFrame { setCtx (markSlot u core i l) core i snap with issue := some f } (fun g =>
                            { g with slot := 0 })) = .next t0 ∧
                          exec a1 (setFrame t0 (fun g => { g with slot := 1 })) = .next t1 ∧
                          exec a2 (setFrame t1 (fun g => { g with slot := 2 })) = .next t2 ∧
                          let g := t2.issue.getD f
                          issues (closePacket t2 core i h g (pushesOf h g))))))))))))

/-- No step stops the machine: the spec gives every instruction and event an effect, a fault that its context takes, or a wait. -/
def Obligations.NoStop : Prop := ∀ (i : Instr) (s : State), (∃ t, exec i s = .next t) ∧ ∃ t, step s = .next t

/-! Reset and memory. -/

/-- R22, R28, R400, R415, R416: the state after reset: tsc is 0, there are no partitions, tasks, commands or accesses, the throttle is
released, and every weight and the risk are 0. Every byte of memory reads as 0 with no marks, and is in canonical form: these are the
model's (log entry 2). -/
def Obligations.ResetValues : Prop :=
  let s := State.reset
  s.tsc = 0 ∧ s.parts = [] ∧ s.vfs = [] ∧ s.gangs = [] ∧ s.cmds = [] ∧ s.acc = [] ∧ s.throttled = false ∧ s.throttles = 0 ∧
  s.weights = [0, 0, 0, 0, 0, 0] ∧ s.risk = 0 ∧ (∀ n, taskOf s n = none) ∧ (∀ fn, (mailOf s fn).command.getLsbD 63 = false) ∧
  (∀ a, memByte s.mem a = 0#8) ∧ s.poison = [] ∧ s.bad = [] ∧ s.mem.wf = true

/-- Every step keeps memory, and the scratchpad of every core, in canonical form: addresses strictly rising, and no byte listed that
reads as 0 anyway (log entry 2). Memory keeps it whatever the scratchpads hold. -/
def Obligations.MemoryStaysCanonical : Prop :=
  (∀ (s t : State), s.mem.wf = true → step s = .next t → t.mem.wf = true) ∧
  (∀ (s t : State), s.memoryWf = true → step s = .next t → t.memoryWf = true ∧ ∀ n, (coreOf t n).sp.wf = true)
end

