-- ==== Sys2Proof/Laws/State.lean ====
section
/-! SUPPORT. What each update of the state leaves alone, one lemma for each field and update, and what it makes of the field
that it changes. -/

namespace Sys2Proof.Machine

/-! setCore. -/

@[simp] theorem setCore_tsc (s : State) (n : Nat) (k : Core) : (setCore s n k).tsc = s.tsc := rfl
@[simp] theorem setCore_half (s : State) (n : Nat) (k : Core) : (setCore s n k).half = s.half := rfl
@[simp] theorem setCore_gangs (s : State) (n : Nat) (k : Core) : (setCore s n k).gangs = s.gangs := rfl
@[simp] theorem setCore_cmds (s : State) (n : Nat) (k : Core) : (setCore s n k).cmds = s.cmds := rfl
@[simp] theorem setCore_acc (s : State) (n : Nat) (k : Core) : (setCore s n k).acc = s.acc := rfl
@[simp] theorem setCore_mem (s : State) (n : Nat) (k : Core) : (setCore s n k).mem = s.mem := rfl
@[simp] theorem setCore_poison (s : State) (n : Nat) (k : Core) : (setCore s n k).poison = s.poison := rfl
@[simp] theorem setCore_bad (s : State) (n : Nat) (k : Core) : (setCore s n k).bad = s.bad := rfl
@[simp] theorem setCore_tcache (s : State) (n : Nat) (k : Core) : (setCore s n k).tcache = s.tcache := rfl
@[simp] theorem setCore_wcache (s : State) (n : Nat) (k : Core) : (setCore s n k).wcache = s.wcache := rfl
@[simp] theorem setCore_l2 (s : State) (n : Nat) (k : Core) : (setCore s n k).l2 = s.l2 := rfl
@[simp] theorem setCore_mdcache (s : State) (n : Nat) (k : Core) : (setCore s n k).mdcache = s.mdcache := rfl
@[simp] theorem setCore_malformed (s : State) (n : Nat) (k : Core) : (setCore s n k).malformed = s.malformed := rfl
@[simp] theorem setCore_resident (s : State) (n : Nat) (k : Core) : (setCore s n k).resident = s.resident := rfl
@[simp] theorem setCore_parts (s : State) (n : Nat) (k : Core) : (setCore s n k).parts = s.parts := rfl
@[simp] theorem setCore_vfs (s : State) (n : Nat) (k : Core) : (setCore s n k).vfs = s.vfs := rfl
@[simp] theorem setCore_mail (s : State) (n : Nat) (k : Core) : (setCore s n k).mail = s.mail := rfl
@[simp] theorem setCore_msix (s : State) (n : Nat) (k : Core) : (setCore s n k).msix = s.msix := rfl
@[simp] theorem setCore_masked (s : State) (n : Nat) (k : Core) : (setCore s n k).masked = s.masked := rfl
@[simp] theorem setCore_noticeNext (s : State) (n : Nat) (k : Core) : (setCore s n k).noticeNext = s.noticeNext := rfl
@[simp] theorem setCore_boot (s : State) (n : Nat) (k : Core) : (setCore s n k).boot = s.boot := rfl
@[simp] theorem setCore_units (s : State) (n : Nat) (k : Core) : (setCore s n k).units = s.units := rfl
@[simp] theorem setCore_found (s : State) (n : Nat) (k : Core) : (setCore s n k).found = s.found := rfl
@[simp] theorem setCore_stored (s : State) (n : Nat) (k : Core) : (setCore s n k).stored = s.stored := rfl
@[simp] theorem setCore_running (s : State) (n : Nat) (k : Core) : (setCore s n k).running = s.running := rfl
@[simp] theorem setCore_pushing (s : State) (n : Nat) (k : Core) : (setCore s n k).pushing = s.pushing := rfl
@[simp] theorem setCore_node (s : State) (n : Nat) (k : Core) : (setCore s n k).node = s.node := rfl
@[simp] theorem setCore_rg (s : State) (n : Nat) (k : Core) : (setCore s n k).rg = s.rg := rfl
@[simp] theorem setCore_q (s : State) (n : Nat) (k : Core) : (setCore s n k).q = s.q := rfl
@[simp] theorem setCore_dims (s : State) (n : Nat) (k : Core) : (setCore s n k).dims = s.dims := rfl
@[simp] theorem setCore_feed (s : State) (n : Nat) (k : Core) : (setCore s n k).feed = s.feed := rfl
@[simp] theorem setCore_throttled (s : State) (n : Nat) (k : Core) : (setCore s n k).throttled = s.throttled := rfl
@[simp] theorem setCore_throttles (s : State) (n : Nat) (k : Core) : (setCore s n k).throttles = s.throttles := rfl
@[simp] theorem setCore_temps (s : State) (n : Nat) (k : Core) : (setCore s n k).temps = s.temps := rfl
@[simp] theorem setCore_health (s : State) (n : Nat) (k : Core) : (setCore s n k).health = s.health := rfl
@[simp] theorem setCore_weights (s : State) (n : Nat) (k : Core) : (setCore s n k).weights = s.weights := rfl
@[simp] theorem setCore_risk (s : State) (n : Nat) (k : Core) : (setCore s n k).risk = s.risk := rfl
@[simp] theorem setCore_riskAt (s : State) (n : Nat) (k : Core) : (setCore s n k).riskAt = s.riskAt := rfl
@[simp] theorem setCore_hostLines (s : State) (n : Nat) (k : Core) : (setCore s n k).hostLines = s.hostLines := rfl
@[simp] theorem setCore_backInv (s : State) (n : Nat) (k : Core) : (setCore s n k).backInv = s.backInv := rfl
@[simp] theorem setCore_hostData (s : State) (n : Nat) (k : Core) : (setCore s n k).hostData = s.hostData := rfl
@[simp] theorem setCore_sends (s : State) (n : Nat) (k : Core) : (setCore s n k).sends = s.sends := rfl
@[simp] theorem setCore_recvs (s : State) (n : Nat) (k : Core) : (setCore s n k).recvs = s.recvs := rfl
@[simp] theorem setCore_known (s : State) (n : Nat) (k : Core) : (setCore s n k).known = s.known := rfl
@[simp] theorem setCore_heldRows (s : State) (n : Nat) (k : Core) : (setCore s n k).heldRows = s.heldRows := rfl
@[simp] theorem setCore_rings (s : State) (n : Nat) (k : Core) : (setCore s n k).rings = s.rings := rfl
@[simp] theorem setCore_net (s : State) (n : Nat) (k : Core) : (setCore s n k).net = s.net := rfl
@[simp] theorem setCore_crc (s : State) (n : Nat) (k : Core) : (setCore s n k).crc = s.crc := rfl
@[simp] theorem setCore_partners (s : State) (n : Nat) (k : Core) : (setCore s n k).partners = s.partners := rfl
@[simp] theorem setCore_agenda (s : State) (n : Nat) (k : Core) : (setCore s n k).agenda = s.agenda := rfl
@[simp] theorem setCore_pace (s : State) (n : Nat) (k : Core) : (setCore s n k).pace = s.pace := rfl
@[simp] theorem setCore_issue (s : State) (n : Nat) (k : Core) : (setCore s n k).issue = s.issue := rfl
@[simp] theorem setCore_nextId (s : State) (n : Nat) (k : Core) : (setCore s n k).nextId = s.nextId := rfl
@[simp] theorem setCore_nearNext (s : State) (n : Nat) (k : Core) : (setCore s n k).nearNext = s.nearNext := rfl
@[simp] theorem setCore_free (s : State) (n : Nat) (k : Core) : (setCore s n k).free = s.free := rfl
theorem setCore_cores (s : State) (n : Nat) (k : Core) : (setCore s n k).cores = kput s.cores n k := rfl

/-! modCore. -/

@[simp] theorem modCore_tsc (s : State) (n : Nat) (g : Core → Core) : (modCore s n g).tsc = s.tsc := rfl
@[simp] theorem modCore_half (s : State) (n : Nat) (g : Core → Core) : (modCore s n g).half = s.half := rfl
@[simp] theorem modCore_gangs (s : State) (n : Nat) (g : Core → Core) : (modCore s n g).gangs = s.gangs := rfl
@[simp] theorem modCore_cmds (s : State) (n : Nat) (g : Core → Core) : (modCore s n g).cmds = s.cmds := rfl
@[simp] theorem modCore_acc (s : State) (n : Nat) (g : Core → Core) : (modCore s n g).acc = s.acc := rfl
@[simp] theorem modCore_mem (s : State) (n : Nat) (g : Core → Core) : (modCore s n g).mem = s.mem := rfl
@[simp] theorem modCore_poison (s : State) (n : Nat) (g : Core → Core) : (modCore s n g).poison = s.poison := rfl
@[simp] theorem modCore_bad (s : State) (n : Nat) (g : Core → Core) : (modCore s n g).bad = s.bad := rfl
@[simp] theorem modCore_tcache (s : State) (n : Nat) (g : Core → Core) : (modCore s n g).tcache = s.tcache := rfl
@[simp] theorem modCore_wcache (s : State) (n : Nat) (g : Core → Core) : (modCore s n g).wcache = s.wcache := rfl
@[simp] theorem modCore_l2 (s : State) (n : Nat) (g : Core → Core) : (modCore s n g).l2 = s.l2 := rfl
@[simp] theorem modCore_mdcache (s : State) (n : Nat) (g : Core → Core) : (modCore s n g).mdcache = s.mdcache := rfl
@[simp] theorem modCore_malformed (s : State) (n : Nat) (g : Core → Core) : (modCore s n g).malformed = s.malformed := rfl
@[simp] theorem modCore_resident (s : State) (n : Nat) (g : Core → Core) : (modCore s n g).resident = s.resident := rfl
@[simp] theorem modCore_parts (s : State) (n : Nat) (g : Core → Core) : (modCore s n g).parts = s.parts := rfl
@[simp] theorem modCore_vfs (s : State) (n : Nat) (g : Core → Core) : (modCore s n g).vfs = s.vfs := rfl
@[simp] theorem modCore_mail (s : State) (n : Nat) (g : Core → Core) : (modCore s n g).mail = s.mail := rfl
@[simp] theorem modCore_msix (s : State) (n : Nat) (g : Core → Core) : (modCore s n g).msix = s.msix := rfl
@[simp] theorem modCore_masked (s : State) (n : Nat) (g : Core → Core) : (modCore s n g).masked = s.masked := rfl
@[simp] theorem modCore_noticeNext (s : State) (n : Nat) (g : Core → Core) : (modCore s n g).noticeNext = s.noticeNext := rfl
@[simp] theorem modCore_boot (s : State) (n : Nat) (g : Core → Core) : (modCore s n g).boot = s.boot := rfl
@[simp] theorem modCore_units (s : State) (n : Nat) (g : Core → Core) : (modCore s n g).units = s.units := rfl
@[simp] theorem modCore_found (s : State) (n : Nat) (g : Core → Core) : (modCore s n g).found = s.found := rfl
@[simp] theorem modCore_stored (s : State) (n : Nat) (g : Core → Core) : (modCore s n g).stored = s.stored := rfl
@[simp] theorem modCore_running (s : State) (n : Nat) (g : Core → Core) : (modCore s n g).running = s.running := rfl
@[simp] theorem modCore_pushing (s : State) (n : Nat) (g : Core → Core) : (modCore s n g).pushing = s.pushing := rfl
@[simp] theorem modCore_node (s : State) (n : Nat) (g : Core → Core) : (modCore s n g).node = s.node := rfl
@[simp] theorem modCore_rg (s : State) (n : Nat) (g : Core → Core) : (modCore s n g).rg = s.rg := rfl
@[simp] theorem modCore_q (s : State) (n : Nat) (g : Core → Core) : (modCore s n g).q = s.q := rfl
@[simp] theorem modCore_dims (s : State) (n : Nat) (g : Core → Core) : (modCore s n g).dims = s.dims := rfl
@[simp] theorem modCore_feed (s : State) (n : Nat) (g : Core → Core) : (modCore s n g).feed = s.feed := rfl
@[simp] theorem modCore_throttled (s : State) (n : Nat) (g : Core → Core) : (modCore s n g).throttled = s.throttled := rfl
@[simp] theorem modCore_throttles (s : State) (n : Nat) (g : Core → Core) : (modCore s n g).throttles = s.throttles := rfl
@[simp] theorem modCore_temps (s : State) (n : Nat) (g : Core → Core) : (modCore s n g).temps = s.temps := rfl
@[simp] theorem modCore_health (s : State) (n : Nat) (g : Core → Core) : (modCore s n g).health = s.health := rfl
@[simp] theorem modCore_weights (s : State) (n : Nat) (g : Core → Core) : (modCore s n g).weights = s.weights := rfl
@[simp] theorem modCore_risk (s : State) (n : Nat) (g : Core → Core) : (modCore s n g).risk = s.risk := rfl
@[simp] theorem modCore_riskAt (s : State) (n : Nat) (g : Core → Core) : (modCore s n g).riskAt = s.riskAt := rfl
@[simp] theorem modCore_hostLines (s : State) (n : Nat) (g : Core → Core) : (modCore s n g).hostLines = s.hostLines := rfl
@[simp] theorem modCore_backInv (s : State) (n : Nat) (g : Core → Core) : (modCore s n g).backInv = s.backInv := rfl
@[simp] theorem modCore_hostData (s : State) (n : Nat) (g : Core → Core) : (modCore s n g).hostData = s.hostData := rfl
@[simp] theorem modCore_sends (s : State) (n : Nat) (g : Core → Core) : (modCore s n g).sends = s.sends := rfl
@[simp] theorem modCore_recvs (s : State) (n : Nat) (g : Core → Core) : (modCore s n g).recvs = s.recvs := rfl
@[simp] theorem modCore_known (s : State) (n : Nat) (g : Core → Core) : (modCore s n g).known = s.known := rfl
@[simp] theorem modCore_heldRows (s : State) (n : Nat) (g : Core → Core) : (modCore s n g).heldRows = s.heldRows := rfl
@[simp] theorem modCore_rings (s : State) (n : Nat) (g : Core → Core) : (modCore s n g).rings = s.rings := rfl
@[simp] theorem modCore_net (s : State) (n : Nat) (g : Core → Core) : (modCore s n g).net = s.net := rfl
@[simp] theorem modCore_crc (s : State) (n : Nat) (g : Core → Core) : (modCore s n g).crc = s.crc := rfl
@[simp] theorem modCore_partners (s : State) (n : Nat) (g : Core → Core) : (modCore s n g).partners = s.partners := rfl
@[simp] theorem modCore_agenda (s : State) (n : Nat) (g : Core → Core) : (modCore s n g).agenda = s.agenda := rfl
@[simp] theorem modCore_pace (s : State) (n : Nat) (g : Core → Core) : (modCore s n g).pace = s.pace := rfl
@[simp] theorem modCore_issue (s : State) (n : Nat) (g : Core → Core) : (modCore s n g).issue = s.issue := rfl
@[simp] theorem modCore_nextId (s : State) (n : Nat) (g : Core → Core) : (modCore s n g).nextId = s.nextId := rfl
@[simp] theorem modCore_nearNext (s : State) (n : Nat) (g : Core → Core) : (modCore s n g).nearNext = s.nearNext := rfl
@[simp] theorem modCore_free (s : State) (n : Nat) (g : Core → Core) : (modCore s n g).free = s.free := rfl
theorem modCore_cores (s : State) (n : Nat) (g : Core → Core) : (modCore s n g).cores = kput s.cores n (g (coreOf s n)) := rfl

/-! setCtx. -/

@[simp] theorem setCtx_tsc (s : State) (n : Nat) (i : CtxId) (x : Ctx) : (setCtx s n i x).tsc = s.tsc := rfl
@[simp] theorem setCtx_half (s : State) (n : Nat) (i : CtxId) (x : Ctx) : (setCtx s n i x).half = s.half := rfl
@[simp] theorem setCtx_gangs (s : State) (n : Nat) (i : CtxId) (x : Ctx) : (setCtx s n i x).gangs = s.gangs := rfl
@[simp] theorem setCtx_cmds (s : State) (n : Nat) (i : CtxId) (x : Ctx) : (setCtx s n i x).cmds = s.cmds := rfl
@[simp] theorem setCtx_acc (s : State) (n : Nat) (i : CtxId) (x : Ctx) : (setCtx s n i x).acc = s.acc := rfl
@[simp] theorem setCtx_mem (s : State) (n : Nat) (i : CtxId) (x : Ctx) : (setCtx s n i x).mem = s.mem := rfl
@[simp] theorem setCtx_poison (s : State) (n : Nat) (i : CtxId) (x : Ctx) : (setCtx s n i x).poison = s.poison := rfl
@[simp] theorem setCtx_bad (s : State) (n : Nat) (i : CtxId) (x : Ctx) : (setCtx s n i x).bad = s.bad := rfl
@[simp] theorem setCtx_tcache (s : State) (n : Nat) (i : CtxId) (x : Ctx) : (setCtx s n i x).tcache = s.tcache := rfl
@[simp] theorem setCtx_wcache (s : State) (n : Nat) (i : CtxId) (x : Ctx) : (setCtx s n i x).wcache = s.wcache := rfl
@[simp] theorem setCtx_l2 (s : State) (n : Nat) (i : CtxId) (x : Ctx) : (setCtx s n i x).l2 = s.l2 := rfl
@[simp] theorem setCtx_mdcache (s : State) (n : Nat) (i : CtxId) (x : Ctx) : (setCtx s n i x).mdcache = s.mdcache := rfl
@[simp] theorem setCtx_malformed (s : State) (n : Nat) (i : CtxId) (x : Ctx) : (setCtx s n i x).malformed = s.malformed := rfl
@[simp] theorem setCtx_resident (s : State) (n : Nat) (i : CtxId) (x : Ctx) : (setCtx s n i x).resident = s.resident := rfl
@[simp] theorem setCtx_parts (s : State) (n : Nat) (i : CtxId) (x : Ctx) : (setCtx s n i x).parts = s.parts := rfl
@[simp] theorem setCtx_vfs (s : State) (n : Nat) (i : CtxId) (x : Ctx) : (setCtx s n i x).vfs = s.vfs := rfl
@[simp] theorem setCtx_mail (s : State) (n : Nat) (i : CtxId) (x : Ctx) : (setCtx s n i x).mail = s.mail := rfl
@[simp] theorem setCtx_msix (s : State) (n : Nat) (i : CtxId) (x : Ctx) : (setCtx s n i x).msix = s.msix := rfl
@[simp] theorem setCtx_masked (s : State) (n : Nat) (i : CtxId) (x : Ctx) : (setCtx s n i x).masked = s.masked := rfl
@[simp] theorem setCtx_noticeNext (s : State) (n : Nat) (i : CtxId) (x : Ctx) : (setCtx s n i x).noticeNext = s.noticeNext := rfl
@[simp] theorem setCtx_boot (s : State) (n : Nat) (i : CtxId) (x : Ctx) : (setCtx s n i x).boot = s.boot := rfl
@[simp] theorem setCtx_units (s : State) (n : Nat) (i : CtxId) (x : Ctx) : (setCtx s n i x).units = s.units := rfl
@[simp] theorem setCtx_found (s : State) (n : Nat) (i : CtxId) (x : Ctx) : (setCtx s n i x).found = s.found := rfl
@[simp] theorem setCtx_stored (s : State) (n : Nat) (i : CtxId) (x : Ctx) : (setCtx s n i x).stored = s.stored := rfl
@[simp] theorem setCtx_running (s : State) (n : Nat) (i : CtxId) (x : Ctx) : (setCtx s n i x).running = s.running := rfl
@[simp] theorem setCtx_pushing (s : State) (n : Nat) (i : CtxId) (x : Ctx) : (setCtx s n i x).pushing = s.pushing := rfl
@[simp] theorem setCtx_node (s : State) (n : Nat) (i : CtxId) (x : Ctx) : (setCtx s n i x).node = s.node := rfl
@[simp] theorem setCtx_rg (s : State) (n : Nat) (i : CtxId) (x : Ctx) : (setCtx s n i x).rg = s.rg := rfl
@[simp] theorem setCtx_q (s : State) (n : Nat) (i : CtxId) (x : Ctx) : (setCtx s n i x).q = s.q := rfl
@[simp] theorem setCtx_dims (s : State) (n : Nat) (i : CtxId) (x : Ctx) : (setCtx s n i x).dims = s.dims := rfl
@[simp] theorem setCtx_feed (s : State) (n : Nat) (i : CtxId) (x : Ctx) : (setCtx s n i x).feed = s.feed := rfl
@[simp] theorem setCtx_throttled (s : State) (n : Nat) (i : CtxId) (x : Ctx) : (setCtx s n i x).throttled = s.throttled := rfl
@[simp] theorem setCtx_throttles (s : State) (n : Nat) (i : CtxId) (x : Ctx) : (setCtx s n i x).throttles = s.throttles := rfl
@[simp] theorem setCtx_temps (s : State) (n : Nat) (i : CtxId) (x : Ctx) : (setCtx s n i x).temps = s.temps := rfl
@[simp] theorem setCtx_health (s : State) (n : Nat) (i : CtxId) (x : Ctx) : (setCtx s n i x).health = s.health := rfl
@[simp] theorem setCtx_weights (s : State) (n : Nat) (i : CtxId) (x : Ctx) : (setCtx s n i x).weights = s.weights := rfl
@[simp] theorem setCtx_risk (s : State) (n : Nat) (i : CtxId) (x : Ctx) : (setCtx s n i x).risk = s.risk := rfl
@[simp] theorem setCtx_riskAt (s : State) (n : Nat) (i : CtxId) (x : Ctx) : (setCtx s n i x).riskAt = s.riskAt := rfl
@[simp] theorem setCtx_hostLines (s : State) (n : Nat) (i : CtxId) (x : Ctx) : (setCtx s n i x).hostLines = s.hostLines := rfl
@[simp] theorem setCtx_backInv (s : State) (n : Nat) (i : CtxId) (x : Ctx) : (setCtx s n i x).backInv = s.backInv := rfl
@[simp] theorem setCtx_hostData (s : State) (n : Nat) (i : CtxId) (x : Ctx) : (setCtx s n i x).hostData = s.hostData := rfl
@[simp] theorem setCtx_sends (s : State) (n : Nat) (i : CtxId) (x : Ctx) : (setCtx s n i x).sends = s.sends := rfl
@[simp] theorem setCtx_recvs (s : State) (n : Nat) (i : CtxId) (x : Ctx) : (setCtx s n i x).recvs = s.recvs := rfl
@[simp] theorem setCtx_known (s : State) (n : Nat) (i : CtxId) (x : Ctx) : (setCtx s n i x).known = s.known := rfl
@[simp] theorem setCtx_heldRows (s : State) (n : Nat) (i : CtxId) (x : Ctx) : (setCtx s n i x).heldRows = s.heldRows := rfl
@[simp] theorem setCtx_rings (s : State) (n : Nat) (i : CtxId) (x : Ctx) : (setCtx s n i x).rings = s.rings := rfl
@[simp] theorem setCtx_net (s : State) (n : Nat) (i : CtxId) (x : Ctx) : (setCtx s n i x).net = s.net := rfl
@[simp] theorem setCtx_crc (s : State) (n : Nat) (i : CtxId) (x : Ctx) : (setCtx s n i x).crc = s.crc := rfl
@[simp] theorem setCtx_partners (s : State) (n : Nat) (i : CtxId) (x : Ctx) : (setCtx s n i x).partners = s.partners := rfl
@[simp] theorem setCtx_agenda (s : State) (n : Nat) (i : CtxId) (x : Ctx) : (setCtx s n i x).agenda = s.agenda := rfl
@[simp] theorem setCtx_pace (s : State) (n : Nat) (i : CtxId) (x : Ctx) : (setCtx s n i x).pace = s.pace := rfl
@[simp] theorem setCtx_issue (s : State) (n : Nat) (i : CtxId) (x : Ctx) : (setCtx s n i x).issue = s.issue := rfl
@[simp] theorem setCtx_nextId (s : State) (n : Nat) (i : CtxId) (x : Ctx) : (setCtx s n i x).nextId = s.nextId := rfl
@[simp] theorem setCtx_nearNext (s : State) (n : Nat) (i : CtxId) (x : Ctx) : (setCtx s n i x).nearNext = s.nearNext := rfl
@[simp] theorem setCtx_free (s : State) (n : Nat) (i : CtxId) (x : Ctx) : (setCtx s n i x).free = s.free := rfl

/-! modCtx. -/

@[simp] theorem modCtx_tsc (s : State) (n : Nat) (i : CtxId) (g : Ctx → Ctx) : (modCtx s n i g).tsc = s.tsc := rfl
@[simp] theorem modCtx_half (s : State) (n : Nat) (i : CtxId) (g : Ctx → Ctx) : (modCtx s n i g).half = s.half := rfl
@[simp] theorem modCtx_gangs (s : State) (n : Nat) (i : CtxId) (g : Ctx → Ctx) : (modCtx s n i g).gangs = s.gangs := rfl
@[simp] theorem modCtx_cmds (s : State) (n : Nat) (i : CtxId) (g : Ctx → Ctx) : (modCtx s n i g).cmds = s.cmds := rfl
@[simp] theorem modCtx_acc (s : State) (n : Nat) (i : CtxId) (g : Ctx → Ctx) : (modCtx s n i g).acc = s.acc := rfl
@[simp] theorem modCtx_mem (s : State) (n : Nat) (i : CtxId) (g : Ctx → Ctx) : (modCtx s n i g).mem = s.mem := rfl
@[simp] theorem modCtx_poison (s : State) (n : Nat) (i : CtxId) (g : Ctx → Ctx) : (modCtx s n i g).poison = s.poison := rfl
@[simp] theorem modCtx_bad (s : State) (n : Nat) (i : CtxId) (g : Ctx → Ctx) : (modCtx s n i g).bad = s.bad := rfl
@[simp] theorem modCtx_tcache (s : State) (n : Nat) (i : CtxId) (g : Ctx → Ctx) : (modCtx s n i g).tcache = s.tcache := rfl
@[simp] theorem modCtx_wcache (s : State) (n : Nat) (i : CtxId) (g : Ctx → Ctx) : (modCtx s n i g).wcache = s.wcache := rfl
@[simp] theorem modCtx_l2 (s : State) (n : Nat) (i : CtxId) (g : Ctx → Ctx) : (modCtx s n i g).l2 = s.l2 := rfl
@[simp] theorem modCtx_mdcache (s : State) (n : Nat) (i : CtxId) (g : Ctx → Ctx) : (modCtx s n i g).mdcache = s.mdcache := rfl
@[simp] theorem modCtx_malformed (s : State) (n : Nat) (i : CtxId) (g : Ctx → Ctx) : (modCtx s n i g).malformed = s.malformed := rfl
@[simp] theorem modCtx_resident (s : State) (n : Nat) (i : CtxId) (g : Ctx → Ctx) : (modCtx s n i g).resident = s.resident := rfl
@[simp] theorem modCtx_parts (s : State) (n : Nat) (i : CtxId) (g : Ctx → Ctx) : (modCtx s n i g).parts = s.parts := rfl
@[simp] theorem modCtx_vfs (s : State) (n : Nat) (i : CtxId) (g : Ctx → Ctx) : (modCtx s n i g).vfs = s.vfs := rfl
@[simp] theorem modCtx_mail (s : State) (n : Nat) (i : CtxId) (g : Ctx → Ctx) : (modCtx s n i g).mail = s.mail := rfl
@[simp] theorem modCtx_msix (s : State) (n : Nat) (i : CtxId) (g : Ctx → Ctx) : (modCtx s n i g).msix = s.msix := rfl
@[simp] theorem modCtx_masked (s : State) (n : Nat) (i : CtxId) (g : Ctx → Ctx) : (modCtx s n i g).masked = s.masked := rfl
@[simp] theorem modCtx_noticeNext (s : State) (n : Nat) (i : CtxId) (g : Ctx → Ctx) : (modCtx s n i g).noticeNext = s.noticeNext := rfl
@[simp] theorem modCtx_boot (s : State) (n : Nat) (i : CtxId) (g : Ctx → Ctx) : (modCtx s n i g).boot = s.boot := rfl
@[simp] theorem modCtx_units (s : State) (n : Nat) (i : CtxId) (g : Ctx → Ctx) : (modCtx s n i g).units = s.units := rfl
@[simp] theorem modCtx_found (s : State) (n : Nat) (i : CtxId) (g : Ctx → Ctx) : (modCtx s n i g).found = s.found := rfl
@[simp] theorem modCtx_stored (s : State) (n : Nat) (i : CtxId) (g : Ctx → Ctx) : (modCtx s n i g).stored = s.stored := rfl
@[simp] theorem modCtx_running (s : State) (n : Nat) (i : CtxId) (g : Ctx → Ctx) : (modCtx s n i g).running = s.running := rfl
@[simp] theorem modCtx_pushing (s : State) (n : Nat) (i : CtxId) (g : Ctx → Ctx) : (modCtx s n i g).pushing = s.pushing := rfl
@[simp] theorem modCtx_node (s : State) (n : Nat) (i : CtxId) (g : Ctx → Ctx) : (modCtx s n i g).node = s.node := rfl
@[simp] theorem modCtx_rg (s : State) (n : Nat) (i : CtxId) (g : Ctx → Ctx) : (modCtx s n i g).rg = s.rg := rfl
@[simp] theorem modCtx_q (s : State) (n : Nat) (i : CtxId) (g : Ctx → Ctx) : (modCtx s n i g).q = s.q := rfl
@[simp] theorem modCtx_dims (s : State) (n : Nat) (i : CtxId) (g : Ctx → Ctx) : (modCtx s n i g).dims = s.dims := rfl
@[simp] theorem modCtx_feed (s : State) (n : Nat) (i : CtxId) (g : Ctx → Ctx) : (modCtx s n i g).feed = s.feed := rfl
@[simp] theorem modCtx_throttled (s : State) (n : Nat) (i : CtxId) (g : Ctx → Ctx) : (modCtx s n i g).throttled = s.throttled := rfl
@[simp] theorem modCtx_throttles (s : State) (n : Nat) (i : CtxId) (g : Ctx → Ctx) : (modCtx s n i g).throttles = s.throttles := rfl
@[simp] theorem modCtx_temps (s : State) (n : Nat) (i : CtxId) (g : Ctx → Ctx) : (modCtx s n i g).temps = s.temps := rfl
@[simp] theorem modCtx_health (s : State) (n : Nat) (i : CtxId) (g : Ctx → Ctx) : (modCtx s n i g).health = s.health := rfl
@[simp] theorem modCtx_weights (s : State) (n : Nat) (i : CtxId) (g : Ctx → Ctx) : (modCtx s n i g).weights = s.weights := rfl
@[simp] theorem modCtx_risk (s : State) (n : Nat) (i : CtxId) (g : Ctx → Ctx) : (modCtx s n i g).risk = s.risk := rfl
@[simp] theorem modCtx_riskAt (s : State) (n : Nat) (i : CtxId) (g : Ctx → Ctx) : (modCtx s n i g).riskAt = s.riskAt := rfl
@[simp] theorem modCtx_hostLines (s : State) (n : Nat) (i : CtxId) (g : Ctx → Ctx) : (modCtx s n i g).hostLines = s.hostLines := rfl
@[simp] theorem modCtx_backInv (s : State) (n : Nat) (i : CtxId) (g : Ctx → Ctx) : (modCtx s n i g).backInv = s.backInv := rfl
@[simp] theorem modCtx_hostData (s : State) (n : Nat) (i : CtxId) (g : Ctx → Ctx) : (modCtx s n i g).hostData = s.hostData := rfl
@[simp] theorem modCtx_sends (s : State) (n : Nat) (i : CtxId) (g : Ctx → Ctx) : (modCtx s n i g).sends = s.sends := rfl
@[simp] theorem modCtx_recvs (s : State) (n : Nat) (i : CtxId) (g : Ctx → Ctx) : (modCtx s n i g).recvs = s.recvs := rfl
@[simp] theorem modCtx_known (s : State) (n : Nat) (i : CtxId) (g : Ctx → Ctx) : (modCtx s n i g).known = s.known := rfl
@[simp] theorem modCtx_heldRows (s : State) (n : Nat) (i : CtxId) (g : Ctx → Ctx) : (modCtx s n i g).heldRows = s.heldRows := rfl
@[simp] theorem modCtx_rings (s : State) (n : Nat) (i : CtxId) (g : Ctx → Ctx) : (modCtx s n i g).rings = s.rings := rfl
@[simp] theorem modCtx_net (s : State) (n : Nat) (i : CtxId) (g : Ctx → Ctx) : (modCtx s n i g).net = s.net := rfl
@[simp] theorem modCtx_crc (s : State) (n : Nat) (i : CtxId) (g : Ctx → Ctx) : (modCtx s n i g).crc = s.crc := rfl
@[simp] theorem modCtx_partners (s : State) (n : Nat) (i : CtxId) (g : Ctx → Ctx) : (modCtx s n i g).partners = s.partners := rfl
@[simp] theorem modCtx_agenda (s : State) (n : Nat) (i : CtxId) (g : Ctx → Ctx) : (modCtx s n i g).agenda = s.agenda := rfl
@[simp] theorem modCtx_pace (s : State) (n : Nat) (i : CtxId) (g : Ctx → Ctx) : (modCtx s n i g).pace = s.pace := rfl
@[simp] theorem modCtx_issue (s : State) (n : Nat) (i : CtxId) (g : Ctx → Ctx) : (modCtx s n i g).issue = s.issue := rfl
@[simp] theorem modCtx_nextId (s : State) (n : Nat) (i : CtxId) (g : Ctx → Ctx) : (modCtx s n i g).nextId = s.nextId := rfl
@[simp] theorem modCtx_nearNext (s : State) (n : Nat) (i : CtxId) (g : Ctx → Ctx) : (modCtx s n i g).nearNext = s.nearNext := rfl
@[simp] theorem modCtx_free (s : State) (n : Nat) (i : CtxId) (g : Ctx → Ctx) : (modCtx s n i g).free = s.free := rfl

/-! modPart. -/

@[simp] theorem modPart_tsc (s : State) (n : Nat) (g : Partition → Partition) : (modPart s n g).tsc = s.tsc := rfl
@[simp] theorem modPart_half (s : State) (n : Nat) (g : Partition → Partition) : (modPart s n g).half = s.half := rfl
@[simp] theorem modPart_cores (s : State) (n : Nat) (g : Partition → Partition) : (modPart s n g).cores = s.cores := rfl
@[simp] theorem modPart_gangs (s : State) (n : Nat) (g : Partition → Partition) : (modPart s n g).gangs = s.gangs := rfl
@[simp] theorem modPart_cmds (s : State) (n : Nat) (g : Partition → Partition) : (modPart s n g).cmds = s.cmds := rfl
@[simp] theorem modPart_acc (s : State) (n : Nat) (g : Partition → Partition) : (modPart s n g).acc = s.acc := rfl
@[simp] theorem modPart_mem (s : State) (n : Nat) (g : Partition → Partition) : (modPart s n g).mem = s.mem := rfl
@[simp] theorem modPart_poison (s : State) (n : Nat) (g : Partition → Partition) : (modPart s n g).poison = s.poison := rfl
@[simp] theorem modPart_bad (s : State) (n : Nat) (g : Partition → Partition) : (modPart s n g).bad = s.bad := rfl
@[simp] theorem modPart_tcache (s : State) (n : Nat) (g : Partition → Partition) : (modPart s n g).tcache = s.tcache := rfl
@[simp] theorem modPart_wcache (s : State) (n : Nat) (g : Partition → Partition) : (modPart s n g).wcache = s.wcache := rfl
@[simp] theorem modPart_l2 (s : State) (n : Nat) (g : Partition → Partition) : (modPart s n g).l2 = s.l2 := rfl
@[simp] theorem modPart_mdcache (s : State) (n : Nat) (g : Partition → Partition) : (modPart s n g).mdcache = s.mdcache := rfl
@[simp] theorem modPart_malformed (s : State) (n : Nat) (g : Partition → Partition) : (modPart s n g).malformed = s.malformed := rfl
@[simp] theorem modPart_resident (s : State) (n : Nat) (g : Partition → Partition) : (modPart s n g).resident = s.resident := rfl
@[simp] theorem modPart_vfs (s : State) (n : Nat) (g : Partition → Partition) : (modPart s n g).vfs = s.vfs := rfl
@[simp] theorem modPart_mail (s : State) (n : Nat) (g : Partition → Partition) : (modPart s n g).mail = s.mail := rfl
@[simp] theorem modPart_msix (s : State) (n : Nat) (g : Partition → Partition) : (modPart s n g).msix = s.msix := rfl
@[simp] theorem modPart_masked (s : State) (n : Nat) (g : Partition → Partition) : (modPart s n g).masked = s.masked := rfl
@[simp] theorem modPart_noticeNext (s : State) (n : Nat) (g : Partition → Partition) : (modPart s n g).noticeNext = s.noticeNext := rfl
@[simp] theorem modPart_boot (s : State) (n : Nat) (g : Partition → Partition) : (modPart s n g).boot = s.boot := rfl
@[simp] theorem modPart_units (s : State) (n : Nat) (g : Partition → Partition) : (modPart s n g).units = s.units := rfl
@[simp] theorem modPart_found (s : State) (n : Nat) (g : Partition → Partition) : (modPart s n g).found = s.found := rfl
@[simp] theorem modPart_stored (s : State) (n : Nat) (g : Partition → Partition) : (modPart s n g).stored = s.stored := rfl
@[simp] theorem modPart_running (s : State) (n : Nat) (g : Partition → Partition) : (modPart s n g).running = s.running := rfl
@[simp] theorem modPart_pushing (s : State) (n : Nat) (g : Partition → Partition) : (modPart s n g).pushing = s.pushing := rfl
@[simp] theorem modPart_node (s : State) (n : Nat) (g : Partition → Partition) : (modPart s n g).node = s.node := rfl
@[simp] theorem modPart_rg (s : State) (n : Nat) (g : Partition → Partition) : (modPart s n g).rg = s.rg := rfl
@[simp] theorem modPart_q (s : State) (n : Nat) (g : Partition → Partition) : (modPart s n g).q = s.q := rfl
@[simp] theorem modPart_dims (s : State) (n : Nat) (g : Partition → Partition) : (modPart s n g).dims = s.dims := rfl
@[simp] theorem modPart_feed (s : State) (n : Nat) (g : Partition → Partition) : (modPart s n g).feed = s.feed := rfl
@[simp] theorem modPart_throttled (s : State) (n : Nat) (g : Partition → Partition) : (modPart s n g).throttled = s.throttled := rfl
@[simp] theorem modPart_throttles (s : State) (n : Nat) (g : Partition → Partition) : (modPart s n g).throttles = s.throttles := rfl
@[simp] theorem modPart_temps (s : State) (n : Nat) (g : Partition → Partition) : (modPart s n g).temps = s.temps := rfl
@[simp] theorem modPart_health (s : State) (n : Nat) (g : Partition → Partition) : (modPart s n g).health = s.health := rfl
@[simp] theorem modPart_weights (s : State) (n : Nat) (g : Partition → Partition) : (modPart s n g).weights = s.weights := rfl
@[simp] theorem modPart_risk (s : State) (n : Nat) (g : Partition → Partition) : (modPart s n g).risk = s.risk := rfl
@[simp] theorem modPart_riskAt (s : State) (n : Nat) (g : Partition → Partition) : (modPart s n g).riskAt = s.riskAt := rfl
@[simp] theorem modPart_hostLines (s : State) (n : Nat) (g : Partition → Partition) : (modPart s n g).hostLines = s.hostLines := rfl
@[simp] theorem modPart_backInv (s : State) (n : Nat) (g : Partition → Partition) : (modPart s n g).backInv = s.backInv := rfl
@[simp] theorem modPart_hostData (s : State) (n : Nat) (g : Partition → Partition) : (modPart s n g).hostData = s.hostData := rfl
@[simp] theorem modPart_sends (s : State) (n : Nat) (g : Partition → Partition) : (modPart s n g).sends = s.sends := rfl
@[simp] theorem modPart_recvs (s : State) (n : Nat) (g : Partition → Partition) : (modPart s n g).recvs = s.recvs := rfl
@[simp] theorem modPart_known (s : State) (n : Nat) (g : Partition → Partition) : (modPart s n g).known = s.known := rfl
@[simp] theorem modPart_heldRows (s : State) (n : Nat) (g : Partition → Partition) : (modPart s n g).heldRows = s.heldRows := rfl
@[simp] theorem modPart_rings (s : State) (n : Nat) (g : Partition → Partition) : (modPart s n g).rings = s.rings := rfl
@[simp] theorem modPart_net (s : State) (n : Nat) (g : Partition → Partition) : (modPart s n g).net = s.net := rfl
@[simp] theorem modPart_crc (s : State) (n : Nat) (g : Partition → Partition) : (modPart s n g).crc = s.crc := rfl
@[simp] theorem modPart_partners (s : State) (n : Nat) (g : Partition → Partition) : (modPart s n g).partners = s.partners := rfl
@[simp] theorem modPart_agenda (s : State) (n : Nat) (g : Partition → Partition) : (modPart s n g).agenda = s.agenda := rfl
@[simp] theorem modPart_pace (s : State) (n : Nat) (g : Partition → Partition) : (modPart s n g).pace = s.pace := rfl
@[simp] theorem modPart_issue (s : State) (n : Nat) (g : Partition → Partition) : (modPart s n g).issue = s.issue := rfl
@[simp] theorem modPart_nextId (s : State) (n : Nat) (g : Partition → Partition) : (modPart s n g).nextId = s.nextId := rfl
@[simp] theorem modPart_nearNext (s : State) (n : Nat) (g : Partition → Partition) : (modPart s n g).nearNext = s.nearNext := rfl
@[simp] theorem modPart_free (s : State) (n : Nat) (g : Partition → Partition) : (modPart s n g).free = s.free := rfl
theorem modPart_parts (s : State) (n : Nat) (g : Partition → Partition) : (modPart s n g).parts = kmod s.parts n g := rfl

/-! modGang. -/

@[simp] theorem modGang_tsc (s : State) (n : Nat) (g : Gang → Gang) : (modGang s n g).tsc = s.tsc := rfl
@[simp] theorem modGang_half (s : State) (n : Nat) (g : Gang → Gang) : (modGang s n g).half = s.half := rfl
@[simp] theorem modGang_cores (s : State) (n : Nat) (g : Gang → Gang) : (modGang s n g).cores = s.cores := rfl
@[simp] theorem modGang_cmds (s : State) (n : Nat) (g : Gang → Gang) : (modGang s n g).cmds = s.cmds := rfl
@[simp] theorem modGang_acc (s : State) (n : Nat) (g : Gang → Gang) : (modGang s n g).acc = s.acc := rfl
@[simp] theorem modGang_mem (s : State) (n : Nat) (g : Gang → Gang) : (modGang s n g).mem = s.mem := rfl
@[simp] theorem modGang_poison (s : State) (n : Nat) (g : Gang → Gang) : (modGang s n g).poison = s.poison := rfl
@[simp] theorem modGang_bad (s : State) (n : Nat) (g : Gang → Gang) : (modGang s n g).bad = s.bad := rfl
@[simp] theorem modGang_tcache (s : State) (n : Nat) (g : Gang → Gang) : (modGang s n g).tcache = s.tcache := rfl
@[simp] theorem modGang_wcache (s : State) (n : Nat) (g : Gang → Gang) : (modGang s n g).wcache = s.wcache := rfl
@[simp] theorem modGang_l2 (s : State) (n : Nat) (g : Gang → Gang) : (modGang s n g).l2 = s.l2 := rfl
@[simp] theorem modGang_mdcache (s : State) (n : Nat) (g : Gang → Gang) : (modGang s n g).mdcache = s.mdcache := rfl
@[simp] theorem modGang_malformed (s : State) (n : Nat) (g : Gang → Gang) : (modGang s n g).malformed = s.malformed := rfl
@[simp] theorem modGang_resident (s : State) (n : Nat) (g : Gang → Gang) : (modGang s n g).resident = s.resident := rfl
@[simp] theorem modGang_parts (s : State) (n : Nat) (g : Gang → Gang) : (modGang s n g).parts = s.parts := rfl
@[simp] theorem modGang_vfs (s : State) (n : Nat) (g : Gang → Gang) : (modGang s n g).vfs = s.vfs := rfl
@[simp] theorem modGang_mail (s : State) (n : Nat) (g : Gang → Gang) : (modGang s n g).mail = s.mail := rfl
@[simp] theorem modGang_msix (s : State) (n : Nat) (g : Gang → Gang) : (modGang s n g).msix = s.msix := rfl
@[simp] theorem modGang_masked (s : State) (n : Nat) (g : Gang → Gang) : (modGang s n g).masked = s.masked := rfl
@[simp] theorem modGang_noticeNext (s : State) (n : Nat) (g : Gang → Gang) : (modGang s n g).noticeNext = s.noticeNext := rfl
@[simp] theorem modGang_boot (s : State) (n : Nat) (g : Gang → Gang) : (modGang s n g).boot = s.boot := rfl
@[simp] theorem modGang_units (s : State) (n : Nat) (g : Gang → Gang) : (modGang s n g).units = s.units := rfl
@[simp] theorem modGang_found (s : State) (n : Nat) (g : Gang → Gang) : (modGang s n g).found = s.found := rfl
@[simp] theorem modGang_stored (s : State) (n : Nat) (g : Gang → Gang) : (modGang s n g).stored = s.stored := rfl
@[simp] theorem modGang_running (s : State) (n : Nat) (g : Gang → Gang) : (modGang s n g).running = s.running := rfl
@[simp] theorem modGang_pushing (s : State) (n : Nat) (g : Gang → Gang) : (modGang s n g).pushing = s.pushing := rfl
@[simp] theorem modGang_node (s : State) (n : Nat) (g : Gang → Gang) : (modGang s n g).node = s.node := rfl
@[simp] theorem modGang_rg (s : State) (n : Nat) (g : Gang → Gang) : (modGang s n g).rg = s.rg := rfl
@[simp] theorem modGang_q (s : State) (n : Nat) (g : Gang → Gang) : (modGang s n g).q = s.q := rfl
@[simp] theorem modGang_dims (s : State) (n : Nat) (g : Gang → Gang) : (modGang s n g).dims = s.dims := rfl
@[simp] theorem modGang_feed (s : State) (n : Nat) (g : Gang → Gang) : (modGang s n g).feed = s.feed := rfl
@[simp] theorem modGang_throttled (s : State) (n : Nat) (g : Gang → Gang) : (modGang s n g).throttled = s.throttled := rfl
@[simp] theorem modGang_throttles (s : State) (n : Nat) (g : Gang → Gang) : (modGang s n g).throttles = s.throttles := rfl
@[simp] theorem modGang_temps (s : State) (n : Nat) (g : Gang → Gang) : (modGang s n g).temps = s.temps := rfl
@[simp] theorem modGang_health (s : State) (n : Nat) (g : Gang → Gang) : (modGang s n g).health = s.health := rfl
@[simp] theorem modGang_weights (s : State) (n : Nat) (g : Gang → Gang) : (modGang s n g).weights = s.weights := rfl
@[simp] theorem modGang_risk (s : State) (n : Nat) (g : Gang → Gang) : (modGang s n g).risk = s.risk := rfl
@[simp] theorem modGang_riskAt (s : State) (n : Nat) (g : Gang → Gang) : (modGang s n g).riskAt = s.riskAt := rfl
@[simp] theorem modGang_hostLines (s : State) (n : Nat) (g : Gang → Gang) : (modGang s n g).hostLines = s.hostLines := rfl
@[simp] theorem modGang_backInv (s : State) (n : Nat) (g : Gang → Gang) : (modGang s n g).backInv = s.backInv := rfl
@[simp] theorem modGang_hostData (s : State) (n : Nat) (g : Gang → Gang) : (modGang s n g).hostData = s.hostData := rfl
@[simp] theorem modGang_sends (s : State) (n : Nat) (g : Gang → Gang) : (modGang s n g).sends = s.sends := rfl
@[simp] theorem modGang_recvs (s : State) (n : Nat) (g : Gang → Gang) : (modGang s n g).recvs = s.recvs := rfl
@[simp] theorem modGang_known (s : State) (n : Nat) (g : Gang → Gang) : (modGang s n g).known = s.known := rfl
@[simp] theorem modGang_heldRows (s : State) (n : Nat) (g : Gang → Gang) : (modGang s n g).heldRows = s.heldRows := rfl
@[simp] theorem modGang_rings (s : State) (n : Nat) (g : Gang → Gang) : (modGang s n g).rings = s.rings := rfl
@[simp] theorem modGang_net (s : State) (n : Nat) (g : Gang → Gang) : (modGang s n g).net = s.net := rfl
@[simp] theorem modGang_crc (s : State) (n : Nat) (g : Gang → Gang) : (modGang s n g).crc = s.crc := rfl
@[simp] theorem modGang_partners (s : State) (n : Nat) (g : Gang → Gang) : (modGang s n g).partners = s.partners := rfl
@[simp] theorem modGang_agenda (s : State) (n : Nat) (g : Gang → Gang) : (modGang s n g).agenda = s.agenda := rfl
@[simp] theorem modGang_pace (s : State) (n : Nat) (g : Gang → Gang) : (modGang s n g).pace = s.pace := rfl
@[simp] theorem modGang_issue (s : State) (n : Nat) (g : Gang → Gang) : (modGang s n g).issue = s.issue := rfl
@[simp] theorem modGang_nextId (s : State) (n : Nat) (g : Gang → Gang) : (modGang s n g).nextId = s.nextId := rfl
@[simp] theorem modGang_nearNext (s : State) (n : Nat) (g : Gang → Gang) : (modGang s n g).nearNext = s.nearNext := rfl
@[simp] theorem modGang_free (s : State) (n : Nat) (g : Gang → Gang) : (modGang s n g).free = s.free := rfl
theorem modGang_gangs (s : State) (n : Nat) (g : Gang → Gang) : (modGang s n g).gangs = kmod s.gangs n g := rfl

/-! modCmd. -/

@[simp] theorem modCmd_tsc (s : State) (n : Nat) (g : Cmd → Cmd) : (modCmd s n g).tsc = s.tsc := rfl
@[simp] theorem modCmd_half (s : State) (n : Nat) (g : Cmd → Cmd) : (modCmd s n g).half = s.half := rfl
@[simp] theorem modCmd_cores (s : State) (n : Nat) (g : Cmd → Cmd) : (modCmd s n g).cores = s.cores := rfl
@[simp] theorem modCmd_gangs (s : State) (n : Nat) (g : Cmd → Cmd) : (modCmd s n g).gangs = s.gangs := rfl
@[simp] theorem modCmd_acc (s : State) (n : Nat) (g : Cmd → Cmd) : (modCmd s n g).acc = s.acc := rfl
@[simp] theorem modCmd_mem (s : State) (n : Nat) (g : Cmd → Cmd) : (modCmd s n g).mem = s.mem := rfl
@[simp] theorem modCmd_poison (s : State) (n : Nat) (g : Cmd → Cmd) : (modCmd s n g).poison = s.poison := rfl
@[simp] theorem modCmd_bad (s : State) (n : Nat) (g : Cmd → Cmd) : (modCmd s n g).bad = s.bad := rfl
@[simp] theorem modCmd_tcache (s : State) (n : Nat) (g : Cmd → Cmd) : (modCmd s n g).tcache = s.tcache := rfl
@[simp] theorem modCmd_wcache (s : State) (n : Nat) (g : Cmd → Cmd) : (modCmd s n g).wcache = s.wcache := rfl
@[simp] theorem modCmd_l2 (s : State) (n : Nat) (g : Cmd → Cmd) : (modCmd s n g).l2 = s.l2 := rfl
@[simp] theorem modCmd_mdcache (s : State) (n : Nat) (g : Cmd → Cmd) : (modCmd s n g).mdcache = s.mdcache := rfl
@[simp] theorem modCmd_malformed (s : State) (n : Nat) (g : Cmd → Cmd) : (modCmd s n g).malformed = s.malformed := rfl
@[simp] theorem modCmd_resident (s : State) (n : Nat) (g : Cmd → Cmd) : (modCmd s n g).resident = s.resident := rfl
@[simp] theorem modCmd_parts (s : State) (n : Nat) (g : Cmd → Cmd) : (modCmd s n g).parts = s.parts := rfl
@[simp] theorem modCmd_vfs (s : State) (n : Nat) (g : Cmd → Cmd) : (modCmd s n g).vfs = s.vfs := rfl
@[simp] theorem modCmd_mail (s : State) (n : Nat) (g : Cmd → Cmd) : (modCmd s n g).mail = s.mail := rfl
@[simp] theorem modCmd_msix (s : State) (n : Nat) (g : Cmd → Cmd) : (modCmd s n g).msix = s.msix := rfl
@[simp] theorem modCmd_masked (s : State) (n : Nat) (g : Cmd → Cmd) : (modCmd s n g).masked = s.masked := rfl
@[simp] theorem modCmd_noticeNext (s : State) (n : Nat) (g : Cmd → Cmd) : (modCmd s n g).noticeNext = s.noticeNext := rfl
@[simp] theorem modCmd_boot (s : State) (n : Nat) (g : Cmd → Cmd) : (modCmd s n g).boot = s.boot := rfl
@[simp] theorem modCmd_units (s : State) (n : Nat) (g : Cmd → Cmd) : (modCmd s n g).units = s.units := rfl
@[simp] theorem modCmd_found (s : State) (n : Nat) (g : Cmd → Cmd) : (modCmd s n g).found = s.found := rfl
@[simp] theorem modCmd_stored (s : State) (n : Nat) (g : Cmd → Cmd) : (modCmd s n g).stored = s.stored := rfl
@[simp] theorem modCmd_running (s : State) (n : Nat) (g : Cmd → Cmd) : (modCmd s n g).running = s.running := rfl
@[simp] theorem modCmd_pushing (s : State) (n : Nat) (g : Cmd → Cmd) : (modCmd s n g).pushing = s.pushing := rfl
@[simp] theorem modCmd_node (s : State) (n : Nat) (g : Cmd → Cmd) : (modCmd s n g).node = s.node := rfl
@[simp] theorem modCmd_rg (s : State) (n : Nat) (g : Cmd → Cmd) : (modCmd s n g).rg = s.rg := rfl
@[simp] theorem modCmd_q (s : State) (n : Nat) (g : Cmd → Cmd) : (modCmd s n g).q = s.q := rfl
@[simp] theorem modCmd_dims (s : State) (n : Nat) (g : Cmd → Cmd) : (modCmd s n g).dims = s.dims := rfl
@[simp] theorem modCmd_feed (s : State) (n : Nat) (g : Cmd → Cmd) : (modCmd s n g).feed = s.feed := rfl
@[simp] theorem modCmd_throttled (s : State) (n : Nat) (g : Cmd → Cmd) : (modCmd s n g).throttled = s.throttled := rfl
@[simp] theorem modCmd_throttles (s : State) (n : Nat) (g : Cmd → Cmd) : (modCmd s n g).throttles = s.throttles := rfl
@[simp] theorem modCmd_temps (s : State) (n : Nat) (g : Cmd → Cmd) : (modCmd s n g).temps = s.temps := rfl
@[simp] theorem modCmd_health (s : State) (n : Nat) (g : Cmd → Cmd) : (modCmd s n g).health = s.health := rfl
@[simp] theorem modCmd_weights (s : State) (n : Nat) (g : Cmd → Cmd) : (modCmd s n g).weights = s.weights := rfl
@[simp] theorem modCmd_risk (s : State) (n : Nat) (g : Cmd → Cmd) : (modCmd s n g).risk = s.risk := rfl
@[simp] theorem modCmd_riskAt (s : State) (n : Nat) (g : Cmd → Cmd) : (modCmd s n g).riskAt = s.riskAt := rfl
@[simp] theorem modCmd_hostLines (s : State) (n : Nat) (g : Cmd → Cmd) : (modCmd s n g).hostLines = s.hostLines := rfl
@[simp] theorem modCmd_backInv (s : State) (n : Nat) (g : Cmd → Cmd) : (modCmd s n g).backInv = s.backInv := rfl
@[simp] theorem modCmd_hostData (s : State) (n : Nat) (g : Cmd → Cmd) : (modCmd s n g).hostData = s.hostData := rfl
@[simp] theorem modCmd_sends (s : State) (n : Nat) (g : Cmd → Cmd) : (modCmd s n g).sends = s.sends := rfl
@[simp] theorem modCmd_recvs (s : State) (n : Nat) (g : Cmd → Cmd) : (modCmd s n g).recvs = s.recvs := rfl
@[simp] theorem modCmd_known (s : State) (n : Nat) (g : Cmd → Cmd) : (modCmd s n g).known = s.known := rfl
@[simp] theorem modCmd_heldRows (s : State) (n : Nat) (g : Cmd → Cmd) : (modCmd s n g).heldRows = s.heldRows := rfl
@[simp] theorem modCmd_rings (s : State) (n : Nat) (g : Cmd → Cmd) : (modCmd s n g).rings = s.rings := rfl
@[simp] theorem modCmd_net (s : State) (n : Nat) (g : Cmd → Cmd) : (modCmd s n g).net = s.net := rfl
@[simp] theorem modCmd_crc (s : State) (n : Nat) (g : Cmd → Cmd) : (modCmd s n g).crc = s.crc := rfl
@[simp] theorem modCmd_partners (s : State) (n : Nat) (g : Cmd → Cmd) : (modCmd s n g).partners = s.partners := rfl
@[simp] theorem modCmd_agenda (s : State) (n : Nat) (g : Cmd → Cmd) : (modCmd s n g).agenda = s.agenda := rfl
@[simp] theorem modCmd_pace (s : State) (n : Nat) (g : Cmd → Cmd) : (modCmd s n g).pace = s.pace := rfl
@[simp] theorem modCmd_issue (s : State) (n : Nat) (g : Cmd → Cmd) : (modCmd s n g).issue = s.issue := rfl
@[simp] theorem modCmd_nextId (s : State) (n : Nat) (g : Cmd → Cmd) : (modCmd s n g).nextId = s.nextId := rfl
@[simp] theorem modCmd_nearNext (s : State) (n : Nat) (g : Cmd → Cmd) : (modCmd s n g).nearNext = s.nearNext := rfl
@[simp] theorem modCmd_free (s : State) (n : Nat) (g : Cmd → Cmd) : (modCmd s n g).free = s.free := rfl

/-! dropCmd. -/

@[simp] theorem dropCmd_tsc (s : State) (n : Nat) : (dropCmd s n).tsc = s.tsc := rfl
@[simp] theorem dropCmd_half (s : State) (n : Nat) : (dropCmd s n).half = s.half := rfl
@[simp] theorem dropCmd_cores (s : State) (n : Nat) : (dropCmd s n).cores = s.cores := rfl
@[simp] theorem dropCmd_gangs (s : State) (n : Nat) : (dropCmd s n).gangs = s.gangs := rfl
@[simp] theorem dropCmd_acc (s : State) (n : Nat) : (dropCmd s n).acc = s.acc := rfl
@[simp] theorem dropCmd_mem (s : State) (n : Nat) : (dropCmd s n).mem = s.mem := rfl
@[simp] theorem dropCmd_poison (s : State) (n : Nat) : (dropCmd s n).poison = s.poison := rfl
@[simp] theorem dropCmd_bad (s : State) (n : Nat) : (dropCmd s n).bad = s.bad := rfl
@[simp] theorem dropCmd_tcache (s : State) (n : Nat) : (dropCmd s n).tcache = s.tcache := rfl
@[simp] theorem dropCmd_wcache (s : State) (n : Nat) : (dropCmd s n).wcache = s.wcache := rfl
@[simp] theorem dropCmd_l2 (s : State) (n : Nat) : (dropCmd s n).l2 = s.l2 := rfl
@[simp] theorem dropCmd_mdcache (s : State) (n : Nat) : (dropCmd s n).mdcache = s.mdcache := rfl
@[simp] theorem dropCmd_malformed (s : State) (n : Nat) : (dropCmd s n).malformed = s.malformed := rfl
@[simp] theorem dropCmd_resident (s : State) (n : Nat) : (dropCmd s n).resident = s.resident := rfl
@[simp] theorem dropCmd_parts (s : State) (n : Nat) : (dropCmd s n).parts = s.parts := rfl
@[simp] theorem dropCmd_vfs (s : State) (n : Nat) : (dropCmd s n).vfs = s.vfs := rfl
@[simp] theorem dropCmd_mail (s : State) (n : Nat) : (dropCmd s n).mail = s.mail := rfl
@[simp] theorem dropCmd_msix (s : State) (n : Nat) : (dropCmd s n).msix = s.msix := rfl
@[simp] theorem dropCmd_masked (s : State) (n : Nat) : (dropCmd s n).masked = s.masked := rfl
@[simp] theorem dropCmd_noticeNext (s : State) (n : Nat) : (dropCmd s n).noticeNext = s.noticeNext := rfl
@[simp] theorem dropCmd_boot (s : State) (n : Nat) : (dropCmd s n).boot = s.boot := rfl
@[simp] theorem dropCmd_units (s : State) (n : Nat) : (dropCmd s n).units = s.units := rfl
@[simp] theorem dropCmd_found (s : State) (n : Nat) : (dropCmd s n).found = s.found := rfl
@[simp] theorem dropCmd_stored (s : State) (n : Nat) : (dropCmd s n).stored = s.stored := rfl
@[simp] theorem dropCmd_running (s : State) (n : Nat) : (dropCmd s n).running = s.running := rfl
@[simp] theorem dropCmd_pushing (s : State) (n : Nat) : (dropCmd s n).pushing = s.pushing := rfl
@[simp] theorem dropCmd_node (s : State) (n : Nat) : (dropCmd s n).node = s.node := rfl
@[simp] theorem dropCmd_rg (s : State) (n : Nat) : (dropCmd s n).rg = s.rg := rfl
@[simp] theorem dropCmd_q (s : State) (n : Nat) : (dropCmd s n).q = s.q := rfl
@[simp] theorem dropCmd_dims (s : State) (n : Nat) : (dropCmd s n).dims = s.dims := rfl
@[simp] theorem dropCmd_feed (s : State) (n : Nat) : (dropCmd s n).feed = s.feed := rfl
@[simp] theorem dropCmd_throttled (s : State) (n : Nat) : (dropCmd s n).throttled = s.throttled := rfl
@[simp] theorem dropCmd_throttles (s : State) (n : Nat) : (dropCmd s n).throttles = s.throttles := rfl
@[simp] theorem dropCmd_temps (s : State) (n : Nat) : (dropCmd s n).temps = s.temps := rfl
@[simp] theorem dropCmd_health (s : State) (n : Nat) : (dropCmd s n).health = s.health := rfl
@[simp] theorem dropCmd_weights (s : State) (n : Nat) : (dropCmd s n).weights = s.weights := rfl
@[simp] theorem dropCmd_risk (s : State) (n : Nat) : (dropCmd s n).risk = s.risk := rfl
@[simp] theorem dropCmd_riskAt (s : State) (n : Nat) : (dropCmd s n).riskAt = s.riskAt := rfl
@[simp] theorem dropCmd_hostLines (s : State) (n : Nat) : (dropCmd s n).hostLines = s.hostLines := rfl
@[simp] theorem dropCmd_backInv (s : State) (n : Nat) : (dropCmd s n).backInv = s.backInv := rfl
@[simp] theorem dropCmd_hostData (s : State) (n : Nat) : (dropCmd s n).hostData = s.hostData := rfl
@[simp] theorem dropCmd_sends (s : State) (n : Nat) : (dropCmd s n).sends = s.sends := rfl
@[simp] theorem dropCmd_recvs (s : State) (n : Nat) : (dropCmd s n).recvs = s.recvs := rfl
@[simp] theorem dropCmd_known (s : State) (n : Nat) : (dropCmd s n).known = s.known := rfl
@[simp] theorem dropCmd_heldRows (s : State) (n : Nat) : (dropCmd s n).heldRows = s.heldRows := rfl
@[simp] theorem dropCmd_rings (s : State) (n : Nat) : (dropCmd s n).rings = s.rings := rfl
@[simp] theorem dropCmd_net (s : State) (n : Nat) : (dropCmd s n).net = s.net := rfl
@[simp] theorem dropCmd_crc (s : State) (n : Nat) : (dropCmd s n).crc = s.crc := rfl
@[simp] theorem dropCmd_partners (s : State) (n : Nat) : (dropCmd s n).partners = s.partners := rfl
@[simp] theorem dropCmd_agenda (s : State) (n : Nat) : (dropCmd s n).agenda = s.agenda := rfl
@[simp] theorem dropCmd_pace (s : State) (n : Nat) : (dropCmd s n).pace = s.pace := rfl
@[simp] theorem dropCmd_issue (s : State) (n : Nat) : (dropCmd s n).issue = s.issue := rfl
@[simp] theorem dropCmd_nextId (s : State) (n : Nat) : (dropCmd s n).nextId = s.nextId := rfl
@[simp] theorem dropCmd_nearNext (s : State) (n : Nat) : (dropCmd s n).nearNext = s.nearNext := rfl
@[simp] theorem dropCmd_free (s : State) (n : Nat) : (dropCmd s n).free = s.free := rfl

/-! modAcc. -/

@[simp] theorem modAcc_tsc (s : State) (n : Nat) (g : Access → Access) : (modAcc s n g).tsc = s.tsc := rfl
@[simp] theorem modAcc_half (s : State) (n : Nat) (g : Access → Access) : (modAcc s n g).half = s.half := rfl
@[simp] theorem modAcc_cores (s : State) (n : Nat) (g : Access → Access) : (modAcc s n g).cores = s.cores := rfl
@[simp] theorem modAcc_gangs (s : State) (n : Nat) (g : Access → Access) : (modAcc s n g).gangs = s.gangs := rfl
@[simp] theorem modAcc_cmds (s : State) (n : Nat) (g : Access → Access) : (modAcc s n g).cmds = s.cmds := rfl
@[simp] theorem modAcc_mem (s : State) (n : Nat) (g : Access → Access) : (modAcc s n g).mem = s.mem := rfl
@[simp] theorem modAcc_poison (s : State) (n : Nat) (g : Access → Access) : (modAcc s n g).poison = s.poison := rfl
@[simp] theorem modAcc_bad (s : State) (n : Nat) (g : Access → Access) : (modAcc s n g).bad = s.bad := rfl
@[simp] theorem modAcc_tcache (s : State) (n : Nat) (g : Access → Access) : (modAcc s n g).tcache = s.tcache := rfl
@[simp] theorem modAcc_wcache (s : State) (n : Nat) (g : Access → Access) : (modAcc s n g).wcache = s.wcache := rfl
@[simp] theorem modAcc_l2 (s : State) (n : Nat) (g : Access → Access) : (modAcc s n g).l2 = s.l2 := rfl
@[simp] theorem modAcc_mdcache (s : State) (n : Nat) (g : Access → Access) : (modAcc s n g).mdcache = s.mdcache := rfl
@[simp] theorem modAcc_malformed (s : State) (n : Nat) (g : Access → Access) : (modAcc s n g).malformed = s.malformed := rfl
@[simp] theorem modAcc_resident (s : State) (n : Nat) (g : Access → Access) : (modAcc s n g).resident = s.resident := rfl
@[simp] theorem modAcc_parts (s : State) (n : Nat) (g : Access → Access) : (modAcc s n g).parts = s.parts := rfl
@[simp] theorem modAcc_vfs (s : State) (n : Nat) (g : Access → Access) : (modAcc s n g).vfs = s.vfs := rfl
@[simp] theorem modAcc_mail (s : State) (n : Nat) (g : Access → Access) : (modAcc s n g).mail = s.mail := rfl
@[simp] theorem modAcc_msix (s : State) (n : Nat) (g : Access → Access) : (modAcc s n g).msix = s.msix := rfl
@[simp] theorem modAcc_masked (s : State) (n : Nat) (g : Access → Access) : (modAcc s n g).masked = s.masked := rfl
@[simp] theorem modAcc_noticeNext (s : State) (n : Nat) (g : Access → Access) : (modAcc s n g).noticeNext = s.noticeNext := rfl
@[simp] theorem modAcc_boot (s : State) (n : Nat) (g : Access → Access) : (modAcc s n g).boot = s.boot := rfl
@[simp] theorem modAcc_units (s : State) (n : Nat) (g : Access → Access) : (modAcc s n g).units = s.units := rfl
@[simp] theorem modAcc_found (s : State) (n : Nat) (g : Access → Access) : (modAcc s n g).found = s.found := rfl
@[simp] theorem modAcc_stored (s : State) (n : Nat) (g : Access → Access) : (modAcc s n g).stored = s.stored := rfl
@[simp] theorem modAcc_running (s : State) (n : Nat) (g : Access → Access) : (modAcc s n g).running = s.running := rfl
@[simp] theorem modAcc_pushing (s : State) (n : Nat) (g : Access → Access) : (modAcc s n g).pushing = s.pushing := rfl
@[simp] theorem modAcc_node (s : State) (n : Nat) (g : Access → Access) : (modAcc s n g).node = s.node := rfl
@[simp] theorem modAcc_rg (s : State) (n : Nat) (g : Access → Access) : (modAcc s n g).rg = s.rg := rfl
@[simp] theorem modAcc_q (s : State) (n : Nat) (g : Access → Access) : (modAcc s n g).q = s.q := rfl
@[simp] theorem modAcc_dims (s : State) (n : Nat) (g : Access → Access) : (modAcc s n g).dims = s.dims := rfl
@[simp] theorem modAcc_feed (s : State) (n : Nat) (g : Access → Access) : (modAcc s n g).feed = s.feed := rfl
@[simp] theorem modAcc_throttled (s : State) (n : Nat) (g : Access → Access) : (modAcc s n g).throttled = s.throttled := rfl
@[simp] theorem modAcc_throttles (s : State) (n : Nat) (g : Access → Access) : (modAcc s n g).throttles = s.throttles := rfl
@[simp] theorem modAcc_temps (s : State) (n : Nat) (g : Access → Access) : (modAcc s n g).temps = s.temps := rfl
@[simp] theorem modAcc_health (s : State) (n : Nat) (g : Access → Access) : (modAcc s n g).health = s.health := rfl
@[simp] theorem modAcc_weights (s : State) (n : Nat) (g : Access → Access) : (modAcc s n g).weights = s.weights := rfl
@[simp] theorem modAcc_risk (s : State) (n : Nat) (g : Access → Access) : (modAcc s n g).risk = s.risk := rfl
@[simp] theorem modAcc_riskAt (s : State) (n : Nat) (g : Access → Access) : (modAcc s n g).riskAt = s.riskAt := rfl
@[simp] theorem modAcc_hostLines (s : State) (n : Nat) (g : Access → Access) : (modAcc s n g).hostLines = s.hostLines := rfl
@[simp] theorem modAcc_backInv (s : State) (n : Nat) (g : Access → Access) : (modAcc s n g).backInv = s.backInv := rfl
@[simp] theorem modAcc_hostData (s : State) (n : Nat) (g : Access → Access) : (modAcc s n g).hostData = s.hostData := rfl
@[simp] theorem modAcc_sends (s : State) (n : Nat) (g : Access → Access) : (modAcc s n g).sends = s.sends := rfl
@[simp] theorem modAcc_recvs (s : State) (n : Nat) (g : Access → Access) : (modAcc s n g).recvs = s.recvs := rfl
@[simp] theorem modAcc_known (s : State) (n : Nat) (g : Access → Access) : (modAcc s n g).known = s.known := rfl
@[simp] theorem modAcc_heldRows (s : State) (n : Nat) (g : Access → Access) : (modAcc s n g).heldRows = s.heldRows := rfl
@[simp] theorem modAcc_rings (s : State) (n : Nat) (g : Access → Access) : (modAcc s n g).rings = s.rings := rfl
@[simp] theorem modAcc_net (s : State) (n : Nat) (g : Access → Access) : (modAcc s n g).net = s.net := rfl
@[simp] theorem modAcc_crc (s : State) (n : Nat) (g : Access → Access) : (modAcc s n g).crc = s.crc := rfl
@[simp] theorem modAcc_partners (s : State) (n : Nat) (g : Access → Access) : (modAcc s n g).partners = s.partners := rfl
@[simp] theorem modAcc_agenda (s : State) (n : Nat) (g : Access → Access) : (modAcc s n g).agenda = s.agenda := rfl
@[simp] theorem modAcc_pace (s : State) (n : Nat) (g : Access → Access) : (modAcc s n g).pace = s.pace := rfl
@[simp] theorem modAcc_issue (s : State) (n : Nat) (g : Access → Access) : (modAcc s n g).issue = s.issue := rfl
@[simp] theorem modAcc_nextId (s : State) (n : Nat) (g : Access → Access) : (modAcc s n g).nextId = s.nextId := rfl
@[simp] theorem modAcc_nearNext (s : State) (n : Nat) (g : Access → Access) : (modAcc s n g).nearNext = s.nearNext := rfl
@[simp] theorem modAcc_free (s : State) (n : Nat) (g : Access → Access) : (modAcc s n g).free = s.free := rfl

/-! dropAcc. -/

@[simp] theorem dropAcc_tsc (s : State) (n : Nat) : (dropAcc s n).tsc = s.tsc := rfl
@[simp] theorem dropAcc_half (s : State) (n : Nat) : (dropAcc s n).half = s.half := rfl
@[simp] theorem dropAcc_cores (s : State) (n : Nat) : (dropAcc s n).cores = s.cores := rfl
@[simp] theorem dropAcc_gangs (s : State) (n : Nat) : (dropAcc s n).gangs = s.gangs := rfl
@[simp] theorem dropAcc_cmds (s : State) (n : Nat) : (dropAcc s n).cmds = s.cmds := rfl
@[simp] theorem dropAcc_mem (s : State) (n : Nat) : (dropAcc s n).mem = s.mem := rfl
@[simp] theorem dropAcc_poison (s : State) (n : Nat) : (dropAcc s n).poison = s.poison := rfl
@[simp] theorem dropAcc_bad (s : State) (n : Nat) : (dropAcc s n).bad = s.bad := rfl
@[simp] theorem dropAcc_tcache (s : State) (n : Nat) : (dropAcc s n).tcache = s.tcache := rfl
@[simp] theorem dropAcc_wcache (s : State) (n : Nat) : (dropAcc s n).wcache = s.wcache := rfl
@[simp] theorem dropAcc_l2 (s : State) (n : Nat) : (dropAcc s n).l2 = s.l2 := rfl
@[simp] theorem dropAcc_mdcache (s : State) (n : Nat) : (dropAcc s n).mdcache = s.mdcache := rfl
@[simp] theorem dropAcc_malformed (s : State) (n : Nat) : (dropAcc s n).malformed = s.malformed := rfl
@[simp] theorem dropAcc_resident (s : State) (n : Nat) : (dropAcc s n).resident = s.resident := rfl
@[simp] theorem dropAcc_parts (s : State) (n : Nat) : (dropAcc s n).parts = s.parts := rfl
@[simp] theorem dropAcc_vfs (s : State) (n : Nat) : (dropAcc s n).vfs = s.vfs := rfl
@[simp] theorem dropAcc_mail (s : State) (n : Nat) : (dropAcc s n).mail = s.mail := rfl
@[simp] theorem dropAcc_msix (s : State) (n : Nat) : (dropAcc s n).msix = s.msix := rfl
@[simp] theorem dropAcc_masked (s : State) (n : Nat) : (dropAcc s n).masked = s.masked := rfl
@[simp] theorem dropAcc_noticeNext (s : State) (n : Nat) : (dropAcc s n).noticeNext = s.noticeNext := rfl
@[simp] theorem dropAcc_boot (s : State) (n : Nat) : (dropAcc s n).boot = s.boot := rfl
@[simp] theorem dropAcc_units (s : State) (n : Nat) : (dropAcc s n).units = s.units := rfl
@[simp] theorem dropAcc_found (s : State) (n : Nat) : (dropAcc s n).found = s.found := rfl
@[simp] theorem dropAcc_stored (s : State) (n : Nat) : (dropAcc s n).stored = s.stored := rfl
@[simp] theorem dropAcc_running (s : State) (n : Nat) : (dropAcc s n).running = s.running := rfl
@[simp] theorem dropAcc_pushing (s : State) (n : Nat) : (dropAcc s n).pushing = s.pushing := rfl
@[simp] theorem dropAcc_node (s : State) (n : Nat) : (dropAcc s n).node = s.node := rfl
@[simp] theorem dropAcc_rg (s : State) (n : Nat) : (dropAcc s n).rg = s.rg := rfl
@[simp] theorem dropAcc_q (s : State) (n : Nat) : (dropAcc s n).q = s.q := rfl
@[simp] theorem dropAcc_dims (s : State) (n : Nat) : (dropAcc s n).dims = s.dims := rfl
@[simp] theorem dropAcc_feed (s : State) (n : Nat) : (dropAcc s n).feed = s.feed := rfl
@[simp] theorem dropAcc_throttled (s : State) (n : Nat) : (dropAcc s n).throttled = s.throttled := rfl
@[simp] theorem dropAcc_throttles (s : State) (n : Nat) : (dropAcc s n).throttles = s.throttles := rfl
@[simp] theorem dropAcc_temps (s : State) (n : Nat) : (dropAcc s n).temps = s.temps := rfl
@[simp] theorem dropAcc_health (s : State) (n : Nat) : (dropAcc s n).health = s.health := rfl
@[simp] theorem dropAcc_weights (s : State) (n : Nat) : (dropAcc s n).weights = s.weights := rfl
@[simp] theorem dropAcc_risk (s : State) (n : Nat) : (dropAcc s n).risk = s.risk := rfl
@[simp] theorem dropAcc_riskAt (s : State) (n : Nat) : (dropAcc s n).riskAt = s.riskAt := rfl
@[simp] theorem dropAcc_hostLines (s : State) (n : Nat) : (dropAcc s n).hostLines = s.hostLines := rfl
@[simp] theorem dropAcc_backInv (s : State) (n : Nat) : (dropAcc s n).backInv = s.backInv := rfl
@[simp] theorem dropAcc_hostData (s : State) (n : Nat) : (dropAcc s n).hostData = s.hostData := rfl
@[simp] theorem dropAcc_sends (s : State) (n : Nat) : (dropAcc s n).sends = s.sends := rfl
@[simp] theorem dropAcc_recvs (s : State) (n : Nat) : (dropAcc s n).recvs = s.recvs := rfl
@[simp] theorem dropAcc_known (s : State) (n : Nat) : (dropAcc s n).known = s.known := rfl
@[simp] theorem dropAcc_heldRows (s : State) (n : Nat) : (dropAcc s n).heldRows = s.heldRows := rfl
@[simp] theorem dropAcc_rings (s : State) (n : Nat) : (dropAcc s n).rings = s.rings := rfl
@[simp] theorem dropAcc_net (s : State) (n : Nat) : (dropAcc s n).net = s.net := rfl
@[simp] theorem dropAcc_crc (s : State) (n : Nat) : (dropAcc s n).crc = s.crc := rfl
@[simp] theorem dropAcc_partners (s : State) (n : Nat) : (dropAcc s n).partners = s.partners := rfl
@[simp] theorem dropAcc_agenda (s : State) (n : Nat) : (dropAcc s n).agenda = s.agenda := rfl
@[simp] theorem dropAcc_pace (s : State) (n : Nat) : (dropAcc s n).pace = s.pace := rfl
@[simp] theorem dropAcc_issue (s : State) (n : Nat) : (dropAcc s n).issue = s.issue := rfl
@[simp] theorem dropAcc_nextId (s : State) (n : Nat) : (dropAcc s n).nextId = s.nextId := rfl
@[simp] theorem dropAcc_nearNext (s : State) (n : Nat) : (dropAcc s n).nearNext = s.nearNext := rfl
@[simp] theorem dropAcc_free (s : State) (n : Nat) : (dropAcc s n).free = s.free := rfl

/-! addAccess. -/

@[simp] theorem addAccess_tsc (s : State) (a : Access) : (addAccess s a).tsc = s.tsc := rfl
@[simp] theorem addAccess_half (s : State) (a : Access) : (addAccess s a).half = s.half := rfl
@[simp] theorem addAccess_cores (s : State) (a : Access) : (addAccess s a).cores = s.cores := rfl
@[simp] theorem addAccess_gangs (s : State) (a : Access) : (addAccess s a).gangs = s.gangs := rfl
@[simp] theorem addAccess_cmds (s : State) (a : Access) : (addAccess s a).cmds = s.cmds := rfl
@[simp] theorem addAccess_mem (s : State) (a : Access) : (addAccess s a).mem = s.mem := rfl
@[simp] theorem addAccess_poison (s : State) (a : Access) : (addAccess s a).poison = s.poison := rfl
@[simp] theorem addAccess_bad (s : State) (a : Access) : (addAccess s a).bad = s.bad := rfl
@[simp] theorem addAccess_tcache (s : State) (a : Access) : (addAccess s a).tcache = s.tcache := rfl
@[simp] theorem addAccess_wcache (s : State) (a : Access) : (addAccess s a).wcache = s.wcache := rfl
@[simp] theorem addAccess_l2 (s : State) (a : Access) : (addAccess s a).l2 = s.l2 := rfl
@[simp] theorem addAccess_mdcache (s : State) (a : Access) : (addAccess s a).mdcache = s.mdcache := rfl
@[simp] theorem addAccess_malformed (s : State) (a : Access) : (addAccess s a).malformed = s.malformed := rfl
@[simp] theorem addAccess_resident (s : State) (a : Access) : (addAccess s a).resident = s.resident := rfl
@[simp] theorem addAccess_parts (s : State) (a : Access) : (addAccess s a).parts = s.parts := rfl
@[simp] theorem addAccess_vfs (s : State) (a : Access) : (addAccess s a).vfs = s.vfs := rfl
@[simp] theorem addAccess_mail (s : State) (a : Access) : (addAccess s a).mail = s.mail := rfl
@[simp] theorem addAccess_msix (s : State) (a : Access) : (addAccess s a).msix = s.msix := rfl
@[simp] theorem addAccess_masked (s : State) (a : Access) : (addAccess s a).masked = s.masked := rfl
@[simp] theorem addAccess_noticeNext (s : State) (a : Access) : (addAccess s a).noticeNext = s.noticeNext := rfl
@[simp] theorem addAccess_boot (s : State) (a : Access) : (addAccess s a).boot = s.boot := rfl
@[simp] theorem addAccess_units (s : State) (a : Access) : (addAccess s a).units = s.units := rfl
@[simp] theorem addAccess_found (s : State) (a : Access) : (addAccess s a).found = s.found := rfl
@[simp] theorem addAccess_stored (s : State) (a : Access) : (addAccess s a).stored = s.stored := rfl
@[simp] theorem addAccess_running (s : State) (a : Access) : (addAccess s a).running = s.running := rfl
@[simp] theorem addAccess_pushing (s : State) (a : Access) : (addAccess s a).pushing = s.pushing := rfl
@[simp] theorem addAccess_node (s : State) (a : Access) : (addAccess s a).node = s.node := rfl
@[simp] theorem addAccess_rg (s : State) (a : Access) : (addAccess s a).rg = s.rg := rfl
@[simp] theorem addAccess_q (s : State) (a : Access) : (addAccess s a).q = s.q := rfl
@[simp] theorem addAccess_dims (s : State) (a : Access) : (addAccess s a).dims = s.dims := rfl
@[simp] theorem addAccess_feed (s : State) (a : Access) : (addAccess s a).feed = s.feed := rfl
@[simp] theorem addAccess_throttled (s : State) (a : Access) : (addAccess s a).throttled = s.throttled := rfl
@[simp] theorem addAccess_throttles (s : State) (a : Access) : (addAccess s a).throttles = s.throttles := rfl
@[simp] theorem addAccess_temps (s : State) (a : Access) : (addAccess s a).temps = s.temps := rfl
@[simp] theorem addAccess_health (s : State) (a : Access) : (addAccess s a).health = s.health := rfl
@[simp] theorem addAccess_weights (s : State) (a : Access) : (addAccess s a).weights = s.weights := rfl
@[simp] theorem addAccess_risk (s : State) (a : Access) : (addAccess s a).risk = s.risk := rfl
@[simp] theorem addAccess_riskAt (s : State) (a : Access) : (addAccess s a).riskAt = s.riskAt := rfl
@[simp] theorem addAccess_hostLines (s : State) (a : Access) : (addAccess s a).hostLines = s.hostLines := rfl
@[simp] theorem addAccess_backInv (s : State) (a : Access) : (addAccess s a).backInv = s.backInv := rfl
@[simp] theorem addAccess_hostData (s : State) (a : Access) : (addAccess s a).hostData = s.hostData := rfl
@[simp] theorem addAccess_sends (s : State) (a : Access) : (addAccess s a).sends = s.sends := rfl
@[simp] theorem addAccess_recvs (s : State) (a : Access) : (addAccess s a).recvs = s.recvs := rfl
@[simp] theorem addAccess_known (s : State) (a : Access) : (addAccess s a).known = s.known := rfl
@[simp] theorem addAccess_heldRows (s : State) (a : Access) : (addAccess s a).heldRows = s.heldRows := rfl
@[simp] theorem addAccess_rings (s : State) (a : Access) : (addAccess s a).rings = s.rings := rfl
@[simp] theorem addAccess_net (s : State) (a : Access) : (addAccess s a).net = s.net := rfl
@[simp] theorem addAccess_crc (s : State) (a : Access) : (addAccess s a).crc = s.crc := rfl
@[simp] theorem addAccess_partners (s : State) (a : Access) : (addAccess s a).partners = s.partners := rfl
@[simp] theorem addAccess_agenda (s : State) (a : Access) : (addAccess s a).agenda = s.agenda := rfl
@[simp] theorem addAccess_pace (s : State) (a : Access) : (addAccess s a).pace = s.pace := rfl
@[simp] theorem addAccess_issue (s : State) (a : Access) : (addAccess s a).issue = s.issue := rfl
@[simp] theorem addAccess_nearNext (s : State) (a : Access) : (addAccess s a).nearNext = s.nearNext := rfl
@[simp] theorem addAccess_free (s : State) (a : Access) : (addAccess s a).free = s.free := rfl

/-! setFrame. -/

@[simp] theorem setFrame_tsc (s : State) (g : Issue → Issue) : (setFrame s g).tsc = s.tsc := rfl
@[simp] theorem setFrame_half (s : State) (g : Issue → Issue) : (setFrame s g).half = s.half := rfl
@[simp] theorem setFrame_cores (s : State) (g : Issue → Issue) : (setFrame s g).cores = s.cores := rfl
@[simp] theorem setFrame_gangs (s : State) (g : Issue → Issue) : (setFrame s g).gangs = s.gangs := rfl
@[simp] theorem setFrame_cmds (s : State) (g : Issue → Issue) : (setFrame s g).cmds = s.cmds := rfl
@[simp] theorem setFrame_acc (s : State) (g : Issue → Issue) : (setFrame s g).acc = s.acc := rfl
@[simp] theorem setFrame_mem (s : State) (g : Issue → Issue) : (setFrame s g).mem = s.mem := rfl
@[simp] theorem setFrame_poison (s : State) (g : Issue → Issue) : (setFrame s g).poison = s.poison := rfl
@[simp] theorem setFrame_bad (s : State) (g : Issue → Issue) : (setFrame s g).bad = s.bad := rfl
@[simp] theorem setFrame_tcache (s : State) (g : Issue → Issue) : (setFrame s g).tcache = s.tcache := rfl
@[simp] theorem setFrame_wcache (s : State) (g : Issue → Issue) : (setFrame s g).wcache = s.wcache := rfl
@[simp] theorem setFrame_l2 (s : State) (g : Issue → Issue) : (setFrame s g).l2 = s.l2 := rfl
@[simp] theorem setFrame_mdcache (s : State) (g : Issue → Issue) : (setFrame s g).mdcache = s.mdcache := rfl
@[simp] theorem setFrame_malformed (s : State) (g : Issue → Issue) : (setFrame s g).malformed = s.malformed := rfl
@[simp] theorem setFrame_resident (s : State) (g : Issue → Issue) : (setFrame s g).resident = s.resident := rfl
@[simp] theorem setFrame_parts (s : State) (g : Issue → Issue) : (setFrame s g).parts = s.parts := rfl
@[simp] theorem setFrame_vfs (s : State) (g : Issue → Issue) : (setFrame s g).vfs = s.vfs := rfl
@[simp] theorem setFrame_mail (s : State) (g : Issue → Issue) : (setFrame s g).mail = s.mail := rfl
@[simp] theorem setFrame_msix (s : State) (g : Issue → Issue) : (setFrame s g).msix = s.msix := rfl
@[simp] theorem setFrame_masked (s : State) (g : Issue → Issue) : (setFrame s g).masked = s.masked := rfl
@[simp] theorem setFrame_noticeNext (s : State) (g : Issue → Issue) : (setFrame s g).noticeNext = s.noticeNext := rfl
@[simp] theorem setFrame_boot (s : State) (g : Issue → Issue) : (setFrame s g).boot = s.boot := rfl
@[simp] theorem setFrame_units (s : State) (g : Issue → Issue) : (setFrame s g).units = s.units := rfl
@[simp] theorem setFrame_found (s : State) (g : Issue → Issue) : (setFrame s g).found = s.found := rfl
@[simp] theorem setFrame_stored (s : State) (g : Issue → Issue) : (setFrame s g).stored = s.stored := rfl
@[simp] theorem setFrame_running (s : State) (g : Issue → Issue) : (setFrame s g).running = s.running := rfl
@[simp] theorem setFrame_pushing (s : State) (g : Issue → Issue) : (setFrame s g).pushing = s.pushing := rfl
@[simp] theorem setFrame_node (s : State) (g : Issue → Issue) : (setFrame s g).node = s.node := rfl
@[simp] theorem setFrame_rg (s : State) (g : Issue → Issue) : (setFrame s g).rg = s.rg := rfl
@[simp] theorem setFrame_q (s : State) (g : Issue → Issue) : (setFrame s g).q = s.q := rfl
@[simp] theorem setFrame_dims (s : State) (g : Issue → Issue) : (setFrame s g).dims = s.dims := rfl
@[simp] theorem setFrame_feed (s : State) (g : Issue → Issue) : (setFrame s g).feed = s.feed := rfl
@[simp] theorem setFrame_throttled (s : State) (g : Issue → Issue) : (setFrame s g).throttled = s.throttled := rfl
@[simp] theorem setFrame_throttles (s : State) (g : Issue → Issue) : (setFrame s g).throttles = s.throttles := rfl
@[simp] theorem setFrame_temps (s : State) (g : Issue → Issue) : (setFrame s g).temps = s.temps := rfl
@[simp] theorem setFrame_health (s : State) (g : Issue → Issue) : (setFrame s g).health = s.health := rfl
@[simp] theorem setFrame_weights (s : State) (g : Issue → Issue) : (setFrame s g).weights = s.weights := rfl
@[simp] theorem setFrame_risk (s : State) (g : Issue → Issue) : (setFrame s g).risk = s.risk := rfl
@[simp] theorem setFrame_riskAt (s : State) (g : Issue → Issue) : (setFrame s g).riskAt = s.riskAt := rfl
@[simp] theorem setFrame_hostLines (s : State) (g : Issue → Issue) : (setFrame s g).hostLines = s.hostLines := rfl
@[simp] theorem setFrame_backInv (s : State) (g : Issue → Issue) : (setFrame s g).backInv = s.backInv := rfl
@[simp] theorem setFrame_hostData (s : State) (g : Issue → Issue) : (setFrame s g).hostData = s.hostData := rfl
@[simp] theorem setFrame_sends (s : State) (g : Issue → Issue) : (setFrame s g).sends = s.sends := rfl
@[simp] theorem setFrame_recvs (s : State) (g : Issue → Issue) : (setFrame s g).recvs = s.recvs := rfl
@[simp] theorem setFrame_known (s : State) (g : Issue → Issue) : (setFrame s g).known = s.known := rfl
@[simp] theorem setFrame_heldRows (s : State) (g : Issue → Issue) : (setFrame s g).heldRows = s.heldRows := rfl
@[simp] theorem setFrame_rings (s : State) (g : Issue → Issue) : (setFrame s g).rings = s.rings := rfl
@[simp] theorem setFrame_net (s : State) (g : Issue → Issue) : (setFrame s g).net = s.net := rfl
@[simp] theorem setFrame_crc (s : State) (g : Issue → Issue) : (setFrame s g).crc = s.crc := rfl
@[simp] theorem setFrame_partners (s : State) (g : Issue → Issue) : (setFrame s g).partners = s.partners := rfl
@[simp] theorem setFrame_agenda (s : State) (g : Issue → Issue) : (setFrame s g).agenda = s.agenda := rfl
@[simp] theorem setFrame_pace (s : State) (g : Issue → Issue) : (setFrame s g).pace = s.pace := rfl
@[simp] theorem setFrame_nextId (s : State) (g : Issue → Issue) : (setFrame s g).nextId = s.nextId := rfl
@[simp] theorem setFrame_nearNext (s : State) (g : Issue → Issue) : (setFrame s g).nearNext = s.nearNext := rfl
@[simp] theorem setFrame_free (s : State) (g : Issue → Issue) : (setFrame s g).free = s.free := rfl
theorem setFrame_issue (s : State) (g : Issue → Issue) : (setFrame s g).issue = s.issue.map g := rfl

/-! frameCtx. -/

@[simp] theorem frameCtx_tsc (s : State) (f : Issue) (g : Ctx → Ctx) : (frameCtx s f g).tsc = s.tsc := rfl
@[simp] theorem frameCtx_half (s : State) (f : Issue) (g : Ctx → Ctx) : (frameCtx s f g).half = s.half := rfl
@[simp] theorem frameCtx_gangs (s : State) (f : Issue) (g : Ctx → Ctx) : (frameCtx s f g).gangs = s.gangs := rfl
@[simp] theorem frameCtx_cmds (s : State) (f : Issue) (g : Ctx → Ctx) : (frameCtx s f g).cmds = s.cmds := rfl
@[simp] theorem frameCtx_acc (s : State) (f : Issue) (g : Ctx → Ctx) : (frameCtx s f g).acc = s.acc := rfl
@[simp] theorem frameCtx_mem (s : State) (f : Issue) (g : Ctx → Ctx) : (frameCtx s f g).mem = s.mem := rfl
@[simp] theorem frameCtx_poison (s : State) (f : Issue) (g : Ctx → Ctx) : (frameCtx s f g).poison = s.poison := rfl
@[simp] theorem frameCtx_bad (s : State) (f : Issue) (g : Ctx → Ctx) : (frameCtx s f g).bad = s.bad := rfl
@[simp] theorem frameCtx_tcache (s : State) (f : Issue) (g : Ctx → Ctx) : (frameCtx s f g).tcache = s.tcache := rfl
@[simp] theorem frameCtx_wcache (s : State) (f : Issue) (g : Ctx → Ctx) : (frameCtx s f g).wcache = s.wcache := rfl
@[simp] theorem frameCtx_l2 (s : State) (f : Issue) (g : Ctx → Ctx) : (frameCtx s f g).l2 = s.l2 := rfl
@[simp] theorem frameCtx_mdcache (s : State) (f : Issue) (g : Ctx → Ctx) : (frameCtx s f g).mdcache = s.mdcache := rfl
@[simp] theorem frameCtx_malformed (s : State) (f : Issue) (g : Ctx → Ctx) : (frameCtx s f g).malformed = s.malformed := rfl
@[simp] theorem frameCtx_resident (s : State) (f : Issue) (g : Ctx → Ctx) : (frameCtx s f g).resident = s.resident := rfl
@[simp] theorem frameCtx_parts (s : State) (f : Issue) (g : Ctx → Ctx) : (frameCtx s f g).parts = s.parts := rfl
@[simp] theorem frameCtx_vfs (s : State) (f : Issue) (g : Ctx → Ctx) : (frameCtx s f g).vfs = s.vfs := rfl
@[simp] theorem frameCtx_mail (s : State) (f : Issue) (g : Ctx → Ctx) : (frameCtx s f g).mail = s.mail := rfl
@[simp] theorem frameCtx_msix (s : State) (f : Issue) (g : Ctx → Ctx) : (frameCtx s f g).msix = s.msix := rfl
@[simp] theorem frameCtx_masked (s : State) (f : Issue) (g : Ctx → Ctx) : (frameCtx s f g).masked = s.masked := rfl
@[simp] theorem frameCtx_noticeNext (s : State) (f : Issue) (g : Ctx → Ctx) : (frameCtx s f g).noticeNext = s.noticeNext := rfl
@[simp] theorem frameCtx_boot (s : State) (f : Issue) (g : Ctx → Ctx) : (frameCtx s f g).boot = s.boot := rfl
@[simp] theorem frameCtx_units (s : State) (f : Issue) (g : Ctx → Ctx) : (frameCtx s f g).units = s.units := rfl
@[simp] theorem frameCtx_found (s : State) (f : Issue) (g : Ctx → Ctx) : (frameCtx s f g).found = s.found := rfl
@[simp] theorem frameCtx_stored (s : State) (f : Issue) (g : Ctx → Ctx) : (frameCtx s f g).stored = s.stored := rfl
@[simp] theorem frameCtx_running (s : State) (f : Issue) (g : Ctx → Ctx) : (frameCtx s f g).running = s.running := rfl
@[simp] theorem frameCtx_pushing (s : State) (f : Issue) (g : Ctx → Ctx) : (frameCtx s f g).pushing = s.pushing := rfl
@[simp] theorem frameCtx_node (s : State) (f : Issue) (g : Ctx → Ctx) : (frameCtx s f g).node = s.node := rfl
@[simp] theorem frameCtx_rg (s : State) (f : Issue) (g : Ctx → Ctx) : (frameCtx s f g).rg = s.rg := rfl
@[simp] theorem frameCtx_q (s : State) (f : Issue) (g : Ctx → Ctx) : (frameCtx s f g).q = s.q := rfl
@[simp] theorem frameCtx_dims (s : State) (f : Issue) (g : Ctx → Ctx) : (frameCtx s f g).dims = s.dims := rfl
@[simp] theorem frameCtx_feed (s : State) (f : Issue) (g : Ctx → Ctx) : (frameCtx s f g).feed = s.feed := rfl
@[simp] theorem frameCtx_throttled (s : State) (f : Issue) (g : Ctx → Ctx) : (frameCtx s f g).throttled = s.throttled := rfl
@[simp] theorem frameCtx_throttles (s : State) (f : Issue) (g : Ctx → Ctx) : (frameCtx s f g).throttles = s.throttles := rfl
@[simp] theorem frameCtx_temps (s : State) (f : Issue) (g : Ctx → Ctx) : (frameCtx s f g).temps = s.temps := rfl
@[simp] theorem frameCtx_health (s : State) (f : Issue) (g : Ctx → Ctx) : (frameCtx s f g).health = s.health := rfl
@[simp] theorem frameCtx_weights (s : State) (f : Issue) (g : Ctx → Ctx) : (frameCtx s f g).weights = s.weights := rfl
@[simp] theorem frameCtx_risk (s : State) (f : Issue) (g : Ctx → Ctx) : (frameCtx s f g).risk = s.risk := rfl
@[simp] theorem frameCtx_riskAt (s : State) (f : Issue) (g : Ctx → Ctx) : (frameCtx s f g).riskAt = s.riskAt := rfl
@[simp] theorem frameCtx_hostLines (s : State) (f : Issue) (g : Ctx → Ctx) : (frameCtx s f g).hostLines = s.hostLines := rfl
@[simp] theorem frameCtx_backInv (s : State) (f : Issue) (g : Ctx → Ctx) : (frameCtx s f g).backInv = s.backInv := rfl
@[simp] theorem frameCtx_hostData (s : State) (f : Issue) (g : Ctx → Ctx) : (frameCtx s f g).hostData = s.hostData := rfl
@[simp] theorem frameCtx_sends (s : State) (f : Issue) (g : Ctx → Ctx) : (frameCtx s f g).sends = s.sends := rfl
@[simp] theorem frameCtx_recvs (s : State) (f : Issue) (g : Ctx → Ctx) : (frameCtx s f g).recvs = s.recvs := rfl
@[simp] theorem frameCtx_known (s : State) (f : Issue) (g : Ctx → Ctx) : (frameCtx s f g).known = s.known := rfl
@[simp] theorem frameCtx_heldRows (s : State) (f : Issue) (g : Ctx → Ctx) : (frameCtx s f g).heldRows = s.heldRows := rfl
@[simp] theorem frameCtx_rings (s : State) (f : Issue) (g : Ctx → Ctx) : (frameCtx s f g).rings = s.rings := rfl
@[simp] theorem frameCtx_net (s : State) (f : Issue) (g : Ctx → Ctx) : (frameCtx s f g).net = s.net := rfl
@[simp] theorem frameCtx_crc (s : State) (f : Issue) (g : Ctx → Ctx) : (frameCtx s f g).crc = s.crc := rfl
@[simp] theorem frameCtx_partners (s : State) (f : Issue) (g : Ctx → Ctx) : (frameCtx s f g).partners = s.partners := rfl
@[simp] theorem frameCtx_agenda (s : State) (f : Issue) (g : Ctx → Ctx) : (frameCtx s f g).agenda = s.agenda := rfl
@[simp] theorem frameCtx_pace (s : State) (f : Issue) (g : Ctx → Ctx) : (frameCtx s f g).pace = s.pace := rfl
@[simp] theorem frameCtx_issue (s : State) (f : Issue) (g : Ctx → Ctx) : (frameCtx s f g).issue = s.issue := rfl
@[simp] theorem frameCtx_nextId (s : State) (f : Issue) (g : Ctx → Ctx) : (frameCtx s f g).nextId = s.nextId := rfl
@[simp] theorem frameCtx_nearNext (s : State) (f : Issue) (g : Ctx → Ctx) : (frameCtx s f g).nearNext = s.nearNext := rfl
@[simp] theorem frameCtx_free (s : State) (f : Issue) (g : Ctx → Ctx) : (frameCtx s f g).free = s.free := rfl

@[simp] theorem addAccess_acc (s : State) (a : Access) : (addAccess s a).acc = s.acc ++ [a] := rfl
@[simp] theorem addAccess_nextId (s : State) (a : Access) : (addAccess s a).nextId = a.id + 1 := rfl

end Sys2Proof.Machine
end

