-- ==== Sys2Proof/Laws/Tables.lean ====
section
/-! SUPPORT. Tables, memories, cores, contexts and registers: reading after writing, and that writing keeps the canonical
form. -/

namespace Sys2Proof.Machine

set_option Elab.async false

/-! Tables. -/

@[simp] theorem kget_kput_same {α : Type} (m : KMap α) (k : Nat) (v : α) : kget (kput m k v) k = some v := by
  induction m with
  | nil => simp [kput, kget]
  | cons h m ih =>
    obtain ⟨k', v'⟩ := h
    unfold kput
    split
    · simp [kget]
    · split
      · simp [kget]
      · rename_i h1 h2
        simp [kget, ih, show ¬ k' = k from fun e => h2 e.symm]

theorem kget_kput_ne {α : Type} (m : KMap α) (k n : Nat) (v : α) (h : n ≠ k) : kget (kput m k v) n = kget m n := by
  induction m with
  | nil => simp [kput, kget, h.symm]
  | cons e m ih =>
    obtain ⟨k', v'⟩ := e
    unfold kput
    split
    · simp [kget, h.symm]
    · split
      · rename_i h1 h2; subst h2; simp [kget, h.symm]
      · simp [kget, ih]

@[simp] theorem kgetD_kput_same {α : Type} (m : KMap α) (k : Nat) (v d : α) : kgetD (kput m k v) k d = v := by
  simp [kgetD]

theorem kgetD_kput_ne {α : Type} (m : KMap α) (k n : Nat) (v d : α) (h : n ≠ k) :
    kgetD (kput m k v) n d = kgetD m n d := by
  simp [kgetD, kget_kput_ne m k n v h]

theorem kwfFrom_le {α : Type} (m : KMap α) (a b : Nat) (h : a ≤ b) (w : kwfFrom b m = true) : kwfFrom a m = true := by
  cases m with
  | nil => rfl
  | cons e m => simp [kwfFrom] at *; exact ⟨by omega, w.2⟩

theorem kwfFrom_kput {α : Type} (m : KMap α) (b k : Nat) (v : α) (h : b ≤ k) (w : kwfFrom b m = true) :
    kwfFrom b (kput m k v) = true := by
  induction m generalizing b with
  | nil => simp [kput, kwfFrom, h]
  | cons e m ih =>
    obtain ⟨k', v'⟩ := e
    simp [kwfFrom] at w
    unfold kput
    split
    · simp [kwfFrom, h, w.2]; omega
    · split
      · rename_i h1 h2; subst h2; simp [kwfFrom, h, w.2]
      · simp [kwfFrom, w.1]; exact ih (k' + 1) (by omega) w.2

theorem kwf_kput {α : Type} (m : KMap α) (k : Nat) (v : α) (w : kwf m = true) : kwf (kput m k v) = true :=
  kwfFrom_kput m 0 k v (Nat.zero_le k) w

theorem kwfFrom_kdel {α : Type} (m : KMap α) (b k : Nat) (w : kwfFrom b m = true) : kwfFrom b (kdel m k) = true := by
  induction m generalizing b with
  | nil => rfl
  | cons e m ih =>
    obtain ⟨k', v'⟩ := e
    simp [kwfFrom] at w
    unfold kdel
    split
    · exact kwfFrom_le _ b (k' + 1) (by omega) (ih (k' + 1) w.2)
    · simp [kwfFrom, w.1]; exact ih (k' + 1) w.2

theorem kwf_kdel {α : Type} (m : KMap α) (k : Nat) (w : kwf m = true) : kwf (kdel m k) = true := kwfFrom_kdel m 0 k w

theorem kget_kdel_same {α : Type} (m : KMap α) (k : Nat) : kget (kdel m k) k = none := by
  induction m with
  | nil => rfl
  | cons e m ih =>
    obtain ⟨k', v'⟩ := e
    unfold kdel
    split
    · exact ih
    · rename_i h; simp [kget, h, ih]

theorem kget_kdel_ne {α : Type} (m : KMap α) (k n : Nat) (h : n ≠ k) : kget (kdel m k) n = kget m n := by
  induction m with
  | nil => rfl
  | cons e m ih =>
    obtain ⟨k', v'⟩ := e
    unfold kdel
    split
    · rename_i h'; subst h'; simp [kget, h.symm, ih]
    · simp [kget, ih]

theorem kwfFrom_filter {α : Type} (p : Nat × α → Bool) (m : KMap α) (b : Nat) (w : kwfFrom b m = true) :
    kwfFrom b (m.filter p) = true := by
  induction m generalizing b with
  | nil => rfl
  | cons e m ih =>
    obtain ⟨k, v⟩ := e
    simp [kwfFrom] at w
    rw [List.filter_cons]
    split
    · simp [kwfFrom, w.1]; exact ih (k + 1) w.2
    · exact kwfFrom_le _ b (k + 1) (by omega) (ih (k + 1) w.2)

theorem kget_kmod {α : Type} (m : KMap α) (k n : Nat) (g : α → α) :
    kget (kmod m k g) n = if n = k then (kget m k).map g else kget m n := by
  unfold kmod
  split
  · rename_i v h
    split
    · rename_i e; subst e; simp [h]
    · rename_i e; exact kget_kput_ne m k n _ e
  · rename_i h
    split
    · rename_i e; subst e; simp [h]
    · rfl

/-! Memory. -/

theorem Memory.wf_iff (m : Memory) : m.wf = true ↔ kwf m = true ∧ ∀ c ∈ m, c.2 ≠ 0#8 := by
  simp [Memory.wf]

theorem mem_kput {α : Type} (m : KMap α) (k : Nat) (v : α) (c : Nat × α) (h : c ∈ kput m k v) : c = (k, v) ∨ c ∈ m := by
  induction m with
  | nil => simpa [kput] using h
  | cons e m ih =>
    obtain ⟨k', v'⟩ := e
    unfold kput at h
    split at h
    · simpa using h
    · split at h
      · rcases List.mem_cons.1 h with h | h
        · exact .inl h
        · exact .inr (List.mem_cons_of_mem _ h)
      · rcases List.mem_cons.1 h with h | h
        · exact .inr (h ▸ List.mem_cons_self)
        · rcases ih h with h | h
          · exact .inl h
          · exact .inr (List.mem_cons_of_mem _ h)

theorem mem_kdel {α : Type} (m : KMap α) (k : Nat) (c : Nat × α) (h : c ∈ kdel m k) : c ∈ m := by
  induction m with
  | nil => simp [kdel] at h
  | cons e m ih =>
    obtain ⟨k', v'⟩ := e
    unfold kdel at h
    split at h
    · exact List.mem_cons_of_mem _ (ih h)
    · rcases List.mem_cons.1 h with h | h
      · simp [h]
      · simp [ih h]

/-- A write of one byte keeps the canonical form. -/
theorem memPut_wf (m : Memory) (a : Nat) (b : Byte) (w : m.wf = true) : (memPut m a b).wf = true := by
  rw [Memory.wf_iff] at *
  unfold memPut
  split
  · exact ⟨kwf_kdel m a w.1, fun c h => w.2 c (mem_kdel m a c h)⟩
  · rename_i hb
    refine ⟨kwf_kput m a b w.1, fun c h => ?_⟩
    rcases mem_kput m a b c h with h | h
    · subst h; exact hb
    · exact w.2 c h

/-- A write of bytes keeps the canonical form. -/
theorem memWrite_wf (m : Memory) (a : Nat) (l : List Byte) (w : m.wf = true) : (memWrite m a l).wf = true := by
  induction l generalizing m a with
  | nil => exact w
  | cons b l ih => exact ih _ _ (memPut_wf m a b w)

theorem memFilter_wf (m : Memory) (p : Host.Cell → Bool) (w : m.wf = true) : Memory.wf (m.filter p) = true := by
  rw [Memory.wf_iff] at *
  exact ⟨kwfFrom_filter p m 0 w.1, fun c h => w.2 c (List.mem_filter.1 h).1⟩

theorem memZero_wf (m : Memory) (a n : Nat) (w : m.wf = true) : (memZero m a n).wf = true := memFilter_wf m _ w

/-- Bytes read are those at their addresses. -/
theorem memRead_eq (m : Memory) (a n : Nat) : memRead m a n = (List.range n).map (fun i => memByte m (a + i)) := by
  induction n generalizing a with
  | zero => rfl
  | succ n ih =>
    rw [memRead, ih, List.range_succ_eq_map, List.map_cons, List.map_map]
    exact congrArg _ (List.map_congr_left fun i _ => by simp only [Function.comp]; congr 1; omega)

/-- A number laid out as n bytes has n bytes. -/
@[simp] theorem natBytes_length (v n : Nat) : (natBytes v n).length = n := by
  induction n generalizing v <;> simp_all [natBytes]

/-- The byte written is read back. -/
theorem memByte_memPut_same (m : Memory) (a : Nat) (b : Byte) : memByte (memPut m a b) a = b := by
  unfold memPut memByte
  split
  · rename_i h; simp [kgetD, kget_kdel_same m a, h]
  · simp

/-- Every other byte is left alone. -/
theorem memByte_memPut_ne (m : Memory) (a n : Nat) (b : Byte) (h : n ≠ a) : memByte (memPut m a b) n = memByte m n := by
  unfold memPut memByte
  split
  · simp [kgetD, kget_kdel_ne m a n h]
  · exact kgetD_kput_ne m a n b _ h

/-- Bytes outside a write are left alone. -/
theorem memByte_memWrite_out (m : Memory) (a n : Nat) (l : List Byte) (h : n < a ∨ a + l.length ≤ n) :
    memByte (memWrite m a l) n = memByte m n := by
  induction l generalizing m a with
  | nil => rfl
  | cons b l ih =>
    simp [memWrite] at *
    rw [ih _ _ (by omega), memByte_memPut_ne m a n b (by omega)]

/-- Bytes written are read back. -/
theorem memByte_memWrite_in (m : Memory) (a i : Nat) (l : List Byte) (h : i < l.length) :
    memByte (memWrite m a l) (a + i) = l[i] := by
  induction l generalizing m a i with
  | nil => simp at h
  | cons b l ih =>
    cases i with
    | zero =>
      simp only [memWrite, Nat.add_zero, List.getElem_cons_zero]
      rw [memByte_memWrite_out _ _ _ _ (by omega)]
      exact memByte_memPut_same m a b
    | succ i =>
      have := ih (memPut m a b) (a + 1) i (by simpa using h)
      simp only [memWrite, List.getElem_cons_succ]
      rw [← this]; congr 1; omega

theorem reset_wf : State.reset.memoryWf = true := by rfl

/-! Cores and contexts. -/

@[simp] theorem coreOf_setCore_same (s : State) (n : Nat) (k : Core) : coreOf (setCore s n k) n = k := by
  simp [coreOf, setCore]

theorem coreOf_setCore_ne (s : State) (n m : Nat) (k : Core) (h : m ≠ n) : coreOf (setCore s n k) m = coreOf s m := by
  simp [coreOf, setCore, kgetD_kput_ne _ _ _ _ _ h]

@[simp] theorem coreOf_modCore_same (s : State) (n : Nat) (g : Core → Core) : coreOf (modCore s n g) n = g (coreOf s n) := by
  simp [modCore]

theorem coreOf_modCore_ne (s : State) (n m : Nat) (g : Core → Core) (h : m ≠ n) : coreOf (modCore s n g) m = coreOf s m :=
  coreOf_setCore_ne s n m _ h

@[simp] theorem Core.ctx_setCtx_same (k : Core) (i : CtxId) (x : Ctx) : (k.setCtx i x).ctx i = x := by cases i <;> rfl

theorem Core.ctx_setCtx_ne (k : Core) (i j : CtxId) (x : Ctx) (h : j ≠ i) : (k.setCtx i x).ctx j = k.ctx j := by
  cases i <;> cases j <;> first | rfl | exact absurd rfl h

@[simp] theorem Core.setCtx_setCtx (k : Core) (i : CtxId) (x y : Ctx) : (k.setCtx i x).setCtx i y = k.setCtx i y := by
  cases i <;> rfl

@[simp] theorem Core.setCtx_ctx (k : Core) (i : CtxId) : k.setCtx i (k.ctx i) = k := by cases i <;> rfl

@[simp] theorem Core.setCtx_sp (k : Core) (i : CtxId) (x : Ctx) : (k.setCtx i x).sp = k.sp := by cases i <;> rfl

@[simp] theorem Core.setCtx_task (k : Core) (i : CtxId) (x : Ctx) : (k.setCtx i x).task = k.task := by cases i <;> rfl

@[simp] theorem coreOf_setCtx_same (s : State) (n : Nat) (i : CtxId) (x : Ctx) :
    coreOf (setCtx s n i x) n = (coreOf s n).setCtx i x := by simp [setCtx]

theorem coreOf_setCtx_ne (s : State) (n m : Nat) (i : CtxId) (x : Ctx) (h : m ≠ n) :
    coreOf (setCtx s n i x) m = coreOf s m := coreOf_setCore_ne s n m _ h

@[simp] theorem ctxOf_setCtx_same (s : State) (n : Nat) (i : CtxId) (x : Ctx) : ctxOf (setCtx s n i x) n i = x := by
  simp [ctxOf]

@[simp] theorem coreOf_modCtx_same (s : State) (n : Nat) (i : CtxId) (g : Ctx → Ctx) :
    coreOf (modCtx s n i g) n = (coreOf s n).setCtx i (g (ctxOf s n i)) := by simp [modCtx]

theorem coreOf_modCtx_ne (s : State) (n m : Nat) (i : CtxId) (g : Ctx → Ctx) (h : m ≠ n) :
    coreOf (modCtx s n i g) m = coreOf s m := coreOf_setCtx_ne s n m i _ h

@[simp] theorem ctxOf_modCtx_same (s : State) (n : Nat) (i : CtxId) (g : Ctx → Ctx) :
    ctxOf (modCtx s n i g) n i = g (ctxOf s n i) := by simp [modCtx]

@[simp] theorem ctxOf_frameCtx (s : State) (f : Issue) (g : Ctx → Ctx) :
    ctxOf (frameCtx s f g) f.core f.ctx = g (ctxOf s f.core f.ctx) := by simp [frameCtx]

@[simp] theorem coreOf_frameCtx_same (s : State) (f : Issue) (g : Ctx → Ctx) :
    coreOf (frameCtx s f g) f.core = (coreOf s f.core).setCtx f.ctx (g (ctxOf s f.core f.ctx)) := by simp [frameCtx]

theorem coreOf_frameCtx_ne (s : State) (f : Issue) (g : Ctx → Ctx) (m : Nat) (h : m ≠ f.core) :
    coreOf (frameCtx s f g) m = coreOf s m := coreOf_modCtx_ne s f.core m f.ctx g h

@[simp] theorem taskOf_frameCtx (s : State) (f : Issue) (g : Ctx → Ctx) (n : Nat) : taskOf (frameCtx s f g) n = taskOf s n := by
  by_cases h : n = f.core
  · subst h; simp [taskOf]
  · simp [taskOf, coreOf_frameCtx_ne s f g n h]

@[simp] theorem frameTask_frameCtx (s : State) (f : Issue) (g : Ctx → Ctx) : frameTask (frameCtx s f g) f = frameTask s f := by
  simp [frameTask]

/-! Registers and predicates. -/

@[simp] theorem Ctx.reg_zero (c : Ctx) : c.reg 0#6 = XReg.zero := by simp [Ctx.reg]

theorem Ctx.reg_setReg_same (c : Ctx) (r : RegNo) (v : XReg) (h : r ≠ 0#6) : (c.setReg r v).reg r = v := by
  simp [Ctx.reg, Ctx.setReg, h]

theorem Ctx.reg_setReg_ne (c : Ctx) (r q : RegNo) (v : XReg) (h : q ≠ r) : (c.setReg r v).reg q = c.reg q := by
  unfold Ctx.reg Ctx.setReg
  split
  · rfl
  · split
    · rfl
    · simp only
      rw [Vector.getElem_set_ne]
      intro e
      exact h (BitVec.eq_of_toNat_eq e.symm)

theorem Ctx.setReg_only (c : Ctx) (r : RegNo) (v : XReg) : { c.setReg r v with x := c.x } = c := by
  unfold Ctx.setReg; split <;> rfl

theorem Ctx.writeX_eq (c : Ctx) (r : RegNo) (slot : Nat) (v : Word) :
    ∃ n a, c.writeX r slot v = c.setReg r { val := v, mark := none, pend := (c.reg r).pend, rank := n, acq := a } := by
  unfold Ctx.writeX
  simp only
  split
  · rename_i h
    rw [List.isEmpty_iff] at h
    exact ⟨0, [], by rw [h]; rfl⟩
  · split
    · exact ⟨slot + 1, [], rfl⟩
    · exact ⟨(c.reg r).rank, [], rfl⟩

theorem SameReg.refl (c : Ctx) (q : RegNo) : SameReg c c q := ⟨rfl, rfl, rfl, rfl⟩

theorem SameReg.trans {c d e : Ctx} {q : RegNo} (h : SameReg c d q) (g : SameReg d e q) : SameReg c e q :=
  ⟨g.1.trans h.1, g.2.1.trans h.2.1, g.2.2.1.trans h.2.2.1, g.2.2.2.trans h.2.2.2⟩

theorem OnlyRegs.refl (c : Ctx) : OnlyRegs c c := rfl

theorem OnlyRegs.trans {c d e : Ctx} (h : OnlyRegs c d) (g : OnlyRegs d e) : OnlyRegs c e := by
  unfold OnlyRegs at *
  rw [← h, ← g]

theorem SameReg.of_reg {c d : Ctx} {q : RegNo} {r : XReg} (h : d.reg q = r) (v : r.val = (c.reg q).val)
    (m : r.mark = (c.reg q).mark) (p : r.pend = (c.reg q).pend) (k : r.rank = (c.reg q).rank) : SameReg c d q := by
  unfold SameReg; rw [h]; exact ⟨v, m, p, k⟩

theorem Ctx.setReg_same (c : Ctx) (r q : RegNo) (a : List Nat) : SameReg c (c.setReg r { c.reg r with acq := a }) q := by
  by_cases hz : r = 0#6
  · subst hz; exact SameReg.refl c q
  · by_cases h : q = r
    · subst h; exact SameReg.of_reg (Ctx.reg_setReg_same c q _ hz) rfl rfl rfl rfl
    · exact SameReg.of_reg (Ctx.reg_setReg_ne c r q _ h) rfl rfl rfl rfl

/-- Acquiring changes what registers have to pass on, and nothing that they hold. -/
theorem Ctx.acquire_same (c : Ctx) (rs : List RegNo) :
    OnlyRegs c (c.acquire rs) ∧ ∀ q, SameReg c (c.acquire rs) q := by
  induction rs generalizing c with
  | nil => exact ⟨OnlyRegs.refl c, SameReg.refl c⟩
  | cons r rs ih =>
    have step : OnlyRegs c (c.acquire [r]) ∧ ∀ q, SameReg c (c.acquire [r]) q := by
      simp only [Ctx.acquire, List.foldl]
      split
      · exact ⟨OnlyRegs.refl c, SameReg.refl c⟩
      · constructor
        · unfold OnlyRegs Ctx.setReg; split <;> rfl
        · exact fun q => c.setReg_same r q []
    have e : c.acquire (r :: rs) = (c.acquire [r]).acquire rs := rfl
    rw [e]
    exact ⟨step.1.trans (ih _).1, fun q => (step.2 q).trans ((ih _).2 q)⟩

/-- A register write changes one register, and not x0. -/
theorem Ctx.writeX_only (c : Ctx) (r : RegNo) (slot : Nat) (v : Word) : OnlyRegs c (c.writeX r slot v) := by
  obtain ⟨n, a, e⟩ := c.writeX_eq r slot v
  rw [e]; unfold OnlyRegs Ctx.setReg; split <;> rfl

theorem Ctx.writeX_self (c : Ctx) (r : RegNo) (slot : Nat) (v : Word) (h : r ≠ 0#6) :
    ((c.writeX r slot v).reg r).val = v ∧ ((c.writeX r slot v).reg r).mark = none ∧
    ((c.writeX r slot v).reg r).pend = (c.reg r).pend := by
  obtain ⟨n, a, e⟩ := c.writeX_eq r slot v
  simp [e, Ctx.reg_setReg_same c r _ h]

theorem Ctx.writeX_other (c : Ctx) (r q : RegNo) (slot : Nat) (v : Word) (h : q ≠ r ∨ q = 0#6) :
    SameReg c (c.writeX r slot v) q := by
  obtain ⟨n, a, e⟩ := c.writeX_eq r slot v
  rw [e]
  by_cases hz : q = 0#6
  · subst hz; simp [SameReg]
  · have := Ctx.reg_setReg_ne c r q { val := v, mark := none, pend := (c.reg r).pend, rank := n, acq := a }
      (h.resolve_right hz)
    exact ⟨congrArg XReg.val this, congrArg XReg.mark this, congrArg XReg.pend this, congrArg XReg.rank this⟩

theorem Ctx.emptyX_only (c : Ctx) (r : RegNo) (p : PendFill) : OnlyRegs c (c.emptyX r p) := by
  unfold OnlyRegs Ctx.emptyX Ctx.setReg; simp only; split <;> rfl

theorem Ctx.emptyX_other (c : Ctx) (r q : RegNo) (p : PendFill) (h : q ≠ r ∨ q = 0#6) : SameReg c (c.emptyX r p) q := by
  by_cases hz : q = 0#6
  · subst hz; simp [SameReg]
  · have := Ctx.reg_setReg_ne c r q
      { c.reg r with pend := (c.reg r).pend ++ [p], acq := [], rank := if (c.reg r).pend.isEmpty then 0 else (c.reg r).rank }
      (h.resolve_right hz)
    exact ⟨congrArg XReg.val this, congrArg XReg.mark this, congrArg XReg.pend this, congrArg XReg.rank this⟩

theorem Ctx.emptyX_self (c : Ctx) (r : RegNo) (p : PendFill) (h : r ≠ 0#6) : (c.emptyX r p).fullX r = false := by
  simp [Ctx.fullX, Ctx.emptyX, Ctx.reg_setReg_same _ r _ h]

end Sys2Proof.Machine
end

