-- ==== Sys2Proof/Laws/Words.lean ====
section
/-! SUPPORT. What a word of a packet does once its packet's words act: one lemma for each shape of effect. -/

namespace Sys2Proof.Machine

set_option Elab.async false

/-- A word of a checked packet has its effect. -/
theorem issueWord_checked {w : Instr} {fault : Issue → State → Option (Nat × Word)} {fx : Issue → State → State}
    {s : State} {f : Issue} (h : Acting s f) :
    issueWord w fault fx s = .next (actWord (needsOf (coreOf s f.core) f.snap w) fx f s) := by
  simp [issueWord, h.1, h.2]

/-- No word without a frame acts. -/
theorem issueWord_none {w : Instr} {fault : Issue → State → Option (Nat × Word)} {fx : Issue → State → State}
    {s : State} (h : s.issue = none) : issueWord w fault fx s = .next s := by
  simp [issueWord, h]

theorem OnlyContext.of_frame (s : State) (f : Issue) (g : Ctx → Ctx) : OnlyContext s (frameCtx s f g) f.core f.ctx := by
  refine ⟨fun n hn => coreOf_frameCtx_ne s f g n hn, ?_⟩
  simp [ctxOf]

theorem OnlyContext.refl (s : State) (n : Nat) (i : CtxId) : OnlyContext s s n i := ⟨fun _ _ => rfl, by simp [ctxOf]⟩

theorem OnlyContext.trans {s t u : State} {n : Nat} {i : CtxId} (h : OnlyContext s t n i) (g : OnlyContext t u n i) :
    OnlyContext s u n i := by
  refine ⟨fun m hm => (g.1 m hm).trans (h.1 m hm), ?_⟩
  have a := h.2
  rw [← g.2] at a
  simpa using a

theorem OnlyContext.of_cores {s t u : State} {n : Nat} {i : CtxId} (h : OnlyContext s t n i) (e : u.cores = t.cores) :
    OnlyContext s u n i := by
  have c : ∀ m, coreOf u m = coreOf t m := fun m => by simp [coreOf, e]
  exact ⟨fun m hm => (c m).trans (h.1 m hm), by rw [c]; exact h.2⟩

theorem SameBytes.of_context {s t : State} {n : Nat} {i : CtxId} (h : OnlyContext s t n i) (e : t.mem = s.mem) :
    SameBytes s t := by
  refine ⟨fun a => by rw [e], fun m a => ?_⟩
  by_cases hm : m = n
  · subst hm
    have := congrArg Core.sp h.2
    simp at this
    rw [this]
  · rw [h.1 m hm]

theorem OnlyIssued.of_frame (s : State) (f : Issue) (g : Ctx → Ctx) : OnlyIssued s (frameCtx s f g) := rfl

theorem OnlyIssued.refl (s : State) : OnlyIssued s s := rfl

theorem OnlyIssued.trans {s t u : State} (h : OnlyIssued s t) (g : OnlyIssued t u) : OnlyIssued s u := by
  unfold OnlyIssued at *
  rw [← h, ← g]

theorem OnlyIssued.mem {s t : State} (h : OnlyIssued s t) : t.mem = s.mem := by
  unfold OnlyIssued at h
  have e := congrArg State.mem h
  exact e

theorem NothingIssued.refl (s : State) : NothingIssued s s := ⟨rfl, rfl, rfl, rfl⟩

/-- The state after a word's reads. -/
theorem acquired_state (s : State) (f : Issue) (rs : List RegNo) :
    let t := frameCtx s f (fun c => c.acquire rs)
    OnlyIssued s t ∧ NothingIssued s t ∧ OnlyContext s t f.core f.ctx ∧
    OnlyRegs (ctxOf s f.core f.ctx) (ctxOf t f.core f.ctx) ∧
    ∀ q, SameReg (ctxOf s f.core f.ctx) (ctxOf t f.core f.ctx) q := by
  refine ⟨rfl, ⟨rfl, rfl, rfl, rfl⟩, OnlyContext.of_frame s f _, ?_, ?_⟩
  · rw [ctxOf_frameCtx]; exact (Ctx.acquire_same _ rs).1
  · rw [ctxOf_frameCtx]; exact (Ctx.acquire_same _ rs).2

/-- A word whose effect is one register write gives its value. -/
theorem Gives.of_write {i : Instr} {s : State} {f : Issue} {xd : RegNo} {v : Word}
    {fault : Issue → State → Option (Nat × Word)} {val : Issue → State → Word} (h : Acting s f)
    (e : exec i s = issueWord i fault (writeReg xd val) s)
    (hv : ∀ rs, val f (frameCtx s f (fun c => c.acquire rs)) = v) : Gives i s f xd v := by
  rw [issueWord_checked h] at e
  refine ⟨_, e, ?_⟩
  generalize (needsOf (coreOf s f.core) f.snap i).src.map (fun r => r.1) = rs at *
  obtain ⟨a, b, c, d, r⟩ := acquired_state s f ((needsOf (coreOf s f.core) f.snap i).src.map (fun r => r.1))
  simp only [actWord, writeReg, hv]
  generalize frameCtx s f (fun c => c.acquire ((needsOf (coreOf s f.core) f.snap i).src.map (fun r => r.1))) = u at *
  have oc := c.trans (OnlyContext.of_frame u f (fun c => c.writeX xd f.slot v))
  have oi : OnlyIssued s (frameCtx u f (fun c => c.writeX xd f.slot v)) := a.trans (OnlyIssued.of_frame u f _)
  refine ⟨⟨oi, b, SameBytes.of_context oc oi.mem, oc, ?_⟩, ?_, ?_⟩
  · rw [ctxOf_frameCtx]; exact d.trans (Ctx.writeX_only _ _ _ _)
  · intro hx
    rw [ctxOf_frameCtx]
    obtain ⟨p, q, w⟩ := Ctx.writeX_self (ctxOf u f.core f.ctx) xd f.slot v hx
    exact ⟨p, q, w.trans (r xd).2.2.1⟩
  · intro q hq
    rw [ctxOf_frameCtx]
    exact (r q).trans (Ctx.writeX_other _ _ _ _ _ hq)

/-- A word whose effect is on the packet's frame. -/
theorem Steers.of_frame {i : Instr} {s : State} {f g : Issue} {fault : Issue → State → Option (Nat × Word)}
    {fx : Issue → State → State} (h : Acting s f) (e : exec i s = issueWord i fault fx s)
    (hf : ∀ u, u.issue = some f → fx f u = { u with issue := some g }) : Steers i s f g := by
  rw [issueWord_checked h] at e
  refine ⟨_, e, ?_⟩
  obtain ⟨a, b, c, d, r⟩ := acquired_state s f ((needsOf (coreOf s f.core) f.snap i).src.map (fun r => r.1))
  have hu := hf (frameCtx s f (fun c => c.acquire ((needsOf (coreOf s f.core) f.snap i).src.map (fun r => r.1)))) h.1
  simp only [actWord, hu]
  generalize frameCtx s f (fun c => c.acquire ((needsOf (coreOf s f.core) f.snap i).src.map (fun r => r.1))) = u at *
  have oc : OnlyContext s { u with issue := some g } f.core f.ctx := c.of_cores rfl
  exact ⟨by trivial, a, b.2.1, b.2.2.1, b.2.2.2, SameBytes.of_context oc a.mem, oc, d, r⟩

theorem Ctx.pred_setPred (c : Ctx) (n m : Nat) (b : Bool) (h : n ≠ 0) (k : n < 16) (hm : m ≠ 0) :
    (c.setPred n b).pred m = if m = n then b else c.pred m := by
  have e : ∀ j, (BitVec.ofNat 16 (2 ^ n)).getLsbD j = (decide (j < 16) && decide (n = j)) := fun j => by
    rw [BitVec.getLsbD_ofNat, Nat.testBit_two_pow]
  unfold Ctx.pred Ctx.setPred
  rw [if_neg h]
  generalize BitVec.ofNat 16 (2 ^ n) = u at e ⊢
  by_cases hj : m < 16
  · by_cases hmn : m = n
    · subst hmn; cases b <;> simp [e, hm, hj]
    · have e' : u.getLsbD m = false := by simp [e, show ¬ n = m from fun q => hmn q.symm]
      rw [BitVec.getLsbD_eq_getElem hj] at e'
      cases b <;> simp [hm, hj, hmn, e']
  · have : ¬ m = n := by omega
    simp [this, BitVec.getLsbD_of_ge _ _ (Nat.le_of_not_lt hj)]

theorem Ctx.pred_setPred_same (c : Ctx) (n : Nat) (b : Bool) (h : n ≠ 0) (k : n < 16) : (c.setPred n b).pred n = b := by
  rw [Ctx.pred_setPred c n n b h k h]; simp

theorem Ctx.pred_setPred_ne (c : Ctx) (n m : Nat) (b : Bool) (h : m ≠ n) (k : n < 16) :
    (c.setPred n b).pred m = c.pred m := by
  by_cases hn : n = 0
  · simp [Ctx.setPred, hn]
  · by_cases hm : m = 0
    · simp [Ctx.pred, hm]
    · rw [Ctx.pred_setPred c n m b hn k hm]; simp [h]

theorem Ctx.setPred_only (c : Ctx) (n : Nat) (b : Bool) : { c.setPred n b with p := c.p } = c := by
  unfold Ctx.setPred; split <;> rfl

theorem Ctx.reg_setPred (c : Ctx) (n : Nat) (b : Bool) (q : RegNo) : (c.setPred n b).reg q = c.reg q := by
  unfold Ctx.setPred; split <;> rfl

/-- A word whose effect is one predicate. -/
theorem Decides.of_write {i : Instr} {s : State} {f : Issue} {n : Nat} {fault : Issue → State → Option (Nat × Word)}
    {val : Issue → Bool} (h : Acting s f) (e : exec i s = issueWord i fault (writePred n val) s) (hn : n ≠ 0)
    (hk : n < 16) : Decides i s f n (val f) := by
  rw [issueWord_checked h] at e
  refine ⟨_, e, ?_⟩
  obtain ⟨a, b, c, d, r⟩ := acquired_state s f ((needsOf (coreOf s f.core) f.snap i).src.map (fun r => r.1))
  simp only [actWord, writePred]
  have hp : ∀ m, (ctxOf (frameCtx s f (fun c => c.acquire ((needsOf (coreOf s f.core) f.snap i).src.map (fun r => r.1))))
      f.core f.ctx).pred m = (ctxOf s f.core f.ctx).pred m := fun m => by
    have := congrArg Ctx.p d
    simp at this
    simp [Ctx.pred, this]
  generalize frameCtx s f (fun c => c.acquire ((needsOf (coreOf s f.core) f.snap i).src.map (fun r => r.1))) = u at *
  have oc := c.trans (OnlyContext.of_frame u f (fun c => c.setPred n (val f)))
  have oi : OnlyIssued s (frameCtx u f (fun c => c.setPred n (val f))) := a.trans (OnlyIssued.of_frame u f _)
  refine ⟨oi, b, SameBytes.of_context oc oi.mem, oc, ?_, ?_, ?_, ?_⟩
  · rw [ctxOf_frameCtx]
    have e1 : (ctxOf s f.core f.ctx).p = (ctxOf u f.core f.ctx).p := (congrArg Ctx.p d).symm
    rw [e1]
    rw [show ({ (ctxOf u f.core f.ctx).setPred n (val f) with p := (ctxOf u f.core f.ctx).p } : Ctx)
      = ctxOf u f.core f.ctx from Ctx.setPred_only _ n _]
    exact d
  · intro q
    rw [ctxOf_frameCtx]
    exact (r q).trans (SameReg.of_reg (Ctx.reg_setPred _ n _ q) rfl rfl rfl rfl)
  · rw [ctxOf_frameCtx]; exact Ctx.pred_setPred_same _ n _ hn hk
  · intro m hm
    rw [ctxOf_frameCtx, Ctx.pred_setPred_ne _ n m _ hm hk]
    exact hp m

end Sys2Proof.Machine
end

