-- ==== Sys2Proof/Laws/Commands.lean ====
section
/-! SUPPORT. What a word that issues an access, or sends a command to an engine, does: one lemma for each. -/

namespace Sys2Proof.Machine

set_option Elab.async false

theorem Ctx.emptyX_reg_self (c : Ctx) (r : RegNo) (p : PendFill) (h : r ≠ 0#6) :
    ((c.emptyX r p).reg r).pend = (c.reg r).pend ++ [p] ∧ ((c.emptyX r p).reg r).val = (c.reg r).val := by
  simp [Ctx.emptyX, Ctx.reg_setReg_same _ r _ h]

/-- What a register becomes as it is emptied, for the frame's statement. -/
theorem Ctx.emptyX_empties (c : Ctx) (q : RegNo) (n slot : Nat) : Empties c (c.emptyX q ⟨n, slot, 0⟩) q n slot := by
  by_cases hz : q = 0#6
  · have h := c.emptyX_other q q ⟨n, slot, 0⟩ (.inr hz)
    exact ⟨h.1, h.2.1, fun k => absurd hz k⟩
  · simp [Empties, Ctx.emptyX, Ctx.reg_setReg_same _ q _ hz]

/-- The same after reads, which leave every register. -/
theorem Empties.after {c d e : Ctx} {q : RegNo} {n slot : Nat} (h : SameReg c d q) (k : Empties d e q n slot) :
    Empties c e q n slot := by
  obtain ⟨a, b, p, _⟩ := h
  obtain ⟨a', b', p'⟩ := k
  exact ⟨a'.trans a, b'.trans b, fun z => by rw [p' z, p]⟩

theorem Ctx.emptyX_readX (c : Ctx) (r q : RegNo) (p : PendFill) : (c.emptyX r p).readX q = c.readX q := by
  unfold Ctx.readX
  by_cases h : q = r
  · subst h
    by_cases hz : q = 0#6
    · subst hz; simp
    · exact (c.emptyX_reg_self q p hz).2
  · exact (c.emptyX_other r q p (.inl h)).1

/-- A register that is empty stays so while others become empty. -/
theorem Ctx.emptyX_keeps_empty (c : Ctx) (r q : RegNo) (p : PendFill) (h : c.fullX q = false) :
    (c.emptyX r p).fullX q = false := by
  by_cases hq : q = r
  · subst hq
    by_cases hz : q = 0#6
    · subst hz; simp [Ctx.fullX, XReg.zero] at h
    · exact c.emptyX_self q p hz
  · unfold Ctx.fullX
    rw [(c.emptyX_other r q p (.inl hq)).2.2.1]; exact h

theorem emptyParts_readX (c : Ctx) (id slot : Nat) (rs : List RegNo) (part : Nat) (q : RegNo) :
    (emptyParts c id slot rs part).readX q = c.readX q := by
  induction rs generalizing c part with
  | nil => rfl
  | cons r rs ih => exact (ih _ _).trans (c.emptyX_readX r q _)

theorem emptyParts_keeps_empty (c : Ctx) (id slot : Nat) (rs : List RegNo) (part : Nat) (q : RegNo)
    (h : c.fullX q = false) : (emptyParts c id slot rs part).fullX q = false := by
  induction rs generalizing c part with
  | nil => exact h
  | cons r rs ih => exact ih _ _ (c.emptyX_keeps_empty r q _ h)

theorem emptyParts_empty (c : Ctx) (id slot : Nat) (rs : List RegNo) (part : Nat) (q : RegNo) (h : q ∈ rs) (hz : q ≠ 0#6) :
    (emptyParts c id slot rs part).fullX q = false := by
  induction rs generalizing c part with
  | nil => simp at h
  | cons r rs ih =>
    by_cases hr : q = r
    · subst hr; exact emptyParts_keeps_empty _ id slot rs _ q (c.emptyX_self q _ hz)
    · exact ih _ _ ((List.mem_cons.1 h).resolve_left hr)

theorem emptyParts_other (c : Ctx) (id slot : Nat) (rs : List RegNo) (part : Nat) (q : RegNo) (h : q ∉ rs ∨ q = 0#6) :
    SameReg c (emptyParts c id slot rs part) q := by
  induction rs generalizing c part with
  | nil => exact SameReg.refl c q
  | cons r rs ih =>
    refine (c.emptyX_other r q _ ?_).trans (ih _ _ ?_)
    · exact h.imp (fun k e => k (e ▸ List.mem_cons_self)) (fun e => e)
    · exact h.imp (fun k e => k (List.mem_cons_of_mem _ e)) (fun e => e)

theorem emptyParts_only (c : Ctx) (id slot : Nat) (rs : List RegNo) (part : Nat) :
    OnlyRegs c (emptyParts c id slot rs part) := by
  induction rs generalizing c part with
  | nil => rfl
  | cons r rs ih => exact (c.emptyX_only r _).trans (ih _ _)

theorem SameReg.readX {c d : Ctx} {q : RegNo} (h : SameReg c d q) : d.readX q = c.readX q := h.1

/-- A core that differs in one context only has the same other parts. -/
theorem OnlyContext.core {s t : State} {n : Nat} {i : CtxId} (h : OnlyContext s t n i) :
    coreOf t n = (coreOf s n).setCtx i (ctxOf t n i) := by
  rw [← h.2]; simp [ctxOf]

theorem takeEntry_setCtx (k : Core) (e : Cls) (i j : CtxId) (x : Ctx) :
    takeEntry (k.setCtx j x) e i = (takeEntry k e i).setCtx j x := by cases j <;> rfl

theorem takeEntry_ctx (k : Core) (e : Cls) (i j : CtxId) : (takeEntry k e i).ctx j = k.ctx j := by cases j <;> rfl

theorem takeEntry_only (k : Core) (e : Cls) (i : CtxId) :
    { takeEntry k e i with grants := k.grants, won := k.won, waiting := k.waiting } = k := rfl

/-- What dispatch does, after the word's reads: the command is the last of the list, its reply registers are empty, and
nothing else changes. -/
theorem SentTo.of_dispatch {s u : State} {f : Issue} {c : Cmd} {fills : List RegNo} (hc : c.core = f.core)
    (hid : c.id = s.nextId) (a : OnlyIssued s u) (b : NothingIssued s u) (o : OnlyContext s u f.core f.ctx)
    (d : OnlyRegs (ctxOf s f.core f.ctx) (ctxOf u f.core f.ctx))
    (r : ∀ q, SameReg (ctxOf s f.core f.ctx) (ctxOf u f.core f.ctx) q) : SentTo s (dispatch c fills f u) f fills c := by
  have hcore : coreOf (dispatch c fills f u) f.core =
      (takeEntry (coreOf s f.core) c.cls c.ctx).setCtx f.ctx (ctxOf (dispatch c fills f u) f.core f.ctx) := by
    have hu : coreOf { u with cmds := u.cmds ++ [c], nextId := c.id + 1 } f.core = coreOf u f.core := rfl
    simp only [dispatch, coreOf_frameCtx_same, ctxOf_frameCtx, hc, coreOf_modCore_same]
    rw [hu, o.core, takeEntry_setCtx, Core.setCtx_setCtx]
  have hx : ctxOf (dispatch c fills f u) f.core f.ctx = emptyParts (ctxOf u f.core f.ctx) c.id f.slot fills 0 := by
    simp only [dispatch, ctxOf_frameCtx, hc]
    congr 1
    show ((coreOf (modCore _ f.core _) f.core).ctx f.ctx) = _
    rw [coreOf_modCore_same, takeEntry_ctx]; rfl
  have hne : ∀ n, n ≠ f.core → coreOf (dispatch c fills f u) n = coreOf s n := fun n hn => by
    simp only [dispatch, hc]
    rw [coreOf_frameCtx_ne _ f _ n hn, coreOf_modCore_ne _ f.core n _ hn]
    exact o.1 n hn
  have hi : OnlyIssued s (dispatch c fills f u) := by
    unfold OnlyIssued at *
    rw [← a]; rfl
  refine ⟨?_, ?_, ?_, ?_, hi, ⟨fun x => by rw [hi.mem], fun n x => ?_⟩, hne, ?_, ?_, ?_, ?_, ?_⟩
  · show u.cmds ++ [c] = _; rw [b.2.2.1]
  · show c.id + 1 = _; rw [hid]
  · exact b.1
  · exact b.2.1
  · by_cases hn : n = f.core
    · subst hn; rw [hcore]; simp [takeEntry]
    · rw [hne n hn]
  · unfold OnlyQueues
    rw [hcore, Core.setCtx_setCtx, ← takeEntry_ctx (coreOf s f.core) c.cls c.ctx f.ctx, Core.setCtx_ctx]
    rfl
  · rw [hx]; exact d.trans (emptyParts_only _ _ _ _ _)
  · intro q hq hz; rw [hx]; exact emptyParts_empty _ _ _ _ _ _ hq hz
  · intro q; rw [hx, emptyParts_readX]; exact (r q).readX
  · intro q hq; rw [hx]; exact (r q).trans (emptyParts_other _ _ _ _ _ _ hq)

/-- A word that makes one access and empties registers. -/
theorem Accesses.of_load {i : Instr} {s : State} {f : Issue} {a : Access} {xd : RegNo}
    {fault : Issue → State → Option (Nat × Word)} {fx : Issue → State → State} (h : Acting s f)
    (e : exec i s = issueWord i fault fx s) (hid : a.id = s.nextId)
    (hf : ∀ rs, fx f (frameCtx s f (fun c => c.acquire rs)) =
      frameCtx (addAccess (frameCtx s f (fun c => c.acquire rs)) a) f (fun c => c.emptyX xd ⟨a.id, f.slot, 0⟩)) :
    Accesses i s f a [xd] := by
  rw [issueWord_checked h] at e
  refine ⟨_, e, ?_⟩
  obtain ⟨p, b, c, d, r⟩ := acquired_state s f ((needsOf (coreOf s f.core) f.snap i).src.map (fun r => r.1))
  simp only [actWord, hf]
  generalize frameCtx s f (fun c => c.acquire ((needsOf (coreOf s f.core) f.snap i).src.map (fun r => r.1))) = u at *
  have oc : OnlyContext s (addAccess u a) f.core f.ctx := c.of_cores rfl
  have oc := oc.trans (OnlyContext.of_frame (addAccess u a) f (fun c => c.emptyX xd ⟨a.id, f.slot, 0⟩))
  have oi : OnlyIssued s (frameCtx (addAccess u a) f (fun c => c.emptyX xd ⟨a.id, f.slot, 0⟩)) := by
    unfold OnlyIssued at *
    rw [← p]; rfl
  have hx : ctxOf (frameCtx (addAccess u a) f (fun c => c.emptyX xd ⟨a.id, f.slot, 0⟩)) f.core f.ctx =
      (ctxOf u f.core f.ctx).emptyX xd ⟨a.id, f.slot, 0⟩ := by rw [ctxOf_frameCtx]; rfl
  refine ⟨?_, ?_, b.1, b.2.2.1, oi, SameBytes.of_context oc oi.mem, oc, ?_, ?_, ?_⟩
  · show u.acc ++ [a] = _; rw [b.2.1]
  · show a.id + 1 = _; rw [hid]
  · rw [hx]; exact d.trans (Ctx.emptyX_only _ _ _)
  · intro q hq
    rw [List.mem_singleton] at hq
    subst hq
    rw [hx]; exact (Ctx.emptyX_empties _ _ _ _).after (r q)
  · intro q hq
    rw [hx]
    exact (r q).trans (Ctx.emptyX_other _ _ _ _ (hq.imp (fun k e => k (e ▸ List.mem_singleton.2 rfl)) (fun e => e)))

/-- A word that sends a command: fx is one dispatch, of a command with the property P. -/
theorem Sends.of_dispatch {i : Instr} {s : State} {f : Issue} {fault : Issue → State → Option (Nat × Word)}
    {fx : Issue → State → State} {fills : List RegNo} (P : Cmd → Prop) (h : Acting s f)
    (e : exec i s = issueWord i fault fx s)
    (hf : ∀ rs, ∃ c, fx f (frameCtx s f (fun c => c.acquire rs)) = dispatch c fills f (frameCtx s f (fun c => c.acquire rs)) ∧
      c.core = f.core ∧ c.id = s.nextId ∧ P c) : ∃ c, Sends i s f fills c ∧ P c := by
  rw [issueWord_checked h] at e
  obtain ⟨p, b, c, d, r⟩ := acquired_state s f ((needsOf (coreOf s f.core) f.snap i).src.map (fun r => r.1))
  obtain ⟨k, e1, e2, e3, e4⟩ := hf ((needsOf (coreOf s f.core) f.snap i).src.map (fun r => r.1))
  refine ⟨k, ⟨_, e, ?_⟩, e4⟩
  simp only [actWord, e1]
  exact SentTo.of_dispatch e2 e3 p b c d r

/-! The words of a class, by their class. -/

set_option maxHeartbeats 1000000 in
theorem exec_vector (i : Instr) (s : State) (h : wordCls i = some .vector) (hw : ∀ r, i ≠ .vwin r) (hf : i ≠ .vfence) :
    exec i s = issueWord i (vectorFault i) (issueVector i) s := by
  cases i <;> first | (cases h; done) | rfl | exact absurd rfl (hw _) | exact absurd rfl hf
set_option maxHeartbeats 1000000 in
theorem exec_atomic (i : Instr) (s : State) (h : wordCls i = some .atomic) :
    exec i s = issueWord i (atomicFault i) (issueAtomic i) s := by
  cases i <;> first | (cases h; done) | rfl
set_option maxHeartbeats 1000000 in
theorem exec_stash (i : Instr) (s : State) (h : wordCls i = some .stash) :
    exec i s = issueWord i (stashFault i) (issueStash i) s := by
  cases i <;> first | (cases h; done) | rfl
set_option maxHeartbeats 1000000 in
theorem exec_line (i : Instr) (s : State) (h : wordCls i = some .line) :
    exec i s = issueWord i (lineFault i) (issueLine i) s := by
  cases i <;> first | (cases h; done) | rfl
set_option maxHeartbeats 1000000 in
theorem exec_sched (i : Instr) (s : State) (h : wordCls i = some .sched) (hp : ∀ sc, i ≠ .prack sc) :
    exec i s = issueWord i noFault (issueSched i) s := by
  cases i <;> first | (cases h; done) | rfl | exact absurd rfl (hp _)

/-- A word of a packet does what exec does with it (R47). -/
theorem runWord_eq (i : Instr) (s : State) (h : isWord i = true) : runWord i s = exec i s := by
  cases i <;> first | (cases h; done) | rfl

end Sys2Proof.Machine
end

