-- ==== Sys2Proof/Laws/Events.lean ====
section
/-! SUPPORT. What the shared operations of events do: commands and accesses by number, partitions, fills, and bytes written at
their home. -/

namespace Sys2Proof.Machine

set_option Elab.async false

/-! Commands, accesses, partitions and gangs by number. -/

theorem find_map_ne {α : Type} (key : α → Nat) (l : List α) (n m : Nat) (g : α → α) (hg : ∀ c, key (g c) = key c) (h : m ≠ n) :
    (l.map (fun c => if key c = n then g c else c)).find? (fun c => key c == m) = l.find? (fun c => key c == m) := by
  induction l with
  | nil => rfl
  | cons c l ih =>
    simp only [List.map_cons, List.find?_cons]
    by_cases e : key c = n
    · have : (n == m) = false := by simpa using fun x => h x.symm
      rw [if_pos e, hg, e, this, ih]
    · rw [if_neg e, ih]

theorem find_map_same {α : Type} (key : α → Nat) (l : List α) (n : Nat) (g : α → α) (hg : ∀ c, key (g c) = key c) (c : α)
    (h : l.find? (fun c => key c == n) = some c) :
    (l.map (fun c => if key c = n then g c else c)).find? (fun c => key c == n) = some (g c) := by
  induction l with
  | nil => simp at h
  | cons d l ih =>
    simp only [List.map_cons, List.find?_cons] at h ⊢
    by_cases e : key d = n
    · rw [show (key d == n) = true by simpa using e] at h
      rw [if_pos e, hg, show (key d == n) = true by simpa using e]
      simp at h; rw [h]
    · rw [show (key d == n) = false by simpa using e] at h
      rw [if_neg e, show (key d == n) = false by simpa using e]; exact ih h

theorem cmdOf_modCmd_ne (s : State) (n m : Nat) (g : Cmd → Cmd) (hg : ∀ c, (g c).id = c.id) (h : m ≠ n) :
    cmdOf (modCmd s n g) m = cmdOf s m := find_map_ne _ s.cmds n m g hg h

theorem cmdOf_modCmd_same (s : State) (n : Nat) (g : Cmd → Cmd) (hg : ∀ c, (g c).id = c.id) (c : Cmd)
    (h : cmdOf s n = some c) : cmdOf (modCmd s n g) n = some (g c) := find_map_same _ s.cmds n g hg c h

theorem kget_map {α β : Type} (m : KMap α) (g : α → β) (n : Nat) :
    kget (m.map (fun k => (k.1, g k.2))) n = (kget m n).map g := by
  induction m with
  | nil => rfl
  | cons e m ih =>
    obtain ⟨k, v⟩ := e
    simp only [List.map_cons, kget]
    split <;> simp [ih]

theorem oldest_some (l : List Cmd) (c : Cmd) (hc : c ∈ l) (h : ∀ d ∈ l, d = c ∨ c.disp < d.disp) : oldestCmd l = some c := by
  have key : ∀ (l : List Cmd) (b : Option Cmd), (b = none ∨ ∃ d, b = some d ∧ (d = c ∨ c.disp < d.disp)) →
      (∀ d ∈ l, d = c ∨ c.disp < d.disp) → (b = some c ∨ c ∈ l) →
      l.foldl (fun b c =>
        match b with
        | none => some c
        | some x => if c.disp < x.disp then some c else some x) b = some c := by
    intro l
    induction l with
    | nil => intro b _ _ h; simpa using h
    | cons d l ih =>
      intro b hb hl hm
      have hd := hl d (by simp)
      have hl' : ∀ d ∈ l, d = c ∨ c.disp < d.disp := fun e he => hl e (by simp [he])
      simp only [List.foldl_cons]
      apply ih _ _ hl'
      · rcases hb with rfl | ⟨x, rfl, hx⟩
        · by_cases e : d = c
          · exact .inl (by simp [e])
          · right; simpa [Ne.symm e] using hm
        · rcases hm with hm | hm
          · simp at hm; subst hm
            rcases hd with rfl | hd
            · simp
            · left; simp [Nat.lt_asymm hd]
          · rcases List.mem_cons.1 hm with rfl | hm
            · rcases hx with rfl | hx
              · simp
              · left; simp [hx]
            · exact .inr hm
      · right
        rcases hb with rfl | ⟨x, rfl, hx⟩
        · exact ⟨d, rfl, hd⟩
        · dsimp only
          split
          · exact ⟨d, rfl, hd⟩
          · exact ⟨x, rfl, hx⟩
  exact key l none (.inl rfl) h (.inr hc)

theorem meets_iff (x y : Extent) : x.meets y = true ↔ x.Shares y := by
  have key : ∀ g : Nat, (x.lo < x.hi ∧ y.lo < y.hi ∧ x.lo / g ≤ (y.hi - 1) / g ∧ y.lo / g ≤ (x.hi - 1) / g) ↔
      (x.lo < x.hi ∧ y.lo < y.hi ∧ ∃ u, x.lo / g ≤ u ∧ u ≤ (x.hi - 1) / g ∧ y.lo / g ≤ u ∧ u ≤ (y.hi - 1) / g) := by
    intro g
    constructor
    · rintro ⟨b, c, d, e⟩
      have h1 : x.lo / g ≤ (x.hi - 1) / g := Nat.div_le_div_right (by omega)
      have h2 : y.lo / g ≤ (y.hi - 1) / g := Nat.div_le_div_right (by omega)
      exact ⟨b, c, max (x.lo / g) (y.lo / g), by omega⟩
    · rintro ⟨b, c, u, h⟩
      exact ⟨b, c, by omega, by omega⟩
  unfold Extent.meets Extent.Shares
  cases x.space <;> simp only [Bool.and_eq_true, decide_eq_true_eq, beq_iff_eq, and_assoc] <;> rw [key]


theorem find_filter_ne {α : Type} (key : α → Nat) (l : List α) (n m : Nat) (h : m ≠ n) :
    (l.filter (fun c => key c != n)).find? (fun c => key c == m) = l.find? (fun c => key c == m) := by
  induction l with
  | nil => rfl
  | cons c l ih =>
    by_cases e : key c = n
    · have g : (n == m) = false := by simpa using fun x => h x.symm
      simp [e, g, ih]
    · simp only [List.filter_cons, List.find?_cons]
      simp only [bne_iff_ne, ne_eq, e, not_false_eq_true, ↓reduceIte, List.find?_cons, ih]

theorem find_filter_same {α : Type} (key : α → Nat) (l : List α) (n : Nat) :
    (l.filter (fun c => key c != n)).find? (fun c => key c == n) = none := by
  simp [List.find?_eq_none]

theorem cmdOf_dropCmd_same (s : State) (n : Nat) : cmdOf (dropCmd s n) n = none := find_filter_same _ s.cmds n

theorem cmdOf_dropCmd_ne (s : State) (n m : Nat) (h : m ≠ n) : cmdOf (dropCmd s n) m = cmdOf s m :=
  find_filter_ne _ s.cmds n m h

theorem accOf_modAcc_same (s : State) (n : Nat) (g : Access → Access) (hg : ∀ c, (g c).id = c.id) (a : Access)
    (h : accOf s n = some a) : accOf (modAcc s n g) n = some (g a) := find_map_same _ s.acc n g hg a h

theorem accOf_modAcc_ne (s : State) (n m : Nat) (g : Access → Access) (hg : ∀ c, (g c).id = c.id) (h : m ≠ n) :
    accOf (modAcc s n g) m = accOf s m := find_map_ne _ s.acc n m g hg h

theorem partOf_modPart (s : State) (n m : Nat) (g : Partition → Partition) :
    partOf (modPart s n g) m = if m = n then (partOf s n).map g else partOf s m := kget_kmod s.parts n m g

theorem gangOf_modGang (s : State) (n m : Nat) (g : Gang → Gang) :
    gangOf (modGang s n g) m = if m = n then (gangOf s n).map g else gangOf s m := kget_kmod s.gangs n m g

/-! Fills. -/

theorem Ctx.reg_fill (c : Ctx) (n part : Nat) (v : Word) (m : Option Mark) (acq : List Nat) (q : RegNo) :
    (c.fill n part v m acq).reg q = if q = 0#6 then XReg.zero else (c.reg q).fill n part v m acq := by
  unfold Ctx.reg Ctx.fill
  split <;> simp

theorem Ctx.fill_only (c : Ctx) (n part : Nat) (v : Word) (m : Option Mark) (acq : List Nat) :
    OnlyRegs c (c.fill n part v m acq) := rfl

theorem XReg.fill_other (x : XReg) (n part : Nat) (v : Word) (m : Option Mark) (acq : List Nat) (h : ∀ p ∈ x.pend, p.id ≠ n) :
    x.fill n part v m acq = x := by
  have : x.pend.find? (fun p => p.id == n && p.part == part) = none := by
    rw [List.find?_eq_none]; intro p hp; simp [h p hp]
  unfold XReg.fill; rw [this]

theorem Ctx.fill_same (c : Ctx) (n part : Nat) (v : Word) (m : Option Mark) (acq : List Nat) (q : RegNo)
    (h : ∀ p ∈ (c.reg q).pend, p.id ≠ n) : SameReg c (c.fill n part v m acq) q := by
  unfold SameReg; rw [Ctx.reg_fill]
  by_cases hz : q = 0#6
  · subst hz; simp
  · simp [hz, XReg.fill_other _ n part v m acq h]

theorem Ctx.fill_awaits (c : Ctx) (n : Nat) (v : Word) (m : Option Mark) (acq : List Nat) (q : RegNo) (h : Awaits c q n) :
    ((c.fill n 0 v m acq).reg q).val = v ∧ ((c.fill n 0 v m acq).reg q).mark = m ∧ ((c.fill n 0 v m acq).reg q).pend = [] := by
  obtain ⟨hz, slot, hp, hr⟩ := h
  rw [Ctx.reg_fill, if_neg hz]
  unfold XReg.fill
  simp [hp, hr]

theorem OnlyContext.of_modCtx (s : State) (core : Nat) (i : CtxId) (g : Ctx → Ctx) : OnlyContext s (modCtx s core i g) core i :=
  ⟨fun n h => coreOf_modCtx_ne s core n i g h, by simp [ctxOf]⟩

theorem Filled.of_fill (s : State) (core : Nat) (i : CtxId) (n : Nat) (v : Word) (m : Option Mark) (acq : List Nat) :
    Filled s (modCtx s core i (fun c => c.fill n 0 v m acq)) core i n v m := by
  refine ⟨OnlyContext.of_modCtx s core i _, ?_, ?_, ?_⟩
  · rw [ctxOf_modCtx_same]; exact Ctx.fill_only ..
  · intro q hq; rw [ctxOf_modCtx_same]; exact Ctx.fill_awaits _ n v m acq q hq
  · intro q hq; rw [ctxOf_modCtx_same]; exact Ctx.fill_same _ n 0 v m acq q hq

/-! Bytes at their home. -/

theorem memByte_memWrite (m : Memory) (a n : Nat) (l : List Byte) :
    memByte (memWrite m a l) n = if a ≤ n ∧ n < a + l.length then l.getD (n - a) 0#8 else memByte m n := by
  split
  · rename_i h
    have := memByte_memWrite_in m a (n - a) l (by omega)
    rw [show a + (n - a) = n by omega] at this
    rw [this, List.getD_eq_getElem?_getD, List.getElem?_eq_getElem (by omega)]; rfl
  · exact memByte_memWrite_out m a n l (by omega)

/-- A far event writes its bytes at its place, and changes no other byte. -/
theorem Wrote.of_locWrite (s : State) (l : Loc) (data : List Byte) : Wrote s (locWrite s l data) l data := by
  cases l with
  | pa p => exact ⟨fun _ _ => rfl, fun a => memByte_memWrite s.mem p a data⟩
  | sp k o =>
    refine ⟨fun _ => rfl, fun n a => ?_⟩
    simp only [locWrite]
    by_cases h : n = k
    · subst h
      rw [coreOf_modCore_same]
      simp only [memByte_memWrite, true_and]
    · rw [coreOf_modCore_ne _ _ _ _ h]; simp [h]

end Sys2Proof.Machine
end

