-- ==== Sys2Proof/Laws/Engines.lean ====
section
/-! SUPPORT. What an engine's micro-operation does: the command that goes on, the rows that it writes to its core's scratchpad, and the
runs of bytes that it writes at generic addresses. -/

namespace Sys2Proof.Machine

set_option Elab.async false

/-- A micro-operation that is due runs. -/
theorem AtWork.exec_eq {s : State} {c : Cmd} {e : Cls} (h : AtWork s c e) : exec (.engineMicroOp c.id) s = .next (microOp s c) := by
  show Host.Outcome.next _ = _
  simp only [h.1, h.2.2, if_true]

/-- A command of a state, and another state in which commands have been changed by a map that keeps numbers. -/
theorem AtWork.works {s u : State} {c d e : Cmd} {cls : Cls} {f : Cmd → Cmd} (h : AtWork s c cls) (hf : ∀ x, (f x).id = x.id)
    (hu : cmdOf u c.id = some e) (hd : f e = d) (ho : microOp s c = modCmd u c.id f) : Works s c u d :=
  ⟨_, h.exec_eq, by rw [ho]; rfl, fun m hm => by rw [ho]; exact cmdOf_modCmd_ne u c.id m f hf hm,
    by rw [ho, ← hd]; exact cmdOf_modCmd_same u c.id f hf e hu⟩

/-! Rows of the own scratchpad. -/

theorem upFrom_eq (a n : Nat) : upFrom a n = (List.range n).map (fun i => a + i) := by
  induction n generalizing a with
  | zero => rfl
  | succ n ih =>
    rw [upFrom, ih, List.range_succ_eq_map, List.map_cons, List.map_map]
    simp only [Nat.add_zero, List.cons.injEq, true_and]
    exact List.map_congr_left (fun i _ => by simp; omega)

theorem placed_append (o : Nat) (a b : List Byte) : placed o (a ++ b) = placed o a ++ placed (o + a.length) b := by
  simp only [placed, upFrom_eq, List.length_append, List.range_add, List.map_append, List.map_map]
  rw [List.zip_append (by simp)]
  congr 2
  exact List.map_congr_left (fun i _ => by simp; omega)

theorem Stores.refl (s : State) (c : Cmd) (k : AccKind) : Stores s s c k [] := ⟨Nat.le_refl _, [], by simp⟩

theorem Stores.trans {s u v : State} {c : Cmd} {k : AccKind} {r q : List (Nat × List Byte)} (h : Stores s u c k r)
    (g : Stores u v c k q) : Stores s v c k (r ++ q) := by
  obtain ⟨h0, l, h1, h2, h3, h4, h5⟩ := h
  obtain ⟨g0, m, g1, g2, g3, g4, g5⟩ := g
  refine ⟨Nat.le_trans h0 g0, l ++ m, by rw [g1, h1, List.append_assoc], by rw [g2, h2, List.length_append]; omega, ?_, ?_,
    by rw [List.flatMap_append, List.flatMap_append, h5, g5]⟩
  · rw [← h3, ← g3]
  · intro a ha
    rcases List.mem_append.mp ha with ha | ha
    · exact h4 a ha
    · obtain ⟨a1, a2, a3, a4, a5, a6, a7⟩ := g4 a ha
      refine ⟨a1, a2, a3, a4, a5, ?_, a7⟩
      split at a6
      · rwa [if_pos ‹_›]
      · rw [if_neg ‹_›]; exact Nat.le_trans h0 a6

/-- Rows stored one after another. -/
theorem Stores.foldl {α : Type} {c : Cmd} {k : AccKind} (f : State → α → State) (r : α → Nat × List Byte) (l : List α) (s : State)
    (h : ∀ u, ∀ a ∈ l, Stores u (f u a) c k [r a]) : Stores s (l.foldl f s) c k (l.map r) := by
  induction l generalizing s with
  | nil => exact Stores.refl s c k
  | cons a l ih =>
    exact Stores.trans (h s a (by simp)) (ih (f s a) (fun u b hb => h u b (by simp [hb])))

/-- The same rows, cut otherwise. -/
theorem Stores.recut {s u : State} {c : Cmd} {k : AccKind} {r q : List (Nat × List Byte)} (h : Stores s u c k r)
    (e : r.flatMap (fun x => placed x.1 x.2) = q.flatMap (fun x => placed x.1 x.2)) : Stores s u c k q := by
  obtain ⟨h0, l, h1, h2, h3, h4, h5⟩ := h
  exact ⟨h0, l, h1, h2, h3, h4, h5.trans e⟩

theorem stores_engWrite (s : State) (c : Cmd) (ea : Word) (o : Nat) (d : List Byte) (hd : d ≠ [])
    (hg : o / 32 = (o + d.length - 1) / 32) : Stores s (engWrite s c 16 ea (.sp c.core o) d) c .eng [(o, d)] := by
  have hl : 0 < d.length := List.length_pos_iff.mpr hd
  have he : d.isEmpty = false := by cases d <;> simp_all
  rw [engWrite, he, if_neg (by simp)]
  exact ⟨Nat.le_succ _, [engAccess s c .eng s.nearNext 16 ea (.sp c.core o) d], rfl, rfl, rfl, by
    simp only [List.mem_singleton, forall_eq]
    exact ⟨rfl, rfl, rfl, rfl, rfl, Nat.le_refl _, o, rfl, hl, rfl, hg⟩, by simp [engAccess]⟩

theorem stores_engAdd (s : State) (c : Cmd) (o : Nat) (d : List Byte) (hd : d ≠ [])
    (hg : o / 32 = (o + d.length - 1) / 32) : Stores s (engAdd s c o d) c .acc [(o, d)] := by
  have hl : 0 < d.length := List.length_pos_iff.mpr hd
  have he : d.isEmpty = false := by cases d <;> simp_all
  rw [engAdd, he, if_neg (by simp)]
  exact ⟨Nat.le_refl _, [engAccess s c .acc 0 16 (BitVec.ofNat 64 o) (.sp c.core o) d], rfl, rfl, rfl, by
    simp only [List.mem_singleton, forall_eq]
    exact ⟨rfl, rfl, rfl, rfl, rfl, rfl, o, rfl, hl, rfl, hg⟩, by simp [engAccess]⟩

/-- Bytes cut at granules are pieces of one granule each. -/
theorem granuleCuts_mem (off : Nat) (d : List Byte) (fuel : Nat) (p : Nat × List Byte) (h : p ∈ granuleCuts off d fuel) :
    p.2 ≠ [] ∧ p.1 / 32 = (p.1 + p.2.length - 1) / 32 := by
  induction fuel generalizing off d with
  | zero => simp [granuleCuts] at h
  | succ n ih =>
    rw [granuleCuts] at h
    split at h
    · simp at h
    · rename_i hd
      rcases List.mem_cons.mp h with h | h
      · subst h
        have : 0 < d.length := by cases d <;> simp_all
        refine ⟨fun k => ?_, ?_⟩
        · have := congrArg List.length k
          simp only [List.length_take, List.length_nil] at this
          omega
        · simp only [List.length_take]; omega
      · exact ih _ _ h

/-- The pieces hold the bytes, each at its place. -/
theorem granuleCuts_placed (off : Nat) (d : List Byte) (fuel : Nat) (h : d.length < fuel) :
    (granuleCuts off d fuel).flatMap (fun p => placed p.1 p.2) = placed off d := by
  induction fuel generalizing off d with
  | zero => omega
  | succ n ih =>
    rw [granuleCuts]
    split
    · rename_i hd
      have : d = [] := by simpa using hd
      subst this; rfl
    · rename_i hd
      have hl : 0 < d.length := by cases d <;> simp_all
      rw [List.flatMap_cons, ih _ _ (by rw [List.length_drop]; omega)]
      conv => rhs; rw [← List.take_append_drop (32 - off % 32) d, placed_append]
      congr 1
      by_cases k : 32 - off % 32 ≤ d.length
      · rw [List.length_take, Nat.min_eq_left k]
      · rw [List.drop_of_length_le (by omega)]; rfl

/-- Rows written to the own scratchpad: what writeRows and addRows leave where nothing holds them. -/
theorem Unheld.storeRows_eq {s : State} {c : Cmd} (h : Unheld s c) (store : State → Cmd → Nat → List Byte → Nat → State)
    (rows : List (Nat × List Byte)) (done : State → State) :
    storeRows store s c rows done = done (rows.foldl (fun s r => store s c r.1 r.2 (r.2.length + 1)) s) := by
  have hn : rows.findSome? (fun r => engWriteBad s c r.1 r.2.length) = none := by
    rw [List.findSome?_eq_none_iff]
    intro r _
    simp [engWriteBad, h.1]
  have hh : rows.any (fun r => granuleHeld s c (.sp c.core r.1) r.2.length) = false := by
    rw [List.any_eq_false]
    intro r _
    simp only [granuleHeld, Bool.not_eq_true, List.any_eq_false]
    intro a ha
    simp [h.2 a ha]
  rw [storeRows, hn, hh]; rfl

theorem stores_engWriteSp (s : State) (c : Cmd) (o : Nat) (d : List Byte) :
    Stores s (engWriteSp s c c.core o d (d.length + 1)) c .eng [(o, d)] := by
  refine (Stores.foldl _ id _ s fun u p hp => ?_).recut (by
    rw [List.map_id, granuleCuts_placed o d _ (Nat.lt_succ_self _)]; simp)
  exact stores_engWrite u c _ p.1 p.2 (granuleCuts_mem o d _ p hp).1 (granuleCuts_mem o d _ p hp).2

theorem stores_engAddSp (s : State) (c : Cmd) (o : Nat) (d : List Byte) :
    Stores s (engAddSp s c o d (d.length + 1)) c .acc [(o, d)] := by
  refine (Stores.foldl _ id _ s fun u p hp => ?_).recut (by
    rw [List.map_id, granuleCuts_placed o d _ (Nat.lt_succ_self _)]; simp)
  exact stores_engAdd u c p.1 p.2 (granuleCuts_mem o d _ p hp).1 (granuleCuts_mem o d _ p hp).2

/-- writeRows, said once: the rows are written, and the micro-operation goes on from there. -/
theorem Unheld.writeRows_eq {s : State} {c : Cmd} (h : Unheld s c) (rows : List (Nat × List Byte)) (done : State → State) :
    ∃ u, Stores s u c .eng rows ∧ writeRows s c rows done = done u :=
  ⟨_, by simpa using Stores.foldl _ id rows s (fun u r _ => stores_engWriteSp u c r.1 r.2), h.storeRows_eq _ rows done⟩

/-- addRows, said once. -/
theorem Unheld.addRows_eq {s : State} {c : Cmd} (h : Unheld s c) (rows : List (Nat × List Byte)) (done : State → State) :
    ∃ u, Stores s u c .acc rows ∧ addRows s c rows done = done u :=
  ⟨_, by simpa using Stores.foldl _ id rows s (fun u r _ => stores_engAddSp u c r.1 r.2), h.storeRows_eq _ rows done⟩

end Sys2Proof.Machine
end

