-- ==== Sys2Proof/Laws/Mail.lean ====
section
/-! SUPPORT. How a mailbox command ends: one lemma for the end, one for a command that its function may send. -/

namespace Sys2Proof.Machine

set_option Elab.async false

theorem mailOf_same {t : State} {l : KMap Mailbox} {fn : Nat} {m : Mailbox} (h : t.mail = kput l fn m) : mailOf t fn = m := by
  simp [mailOf, h]

theorem mailOf_other {s t : State} {fn n : Nat} {m : Mailbox} (h : t.mail = kput s.mail fn m) (hn : n ≠ fn) :
    mailOf t n = mailOf s n := by
  simp [mailOf, h, kgetD, kget_kput_ne _ _ _ _ hn]

theorem mailOf_congr {s u : State} (h : u.mail = s.mail) (fn : Nat) : mailOf u fn = mailOf s fn := by simp [mailOf, h]

/-- The mailbox that a command leaves as it ends. -/
def endBox (m : Mailbox) (code : Nat) (reply : Option (List Byte)) : Mailbox :=
  { command := m.command &&& ~~~goBit
    status := BitVec.ofNat 64 (code % 2 ^ 16 * 2 ^ 48 + 0 % 2 ^ 48)
    payload := match reply with
      | some b => memWrite [] 0 b
      | none => m.payload
    waiting := none
    bell := m.bell }

/-- What raising a vector does: it adds one interrupt, where the table does not mask it (R408). -/
theorem raiseFn_eq (s : State) (fn vec : Nat) :
    raiseFn s fn vec = { s with msix := [(fn, vec)].filter (fun v => !s.masked.contains v) ++ s.msix } := by
  by_cases h : (fn, vec) ∈ s.masked <;> simp [raiseFn, h]

theorem endMail_eq (u : State) (fn code : Nat) (reply : Option (List Byte)) :
    endMail u fn code 0 reply =
      { u with
        mail := kput u.mail fn (endBox (mailOf u fn) code reply)
        msix := [(fn, 0)].filter (fun v => !u.masked.contains v) ++ u.msix } := raiseFn_eq _ _ _

theorem endMail_mail (u : State) (fn code : Nat) (reply : Option (List Byte)) :
    (endMail u fn code 0 reply).mail = kput u.mail fn (endBox (mailOf u fn) code reply) := by rw [endMail_eq]

/-- A command of a function ends in a state whose mailboxes are untouched (R401). -/
theorem Ends.of_endMail {s u : State} (fn code : Nat) (reply : Option (List Byte)) (hm : u.mail = s.mail)
    (hc : code < 2 ^ 16) : Ends s (endMail u fn code 0 reply) u fn code reply := by
  have e : mailOf u fn = mailOf s fn := mailOf_congr hm fn
  have h := endMail_mail u fn code reply
  refine ⟨?_, ?_, ?_, ?_, ?_, ?_, ?_, ?_⟩
  · rw [endMail_eq, ← hm]
  · rw [endMail_eq, Raises]
  · intro n hn; rw [mailOf_other h hn, mailOf_congr hm]
  · rw [mailOf_same h]; simp [endBox, goBit]
  · intro i hi
    rw [mailOf_same h, e]
    have : ∀ i, i < 63 → (~~~goBit).getLsbD i = true := by unfold goBit; decide
    simp only [endBox]
    rw [BitVec.getLsbD_and, this i hi, Bool.and_true]
  · rw [mailOf_same h]
    simp only [endBox, BitVec.toNat_ofNat]
    omega
  · rw [mailOf_same h]; rfl
  · rw [mailOf_same h, e]
    cases reply with
    | none => rfl
    | some b =>
      simp only [endBox]
      intro a
      rw [memByte_memWrite]
      split
      · simp
      · rw [List.getD_eq_getElem?_getD, List.getElem?_eq_none (by omega)]
        rfl

/-- What a command of a function does that the device accepts and that its function may send (R400, R401, R404). -/
theorem runMail_ends {s u : State} {fn op part code : Nat} {who : Who} {body : State → MailAns} {reply : Option (List Byte)}
    (h : Sent s fn op) (hb : bootCode s op = none) (hw : maySend s fn who part = true) (hy : body s = (some code, reply, u))
    (hm : u.mail = s.mail) (hc : code < 2 ^ 16) :
    Ends s (runMail s fn op who part body) u fn code reply := by
  obtain ⟨⟨h1, h2, h3⟩, h4⟩ := h
  unfold runMail
  simp only [h1, h2, h3, show mailBefore s fn = false from h4, hb, hw, hy]
  simpa using Ends.of_endMail fn code reply hm hc

/-- A command whose turn has not come waits (R402). -/
theorem runMail_waits {s : State} {fn op part : Nat} {who : Who} {body : State → MailAns} (h : mailBefore s fn = true) :
    runMail s fn op who part body = s := by
  unfold runMail
  simp [h]

/-- A command that the device turns away in its present state (R404, R416). -/
theorem runMail_refused {s : State} {fn op part code : Nat} {who : Who} {body : State → MailAns}
    (h : Sent s fn op) (hb : bootCode s op = some code) (hc : code < 2 ^ 16) :
    Ends s (runMail s fn op who part body) s fn code none := by
  obtain ⟨⟨h1, h2, h3⟩, h4⟩ := h
  unfold runMail
  simp only [h1, h2, h3, show mailBefore s fn = false from h4, hb]
  simpa using Ends.of_endMail fn code none rfl hc

/-- A command that its function may not send (R400, R403). -/
theorem runMail_denied {s : State} {fn op part : Nat} {who : Who} {body : State → MailAns}
    (h : Sent s fn op) (hb : bootCode s op = none) (hw : maySend s fn who part = false) :
    Ends s (runMail s fn op who part body) s fn 0x1082 none := by
  obtain ⟨⟨h1, h2, h3⟩, h4⟩ := h
  unfold runMail
  simp only [h1, h2, h3, show mailBefore s fn = false from h4, hb, hw]
  simpa using Ends.of_endMail fn 0x1082 none rfl (by decide)

theorem maySend_pf (s : State) (who : Who) (part : Nat) : maySend s 0 who part = true := by simp [maySend]

theorem maySend_control {s : State} {fn : Nat} {b : Binding} (h : bindingOf s fn = some b) (hc : b.control = true) (who : Who)
    (hw : who ≠ .pf) : maySend s fn who b.part = true := by
  unfold maySend
  split
  · rfl
  · rw [h]; cases who <;> simp_all

theorem partNamed_bound {s : State} {fn : Nat} {b : Binding} (h : bindingOf s fn = some b) (off : Nat) :
    partNamed s fn off = b.part := by simp [partNamed, h]

theorem bootCode_ready {s : State} (h : s.boot = .ready) (op : Nat) (ho : op ≠ 0x11) : bootCode s op = none := by
  simp [bootCode, h, ho]

theorem payDw_eq (s : State) (fn off : Nat) : payDw s fn off = payload s fn off := rfl

end Sys2Proof.Machine
end

