-- ==== Sys2Proof/Laws/PerInstr.lean ====
section
/-! SUPPORT. Laws of the encoding: the fields of a packed word, and the round trip of every instruction, one lemma per
constructor (R50 to R60). -/

namespace Sys2Proof.Laws

set_option Elab.async false

open Machine

theorem order_code_lt (o : Order) : o.code < 4 := by cases o <;> decide
theorem scope_code_lt (c : Scope) : c.code < 10 := by cases c <;> decide
theorem csr_code_lt (r : Csr) : r.code < 21 := by cases r <;> decide
theorem eng_code_lt (e : TplEng) : e.code < 3 := by cases e <;> decide
theorem side_code_lt (d : Side) : d.code < 2 := by cases d <;> decide

theorem order_of_code (o : Order) : orderOf o.code = o := by cases o <;> rfl
theorem scope_of_code (c : Scope) : scopeOf c.code = some c := by cases c <;> rfl
theorem csr_of_code (r : Csr) : csrOf r.code = some r := by cases r <;> rfl
theorem eng_of_code (e : TplEng) : engOf e.code = some e := by cases e <;> rfl
theorem side_of_code (d : Side) : (if d.code = 1 then Side.right else .left) = d := by cases d <;> rfl
theorem bit_of_toNat (b : Bool) : (b.toNat == 1) = b := by cases b <;> rfl

/-- A well-formed instruction that a word's class decodes to is what the word decodes to. -/
theorem decodeWord_of {op : Nat} {w : IWord} {i : Instr} (hf : wellFormed i = true) (h : decodeClass op w = .ok i) :
    decodeWord op w = .ok i := by simp [decodeWord, h, hf]

/-! The decoder of each class. -/

theorem decodeClass_0 {op : Nat} {w : IWord} (h : fld w 28 4 = 0) : decodeClass op w = decodeA w := by
  unfold decodeClass; rw [h]; rfl

theorem decodeClass_1 {op : Nat} {w : IWord} (h : fld w 28 4 = 1) : decodeClass op w = decodeI w := by
  unfold decodeClass; rw [h]; rfl

theorem decodeClass_2 {op : Nat} {w : IWord} (h : fld w 28 4 = 2) : decodeClass op w = decodeM w := by
  unfold decodeClass; rw [h]; rfl

theorem decodeClass_3 {op : Nat} {w : IWord} (h : fld w 28 4 = 3) : decodeClass op w = decodeB w := by
  unfold decodeClass; rw [h]; rfl

theorem decodeClass_4 {op : Nat} {w : IWord} (h : fld w 28 4 = 4) : decodeClass op w = decodeS w := by
  unfold decodeClass; rw [h]; rfl

theorem decodeClass_5 {op : Nat} {w : IWord} (h : fld w 28 4 = 5) : decodeClass op w = decodeW w := by
  unfold decodeClass; rw [h]; rfl

theorem decodeClass_8 {op : Nat} {w : IWord} (h : fld w 28 4 = 8) : decodeClass op w = decodeV w := by
  unfold decodeClass; rw [h]; rfl

theorem decodeClass_11 {op : Nat} {w : IWord} (h : fld w 28 4 = 11) : decodeClass op w = decodeAtomic w := by
  unfold decodeClass; rw [h]; rfl

theorem decodeClass_13 {op : Nat} {w : IWord} (h : fld w 28 4 = 13) : decodeClass op w = decodeStash w := by
  unfold decodeClass; rw [h]; rfl

theorem decodeClass_14 {op : Nat} {w : IWord} (h : fld w 28 4 = 14) : decodeClass op w = decodeLine w := by
  unfold decodeClass; rw [h]; rfl

theorem decodeClass_15 {op : Nat} {w : IWord} (h : fld w 28 4 = 15) : decodeClass op w = decodeSched w := by
  unfold decodeClass; rw [h]; rfl

theorem decodeClass_9 {op : Nat} {w : IWord} (h : fld w 28 4 = 9) (hp : patchOk .matrix w = true) :
    decodeClass op w = decodeMatrix op w := by
  unfold decodeClass; rw [h]; exact if_pos hp

theorem decodeClass_10 {op : Nat} {w : IWord} (h : fld w 28 4 = 10) (hp : patchOk .copy w = true) :
    decodeClass op w = decodeCopy op w := by
  unfold decodeClass; rw [h]; exact if_pos hp

theorem decodeClass_12 {op : Nat} {w : IWord} (h : fld w 28 4 = 12) (hp : patchOk .prism w = true) :
    decodeClass op w = decodePrism op w := by
  unfold decodeClass; rw [h]; exact if_pos hp

/-! The fields of each form. -/

theorem packA_toNat {op d a b f g n : Nat} (hop : op < 64) (hd : d < 64) (ha : a < 64) (hb : b < 64) (hf : f < 2) (hg : g < 2) (hn : n < 4) :
    (packA op d a b f g n).toNat = ((((((op * 64 + d) * 64 + a) * 64 + b) * 2 + f) * 2 + g) * 4 + n) := by
  simp only [packA, BitVec.toNat_ofNat]; omega

theorem fld_packA {op d a b f g n : Nat} (hop : op < 64) (hd : d < 64) (ha : a < 64) (hb : b < 64) (hf : f < 2) (hg : g < 2) (hn : n < 4) :
    (fld (packA op d a b f g n) 28 4 = 0) ∧
    fld (packA op d a b f g n) 22 6 = op ∧
    fld (packA op d a b f g n) 16 6 = d ∧
    fld (packA op d a b f g n) 10 6 = a ∧
    fld (packA op d a b f g n) 4 6 = b ∧
    fld (packA op d a b f g n) 3 1 = f ∧
    fld (packA op d a b f g n) 2 1 = g ∧
    fld (packA op d a b f g n) 0 2 = n := by
  simp only [fld, packA_toNat hop hd ha hb hf hg hn]
  refine ⟨?_, ?_, ?_, ?_, ?_, ?_, ?_, ?_⟩ <;> omega

theorem packI_toNat {op d a f i : Nat} (hop : op < 64) (hd : d < 64) (ha : a < 64) (hf : f < 2) (hi : i < 512) :
    (packI op d a f i).toNat = (((((1 * 64 + op) * 64 + d) * 64 + a) * 2 + f) * 512 + i) := by
  simp only [packI, BitVec.toNat_ofNat]; omega

theorem fld_packI {op d a f i : Nat} (hop : op < 64) (hd : d < 64) (ha : a < 64) (hf : f < 2) (hi : i < 512) :
    (fld (packI op d a f i) 28 4 = 1) ∧
    fld (packI op d a f i) 22 6 = op ∧
    fld (packI op d a f i) 16 6 = d ∧
    fld (packI op d a f i) 10 6 = a ∧
    fld (packI op d a f i) 9 1 = f ∧
    fld (packI op d a f i) 0 9 = i := by
  simp only [fld, packI_toNat hop hd ha hf hi]
  refine ⟨?_, ?_, ?_, ?_, ?_, ?_⟩ <;> omega

theorem packM_toNat {op c d a f i : Nat} (hop : op < 8) (hc : c < 16) (hd : d < 64) (ha : a < 64) (hf : f < 2) (hi : i < 256) :
    (packM op c d a f i).toNat = ((((((2 * 8 + op) * 16 + c) * 64 + d) * 64 + a) * 2 + f) * 256 + i) := by
  simp only [packM, BitVec.toNat_ofNat]; omega

theorem fld_packM {op c d a f i : Nat} (hop : op < 8) (hc : c < 16) (hd : d < 64) (ha : a < 64) (hf : f < 2) (hi : i < 256) :
    (fld (packM op c d a f i) 28 4 = 2) ∧
    fld (packM op c d a f i) 27 1 = op / 4 ∧
    fld (packM op c d a f i) 25 2 = op % 4 ∧
    fld (packM op c d a f i) 21 4 = c ∧
    fld (packM op c d a f i) 15 6 = d ∧
    fld (packM op c d a f i) 9 6 = a ∧
    fld (packM op c d a f i) 8 1 = f ∧
    fld (packM op c d a f i) 0 8 = i := by
  simp only [fld, packM_toNat hop hc hd ha hf hi]
  refine ⟨?_, ?_, ?_, ?_, ?_, ?_, ?_, ?_⟩ <;> omega

theorem packB_toNat {op a b f g o : Nat} (hop : op < 16) (ha : a < 64) (hb : b < 64) (hf : f < 2) (hg : g < 2) (ho : o < 1024) :
    (packB op a b f g o).toNat = ((((((3 * 16 + op) * 64 + a) * 64 + b) * 2 + f) * 2 + g) * 1024 + o) := by
  simp only [packB, BitVec.toNat_ofNat]; omega

theorem fld_packB {op a b f g o : Nat} (hop : op < 16) (ha : a < 64) (hb : b < 64) (hf : f < 2) (hg : g < 2) (ho : o < 1024) :
    (fld (packB op a b f g o) 28 4 = 3) ∧
    fld (packB op a b f g o) 24 4 = op ∧
    fld (packB op a b f g o) 18 6 = a ∧
    fld (packB op a b f g o) 12 6 = b ∧
    fld (packB op a b f g o) 11 1 = f ∧
    fld (packB op a b f g o) 10 1 = g ∧
    fld (packB op a b f g o) 0 10 = o := by
  simp only [fld, packB_toNat hop ha hb hf hg ho]
  refine ⟨?_, ?_, ?_, ?_, ?_, ?_, ?_⟩ <;> omega

theorem packS_toNat {op d a s : Nat} (hop : op < 64) (hd : d < 64) (ha : a < 64) (hs : s < 1024) :
    (packS op d a s).toNat = ((((4 * 64 + op) * 64 + d) * 64 + a) * 1024 + s) := by
  simp only [packS, BitVec.toNat_ofNat]; omega

theorem fld_packS {op d a s : Nat} (hop : op < 64) (hd : d < 64) (ha : a < 64) (hs : s < 1024) :
    (fld (packS op d a s) 28 4 = 4) ∧
    fld (packS op d a s) 22 6 = op ∧
    fld (packS op d a s) 16 6 = d ∧
    fld (packS op d a s) 10 6 = a ∧
    fld (packS op d a s) 0 10 = s := by
  simp only [fld, packS_toNat hop hd ha hs]
  refine ⟨?_, ?_, ?_, ?_, ?_⟩ <;> omega

theorem packW_toNat {d k i n z : Nat} (hd : d < 64) (hk : k < 4) (hi : i < 65536) (hn : n < 2) (hz : z < 8) :
    (packW d k i n z).toNat = (((((5 * 64 + d) * 4 + k) * 65536 + i) * 2 + n) * 8 + z) := by
  simp only [packW, BitVec.toNat_ofNat]; omega

theorem fld_packW {d k i n z : Nat} (hd : d < 64) (hk : k < 4) (hi : i < 65536) (hn : n < 2) (hz : z < 8) :
    (fld (packW d k i n z) 28 4 = 5) ∧
    fld (packW d k i n z) 22 6 = d ∧
    fld (packW d k i n z) 20 2 = k ∧
    fld (packW d k i n z) 4 16 = i ∧
    fld (packW d k i n z) 3 1 = n ∧
    fld (packW d k i n z) 0 3 = z := by
  simp only [fld, packW_toNat hd hk hi hn hz]
  refine ⟨?_, ?_, ?_, ?_, ?_, ?_⟩ <;> omega

theorem packV_toNat {x op d a b m : Nat} (hx : x < 2) (hop : op < 128) (hd : d < 64) (ha : a < 64) (hb : b < 64) (hm : m < 4) :
    (packV x op d a b m).toNat = ((((((8 * 2 + x) * 128 + op) * 64 + d) * 64 + a) * 64 + b) * 4 + m) := by
  simp only [packV, BitVec.toNat_ofNat]; omega

theorem fld_packV {x op d a b m : Nat} (hx : x < 2) (hop : op < 128) (hd : d < 64) (ha : a < 64) (hb : b < 64) (hm : m < 4) :
    (fld (packV x op d a b m) 28 4 = 8) ∧
    fld (packV x op d a b m) 27 1 = x ∧
    fld (packV x op d a b m) 20 7 = op ∧
    fld (packV x op d a b m) 14 6 = d ∧
    fld (packV x op d a b m) 8 6 = a ∧
    fld (packV x op d a b m) 2 6 = b ∧
    fld (packV x op d a b m) 0 2 = m := by
  simp only [fld, packV_toNat hx hop hd ha hb hm]
  refine ⟨?_, ?_, ?_, ?_, ?_, ?_, ?_⟩ <;> omega

theorem packP_toNat {c t f v : Nat} (hc : c < 16) (ht : t < 64) (hf : f < 64) (hv : v < 65536) :
    (packP c t f v).toNat = (((c * 64 + t) * 64 + f) * 65536 + v) := by
  simp only [packP, BitVec.toNat_ofNat]; omega

theorem fld_packP {c t f v : Nat} (hc : c < 16) (ht : t < 64) (hf : f < 64) (hv : v < 65536) :
    (fld (packP c t f v) 28 4 = c) ∧
    fld (packP c t f v) 22 6 = t ∧
    fld (packP c t f v) 16 6 = f ∧
    fld (packP c t f v) 0 16 = v := by
  simp only [fld, packP_toNat hc ht hf hv]
  refine ⟨?_, ?_, ?_, ?_⟩ <;> omega

theorem packE_toNat {c op o s d a b : Nat} (hc : c < 16) (hop : op < 32) (ho : o < 4) (hs : s < 16) (hd : d < 64) (ha : a < 64) (hb : b < 32) :
    (packE c op o s d a b).toNat = ((((((c * 32 + op) * 4 + o) * 16 + s) * 64 + d) * 64 + a) * 32 + b) := by
  simp only [packE, BitVec.toNat_ofNat]; omega

theorem fld_packE {c op o s d a b : Nat} (hc : c < 16) (hop : op < 32) (ho : o < 4) (hs : s < 16) (hd : d < 64) (ha : a < 64) (hb : b < 32) :
    (fld (packE c op o s d a b) 28 4 = c) ∧
    fld (packE c op o s d a b) 23 5 = op ∧
    fld (packE c op o s d a b) 21 2 = o ∧
    fld (packE c op o s d a b) 17 4 = s ∧
    fld (packE c op o s d a b) 11 6 = d ∧
    fld (packE c op o s d a b) 5 6 = a ∧
    fld (packE c op o s d a b) 0 5 = b := by
  simp only [fld, packE_toNat hc hop ho hs hd ha hb]
  refine ⟨?_, ?_, ?_, ?_, ?_, ?_, ?_⟩ <;> omega

/-- A word's encoding decodes to it (R50 to R60). -/
def RoundTrip.Statement (i : Instr) : Prop :=
  isWord i = true → wellFormed i = true → decodeWord (wordOp i) (encode i) = .ok i

theorem RoundTrip.add (xd : RegNo) (xa : RegNo) (xb : RegNo) (fa : Bool) (fb : Bool) :
    RoundTrip.Statement (.add xd xa xb fa fb) := by
  intro _ hf
  have h0 := xd.isLt
  have h1 := xa.isLt
  have h2 := xb.isLt
  have h3 := Bool.toNat_lt fa
  have h4 := Bool.toNat_lt fb
  obtain ⟨e0, e2, e4, e5, e6, e7, e8, e3⟩ := @fld_packA 0 xd.toNat xa.toNat xb.toNat fa.toNat fb.toNat 0 (by decide) (by omega) (by omega) (by omega) (by omega) (by omega) (by decide)
  generalize hx : packA 0 xd.toNat xa.toNat xb.toNat fa.toNat fb.toNat 0 = w at *
  refine decodeWord_of hf ?_
  rw [show encode (.add xd xa xb fa fb) = w from hx]
  rw [decodeClass_0 e0]
  unfold decodeA
  rw [e2]
  show take w [(0, 2, 0)] (.add (reg w 16) (reg w 10) (reg w 4) (bit w 3) (bit w 2)) = _
  simp [take, reg, bit, bit_of_toNat, e3, e4, e5, e6, e7, e8]

theorem RoundTrip.sub (xd : RegNo) (xa : RegNo) (xb : RegNo) (fa : Bool) (fb : Bool) :
    RoundTrip.Statement (.sub xd xa xb fa fb) := by
  intro _ hf
  have h0 := xd.isLt
  have h1 := xa.isLt
  have h2 := xb.isLt
  have h3 := Bool.toNat_lt fa
  have h4 := Bool.toNat_lt fb
  obtain ⟨e0, e2, e4, e5, e6, e7, e8, e3⟩ := @fld_packA 1 xd.toNat xa.toNat xb.toNat fa.toNat fb.toNat 0 (by decide) (by omega) (by omega) (by omega) (by omega) (by omega) (by decide)
  generalize hx : packA 1 xd.toNat xa.toNat xb.toNat fa.toNat fb.toNat 0 = w at *
  refine decodeWord_of hf ?_
  rw [show encode (.sub xd xa xb fa fb) = w from hx]
  rw [decodeClass_0 e0]
  unfold decodeA
  rw [e2]
  show take w [(0, 2, 0)] (.sub (reg w 16) (reg w 10) (reg w 4) (bit w 3) (bit w 2)) = _
  simp [take, reg, bit, bit_of_toNat, e3, e4, e5, e6, e7, e8]

theorem RoundTrip.mul (xd : RegNo) (xa : RegNo) (xb : RegNo) (fa : Bool) (fb : Bool) :
    RoundTrip.Statement (.mul xd xa xb fa fb) := by
  intro _ hf
  have h0 := xd.isLt
  have h1 := xa.isLt
  have h2 := xb.isLt
  have h3 := Bool.toNat_lt fa
  have h4 := Bool.toNat_lt fb
  obtain ⟨e0, e2, e4, e5, e6, e7, e8, e3⟩ := @fld_packA 2 xd.toNat xa.toNat xb.toNat fa.toNat fb.toNat 0 (by decide) (by omega) (by omega) (by omega) (by omega) (by omega) (by decide)
  generalize hx : packA 2 xd.toNat xa.toNat xb.toNat fa.toNat fb.toNat 0 = w at *
  refine decodeWord_of hf ?_
  rw [show encode (.mul xd xa xb fa fb) = w from hx]
  rw [decodeClass_0 e0]
  unfold decodeA
  rw [e2]
  show take w [(0, 2, 0)] (.mul (reg w 16) (reg w 10) (reg w 4) (bit w 3) (bit w 2)) = _
  simp [take, reg, bit, bit_of_toNat, e3, e4, e5, e6, e7, e8]

theorem RoundTrip.mulh (xd : RegNo) (xa : RegNo) (xb : RegNo) (fa : Bool) (fb : Bool) :
    RoundTrip.Statement (.mulh xd xa xb fa fb) := by
  intro _ hf
  have h0 := xd.isLt
  have h1 := xa.isLt
  have h2 := xb.isLt
  have h3 := Bool.toNat_lt fa
  have h4 := Bool.toNat_lt fb
  obtain ⟨e0, e2, e4, e5, e6, e7, e8, e3⟩ := @fld_packA 3 xd.toNat xa.toNat xb.toNat fa.toNat fb.toNat 0 (by decide) (by omega) (by omega) (by omega) (by omega) (by omega) (by decide)
  generalize hx : packA 3 xd.toNat xa.toNat xb.toNat fa.toNat fb.toNat 0 = w at *
  refine decodeWord_of hf ?_
  rw [show encode (.mulh xd xa xb fa fb) = w from hx]
  rw [decodeClass_0 e0]
  unfold decodeA
  rw [e2]
  show take w [(0, 2, 0)] (.mulh (reg w 16) (reg w 10) (reg w 4) (bit w 3) (bit w 2)) = _
  simp [take, reg, bit, bit_of_toNat, e3, e4, e5, e6, e7, e8]

theorem RoundTrip.mulhn (xd : RegNo) (xa : RegNo) (xb : RegNo) (fa : Bool) (fb : Bool) :
    RoundTrip.Statement (.mulhn xd xa xb fa fb) := by
  intro _ hf
  have h0 := xd.isLt
  have h1 := xa.isLt
  have h2 := xb.isLt
  have h3 := Bool.toNat_lt fa
  have h4 := Bool.toNat_lt fb
  obtain ⟨e0, e2, e4, e5, e6, e7, e8, e3⟩ := @fld_packA 4 xd.toNat xa.toNat xb.toNat fa.toNat fb.toNat 0 (by decide) (by omega) (by omega) (by omega) (by omega) (by omega) (by decide)
  generalize hx : packA 4 xd.toNat xa.toNat xb.toNat fa.toNat fb.toNat 0 = w at *
  refine decodeWord_of hf ?_
  rw [show encode (.mulhn xd xa xb fa fb) = w from hx]
  rw [decodeClass_0 e0]
  unfold decodeA
  rw [e2]
  show take w [(0, 2, 0)] (.mulhn (reg w 16) (reg w 10) (reg w 4) (bit w 3) (bit w 2)) = _
  simp [take, reg, bit, bit_of_toNat, e3, e4, e5, e6, e7, e8]

theorem RoundTrip.div (xd : RegNo) (xa : RegNo) (xb : RegNo) (fa : Bool) (fb : Bool) :
    RoundTrip.Statement (.div xd xa xb fa fb) := by
  intro _ hf
  have h0 := xd.isLt
  have h1 := xa.isLt
  have h2 := xb.isLt
  have h3 := Bool.toNat_lt fa
  have h4 := Bool.toNat_lt fb
  obtain ⟨e0, e2, e4, e5, e6, e7, e8, e3⟩ := @fld_packA 5 xd.toNat xa.toNat xb.toNat fa.toNat fb.toNat 0 (by decide) (by omega) (by omega) (by omega) (by omega) (by omega) (by decide)
  generalize hx : packA 5 xd.toNat xa.toNat xb.toNat fa.toNat fb.toNat 0 = w at *
  refine decodeWord_of hf ?_
  rw [show encode (.div xd xa xb fa fb) = w from hx]
  rw [decodeClass_0 e0]
  unfold decodeA
  rw [e2]
  show take w [(0, 2, 0)] (.div (reg w 16) (reg w 10) (reg w 4) (bit w 3) (bit w 2)) = _
  simp [take, reg, bit, bit_of_toNat, e3, e4, e5, e6, e7, e8]

theorem RoundTrip.divn (xd : RegNo) (xa : RegNo) (xb : RegNo) (fa : Bool) (fb : Bool) :
    RoundTrip.Statement (.divn xd xa xb fa fb) := by
  intro _ hf
  have h0 := xd.isLt
  have h1 := xa.isLt
  have h2 := xb.isLt
  have h3 := Bool.toNat_lt fa
  have h4 := Bool.toNat_lt fb
  obtain ⟨e0, e2, e4, e5, e6, e7, e8, e3⟩ := @fld_packA 6 xd.toNat xa.toNat xb.toNat fa.toNat fb.toNat 0 (by decide) (by omega) (by omega) (by omega) (by omega) (by omega) (by decide)
  generalize hx : packA 6 xd.toNat xa.toNat xb.toNat fa.toNat fb.toNat 0 = w at *
  refine decodeWord_of hf ?_
  rw [show encode (.divn xd xa xb fa fb) = w from hx]
  rw [decodeClass_0 e0]
  unfold decodeA
  rw [e2]
  show take w [(0, 2, 0)] (.divn (reg w 16) (reg w 10) (reg w 4) (bit w 3) (bit w 2)) = _
  simp [take, reg, bit, bit_of_toNat, e3, e4, e5, e6, e7, e8]

theorem RoundTrip.rem (xd : RegNo) (xa : RegNo) (xb : RegNo) (fa : Bool) (fb : Bool) :
    RoundTrip.Statement (.rem xd xa xb fa fb) := by
  intro _ hf
  have h0 := xd.isLt
  have h1 := xa.isLt
  have h2 := xb.isLt
  have h3 := Bool.toNat_lt fa
  have h4 := Bool.toNat_lt fb
  obtain ⟨e0, e2, e4, e5, e6, e7, e8, e3⟩ := @fld_packA 7 xd.toNat xa.toNat xb.toNat fa.toNat fb.toNat 0 (by decide) (by omega) (by omega) (by omega) (by omega) (by omega) (by decide)
  generalize hx : packA 7 xd.toNat xa.toNat xb.toNat fa.toNat fb.toNat 0 = w at *
  refine decodeWord_of hf ?_
  rw [show encode (.rem xd xa xb fa fb) = w from hx]
  rw [decodeClass_0 e0]
  unfold decodeA
  rw [e2]
  show take w [(0, 2, 0)] (.rem (reg w 16) (reg w 10) (reg w 4) (bit w 3) (bit w 2)) = _
  simp [take, reg, bit, bit_of_toNat, e3, e4, e5, e6, e7, e8]

theorem RoundTrip.remn (xd : RegNo) (xa : RegNo) (xb : RegNo) (fa : Bool) (fb : Bool) :
    RoundTrip.Statement (.remn xd xa xb fa fb) := by
  intro _ hf
  have h0 := xd.isLt
  have h1 := xa.isLt
  have h2 := xb.isLt
  have h3 := Bool.toNat_lt fa
  have h4 := Bool.toNat_lt fb
  obtain ⟨e0, e2, e4, e5, e6, e7, e8, e3⟩ := @fld_packA 8 xd.toNat xa.toNat xb.toNat fa.toNat fb.toNat 0 (by decide) (by omega) (by omega) (by omega) (by omega) (by omega) (by decide)
  generalize hx : packA 8 xd.toNat xa.toNat xb.toNat fa.toNat fb.toNat 0 = w at *
  refine decodeWord_of hf ?_
  rw [show encode (.remn xd xa xb fa fb) = w from hx]
  rw [decodeClass_0 e0]
  unfold decodeA
  rw [e2]
  show take w [(0, 2, 0)] (.remn (reg w 16) (reg w 10) (reg w 4) (bit w 3) (bit w 2)) = _
  simp [take, reg, bit, bit_of_toNat, e3, e4, e5, e6, e7, e8]

theorem RoundTrip.and (xd : RegNo) (xa : RegNo) (xb : RegNo) (fa : Bool) (fb : Bool) :
    RoundTrip.Statement (.and xd xa xb fa fb) := by
  intro _ hf
  have h0 := xd.isLt
  have h1 := xa.isLt
  have h2 := xb.isLt
  have h3 := Bool.toNat_lt fa
  have h4 := Bool.toNat_lt fb
  obtain ⟨e0, e2, e4, e5, e6, e7, e8, e3⟩ := @fld_packA 9 xd.toNat xa.toNat xb.toNat fa.toNat fb.toNat 0 (by decide) (by omega) (by omega) (by omega) (by omega) (by omega) (by decide)
  generalize hx : packA 9 xd.toNat xa.toNat xb.toNat fa.toNat fb.toNat 0 = w at *
  refine decodeWord_of hf ?_
  rw [show encode (.and xd xa xb fa fb) = w from hx]
  rw [decodeClass_0 e0]
  unfold decodeA
  rw [e2]
  show take w [(0, 2, 0)] (.and (reg w 16) (reg w 10) (reg w 4) (bit w 3) (bit w 2)) = _
  simp [take, reg, bit, bit_of_toNat, e3, e4, e5, e6, e7, e8]

theorem RoundTrip.or (xd : RegNo) (xa : RegNo) (xb : RegNo) (fa : Bool) (fb : Bool) :
    RoundTrip.Statement (.or xd xa xb fa fb) := by
  intro _ hf
  have h0 := xd.isLt
  have h1 := xa.isLt
  have h2 := xb.isLt
  have h3 := Bool.toNat_lt fa
  have h4 := Bool.toNat_lt fb
  obtain ⟨e0, e2, e4, e5, e6, e7, e8, e3⟩ := @fld_packA 10 xd.toNat xa.toNat xb.toNat fa.toNat fb.toNat 0 (by decide) (by omega) (by omega) (by omega) (by omega) (by omega) (by decide)
  generalize hx : packA 10 xd.toNat xa.toNat xb.toNat fa.toNat fb.toNat 0 = w at *
  refine decodeWord_of hf ?_
  rw [show encode (.or xd xa xb fa fb) = w from hx]
  rw [decodeClass_0 e0]
  unfold decodeA
  rw [e2]
  show take w [(0, 2, 0)] (.or (reg w 16) (reg w 10) (reg w 4) (bit w 3) (bit w 2)) = _
  simp [take, reg, bit, bit_of_toNat, e3, e4, e5, e6, e7, e8]

theorem RoundTrip.xor (xd : RegNo) (xa : RegNo) (xb : RegNo) (fa : Bool) (fb : Bool) :
    RoundTrip.Statement (.xor xd xa xb fa fb) := by
  intro _ hf
  have h0 := xd.isLt
  have h1 := xa.isLt
  have h2 := xb.isLt
  have h3 := Bool.toNat_lt fa
  have h4 := Bool.toNat_lt fb
  obtain ⟨e0, e2, e4, e5, e6, e7, e8, e3⟩ := @fld_packA 11 xd.toNat xa.toNat xb.toNat fa.toNat fb.toNat 0 (by decide) (by omega) (by omega) (by omega) (by omega) (by omega) (by decide)
  generalize hx : packA 11 xd.toNat xa.toNat xb.toNat fa.toNat fb.toNat 0 = w at *
  refine decodeWord_of hf ?_
  rw [show encode (.xor xd xa xb fa fb) = w from hx]
  rw [decodeClass_0 e0]
  unfold decodeA
  rw [e2]
  show take w [(0, 2, 0)] (.xor (reg w 16) (reg w 10) (reg w 4) (bit w 3) (bit w 2)) = _
  simp [take, reg, bit, bit_of_toNat, e3, e4, e5, e6, e7, e8]

theorem RoundTrip.andn (xd : RegNo) (xa : RegNo) (xb : RegNo) (fa : Bool) (fb : Bool) :
    RoundTrip.Statement (.andn xd xa xb fa fb) := by
  intro _ hf
  have h0 := xd.isLt
  have h1 := xa.isLt
  have h2 := xb.isLt
  have h3 := Bool.toNat_lt fa
  have h4 := Bool.toNat_lt fb
  obtain ⟨e0, e2, e4, e5, e6, e7, e8, e3⟩ := @fld_packA 12 xd.toNat xa.toNat xb.toNat fa.toNat fb.toNat 0 (by decide) (by omega) (by omega) (by omega) (by omega) (by omega) (by decide)
  generalize hx : packA 12 xd.toNat xa.toNat xb.toNat fa.toNat fb.toNat 0 = w at *
  refine decodeWord_of hf ?_
  rw [show encode (.andn xd xa xb fa fb) = w from hx]
  rw [decodeClass_0 e0]
  unfold decodeA
  rw [e2]
  show take w [(0, 2, 0)] (.andn (reg w 16) (reg w 10) (reg w 4) (bit w 3) (bit w 2)) = _
  simp [take, reg, bit, bit_of_toNat, e3, e4, e5, e6, e7, e8]

theorem RoundTrip.orn (xd : RegNo) (xa : RegNo) (xb : RegNo) (fa : Bool) (fb : Bool) :
    RoundTrip.Statement (.orn xd xa xb fa fb) := by
  intro _ hf
  have h0 := xd.isLt
  have h1 := xa.isLt
  have h2 := xb.isLt
  have h3 := Bool.toNat_lt fa
  have h4 := Bool.toNat_lt fb
  obtain ⟨e0, e2, e4, e5, e6, e7, e8, e3⟩ := @fld_packA 13 xd.toNat xa.toNat xb.toNat fa.toNat fb.toNat 0 (by decide) (by omega) (by omega) (by omega) (by omega) (by omega) (by decide)
  generalize hx : packA 13 xd.toNat xa.toNat xb.toNat fa.toNat fb.toNat 0 = w at *
  refine decodeWord_of hf ?_
  rw [show encode (.orn xd xa xb fa fb) = w from hx]
  rw [decodeClass_0 e0]
  unfold decodeA
  rw [e2]
  show take w [(0, 2, 0)] (.orn (reg w 16) (reg w 10) (reg w 4) (bit w 3) (bit w 2)) = _
  simp [take, reg, bit, bit_of_toNat, e3, e4, e5, e6, e7, e8]

theorem RoundTrip.shl (xd : RegNo) (xa : RegNo) (xb : RegNo) (fa : Bool) (fb : Bool) :
    RoundTrip.Statement (.shl xd xa xb fa fb) := by
  intro _ hf
  have h0 := xd.isLt
  have h1 := xa.isLt
  have h2 := xb.isLt
  have h3 := Bool.toNat_lt fa
  have h4 := Bool.toNat_lt fb
  obtain ⟨e0, e2, e4, e5, e6, e7, e8, e3⟩ := @fld_packA 14 xd.toNat xa.toNat xb.toNat fa.toNat fb.toNat 0 (by decide) (by omega) (by omega) (by omega) (by omega) (by omega) (by decide)
  generalize hx : packA 14 xd.toNat xa.toNat xb.toNat fa.toNat fb.toNat 0 = w at *
  refine decodeWord_of hf ?_
  rw [show encode (.shl xd xa xb fa fb) = w from hx]
  rw [decodeClass_0 e0]
  unfold decodeA
  rw [e2]
  show take w [(0, 2, 0)] (.shl (reg w 16) (reg w 10) (reg w 4) (bit w 3) (bit w 2)) = _
  simp [take, reg, bit, bit_of_toNat, e3, e4, e5, e6, e7, e8]

theorem RoundTrip.shr (xd : RegNo) (xa : RegNo) (xb : RegNo) (fa : Bool) (fb : Bool) :
    RoundTrip.Statement (.shr xd xa xb fa fb) := by
  intro _ hf
  have h0 := xd.isLt
  have h1 := xa.isLt
  have h2 := xb.isLt
  have h3 := Bool.toNat_lt fa
  have h4 := Bool.toNat_lt fb
  obtain ⟨e0, e2, e4, e5, e6, e7, e8, e3⟩ := @fld_packA 15 xd.toNat xa.toNat xb.toNat fa.toNat fb.toNat 0 (by decide) (by omega) (by omega) (by omega) (by omega) (by omega) (by decide)
  generalize hx : packA 15 xd.toNat xa.toNat xb.toNat fa.toNat fb.toNat 0 = w at *
  refine decodeWord_of hf ?_
  rw [show encode (.shr xd xa xb fa fb) = w from hx]
  rw [decodeClass_0 e0]
  unfold decodeA
  rw [e2]
  show take w [(0, 2, 0)] (.shr (reg w 16) (reg w 10) (reg w 4) (bit w 3) (bit w 2)) = _
  simp [take, reg, bit, bit_of_toNat, e3, e4, e5, e6, e7, e8]

theorem RoundTrip.sra (xd : RegNo) (xa : RegNo) (xb : RegNo) (fa : Bool) (fb : Bool) :
    RoundTrip.Statement (.sra xd xa xb fa fb) := by
  intro _ hf
  have h0 := xd.isLt
  have h1 := xa.isLt
  have h2 := xb.isLt
  have h3 := Bool.toNat_lt fa
  have h4 := Bool.toNat_lt fb
  obtain ⟨e0, e2, e4, e5, e6, e7, e8, e3⟩ := @fld_packA 16 xd.toNat xa.toNat xb.toNat fa.toNat fb.toNat 0 (by decide) (by omega) (by omega) (by omega) (by omega) (by omega) (by decide)
  generalize hx : packA 16 xd.toNat xa.toNat xb.toNat fa.toNat fb.toNat 0 = w at *
  refine decodeWord_of hf ?_
  rw [show encode (.sra xd xa xb fa fb) = w from hx]
  rw [decodeClass_0 e0]
  unfold decodeA
  rw [e2]
  show take w [(0, 2, 0)] (.sra (reg w 16) (reg w 10) (reg w 4) (bit w 3) (bit w 2)) = _
  simp [take, reg, bit, bit_of_toNat, e3, e4, e5, e6, e7, e8]

theorem RoundTrip.rol (xd : RegNo) (xa : RegNo) (xb : RegNo) (fa : Bool) (fb : Bool) :
    RoundTrip.Statement (.rol xd xa xb fa fb) := by
  intro _ hf
  have h0 := xd.isLt
  have h1 := xa.isLt
  have h2 := xb.isLt
  have h3 := Bool.toNat_lt fa
  have h4 := Bool.toNat_lt fb
  obtain ⟨e0, e2, e4, e5, e6, e7, e8, e3⟩ := @fld_packA 17 xd.toNat xa.toNat xb.toNat fa.toNat fb.toNat 0 (by decide) (by omega) (by omega) (by omega) (by omega) (by omega) (by decide)
  generalize hx : packA 17 xd.toNat xa.toNat xb.toNat fa.toNat fb.toNat 0 = w at *
  refine decodeWord_of hf ?_
  rw [show encode (.rol xd xa xb fa fb) = w from hx]
  rw [decodeClass_0 e0]
  unfold decodeA
  rw [e2]
  show take w [(0, 2, 0)] (.rol (reg w 16) (reg w 10) (reg w 4) (bit w 3) (bit w 2)) = _
  simp [take, reg, bit, bit_of_toNat, e3, e4, e5, e6, e7, e8]

theorem RoundTrip.ror (xd : RegNo) (xa : RegNo) (xb : RegNo) (fa : Bool) (fb : Bool) :
    RoundTrip.Statement (.ror xd xa xb fa fb) := by
  intro _ hf
  have h0 := xd.isLt
  have h1 := xa.isLt
  have h2 := xb.isLt
  have h3 := Bool.toNat_lt fa
  have h4 := Bool.toNat_lt fb
  obtain ⟨e0, e2, e4, e5, e6, e7, e8, e3⟩ := @fld_packA 18 xd.toNat xa.toNat xb.toNat fa.toNat fb.toNat 0 (by decide) (by omega) (by omega) (by omega) (by omega) (by omega) (by decide)
  generalize hx : packA 18 xd.toNat xa.toNat xb.toNat fa.toNat fb.toNat 0 = w at *
  refine decodeWord_of hf ?_
  rw [show encode (.ror xd xa xb fa fb) = w from hx]
  rw [decodeClass_0 e0]
  unfold decodeA
  rw [e2]
  show take w [(0, 2, 0)] (.ror (reg w 16) (reg w 10) (reg w 4) (bit w 3) (bit w 2)) = _
  simp [take, reg, bit, bit_of_toNat, e3, e4, e5, e6, e7, e8]

theorem RoundTrip.min (xd : RegNo) (xa : RegNo) (xb : RegNo) (fa : Bool) (fb : Bool) :
    RoundTrip.Statement (.min xd xa xb fa fb) := by
  intro _ hf
  have h0 := xd.isLt
  have h1 := xa.isLt
  have h2 := xb.isLt
  have h3 := Bool.toNat_lt fa
  have h4 := Bool.toNat_lt fb
  obtain ⟨e0, e2, e4, e5, e6, e7, e8, e3⟩ := @fld_packA 19 xd.toNat xa.toNat xb.toNat fa.toNat fb.toNat 0 (by decide) (by omega) (by omega) (by omega) (by omega) (by omega) (by decide)
  generalize hx : packA 19 xd.toNat xa.toNat xb.toNat fa.toNat fb.toNat 0 = w at *
  refine decodeWord_of hf ?_
  rw [show encode (.min xd xa xb fa fb) = w from hx]
  rw [decodeClass_0 e0]
  unfold decodeA
  rw [e2]
  show take w [(0, 2, 0)] (.min (reg w 16) (reg w 10) (reg w 4) (bit w 3) (bit w 2)) = _
  simp [take, reg, bit, bit_of_toNat, e3, e4, e5, e6, e7, e8]

theorem RoundTrip.max (xd : RegNo) (xa : RegNo) (xb : RegNo) (fa : Bool) (fb : Bool) :
    RoundTrip.Statement (.max xd xa xb fa fb) := by
  intro _ hf
  have h0 := xd.isLt
  have h1 := xa.isLt
  have h2 := xb.isLt
  have h3 := Bool.toNat_lt fa
  have h4 := Bool.toNat_lt fb
  obtain ⟨e0, e2, e4, e5, e6, e7, e8, e3⟩ := @fld_packA 20 xd.toNat xa.toNat xb.toNat fa.toNat fb.toNat 0 (by decide) (by omega) (by omega) (by omega) (by omega) (by omega) (by decide)
  generalize hx : packA 20 xd.toNat xa.toNat xb.toNat fa.toNat fb.toNat 0 = w at *
  refine decodeWord_of hf ?_
  rw [show encode (.max xd xa xb fa fb) = w from hx]
  rw [decodeClass_0 e0]
  unfold decodeA
  rw [e2]
  show take w [(0, 2, 0)] (.max (reg w 16) (reg w 10) (reg w 4) (bit w 3) (bit w 2)) = _
  simp [take, reg, bit, bit_of_toNat, e3, e4, e5, e6, e7, e8]

theorem RoundTrip.minn (xd : RegNo) (xa : RegNo) (xb : RegNo) (fa : Bool) (fb : Bool) :
    RoundTrip.Statement (.minn xd xa xb fa fb) := by
  intro _ hf
  have h0 := xd.isLt
  have h1 := xa.isLt
  have h2 := xb.isLt
  have h3 := Bool.toNat_lt fa
  have h4 := Bool.toNat_lt fb
  obtain ⟨e0, e2, e4, e5, e6, e7, e8, e3⟩ := @fld_packA 21 xd.toNat xa.toNat xb.toNat fa.toNat fb.toNat 0 (by decide) (by omega) (by omega) (by omega) (by omega) (by omega) (by decide)
  generalize hx : packA 21 xd.toNat xa.toNat xb.toNat fa.toNat fb.toNat 0 = w at *
  refine decodeWord_of hf ?_
  rw [show encode (.minn xd xa xb fa fb) = w from hx]
  rw [decodeClass_0 e0]
  unfold decodeA
  rw [e2]
  show take w [(0, 2, 0)] (.minn (reg w 16) (reg w 10) (reg w 4) (bit w 3) (bit w 2)) = _
  simp [take, reg, bit, bit_of_toNat, e3, e4, e5, e6, e7, e8]

theorem RoundTrip.maxn (xd : RegNo) (xa : RegNo) (xb : RegNo) (fa : Bool) (fb : Bool) :
    RoundTrip.Statement (.maxn xd xa xb fa fb) := by
  intro _ hf
  have h0 := xd.isLt
  have h1 := xa.isLt
  have h2 := xb.isLt
  have h3 := Bool.toNat_lt fa
  have h4 := Bool.toNat_lt fb
  obtain ⟨e0, e2, e4, e5, e6, e7, e8, e3⟩ := @fld_packA 22 xd.toNat xa.toNat xb.toNat fa.toNat fb.toNat 0 (by decide) (by omega) (by omega) (by omega) (by omega) (by omega) (by decide)
  generalize hx : packA 22 xd.toNat xa.toNat xb.toNat fa.toNat fb.toNat 0 = w at *
  refine decodeWord_of hf ?_
  rw [show encode (.maxn xd xa xb fa fb) = w from hx]
  rw [decodeClass_0 e0]
  unfold decodeA
  rw [e2]
  show take w [(0, 2, 0)] (.maxn (reg w 16) (reg w 10) (reg w 4) (bit w 3) (bit w 2)) = _
  simp [take, reg, bit, bit_of_toNat, e3, e4, e5, e6, e7, e8]

theorem RoundTrip.clz (xd : RegNo) (xa : RegNo) (fa : Bool) :
    RoundTrip.Statement (.clz xd xa fa) := by
  intro _ hf
  have h0 := xd.isLt
  have h1 := xa.isLt
  have h2 := Bool.toNat_lt fa
  have hw := @packA_toNat 23 xd.toNat xa.toNat 0 fa.toNat 0 0 (by decide) (by omega) (by omega) (by decide) (by omega) (by decide) (by decide)
  obtain ⟨e0, e2, e5, e6, e3, e7, _, _⟩ := @fld_packA 23 xd.toNat xa.toNat 0 fa.toNat 0 0 (by decide) (by omega) (by omega) (by decide) (by omega) (by decide) (by decide)
  generalize hx : packA 23 xd.toNat xa.toNat 0 fa.toNat 0 0 = w at *
  have e4 : fld w 0 3 = 0 := by unfold fld; omega
  refine decodeWord_of hf ?_
  rw [show encode (.clz xd xa fa) = w from hx]
  rw [decodeClass_0 e0]
  unfold decodeA
  rw [e2]
  show take w [(4, 6, 0), (0, 3, 0)] (.clz (reg w 16) (reg w 10) (bit w 3)) = _
  simp [take, reg, bit, bit_of_toNat, e3, e4, e5, e6, e7]

theorem RoundTrip.ctz (xd : RegNo) (xa : RegNo) (fa : Bool) :
    RoundTrip.Statement (.ctz xd xa fa) := by
  intro _ hf
  have h0 := xd.isLt
  have h1 := xa.isLt
  have h2 := Bool.toNat_lt fa
  have hw := @packA_toNat 24 xd.toNat xa.toNat 0 fa.toNat 0 0 (by decide) (by omega) (by omega) (by decide) (by omega) (by decide) (by decide)
  obtain ⟨e0, e2, e5, e6, e3, e7, _, _⟩ := @fld_packA 24 xd.toNat xa.toNat 0 fa.toNat 0 0 (by decide) (by omega) (by omega) (by decide) (by omega) (by decide) (by decide)
  generalize hx : packA 24 xd.toNat xa.toNat 0 fa.toNat 0 0 = w at *
  have e4 : fld w 0 3 = 0 := by unfold fld; omega
  refine decodeWord_of hf ?_
  rw [show encode (.ctz xd xa fa) = w from hx]
  rw [decodeClass_0 e0]
  unfold decodeA
  rw [e2]
  show take w [(4, 6, 0), (0, 3, 0)] (.ctz (reg w 16) (reg w 10) (bit w 3)) = _
  simp [take, reg, bit, bit_of_toNat, e3, e4, e5, e6, e7]

theorem RoundTrip.popc (xd : RegNo) (xa : RegNo) (fa : Bool) :
    RoundTrip.Statement (.popc xd xa fa) := by
  intro _ hf
  have h0 := xd.isLt
  have h1 := xa.isLt
  have h2 := Bool.toNat_lt fa
  have hw := @packA_toNat 25 xd.toNat xa.toNat 0 fa.toNat 0 0 (by decide) (by omega) (by omega) (by decide) (by omega) (by decide) (by decide)
  obtain ⟨e0, e2, e5, e6, e3, e7, _, _⟩ := @fld_packA 25 xd.toNat xa.toNat 0 fa.toNat 0 0 (by decide) (by omega) (by omega) (by decide) (by omega) (by decide) (by decide)
  generalize hx : packA 25 xd.toNat xa.toNat 0 fa.toNat 0 0 = w at *
  have e4 : fld w 0 3 = 0 := by unfold fld; omega
  refine decodeWord_of hf ?_
  rw [show encode (.popc xd xa fa) = w from hx]
  rw [decodeClass_0 e0]
  unfold decodeA
  rw [e2]
  show take w [(4, 6, 0), (0, 3, 0)] (.popc (reg w 16) (reg w 10) (bit w 3)) = _
  simp [take, reg, bit, bit_of_toNat, e3, e4, e5, e6, e7]

theorem RoundTrip.brev (xd : RegNo) (xa : RegNo) (fa : Bool) :
    RoundTrip.Statement (.brev xd xa fa) := by
  intro _ hf
  have h0 := xd.isLt
  have h1 := xa.isLt
  have h2 := Bool.toNat_lt fa
  have hw := @packA_toNat 26 xd.toNat xa.toNat 0 fa.toNat 0 0 (by decide) (by omega) (by omega) (by decide) (by omega) (by decide) (by decide)
  obtain ⟨e0, e2, e5, e6, e3, e7, _, _⟩ := @fld_packA 26 xd.toNat xa.toNat 0 fa.toNat 0 0 (by decide) (by omega) (by omega) (by decide) (by omega) (by decide) (by decide)
  generalize hx : packA 26 xd.toNat xa.toNat 0 fa.toNat 0 0 = w at *
  have e4 : fld w 0 3 = 0 := by unfold fld; omega
  refine decodeWord_of hf ?_
  rw [show encode (.brev xd xa fa) = w from hx]
  rw [decodeClass_0 e0]
  unfold decodeA
  rw [e2]
  show take w [(4, 6, 0), (0, 3, 0)] (.brev (reg w 16) (reg w 10) (bit w 3)) = _
  simp [take, reg, bit, bit_of_toNat, e3, e4, e5, e6, e7]

theorem RoundTrip.bswap (xd : RegNo) (xa : RegNo) (fa : Bool) :
    RoundTrip.Statement (.bswap xd xa fa) := by
  intro _ hf
  have h0 := xd.isLt
  have h1 := xa.isLt
  have h2 := Bool.toNat_lt fa
  have hw := @packA_toNat 27 xd.toNat xa.toNat 0 fa.toNat 0 0 (by decide) (by omega) (by omega) (by decide) (by omega) (by decide) (by decide)
  obtain ⟨e0, e2, e5, e6, e3, e7, _, _⟩ := @fld_packA 27 xd.toNat xa.toNat 0 fa.toNat 0 0 (by decide) (by omega) (by omega) (by decide) (by omega) (by decide) (by decide)
  generalize hx : packA 27 xd.toNat xa.toNat 0 fa.toNat 0 0 = w at *
  have e4 : fld w 0 3 = 0 := by unfold fld; omega
  refine decodeWord_of hf ?_
  rw [show encode (.bswap xd xa fa) = w from hx]
  rw [decodeClass_0 e0]
  unfold decodeA
  rw [e2]
  show take w [(4, 6, 0), (0, 3, 0)] (.bswap (reg w 16) (reg w 10) (bit w 3)) = _
  simp [take, reg, bit, bit_of_toNat, e3, e4, e5, e6, e7]

theorem RoundTrip.clmul (xd : RegNo) (xa : RegNo) (xb : RegNo) (fa : Bool) (fb : Bool) :
    RoundTrip.Statement (.clmul xd xa xb fa fb) := by
  intro _ hf
  have h0 := xd.isLt
  have h1 := xa.isLt
  have h2 := xb.isLt
  have h3 := Bool.toNat_lt fa
  have h4 := Bool.toNat_lt fb
  obtain ⟨e0, e2, e4, e5, e6, e7, e8, e3⟩ := @fld_packA 28 xd.toNat xa.toNat xb.toNat fa.toNat fb.toNat 0 (by decide) (by omega) (by omega) (by omega) (by omega) (by omega) (by decide)
  generalize hx : packA 28 xd.toNat xa.toNat xb.toNat fa.toNat fb.toNat 0 = w at *
  refine decodeWord_of hf ?_
  rw [show encode (.clmul xd xa xb fa fb) = w from hx]
  rw [decodeClass_0 e0]
  unfold decodeA
  rw [e2]
  show take w [(0, 2, 0)] (.clmul (reg w 16) (reg w 10) (reg w 4) (bit w 3) (bit w 2)) = _
  simp [take, reg, bit, bit_of_toNat, e3, e4, e5, e6, e7, e8]

theorem RoundTrip.clmulh (xd : RegNo) (xa : RegNo) (xb : RegNo) (fa : Bool) (fb : Bool) :
    RoundTrip.Statement (.clmulh xd xa xb fa fb) := by
  intro _ hf
  have h0 := xd.isLt
  have h1 := xa.isLt
  have h2 := xb.isLt
  have h3 := Bool.toNat_lt fa
  have h4 := Bool.toNat_lt fb
  obtain ⟨e0, e2, e4, e5, e6, e7, e8, e3⟩ := @fld_packA 29 xd.toNat xa.toNat xb.toNat fa.toNat fb.toNat 0 (by decide) (by omega) (by omega) (by omega) (by omega) (by omega) (by decide)
  generalize hx : packA 29 xd.toNat xa.toNat xb.toNat fa.toNat fb.toNat 0 = w at *
  refine decodeWord_of hf ?_
  rw [show encode (.clmulh xd xa xb fa fb) = w from hx]
  rw [decodeClass_0 e0]
  unfold decodeA
  rw [e2]
  show take w [(0, 2, 0)] (.clmulh (reg w 16) (reg w 10) (reg w 4) (bit w 3) (bit w 2)) = _
  simp [take, reg, bit, bit_of_toNat, e3, e4, e5, e6, e7, e8]

theorem RoundTrip.ext (xd : RegNo) (xa : RegNo) (xb : RegNo) (fa : Bool) (fb : Bool) :
    RoundTrip.Statement (.ext xd xa xb fa fb) := by
  intro _ hf
  have h0 := xd.isLt
  have h1 := xa.isLt
  have h2 := xb.isLt
  have h3 := Bool.toNat_lt fa
  have h4 := Bool.toNat_lt fb
  obtain ⟨e0, e2, e4, e5, e6, e7, e8, e3⟩ := @fld_packA 30 xd.toNat xa.toNat xb.toNat fa.toNat fb.toNat 0 (by decide) (by omega) (by omega) (by omega) (by omega) (by omega) (by decide)
  generalize hx : packA 30 xd.toNat xa.toNat xb.toNat fa.toNat fb.toNat 0 = w at *
  refine decodeWord_of hf ?_
  rw [show encode (.ext xd xa xb fa fb) = w from hx]
  rw [decodeClass_0 e0]
  unfold decodeA
  rw [e2]
  simp [reg, bit, bit_of_toNat, e3, e4, e5, e6, e7, e8]

theorem RoundTrip.extn (xd : RegNo) (xa : RegNo) (xb : RegNo) (fa : Bool) (fb : Bool) :
    RoundTrip.Statement (.extn xd xa xb fa fb) := by
  intro _ hf
  have h0 := xd.isLt
  have h1 := xa.isLt
  have h2 := xb.isLt
  have h3 := Bool.toNat_lt fa
  have h4 := Bool.toNat_lt fb
  obtain ⟨e0, e2, e4, e5, e6, e7, e8, e3⟩ := @fld_packA 30 xd.toNat xa.toNat xb.toNat fa.toNat fb.toNat 1 (by decide) (by omega) (by omega) (by omega) (by omega) (by omega) (by decide)
  generalize hx : packA 30 xd.toNat xa.toNat xb.toNat fa.toNat fb.toNat 1 = w at *
  refine decodeWord_of hf ?_
  rw [show encode (.extn xd xa xb fa fb) = w from hx]
  rw [decodeClass_0 e0]
  unfold decodeA
  rw [e2]
  simp [reg, bit, bit_of_toNat, e3, e4, e5, e6, e7, e8]

theorem RoundTrip.ins (xd : RegNo) (xa : RegNo) (xb : RegNo) (fa : Bool) (fb : Bool) :
    RoundTrip.Statement (.ins xd xa xb fa fb) := by
  intro _ hf
  have h0 := xd.isLt
  have h1 := xa.isLt
  have h2 := xb.isLt
  have h3 := Bool.toNat_lt fa
  have h4 := Bool.toNat_lt fb
  obtain ⟨e0, e2, e4, e5, e6, e7, e8, e3⟩ := @fld_packA 31 xd.toNat xa.toNat xb.toNat fa.toNat fb.toNat 0 (by decide) (by omega) (by omega) (by omega) (by omega) (by omega) (by decide)
  generalize hx : packA 31 xd.toNat xa.toNat xb.toNat fa.toNat fb.toNat 0 = w at *
  refine decodeWord_of hf ?_
  rw [show encode (.ins xd xa xb fa fb) = w from hx]
  rw [decodeClass_0 e0]
  unfold decodeA
  rw [e2]
  show take w [(0, 2, 0)] (.ins (reg w 16) (reg w 10) (reg w 4) (bit w 3) (bit w 2)) = _
  simp [take, reg, bit, bit_of_toNat, e3, e4, e5, e6, e7, e8]

theorem RoundTrip.shladd (xd : RegNo) (xa : RegNo) (xb : RegNo) (fa : Bool) (fb : Bool) (s : BitVec 2) :
    RoundTrip.Statement (.shladd xd xa xb fa fb s) := by
  intro _ hf
  have h0 := xd.isLt
  have h1 := xa.isLt
  have h2 := xb.isLt
  have h3 := Bool.toNat_lt fa
  have h4 := Bool.toNat_lt fb
  have h5 := s.isLt
  obtain ⟨e0, e2, e3, e4, e5, e6, e7, e8⟩ := @fld_packA 32 xd.toNat xa.toNat xb.toNat fa.toNat fb.toNat s.toNat (by decide) (by omega) (by omega) (by omega) (by omega) (by omega) (by omega)
  generalize hx : packA 32 xd.toNat xa.toNat xb.toNat fa.toNat fb.toNat s.toNat = w at *
  refine decodeWord_of hf ?_
  rw [show encode (.shladd xd xa xb fa fb s) = w from hx]
  rw [decodeClass_0 e0]
  unfold decodeA
  rw [e2]
  show Except.ok (Instr.shladd (reg w 16) (reg w 10) (reg w 4) (bit w 3) (bit w 2) (bits w 0 2)) = _
  simp [reg, bits, bit, bit_of_toNat, e3, e4, e5, e6, e7, e8]

theorem RoundTrip.slt (xd : RegNo) (xa : RegNo) (xb : RegNo) (fa : Bool) (fb : Bool) :
    RoundTrip.Statement (.slt xd xa xb fa fb) := by
  intro _ hf
  have h0 := xd.isLt
  have h1 := xa.isLt
  have h2 := xb.isLt
  have h3 := Bool.toNat_lt fa
  have h4 := Bool.toNat_lt fb
  obtain ⟨e0, e2, e4, e5, e6, e7, e8, e3⟩ := @fld_packA 33 xd.toNat xa.toNat xb.toNat fa.toNat fb.toNat 0 (by decide) (by omega) (by omega) (by omega) (by omega) (by omega) (by decide)
  generalize hx : packA 33 xd.toNat xa.toNat xb.toNat fa.toNat fb.toNat 0 = w at *
  refine decodeWord_of hf ?_
  rw [show encode (.slt xd xa xb fa fb) = w from hx]
  rw [decodeClass_0 e0]
  unfold decodeA
  rw [e2]
  show take w [(0, 2, 0)] (.slt (reg w 16) (reg w 10) (reg w 4) (bit w 3) (bit w 2)) = _
  simp [take, reg, bit, bit_of_toNat, e3, e4, e5, e6, e7, e8]

theorem RoundTrip.sltn (xd : RegNo) (xa : RegNo) (xb : RegNo) (fa : Bool) (fb : Bool) :
    RoundTrip.Statement (.sltn xd xa xb fa fb) := by
  intro _ hf
  have h0 := xd.isLt
  have h1 := xa.isLt
  have h2 := xb.isLt
  have h3 := Bool.toNat_lt fa
  have h4 := Bool.toNat_lt fb
  obtain ⟨e0, e2, e4, e5, e6, e7, e8, e3⟩ := @fld_packA 34 xd.toNat xa.toNat xb.toNat fa.toNat fb.toNat 0 (by decide) (by omega) (by omega) (by omega) (by omega) (by omega) (by decide)
  generalize hx : packA 34 xd.toNat xa.toNat xb.toNat fa.toNat fb.toNat 0 = w at *
  refine decodeWord_of hf ?_
  rw [show encode (.sltn xd xa xb fa fb) = w from hx]
  rw [decodeClass_0 e0]
  unfold decodeA
  rw [e2]
  show take w [(0, 2, 0)] (.sltn (reg w 16) (reg w 10) (reg w 4) (bit w 3) (bit w 2)) = _
  simp [take, reg, bit, bit_of_toNat, e3, e4, e5, e6, e7, e8]

theorem RoundTrip.cmppEq (p : BitVec 3) (xa : RegNo) (xb : RegNo) (fa : Bool) (fb : Bool) :
    RoundTrip.Statement (.cmppEq p xa xb fa fb) := by
  intro _ hf
  have h0 := p.isLt
  have h1 := xa.isLt
  have h2 := xb.isLt
  have h3 := Bool.toNat_lt fa
  have h4 := Bool.toNat_lt fb
  have hw := @packA_toNat 35 (8 + p.toNat) xa.toNat xb.toNat fa.toNat fb.toNat 0 (by decide) (by omega) (by omega) (by omega) (by omega) (by omega) (by decide)
  obtain ⟨e0, e2, _, e6, e7, e8, e9, e3⟩ := @fld_packA 35 (8 + p.toNat) xa.toNat xb.toNat fa.toNat fb.toNat 0 (by decide) (by omega) (by omega) (by omega) (by omega) (by omega) (by decide)
  generalize hx : packA 35 (8 + p.toNat) xa.toNat xb.toNat fa.toNat fb.toNat 0 = w at *
  have e4 : fld w 19 3 = 1 := by unfold fld; omega
  have e5 : fld w 16 3 = p.toNat := by unfold fld; omega
  refine decodeWord_of hf ?_
  rw [show encode (.cmppEq p xa xb fa fb) = w from hx]
  rw [decodeClass_0 e0]
  unfold decodeA
  rw [e2]
  simp [take, reg, bits, bit, bit_of_toNat, e3, e4, e5, e6, e7, e8, e9]

theorem RoundTrip.cmppNe (p : BitVec 3) (xa : RegNo) (xb : RegNo) (fa : Bool) (fb : Bool) :
    RoundTrip.Statement (.cmppNe p xa xb fa fb) := by
  intro _ hf
  have h0 := p.isLt
  have h1 := xa.isLt
  have h2 := xb.isLt
  have h3 := Bool.toNat_lt fa
  have h4 := Bool.toNat_lt fb
  have hw := @packA_toNat 35 (8 + p.toNat) xa.toNat xb.toNat fa.toNat fb.toNat 1 (by decide) (by omega) (by omega) (by omega) (by omega) (by omega) (by decide)
  obtain ⟨e0, e2, _, e6, e7, e8, e9, e3⟩ := @fld_packA 35 (8 + p.toNat) xa.toNat xb.toNat fa.toNat fb.toNat 1 (by decide) (by omega) (by omega) (by omega) (by omega) (by omega) (by decide)
  generalize hx : packA 35 (8 + p.toNat) xa.toNat xb.toNat fa.toNat fb.toNat 1 = w at *
  have e4 : fld w 19 3 = 1 := by unfold fld; omega
  have e5 : fld w 16 3 = p.toNat := by unfold fld; omega
  refine decodeWord_of hf ?_
  rw [show encode (.cmppNe p xa xb fa fb) = w from hx]
  rw [decodeClass_0 e0]
  unfold decodeA
  rw [e2]
  simp [take, reg, bits, bit, bit_of_toNat, e3, e4, e5, e6, e7, e8, e9]

theorem RoundTrip.cmppLt (p : BitVec 3) (xa : RegNo) (xb : RegNo) (fa : Bool) (fb : Bool) :
    RoundTrip.Statement (.cmppLt p xa xb fa fb) := by
  intro _ hf
  have h0 := p.isLt
  have h1 := xa.isLt
  have h2 := xb.isLt
  have h3 := Bool.toNat_lt fa
  have h4 := Bool.toNat_lt fb
  have hw := @packA_toNat 35 (8 + p.toNat) xa.toNat xb.toNat fa.toNat fb.toNat 2 (by decide) (by omega) (by omega) (by omega) (by omega) (by omega) (by decide)
  obtain ⟨e0, e2, _, e6, e7, e8, e9, e3⟩ := @fld_packA 35 (8 + p.toNat) xa.toNat xb.toNat fa.toNat fb.toNat 2 (by decide) (by omega) (by omega) (by omega) (by omega) (by omega) (by decide)
  generalize hx : packA 35 (8 + p.toNat) xa.toNat xb.toNat fa.toNat fb.toNat 2 = w at *
  have e4 : fld w 19 3 = 1 := by unfold fld; omega
  have e5 : fld w 16 3 = p.toNat := by unfold fld; omega
  refine decodeWord_of hf ?_
  rw [show encode (.cmppLt p xa xb fa fb) = w from hx]
  rw [decodeClass_0 e0]
  unfold decodeA
  rw [e2]
  simp [take, reg, bits, bit, bit_of_toNat, e3, e4, e5, e6, e7, e8, e9]

theorem RoundTrip.cmppGe (p : BitVec 3) (xa : RegNo) (xb : RegNo) (fa : Bool) (fb : Bool) :
    RoundTrip.Statement (.cmppGe p xa xb fa fb) := by
  intro _ hf
  have h0 := p.isLt
  have h1 := xa.isLt
  have h2 := xb.isLt
  have h3 := Bool.toNat_lt fa
  have h4 := Bool.toNat_lt fb
  have hw := @packA_toNat 35 (8 + p.toNat) xa.toNat xb.toNat fa.toNat fb.toNat 3 (by decide) (by omega) (by omega) (by omega) (by omega) (by omega) (by decide)
  obtain ⟨e0, e2, _, e6, e7, e8, e9, e3⟩ := @fld_packA 35 (8 + p.toNat) xa.toNat xb.toNat fa.toNat fb.toNat 3 (by decide) (by omega) (by omega) (by omega) (by omega) (by omega) (by decide)
  generalize hx : packA 35 (8 + p.toNat) xa.toNat xb.toNat fa.toNat fb.toNat 3 = w at *
  have e4 : fld w 19 3 = 1 := by unfold fld; omega
  have e5 : fld w 16 3 = p.toNat := by unfold fld; omega
  refine decodeWord_of hf ?_
  rw [show encode (.cmppGe p xa xb fa fb) = w from hx]
  rw [decodeClass_0 e0]
  unfold decodeA
  rw [e2]
  simp [take, reg, bits, bit, bit_of_toNat, e3, e4, e5, e6, e7, e8, e9]

theorem RoundTrip.cmppLtn (p : BitVec 3) (xa : RegNo) (xb : RegNo) (fa : Bool) (fb : Bool) :
    RoundTrip.Statement (.cmppLtn p xa xb fa fb) := by
  intro _ hf
  have h0 := p.isLt
  have h1 := xa.isLt
  have h2 := xb.isLt
  have h3 := Bool.toNat_lt fa
  have h4 := Bool.toNat_lt fb
  have hw := @packA_toNat 36 (8 + p.toNat) xa.toNat xb.toNat fa.toNat fb.toNat 0 (by decide) (by omega) (by omega) (by omega) (by omega) (by omega) (by decide)
  obtain ⟨e0, e2, _, e6, e7, e8, e9, e3⟩ := @fld_packA 36 (8 + p.toNat) xa.toNat xb.toNat fa.toNat fb.toNat 0 (by decide) (by omega) (by omega) (by omega) (by omega) (by omega) (by decide)
  generalize hx : packA 36 (8 + p.toNat) xa.toNat xb.toNat fa.toNat fb.toNat 0 = w at *
  have e4 : fld w 19 3 = 1 := by unfold fld; omega
  have e5 : fld w 16 3 = p.toNat := by unfold fld; omega
  refine decodeWord_of hf ?_
  rw [show encode (.cmppLtn p xa xb fa fb) = w from hx]
  rw [decodeClass_0 e0]
  unfold decodeA
  rw [e2]
  simp [take, reg, bits, bit, bit_of_toNat, e3, e4, e5, e6, e7, e8, e9]

theorem RoundTrip.cmppGen (p : BitVec 3) (xa : RegNo) (xb : RegNo) (fa : Bool) (fb : Bool) :
    RoundTrip.Statement (.cmppGen p xa xb fa fb) := by
  intro _ hf
  have h0 := p.isLt
  have h1 := xa.isLt
  have h2 := xb.isLt
  have h3 := Bool.toNat_lt fa
  have h4 := Bool.toNat_lt fb
  have hw := @packA_toNat 36 (8 + p.toNat) xa.toNat xb.toNat fa.toNat fb.toNat 1 (by decide) (by omega) (by omega) (by omega) (by omega) (by omega) (by decide)
  obtain ⟨e0, e2, _, e6, e7, e8, e9, e3⟩ := @fld_packA 36 (8 + p.toNat) xa.toNat xb.toNat fa.toNat fb.toNat 1 (by decide) (by omega) (by omega) (by omega) (by omega) (by omega) (by decide)
  generalize hx : packA 36 (8 + p.toNat) xa.toNat xb.toNat fa.toNat fb.toNat 1 = w at *
  have e4 : fld w 19 3 = 1 := by unfold fld; omega
  have e5 : fld w 16 3 = p.toNat := by unfold fld; omega
  refine decodeWord_of hf ?_
  rw [show encode (.cmppGen p xa xb fa fb) = w from hx]
  rw [decodeClass_0 e0]
  unfold decodeA
  rw [e2]
  simp [take, reg, bits, bit, bit_of_toNat, e3, e4, e5, e6, e7, e8, e9]

theorem RoundTrip.selP8P11 (xd : RegNo) (xa : RegNo) (xb : RegNo) (fa : Bool) (fb : Bool) (n : BitVec 2) :
    RoundTrip.Statement (.selP8P11 xd xa xb fa fb n) := by
  intro _ hf
  have h0 := xd.isLt
  have h1 := xa.isLt
  have h2 := xb.isLt
  have h3 := Bool.toNat_lt fa
  have h4 := Bool.toNat_lt fb
  have h5 := n.isLt
  obtain ⟨e0, e2, e3, e4, e5, e6, e7, e8⟩ := @fld_packA 37 xd.toNat xa.toNat xb.toNat fa.toNat fb.toNat n.toNat (by decide) (by omega) (by omega) (by omega) (by omega) (by omega) (by omega)
  generalize hx : packA 37 xd.toNat xa.toNat xb.toNat fa.toNat fb.toNat n.toNat = w at *
  refine decodeWord_of hf ?_
  rw [show encode (.selP8P11 xd xa xb fa fb n) = w from hx]
  rw [decodeClass_0 e0]
  unfold decodeA
  rw [e2]
  show Except.ok (Instr.selP8P11 (reg w 16) (reg w 10) (reg w 4) (bit w 3) (bit w 2) (bits w 0 2)) = _
  simp [reg, bits, bit, bit_of_toNat, e3, e4, e5, e6, e7, e8]

theorem RoundTrip.selP12P15 (xd : RegNo) (xa : RegNo) (xb : RegNo) (fa : Bool) (fb : Bool) (n : BitVec 2) :
    RoundTrip.Statement (.selP12P15 xd xa xb fa fb n) := by
  intro _ hf
  have h0 := xd.isLt
  have h1 := xa.isLt
  have h2 := xb.isLt
  have h3 := Bool.toNat_lt fa
  have h4 := Bool.toNat_lt fb
  have h5 := n.isLt
  obtain ⟨e0, e2, e3, e4, e5, e6, e7, e8⟩ := @fld_packA 38 xd.toNat xa.toNat xb.toNat fa.toNat fb.toNat n.toNat (by decide) (by omega) (by omega) (by omega) (by omega) (by omega) (by omega)
  generalize hx : packA 38 xd.toNat xa.toNat xb.toNat fa.toNat fb.toNat n.toNat = w at *
  refine decodeWord_of hf ?_
  rw [show encode (.selP12P15 xd xa xb fa fb n) = w from hx]
  rw [decodeClass_0 e0]
  unfold decodeA
  rw [e2]
  show Except.ok (Instr.selP12P15 (reg w 16) (reg w 10) (reg w 4) (bit w 3) (bit w 2) (bits w 0 2)) = _
  simp [reg, bits, bit, bit_of_toNat, e3, e4, e5, e6, e7, e8]

theorem RoundTrip.aconv (xd : RegNo) (xa : RegNo) (fa : Bool) :
    RoundTrip.Statement (.aconv xd xa fa) := by
  intro _ hf
  have h0 := xd.isLt
  have h1 := xa.isLt
  have h2 := Bool.toNat_lt fa
  have hw := @packA_toNat 39 xd.toNat xa.toNat 0 fa.toNat 0 0 (by decide) (by omega) (by omega) (by decide) (by omega) (by decide) (by decide)
  obtain ⟨e0, e2, e5, e6, e3, e7, _, _⟩ := @fld_packA 39 xd.toNat xa.toNat 0 fa.toNat 0 0 (by decide) (by omega) (by omega) (by decide) (by omega) (by decide) (by decide)
  generalize hx : packA 39 xd.toNat xa.toNat 0 fa.toNat 0 0 = w at *
  have e4 : fld w 0 3 = 0 := by unfold fld; omega
  refine decodeWord_of hf ?_
  rw [show encode (.aconv xd xa fa) = w from hx]
  rw [decodeClass_0 e0]
  unfold decodeA
  rw [e2]
  show take w [(4, 6, 0), (0, 3, 0)] (.aconv (reg w 16) (reg w 10) (bit w 3)) = _
  simp [take, reg, bit, bit_of_toNat, e3, e4, e5, e6, e7]

theorem RoundTrip.agen (xd : RegNo) (xa : RegNo) (xb : RegNo) (fa : Bool) (fb : Bool) :
    RoundTrip.Statement (.agen xd xa xb fa fb) := by
  intro _ hf
  have h0 := xd.isLt
  have h1 := xa.isLt
  have h2 := xb.isLt
  have h3 := Bool.toNat_lt fa
  have h4 := Bool.toNat_lt fb
  obtain ⟨e0, e2, e4, e5, e6, e7, e8, e3⟩ := @fld_packA 40 xd.toNat xa.toNat xb.toNat fa.toNat fb.toNat 0 (by decide) (by omega) (by omega) (by omega) (by omega) (by omega) (by decide)
  generalize hx : packA 40 xd.toNat xa.toNat xb.toNat fa.toNat fb.toNat 0 = w at *
  refine decodeWord_of hf ?_
  rw [show encode (.agen xd xa xb fa fb) = w from hx]
  rw [decodeClass_0 e0]
  unfold decodeA
  rw [e2]
  show take w [(0, 2, 0)] (.agen (reg w 16) (reg w 10) (reg w 4) (bit w 3) (bit w 2)) = _
  simp [take, reg, bit, bit_of_toNat, e3, e4, e5, e6, e7, e8]

theorem RoundTrip.atest (xd : RegNo) (xa : RegNo) (fa : Bool) :
    RoundTrip.Statement (.atest xd xa fa) := by
  intro _ hf
  have h0 := xd.isLt
  have h1 := xa.isLt
  have h2 := Bool.toNat_lt fa
  have hw := @packA_toNat 41 xd.toNat xa.toNat 0 fa.toNat 0 0 (by decide) (by omega) (by omega) (by decide) (by omega) (by decide) (by decide)
  obtain ⟨e0, e2, e5, e6, e3, e7, _, _⟩ := @fld_packA 41 xd.toNat xa.toNat 0 fa.toNat 0 0 (by decide) (by omega) (by omega) (by decide) (by omega) (by decide) (by decide)
  generalize hx : packA 41 xd.toNat xa.toNat 0 fa.toNat 0 0 = w at *
  have e4 : fld w 0 3 = 0 := by unfold fld; omega
  refine decodeWord_of hf ?_
  rw [show encode (.atest xd xa fa) = w from hx]
  rw [decodeClass_0 e0]
  unfold decodeA
  rw [e2]
  show take w [(4, 6, 0), (0, 3, 0)] (.atest (reg w 16) (reg w 10) (bit w 3)) = _
  simp [take, reg, bit, bit_of_toNat, e3, e4, e5, e6, e7]

theorem RoundTrip.addi (xd : RegNo) (xa : RegNo) (fa : Bool) (imm : BitVec 9) :
    RoundTrip.Statement (.addi xd xa fa imm) := by
  intro _ hf
  have h0 := xd.isLt
  have h1 := xa.isLt
  have h2 := Bool.toNat_lt fa
  have h3 := imm.isLt
  obtain ⟨e0, e2, e3, e4, e5, e6⟩ := @fld_packI 0 xd.toNat xa.toNat fa.toNat imm.toNat (by decide) (by omega) (by omega) (by omega) (by omega)
  generalize hx : packI 0 xd.toNat xa.toNat fa.toNat imm.toNat = w at *
  refine decodeWord_of hf ?_
  rw [show encode (.addi xd xa fa imm) = w from hx]
  rw [decodeClass_1 e0]
  unfold decodeI
  rw [e2]
  show Except.ok (Instr.addi (reg w 16) (reg w 10) (bit w 9) (bits w 0 9)) = _
  simp [reg, bits, bit, bit_of_toNat, e3, e4, e5, e6]

theorem RoundTrip.andi (xd : RegNo) (xa : RegNo) (fa : Bool) (imm : BitVec 9) :
    RoundTrip.Statement (.andi xd xa fa imm) := by
  intro _ hf
  have h0 := xd.isLt
  have h1 := xa.isLt
  have h2 := Bool.toNat_lt fa
  have h3 := imm.isLt
  obtain ⟨e0, e2, e3, e4, e5, e6⟩ := @fld_packI 1 xd.toNat xa.toNat fa.toNat imm.toNat (by decide) (by omega) (by omega) (by omega) (by omega)
  generalize hx : packI 1 xd.toNat xa.toNat fa.toNat imm.toNat = w at *
  refine decodeWord_of hf ?_
  rw [show encode (.andi xd xa fa imm) = w from hx]
  rw [decodeClass_1 e0]
  unfold decodeI
  rw [e2]
  show Except.ok (Instr.andi (reg w 16) (reg w 10) (bit w 9) (bits w 0 9)) = _
  simp [reg, bits, bit, bit_of_toNat, e3, e4, e5, e6]

theorem RoundTrip.ori (xd : RegNo) (xa : RegNo) (fa : Bool) (imm : BitVec 9) :
    RoundTrip.Statement (.ori xd xa fa imm) := by
  intro _ hf
  have h0 := xd.isLt
  have h1 := xa.isLt
  have h2 := Bool.toNat_lt fa
  have h3 := imm.isLt
  obtain ⟨e0, e2, e3, e4, e5, e6⟩ := @fld_packI 2 xd.toNat xa.toNat fa.toNat imm.toNat (by decide) (by omega) (by omega) (by omega) (by omega)
  generalize hx : packI 2 xd.toNat xa.toNat fa.toNat imm.toNat = w at *
  refine decodeWord_of hf ?_
  rw [show encode (.ori xd xa fa imm) = w from hx]
  rw [decodeClass_1 e0]
  unfold decodeI
  rw [e2]
  show Except.ok (Instr.ori (reg w 16) (reg w 10) (bit w 9) (bits w 0 9)) = _
  simp [reg, bits, bit, bit_of_toNat, e3, e4, e5, e6]

theorem RoundTrip.xori (xd : RegNo) (xa : RegNo) (fa : Bool) (imm : BitVec 9) :
    RoundTrip.Statement (.xori xd xa fa imm) := by
  intro _ hf
  have h0 := xd.isLt
  have h1 := xa.isLt
  have h2 := Bool.toNat_lt fa
  have h3 := imm.isLt
  obtain ⟨e0, e2, e3, e4, e5, e6⟩ := @fld_packI 3 xd.toNat xa.toNat fa.toNat imm.toNat (by decide) (by omega) (by omega) (by omega) (by omega)
  generalize hx : packI 3 xd.toNat xa.toNat fa.toNat imm.toNat = w at *
  refine decodeWord_of hf ?_
  rw [show encode (.xori xd xa fa imm) = w from hx]
  rw [decodeClass_1 e0]
  unfold decodeI
  rw [e2]
  show Except.ok (Instr.xori (reg w 16) (reg w 10) (bit w 9) (bits w 0 9)) = _
  simp [reg, bits, bit, bit_of_toNat, e3, e4, e5, e6]

theorem RoundTrip.shli (xd : RegNo) (xa : RegNo) (fa : Bool) (sh : BitVec 6) :
    RoundTrip.Statement (.shli xd xa fa sh) := by
  intro _ hf
  have h0 := xd.isLt
  have h1 := xa.isLt
  have h2 := Bool.toNat_lt fa
  have h3 := sh.isLt
  have hw := @packI_toNat 4 xd.toNat xa.toNat fa.toNat sh.toNat (by decide) (by omega) (by omega) (by omega) (by omega)
  obtain ⟨e0, e2, e4, e5, e6, _⟩ := @fld_packI 4 xd.toNat xa.toNat fa.toNat sh.toNat (by decide) (by omega) (by omega) (by omega) (by omega)
  generalize hx : packI 4 xd.toNat xa.toNat fa.toNat sh.toNat = w at *
  have e3 : fld w 6 3 = 0 := by unfold fld; omega
  have e7 : fld w 0 6 = sh.toNat := by unfold fld; omega
  refine decodeWord_of hf ?_
  rw [show encode (.shli xd xa fa sh) = w from hx]
  rw [decodeClass_1 e0]
  unfold decodeI
  rw [e2]
  show take w [(6, 3, 0)] (.shli (reg w 16) (reg w 10) (bit w 9) (bits w 0 6)) = _
  simp [take, reg, bits, bit, bit_of_toNat, e3, e4, e5, e6, e7]

theorem RoundTrip.shri (xd : RegNo) (xa : RegNo) (fa : Bool) (sh : BitVec 6) :
    RoundTrip.Statement (.shri xd xa fa sh) := by
  intro _ hf
  have h0 := xd.isLt
  have h1 := xa.isLt
  have h2 := Bool.toNat_lt fa
  have h3 := sh.isLt
  have hw := @packI_toNat 5 xd.toNat xa.toNat fa.toNat sh.toNat (by decide) (by omega) (by omega) (by omega) (by omega)
  obtain ⟨e0, e2, e4, e5, e6, _⟩ := @fld_packI 5 xd.toNat xa.toNat fa.toNat sh.toNat (by decide) (by omega) (by omega) (by omega) (by omega)
  generalize hx : packI 5 xd.toNat xa.toNat fa.toNat sh.toNat = w at *
  have e3 : fld w 6 3 = 0 := by unfold fld; omega
  have e7 : fld w 0 6 = sh.toNat := by unfold fld; omega
  refine decodeWord_of hf ?_
  rw [show encode (.shri xd xa fa sh) = w from hx]
  rw [decodeClass_1 e0]
  unfold decodeI
  rw [e2]
  show take w [(6, 3, 0)] (.shri (reg w 16) (reg w 10) (bit w 9) (bits w 0 6)) = _
  simp [take, reg, bits, bit, bit_of_toNat, e3, e4, e5, e6, e7]

theorem RoundTrip.srai (xd : RegNo) (xa : RegNo) (fa : Bool) (sh : BitVec 6) :
    RoundTrip.Statement (.srai xd xa fa sh) := by
  intro _ hf
  have h0 := xd.isLt
  have h1 := xa.isLt
  have h2 := Bool.toNat_lt fa
  have h3 := sh.isLt
  have hw := @packI_toNat 6 xd.toNat xa.toNat fa.toNat sh.toNat (by decide) (by omega) (by omega) (by omega) (by omega)
  obtain ⟨e0, e2, e4, e5, e6, _⟩ := @fld_packI 6 xd.toNat xa.toNat fa.toNat sh.toNat (by decide) (by omega) (by omega) (by omega) (by omega)
  generalize hx : packI 6 xd.toNat xa.toNat fa.toNat sh.toNat = w at *
  have e3 : fld w 6 3 = 0 := by unfold fld; omega
  have e7 : fld w 0 6 = sh.toNat := by unfold fld; omega
  refine decodeWord_of hf ?_
  rw [show encode (.srai xd xa fa sh) = w from hx]
  rw [decodeClass_1 e0]
  unfold decodeI
  rw [e2]
  show take w [(6, 3, 0)] (.srai (reg w 16) (reg w 10) (bit w 9) (bits w 0 6)) = _
  simp [take, reg, bits, bit, bit_of_toNat, e3, e4, e5, e6, e7]

theorem RoundTrip.roli (xd : RegNo) (xa : RegNo) (fa : Bool) (sh : BitVec 6) :
    RoundTrip.Statement (.roli xd xa fa sh) := by
  intro _ hf
  have h0 := xd.isLt
  have h1 := xa.isLt
  have h2 := Bool.toNat_lt fa
  have h3 := sh.isLt
  have hw := @packI_toNat 7 xd.toNat xa.toNat fa.toNat sh.toNat (by decide) (by omega) (by omega) (by omega) (by omega)
  obtain ⟨e0, e2, e4, e5, e6, _⟩ := @fld_packI 7 xd.toNat xa.toNat fa.toNat sh.toNat (by decide) (by omega) (by omega) (by omega) (by omega)
  generalize hx : packI 7 xd.toNat xa.toNat fa.toNat sh.toNat = w at *
  have e3 : fld w 6 3 = 0 := by unfold fld; omega
  have e7 : fld w 0 6 = sh.toNat := by unfold fld; omega
  refine decodeWord_of hf ?_
  rw [show encode (.roli xd xa fa sh) = w from hx]
  rw [decodeClass_1 e0]
  unfold decodeI
  rw [e2]
  show take w [(6, 3, 0)] (.roli (reg w 16) (reg w 10) (bit w 9) (bits w 0 6)) = _
  simp [take, reg, bits, bit, bit_of_toNat, e3, e4, e5, e6, e7]

theorem RoundTrip.rori (xd : RegNo) (xa : RegNo) (fa : Bool) (sh : BitVec 6) :
    RoundTrip.Statement (.rori xd xa fa sh) := by
  intro _ hf
  have h0 := xd.isLt
  have h1 := xa.isLt
  have h2 := Bool.toNat_lt fa
  have h3 := sh.isLt
  have hw := @packI_toNat 8 xd.toNat xa.toNat fa.toNat sh.toNat (by decide) (by omega) (by omega) (by omega) (by omega)
  obtain ⟨e0, e2, e4, e5, e6, _⟩ := @fld_packI 8 xd.toNat xa.toNat fa.toNat sh.toNat (by decide) (by omega) (by omega) (by omega) (by omega)
  generalize hx : packI 8 xd.toNat xa.toNat fa.toNat sh.toNat = w at *
  have e3 : fld w 6 3 = 0 := by unfold fld; omega
  have e7 : fld w 0 6 = sh.toNat := by unfold fld; omega
  refine decodeWord_of hf ?_
  rw [show encode (.rori xd xa fa sh) = w from hx]
  rw [decodeClass_1 e0]
  unfold decodeI
  rw [e2]
  show take w [(6, 3, 0)] (.rori (reg w 16) (reg w 10) (bit w 9) (bits w 0 6)) = _
  simp [take, reg, bits, bit, bit_of_toNat, e3, e4, e5, e6, e7]

theorem RoundTrip.slti (xd : RegNo) (xa : RegNo) (fa : Bool) (imm : BitVec 9) :
    RoundTrip.Statement (.slti xd xa fa imm) := by
  intro _ hf
  have h0 := xd.isLt
  have h1 := xa.isLt
  have h2 := Bool.toNat_lt fa
  have h3 := imm.isLt
  obtain ⟨e0, e2, e3, e4, e5, e6⟩ := @fld_packI 9 xd.toNat xa.toNat fa.toNat imm.toNat (by decide) (by omega) (by omega) (by omega) (by omega)
  generalize hx : packI 9 xd.toNat xa.toNat fa.toNat imm.toNat = w at *
  refine decodeWord_of hf ?_
  rw [show encode (.slti xd xa fa imm) = w from hx]
  rw [decodeClass_1 e0]
  unfold decodeI
  rw [e2]
  show Except.ok (Instr.slti (reg w 16) (reg w 10) (bit w 9) (bits w 0 9)) = _
  simp [reg, bits, bit, bit_of_toNat, e3, e4, e5, e6]

theorem RoundTrip.sltni (xd : RegNo) (xa : RegNo) (fa : Bool) (imm : BitVec 9) :
    RoundTrip.Statement (.sltni xd xa fa imm) := by
  intro _ hf
  have h0 := xd.isLt
  have h1 := xa.isLt
  have h2 := Bool.toNat_lt fa
  have h3 := imm.isLt
  obtain ⟨e0, e2, e3, e4, e5, e6⟩ := @fld_packI 10 xd.toNat xa.toNat fa.toNat imm.toNat (by decide) (by omega) (by omega) (by omega) (by omega)
  generalize hx : packI 10 xd.toNat xa.toNat fa.toNat imm.toNat = w at *
  refine decodeWord_of hf ?_
  rw [show encode (.sltni xd xa fa imm) = w from hx]
  rw [decodeClass_1 e0]
  unfold decodeI
  rw [e2]
  show Except.ok (Instr.sltni (reg w 16) (reg w 10) (bit w 9) (bits w 0 9)) = _
  simp [reg, bits, bit, bit_of_toNat, e3, e4, e5, e6]

theorem RoundTrip.muli (xd : RegNo) (xa : RegNo) (fa : Bool) (imm : BitVec 9) :
    RoundTrip.Statement (.muli xd xa fa imm) := by
  intro _ hf
  have h0 := xd.isLt
  have h1 := xa.isLt
  have h2 := Bool.toNat_lt fa
  have h3 := imm.isLt
  obtain ⟨e0, e2, e3, e4, e5, e6⟩ := @fld_packI 11 xd.toNat xa.toNat fa.toNat imm.toNat (by decide) (by omega) (by omega) (by omega) (by omega)
  generalize hx : packI 11 xd.toNat xa.toNat fa.toNat imm.toNat = w at *
  refine decodeWord_of hf ?_
  rw [show encode (.muli xd xa fa imm) = w from hx]
  rw [decodeClass_1 e0]
  unfold decodeI
  rw [e2]
  show Except.ok (Instr.muli (reg w 16) (reg w 10) (bit w 9) (bits w 0 9)) = _
  simp [reg, bits, bit, bit_of_toNat, e3, e4, e5, e6]

theorem RoundTrip.cmppiEq (p : BitVec 3) (xa : RegNo) (fa : Bool) (imm : BitVec 9) :
    RoundTrip.Statement (.cmppiEq p xa fa imm) := by
  intro _ hf
  have h0 := p.isLt
  have h1 := xa.isLt
  have h2 := Bool.toNat_lt fa
  have h3 := imm.isLt
  have hw := @packI_toNat 16 (8 + p.toNat) xa.toNat fa.toNat imm.toNat (by decide) (by omega) (by omega) (by omega) (by omega)
  obtain ⟨e0, e2, _, e5, e6, e7⟩ := @fld_packI 16 (8 + p.toNat) xa.toNat fa.toNat imm.toNat (by decide) (by omega) (by omega) (by omega) (by omega)
  generalize hx : packI 16 (8 + p.toNat) xa.toNat fa.toNat imm.toNat = w at *
  have e3 : fld w 19 3 = 1 := by unfold fld; omega
  have e4 : fld w 16 3 = p.toNat := by unfold fld; omega
  refine decodeWord_of hf ?_
  rw [show encode (.cmppiEq p xa fa imm) = w from hx]
  rw [decodeClass_1 e0]
  unfold decodeI
  rw [e2]
  show take w [(19, 3, 1)] (.cmppiEq (bits w 16 3) (reg w 10) (bit w 9) (bits w 0 9)) = _
  simp [take, reg, bits, bit, bit_of_toNat, e3, e4, e5, e6, e7]

theorem RoundTrip.cmppiNe (p : BitVec 3) (xa : RegNo) (fa : Bool) (imm : BitVec 9) :
    RoundTrip.Statement (.cmppiNe p xa fa imm) := by
  intro _ hf
  have h0 := p.isLt
  have h1 := xa.isLt
  have h2 := Bool.toNat_lt fa
  have h3 := imm.isLt
  have hw := @packI_toNat 17 (8 + p.toNat) xa.toNat fa.toNat imm.toNat (by decide) (by omega) (by omega) (by omega) (by omega)
  obtain ⟨e0, e2, _, e5, e6, e7⟩ := @fld_packI 17 (8 + p.toNat) xa.toNat fa.toNat imm.toNat (by decide) (by omega) (by omega) (by omega) (by omega)
  generalize hx : packI 17 (8 + p.toNat) xa.toNat fa.toNat imm.toNat = w at *
  have e3 : fld w 19 3 = 1 := by unfold fld; omega
  have e4 : fld w 16 3 = p.toNat := by unfold fld; omega
  refine decodeWord_of hf ?_
  rw [show encode (.cmppiNe p xa fa imm) = w from hx]
  rw [decodeClass_1 e0]
  unfold decodeI
  rw [e2]
  show take w [(19, 3, 1)] (.cmppiNe (bits w 16 3) (reg w 10) (bit w 9) (bits w 0 9)) = _
  simp [take, reg, bits, bit, bit_of_toNat, e3, e4, e5, e6, e7]

theorem RoundTrip.cmppiLt (p : BitVec 3) (xa : RegNo) (fa : Bool) (imm : BitVec 9) :
    RoundTrip.Statement (.cmppiLt p xa fa imm) := by
  intro _ hf
  have h0 := p.isLt
  have h1 := xa.isLt
  have h2 := Bool.toNat_lt fa
  have h3 := imm.isLt
  have hw := @packI_toNat 18 (8 + p.toNat) xa.toNat fa.toNat imm.toNat (by decide) (by omega) (by omega) (by omega) (by omega)
  obtain ⟨e0, e2, _, e5, e6, e7⟩ := @fld_packI 18 (8 + p.toNat) xa.toNat fa.toNat imm.toNat (by decide) (by omega) (by omega) (by omega) (by omega)
  generalize hx : packI 18 (8 + p.toNat) xa.toNat fa.toNat imm.toNat = w at *
  have e3 : fld w 19 3 = 1 := by unfold fld; omega
  have e4 : fld w 16 3 = p.toNat := by unfold fld; omega
  refine decodeWord_of hf ?_
  rw [show encode (.cmppiLt p xa fa imm) = w from hx]
  rw [decodeClass_1 e0]
  unfold decodeI
  rw [e2]
  show take w [(19, 3, 1)] (.cmppiLt (bits w 16 3) (reg w 10) (bit w 9) (bits w 0 9)) = _
  simp [take, reg, bits, bit, bit_of_toNat, e3, e4, e5, e6, e7]

theorem RoundTrip.cmppiGe (p : BitVec 3) (xa : RegNo) (fa : Bool) (imm : BitVec 9) :
    RoundTrip.Statement (.cmppiGe p xa fa imm) := by
  intro _ hf
  have h0 := p.isLt
  have h1 := xa.isLt
  have h2 := Bool.toNat_lt fa
  have h3 := imm.isLt
  have hw := @packI_toNat 19 (8 + p.toNat) xa.toNat fa.toNat imm.toNat (by decide) (by omega) (by omega) (by omega) (by omega)
  obtain ⟨e0, e2, _, e5, e6, e7⟩ := @fld_packI 19 (8 + p.toNat) xa.toNat fa.toNat imm.toNat (by decide) (by omega) (by omega) (by omega) (by omega)
  generalize hx : packI 19 (8 + p.toNat) xa.toNat fa.toNat imm.toNat = w at *
  have e3 : fld w 19 3 = 1 := by unfold fld; omega
  have e4 : fld w 16 3 = p.toNat := by unfold fld; omega
  refine decodeWord_of hf ?_
  rw [show encode (.cmppiGe p xa fa imm) = w from hx]
  rw [decodeClass_1 e0]
  unfold decodeI
  rw [e2]
  show take w [(19, 3, 1)] (.cmppiGe (bits w 16 3) (reg w 10) (bit w 9) (bits w 0 9)) = _
  simp [take, reg, bits, bit, bit_of_toNat, e3, e4, e5, e6, e7]

theorem RoundTrip.cmppiLtn (p : BitVec 3) (xa : RegNo) (fa : Bool) (imm : BitVec 9) :
    RoundTrip.Statement (.cmppiLtn p xa fa imm) := by
  intro _ hf
  have h0 := p.isLt
  have h1 := xa.isLt
  have h2 := Bool.toNat_lt fa
  have h3 := imm.isLt
  have hw := @packI_toNat 20 (8 + p.toNat) xa.toNat fa.toNat imm.toNat (by decide) (by omega) (by omega) (by omega) (by omega)
  obtain ⟨e0, e2, _, e5, e6, e7⟩ := @fld_packI 20 (8 + p.toNat) xa.toNat fa.toNat imm.toNat (by decide) (by omega) (by omega) (by omega) (by omega)
  generalize hx : packI 20 (8 + p.toNat) xa.toNat fa.toNat imm.toNat = w at *
  have e3 : fld w 19 3 = 1 := by unfold fld; omega
  have e4 : fld w 16 3 = p.toNat := by unfold fld; omega
  refine decodeWord_of hf ?_
  rw [show encode (.cmppiLtn p xa fa imm) = w from hx]
  rw [decodeClass_1 e0]
  unfold decodeI
  rw [e2]
  show take w [(19, 3, 1)] (.cmppiLtn (bits w 16 3) (reg w 10) (bit w 9) (bits w 0 9)) = _
  simp [take, reg, bits, bit, bit_of_toNat, e3, e4, e5, e6, e7]

theorem RoundTrip.cmppiGen (p : BitVec 3) (xa : RegNo) (fa : Bool) (imm : BitVec 9) :
    RoundTrip.Statement (.cmppiGen p xa fa imm) := by
  intro _ hf
  have h0 := p.isLt
  have h1 := xa.isLt
  have h2 := Bool.toNat_lt fa
  have h3 := imm.isLt
  have hw := @packI_toNat 21 (8 + p.toNat) xa.toNat fa.toNat imm.toNat (by decide) (by omega) (by omega) (by omega) (by omega)
  obtain ⟨e0, e2, _, e5, e6, e7⟩ := @fld_packI 21 (8 + p.toNat) xa.toNat fa.toNat imm.toNat (by decide) (by omega) (by omega) (by omega) (by omega)
  generalize hx : packI 21 (8 + p.toNat) xa.toNat fa.toNat imm.toNat = w at *
  have e3 : fld w 19 3 = 1 := by unfold fld; omega
  have e4 : fld w 16 3 = p.toNat := by unfold fld; omega
  refine decodeWord_of hf ?_
  rw [show encode (.cmppiGen p xa fa imm) = w from hx]
  rw [decodeClass_1 e0]
  unfold decodeI
  rw [e2]
  show take w [(19, 3, 1)] (.cmppiGen (bits w 16 3) (reg w 10) (bit w 9) (bits w 0 9)) = _
  simp [take, reg, bits, bit, bit_of_toNat, e3, e4, e5, e6, e7]

theorem RoundTrip.ld (size : BitVec 2) (cls : BitVec 4) (xd : RegNo) (xa : RegNo) (fa : Bool) (imm : BitVec 8) :
    RoundTrip.Statement (.ld size cls xd xa fa imm) := by
  intro _ hf
  have h0 := size.isLt
  have h1 := cls.isLt
  have h2 := xd.isLt
  have h3 := xa.isLt
  have h4 := Bool.toNat_lt fa
  have h5 := imm.isLt
  have hw := @packM_toNat size.toNat cls.toNat xd.toNat xa.toNat fa.toNat imm.toNat (by omega) (by omega) (by omega) (by omega) (by omega) (by omega)
  obtain ⟨e0, _, _, e4, e5, e6, e7, e8⟩ := @fld_packM size.toNat cls.toNat xd.toNat xa.toNat fa.toNat imm.toNat (by omega) (by omega) (by omega) (by omega) (by omega) (by omega)
  generalize hx : packM size.toNat cls.toNat xd.toNat xa.toNat fa.toNat imm.toNat = w at *
  have e2 : fld w 27 1 = 0 := by unfold fld; omega
  have e3 : fld w 25 2 = size.toNat := by unfold fld; omega
  refine decodeWord_of hf ?_
  rw [show encode (.ld size cls xd xa fa imm) = w from hx]
  rw [decodeClass_2 e0]
  unfold decodeM
  rw [e2]
  show Except.ok (Instr.ld (bits w 25 2) (bits w 21 4) (reg w 15) (reg w 9) (bit w 8) (bits w 0 8)) = _
  simp [reg, bits, bit, bit_of_toNat, e3, e4, e5, e6, e7, e8]

theorem RoundTrip.st (size : BitVec 2) (cls : BitVec 4) (xd : RegNo) (xa : RegNo) (fa : Bool) (imm : BitVec 8) :
    RoundTrip.Statement (.st size cls xd xa fa imm) := by
  intro _ hf
  have h0 := size.isLt
  have h1 := cls.isLt
  have h2 := xd.isLt
  have h3 := xa.isLt
  have h4 := Bool.toNat_lt fa
  have h5 := imm.isLt
  have hw := @packM_toNat (4 + size.toNat) cls.toNat xd.toNat xa.toNat fa.toNat imm.toNat (by omega) (by omega) (by omega) (by omega) (by omega) (by omega)
  obtain ⟨e0, _, _, e4, e5, e6, e7, e8⟩ := @fld_packM (4 + size.toNat) cls.toNat xd.toNat xa.toNat fa.toNat imm.toNat (by omega) (by omega) (by omega) (by omega) (by omega) (by omega)
  generalize hx : packM (4 + size.toNat) cls.toNat xd.toNat xa.toNat fa.toNat imm.toNat = w at *
  have e2 : fld w 27 1 = 1 := by unfold fld; omega
  have e3 : fld w 25 2 = size.toNat := by unfold fld; omega
  refine decodeWord_of hf ?_
  rw [show encode (.st size cls xd xa fa imm) = w from hx]
  rw [decodeClass_2 e0]
  unfold decodeM
  rw [e2]
  show Except.ok (Instr.st (bits w 25 2) (bits w 21 4) (reg w 15) (reg w 9) (bit w 8) (bits w 0 8)) = _
  simp [reg, bits, bit, bit_of_toNat, e3, e4, e5, e6, e7, e8]

theorem RoundTrip.beq (xa : RegNo) (xb : RegNo) (fa : Bool) (fb : Bool) (off : BitVec 10) :
    RoundTrip.Statement (.beq xa xb fa fb off) := by
  intro _ hf
  have h0 := xa.isLt
  have h1 := xb.isLt
  have h2 := Bool.toNat_lt fa
  have h3 := Bool.toNat_lt fb
  have h4 := off.isLt
  obtain ⟨e0, e2, e3, e4, e5, e6, e7⟩ := @fld_packB 0 xa.toNat xb.toNat fa.toNat fb.toNat off.toNat (by decide) (by omega) (by omega) (by omega) (by omega) (by omega)
  generalize hx : packB 0 xa.toNat xb.toNat fa.toNat fb.toNat off.toNat = w at *
  refine decodeWord_of hf ?_
  rw [show encode (.beq xa xb fa fb off) = w from hx]
  rw [decodeClass_3 e0]
  unfold decodeB
  rw [e2]
  show Except.ok (Instr.beq (reg w 18) (reg w 12) (bit w 11) (bit w 10) (bits w 0 10)) = _
  simp [reg, bits, bit, bit_of_toNat, e3, e4, e5, e6, e7]

theorem RoundTrip.bne (xa : RegNo) (xb : RegNo) (fa : Bool) (fb : Bool) (off : BitVec 10) :
    RoundTrip.Statement (.bne xa xb fa fb off) := by
  intro _ hf
  have h0 := xa.isLt
  have h1 := xb.isLt
  have h2 := Bool.toNat_lt fa
  have h3 := Bool.toNat_lt fb
  have h4 := off.isLt
  obtain ⟨e0, e2, e3, e4, e5, e6, e7⟩ := @fld_packB 1 xa.toNat xb.toNat fa.toNat fb.toNat off.toNat (by decide) (by omega) (by omega) (by omega) (by omega) (by omega)
  generalize hx : packB 1 xa.toNat xb.toNat fa.toNat fb.toNat off.toNat = w at *
  refine decodeWord_of hf ?_
  rw [show encode (.bne xa xb fa fb off) = w from hx]
  rw [decodeClass_3 e0]
  unfold decodeB
  rw [e2]
  show Except.ok (Instr.bne (reg w 18) (reg w 12) (bit w 11) (bit w 10) (bits w 0 10)) = _
  simp [reg, bits, bit, bit_of_toNat, e3, e4, e5, e6, e7]

theorem RoundTrip.blt (xa : RegNo) (xb : RegNo) (fa : Bool) (fb : Bool) (off : BitVec 10) :
    RoundTrip.Statement (.blt xa xb fa fb off) := by
  intro _ hf
  have h0 := xa.isLt
  have h1 := xb.isLt
  have h2 := Bool.toNat_lt fa
  have h3 := Bool.toNat_lt fb
  have h4 := off.isLt
  obtain ⟨e0, e2, e3, e4, e5, e6, e7⟩ := @fld_packB 2 xa.toNat xb.toNat fa.toNat fb.toNat off.toNat (by decide) (by omega) (by omega) (by omega) (by omega) (by omega)
  generalize hx : packB 2 xa.toNat xb.toNat fa.toNat fb.toNat off.toNat = w at *
  refine decodeWord_of hf ?_
  rw [show encode (.blt xa xb fa fb off) = w from hx]
  rw [decodeClass_3 e0]
  unfold decodeB
  rw [e2]
  show Except.ok (Instr.blt (reg w 18) (reg w 12) (bit w 11) (bit w 10) (bits w 0 10)) = _
  simp [reg, bits, bit, bit_of_toNat, e3, e4, e5, e6, e7]

theorem RoundTrip.bge (xa : RegNo) (xb : RegNo) (fa : Bool) (fb : Bool) (off : BitVec 10) :
    RoundTrip.Statement (.bge xa xb fa fb off) := by
  intro _ hf
  have h0 := xa.isLt
  have h1 := xb.isLt
  have h2 := Bool.toNat_lt fa
  have h3 := Bool.toNat_lt fb
  have h4 := off.isLt
  obtain ⟨e0, e2, e3, e4, e5, e6, e7⟩ := @fld_packB 3 xa.toNat xb.toNat fa.toNat fb.toNat off.toNat (by decide) (by omega) (by omega) (by omega) (by omega) (by omega)
  generalize hx : packB 3 xa.toNat xb.toNat fa.toNat fb.toNat off.toNat = w at *
  refine decodeWord_of hf ?_
  rw [show encode (.bge xa xb fa fb off) = w from hx]
  rw [decodeClass_3 e0]
  unfold decodeB
  rw [e2]
  show Except.ok (Instr.bge (reg w 18) (reg w 12) (bit w 11) (bit w 10) (bits w 0 10)) = _
  simp [reg, bits, bit, bit_of_toNat, e3, e4, e5, e6, e7]

theorem RoundTrip.bltn (xa : RegNo) (xb : RegNo) (fa : Bool) (fb : Bool) (off : BitVec 10) :
    RoundTrip.Statement (.bltn xa xb fa fb off) := by
  intro _ hf
  have h0 := xa.isLt
  have h1 := xb.isLt
  have h2 := Bool.toNat_lt fa
  have h3 := Bool.toNat_lt fb
  have h4 := off.isLt
  obtain ⟨e0, e2, e3, e4, e5, e6, e7⟩ := @fld_packB 4 xa.toNat xb.toNat fa.toNat fb.toNat off.toNat (by decide) (by omega) (by omega) (by omega) (by omega) (by omega)
  generalize hx : packB 4 xa.toNat xb.toNat fa.toNat fb.toNat off.toNat = w at *
  refine decodeWord_of hf ?_
  rw [show encode (.bltn xa xb fa fb off) = w from hx]
  rw [decodeClass_3 e0]
  unfold decodeB
  rw [e2]
  show Except.ok (Instr.bltn (reg w 18) (reg w 12) (bit w 11) (bit w 10) (bits w 0 10)) = _
  simp [reg, bits, bit, bit_of_toNat, e3, e4, e5, e6, e7]

theorem RoundTrip.bgen (xa : RegNo) (xb : RegNo) (fa : Bool) (fb : Bool) (off : BitVec 10) :
    RoundTrip.Statement (.bgen xa xb fa fb off) := by
  intro _ hf
  have h0 := xa.isLt
  have h1 := xb.isLt
  have h2 := Bool.toNat_lt fa
  have h3 := Bool.toNat_lt fb
  have h4 := off.isLt
  obtain ⟨e0, e2, e3, e4, e5, e6, e7⟩ := @fld_packB 5 xa.toNat xb.toNat fa.toNat fb.toNat off.toNat (by decide) (by omega) (by omega) (by omega) (by omega) (by omega)
  generalize hx : packB 5 xa.toNat xb.toNat fa.toNat fb.toNat off.toNat = w at *
  refine decodeWord_of hf ?_
  rw [show encode (.bgen xa xb fa fb off) = w from hx]
  rw [decodeClass_3 e0]
  unfold decodeB
  rw [e2]
  show Except.ok (Instr.bgen (reg w 18) (reg w 12) (bit w 11) (bit w 10) (bits w 0 10)) = _
  simp [reg, bits, bit, bit_of_toNat, e3, e4, e5, e6, e7]

theorem RoundTrip.bp (neg : Bool) (p : BitVec 4) (off : BitVec 10) :
    RoundTrip.Statement (.bp neg p off) := by
  intro _ hf
  have h0 := Bool.toNat_lt neg
  have h1 := p.isLt
  have h2 := off.isLt
  have hw := @packB_toNat 6 (neg.toNat * 16 + p.toNat) 0 0 0 off.toNat (by decide) (by omega) (by decide) (by decide) (by decide) (by omega)
  obtain ⟨e0, e2, _, _, _, _, e7⟩ := @fld_packB 6 (neg.toNat * 16 + p.toNat) 0 0 0 off.toNat (by decide) (by omega) (by decide) (by decide) (by decide) (by omega)
  generalize hx : packB 6 (neg.toNat * 16 + p.toNat) 0 0 0 off.toNat = w at *
  have e3 : fld w 23 1 = 0 := by unfold fld; omega
  have e4 : fld w 10 8 = 0 := by unfold fld; omega
  have e5 : fld w 22 1 = neg.toNat := by unfold fld; omega
  have e6 : fld w 18 4 = p.toNat := by unfold fld; omega
  refine decodeWord_of hf ?_
  rw [show encode (.bp neg p off) = w from hx]
  rw [decodeClass_3 e0]
  unfold decodeB
  rw [e2]
  show take w [(23, 1, 0), (10, 8, 0)] (.bp (bit w 22) (bits w 18 4) (bits w 0 10)) = _
  simp [take, bits, bit, bit_of_toNat, e3, e4, e5, e6, e7]

theorem RoundTrip.j (off : BitVec 10) :
    RoundTrip.Statement (.j off) := by
  intro _ hf
  have h0 := off.isLt
  have hw := @packB_toNat 7 0 0 0 0 off.toNat (by decide) (by decide) (by decide) (by decide) (by decide) (by omega)
  obtain ⟨e0, e2, _, _, _, _, e4⟩ := @fld_packB 7 0 0 0 0 off.toNat (by decide) (by decide) (by decide) (by decide) (by decide) (by omega)
  generalize hx : packB 7 0 0 0 0 off.toNat = w at *
  have e3 : fld w 10 14 = 0 := by unfold fld; omega
  refine decodeWord_of hf ?_
  rw [show encode (.j off) = w from hx]
  rw [decodeClass_3 e0]
  unfold decodeB
  rw [e2]
  show take w [(10, 14, 0)] (.j (bits w 0 10)) = _
  simp [take, bits, e3, e4]

theorem RoundTrip.jl (off : BitVec 10) :
    RoundTrip.Statement (.jl off) := by
  intro _ hf
  have h0 := off.isLt
  have hw := @packB_toNat 8 0 0 0 0 off.toNat (by decide) (by decide) (by decide) (by decide) (by decide) (by omega)
  obtain ⟨e0, e2, _, _, _, _, e4⟩ := @fld_packB 8 0 0 0 0 off.toNat (by decide) (by decide) (by decide) (by decide) (by decide) (by omega)
  generalize hx : packB 8 0 0 0 0 off.toNat = w at *
  have e3 : fld w 10 14 = 0 := by unfold fld; omega
  refine decodeWord_of hf ?_
  rw [show encode (.jl off) = w from hx]
  rw [decodeClass_3 e0]
  unfold decodeB
  rw [e2]
  show take w [(10, 14, 0)] (.jl (bits w 0 10)) = _
  simp [take, bits, e3, e4]

theorem RoundTrip.jr (xa : RegNo) (fa : Bool) :
    RoundTrip.Statement (.jr xa fa) := by
  intro _ hf
  have h0 := xa.isLt
  have h1 := Bool.toNat_lt fa
  have hw := @packB_toNat 9 xa.toNat 0 fa.toNat 0 0 (by decide) (by omega) (by decide) (by omega) (by decide) (by decide)
  obtain ⟨e0, e2, e5, e3, e6, _, _⟩ := @fld_packB 9 xa.toNat 0 fa.toNat 0 0 (by decide) (by omega) (by decide) (by omega) (by decide) (by decide)
  generalize hx : packB 9 xa.toNat 0 fa.toNat 0 0 = w at *
  have e4 : fld w 0 11 = 0 := by unfold fld; omega
  refine decodeWord_of hf ?_
  rw [show encode (.jr xa fa) = w from hx]
  rw [decodeClass_3 e0]
  unfold decodeB
  rw [e2]
  show take w [(12, 6, 0), (0, 11, 0)] (.jr (reg w 18) (bit w 11)) = _
  simp [take, reg, bit, bit_of_toNat, e3, e4, e5, e6]

theorem RoundTrip.loopS (xa : RegNo) (k : BitVec 6) (fa : Bool) (off : BitVec 10) :
    RoundTrip.Statement (.loopS xa k fa off) := by
  intro _ hf
  have h0 := xa.isLt
  have h1 := k.isLt
  have h2 := Bool.toNat_lt fa
  have h3 := off.isLt
  obtain ⟨e0, e2, e4, e5, e6, e3, e7⟩ := @fld_packB 10 xa.toNat k.toNat fa.toNat 0 off.toNat (by decide) (by omega) (by omega) (by omega) (by decide) (by omega)
  generalize hx : packB 10 xa.toNat k.toNat fa.toNat 0 off.toNat = w at *
  refine decodeWord_of hf ?_
  rw [show encode (.loopS xa k fa off) = w from hx]
  rw [decodeClass_3 e0]
  unfold decodeB
  rw [e2]
  show take w [(10, 1, 0)] (.loopS (reg w 18) (bits w 12 6) (bit w 11) (bits w 0 10)) = _
  simp [take, reg, bits, bit, bit_of_toNat, e3, e4, e5, e6, e7]

theorem RoundTrip.loopO (xa : RegNo) (fa : Bool) (off : BitVec 10) :
    RoundTrip.Statement (.loopO xa fa off) := by
  intro _ hf
  have h0 := xa.isLt
  have h1 := Bool.toNat_lt fa
  have h2 := off.isLt
  obtain ⟨e0, e2, e5, e3, e6, e4, e7⟩ := @fld_packB 11 xa.toNat 0 fa.toNat 0 off.toNat (by decide) (by omega) (by decide) (by omega) (by decide) (by omega)
  generalize hx : packB 11 xa.toNat 0 fa.toNat 0 off.toNat = w at *
  refine decodeWord_of hf ?_
  rw [show encode (.loopO xa fa off) = w from hx]
  rw [decodeClass_3 e0]
  unfold decodeB
  rw [e2]
  show take w [(12, 6, 0), (10, 1, 0)] (.loopO (reg w 18) (bit w 11) (bits w 0 10)) = _
  simp [take, reg, bits, bit, bit_of_toNat, e3, e4, e5, e6, e7]

theorem RoundTrip.pshv (xa : RegNo) (fa : Bool) (side : Side) :
    RoundTrip.Statement (.pshv xa fa side) := by
  intro _ hf
  have h0 := xa.isLt
  have h1 := Bool.toNat_lt fa
  have h2 := side_code_lt side
  have hw := @packS_toNat 0 0 xa.toNat (fa.toNat * 512 + side.code) (by decide) (by decide) (by omega) (by omega)
  obtain ⟨e0, e2, e3, e5, _⟩ := @fld_packS 0 0 xa.toNat (fa.toNat * 512 + side.code) (by decide) (by decide) (by omega) (by omega)
  generalize hx : packS 0 0 xa.toNat (fa.toNat * 512 + side.code) = w at *
  have e4 : fld w 1 8 = 0 := by unfold fld; omega
  have e6 : fld w 9 1 = fa.toNat := by unfold fld; omega
  have e7 : fld w 0 1 = side.code := by unfold fld; omega
  refine decodeWord_of hf ?_
  rw [show encode (.pshv xa fa side) = w from hx]
  rw [decodeClass_4 e0]
  unfold decodeS
  rw [e2]
  show take w [(16, 6, 0), (1, 8, 0)] (.pshv (reg w 10) (bit w 9) (if bit w 0 then .right else .left)) = _
  simp [take, reg, bit, bit_of_toNat, side_of_code, e3, e4, e5, e6, e7]

theorem RoundTrip.tokst (xd : RegNo) :
    RoundTrip.Statement (.tokst xd) := by
  intro _ hf
  have h0 := xd.isLt
  have hw := @packS_toNat 1 xd.toNat 0 0 (by decide) (by omega) (by decide) (by decide)
  obtain ⟨e0, e2, e4, _, _⟩ := @fld_packS 1 xd.toNat 0 0 (by decide) (by omega) (by decide) (by decide)
  generalize hx : packS 1 xd.toNat 0 0 = w at *
  have e3 : fld w 0 16 = 0 := by unfold fld; omega
  refine decodeWord_of hf ?_
  rw [show encode (.tokst xd) = w from hx]
  rw [decodeClass_4 e0]
  unfold decodeS
  rw [e2]
  show take w [(0, 16, 0)] (.tokst (reg w 16)) = _
  simp [take, reg, e3, e4]

theorem RoundTrip.sbind (xa : RegNo) (fa : Bool) (n : BitVec 2) :
    RoundTrip.Statement (.sbind xa fa n) := by
  intro _ hf
  have h0 := xa.isLt
  have h1 := Bool.toNat_lt fa
  have h2 := n.isLt
  have hw := @packS_toNat 2 0 xa.toNat (fa.toNat * 512 + n.toNat) (by decide) (by decide) (by omega) (by omega)
  obtain ⟨e0, e2, e3, e5, _⟩ := @fld_packS 2 0 xa.toNat (fa.toNat * 512 + n.toNat) (by decide) (by decide) (by omega) (by omega)
  generalize hx : packS 2 0 xa.toNat (fa.toNat * 512 + n.toNat) = w at *
  have e4 : fld w 2 7 = 0 := by unfold fld; omega
  have e6 : fld w 9 1 = fa.toNat := by unfold fld; omega
  have e7 : fld w 0 2 = n.toNat := by unfold fld; omega
  refine decodeWord_of hf ?_
  rw [show encode (.sbind xa fa n) = w from hx]
  rw [decodeClass_4 e0]
  unfold decodeS
  rw [e2]
  show take w [(16, 6, 0), (2, 7, 0)] (.sbind (reg w 10) (bit w 9) (bits w 0 2)) = _
  simp [take, reg, bits, bit, bit_of_toNat, e3, e4, e5, e6, e7]

theorem RoundTrip.fence (mask : BitVec 16) (scope : Scope) :
    RoundTrip.Statement (.fence mask scope) := by
  intro _ hf
  have h0 := mask.isLt
  have h1 := scope_code_lt scope
  have hw := @packS_toNat 3 (mask.toNat / 1024) (mask.toNat / 16 % 64) (mask.toNat % 16 * 64 + scope.code * 4) (by decide) (by omega) (by omega) (by omega)
  obtain ⟨e0, e2, _, _, _⟩ := @fld_packS 3 (mask.toNat / 1024) (mask.toNat / 16 % 64) (mask.toNat % 16 * 64 + scope.code * 4) (by decide) (by omega) (by omega) (by omega)
  generalize hx : packS 3 (mask.toNat / 1024) (mask.toNat / 16 % 64) (mask.toNat % 16 * 64 + scope.code * 4) = w at *
  have e3 : fld w 0 2 = 0 := by unfold fld; omega
  have e4 : fld w 6 16 = mask.toNat := by unfold fld; omega
  have e5 : fld w 2 4 = scope.code := by unfold fld; omega
  refine decodeWord_of hf ?_
  rw [show encode (.fence mask scope) = w from hx]
  rw [decodeClass_4 e0]
  unfold decodeS
  rw [e2]
  show withScope w 2 (fun sc => take w [(0, 2, 0)] (.fence (bits w 6 16) sc)) = _
  simp [take, withScope, scope_of_code, bits, e3, e4, e5]

theorem RoundTrip.csync :
    RoundTrip.Statement (.csync) := by
  intro _ hf
  have hw := @packS_toNat 4 0 0 0 (by decide) (by decide) (by decide) (by decide)
  obtain ⟨e0, e2, _, _, _⟩ := @fld_packS 4 0 0 0 (by decide) (by decide) (by decide) (by decide)
  generalize hx : packS 4 0 0 0 = w at *
  have e3 : fld w 0 22 = 0 := by unfold fld; omega
  refine decodeWord_of hf ?_
  rw [show encode (.csync) = w from hx]
  rw [decodeClass_4 e0]
  unfold decodeS
  rw [e2]
  show take w [(0, 22, 0)] (.csync) = _
  simp [take, e3]

theorem RoundTrip.qpoint :
    RoundTrip.Statement (.qpoint) := by
  intro _ hf
  have hw := @packS_toNat 5 0 0 0 (by decide) (by decide) (by decide) (by decide)
  obtain ⟨e0, e2, _, _, _⟩ := @fld_packS 5 0 0 0 (by decide) (by decide) (by decide) (by decide)
  generalize hx : packS 5 0 0 0 = w at *
  have e3 : fld w 0 22 = 0 := by unfold fld; omega
  refine decodeWord_of hf ?_
  rw [show encode (.qpoint) = w from hx]
  rw [decodeClass_4 e0]
  unfold decodeS
  rw [e2]
  show take w [(0, 22, 0)] (.qpoint) = _
  simp [take, e3]

theorem RoundTrip.tsc (xd : RegNo) :
    RoundTrip.Statement (.tsc xd) := by
  intro _ hf
  have h0 := xd.isLt
  have hw := @packS_toNat 6 xd.toNat 0 0 (by decide) (by omega) (by decide) (by decide)
  obtain ⟨e0, e2, e4, _, _⟩ := @fld_packS 6 xd.toNat 0 0 (by decide) (by omega) (by decide) (by decide)
  generalize hx : packS 6 xd.toNat 0 0 = w at *
  have e3 : fld w 0 16 = 0 := by unfold fld; omega
  refine decodeWord_of hf ?_
  rw [show encode (.tsc xd) = w from hx]
  rw [decodeClass_4 e0]
  unfold decodeS
  rw [e2]
  show take w [(0, 16, 0)] (.tsc (reg w 16)) = _
  simp [take, reg, e3, e4]

theorem RoundTrip.csrr (xd : RegNo) (r : Csr) :
    RoundTrip.Statement (.csrr xd r) := by
  intro _ hf
  have h0 := xd.isLt
  have h1 := csr_code_lt r
  have hw := @packS_toNat 7 xd.toNat 0 r.code (by decide) (by omega) (by decide) (by omega)
  obtain ⟨e0, e2, e4, _, _⟩ := @fld_packS 7 xd.toNat 0 r.code (by decide) (by omega) (by decide) (by omega)
  generalize hx : packS 7 xd.toNat 0 r.code = w at *
  have e3 : fld w 6 10 = 0 := by unfold fld; omega
  have e5 : fld w 0 6 = r.code := by unfold fld; omega
  refine decodeWord_of hf ?_
  rw [show encode (.csrr xd r) = w from hx]
  rw [decodeClass_4 e0]
  unfold decodeS
  rw [e2]
  show withCsr w (fun r => take w [(6, 10, 0)] (.csrr (reg w 16) r)) = _
  simp [take, withCsr, csr_of_code, reg, e3, e4, e5]

theorem RoundTrip.csrw (r : Csr) (xa : RegNo) (fa : Bool) :
    RoundTrip.Statement (.csrw r xa fa) := by
  intro _ hf
  have h0 := csr_code_lt r
  have h1 := xa.isLt
  have h2 := Bool.toNat_lt fa
  have hw := @packS_toNat 8 0 xa.toNat (r.code + fa.toNat * 512) (by decide) (by decide) (by omega) (by omega)
  obtain ⟨e0, e2, e3, e6, _⟩ := @fld_packS 8 0 xa.toNat (r.code + fa.toNat * 512) (by decide) (by decide) (by omega) (by omega)
  generalize hx : packS 8 0 xa.toNat (r.code + fa.toNat * 512) = w at *
  have e4 : fld w 6 3 = 0 := by unfold fld; omega
  have e5 : fld w 0 6 = r.code := by unfold fld; omega
  have e7 : fld w 9 1 = fa.toNat := by unfold fld; omega
  refine decodeWord_of hf ?_
  rw [show encode (.csrw r xa fa) = w from hx]
  rw [decodeClass_4 e0]
  unfold decodeS
  rw [e2]
  show withCsr w (fun r => take w [(16, 6, 0), (6, 3, 0)] (.csrw r (reg w 10) (bit w 9))) = _
  simp [take, withCsr, csr_of_code, reg, bit, bit_of_toNat, e3, e4, e5, e6, e7]

theorem RoundTrip.trap (n : BitVec 8) :
    RoundTrip.Statement (.trap n) := by
  intro _ hf
  have h0 := n.isLt
  have hw := @packS_toNat 9 0 0 n.toNat (by decide) (by decide) (by decide) (by omega)
  obtain ⟨e0, e2, _, _, _⟩ := @fld_packS 9 0 0 n.toNat (by decide) (by decide) (by decide) (by omega)
  generalize hx : packS 9 0 0 n.toNat = w at *
  have e3 : fld w 8 14 = 0 := by unfold fld; omega
  have e4 : fld w 0 8 = n.toNat := by unfold fld; omega
  refine decodeWord_of hf ?_
  rw [show encode (.trap n) = w from hx]
  rw [decodeClass_4 e0]
  unfold decodeS
  rw [e2]
  show take w [(8, 14, 0)] (.trap (bits w 0 8)) = _
  simp [take, bits, e3, e4]

theorem RoundTrip.eret :
    RoundTrip.Statement (.eret) := by
  intro _ hf
  have hw := @packS_toNat 10 0 0 0 (by decide) (by decide) (by decide) (by decide)
  obtain ⟨e0, e2, _, _, _⟩ := @fld_packS 10 0 0 0 (by decide) (by decide) (by decide) (by decide)
  generalize hx : packS 10 0 0 0 = w at *
  have e3 : fld w 0 22 = 0 := by unfold fld; omega
  refine decodeWord_of hf ?_
  rw [show encode (.eret) = w from hx]
  rw [decodeClass_4 e0]
  unfold decodeS
  rw [e2]
  show take w [(0, 22, 0)] (.eret) = _
  simp [take, e3]

theorem RoundTrip.tplLd (slot : BitVec 6) (xa : RegNo) (fa : Bool) (eng : TplEng) :
    RoundTrip.Statement (.tplLd slot xa fa eng) := by
  intro _ hf
  have h0 := slot.isLt
  have h1 := xa.isLt
  have h2 := Bool.toNat_lt fa
  have h3 := eng_code_lt eng
  have hw := @packS_toNat 11 slot.toNat xa.toNat (fa.toNat * 512 + eng.code) (by decide) (by omega) (by omega) (by omega)
  obtain ⟨e0, e2, e4, e5, _⟩ := @fld_packS 11 slot.toNat xa.toNat (fa.toNat * 512 + eng.code) (by decide) (by omega) (by omega) (by omega)
  generalize hx : packS 11 slot.toNat xa.toNat (fa.toNat * 512 + eng.code) = w at *
  have e3 : fld w 2 7 = 0 := by unfold fld; omega
  have e6 : fld w 9 1 = fa.toNat := by unfold fld; omega
  have e7 : fld w 0 2 = eng.code := by unfold fld; omega
  refine decodeWord_of hf ?_
  rw [show encode (.tplLd slot xa fa eng) = w from hx]
  rw [decodeClass_4 e0]
  unfold decodeS
  rw [e2]
  show withEng w (fun e => take w [(2, 7, 0)] (.tplLd (bits w 16 6) (reg w 10) (bit w 9) e)) = _
  simp [take, withEng, eng_of_code, reg, bits, bit, bit_of_toNat, e3, e4, e5, e6, e7]

theorem RoundTrip.tend :
    RoundTrip.Statement (.tend) := by
  intro _ hf
  have hw := @packS_toNat 12 0 0 0 (by decide) (by decide) (by decide) (by decide)
  obtain ⟨e0, e2, _, _, _⟩ := @fld_packS 12 0 0 0 (by decide) (by decide) (by decide) (by decide)
  generalize hx : packS 12 0 0 0 = w at *
  have e3 : fld w 0 22 = 0 := by unfold fld; omega
  refine decodeWord_of hf ?_
  rw [show encode (.tend) = w from hx]
  rw [decodeClass_4 e0]
  unfold decodeS
  rw [e2]
  show take w [(0, 22, 0)] (.tend) = _
  simp [take, e3]

theorem RoundTrip.ldNatural (xd : RegNo) (xa : RegNo) (fa : Bool) (cls : BitVec 4) (size : BitVec 2) :
    RoundTrip.Statement (.ldNatural xd xa fa cls size) := by
  intro _ hf
  have h0 := xd.isLt
  have h1 := xa.isLt
  have h2 := Bool.toNat_lt fa
  have h3 := cls.isLt
  have h4 := size.isLt
  have hw := @packS_toNat 13 xd.toNat xa.toNat (fa.toNat * 512 + cls.toNat * 32 + size.toNat * 8) (by decide) (by omega) (by omega) (by omega)
  obtain ⟨e0, e2, e4, e5, _⟩ := @fld_packS 13 xd.toNat xa.toNat (fa.toNat * 512 + cls.toNat * 32 + size.toNat * 8) (by decide) (by omega) (by omega) (by omega)
  generalize hx : packS 13 xd.toNat xa.toNat (fa.toNat * 512 + cls.toNat * 32 + size.toNat * 8) = w at *
  have e3 : fld w 0 3 = 0 := by unfold fld; omega
  have e6 : fld w 9 1 = fa.toNat := by unfold fld; omega
  have e7 : fld w 5 4 = cls.toNat := by unfold fld; omega
  have e8 : fld w 3 2 = size.toNat := by unfold fld; omega
  refine decodeWord_of hf ?_
  rw [show encode (.ldNatural xd xa fa cls size) = w from hx]
  rw [decodeClass_4 e0]
  unfold decodeS
  rw [e2]
  show take w [(0, 3, 0)] (.ldNatural (reg w 16) (reg w 10) (bit w 9) (bits w 5 4) (bits w 3 2)) = _
  simp [take, reg, bits, bit, bit_of_toNat, e3, e4, e5, e6, e7, e8]

theorem RoundTrip.ldc (xd : RegNo) (xa : RegNo) (fa : Bool) (size : BitVec 2) :
    RoundTrip.Statement (.ldc xd xa fa size) := by
  intro _ hf
  have h0 := xd.isLt
  have h1 := xa.isLt
  have h2 := Bool.toNat_lt fa
  have h3 := size.isLt
  have hw := @packS_toNat 14 xd.toNat xa.toNat (fa.toNat * 512 + size.toNat * 8) (by decide) (by omega) (by omega) (by omega)
  obtain ⟨e0, e2, e5, e6, _⟩ := @fld_packS 14 xd.toNat xa.toNat (fa.toNat * 512 + size.toNat * 8) (by decide) (by omega) (by omega) (by omega)
  generalize hx : packS 14 xd.toNat xa.toNat (fa.toNat * 512 + size.toNat * 8) = w at *
  have e3 : fld w 5 4 = 0 := by unfold fld; omega
  have e4 : fld w 0 3 = 0 := by unfold fld; omega
  have e7 : fld w 9 1 = fa.toNat := by unfold fld; omega
  have e8 : fld w 3 2 = size.toNat := by unfold fld; omega
  refine decodeWord_of hf ?_
  rw [show encode (.ldc xd xa fa size) = w from hx]
  rw [decodeClass_4 e0]
  unfold decodeS
  rw [e2]
  show take w [(5, 4, 0), (0, 3, 0)] (.ldc (reg w 16) (reg w 10) (bit w 9) (bits w 3 2)) = _
  simp [take, reg, bits, bit, bit_of_toNat, e3, e4, e5, e6, e7, e8]

theorem RoundTrip.wld (xd : RegNo) (k : BitVec 2) (imm : BitVec 16) :
    RoundTrip.Statement (.wld xd k imm) := by
  intro _ hf
  have h0 := xd.isLt
  have h1 := k.isLt
  have h2 := imm.isLt
  obtain ⟨e0, e4, e5, e6, e2, e3⟩ := @fld_packW xd.toNat k.toNat imm.toNat 0 0 (by omega) (by omega) (by omega) (by decide) (by decide)
  generalize hx : packW xd.toNat k.toNat imm.toNat 0 0 = w at *
  refine decodeWord_of hf ?_
  rw [show encode (.wld xd k imm) = w from hx]
  rw [decodeClass_5 e0]
  unfold decodeW
  rw [e2]
  show take w [(0, 3, 0)] (.wld (reg w 22) (bits w 20 2) (bits w 4 16)) = _
  simp [take, reg, bits, e3, e4, e5, e6]

theorem RoundTrip.wins (xd : RegNo) (k : BitVec 2) (imm : BitVec 16) :
    RoundTrip.Statement (.wins xd k imm) := by
  intro _ hf
  have h0 := xd.isLt
  have h1 := k.isLt
  have h2 := imm.isLt
  obtain ⟨e0, e4, e5, e6, e2, e3⟩ := @fld_packW xd.toNat k.toNat imm.toNat 1 0 (by omega) (by omega) (by omega) (by decide) (by decide)
  generalize hx : packW xd.toNat k.toNat imm.toNat 1 0 = w at *
  refine decodeWord_of hf ?_
  rw [show encode (.wins xd k imm) = w from hx]
  rw [decodeClass_5 e0]
  unfold decodeW
  rw [e2]
  show take w [(0, 3, 0)] (.wins (reg w 22) (bits w 20 2) (bits w 4 16)) = _
  simp [take, reg, bits, e3, e4, e5, e6]

theorem RoundTrip.vadd (sc : Bool) (vd : RegNo) (va : RegNo) (vb : RegNo) (m : BitVec 2) :
    RoundTrip.Statement (.vadd sc vd va vb m) := by
  intro _ hf
  have h0 := Bool.toNat_lt sc
  have h1 := vd.isLt
  have h2 := va.isLt
  have h3 := vb.isLt
  have h4 := m.isLt
  obtain ⟨e0, e3, e2, e4, e5, e6, e7⟩ := @fld_packV sc.toNat 0 vd.toNat va.toNat vb.toNat m.toNat (by omega) (by decide) (by omega) (by omega) (by omega) (by omega)
  generalize hx : packV sc.toNat 0 vd.toNat va.toNat vb.toNat m.toNat = w at *
  refine decodeWord_of hf ?_
  rw [show encode (.vadd sc vd va vb m) = w from hx]
  rw [decodeClass_8 e0]
  unfold decodeV
  rw [e2]
  show Except.ok (Instr.vadd (bit w 27) (reg w 14) (reg w 8) (reg w 2) (bits w 0 2)) = _
  simp [reg, bits, bit, bit_of_toNat, e3, e4, e5, e6, e7]

theorem RoundTrip.vsub (sc : Bool) (vd : RegNo) (va : RegNo) (vb : RegNo) (m : BitVec 2) :
    RoundTrip.Statement (.vsub sc vd va vb m) := by
  intro _ hf
  have h0 := Bool.toNat_lt sc
  have h1 := vd.isLt
  have h2 := va.isLt
  have h3 := vb.isLt
  have h4 := m.isLt
  obtain ⟨e0, e3, e2, e4, e5, e6, e7⟩ := @fld_packV sc.toNat 1 vd.toNat va.toNat vb.toNat m.toNat (by omega) (by decide) (by omega) (by omega) (by omega) (by omega)
  generalize hx : packV sc.toNat 1 vd.toNat va.toNat vb.toNat m.toNat = w at *
  refine decodeWord_of hf ?_
  rw [show encode (.vsub sc vd va vb m) = w from hx]
  rw [decodeClass_8 e0]
  unfold decodeV
  rw [e2]
  show Except.ok (Instr.vsub (bit w 27) (reg w 14) (reg w 8) (reg w 2) (bits w 0 2)) = _
  simp [reg, bits, bit, bit_of_toNat, e3, e4, e5, e6, e7]

theorem RoundTrip.vmul (sc : Bool) (vd : RegNo) (va : RegNo) (vb : RegNo) (m : BitVec 2) :
    RoundTrip.Statement (.vmul sc vd va vb m) := by
  intro _ hf
  have h0 := Bool.toNat_lt sc
  have h1 := vd.isLt
  have h2 := va.isLt
  have h3 := vb.isLt
  have h4 := m.isLt
  obtain ⟨e0, e3, e2, e4, e5, e6, e7⟩ := @fld_packV sc.toNat 2 vd.toNat va.toNat vb.toNat m.toNat (by omega) (by decide) (by omega) (by omega) (by omega) (by omega)
  generalize hx : packV sc.toNat 2 vd.toNat va.toNat vb.toNat m.toNat = w at *
  refine decodeWord_of hf ?_
  rw [show encode (.vmul sc vd va vb m) = w from hx]
  rw [decodeClass_8 e0]
  unfold decodeV
  rw [e2]
  show Except.ok (Instr.vmul (bit w 27) (reg w 14) (reg w 8) (reg w 2) (bits w 0 2)) = _
  simp [reg, bits, bit, bit_of_toNat, e3, e4, e5, e6, e7]

theorem RoundTrip.vfma (sc : Bool) (vd : RegNo) (va : RegNo) (vb : RegNo) (m : BitVec 2) :
    RoundTrip.Statement (.vfma sc vd va vb m) := by
  intro _ hf
  have h0 := Bool.toNat_lt sc
  have h1 := vd.isLt
  have h2 := va.isLt
  have h3 := vb.isLt
  have h4 := m.isLt
  obtain ⟨e0, e3, e2, e4, e5, e6, e7⟩ := @fld_packV sc.toNat 3 vd.toNat va.toNat vb.toNat m.toNat (by omega) (by decide) (by omega) (by omega) (by omega) (by omega)
  generalize hx : packV sc.toNat 3 vd.toNat va.toNat vb.toNat m.toNat = w at *
  refine decodeWord_of hf ?_
  rw [show encode (.vfma sc vd va vb m) = w from hx]
  rw [decodeClass_8 e0]
  unfold decodeV
  rw [e2]
  show Except.ok (Instr.vfma (bit w 27) (reg w 14) (reg w 8) (reg w 2) (bits w 0 2)) = _
  simp [reg, bits, bit, bit_of_toNat, e3, e4, e5, e6, e7]

theorem RoundTrip.vfnma (sc : Bool) (vd : RegNo) (va : RegNo) (vb : RegNo) (m : BitVec 2) :
    RoundTrip.Statement (.vfnma sc vd va vb m) := by
  intro _ hf
  have h0 := Bool.toNat_lt sc
  have h1 := vd.isLt
  have h2 := va.isLt
  have h3 := vb.isLt
  have h4 := m.isLt
  obtain ⟨e0, e3, e2, e4, e5, e6, e7⟩ := @fld_packV sc.toNat 4 vd.toNat va.toNat vb.toNat m.toNat (by omega) (by decide) (by omega) (by omega) (by omega) (by omega)
  generalize hx : packV sc.toNat 4 vd.toNat va.toNat vb.toNat m.toNat = w at *
  refine decodeWord_of hf ?_
  rw [show encode (.vfnma sc vd va vb m) = w from hx]
  rw [decodeClass_8 e0]
  unfold decodeV
  rw [e2]
  show Except.ok (Instr.vfnma (bit w 27) (reg w 14) (reg w 8) (reg w 2) (bits w 0 2)) = _
  simp [reg, bits, bit, bit_of_toNat, e3, e4, e5, e6, e7]

theorem RoundTrip.vmin (sc : Bool) (vd : RegNo) (va : RegNo) (vb : RegNo) (m : BitVec 2) :
    RoundTrip.Statement (.vmin sc vd va vb m) := by
  intro _ hf
  have h0 := Bool.toNat_lt sc
  have h1 := vd.isLt
  have h2 := va.isLt
  have h3 := vb.isLt
  have h4 := m.isLt
  obtain ⟨e0, e3, e2, e4, e5, e6, e7⟩ := @fld_packV sc.toNat 5 vd.toNat va.toNat vb.toNat m.toNat (by omega) (by decide) (by omega) (by omega) (by omega) (by omega)
  generalize hx : packV sc.toNat 5 vd.toNat va.toNat vb.toNat m.toNat = w at *
  refine decodeWord_of hf ?_
  rw [show encode (.vmin sc vd va vb m) = w from hx]
  rw [decodeClass_8 e0]
  unfold decodeV
  rw [e2]
  show Except.ok (Instr.vmin (bit w 27) (reg w 14) (reg w 8) (reg w 2) (bits w 0 2)) = _
  simp [reg, bits, bit, bit_of_toNat, e3, e4, e5, e6, e7]

theorem RoundTrip.vmax (sc : Bool) (vd : RegNo) (va : RegNo) (vb : RegNo) (m : BitVec 2) :
    RoundTrip.Statement (.vmax sc vd va vb m) := by
  intro _ hf
  have h0 := Bool.toNat_lt sc
  have h1 := vd.isLt
  have h2 := va.isLt
  have h3 := vb.isLt
  have h4 := m.isLt
  obtain ⟨e0, e3, e2, e4, e5, e6, e7⟩ := @fld_packV sc.toNat 6 vd.toNat va.toNat vb.toNat m.toNat (by omega) (by decide) (by omega) (by omega) (by omega) (by omega)
  generalize hx : packV sc.toNat 6 vd.toNat va.toNat vb.toNat m.toNat = w at *
  refine decodeWord_of hf ?_
  rw [show encode (.vmax sc vd va vb m) = w from hx]
  rw [decodeClass_8 e0]
  unfold decodeV
  rw [e2]
  show Except.ok (Instr.vmax (bit w 27) (reg w 14) (reg w 8) (reg w 2) (bits w 0 2)) = _
  simp [reg, bits, bit, bit_of_toNat, e3, e4, e5, e6, e7]

theorem RoundTrip.vminn (sc : Bool) (vd : RegNo) (va : RegNo) (vb : RegNo) (m : BitVec 2) :
    RoundTrip.Statement (.vminn sc vd va vb m) := by
  intro _ hf
  have h0 := Bool.toNat_lt sc
  have h1 := vd.isLt
  have h2 := va.isLt
  have h3 := vb.isLt
  have h4 := m.isLt
  obtain ⟨e0, e3, e2, e4, e5, e6, e7⟩ := @fld_packV sc.toNat 7 vd.toNat va.toNat vb.toNat m.toNat (by omega) (by decide) (by omega) (by omega) (by omega) (by omega)
  generalize hx : packV sc.toNat 7 vd.toNat va.toNat vb.toNat m.toNat = w at *
  refine decodeWord_of hf ?_
  rw [show encode (.vminn sc vd va vb m) = w from hx]
  rw [decodeClass_8 e0]
  unfold decodeV
  rw [e2]
  show Except.ok (Instr.vminn (bit w 27) (reg w 14) (reg w 8) (reg w 2) (bits w 0 2)) = _
  simp [reg, bits, bit, bit_of_toNat, e3, e4, e5, e6, e7]

theorem RoundTrip.vmaxn (sc : Bool) (vd : RegNo) (va : RegNo) (vb : RegNo) (m : BitVec 2) :
    RoundTrip.Statement (.vmaxn sc vd va vb m) := by
  intro _ hf
  have h0 := Bool.toNat_lt sc
  have h1 := vd.isLt
  have h2 := va.isLt
  have h3 := vb.isLt
  have h4 := m.isLt
  obtain ⟨e0, e3, e2, e4, e5, e6, e7⟩ := @fld_packV sc.toNat 8 vd.toNat va.toNat vb.toNat m.toNat (by omega) (by decide) (by omega) (by omega) (by omega) (by omega)
  generalize hx : packV sc.toNat 8 vd.toNat va.toNat vb.toNat m.toNat = w at *
  refine decodeWord_of hf ?_
  rw [show encode (.vmaxn sc vd va vb m) = w from hx]
  rw [decodeClass_8 e0]
  unfold decodeV
  rw [e2]
  show Except.ok (Instr.vmaxn (bit w 27) (reg w 14) (reg w 8) (reg w 2) (bits w 0 2)) = _
  simp [reg, bits, bit, bit_of_toNat, e3, e4, e5, e6, e7]

theorem RoundTrip.vabs (vd : RegNo) (va : RegNo) (m : BitVec 2) :
    RoundTrip.Statement (.vabs vd va m) := by
  intro _ hf
  have h0 := vd.isLt
  have h1 := va.isLt
  have h2 := m.isLt
  obtain ⟨e0, e3, e2, e5, e6, e4, e7⟩ := @fld_packV 0 9 vd.toNat va.toNat 0 m.toNat (by decide) (by decide) (by omega) (by omega) (by decide) (by omega)
  generalize hx : packV 0 9 vd.toNat va.toNat 0 m.toNat = w at *
  refine decodeWord_of hf ?_
  rw [show encode (.vabs vd va m) = w from hx]
  rw [decodeClass_8 e0]
  unfold decodeV
  rw [e2]
  show take w [(27, 1, 0), (2, 6, 0)] (.vabs (reg w 14) (reg w 8) (bits w 0 2)) = _
  simp [take, reg, bits, e3, e4, e5, e6, e7]

theorem RoundTrip.vneg (vd : RegNo) (va : RegNo) (m : BitVec 2) :
    RoundTrip.Statement (.vneg vd va m) := by
  intro _ hf
  have h0 := vd.isLt
  have h1 := va.isLt
  have h2 := m.isLt
  obtain ⟨e0, e3, e2, e5, e6, e4, e7⟩ := @fld_packV 0 10 vd.toNat va.toNat 0 m.toNat (by decide) (by decide) (by omega) (by omega) (by decide) (by omega)
  generalize hx : packV 0 10 vd.toNat va.toNat 0 m.toNat = w at *
  refine decodeWord_of hf ?_
  rw [show encode (.vneg vd va m) = w from hx]
  rw [decodeClass_8 e0]
  unfold decodeV
  rw [e2]
  show take w [(27, 1, 0), (2, 6, 0)] (.vneg (reg w 14) (reg w 8) (bits w 0 2)) = _
  simp [take, reg, bits, e3, e4, e5, e6, e7]

theorem RoundTrip.vand (sc : Bool) (vd : RegNo) (va : RegNo) (vb : RegNo) (m : BitVec 2) :
    RoundTrip.Statement (.vand sc vd va vb m) := by
  intro _ hf
  have h0 := Bool.toNat_lt sc
  have h1 := vd.isLt
  have h2 := va.isLt
  have h3 := vb.isLt
  have h4 := m.isLt
  obtain ⟨e0, e3, e2, e4, e5, e6, e7⟩ := @fld_packV sc.toNat 11 vd.toNat va.toNat vb.toNat m.toNat (by omega) (by decide) (by omega) (by omega) (by omega) (by omega)
  generalize hx : packV sc.toNat 11 vd.toNat va.toNat vb.toNat m.toNat = w at *
  refine decodeWord_of hf ?_
  rw [show encode (.vand sc vd va vb m) = w from hx]
  rw [decodeClass_8 e0]
  unfold decodeV
  rw [e2]
  show Except.ok (Instr.vand (bit w 27) (reg w 14) (reg w 8) (reg w 2) (bits w 0 2)) = _
  simp [reg, bits, bit, bit_of_toNat, e3, e4, e5, e6, e7]

theorem RoundTrip.vor (sc : Bool) (vd : RegNo) (va : RegNo) (vb : RegNo) (m : BitVec 2) :
    RoundTrip.Statement (.vor sc vd va vb m) := by
  intro _ hf
  have h0 := Bool.toNat_lt sc
  have h1 := vd.isLt
  have h2 := va.isLt
  have h3 := vb.isLt
  have h4 := m.isLt
  obtain ⟨e0, e3, e2, e4, e5, e6, e7⟩ := @fld_packV sc.toNat 12 vd.toNat va.toNat vb.toNat m.toNat (by omega) (by decide) (by omega) (by omega) (by omega) (by omega)
  generalize hx : packV sc.toNat 12 vd.toNat va.toNat vb.toNat m.toNat = w at *
  refine decodeWord_of hf ?_
  rw [show encode (.vor sc vd va vb m) = w from hx]
  rw [decodeClass_8 e0]
  unfold decodeV
  rw [e2]
  show Except.ok (Instr.vor (bit w 27) (reg w 14) (reg w 8) (reg w 2) (bits w 0 2)) = _
  simp [reg, bits, bit, bit_of_toNat, e3, e4, e5, e6, e7]

theorem RoundTrip.vxor (sc : Bool) (vd : RegNo) (va : RegNo) (vb : RegNo) (m : BitVec 2) :
    RoundTrip.Statement (.vxor sc vd va vb m) := by
  intro _ hf
  have h0 := Bool.toNat_lt sc
  have h1 := vd.isLt
  have h2 := va.isLt
  have h3 := vb.isLt
  have h4 := m.isLt
  obtain ⟨e0, e3, e2, e4, e5, e6, e7⟩ := @fld_packV sc.toNat 13 vd.toNat va.toNat vb.toNat m.toNat (by omega) (by decide) (by omega) (by omega) (by omega) (by omega)
  generalize hx : packV sc.toNat 13 vd.toNat va.toNat vb.toNat m.toNat = w at *
  refine decodeWord_of hf ?_
  rw [show encode (.vxor sc vd va vb m) = w from hx]
  rw [decodeClass_8 e0]
  unfold decodeV
  rw [e2]
  show Except.ok (Instr.vxor (bit w 27) (reg w 14) (reg w 8) (reg w 2) (bits w 0 2)) = _
  simp [reg, bits, bit, bit_of_toNat, e3, e4, e5, e6, e7]

theorem RoundTrip.vandn (sc : Bool) (vd : RegNo) (va : RegNo) (vb : RegNo) (m : BitVec 2) :
    RoundTrip.Statement (.vandn sc vd va vb m) := by
  intro _ hf
  have h0 := Bool.toNat_lt sc
  have h1 := vd.isLt
  have h2 := va.isLt
  have h3 := vb.isLt
  have h4 := m.isLt
  obtain ⟨e0, e3, e2, e4, e5, e6, e7⟩ := @fld_packV sc.toNat 14 vd.toNat va.toNat vb.toNat m.toNat (by omega) (by decide) (by omega) (by omega) (by omega) (by omega)
  generalize hx : packV sc.toNat 14 vd.toNat va.toNat vb.toNat m.toNat = w at *
  refine decodeWord_of hf ?_
  rw [show encode (.vandn sc vd va vb m) = w from hx]
  rw [decodeClass_8 e0]
  unfold decodeV
  rw [e2]
  show Except.ok (Instr.vandn (bit w 27) (reg w 14) (reg w 8) (reg w 2) (bits w 0 2)) = _
  simp [reg, bits, bit, bit_of_toNat, e3, e4, e5, e6, e7]

theorem RoundTrip.vshl (sc : Bool) (vd : RegNo) (va : RegNo) (vb : RegNo) (m : BitVec 2) :
    RoundTrip.Statement (.vshl sc vd va vb m) := by
  intro _ hf
  have h0 := Bool.toNat_lt sc
  have h1 := vd.isLt
  have h2 := va.isLt
  have h3 := vb.isLt
  have h4 := m.isLt
  obtain ⟨e0, e3, e2, e4, e5, e6, e7⟩ := @fld_packV sc.toNat 15 vd.toNat va.toNat vb.toNat m.toNat (by omega) (by decide) (by omega) (by omega) (by omega) (by omega)
  generalize hx : packV sc.toNat 15 vd.toNat va.toNat vb.toNat m.toNat = w at *
  refine decodeWord_of hf ?_
  rw [show encode (.vshl sc vd va vb m) = w from hx]
  rw [decodeClass_8 e0]
  unfold decodeV
  rw [e2]
  show Except.ok (Instr.vshl (bit w 27) (reg w 14) (reg w 8) (reg w 2) (bits w 0 2)) = _
  simp [reg, bits, bit, bit_of_toNat, e3, e4, e5, e6, e7]

theorem RoundTrip.vshr (sc : Bool) (vd : RegNo) (va : RegNo) (vb : RegNo) (m : BitVec 2) :
    RoundTrip.Statement (.vshr sc vd va vb m) := by
  intro _ hf
  have h0 := Bool.toNat_lt sc
  have h1 := vd.isLt
  have h2 := va.isLt
  have h3 := vb.isLt
  have h4 := m.isLt
  obtain ⟨e0, e3, e2, e4, e5, e6, e7⟩ := @fld_packV sc.toNat 16 vd.toNat va.toNat vb.toNat m.toNat (by omega) (by decide) (by omega) (by omega) (by omega) (by omega)
  generalize hx : packV sc.toNat 16 vd.toNat va.toNat vb.toNat m.toNat = w at *
  refine decodeWord_of hf ?_
  rw [show encode (.vshr sc vd va vb m) = w from hx]
  rw [decodeClass_8 e0]
  unfold decodeV
  rw [e2]
  show Except.ok (Instr.vshr (bit w 27) (reg w 14) (reg w 8) (reg w 2) (bits w 0 2)) = _
  simp [reg, bits, bit, bit_of_toNat, e3, e4, e5, e6, e7]

theorem RoundTrip.vsra (sc : Bool) (vd : RegNo) (va : RegNo) (vb : RegNo) (m : BitVec 2) :
    RoundTrip.Statement (.vsra sc vd va vb m) := by
  intro _ hf
  have h0 := Bool.toNat_lt sc
  have h1 := vd.isLt
  have h2 := va.isLt
  have h3 := vb.isLt
  have h4 := m.isLt
  obtain ⟨e0, e3, e2, e4, e5, e6, e7⟩ := @fld_packV sc.toNat 17 vd.toNat va.toNat vb.toNat m.toNat (by omega) (by decide) (by omega) (by omega) (by omega) (by omega)
  generalize hx : packV sc.toNat 17 vd.toNat va.toNat vb.toNat m.toNat = w at *
  refine decodeWord_of hf ?_
  rw [show encode (.vsra sc vd va vb m) = w from hx]
  rw [decodeClass_8 e0]
  unfold decodeV
  rw [e2]
  show Except.ok (Instr.vsra (bit w 27) (reg w 14) (reg w 8) (reg w 2) (bits w 0 2)) = _
  simp [reg, bits, bit, bit_of_toNat, e3, e4, e5, e6, e7]

theorem RoundTrip.vexp2 (vd : RegNo) (va : RegNo) (m : BitVec 2) :
    RoundTrip.Statement (.vexp2 vd va m) := by
  intro _ hf
  have h0 := vd.isLt
  have h1 := va.isLt
  have h2 := m.isLt
  obtain ⟨e0, e3, e2, e5, e6, e4, e7⟩ := @fld_packV 0 18 vd.toNat va.toNat 0 m.toNat (by decide) (by decide) (by omega) (by omega) (by decide) (by omega)
  generalize hx : packV 0 18 vd.toNat va.toNat 0 m.toNat = w at *
  refine decodeWord_of hf ?_
  rw [show encode (.vexp2 vd va m) = w from hx]
  rw [decodeClass_8 e0]
  unfold decodeV
  rw [e2]
  show take w [(27, 1, 0), (2, 6, 0)] (.vexp2 (reg w 14) (reg w 8) (bits w 0 2)) = _
  simp [take, reg, bits, e3, e4, e5, e6, e7]

theorem RoundTrip.vlog2 (vd : RegNo) (va : RegNo) (m : BitVec 2) :
    RoundTrip.Statement (.vlog2 vd va m) := by
  intro _ hf
  have h0 := vd.isLt
  have h1 := va.isLt
  have h2 := m.isLt
  obtain ⟨e0, e3, e2, e5, e6, e4, e7⟩ := @fld_packV 0 19 vd.toNat va.toNat 0 m.toNat (by decide) (by decide) (by omega) (by omega) (by decide) (by omega)
  generalize hx : packV 0 19 vd.toNat va.toNat 0 m.toNat = w at *
  refine decodeWord_of hf ?_
  rw [show encode (.vlog2 vd va m) = w from hx]
  rw [decodeClass_8 e0]
  unfold decodeV
  rw [e2]
  show take w [(27, 1, 0), (2, 6, 0)] (.vlog2 (reg w 14) (reg w 8) (bits w 0 2)) = _
  simp [take, reg, bits, e3, e4, e5, e6, e7]

theorem RoundTrip.vrecip (vd : RegNo) (va : RegNo) (m : BitVec 2) :
    RoundTrip.Statement (.vrecip vd va m) := by
  intro _ hf
  have h0 := vd.isLt
  have h1 := va.isLt
  have h2 := m.isLt
  obtain ⟨e0, e3, e2, e5, e6, e4, e7⟩ := @fld_packV 0 20 vd.toNat va.toNat 0 m.toNat (by decide) (by decide) (by omega) (by omega) (by decide) (by omega)
  generalize hx : packV 0 20 vd.toNat va.toNat 0 m.toNat = w at *
  refine decodeWord_of hf ?_
  rw [show encode (.vrecip vd va m) = w from hx]
  rw [decodeClass_8 e0]
  unfold decodeV
  rw [e2]
  show take w [(27, 1, 0), (2, 6, 0)] (.vrecip (reg w 14) (reg w 8) (bits w 0 2)) = _
  simp [take, reg, bits, e3, e4, e5, e6, e7]

theorem RoundTrip.vrsq (vd : RegNo) (va : RegNo) (m : BitVec 2) :
    RoundTrip.Statement (.vrsq vd va m) := by
  intro _ hf
  have h0 := vd.isLt
  have h1 := va.isLt
  have h2 := m.isLt
  obtain ⟨e0, e3, e2, e5, e6, e4, e7⟩ := @fld_packV 0 21 vd.toNat va.toNat 0 m.toNat (by decide) (by decide) (by omega) (by omega) (by decide) (by omega)
  generalize hx : packV 0 21 vd.toNat va.toNat 0 m.toNat = w at *
  refine decodeWord_of hf ?_
  rw [show encode (.vrsq vd va m) = w from hx]
  rw [decodeClass_8 e0]
  unfold decodeV
  rw [e2]
  show take w [(27, 1, 0), (2, 6, 0)] (.vrsq (reg w 14) (reg w 8) (bits w 0 2)) = _
  simp [take, reg, bits, e3, e4, e5, e6, e7]

theorem RoundTrip.vcmpEq (sc : Bool) (md : BitVec 3) (va : RegNo) (vb : RegNo) (m : BitVec 2) :
    RoundTrip.Statement (.vcmpEq sc md va vb m) := by
  intro _ hf
  have h0 := Bool.toNat_lt sc
  have h1 := md.isLt
  have h2 := va.isLt
  have h3 := vb.isLt
  have h4 := m.isLt
  have hw := @packV_toNat sc.toNat 22 md.toNat va.toNat vb.toNat m.toNat (by omega) (by decide) (by omega) (by omega) (by omega) (by omega)
  obtain ⟨e0, e4, e2, _, e6, e7, e8⟩ := @fld_packV sc.toNat 22 md.toNat va.toNat vb.toNat m.toNat (by omega) (by decide) (by omega) (by omega) (by omega) (by omega)
  generalize hx : packV sc.toNat 22 md.toNat va.toNat vb.toNat m.toNat = w at *
  have e3 : fld w 17 3 = 0 := by unfold fld; omega
  have e5 : fld w 14 3 = md.toNat := by unfold fld; omega
  refine decodeWord_of hf ?_
  rw [show encode (.vcmpEq sc md va vb m) = w from hx]
  rw [decodeClass_8 e0]
  unfold decodeV
  rw [e2]
  show take w [(17, 3, 0)] (.vcmpEq (bit w 27) (bits w 14 3) (reg w 8) (reg w 2) (bits w 0 2)) = _
  simp [take, reg, bits, bit, bit_of_toNat, e3, e4, e5, e6, e7, e8]

theorem RoundTrip.vcmpNe (sc : Bool) (md : BitVec 3) (va : RegNo) (vb : RegNo) (m : BitVec 2) :
    RoundTrip.Statement (.vcmpNe sc md va vb m) := by
  intro _ hf
  have h0 := Bool.toNat_lt sc
  have h1 := md.isLt
  have h2 := va.isLt
  have h3 := vb.isLt
  have h4 := m.isLt
  have hw := @packV_toNat sc.toNat 23 md.toNat va.toNat vb.toNat m.toNat (by omega) (by decide) (by omega) (by omega) (by omega) (by omega)
  obtain ⟨e0, e4, e2, _, e6, e7, e8⟩ := @fld_packV sc.toNat 23 md.toNat va.toNat vb.toNat m.toNat (by omega) (by decide) (by omega) (by omega) (by omega) (by omega)
  generalize hx : packV sc.toNat 23 md.toNat va.toNat vb.toNat m.toNat = w at *
  have e3 : fld w 17 3 = 0 := by unfold fld; omega
  have e5 : fld w 14 3 = md.toNat := by unfold fld; omega
  refine decodeWord_of hf ?_
  rw [show encode (.vcmpNe sc md va vb m) = w from hx]
  rw [decodeClass_8 e0]
  unfold decodeV
  rw [e2]
  show take w [(17, 3, 0)] (.vcmpNe (bit w 27) (bits w 14 3) (reg w 8) (reg w 2) (bits w 0 2)) = _
  simp [take, reg, bits, bit, bit_of_toNat, e3, e4, e5, e6, e7, e8]

theorem RoundTrip.vcmpLt (sc : Bool) (md : BitVec 3) (va : RegNo) (vb : RegNo) (m : BitVec 2) :
    RoundTrip.Statement (.vcmpLt sc md va vb m) := by
  intro _ hf
  have h0 := Bool.toNat_lt sc
  have h1 := md.isLt
  have h2 := va.isLt
  have h3 := vb.isLt
  have h4 := m.isLt
  have hw := @packV_toNat sc.toNat 24 md.toNat va.toNat vb.toNat m.toNat (by omega) (by decide) (by omega) (by omega) (by omega) (by omega)
  obtain ⟨e0, e4, e2, _, e6, e7, e8⟩ := @fld_packV sc.toNat 24 md.toNat va.toNat vb.toNat m.toNat (by omega) (by decide) (by omega) (by omega) (by omega) (by omega)
  generalize hx : packV sc.toNat 24 md.toNat va.toNat vb.toNat m.toNat = w at *
  have e3 : fld w 17 3 = 0 := by unfold fld; omega
  have e5 : fld w 14 3 = md.toNat := by unfold fld; omega
  refine decodeWord_of hf ?_
  rw [show encode (.vcmpLt sc md va vb m) = w from hx]
  rw [decodeClass_8 e0]
  unfold decodeV
  rw [e2]
  show take w [(17, 3, 0)] (.vcmpLt (bit w 27) (bits w 14 3) (reg w 8) (reg w 2) (bits w 0 2)) = _
  simp [take, reg, bits, bit, bit_of_toNat, e3, e4, e5, e6, e7, e8]

theorem RoundTrip.vcmpGe (sc : Bool) (md : BitVec 3) (va : RegNo) (vb : RegNo) (m : BitVec 2) :
    RoundTrip.Statement (.vcmpGe sc md va vb m) := by
  intro _ hf
  have h0 := Bool.toNat_lt sc
  have h1 := md.isLt
  have h2 := va.isLt
  have h3 := vb.isLt
  have h4 := m.isLt
  have hw := @packV_toNat sc.toNat 25 md.toNat va.toNat vb.toNat m.toNat (by omega) (by decide) (by omega) (by omega) (by omega) (by omega)
  obtain ⟨e0, e4, e2, _, e6, e7, e8⟩ := @fld_packV sc.toNat 25 md.toNat va.toNat vb.toNat m.toNat (by omega) (by decide) (by omega) (by omega) (by omega) (by omega)
  generalize hx : packV sc.toNat 25 md.toNat va.toNat vb.toNat m.toNat = w at *
  have e3 : fld w 17 3 = 0 := by unfold fld; omega
  have e5 : fld w 14 3 = md.toNat := by unfold fld; omega
  refine decodeWord_of hf ?_
  rw [show encode (.vcmpGe sc md va vb m) = w from hx]
  rw [decodeClass_8 e0]
  unfold decodeV
  rw [e2]
  show take w [(17, 3, 0)] (.vcmpGe (bit w 27) (bits w 14 3) (reg w 8) (reg w 2) (bits w 0 2)) = _
  simp [take, reg, bits, bit, bit_of_toNat, e3, e4, e5, e6, e7, e8]

theorem RoundTrip.vcmpLtn (sc : Bool) (md : BitVec 3) (va : RegNo) (vb : RegNo) (m : BitVec 2) :
    RoundTrip.Statement (.vcmpLtn sc md va vb m) := by
  intro _ hf
  have h0 := Bool.toNat_lt sc
  have h1 := md.isLt
  have h2 := va.isLt
  have h3 := vb.isLt
  have h4 := m.isLt
  have hw := @packV_toNat sc.toNat 26 md.toNat va.toNat vb.toNat m.toNat (by omega) (by decide) (by omega) (by omega) (by omega) (by omega)
  obtain ⟨e0, e4, e2, _, e6, e7, e8⟩ := @fld_packV sc.toNat 26 md.toNat va.toNat vb.toNat m.toNat (by omega) (by decide) (by omega) (by omega) (by omega) (by omega)
  generalize hx : packV sc.toNat 26 md.toNat va.toNat vb.toNat m.toNat = w at *
  have e3 : fld w 17 3 = 0 := by unfold fld; omega
  have e5 : fld w 14 3 = md.toNat := by unfold fld; omega
  refine decodeWord_of hf ?_
  rw [show encode (.vcmpLtn sc md va vb m) = w from hx]
  rw [decodeClass_8 e0]
  unfold decodeV
  rw [e2]
  show take w [(17, 3, 0)] (.vcmpLtn (bit w 27) (bits w 14 3) (reg w 8) (reg w 2) (bits w 0 2)) = _
  simp [take, reg, bits, bit, bit_of_toNat, e3, e4, e5, e6, e7, e8]

theorem RoundTrip.vcmpGen (sc : Bool) (md : BitVec 3) (va : RegNo) (vb : RegNo) (m : BitVec 2) :
    RoundTrip.Statement (.vcmpGen sc md va vb m) := by
  intro _ hf
  have h0 := Bool.toNat_lt sc
  have h1 := md.isLt
  have h2 := va.isLt
  have h3 := vb.isLt
  have h4 := m.isLt
  have hw := @packV_toNat sc.toNat 27 md.toNat va.toNat vb.toNat m.toNat (by omega) (by decide) (by omega) (by omega) (by omega) (by omega)
  obtain ⟨e0, e4, e2, _, e6, e7, e8⟩ := @fld_packV sc.toNat 27 md.toNat va.toNat vb.toNat m.toNat (by omega) (by decide) (by omega) (by omega) (by omega) (by omega)
  generalize hx : packV sc.toNat 27 md.toNat va.toNat vb.toNat m.toNat = w at *
  have e3 : fld w 17 3 = 0 := by unfold fld; omega
  have e5 : fld w 14 3 = md.toNat := by unfold fld; omega
  refine decodeWord_of hf ?_
  rw [show encode (.vcmpGen sc md va vb m) = w from hx]
  rw [decodeClass_8 e0]
  unfold decodeV
  rw [e2]
  show take w [(17, 3, 0)] (.vcmpGen (bit w 27) (bits w 14 3) (reg w 8) (reg w 2) (bits w 0 2)) = _
  simp [take, reg, bits, bit, bit_of_toNat, e3, e4, e5, e6, e7, e8]

theorem RoundTrip.vsel (sc : Bool) (vd : RegNo) (va : RegNo) (vb : RegNo) (m : BitVec 2) :
    RoundTrip.Statement (.vsel sc vd va vb m) := by
  intro _ hf
  have h0 := Bool.toNat_lt sc
  have h1 := vd.isLt
  have h2 := va.isLt
  have h3 := vb.isLt
  have h4 := m.isLt
  obtain ⟨e0, e3, e2, e4, e5, e6, e7⟩ := @fld_packV sc.toNat 28 vd.toNat va.toNat vb.toNat m.toNat (by omega) (by decide) (by omega) (by omega) (by omega) (by omega)
  generalize hx : packV sc.toNat 28 vd.toNat va.toNat vb.toNat m.toNat = w at *
  refine decodeWord_of hf ?_
  rw [show encode (.vsel sc vd va vb m) = w from hx]
  rw [decodeClass_8 e0]
  unfold decodeV
  rw [e2]
  show Except.ok (Instr.vsel (bit w 27) (reg w 14) (reg w 8) (reg w 2) (bits w 0 2)) = _
  simp [reg, bits, bit, bit_of_toNat, e3, e4, e5, e6, e7]

theorem RoundTrip.vcvt (t : BitVec 3) (vd : RegNo) (va : RegNo) (p : BitVec 2) (sat : Bool) (rm : BitVec 3) (m : BitVec 2) :
    RoundTrip.Statement (.vcvt t vd va p sat rm m) := by
  intro _ hf
  have h0 := t.isLt
  have h1 := vd.isLt
  have h2 := va.isLt
  have h3 := p.isLt
  have h4 := Bool.toNat_lt sat
  have h5 := rm.isLt
  have h6 := m.isLt
  have hw := @packV_toNat 0 (32 + t.toNat) vd.toNat va.toNat (p.toNat * 16 + sat.toNat * 8 + rm.toNat) m.toNat (by decide) (by omega) (by omega) (by omega) (by omega) (by omega)
  obtain ⟨e0, e3, e2, e5, e6, _, e10⟩ := @fld_packV 0 (32 + t.toNat) vd.toNat va.toNat (p.toNat * 16 + sat.toNat * 8 + rm.toNat) m.toNat (by decide) (by omega) (by omega) (by omega) (by omega) (by omega)
  generalize hx : packV 0 (32 + t.toNat) vd.toNat va.toNat (p.toNat * 16 + sat.toNat * 8 + rm.toNat) m.toNat = w at *
  have e4 : fld w 20 3 = t.toNat := by unfold fld; omega
  have e7 : fld w 6 2 = p.toNat := by unfold fld; omega
  have e8 : fld w 5 1 = sat.toNat := by unfold fld; omega
  have e9 : fld w 2 3 = rm.toNat := by unfold fld; omega
  refine decodeWord_of hf ?_
  rw [show encode (.vcvt t vd va p sat rm m) = w from hx]
  have et : decodeV w = take w [(27, 1, 0)] (.vcvt (bits w 20 3) (reg w 14) (reg w 8) (bits w 6 2) (bit w 5) (bits w 2 3) (bits w 0 2)) := by
    have ht : t.toNat = 0 ∨ t.toNat = 1 ∨ t.toNat = 2 ∨ t.toNat = 3 ∨ t.toNat = 4 ∨ t.toNat = 5 ∨ t.toNat = 6 ∨ t.toNat = 7 := by omega
    unfold decodeV
    rcases ht with h | h | h | h | h | h | h | h <;> simp [e2, h]
  rw [decodeClass_8 e0, et]
  simp [take, reg, bits, bit, bit_of_toNat, e3, e4, e5, e6, e7, e8, e9, e10]

theorem RoundTrip.vrng (vd : RegNo) (xb : RegNo) (m : BitVec 2) :
    RoundTrip.Statement (.vrng vd xb m) := by
  intro _ hf
  have h0 := vd.isLt
  have h1 := xb.isLt
  have h2 := m.isLt
  obtain ⟨e0, e3, e2, e5, e4, e6, e7⟩ := @fld_packV 1 40 vd.toNat 0 xb.toNat m.toNat (by decide) (by decide) (by omega) (by decide) (by omega) (by omega)
  generalize hx : packV 1 40 vd.toNat 0 xb.toNat m.toNat = w at *
  refine decodeWord_of hf ?_
  rw [show encode (.vrng vd xb m) = w from hx]
  rw [decodeClass_8 e0]
  unfold decodeV
  rw [e2]
  show take w [(27, 1, 1), (8, 6, 0)] (.vrng (reg w 14) (reg w 2) (bits w 0 2)) = _
  simp [take, reg, bits, e3, e4, e5, e6, e7]

theorem RoundTrip.vkey (xb : RegNo) :
    RoundTrip.Statement (.vkey xb) := by
  intro _ hf
  have h0 := xb.isLt
  have hw := @packV_toNat 1 41 0 0 xb.toNat 0 (by decide) (by decide) (by decide) (by decide) (by omega) (by decide)
  obtain ⟨e0, e3, e2, _, _, e6, e5⟩ := @fld_packV 1 41 0 0 xb.toNat 0 (by decide) (by decide) (by decide) (by decide) (by omega) (by decide)
  generalize hx : packV 1 41 0 0 xb.toNat 0 = w at *
  have e4 : fld w 8 12 = 0 := by unfold fld; omega
  refine decodeWord_of hf ?_
  rw [show encode (.vkey xb) = w from hx]
  rw [decodeClass_8 e0]
  unfold decodeV
  rw [e2]
  show take w [(27, 1, 1), (8, 12, 0), (0, 2, 0)] (.vkey (reg w 2)) = _
  simp [take, reg, e3, e4, e5, e6]

theorem RoundTrip.vrsum (vd : RegNo) (va : RegNo) (m : BitVec 2) :
    RoundTrip.Statement (.vrsum vd va m) := by
  intro _ hf
  have h0 := vd.isLt
  have h1 := va.isLt
  have h2 := m.isLt
  obtain ⟨e0, e3, e2, e5, e6, e4, e7⟩ := @fld_packV 0 42 vd.toNat va.toNat 0 m.toNat (by decide) (by decide) (by omega) (by omega) (by decide) (by omega)
  generalize hx : packV 0 42 vd.toNat va.toNat 0 m.toNat = w at *
  refine decodeWord_of hf ?_
  rw [show encode (.vrsum vd va m) = w from hx]
  rw [decodeClass_8 e0]
  unfold decodeV
  rw [e2]
  show take w [(27, 1, 0), (2, 6, 0)] (.vrsum (reg w 14) (reg w 8) (bits w 0 2)) = _
  simp [take, reg, bits, e3, e4, e5, e6, e7]

theorem RoundTrip.vrmax (vd : RegNo) (va : RegNo) (m : BitVec 2) :
    RoundTrip.Statement (.vrmax vd va m) := by
  intro _ hf
  have h0 := vd.isLt
  have h1 := va.isLt
  have h2 := m.isLt
  obtain ⟨e0, e3, e2, e5, e6, e4, e7⟩ := @fld_packV 0 43 vd.toNat va.toNat 0 m.toNat (by decide) (by decide) (by omega) (by omega) (by decide) (by omega)
  generalize hx : packV 0 43 vd.toNat va.toNat 0 m.toNat = w at *
  refine decodeWord_of hf ?_
  rw [show encode (.vrmax vd va m) = w from hx]
  rw [decodeClass_8 e0]
  unfold decodeV
  rw [e2]
  show take w [(27, 1, 0), (2, 6, 0)] (.vrmax (reg w 14) (reg w 8) (bits w 0 2)) = _
  simp [take, reg, bits, e3, e4, e5, e6, e7]

theorem RoundTrip.vrmin (vd : RegNo) (va : RegNo) (m : BitVec 2) :
    RoundTrip.Statement (.vrmin vd va m) := by
  intro _ hf
  have h0 := vd.isLt
  have h1 := va.isLt
  have h2 := m.isLt
  obtain ⟨e0, e3, e2, e5, e6, e4, e7⟩ := @fld_packV 0 44 vd.toNat va.toNat 0 m.toNat (by decide) (by decide) (by omega) (by omega) (by decide) (by omega)
  generalize hx : packV 0 44 vd.toNat va.toNat 0 m.toNat = w at *
  refine decodeWord_of hf ?_
  rw [show encode (.vrmin vd va m) = w from hx]
  rw [decodeClass_8 e0]
  unfold decodeV
  rw [e2]
  show take w [(27, 1, 0), (2, 6, 0)] (.vrmin (reg w 14) (reg w 8) (bits w 0 2)) = _
  simp [take, reg, bits, e3, e4, e5, e6, e7]

theorem RoundTrip.vscan (vd : RegNo) (va : RegNo) (m : BitVec 2) :
    RoundTrip.Statement (.vscan vd va m) := by
  intro _ hf
  have h0 := vd.isLt
  have h1 := va.isLt
  have h2 := m.isLt
  obtain ⟨e0, e3, e2, e5, e6, e4, e7⟩ := @fld_packV 0 45 vd.toNat va.toNat 0 m.toNat (by decide) (by decide) (by omega) (by omega) (by decide) (by omega)
  generalize hx : packV 0 45 vd.toNat va.toNat 0 m.toNat = w at *
  refine decodeWord_of hf ?_
  rw [show encode (.vscan vd va m) = w from hx]
  rw [decodeClass_8 e0]
  unfold decodeV
  rw [e2]
  show take w [(27, 1, 0), (2, 6, 0)] (.vscan (reg w 14) (reg w 8) (bits w 0 2)) = _
  simp [take, reg, bits, e3, e4, e5, e6, e7]

theorem RoundTrip.vscanx (vd : RegNo) (va : RegNo) (m : BitVec 2) :
    RoundTrip.Statement (.vscanx vd va m) := by
  intro _ hf
  have h0 := vd.isLt
  have h1 := va.isLt
  have h2 := m.isLt
  obtain ⟨e0, e3, e2, e5, e6, e4, e7⟩ := @fld_packV 0 46 vd.toNat va.toNat 0 m.toNat (by decide) (by decide) (by omega) (by omega) (by decide) (by omega)
  generalize hx : packV 0 46 vd.toNat va.toNat 0 m.toNat = w at *
  refine decodeWord_of hf ?_
  rw [show encode (.vscanx vd va m) = w from hx]
  rw [decodeClass_8 e0]
  unfold decodeV
  rw [e2]
  show take w [(27, 1, 0), (2, 6, 0)] (.vscanx (reg w 14) (reg w 8) (bits w 0 2)) = _
  simp [take, reg, bits, e3, e4, e5, e6, e7]

theorem RoundTrip.vtopk (vd : RegNo) (va : RegNo) (xb : RegNo) (m : BitVec 2) :
    RoundTrip.Statement (.vtopk vd va xb m) := by
  intro _ hf
  have h0 := vd.isLt
  have h1 := va.isLt
  have h2 := xb.isLt
  have h3 := m.isLt
  obtain ⟨e0, e3, e2, e4, e5, e6, e7⟩ := @fld_packV 1 48 vd.toNat va.toNat xb.toNat m.toNat (by decide) (by decide) (by omega) (by omega) (by omega) (by omega)
  generalize hx : packV 1 48 vd.toNat va.toNat xb.toNat m.toNat = w at *
  refine decodeWord_of hf ?_
  rw [show encode (.vtopk vd va xb m) = w from hx]
  rw [decodeClass_8 e0]
  unfold decodeV
  rw [e2]
  show take w [(27, 1, 1)] (.vtopk (reg w 14) (reg w 8) (reg w 2) (bits w 0 2)) = _
  simp [take, reg, bits, e3, e4, e5, e6, e7]

theorem RoundTrip.vperm (sc : Bool) (vd : RegNo) (va : RegNo) (vb : RegNo) (m : BitVec 2) :
    RoundTrip.Statement (.vperm sc vd va vb m) := by
  intro _ hf
  have h0 := Bool.toNat_lt sc
  have h1 := vd.isLt
  have h2 := va.isLt
  have h3 := vb.isLt
  have h4 := m.isLt
  obtain ⟨e0, e3, e2, e4, e5, e6, e7⟩ := @fld_packV sc.toNat 49 vd.toNat va.toNat vb.toNat m.toNat (by omega) (by decide) (by omega) (by omega) (by omega) (by omega)
  generalize hx : packV sc.toNat 49 vd.toNat va.toNat vb.toNat m.toNat = w at *
  refine decodeWord_of hf ?_
  rw [show encode (.vperm sc vd va vb m) = w from hx]
  rw [decodeClass_8 e0]
  unfold decodeV
  rw [e2]
  show Except.ok (Instr.vperm (bit w 27) (reg w 14) (reg w 8) (reg w 2) (bits w 0 2)) = _
  simp [reg, bits, bit, bit_of_toNat, e3, e4, e5, e6, e7]

theorem RoundTrip.vbcast (vd : RegNo) (xb : RegNo) (m : BitVec 2) :
    RoundTrip.Statement (.vbcast vd xb m) := by
  intro _ hf
  have h0 := vd.isLt
  have h1 := xb.isLt
  have h2 := m.isLt
  obtain ⟨e0, e3, e2, e5, e4, e6, e7⟩ := @fld_packV 1 50 vd.toNat 0 xb.toNat m.toNat (by decide) (by decide) (by omega) (by decide) (by omega) (by omega)
  generalize hx : packV 1 50 vd.toNat 0 xb.toNat m.toNat = w at *
  refine decodeWord_of hf ?_
  rw [show encode (.vbcast vd xb m) = w from hx]
  rw [decodeClass_8 e0]
  unfold decodeV
  rw [e2]
  show take w [(27, 1, 1), (8, 6, 0)] (.vbcast (reg w 14) (reg w 2) (bits w 0 2)) = _
  simp [take, reg, bits, e3, e4, e5, e6, e7]

theorem RoundTrip.vextx (xd : RegNo) (va : RegNo) (xb : RegNo) :
    RoundTrip.Statement (.vextx xd va xb) := by
  intro _ hf
  have h0 := xd.isLt
  have h1 := va.isLt
  have h2 := xb.isLt
  obtain ⟨e0, e3, e2, e5, e6, e7, e4⟩ := @fld_packV 1 51 xd.toNat va.toNat xb.toNat 0 (by decide) (by decide) (by omega) (by omega) (by omega) (by decide)
  generalize hx : packV 1 51 xd.toNat va.toNat xb.toNat 0 = w at *
  refine decodeWord_of hf ?_
  rw [show encode (.vextx xd va xb) = w from hx]
  rw [decodeClass_8 e0]
  unfold decodeV
  rw [e2]
  show take w [(27, 1, 1), (0, 2, 0)] (.vextx (reg w 14) (reg w 8) (reg w 2)) = _
  simp [take, reg, e3, e4, e5, e6, e7]

theorem RoundTrip.vmand (md : BitVec 3) (ma : BitVec 3) (mb : BitVec 3) :
    RoundTrip.Statement (.vmand md ma mb) := by
  intro _ hf
  have h0 := md.isLt
  have h1 := ma.isLt
  have h2 := mb.isLt
  have hw := @packV_toNat 0 52 md.toNat ma.toNat mb.toNat 0 (by decide) (by decide) (by omega) (by omega) (by omega) (by decide)
  obtain ⟨e0, e3, e2, _, _, _, e7⟩ := @fld_packV 0 52 md.toNat ma.toNat mb.toNat 0 (by decide) (by decide) (by omega) (by omega) (by omega) (by decide)
  generalize hx : packV 0 52 md.toNat ma.toNat mb.toNat 0 = w at *
  have e4 : fld w 17 3 = 0 := by unfold fld; omega
  have e5 : fld w 11 3 = 0 := by unfold fld; omega
  have e6 : fld w 5 3 = 0 := by unfold fld; omega
  have e8 : fld w 14 3 = md.toNat := by unfold fld; omega
  have e9 : fld w 8 3 = ma.toNat := by unfold fld; omega
  have e10 : fld w 2 3 = mb.toNat := by unfold fld; omega
  refine decodeWord_of hf ?_
  rw [show encode (.vmand md ma mb) = w from hx]
  rw [decodeClass_8 e0]
  unfold decodeV
  rw [e2]
  show take w [(27, 1, 0), (17, 3, 0), (11, 3, 0), (5, 3, 0), (0, 2, 0)] (.vmand (bits w 14 3) (bits w 8 3) (bits w 2 3)) = _
  simp [take, bits, e3, e4, e5, e6, e7, e8, e9, e10]

theorem RoundTrip.vmor (md : BitVec 3) (ma : BitVec 3) (mb : BitVec 3) :
    RoundTrip.Statement (.vmor md ma mb) := by
  intro _ hf
  have h0 := md.isLt
  have h1 := ma.isLt
  have h2 := mb.isLt
  have hw := @packV_toNat 0 53 md.toNat ma.toNat mb.toNat 0 (by decide) (by decide) (by omega) (by omega) (by omega) (by decide)
  obtain ⟨e0, e3, e2, _, _, _, e7⟩ := @fld_packV 0 53 md.toNat ma.toNat mb.toNat 0 (by decide) (by decide) (by omega) (by omega) (by omega) (by decide)
  generalize hx : packV 0 53 md.toNat ma.toNat mb.toNat 0 = w at *
  have e4 : fld w 17 3 = 0 := by unfold fld; omega
  have e5 : fld w 11 3 = 0 := by unfold fld; omega
  have e6 : fld w 5 3 = 0 := by unfold fld; omega
  have e8 : fld w 14 3 = md.toNat := by unfold fld; omega
  have e9 : fld w 8 3 = ma.toNat := by unfold fld; omega
  have e10 : fld w 2 3 = mb.toNat := by unfold fld; omega
  refine decodeWord_of hf ?_
  rw [show encode (.vmor md ma mb) = w from hx]
  rw [decodeClass_8 e0]
  unfold decodeV
  rw [e2]
  show take w [(27, 1, 0), (17, 3, 0), (11, 3, 0), (5, 3, 0), (0, 2, 0)] (.vmor (bits w 14 3) (bits w 8 3) (bits w 2 3)) = _
  simp [take, bits, e3, e4, e5, e6, e7, e8, e9, e10]

theorem RoundTrip.vmxor (md : BitVec 3) (ma : BitVec 3) (mb : BitVec 3) :
    RoundTrip.Statement (.vmxor md ma mb) := by
  intro _ hf
  have h0 := md.isLt
  have h1 := ma.isLt
  have h2 := mb.isLt
  have hw := @packV_toNat 0 54 md.toNat ma.toNat mb.toNat 0 (by decide) (by decide) (by omega) (by omega) (by omega) (by decide)
  obtain ⟨e0, e3, e2, _, _, _, e7⟩ := @fld_packV 0 54 md.toNat ma.toNat mb.toNat 0 (by decide) (by decide) (by omega) (by omega) (by omega) (by decide)
  generalize hx : packV 0 54 md.toNat ma.toNat mb.toNat 0 = w at *
  have e4 : fld w 17 3 = 0 := by unfold fld; omega
  have e5 : fld w 11 3 = 0 := by unfold fld; omega
  have e6 : fld w 5 3 = 0 := by unfold fld; omega
  have e8 : fld w 14 3 = md.toNat := by unfold fld; omega
  have e9 : fld w 8 3 = ma.toNat := by unfold fld; omega
  have e10 : fld w 2 3 = mb.toNat := by unfold fld; omega
  refine decodeWord_of hf ?_
  rw [show encode (.vmxor md ma mb) = w from hx]
  rw [decodeClass_8 e0]
  unfold decodeV
  rw [e2]
  show take w [(27, 1, 0), (17, 3, 0), (11, 3, 0), (5, 3, 0), (0, 2, 0)] (.vmxor (bits w 14 3) (bits w 8 3) (bits w 2 3)) = _
  simp [take, bits, e3, e4, e5, e6, e7, e8, e9, e10]

theorem RoundTrip.vmandn (md : BitVec 3) (ma : BitVec 3) (mb : BitVec 3) :
    RoundTrip.Statement (.vmandn md ma mb) := by
  intro _ hf
  have h0 := md.isLt
  have h1 := ma.isLt
  have h2 := mb.isLt
  have hw := @packV_toNat 0 55 md.toNat ma.toNat mb.toNat 0 (by decide) (by decide) (by omega) (by omega) (by omega) (by decide)
  obtain ⟨e0, e3, e2, _, _, _, e7⟩ := @fld_packV 0 55 md.toNat ma.toNat mb.toNat 0 (by decide) (by decide) (by omega) (by omega) (by omega) (by decide)
  generalize hx : packV 0 55 md.toNat ma.toNat mb.toNat 0 = w at *
  have e4 : fld w 17 3 = 0 := by unfold fld; omega
  have e5 : fld w 11 3 = 0 := by unfold fld; omega
  have e6 : fld w 5 3 = 0 := by unfold fld; omega
  have e8 : fld w 14 3 = md.toNat := by unfold fld; omega
  have e9 : fld w 8 3 = ma.toNat := by unfold fld; omega
  have e10 : fld w 2 3 = mb.toNat := by unfold fld; omega
  refine decodeWord_of hf ?_
  rw [show encode (.vmandn md ma mb) = w from hx]
  rw [decodeClass_8 e0]
  unfold decodeV
  rw [e2]
  show take w [(27, 1, 0), (17, 3, 0), (11, 3, 0), (5, 3, 0), (0, 2, 0)] (.vmandn (bits w 14 3) (bits w 8 3) (bits w 2 3)) = _
  simp [take, bits, e3, e4, e5, e6, e7, e8, e9, e10]

theorem RoundTrip.vmpopc (xd : RegNo) (ma : BitVec 3) :
    RoundTrip.Statement (.vmpopc xd ma) := by
  intro _ hf
  have h0 := xd.isLt
  have h1 := ma.isLt
  have hw := @packV_toNat 0 56 xd.toNat ma.toNat 0 0 (by decide) (by decide) (by omega) (by omega) (by decide) (by decide)
  obtain ⟨e0, e3, e2, e6, _, _, _⟩ := @fld_packV 0 56 xd.toNat ma.toNat 0 0 (by decide) (by decide) (by omega) (by omega) (by decide) (by decide)
  generalize hx : packV 0 56 xd.toNat ma.toNat 0 0 = w at *
  have e4 : fld w 11 3 = 0 := by unfold fld; omega
  have e5 : fld w 0 8 = 0 := by unfold fld; omega
  have e7 : fld w 8 3 = ma.toNat := by unfold fld; omega
  refine decodeWord_of hf ?_
  rw [show encode (.vmpopc xd ma) = w from hx]
  rw [decodeClass_8 e0]
  unfold decodeV
  rw [e2]
  show take w [(27, 1, 0), (11, 3, 0), (0, 8, 0)] (.vmpopc (reg w 14) (bits w 8 3)) = _
  simp [take, reg, bits, e3, e4, e5, e6, e7]

theorem RoundTrip.vmget (xd : RegNo) (ma : BitVec 3) (q : BitVec 2) :
    RoundTrip.Statement (.vmget xd ma q) := by
  intro _ hf
  have h0 := xd.isLt
  have h1 := ma.isLt
  have h2 := q.isLt
  have hw := @packV_toNat 0 57 xd.toNat ma.toNat q.toNat 0 (by decide) (by decide) (by omega) (by omega) (by omega) (by decide)
  obtain ⟨e0, e3, e2, e7, _, _, e6⟩ := @fld_packV 0 57 xd.toNat ma.toNat q.toNat 0 (by decide) (by decide) (by omega) (by omega) (by omega) (by decide)
  generalize hx : packV 0 57 xd.toNat ma.toNat q.toNat 0 = w at *
  have e4 : fld w 11 3 = 0 := by unfold fld; omega
  have e5 : fld w 4 4 = 0 := by unfold fld; omega
  have e8 : fld w 8 3 = ma.toNat := by unfold fld; omega
  have e9 : fld w 2 2 = q.toNat := by unfold fld; omega
  refine decodeWord_of hf ?_
  rw [show encode (.vmget xd ma q) = w from hx]
  rw [decodeClass_8 e0]
  unfold decodeV
  rw [e2]
  show take w [(27, 1, 0), (11, 3, 0), (4, 4, 0), (0, 2, 0)] (.vmget (reg w 14) (bits w 8 3) (bits w 2 2)) = _
  simp [take, reg, bits, e3, e4, e5, e6, e7, e8, e9]

theorem RoundTrip.vmset (md : BitVec 3) (q : BitVec 2) (xb : RegNo) :
    RoundTrip.Statement (.vmset md q xb) := by
  intro _ hf
  have h0 := md.isLt
  have h1 := q.isLt
  have h2 := xb.isLt
  have hw := @packV_toNat 1 58 md.toNat q.toNat xb.toNat 0 (by decide) (by decide) (by omega) (by omega) (by omega) (by decide)
  obtain ⟨e0, e3, e2, _, _, e9, e6⟩ := @fld_packV 1 58 md.toNat q.toNat xb.toNat 0 (by decide) (by decide) (by omega) (by omega) (by omega) (by decide)
  generalize hx : packV 1 58 md.toNat q.toNat xb.toNat 0 = w at *
  have e4 : fld w 17 3 = 0 := by unfold fld; omega
  have e5 : fld w 10 4 = 0 := by unfold fld; omega
  have e7 : fld w 14 3 = md.toNat := by unfold fld; omega
  have e8 : fld w 8 2 = q.toNat := by unfold fld; omega
  refine decodeWord_of hf ?_
  rw [show encode (.vmset md q xb) = w from hx]
  rw [decodeClass_8 e0]
  unfold decodeV
  rw [e2]
  show take w [(27, 1, 1), (17, 3, 0), (10, 4, 0), (0, 2, 0)] (.vmset (bits w 14 3) (bits w 8 2) (reg w 2)) = _
  simp [take, reg, bits, e3, e4, e5, e6, e7, e8, e9]

theorem RoundTrip.vldr (vd : RegNo) (xb : RegNo) :
    RoundTrip.Statement (.vldr vd xb) := by
  intro _ hf
  have h0 := vd.isLt
  have h1 := xb.isLt
  obtain ⟨e0, e3, e2, e6, e4, e7, e5⟩ := @fld_packV 1 59 vd.toNat 0 xb.toNat 0 (by decide) (by decide) (by omega) (by decide) (by omega) (by decide)
  generalize hx : packV 1 59 vd.toNat 0 xb.toNat 0 = w at *
  refine decodeWord_of hf ?_
  rw [show encode (.vldr vd xb) = w from hx]
  rw [decodeClass_8 e0]
  unfold decodeV
  rw [e2]
  show take w [(27, 1, 1), (8, 6, 0), (0, 2, 0)] (.vldr (reg w 14) (reg w 2)) = _
  simp [take, reg, e3, e4, e5, e6, e7]

theorem RoundTrip.vstr (vd : RegNo) (xb : RegNo) :
    RoundTrip.Statement (.vstr vd xb) := by
  intro _ hf
  have h0 := vd.isLt
  have h1 := xb.isLt
  obtain ⟨e0, e3, e2, e6, e4, e7, e5⟩ := @fld_packV 1 60 vd.toNat 0 xb.toNat 0 (by decide) (by decide) (by omega) (by decide) (by omega) (by decide)
  generalize hx : packV 1 60 vd.toNat 0 xb.toNat 0 = w at *
  refine decodeWord_of hf ?_
  rw [show encode (.vstr vd xb) = w from hx]
  rw [decodeClass_8 e0]
  unfold decodeV
  rw [e2]
  show take w [(27, 1, 1), (8, 6, 0), (0, 2, 0)] (.vstr (reg w 14) (reg w 2)) = _
  simp [take, reg, e3, e4, e5, e6, e7]

theorem RoundTrip.vwin (xb : RegNo) :
    RoundTrip.Statement (.vwin xb) := by
  intro _ hf
  have h0 := xb.isLt
  have hw := @packV_toNat 1 61 0 0 xb.toNat 0 (by decide) (by decide) (by decide) (by decide) (by omega) (by decide)
  obtain ⟨e0, e3, e2, _, _, e6, e5⟩ := @fld_packV 1 61 0 0 xb.toNat 0 (by decide) (by decide) (by decide) (by decide) (by omega) (by decide)
  generalize hx : packV 1 61 0 0 xb.toNat 0 = w at *
  have e4 : fld w 8 12 = 0 := by unfold fld; omega
  refine decodeWord_of hf ?_
  rw [show encode (.vwin xb) = w from hx]
  rw [decodeClass_8 e0]
  unfold decodeV
  rw [e2]
  show take w [(27, 1, 1), (8, 12, 0), (0, 2, 0)] (.vwin (reg w 2)) = _
  simp [take, reg, e3, e4, e5, e6]

theorem RoundTrip.vwalk (xa : RegNo) (xb : RegNo) :
    RoundTrip.Statement (.vwalk xa xb) := by
  intro _ hf
  have h0 := xa.isLt
  have h1 := xb.isLt
  obtain ⟨e0, e3, e2, e4, e6, e7, e5⟩ := @fld_packV 1 62 0 xa.toNat xb.toNat 0 (by decide) (by decide) (by decide) (by omega) (by omega) (by decide)
  generalize hx : packV 1 62 0 xa.toNat xb.toNat 0 = w at *
  refine decodeWord_of hf ?_
  rw [show encode (.vwalk xa xb) = w from hx]
  rw [decodeClass_8 e0]
  unfold decodeV
  rw [e2]
  show take w [(27, 1, 1), (14, 6, 0), (0, 2, 0)] (.vwalk (reg w 8) (reg w 2)) = _
  simp [take, reg, e3, e4, e5, e6, e7]

theorem RoundTrip.vldw (vd : RegNo) :
    RoundTrip.Statement (.vldw vd) := by
  intro _ hf
  have h0 := vd.isLt
  have hw := @packV_toNat 0 63 vd.toNat 0 0 0 (by decide) (by decide) (by omega) (by decide) (by decide) (by decide)
  obtain ⟨e0, e3, e2, e5, _, _, _⟩ := @fld_packV 0 63 vd.toNat 0 0 0 (by decide) (by decide) (by omega) (by decide) (by decide) (by decide)
  generalize hx : packV 0 63 vd.toNat 0 0 0 = w at *
  have e4 : fld w 0 14 = 0 := by unfold fld; omega
  refine decodeWord_of hf ?_
  rw [show encode (.vldw vd) = w from hx]
  rw [decodeClass_8 e0]
  unfold decodeV
  rw [e2]
  show take w [(27, 1, 0), (0, 14, 0)] (.vldw (reg w 14)) = _
  simp [take, reg, e3, e4, e5]

theorem RoundTrip.vfence :
    RoundTrip.Statement (.vfence) := by
  intro _ hf
  have hw := @packV_toNat 0 64 0 0 0 0 (by decide) (by decide) (by decide) (by decide) (by decide) (by decide)
  obtain ⟨e0, e3, e2, _, _, _, _⟩ := @fld_packV 0 64 0 0 0 0 (by decide) (by decide) (by decide) (by decide) (by decide) (by decide)
  generalize hx : packV 0 64 0 0 0 0 = w at *
  have e4 : fld w 0 20 = 0 := by unfold fld; omega
  refine decodeWord_of hf ?_
  rw [show encode (.vfence) = w from hx]
  rw [decodeClass_8 e0]
  unfold decodeV
  rw [e2]
  show take w [(27, 1, 0), (0, 20, 0)] (.vfence) = _
  simp [take, e3, e4]

theorem RoundTrip.mma (tpl : BitVec 6) (fsel : BitVec 6) (value : BitVec 16) :
    RoundTrip.Statement (.mma tpl fsel value) := by
  intro _ hf
  have h0 := tpl.isLt
  have h1 := fsel.isLt
  have h2 := value.isLt
  obtain ⟨e0, e2, e3, e4⟩ := @fld_packP 9 tpl.toNat fsel.toNat value.toNat (by decide) (by omega) (by omega) (by omega)
  generalize hx : packP 9 tpl.toNat fsel.toNat value.toNat = w at *
  refine decodeWord_of hf ?_
  rw [show encode (.mma tpl fsel value) = w from hx]
  have hp : patchOk .matrix w = true := by unfold patchOk; rw [e3, e4]; exact hf
  rw [decodeClass_9 e0 hp, show wordOp (.mma tpl fsel value) = 1 from rfl]
  simp [decodeMatrix, bits, e2, e3, e4]

theorem RoundTrip.mmag (tpl : BitVec 6) (fsel : BitVec 6) (value : BitVec 16) :
    RoundTrip.Statement (.mmag tpl fsel value) := by
  intro _ hf
  have h0 := tpl.isLt
  have h1 := fsel.isLt
  have h2 := value.isLt
  obtain ⟨e0, e2, e3, e4⟩ := @fld_packP 9 tpl.toNat fsel.toNat value.toNat (by decide) (by omega) (by omega) (by omega)
  generalize hx : packP 9 tpl.toNat fsel.toNat value.toNat = w at *
  refine decodeWord_of hf ?_
  rw [show encode (.mmag tpl fsel value) = w from hx]
  have hp : patchOk .matrix w = true := by unfold patchOk; rw [e3, e4]; exact hf
  rw [decodeClass_9 e0 hp, show wordOp (.mmag tpl fsel value) = 2 from rfl]
  simp [decodeMatrix, bits, e2, e3, e4]

theorem RoundTrip.mwld (tpl : BitVec 6) (fsel : BitVec 6) (value : BitVec 16) :
    RoundTrip.Statement (.mwld tpl fsel value) := by
  intro _ hf
  have h0 := tpl.isLt
  have h1 := fsel.isLt
  have h2 := value.isLt
  obtain ⟨e0, e2, e3, e4⟩ := @fld_packP 9 tpl.toNat fsel.toNat value.toNat (by decide) (by omega) (by omega) (by omega)
  generalize hx : packP 9 tpl.toNat fsel.toNat value.toNat = w at *
  refine decodeWord_of hf ?_
  rw [show encode (.mwld tpl fsel value) = w from hx]
  have hp : patchOk .matrix w = true := by unfold patchOk; rw [e3, e4]; exact hf
  rw [decodeClass_9 e0 hp, show wordOp (.mwld tpl fsel value) = 3 from rfl]
  simp [decodeMatrix, bits, e2, e3, e4]

theorem RoundTrip.mdrain (tpl : BitVec 6) (fsel : BitVec 6) (value : BitVec 16) :
    RoundTrip.Statement (.mdrain tpl fsel value) := by
  intro _ hf
  have h0 := tpl.isLt
  have h1 := fsel.isLt
  have h2 := value.isLt
  obtain ⟨e0, e2, e3, e4⟩ := @fld_packP 9 tpl.toNat fsel.toNat value.toNat (by decide) (by omega) (by omega) (by omega)
  generalize hx : packP 9 tpl.toNat fsel.toNat value.toNat = w at *
  refine decodeWord_of hf ?_
  rw [show encode (.mdrain tpl fsel value) = w from hx]
  have hp : patchOk .matrix w = true := by unfold patchOk; rw [e3, e4]; exact hf
  rw [decodeClass_9 e0 hp, show wordOp (.mdrain tpl fsel value) = 4 from rfl]
  simp [decodeMatrix, bits, e2, e3, e4]

theorem RoundTrip.mzero (tpl : BitVec 6) (fsel : BitVec 6) (value : BitVec 16) :
    RoundTrip.Statement (.mzero tpl fsel value) := by
  intro _ hf
  have h0 := tpl.isLt
  have h1 := fsel.isLt
  have h2 := value.isLt
  obtain ⟨e0, e2, e3, e4⟩ := @fld_packP 9 tpl.toNat fsel.toNat value.toNat (by decide) (by omega) (by omega) (by omega)
  generalize hx : packP 9 tpl.toNat fsel.toNat value.toNat = w at *
  refine decodeWord_of hf ?_
  rw [show encode (.mzero tpl fsel value) = w from hx]
  have hp : patchOk .matrix w = true := by unfold patchOk; rw [e3, e4]; exact hf
  rw [decodeClass_9 e0 hp, show wordOp (.mzero tpl fsel value) = 5 from rfl]
  simp [decodeMatrix, bits, e2, e3, e4]

theorem RoundTrip.mfmt (tpl : BitVec 6) (fsel : BitVec 6) (value : BitVec 16) :
    RoundTrip.Statement (.mfmt tpl fsel value) := by
  intro _ hf
  have h0 := tpl.isLt
  have h1 := fsel.isLt
  have h2 := value.isLt
  obtain ⟨e0, e2, e3, e4⟩ := @fld_packP 9 tpl.toNat fsel.toNat value.toNat (by decide) (by omega) (by omega) (by omega)
  generalize hx : packP 9 tpl.toNat fsel.toNat value.toNat = w at *
  refine decodeWord_of hf ?_
  rw [show encode (.mfmt tpl fsel value) = w from hx]
  have hp : patchOk .matrix w = true := by unfold patchOk; rw [e3, e4]; exact hf
  rw [decodeClass_9 e0 hp, show wordOp (.mfmt tpl fsel value) = 6 from rfl]
  simp [decodeMatrix, bits, e2, e3, e4]

theorem RoundTrip.mstat (tpl : BitVec 6) (fsel : BitVec 6) (value : BitVec 16) :
    RoundTrip.Statement (.mstat tpl fsel value) := by
  intro _ hf
  have h0 := tpl.isLt
  have h1 := fsel.isLt
  have h2 := value.isLt
  obtain ⟨e0, e2, e3, e4⟩ := @fld_packP 9 tpl.toNat fsel.toNat value.toNat (by decide) (by omega) (by omega) (by omega)
  generalize hx : packP 9 tpl.toNat fsel.toNat value.toNat = w at *
  refine decodeWord_of hf ?_
  rw [show encode (.mstat tpl fsel value) = w from hx]
  have hp : patchOk .matrix w = true := by unfold patchOk; rw [e3, e4]; exact hf
  rw [decodeClass_9 e0 hp, show wordOp (.mstat tpl fsel value) = 7 from rfl]
  simp [decodeMatrix, bits, e2, e3, e4]

theorem RoundTrip.mfence (tpl : BitVec 6) (fsel : BitVec 6) (value : BitVec 16) :
    RoundTrip.Statement (.mfence tpl fsel value) := by
  intro _ hf
  have h0 := tpl.isLt
  have h1 := fsel.isLt
  have h2 := value.isLt
  obtain ⟨e0, e2, e3, e4⟩ := @fld_packP 9 tpl.toNat fsel.toNat value.toNat (by decide) (by omega) (by omega) (by omega)
  generalize hx : packP 9 tpl.toNat fsel.toNat value.toNat = w at *
  refine decodeWord_of hf ?_
  rw [show encode (.mfence tpl fsel value) = w from hx]
  have hp : patchOk .matrix w = true := by unfold patchOk; rw [e3, e4]; exact hf
  rw [decodeClass_9 e0 hp, show wordOp (.mfence tpl fsel value) = 8 from rfl]
  simp [decodeMatrix, bits, e2, e3, e4]

theorem RoundTrip.cpyIn (tpl : BitVec 6) (fsel : BitVec 6) (value : BitVec 16) :
    RoundTrip.Statement (.cpyIn tpl fsel value) := by
  intro _ hf
  have h0 := tpl.isLt
  have h1 := fsel.isLt
  have h2 := value.isLt
  obtain ⟨e0, e2, e3, e4⟩ := @fld_packP 10 tpl.toNat fsel.toNat value.toNat (by decide) (by omega) (by omega) (by omega)
  generalize hx : packP 10 tpl.toNat fsel.toNat value.toNat = w at *
  refine decodeWord_of hf ?_
  rw [show encode (.cpyIn tpl fsel value) = w from hx]
  have hp : patchOk .copy w = true := by unfold patchOk; rw [e3, e4]; exact hf
  rw [decodeClass_10 e0 hp, show wordOp (.cpyIn tpl fsel value) = 1 from rfl]
  simp [decodeCopy, bits, e2, e3, e4]

theorem RoundTrip.cpyOut (tpl : BitVec 6) (fsel : BitVec 6) (value : BitVec 16) :
    RoundTrip.Statement (.cpyOut tpl fsel value) := by
  intro _ hf
  have h0 := tpl.isLt
  have h1 := fsel.isLt
  have h2 := value.isLt
  obtain ⟨e0, e2, e3, e4⟩ := @fld_packP 10 tpl.toNat fsel.toNat value.toNat (by decide) (by omega) (by omega) (by omega)
  generalize hx : packP 10 tpl.toNat fsel.toNat value.toNat = w at *
  refine decodeWord_of hf ?_
  rw [show encode (.cpyOut tpl fsel value) = w from hx]
  have hp : patchOk .copy w = true := by unfold patchOk; rw [e3, e4]; exact hf
  rw [decodeClass_10 e0 hp, show wordOp (.cpyOut tpl fsel value) = 2 from rfl]
  simp [decodeCopy, bits, e2, e3, e4]

theorem RoundTrip.cpyGather (tpl : BitVec 6) (fsel : BitVec 6) (value : BitVec 16) :
    RoundTrip.Statement (.cpyGather tpl fsel value) := by
  intro _ hf
  have h0 := tpl.isLt
  have h1 := fsel.isLt
  have h2 := value.isLt
  obtain ⟨e0, e2, e3, e4⟩ := @fld_packP 10 tpl.toNat fsel.toNat value.toNat (by decide) (by omega) (by omega) (by omega)
  generalize hx : packP 10 tpl.toNat fsel.toNat value.toNat = w at *
  refine decodeWord_of hf ?_
  rw [show encode (.cpyGather tpl fsel value) = w from hx]
  have hp : patchOk .copy w = true := by unfold patchOk; rw [e3, e4]; exact hf
  rw [decodeClass_10 e0 hp, show wordOp (.cpyGather tpl fsel value) = 3 from rfl]
  simp [decodeCopy, bits, e2, e3, e4]

theorem RoundTrip.cpyScat (tpl : BitVec 6) (fsel : BitVec 6) (value : BitVec 16) :
    RoundTrip.Statement (.cpyScat tpl fsel value) := by
  intro _ hf
  have h0 := tpl.isLt
  have h1 := fsel.isLt
  have h2 := value.isLt
  obtain ⟨e0, e2, e3, e4⟩ := @fld_packP 10 tpl.toNat fsel.toNat value.toNat (by decide) (by omega) (by omega) (by omega)
  generalize hx : packP 10 tpl.toNat fsel.toNat value.toNat = w at *
  refine decodeWord_of hf ?_
  rw [show encode (.cpyScat tpl fsel value) = w from hx]
  have hp : patchOk .copy w = true := by unfold patchOk; rw [e3, e4]; exact hf
  rw [decodeClass_10 e0 hp, show wordOp (.cpyScat tpl fsel value) = 4 from rfl]
  simp [decodeCopy, bits, e2, e3, e4]

theorem RoundTrip.cpyRing (tpl : BitVec 6) (fsel : BitVec 6) (value : BitVec 16) :
    RoundTrip.Statement (.cpyRing tpl fsel value) := by
  intro _ hf
  have h0 := tpl.isLt
  have h1 := fsel.isLt
  have h2 := value.isLt
  obtain ⟨e0, e2, e3, e4⟩ := @fld_packP 10 tpl.toNat fsel.toNat value.toNat (by decide) (by omega) (by omega) (by omega)
  generalize hx : packP 10 tpl.toNat fsel.toNat value.toNat = w at *
  refine decodeWord_of hf ?_
  rw [show encode (.cpyRing tpl fsel value) = w from hx]
  have hp : patchOk .copy w = true := by unfold patchOk; rw [e3, e4]; exact hf
  rw [decodeClass_10 e0 hp, show wordOp (.cpyRing tpl fsel value) = 5 from rfl]
  simp [decodeCopy, bits, e2, e3, e4]

theorem RoundTrip.cpyT (tpl : BitVec 6) (fsel : BitVec 6) (value : BitVec 16) :
    RoundTrip.Statement (.cpyT tpl fsel value) := by
  intro _ hf
  have h0 := tpl.isLt
  have h1 := fsel.isLt
  have h2 := value.isLt
  obtain ⟨e0, e2, e3, e4⟩ := @fld_packP 10 tpl.toNat fsel.toNat value.toNat (by decide) (by omega) (by omega) (by omega)
  generalize hx : packP 10 tpl.toNat fsel.toNat value.toNat = w at *
  refine decodeWord_of hf ?_
  rw [show encode (.cpyT tpl fsel value) = w from hx]
  have hp : patchOk .copy w = true := by unfold patchOk; rw [e3, e4]; exact hf
  rw [decodeClass_10 e0 hp, show wordOp (.cpyT tpl fsel value) = 6 from rfl]
  simp [decodeCopy, bits, e2, e3, e4]

theorem RoundTrip.cpyFollow (tpl : BitVec 6) (fsel : BitVec 6) (value : BitVec 16) :
    RoundTrip.Statement (.cpyFollow tpl fsel value) := by
  intro _ hf
  have h0 := tpl.isLt
  have h1 := fsel.isLt
  have h2 := value.isLt
  obtain ⟨e0, e2, e3, e4⟩ := @fld_packP 10 tpl.toNat fsel.toNat value.toNat (by decide) (by omega) (by omega) (by omega)
  generalize hx : packP 10 tpl.toNat fsel.toNat value.toNat = w at *
  refine decodeWord_of hf ?_
  rw [show encode (.cpyFollow tpl fsel value) = w from hx]
  have hp : patchOk .copy w = true := by unfold patchOk; rw [e3, e4]; exact hf
  rw [decodeClass_10 e0 hp, show wordOp (.cpyFollow tpl fsel value) = 7 from rfl]
  simp [decodeCopy, bits, e2, e3, e4]

theorem RoundTrip.cpyBar (tpl : BitVec 6) (fsel : BitVec 6) (value : BitVec 16) :
    RoundTrip.Statement (.cpyBar tpl fsel value) := by
  intro _ hf
  have h0 := tpl.isLt
  have h1 := fsel.isLt
  have h2 := value.isLt
  obtain ⟨e0, e2, e3, e4⟩ := @fld_packP 10 tpl.toNat fsel.toNat value.toNat (by decide) (by omega) (by omega) (by omega)
  generalize hx : packP 10 tpl.toNat fsel.toNat value.toNat = w at *
  refine decodeWord_of hf ?_
  rw [show encode (.cpyBar tpl fsel value) = w from hx]
  have hp : patchOk .copy w = true := by unfold patchOk; rw [e3, e4]; exact hf
  rw [decodeClass_10 e0 hp, show wordOp (.cpyBar tpl fsel value) = 8 from rfl]
  simp [decodeCopy, bits, e2, e3, e4]

theorem RoundTrip.cpyFill (tpl : BitVec 6) (fsel : BitVec 6) (value : BitVec 16) :
    RoundTrip.Statement (.cpyFill tpl fsel value) := by
  intro _ hf
  have h0 := tpl.isLt
  have h1 := fsel.isLt
  have h2 := value.isLt
  obtain ⟨e0, e2, e3, e4⟩ := @fld_packP 10 tpl.toNat fsel.toNat value.toNat (by decide) (by omega) (by omega) (by omega)
  generalize hx : packP 10 tpl.toNat fsel.toNat value.toNat = w at *
  refine decodeWord_of hf ?_
  rw [show encode (.cpyFill tpl fsel value) = w from hx]
  have hp : patchOk .copy w = true := by unfold patchOk; rw [e3, e4]; exact hf
  rw [decodeClass_10 e0 hp, show wordOp (.cpyFill tpl fsel value) = 9 from rfl]
  simp [decodeCopy, bits, e2, e3, e4]

theorem RoundTrip.lrec (tpl : BitVec 6) (fsel : BitVec 6) (value : BitVec 16) :
    RoundTrip.Statement (.lrec tpl fsel value) := by
  intro _ hf
  have h0 := tpl.isLt
  have h1 := fsel.isLt
  have h2 := value.isLt
  obtain ⟨e0, e2, e3, e4⟩ := @fld_packP 10 tpl.toNat fsel.toNat value.toNat (by decide) (by omega) (by omega) (by omega)
  generalize hx : packP 10 tpl.toNat fsel.toNat value.toNat = w at *
  refine decodeWord_of hf ?_
  rw [show encode (.lrec tpl fsel value) = w from hx]
  have hp : patchOk .copy w = true := by unfold patchOk; rw [e3, e4]; exact hf
  rw [decodeClass_10 e0 hp, show wordOp (.lrec tpl fsel value) = 10 from rfl]
  simp [decodeCopy, bits, e2, e3, e4]

theorem RoundTrip.cpyStat (tpl : BitVec 6) (fsel : BitVec 6) (value : BitVec 16) :
    RoundTrip.Statement (.cpyStat tpl fsel value) := by
  intro _ hf
  have h0 := tpl.isLt
  have h1 := fsel.isLt
  have h2 := value.isLt
  obtain ⟨e0, e2, e3, e4⟩ := @fld_packP 10 tpl.toNat fsel.toNat value.toNat (by decide) (by omega) (by omega) (by omega)
  generalize hx : packP 10 tpl.toNat fsel.toNat value.toNat = w at *
  refine decodeWord_of hf ?_
  rw [show encode (.cpyStat tpl fsel value) = w from hx]
  have hp : patchOk .copy w = true := by unfold patchOk; rw [e3, e4]; exact hf
  rw [decodeClass_10 e0 hp, show wordOp (.cpyStat tpl fsel value) = 11 from rfl]
  simp [decodeCopy, bits, e2, e3, e4]

theorem RoundTrip.xsort (tpl : BitVec 6) (fsel : BitVec 6) (value : BitVec 16) :
    RoundTrip.Statement (.xsort tpl fsel value) := by
  intro _ hf
  have h0 := tpl.isLt
  have h1 := fsel.isLt
  have h2 := value.isLt
  obtain ⟨e0, e2, e3, e4⟩ := @fld_packP 12 tpl.toNat fsel.toNat value.toNat (by decide) (by omega) (by omega) (by omega)
  generalize hx : packP 12 tpl.toNat fsel.toNat value.toNat = w at *
  refine decodeWord_of hf ?_
  rw [show encode (.xsort tpl fsel value) = w from hx]
  have hp : patchOk .prism w = true := by unfold patchOk; rw [e3, e4]; exact hf
  rw [decodeClass_12 e0 hp, show wordOp (.xsort tpl fsel value) = 1 from rfl]
  simp [decodePrism, bits, e2, e3, e4]

theorem RoundTrip.xa2a (tpl : BitVec 6) (fsel : BitVec 6) (value : BitVec 16) :
    RoundTrip.Statement (.xa2a tpl fsel value) := by
  intro _ hf
  have h0 := tpl.isLt
  have h1 := fsel.isLt
  have h2 := value.isLt
  obtain ⟨e0, e2, e3, e4⟩ := @fld_packP 12 tpl.toNat fsel.toNat value.toNat (by decide) (by omega) (by omega) (by omega)
  generalize hx : packP 12 tpl.toNat fsel.toNat value.toNat = w at *
  refine decodeWord_of hf ?_
  rw [show encode (.xa2a tpl fsel value) = w from hx]
  have hp : patchOk .prism w = true := by unfold patchOk; rw [e3, e4]; exact hf
  rw [decodeClass_12 e0 hp, show wordOp (.xa2a tpl fsel value) = 2 from rfl]
  simp [decodePrism, bits, e2, e3, e4]

theorem RoundTrip.xchOpen (tpl : BitVec 6) (fsel : BitVec 6) (value : BitVec 16) :
    RoundTrip.Statement (.xchOpen tpl fsel value) := by
  intro _ hf
  have h0 := tpl.isLt
  have h1 := fsel.isLt
  have h2 := value.isLt
  obtain ⟨e0, e2, e3, e4⟩ := @fld_packP 12 tpl.toNat fsel.toNat value.toNat (by decide) (by omega) (by omega) (by omega)
  generalize hx : packP 12 tpl.toNat fsel.toNat value.toNat = w at *
  refine decodeWord_of hf ?_
  rw [show encode (.xchOpen tpl fsel value) = w from hx]
  have hp : patchOk .prism w = true := by unfold patchOk; rw [e3, e4]; exact hf
  rw [decodeClass_12 e0 hp, show wordOp (.xchOpen tpl fsel value) = 3 from rfl]
  simp [decodePrism, bits, e2, e3, e4]

theorem RoundTrip.xchWin (tpl : BitVec 6) (fsel : BitVec 6) (value : BitVec 16) :
    RoundTrip.Statement (.xchWin tpl fsel value) := by
  intro _ hf
  have h0 := tpl.isLt
  have h1 := fsel.isLt
  have h2 := value.isLt
  obtain ⟨e0, e2, e3, e4⟩ := @fld_packP 12 tpl.toNat fsel.toNat value.toNat (by decide) (by omega) (by omega) (by omega)
  generalize hx : packP 12 tpl.toNat fsel.toNat value.toNat = w at *
  refine decodeWord_of hf ?_
  rw [show encode (.xchWin tpl fsel value) = w from hx]
  have hp : patchOk .prism w = true := by unfold patchOk; rw [e3, e4]; exact hf
  rw [decodeClass_12 e0 hp, show wordOp (.xchWin tpl fsel value) = 4 from rfl]
  simp [decodePrism, bits, e2, e3, e4]

theorem RoundTrip.xchSend (tpl : BitVec 6) (fsel : BitVec 6) (value : BitVec 16) :
    RoundTrip.Statement (.xchSend tpl fsel value) := by
  intro _ hf
  have h0 := tpl.isLt
  have h1 := fsel.isLt
  have h2 := value.isLt
  obtain ⟨e0, e2, e3, e4⟩ := @fld_packP 12 tpl.toNat fsel.toNat value.toNat (by decide) (by omega) (by omega) (by omega)
  generalize hx : packP 12 tpl.toNat fsel.toNat value.toNat = w at *
  refine decodeWord_of hf ?_
  rw [show encode (.xchSend tpl fsel value) = w from hx]
  have hp : patchOk .prism w = true := by unfold patchOk; rw [e3, e4]; exact hf
  rw [decodeClass_12 e0 hp, show wordOp (.xchSend tpl fsel value) = 5 from rfl]
  simp [decodePrism, bits, e2, e3, e4]

theorem RoundTrip.xchRecv (tpl : BitVec 6) (fsel : BitVec 6) (value : BitVec 16) :
    RoundTrip.Statement (.xchRecv tpl fsel value) := by
  intro _ hf
  have h0 := tpl.isLt
  have h1 := fsel.isLt
  have h2 := value.isLt
  obtain ⟨e0, e2, e3, e4⟩ := @fld_packP 12 tpl.toNat fsel.toNat value.toNat (by decide) (by omega) (by omega) (by omega)
  generalize hx : packP 12 tpl.toNat fsel.toNat value.toNat = w at *
  refine decodeWord_of hf ?_
  rw [show encode (.xchRecv tpl fsel value) = w from hx]
  have hp : patchOk .prism w = true := by unfold patchOk; rw [e3, e4]; exact hf
  rw [decodeClass_12 e0 hp, show wordOp (.xchRecv tpl fsel value) = 6 from rfl]
  simp [decodePrism, bits, e2, e3, e4]

theorem RoundTrip.xchClose (tpl : BitVec 6) (fsel : BitVec 6) (value : BitVec 16) :
    RoundTrip.Statement (.xchClose tpl fsel value) := by
  intro _ hf
  have h0 := tpl.isLt
  have h1 := fsel.isLt
  have h2 := value.isLt
  obtain ⟨e0, e2, e3, e4⟩ := @fld_packP 12 tpl.toNat fsel.toNat value.toNat (by decide) (by omega) (by omega) (by omega)
  generalize hx : packP 12 tpl.toNat fsel.toNat value.toNat = w at *
  refine decodeWord_of hf ?_
  rw [show encode (.xchClose tpl fsel value) = w from hx]
  have hp : patchOk .prism w = true := by unfold patchOk; rw [e3, e4]; exact hf
  rw [decodeClass_12 e0 hp, show wordOp (.xchClose tpl fsel value) = 7 from rfl]
  simp [decodePrism, bits, e2, e3, e4]

theorem RoundTrip.xringRs (tpl : BitVec 6) (fsel : BitVec 6) (value : BitVec 16) :
    RoundTrip.Statement (.xringRs tpl fsel value) := by
  intro _ hf
  have h0 := tpl.isLt
  have h1 := fsel.isLt
  have h2 := value.isLt
  obtain ⟨e0, e2, e3, e4⟩ := @fld_packP 12 tpl.toNat fsel.toNat value.toNat (by decide) (by omega) (by omega) (by omega)
  generalize hx : packP 12 tpl.toNat fsel.toNat value.toNat = w at *
  refine decodeWord_of hf ?_
  rw [show encode (.xringRs tpl fsel value) = w from hx]
  have hp : patchOk .prism w = true := by unfold patchOk; rw [e3, e4]; exact hf
  rw [decodeClass_12 e0 hp, show wordOp (.xringRs tpl fsel value) = 8 from rfl]
  simp [decodePrism, bits, e2, e3, e4]

theorem RoundTrip.xringAg (tpl : BitVec 6) (fsel : BitVec 6) (value : BitVec 16) :
    RoundTrip.Statement (.xringAg tpl fsel value) := by
  intro _ hf
  have h0 := tpl.isLt
  have h1 := fsel.isLt
  have h2 := value.isLt
  obtain ⟨e0, e2, e3, e4⟩ := @fld_packP 12 tpl.toNat fsel.toNat value.toNat (by decide) (by omega) (by omega) (by omega)
  generalize hx : packP 12 tpl.toNat fsel.toNat value.toNat = w at *
  refine decodeWord_of hf ?_
  rw [show encode (.xringAg tpl fsel value) = w from hx]
  have hp : patchOk .prism w = true := by unfold patchOk; rw [e3, e4]; exact hf
  rw [decodeClass_12 e0 hp, show wordOp (.xringAg tpl fsel value) = 9 from rfl]
  simp [decodePrism, bits, e2, e3, e4]

theorem RoundTrip.xstat (tpl : BitVec 6) (fsel : BitVec 6) (value : BitVec 16) :
    RoundTrip.Statement (.xstat tpl fsel value) := by
  intro _ hf
  have h0 := tpl.isLt
  have h1 := fsel.isLt
  have h2 := value.isLt
  obtain ⟨e0, e2, e3, e4⟩ := @fld_packP 12 tpl.toNat fsel.toNat value.toNat (by decide) (by omega) (by omega) (by omega)
  generalize hx : packP 12 tpl.toNat fsel.toNat value.toNat = w at *
  refine decodeWord_of hf ?_
  rw [show encode (.xstat tpl fsel value) = w from hx]
  have hp : patchOk .prism w = true := by unfold patchOk; rw [e3, e4]; exact hf
  rw [decodeClass_12 e0 hp, show wordOp (.xstat tpl fsel value) = 10 from rfl]
  simp [decodePrism, bits, e2, e3, e4]

theorem RoundTrip.ald (ord : Order) (scope : Scope) (xd : RegNo) (xa : RegNo) :
    RoundTrip.Statement (.ald ord scope xd xa) := by
  intro _ hf
  have h0 := order_code_lt ord
  have h1 := scope_code_lt scope
  have h2 := xd.isLt
  have h3 := xa.isLt
  have hw := @packE_toNat 11 0 ord.code scope.code xd.toNat xa.toNat 0 (by decide) (by decide) (by omega) (by omega) (by omega) (by omega) (by decide)
  have ho22 : ord.code / 2 = 0 := by revert hf; cases ord <;> simp [wellFormed, Order.rlxAcq, Order.code]
  obtain ⟨e0, e2, e5, e6, e7, e8, e4⟩ := @fld_packE 11 0 ord.code scope.code xd.toNat xa.toNat 0 (by decide) (by decide) (by omega) (by omega) (by omega) (by omega) (by decide)
  generalize hx : packE 11 0 ord.code scope.code xd.toNat xa.toNat 0 = w at *
  have e3 : fld w 22 1 = 0 := by unfold fld; omega
  refine decodeWord_of hf ?_
  rw [show encode (.ald ord scope xd xa) = w from hx]
  rw [decodeClass_11 e0]
  unfold decodeAtomic
  rw [e2]
  show withScope w 17 (fun sc => take w [(22, 1, 0), (0, 5, 0)] (.ald (ordAt w) sc (reg w 11) (reg w 5))) = _
  simp [take, ordAt, order_of_code, withScope, scope_of_code, reg, e3, e4, e5, e6, e7, e8]

theorem RoundTrip.ast (ord : Order) (scope : Scope) (xa : RegNo) (xb : BitVec 5) :
    RoundTrip.Statement (.ast ord scope xa xb) := by
  intro _ hf
  have h0 := order_code_lt ord
  have h1 := scope_code_lt scope
  have h2 := xa.isLt
  have h3 := xb.isLt
  have hw := @packE_toNat 11 1 ord.code scope.code 0 xa.toNat xb.toNat (by decide) (by decide) (by omega) (by omega) (by decide) (by omega) (by omega)
  have ho21 : ord.code % 2 = 0 := by revert hf; cases ord <;> simp [wellFormed, Order.rlxRel, Order.code]
  obtain ⟨e0, e2, e5, e6, e4, e7, e8⟩ := @fld_packE 11 1 ord.code scope.code 0 xa.toNat xb.toNat (by decide) (by decide) (by omega) (by omega) (by decide) (by omega) (by omega)
  generalize hx : packE 11 1 ord.code scope.code 0 xa.toNat xb.toNat = w at *
  have e3 : fld w 21 1 = 0 := by unfold fld; omega
  refine decodeWord_of hf ?_
  rw [show encode (.ast ord scope xa xb) = w from hx]
  rw [decodeClass_11 e0]
  unfold decodeAtomic
  rw [e2]
  show withScope w 17 (fun sc => take w [(21, 1, 0), (11, 6, 0)] (.ast (ordAt w) sc (reg w 5) (bits w 0 5))) = _
  simp [take, ordAt, order_of_code, withScope, scope_of_code, reg, bits, e3, e4, e5, e6, e7, e8]

theorem RoundTrip.aswp (ord : Order) (scope : Scope) (xd : RegNo) (xa : RegNo) (xb : BitVec 5) :
    RoundTrip.Statement (.aswp ord scope xd xa xb) := by
  intro _ hf
  have h0 := order_code_lt ord
  have h1 := scope_code_lt scope
  have h2 := xd.isLt
  have h3 := xa.isLt
  have h4 := xb.isLt
  obtain ⟨e0, e2, e3, e4, e5, e6, e7⟩ := @fld_packE 11 2 ord.code scope.code xd.toNat xa.toNat xb.toNat (by decide) (by decide) (by omega) (by omega) (by omega) (by omega) (by omega)
  generalize hx : packE 11 2 ord.code scope.code xd.toNat xa.toNat xb.toNat = w at *
  refine decodeWord_of hf ?_
  rw [show encode (.aswp ord scope xd xa xb) = w from hx]
  rw [decodeClass_11 e0]
  unfold decodeAtomic
  rw [e2]
  show withScope w 17 (fun sc => .ok (.aswp (ordAt w) sc (reg w 11) (reg w 5) (bits w 0 5))) = _
  simp [ordAt, order_of_code, withScope, scope_of_code, reg, bits, e3, e4, e5, e6, e7]

theorem RoundTrip.aadd (ord : Order) (scope : Scope) (xd : RegNo) (xa : RegNo) (xb : BitVec 5) :
    RoundTrip.Statement (.aadd ord scope xd xa xb) := by
  intro _ hf
  have h0 := order_code_lt ord
  have h1 := scope_code_lt scope
  have h2 := xd.isLt
  have h3 := xa.isLt
  have h4 := xb.isLt
  obtain ⟨e0, e2, e3, e4, e5, e6, e7⟩ := @fld_packE 11 3 ord.code scope.code xd.toNat xa.toNat xb.toNat (by decide) (by decide) (by omega) (by omega) (by omega) (by omega) (by omega)
  generalize hx : packE 11 3 ord.code scope.code xd.toNat xa.toNat xb.toNat = w at *
  refine decodeWord_of hf ?_
  rw [show encode (.aadd ord scope xd xa xb) = w from hx]
  rw [decodeClass_11 e0]
  unfold decodeAtomic
  rw [e2]
  show withScope w 17 (fun sc => .ok (.aadd (ordAt w) sc (reg w 11) (reg w 5) (bits w 0 5))) = _
  simp [ordAt, order_of_code, withScope, scope_of_code, reg, bits, e3, e4, e5, e6, e7]

theorem RoundTrip.aand (ord : Order) (scope : Scope) (xd : RegNo) (xa : RegNo) (xb : BitVec 5) :
    RoundTrip.Statement (.aand ord scope xd xa xb) := by
  intro _ hf
  have h0 := order_code_lt ord
  have h1 := scope_code_lt scope
  have h2 := xd.isLt
  have h3 := xa.isLt
  have h4 := xb.isLt
  obtain ⟨e0, e2, e3, e4, e5, e6, e7⟩ := @fld_packE 11 4 ord.code scope.code xd.toNat xa.toNat xb.toNat (by decide) (by decide) (by omega) (by omega) (by omega) (by omega) (by omega)
  generalize hx : packE 11 4 ord.code scope.code xd.toNat xa.toNat xb.toNat = w at *
  refine decodeWord_of hf ?_
  rw [show encode (.aand ord scope xd xa xb) = w from hx]
  rw [decodeClass_11 e0]
  unfold decodeAtomic
  rw [e2]
  show withScope w 17 (fun sc => .ok (.aand (ordAt w) sc (reg w 11) (reg w 5) (bits w 0 5))) = _
  simp [ordAt, order_of_code, withScope, scope_of_code, reg, bits, e3, e4, e5, e6, e7]

theorem RoundTrip.aor (ord : Order) (scope : Scope) (xd : RegNo) (xa : RegNo) (xb : BitVec 5) :
    RoundTrip.Statement (.aor ord scope xd xa xb) := by
  intro _ hf
  have h0 := order_code_lt ord
  have h1 := scope_code_lt scope
  have h2 := xd.isLt
  have h3 := xa.isLt
  have h4 := xb.isLt
  obtain ⟨e0, e2, e3, e4, e5, e6, e7⟩ := @fld_packE 11 5 ord.code scope.code xd.toNat xa.toNat xb.toNat (by decide) (by decide) (by omega) (by omega) (by omega) (by omega) (by omega)
  generalize hx : packE 11 5 ord.code scope.code xd.toNat xa.toNat xb.toNat = w at *
  refine decodeWord_of hf ?_
  rw [show encode (.aor ord scope xd xa xb) = w from hx]
  rw [decodeClass_11 e0]
  unfold decodeAtomic
  rw [e2]
  show withScope w 17 (fun sc => .ok (.aor (ordAt w) sc (reg w 11) (reg w 5) (bits w 0 5))) = _
  simp [ordAt, order_of_code, withScope, scope_of_code, reg, bits, e3, e4, e5, e6, e7]

theorem RoundTrip.axor (ord : Order) (scope : Scope) (xd : RegNo) (xa : RegNo) (xb : BitVec 5) :
    RoundTrip.Statement (.axor ord scope xd xa xb) := by
  intro _ hf
  have h0 := order_code_lt ord
  have h1 := scope_code_lt scope
  have h2 := xd.isLt
  have h3 := xa.isLt
  have h4 := xb.isLt
  obtain ⟨e0, e2, e3, e4, e5, e6, e7⟩ := @fld_packE 11 6 ord.code scope.code xd.toNat xa.toNat xb.toNat (by decide) (by decide) (by omega) (by omega) (by omega) (by omega) (by omega)
  generalize hx : packE 11 6 ord.code scope.code xd.toNat xa.toNat xb.toNat = w at *
  refine decodeWord_of hf ?_
  rw [show encode (.axor ord scope xd xa xb) = w from hx]
  rw [decodeClass_11 e0]
  unfold decodeAtomic
  rw [e2]
  show withScope w 17 (fun sc => .ok (.axor (ordAt w) sc (reg w 11) (reg w 5) (bits w 0 5))) = _
  simp [ordAt, order_of_code, withScope, scope_of_code, reg, bits, e3, e4, e5, e6, e7]

theorem RoundTrip.amin (ord : Order) (scope : Scope) (xd : RegNo) (xa : RegNo) (xb : BitVec 5) :
    RoundTrip.Statement (.amin ord scope xd xa xb) := by
  intro _ hf
  have h0 := order_code_lt ord
  have h1 := scope_code_lt scope
  have h2 := xd.isLt
  have h3 := xa.isLt
  have h4 := xb.isLt
  obtain ⟨e0, e2, e3, e4, e5, e6, e7⟩ := @fld_packE 11 7 ord.code scope.code xd.toNat xa.toNat xb.toNat (by decide) (by decide) (by omega) (by omega) (by omega) (by omega) (by omega)
  generalize hx : packE 11 7 ord.code scope.code xd.toNat xa.toNat xb.toNat = w at *
  refine decodeWord_of hf ?_
  rw [show encode (.amin ord scope xd xa xb) = w from hx]
  rw [decodeClass_11 e0]
  unfold decodeAtomic
  rw [e2]
  show withScope w 17 (fun sc => .ok (.amin (ordAt w) sc (reg w 11) (reg w 5) (bits w 0 5))) = _
  simp [ordAt, order_of_code, withScope, scope_of_code, reg, bits, e3, e4, e5, e6, e7]

theorem RoundTrip.amax (ord : Order) (scope : Scope) (xd : RegNo) (xa : RegNo) (xb : BitVec 5) :
    RoundTrip.Statement (.amax ord scope xd xa xb) := by
  intro _ hf
  have h0 := order_code_lt ord
  have h1 := scope_code_lt scope
  have h2 := xd.isLt
  have h3 := xa.isLt
  have h4 := xb.isLt
  obtain ⟨e0, e2, e3, e4, e5, e6, e7⟩ := @fld_packE 11 8 ord.code scope.code xd.toNat xa.toNat xb.toNat (by decide) (by decide) (by omega) (by omega) (by omega) (by omega) (by omega)
  generalize hx : packE 11 8 ord.code scope.code xd.toNat xa.toNat xb.toNat = w at *
  refine decodeWord_of hf ?_
  rw [show encode (.amax ord scope xd xa xb) = w from hx]
  rw [decodeClass_11 e0]
  unfold decodeAtomic
  rw [e2]
  show withScope w 17 (fun sc => .ok (.amax (ordAt w) sc (reg w 11) (reg w 5) (bits w 0 5))) = _
  simp [ordAt, order_of_code, withScope, scope_of_code, reg, bits, e3, e4, e5, e6, e7]

theorem RoundTrip.aminn (ord : Order) (scope : Scope) (xd : RegNo) (xa : RegNo) (xb : BitVec 5) :
    RoundTrip.Statement (.aminn ord scope xd xa xb) := by
  intro _ hf
  have h0 := order_code_lt ord
  have h1 := scope_code_lt scope
  have h2 := xd.isLt
  have h3 := xa.isLt
  have h4 := xb.isLt
  obtain ⟨e0, e2, e3, e4, e5, e6, e7⟩ := @fld_packE 11 9 ord.code scope.code xd.toNat xa.toNat xb.toNat (by decide) (by decide) (by omega) (by omega) (by omega) (by omega) (by omega)
  generalize hx : packE 11 9 ord.code scope.code xd.toNat xa.toNat xb.toNat = w at *
  refine decodeWord_of hf ?_
  rw [show encode (.aminn ord scope xd xa xb) = w from hx]
  rw [decodeClass_11 e0]
  unfold decodeAtomic
  rw [e2]
  show withScope w 17 (fun sc => .ok (.aminn (ordAt w) sc (reg w 11) (reg w 5) (bits w 0 5))) = _
  simp [ordAt, order_of_code, withScope, scope_of_code, reg, bits, e3, e4, e5, e6, e7]

theorem RoundTrip.amaxn (ord : Order) (scope : Scope) (xd : RegNo) (xa : RegNo) (xb : BitVec 5) :
    RoundTrip.Statement (.amaxn ord scope xd xa xb) := by
  intro _ hf
  have h0 := order_code_lt ord
  have h1 := scope_code_lt scope
  have h2 := xd.isLt
  have h3 := xa.isLt
  have h4 := xb.isLt
  obtain ⟨e0, e2, e3, e4, e5, e6, e7⟩ := @fld_packE 11 10 ord.code scope.code xd.toNat xa.toNat xb.toNat (by decide) (by decide) (by omega) (by omega) (by omega) (by omega) (by omega)
  generalize hx : packE 11 10 ord.code scope.code xd.toNat xa.toNat xb.toNat = w at *
  refine decodeWord_of hf ?_
  rw [show encode (.amaxn ord scope xd xa xb) = w from hx]
  rw [decodeClass_11 e0]
  unfold decodeAtomic
  rw [e2]
  show withScope w 17 (fun sc => .ok (.amaxn (ordAt w) sc (reg w 11) (reg w 5) (bits w 0 5))) = _
  simp [ordAt, order_of_code, withScope, scope_of_code, reg, bits, e3, e4, e5, e6, e7]

theorem RoundTrip.afadd (ord : Order) (scope : Scope) (xd : RegNo) (xa : RegNo) (xb : BitVec 5) :
    RoundTrip.Statement (.afadd ord scope xd xa xb) := by
  intro _ hf
  have h0 := order_code_lt ord
  have h1 := scope_code_lt scope
  have h2 := xd.isLt
  have h3 := xa.isLt
  have h4 := xb.isLt
  obtain ⟨e0, e2, e3, e4, e5, e6, e7⟩ := @fld_packE 11 11 ord.code scope.code xd.toNat xa.toNat xb.toNat (by decide) (by decide) (by omega) (by omega) (by omega) (by omega) (by omega)
  generalize hx : packE 11 11 ord.code scope.code xd.toNat xa.toNat xb.toNat = w at *
  refine decodeWord_of hf ?_
  rw [show encode (.afadd ord scope xd xa xb) = w from hx]
  rw [decodeClass_11 e0]
  unfold decodeAtomic
  rw [e2]
  show withScope w 17 (fun sc => .ok (.afadd (ordAt w) sc (reg w 11) (reg w 5) (bits w 0 5))) = _
  simp [ordAt, order_of_code, withScope, scope_of_code, reg, bits, e3, e4, e5, e6, e7]

theorem RoundTrip.acas (ord : Order) (scope : Scope) (xd : RegNo) (xa : RegNo) (xp : BitVec 4) :
    RoundTrip.Statement (.acas ord scope xd xa xp) := by
  intro _ hf
  have h0 := order_code_lt ord
  have h1 := scope_code_lt scope
  have h2 := xd.isLt
  have h3 := xa.isLt
  have h4 := xp.isLt
  have hw := @packE_toNat 11 12 ord.code scope.code xd.toNat xa.toNat (xp.toNat * 2) (by decide) (by decide) (by omega) (by omega) (by omega) (by omega) (by omega)
  obtain ⟨e0, e2, e4, e5, e6, e7, _⟩ := @fld_packE 11 12 ord.code scope.code xd.toNat xa.toNat (xp.toNat * 2) (by decide) (by decide) (by omega) (by omega) (by omega) (by omega) (by omega)
  generalize hx : packE 11 12 ord.code scope.code xd.toNat xa.toNat (xp.toNat * 2) = w at *
  have e3 : fld w 0 1 = 0 := by unfold fld; omega
  have e8 : fld w 1 4 = xp.toNat := by unfold fld; omega
  refine decodeWord_of hf ?_
  rw [show encode (.acas ord scope xd xa xp) = w from hx]
  rw [decodeClass_11 e0]
  unfold decodeAtomic
  rw [e2]
  show withScope w 17 (fun sc => take w [(0, 1, 0)] (.acas (ordAt w) sc (reg w 11) (reg w 5) (bits w 1 4))) = _
  simp [take, ordAt, order_of_code, withScope, scope_of_code, reg, bits, e3, e4, e5, e6, e7, e8]

theorem RoundTrip.acasFa (ord : Order) (scope : Scope) (xd : RegNo) (xa : RegNo) (xp : BitVec 4) :
    RoundTrip.Statement (.acasFa ord scope xd xa xp) := by
  intro _ hf
  have h0 := order_code_lt ord
  have h1 := scope_code_lt scope
  have h2 := xd.isLt
  have h3 := xa.isLt
  have h4 := xp.isLt
  have hw := @packE_toNat 11 13 ord.code scope.code xd.toNat xa.toNat (xp.toNat * 2) (by decide) (by decide) (by omega) (by omega) (by omega) (by omega) (by omega)
  obtain ⟨e0, e2, e4, e5, e6, e7, _⟩ := @fld_packE 11 13 ord.code scope.code xd.toNat xa.toNat (xp.toNat * 2) (by decide) (by decide) (by omega) (by omega) (by omega) (by omega) (by omega)
  generalize hx : packE 11 13 ord.code scope.code xd.toNat xa.toNat (xp.toNat * 2) = w at *
  have e3 : fld w 0 1 = 0 := by unfold fld; omega
  have e8 : fld w 1 4 = xp.toNat := by unfold fld; omega
  refine decodeWord_of hf ?_
  rw [show encode (.acasFa ord scope xd xa xp) = w from hx]
  rw [decodeClass_11 e0]
  unfold decodeAtomic
  rw [e2]
  show withScope w 17 (fun sc => take w [(0, 1, 0)] (.acasFa (ordAt w) sc (reg w 11) (reg w 5) (bits w 1 4))) = _
  simp [take, ordAt, order_of_code, withScope, scope_of_code, reg, bits, e3, e4, e5, e6, e7, e8]

theorem RoundTrip.abinit (ord : Order) (scope : Scope) (xa : RegNo) (xb : BitVec 5) :
    RoundTrip.Statement (.abinit ord scope xa xb) := by
  intro _ hf
  have h0 := order_code_lt ord
  have h1 := scope_code_lt scope
  have h2 := xa.isLt
  have h3 := xb.isLt
  have hw := @packE_toNat 11 16 ord.code scope.code 0 xa.toNat xb.toNat (by decide) (by decide) (by omega) (by omega) (by decide) (by omega) (by omega)
  have ho21 : ord.code % 2 = 0 := by revert hf; cases ord <;> simp [wellFormed, Order.rlxRel, Order.code]
  obtain ⟨e0, e2, e5, e6, e4, e7, e8⟩ := @fld_packE 11 16 ord.code scope.code 0 xa.toNat xb.toNat (by decide) (by decide) (by omega) (by omega) (by decide) (by omega) (by omega)
  generalize hx : packE 11 16 ord.code scope.code 0 xa.toNat xb.toNat = w at *
  have e3 : fld w 21 1 = 0 := by unfold fld; omega
  refine decodeWord_of hf ?_
  rw [show encode (.abinit ord scope xa xb) = w from hx]
  rw [decodeClass_11 e0]
  unfold decodeAtomic
  rw [e2]
  show withScope w 17 (fun sc => take w [(21, 1, 0), (11, 6, 0)] (.abinit (ordAt w) sc (reg w 5) (bits w 0 5))) = _
  simp [take, ordAt, order_of_code, withScope, scope_of_code, reg, bits, e3, e4, e5, e6, e7, e8]

theorem RoundTrip.abarr (ord : Order) (scope : Scope) (xd : RegNo) (xa : RegNo) :
    RoundTrip.Statement (.abarr ord scope xd xa) := by
  intro _ hf
  have h0 := order_code_lt ord
  have h1 := scope_code_lt scope
  have h2 := xd.isLt
  have h3 := xa.isLt
  obtain ⟨e0, e2, e4, e5, e6, e7, e3⟩ := @fld_packE 11 17 ord.code scope.code xd.toNat xa.toNat 0 (by decide) (by decide) (by omega) (by omega) (by omega) (by omega) (by decide)
  generalize hx : packE 11 17 ord.code scope.code xd.toNat xa.toNat 0 = w at *
  refine decodeWord_of hf ?_
  rw [show encode (.abarr ord scope xd xa) = w from hx]
  rw [decodeClass_11 e0]
  unfold decodeAtomic
  rw [e2]
  show withScope w 17 (fun sc => take w [(0, 5, 0)] (.abarr (ordAt w) sc (reg w 11) (reg w 5))) = _
  simp [take, ordAt, order_of_code, withScope, scope_of_code, reg, e3, e4, e5, e6, e7]

theorem RoundTrip.abexp (ord : Order) (scope : Scope) (xa : RegNo) (xb : BitVec 5) :
    RoundTrip.Statement (.abexp ord scope xa xb) := by
  intro _ hf
  have h0 := order_code_lt ord
  have h1 := scope_code_lt scope
  have h2 := xa.isLt
  have h3 := xb.isLt
  have hw := @packE_toNat 11 18 ord.code scope.code 0 xa.toNat xb.toNat (by decide) (by decide) (by omega) (by omega) (by decide) (by omega) (by omega)
  have ho21 : ord.code % 2 = 0 := by revert hf; cases ord <;> simp [wellFormed, Order.rlxRel, Order.code]
  obtain ⟨e0, e2, e5, e6, e4, e7, e8⟩ := @fld_packE 11 18 ord.code scope.code 0 xa.toNat xb.toNat (by decide) (by decide) (by omega) (by omega) (by decide) (by omega) (by omega)
  generalize hx : packE 11 18 ord.code scope.code 0 xa.toNat xb.toNat = w at *
  have e3 : fld w 21 1 = 0 := by unfold fld; omega
  refine decodeWord_of hf ?_
  rw [show encode (.abexp ord scope xa xb) = w from hx]
  rw [decodeClass_11 e0]
  unfold decodeAtomic
  rw [e2]
  show withScope w 17 (fun sc => take w [(21, 1, 0), (11, 6, 0)] (.abexp (ordAt w) sc (reg w 5) (bits w 0 5))) = _
  simp [take, ordAt, order_of_code, withScope, scope_of_code, reg, bits, e3, e4, e5, e6, e7, e8]

theorem RoundTrip.abwait (ord : Order) (scope : Scope) (xd : RegNo) (xa : RegNo) (xb : BitVec 5) :
    RoundTrip.Statement (.abwait ord scope xd xa xb) := by
  intro _ hf
  have h0 := order_code_lt ord
  have h1 := scope_code_lt scope
  have h2 := xd.isLt
  have h3 := xa.isLt
  have h4 := xb.isLt
  have hw := @packE_toNat 11 19 ord.code scope.code xd.toNat xa.toNat xb.toNat (by decide) (by decide) (by omega) (by omega) (by omega) (by omega) (by omega)
  have ho22 : ord.code / 2 = 0 := by revert hf; cases ord <;> simp [wellFormed, Order.rlxAcq, Order.code]
  obtain ⟨e0, e2, e4, e5, e6, e7, e8⟩ := @fld_packE 11 19 ord.code scope.code xd.toNat xa.toNat xb.toNat (by decide) (by decide) (by omega) (by omega) (by omega) (by omega) (by omega)
  generalize hx : packE 11 19 ord.code scope.code xd.toNat xa.toNat xb.toNat = w at *
  have e3 : fld w 22 1 = 0 := by unfold fld; omega
  refine decodeWord_of hf ?_
  rw [show encode (.abwait ord scope xd xa xb) = w from hx]
  rw [decodeClass_11 e0]
  unfold decodeAtomic
  rw [e2]
  show withScope w 17 (fun sc => take w [(22, 1, 0)] (.abwait (ordAt w) sc (reg w 11) (reg w 5) (bits w 0 5))) = _
  simp [take, ordAt, order_of_code, withScope, scope_of_code, reg, bits, e3, e4, e5, e6, e7, e8]

theorem RoundTrip.asemp (ord : Order) (scope : Scope) (xa : RegNo) (xb : BitVec 5) :
    RoundTrip.Statement (.asemp ord scope xa xb) := by
  intro _ hf
  have h0 := order_code_lt ord
  have h1 := scope_code_lt scope
  have h2 := xa.isLt
  have h3 := xb.isLt
  have hw := @packE_toNat 11 20 ord.code scope.code 0 xa.toNat xb.toNat (by decide) (by decide) (by omega) (by omega) (by decide) (by omega) (by omega)
  have ho21 : ord.code % 2 = 0 := by revert hf; cases ord <;> simp [wellFormed, Order.rlxRel, Order.code]
  obtain ⟨e0, e2, e5, e6, e4, e7, e8⟩ := @fld_packE 11 20 ord.code scope.code 0 xa.toNat xb.toNat (by decide) (by decide) (by omega) (by omega) (by decide) (by omega) (by omega)
  generalize hx : packE 11 20 ord.code scope.code 0 xa.toNat xb.toNat = w at *
  have e3 : fld w 21 1 = 0 := by unfold fld; omega
  refine decodeWord_of hf ?_
  rw [show encode (.asemp ord scope xa xb) = w from hx]
  rw [decodeClass_11 e0]
  unfold decodeAtomic
  rw [e2]
  show withScope w 17 (fun sc => take w [(21, 1, 0), (11, 6, 0)] (.asemp (ordAt w) sc (reg w 5) (bits w 0 5))) = _
  simp [take, ordAt, order_of_code, withScope, scope_of_code, reg, bits, e3, e4, e5, e6, e7, e8]

theorem RoundTrip.asemw (ord : Order) (scope : Scope) (xd : RegNo) (xa : RegNo) (xb : BitVec 5) :
    RoundTrip.Statement (.asemw ord scope xd xa xb) := by
  intro _ hf
  have h0 := order_code_lt ord
  have h1 := scope_code_lt scope
  have h2 := xd.isLt
  have h3 := xa.isLt
  have h4 := xb.isLt
  have hw := @packE_toNat 11 21 ord.code scope.code xd.toNat xa.toNat xb.toNat (by decide) (by decide) (by omega) (by omega) (by omega) (by omega) (by omega)
  have ho22 : ord.code / 2 = 0 := by revert hf; cases ord <;> simp [wellFormed, Order.rlxAcq, Order.code]
  obtain ⟨e0, e2, e4, e5, e6, e7, e8⟩ := @fld_packE 11 21 ord.code scope.code xd.toNat xa.toNat xb.toNat (by decide) (by decide) (by omega) (by omega) (by omega) (by omega) (by omega)
  generalize hx : packE 11 21 ord.code scope.code xd.toNat xa.toNat xb.toNat = w at *
  have e3 : fld w 22 1 = 0 := by unfold fld; omega
  refine decodeWord_of hf ?_
  rw [show encode (.asemw ord scope xd xa xb) = w from hx]
  rw [decodeClass_11 e0]
  unfold decodeAtomic
  rw [e2]
  show withScope w 17 (fun sc => take w [(22, 1, 0)] (.asemw (ordAt w) sc (reg w 11) (reg w 5) (bits w 0 5))) = _
  simp [take, ordAt, order_of_code, withScope, scope_of_code, reg, bits, e3, e4, e5, e6, e7, e8]

theorem RoundTrip.sst (ord : Order) (scope : Scope) (xd : RegNo) (xa : RegNo) (xb : BitVec 5) :
    RoundTrip.Statement (.sst ord scope xd xa xb) := by
  intro _ hf
  have h0 := order_code_lt ord
  have h1 := scope_code_lt scope
  have h2 := xd.isLt
  have h3 := xa.isLt
  have h4 := xb.isLt
  have hw := @packE_toNat 13 0 ord.code scope.code xd.toNat xa.toNat xb.toNat (by decide) (by decide) (by omega) (by omega) (by omega) (by omega) (by omega)
  have ho21 : ord.code % 2 = 0 := by revert hf; cases ord <;> simp [wellFormed, Order.rlxRel, Order.code]
  obtain ⟨e0, e2, e4, e5, e6, e7, e8⟩ := @fld_packE 13 0 ord.code scope.code xd.toNat xa.toNat xb.toNat (by decide) (by decide) (by omega) (by omega) (by omega) (by omega) (by omega)
  generalize hx : packE 13 0 ord.code scope.code xd.toNat xa.toNat xb.toNat = w at *
  have e3 : fld w 21 1 = 0 := by unfold fld; omega
  refine decodeWord_of hf ?_
  rw [show encode (.sst ord scope xd xa xb) = w from hx]
  rw [decodeClass_13 e0]
  unfold decodeStash
  rw [e2]
  show withScope w 17 (fun sc => take w [(21, 1, 0)] (.sst (ordAt w) sc (reg w 11) (reg w 5) (bits w 0 5))) = _
  simp [take, ordAt, order_of_code, withScope, scope_of_code, reg, bits, e3, e4, e5, e6, e7, e8]

theorem RoundTrip.sstT (ord : Order) (scope : Scope) (xd : RegNo) (xa : RegNo) (xb : BitVec 5) :
    RoundTrip.Statement (.sstT ord scope xd xa xb) := by
  intro _ hf
  have h0 := order_code_lt ord
  have h1 := scope_code_lt scope
  have h2 := xd.isLt
  have h3 := xa.isLt
  have h4 := xb.isLt
  have hw := @packE_toNat 13 1 ord.code scope.code xd.toNat xa.toNat xb.toNat (by decide) (by decide) (by omega) (by omega) (by omega) (by omega) (by omega)
  have ho21 : ord.code % 2 = 0 := by revert hf; cases ord <;> simp [wellFormed, Order.rlxRel, Order.code]
  obtain ⟨e0, e2, e4, e5, e6, e7, e8⟩ := @fld_packE 13 1 ord.code scope.code xd.toNat xa.toNat xb.toNat (by decide) (by decide) (by omega) (by omega) (by omega) (by omega) (by omega)
  generalize hx : packE 13 1 ord.code scope.code xd.toNat xa.toNat xb.toNat = w at *
  have e3 : fld w 21 1 = 0 := by unfold fld; omega
  refine decodeWord_of hf ?_
  rw [show encode (.sstT ord scope xd xa xb) = w from hx]
  rw [decodeClass_13 e0]
  unfold decodeStash
  rw [e2]
  show withScope w 17 (fun sc => take w [(21, 1, 0)] (.sstT (ordAt w) sc (reg w 11) (reg w 5) (bits w 0 5))) = _
  simp [take, ordAt, order_of_code, withScope, scope_of_code, reg, bits, e3, e4, e5, e6, e7, e8]

theorem RoundTrip.spf (ord : Order) (scope : Scope) (xd : RegNo) (xa : RegNo) (xb : BitVec 5) :
    RoundTrip.Statement (.spf ord scope xd xa xb) := by
  intro _ hf
  have h0 := order_code_lt ord
  have h1 := scope_code_lt scope
  have h2 := xd.isLt
  have h3 := xa.isLt
  have h4 := xb.isLt
  have hw := @packE_toNat 13 2 ord.code scope.code xd.toNat xa.toNat xb.toNat (by decide) (by decide) (by omega) (by omega) (by omega) (by omega) (by omega)
  have ho22 : ord.code / 2 = 0 := by revert hf; cases ord <;> simp [wellFormed, Order.rlxAcq, Order.code]
  obtain ⟨e0, e2, e4, e5, e6, e7, e8⟩ := @fld_packE 13 2 ord.code scope.code xd.toNat xa.toNat xb.toNat (by decide) (by decide) (by omega) (by omega) (by omega) (by omega) (by omega)
  generalize hx : packE 13 2 ord.code scope.code xd.toNat xa.toNat xb.toNat = w at *
  have e3 : fld w 22 1 = 0 := by unfold fld; omega
  refine decodeWord_of hf ?_
  rw [show encode (.spf ord scope xd xa xb) = w from hx]
  rw [decodeClass_13 e0]
  unfold decodeStash
  rw [e2]
  show withScope w 17 (fun sc => take w [(22, 1, 0)] (.spf (ordAt w) sc (reg w 11) (reg w 5) (bits w 0 5))) = _
  simp [take, ordAt, order_of_code, withScope, scope_of_code, reg, bits, e3, e4, e5, e6, e7, e8]

theorem RoundTrip.srel (ord : Order) (scope : Scope) (xd : RegNo) (xa : RegNo) :
    RoundTrip.Statement (.srel ord scope xd xa) := by
  intro _ hf
  have h0 := order_code_lt ord
  have h1 := scope_code_lt scope
  have h2 := xd.isLt
  have h3 := xa.isLt
  have hw := @packE_toNat 13 3 ord.code scope.code xd.toNat xa.toNat 0 (by decide) (by decide) (by omega) (by omega) (by omega) (by omega) (by decide)
  have ho21 : ord.code % 2 = 0 := by revert hf; cases ord <;> simp [wellFormed, Order.rlxRel, Order.code]
  obtain ⟨e0, e2, e5, e6, e7, e8, e4⟩ := @fld_packE 13 3 ord.code scope.code xd.toNat xa.toNat 0 (by decide) (by decide) (by omega) (by omega) (by omega) (by omega) (by decide)
  generalize hx : packE 13 3 ord.code scope.code xd.toNat xa.toNat 0 = w at *
  have e3 : fld w 21 1 = 0 := by unfold fld; omega
  refine decodeWord_of hf ?_
  rw [show encode (.srel ord scope xd xa) = w from hx]
  rw [decodeClass_13 e0]
  unfold decodeStash
  rw [e2]
  show withScope w 17 (fun sc => take w [(21, 1, 0), (0, 5, 0)] (.srel (ordAt w) sc (reg w 11) (reg w 5))) = _
  simp [take, ordAt, order_of_code, withScope, scope_of_code, reg, e3, e4, e5, e6, e7, e8]

theorem RoundTrip.sqry (ord : Order) (scope : Scope) (xd : RegNo) (xa : RegNo) :
    RoundTrip.Statement (.sqry ord scope xd xa) := by
  intro _ hf
  have h0 := order_code_lt ord
  have h1 := scope_code_lt scope
  have h2 := xd.isLt
  have h3 := xa.isLt
  have hw := @packE_toNat 13 4 ord.code scope.code xd.toNat xa.toNat 0 (by decide) (by decide) (by omega) (by omega) (by omega) (by omega) (by decide)
  have ho22 : ord.code / 2 = 0 := by revert hf; cases ord <;> simp [wellFormed, Order.rlxAcq, Order.code]
  obtain ⟨e0, e2, e5, e6, e7, e8, e4⟩ := @fld_packE 13 4 ord.code scope.code xd.toNat xa.toNat 0 (by decide) (by decide) (by omega) (by omega) (by omega) (by omega) (by decide)
  generalize hx : packE 13 4 ord.code scope.code xd.toNat xa.toNat 0 = w at *
  have e3 : fld w 22 1 = 0 := by unfold fld; omega
  refine decodeWord_of hf ?_
  rw [show encode (.sqry ord scope xd xa) = w from hx]
  rw [decodeClass_13 e0]
  unfold decodeStash
  rw [e2]
  show withScope w 17 (fun sc => take w [(22, 1, 0), (0, 5, 0)] (.sqry (ordAt w) sc (reg w 11) (reg w 5))) = _
  simp [take, ordAt, order_of_code, withScope, scope_of_code, reg, e3, e4, e5, e6, e7, e8]

theorem RoundTrip.spol (ord : Order) (scope : Scope) (xd : RegNo) (xa : RegNo) (xb : BitVec 5) :
    RoundTrip.Statement (.spol ord scope xd xa xb) := by
  intro _ hf
  have h0 := order_code_lt ord
  have h1 := scope_code_lt scope
  have h2 := xd.isLt
  have h3 := xa.isLt
  have h4 := xb.isLt
  have hw := @packE_toNat 13 5 ord.code scope.code xd.toNat xa.toNat xb.toNat (by decide) (by decide) (by omega) (by omega) (by omega) (by omega) (by omega)
  have ho21 : ord.code % 2 = 0 := by revert hf; cases ord <;> simp [wellFormed, Order.rlxRel, Order.code]
  obtain ⟨e0, e2, e4, e5, e6, e7, e8⟩ := @fld_packE 13 5 ord.code scope.code xd.toNat xa.toNat xb.toNat (by decide) (by decide) (by omega) (by omega) (by omega) (by omega) (by omega)
  generalize hx : packE 13 5 ord.code scope.code xd.toNat xa.toNat xb.toNat = w at *
  have e3 : fld w 21 1 = 0 := by unfold fld; omega
  refine decodeWord_of hf ?_
  rw [show encode (.spol ord scope xd xa xb) = w from hx]
  rw [decodeClass_13 e0]
  unfold decodeStash
  rw [e2]
  show withScope w 17 (fun sc => take w [(21, 1, 0)] (.spol (ordAt w) sc (reg w 11) (reg w 5) (bits w 0 5))) = _
  simp [take, ordAt, order_of_code, withScope, scope_of_code, reg, bits, e3, e4, e5, e6, e7, e8]

theorem RoundTrip.lexp (scope : Scope) (xd : RegNo) (xa : RegNo) (xb : BitVec 5) :
    RoundTrip.Statement (.lexp scope xd xa xb) := by
  intro _ hf
  have h0 := scope_code_lt scope
  have h1 := xd.isLt
  have h2 := xa.isLt
  have h3 := xb.isLt
  obtain ⟨e0, e2, e3, e4, e5, e6, e7⟩ := @fld_packE 14 0 0 scope.code xd.toNat xa.toNat xb.toNat (by decide) (by decide) (by decide) (by omega) (by omega) (by omega) (by omega)
  generalize hx : packE 14 0 0 scope.code xd.toNat xa.toNat xb.toNat = w at *
  refine decodeWord_of hf ?_
  rw [show encode (.lexp scope xd xa xb) = w from hx]
  rw [decodeClass_14 e0]
  unfold decodeLine
  rw [e2]
  show withScope w 17 (fun sc => take w [(21, 2, 0)] (.lexp sc (reg w 11) (reg w 5) (bits w 0 5))) = _
  simp [take, withScope, scope_of_code, reg, bits, e3, e4, e5, e6, e7]

theorem RoundTrip.lred (ord : Order) (scope : Scope) (xd : RegNo) (xa : RegNo) (xb : BitVec 5) :
    RoundTrip.Statement (.lred ord scope xd xa xb) := by
  intro _ hf
  have h0 := order_code_lt ord
  have h1 := scope_code_lt scope
  have h2 := xd.isLt
  have h3 := xa.isLt
  have h4 := xb.isLt
  have hw := @packE_toNat 14 1 ord.code scope.code xd.toNat xa.toNat xb.toNat (by decide) (by decide) (by omega) (by omega) (by omega) (by omega) (by omega)
  have ho21 : ord.code % 2 = 0 := by revert hf; cases ord <;> simp [wellFormed, Order.rlxRel, Order.code]
  obtain ⟨e0, e2, e4, e5, e6, e7, e8⟩ := @fld_packE 14 1 ord.code scope.code xd.toNat xa.toNat xb.toNat (by decide) (by decide) (by omega) (by omega) (by omega) (by omega) (by omega)
  generalize hx : packE 14 1 ord.code scope.code xd.toNat xa.toNat xb.toNat = w at *
  have e3 : fld w 21 1 = 0 := by unfold fld; omega
  refine decodeWord_of hf ?_
  rw [show encode (.lred ord scope xd xa xb) = w from hx]
  rw [decodeClass_14 e0]
  unfold decodeLine
  rw [e2]
  show withScope w 17 (fun sc => take w [(21, 1, 0)] (.lred (ordAt w) sc (reg w 11) (reg w 5) (bits w 0 5))) = _
  simp [take, ordAt, order_of_code, withScope, scope_of_code, reg, bits, e3, e4, e5, e6, e7, e8]

theorem RoundTrip.lopt (scope : Scope) (xd : RegNo) (xa : RegNo) (xb : BitVec 5) :
    RoundTrip.Statement (.lopt scope xd xa xb) := by
  intro _ hf
  have h0 := scope_code_lt scope
  have h1 := xd.isLt
  have h2 := xa.isLt
  have h3 := xb.isLt
  obtain ⟨e0, e2, e3, e4, e5, e6, e7⟩ := @fld_packE 14 2 0 scope.code xd.toNat xa.toNat xb.toNat (by decide) (by decide) (by decide) (by omega) (by omega) (by omega) (by omega)
  generalize hx : packE 14 2 0 scope.code xd.toNat xa.toNat xb.toNat = w at *
  refine decodeWord_of hf ?_
  rw [show encode (.lopt scope xd xa xb) = w from hx]
  rw [decodeClass_14 e0]
  unfold decodeLine
  rw [e2]
  show withScope w 17 (fun sc => take w [(21, 2, 0)] (.lopt sc (reg w 11) (reg w 5) (bits w 0 5))) = _
  simp [take, withScope, scope_of_code, reg, bits, e3, e4, e5, e6, e7]

theorem RoundTrip.lqry (ord : Order) (scope : Scope) (xd : RegNo) (xa : RegNo) :
    RoundTrip.Statement (.lqry ord scope xd xa) := by
  intro _ hf
  have h0 := order_code_lt ord
  have h1 := scope_code_lt scope
  have h2 := xd.isLt
  have h3 := xa.isLt
  have hw := @packE_toNat 14 3 ord.code scope.code xd.toNat xa.toNat 0 (by decide) (by decide) (by omega) (by omega) (by omega) (by omega) (by decide)
  have ho22 : ord.code / 2 = 0 := by revert hf; cases ord <;> simp [wellFormed, Order.rlxAcq, Order.code]
  obtain ⟨e0, e2, e5, e6, e7, e8, e4⟩ := @fld_packE 14 3 ord.code scope.code xd.toNat xa.toNat 0 (by decide) (by decide) (by omega) (by omega) (by omega) (by omega) (by decide)
  generalize hx : packE 14 3 ord.code scope.code xd.toNat xa.toNat 0 = w at *
  have e3 : fld w 22 1 = 0 := by unfold fld; omega
  refine decodeWord_of hf ?_
  rw [show encode (.lqry ord scope xd xa) = w from hx]
  rw [decodeClass_14 e0]
  unfold decodeLine
  rw [e2]
  show withScope w 17 (fun sc => take w [(22, 1, 0), (0, 5, 0)] (.lqry (ordAt w) sc (reg w 11) (reg w 5))) = _
  simp [take, ordAt, order_of_code, withScope, scope_of_code, reg, e3, e4, e5, e6, e7, e8]

theorem RoundTrip.nlook (scope : Scope) (xd : RegNo) (xa : RegNo) (xb : BitVec 5) :
    RoundTrip.Statement (.nlook scope xd xa xb) := by
  intro _ hf
  have h0 := scope_code_lt scope
  have h1 := xd.isLt
  have h2 := xa.isLt
  have h3 := xb.isLt
  obtain ⟨e0, e2, e3, e4, e5, e6, e7⟩ := @fld_packE 14 4 0 scope.code xd.toNat xa.toNat xb.toNat (by decide) (by decide) (by decide) (by omega) (by omega) (by omega) (by omega)
  generalize hx : packE 14 4 0 scope.code xd.toNat xa.toNat xb.toNat = w at *
  refine decodeWord_of hf ?_
  rw [show encode (.nlook scope xd xa xb) = w from hx]
  rw [decodeClass_14 e0]
  unfold decodeLine
  rw [e2]
  show withScope w 17 (fun sc => take w [(21, 2, 0)] (.nlook sc (reg w 11) (reg w 5) (bits w 0 5))) = _
  simp [take, withScope, scope_of_code, reg, bits, e3, e4, e5, e6, e7]

theorem RoundTrip.nref (scope : Scope) (xd : RegNo) (xn : BitVec 5) :
    RoundTrip.Statement (.nref scope xd xn) := by
  intro _ hf
  have h0 := scope_code_lt scope
  have h1 := xd.isLt
  have h2 := xn.isLt
  have hw := @packE_toNat 14 5 0 scope.code xd.toNat (xn.toNat * 2) 0 (by decide) (by decide) (by decide) (by omega) (by omega) (by omega) (by decide)
  obtain ⟨e0, e2, e3, e5, e6, _, _⟩ := @fld_packE 14 5 0 scope.code xd.toNat (xn.toNat * 2) 0 (by decide) (by decide) (by decide) (by omega) (by omega) (by omega) (by decide)
  generalize hx : packE 14 5 0 scope.code xd.toNat (xn.toNat * 2) 0 = w at *
  have e4 : fld w 0 6 = 0 := by unfold fld; omega
  have e7 : fld w 6 5 = xn.toNat := by unfold fld; omega
  refine decodeWord_of hf ?_
  rw [show encode (.nref scope xd xn) = w from hx]
  rw [decodeClass_14 e0]
  unfold decodeLine
  rw [e2]
  show withScope w 17 (fun sc => take w [(21, 2, 0), (0, 6, 0)] (.nref sc (reg w 11) (bits w 6 5))) = _
  simp [take, withScope, scope_of_code, reg, bits, e3, e4, e5, e6, e7]

theorem RoundTrip.nrel (ord : Order) (scope : Scope) (xd : RegNo) (xn : BitVec 5) :
    RoundTrip.Statement (.nrel ord scope xd xn) := by
  intro _ hf
  have h0 := order_code_lt ord
  have h1 := scope_code_lt scope
  have h2 := xd.isLt
  have h3 := xn.isLt
  have hw := @packE_toNat 14 6 ord.code scope.code xd.toNat (xn.toNat * 2) 0 (by decide) (by decide) (by omega) (by omega) (by omega) (by omega) (by decide)
  have ho21 : ord.code % 2 = 0 := by revert hf; cases ord <;> simp [wellFormed, Order.rlxRel, Order.code]
  obtain ⟨e0, e2, e5, e6, e7, _, _⟩ := @fld_packE 14 6 ord.code scope.code xd.toNat (xn.toNat * 2) 0 (by decide) (by decide) (by omega) (by omega) (by omega) (by omega) (by decide)
  generalize hx : packE 14 6 ord.code scope.code xd.toNat (xn.toNat * 2) 0 = w at *
  have e3 : fld w 21 1 = 0 := by unfold fld; omega
  have e4 : fld w 0 6 = 0 := by unfold fld; omega
  have e8 : fld w 6 5 = xn.toNat := by unfold fld; omega
  refine decodeWord_of hf ?_
  rw [show encode (.nrel ord scope xd xn) = w from hx]
  rw [decodeClass_14 e0]
  unfold decodeLine
  rw [e2]
  show withScope w 17 (fun sc => take w [(21, 1, 0), (0, 6, 0)] (.nrel (ordAt w) sc (reg w 11) (bits w 6 5))) = _
  simp [take, ordAt, order_of_code, withScope, scope_of_code, reg, bits, e3, e4, e5, e6, e7, e8]

theorem RoundTrip.nswap (ord : Order) (scope : Scope) (xd : RegNo) (xa : RegNo) (xq : BitVec 3) :
    RoundTrip.Statement (.nswap ord scope xd xa xq) := by
  intro _ hf
  have h0 := order_code_lt ord
  have h1 := scope_code_lt scope
  have h2 := xd.isLt
  have h3 := xa.isLt
  have h4 := xq.isLt
  have hw := @packE_toNat 14 7 ord.code scope.code xd.toNat xa.toNat (xq.toNat * 4) (by decide) (by decide) (by omega) (by omega) (by omega) (by omega) (by omega)
  have ho22 : ord.code / 2 = 1 := by revert hf; cases ord <;> simp [wellFormed, Order.code]
  obtain ⟨e0, e2, e5, e6, e7, e8, _⟩ := @fld_packE 14 7 ord.code scope.code xd.toNat xa.toNat (xq.toNat * 4) (by decide) (by decide) (by omega) (by omega) (by omega) (by omega) (by omega)
  generalize hx : packE 14 7 ord.code scope.code xd.toNat xa.toNat (xq.toNat * 4) = w at *
  have e3 : fld w 22 1 = 1 := by unfold fld; omega
  have e4 : fld w 0 2 = 0 := by unfold fld; omega
  have e9 : fld w 2 3 = xq.toNat := by unfold fld; omega
  refine decodeWord_of hf ?_
  rw [show encode (.nswap ord scope xd xa xq) = w from hx]
  rw [decodeClass_14 e0]
  unfold decodeLine
  rw [e2]
  show withScope w 17 (fun sc => take w [(22, 1, 1), (0, 2, 0)] (.nswap (ordAt w) sc (reg w 11) (reg w 5) (bits w 2 3))) = _
  simp [take, ordAt, order_of_code, withScope, scope_of_code, reg, bits, e3, e4, e5, e6, e7, e8, e9]

theorem RoundTrip.nget (ord : Order) (scope : Scope) (xd : RegNo) (xn : BitVec 5) (xb : BitVec 5) :
    RoundTrip.Statement (.nget ord scope xd xn xb) := by
  intro _ hf
  have h0 := order_code_lt ord
  have h1 := scope_code_lt scope
  have h2 := xd.isLt
  have h3 := xn.isLt
  have h4 := xb.isLt
  have hw := @packE_toNat 14 8 ord.code scope.code xd.toNat (xn.toNat * 2) xb.toNat (by decide) (by decide) (by omega) (by omega) (by omega) (by omega) (by omega)
  have ho22 : ord.code / 2 = 0 := by revert hf; cases ord <;> simp [wellFormed, Order.rlxAcq, Order.code]
  obtain ⟨e0, e2, e5, e6, e7, _, e9⟩ := @fld_packE 14 8 ord.code scope.code xd.toNat (xn.toNat * 2) xb.toNat (by decide) (by decide) (by omega) (by omega) (by omega) (by omega) (by omega)
  generalize hx : packE 14 8 ord.code scope.code xd.toNat (xn.toNat * 2) xb.toNat = w at *
  have e3 : fld w 22 1 = 0 := by unfold fld; omega
  have e4 : fld w 5 1 = 0 := by unfold fld; omega
  have e8 : fld w 6 5 = xn.toNat := by unfold fld; omega
  refine decodeWord_of hf ?_
  rw [show encode (.nget ord scope xd xn xb) = w from hx]
  rw [decodeClass_14 e0]
  unfold decodeLine
  rw [e2]
  show withScope w 17 (fun sc => take w [(22, 1, 0), (5, 1, 0)] (.nget (ordAt w) sc (reg w 11) (bits w 6 5) (bits w 0 5))) = _
  simp [take, ordAt, order_of_code, withScope, scope_of_code, reg, bits, e3, e4, e5, e6, e7, e8, e9]

theorem RoundTrip.nout (scope : Scope) (xd : RegNo) (xn : BitVec 5) (xp : BitVec 4) :
    RoundTrip.Statement (.nout scope xd xn xp) := by
  intro _ hf
  have h0 := scope_code_lt scope
  have h1 := xd.isLt
  have h2 := xn.isLt
  have h3 := xp.isLt
  have hw := @packE_toNat 14 9 0 scope.code xd.toNat (xn.toNat * 2) (xp.toNat * 2) (by decide) (by decide) (by decide) (by omega) (by omega) (by omega) (by omega)
  obtain ⟨e0, e2, e3, e6, e7, _, _⟩ := @fld_packE 14 9 0 scope.code xd.toNat (xn.toNat * 2) (xp.toNat * 2) (by decide) (by decide) (by decide) (by omega) (by omega) (by omega) (by omega)
  generalize hx : packE 14 9 0 scope.code xd.toNat (xn.toNat * 2) (xp.toNat * 2) = w at *
  have e4 : fld w 5 1 = 0 := by unfold fld; omega
  have e5 : fld w 0 1 = 0 := by unfold fld; omega
  have e8 : fld w 6 5 = xn.toNat := by unfold fld; omega
  have e9 : fld w 1 4 = xp.toNat := by unfold fld; omega
  refine decodeWord_of hf ?_
  rw [show encode (.nout scope xd xn xp) = w from hx]
  rw [decodeClass_14 e0]
  unfold decodeLine
  rw [e2]
  show withScope w 17 (fun sc => take w [(21, 2, 0), (5, 1, 0), (0, 1, 0)] (.nout sc (reg w 11) (bits w 6 5) (bits w 1 4))) = _
  simp [take, withScope, scope_of_code, reg, bits, e3, e4, e5, e6, e7, e8, e9]

theorem RoundTrip.nhas (scope : Scope) (xd : RegNo) (xn : BitVec 5) :
    RoundTrip.Statement (.nhas scope xd xn) := by
  intro _ hf
  have h0 := scope_code_lt scope
  have h1 := xd.isLt
  have h2 := xn.isLt
  have hw := @packE_toNat 14 10 0 scope.code xd.toNat (xn.toNat * 2) 0 (by decide) (by decide) (by decide) (by omega) (by omega) (by omega) (by decide)
  obtain ⟨e0, e2, e3, e5, e6, _, _⟩ := @fld_packE 14 10 0 scope.code xd.toNat (xn.toNat * 2) 0 (by decide) (by decide) (by decide) (by omega) (by omega) (by omega) (by decide)
  generalize hx : packE 14 10 0 scope.code xd.toNat (xn.toNat * 2) 0 = w at *
  have e4 : fld w 0 6 = 0 := by unfold fld; omega
  have e7 : fld w 6 5 = xn.toNat := by unfold fld; omega
  refine decodeWord_of hf ?_
  rw [show encode (.nhas scope xd xn) = w from hx]
  rw [decodeClass_14 e0]
  unfold decodeLine
  rw [e2]
  show withScope w 17 (fun sc => take w [(21, 2, 0), (0, 6, 0)] (.nhas sc (reg w 11) (bits w 6 5))) = _
  simp [take, withScope, scope_of_code, reg, bits, e3, e4, e5, e6, e7]

theorem RoundTrip.nxfer (ord : Order) (scope : Scope) (xd : RegNo) (xn : BitVec 5) (xb : BitVec 5) :
    RoundTrip.Statement (.nxfer ord scope xd xn xb) := by
  intro _ hf
  have h0 := order_code_lt ord
  have h1 := scope_code_lt scope
  have h2 := xd.isLt
  have h3 := xn.isLt
  have h4 := xb.isLt
  have hw := @packE_toNat 14 11 ord.code scope.code xd.toNat (xn.toNat * 2) xb.toNat (by decide) (by decide) (by omega) (by omega) (by omega) (by omega) (by omega)
  have ho21 : ord.code % 2 = 0 := by revert hf; cases ord <;> simp [wellFormed, Order.rlxRel, Order.code]
  obtain ⟨e0, e2, e5, e6, e7, _, e9⟩ := @fld_packE 14 11 ord.code scope.code xd.toNat (xn.toNat * 2) xb.toNat (by decide) (by decide) (by omega) (by omega) (by omega) (by omega) (by omega)
  generalize hx : packE 14 11 ord.code scope.code xd.toNat (xn.toNat * 2) xb.toNat = w at *
  have e3 : fld w 21 1 = 0 := by unfold fld; omega
  have e4 : fld w 5 1 = 0 := by unfold fld; omega
  have e8 : fld w 6 5 = xn.toNat := by unfold fld; omega
  refine decodeWord_of hf ?_
  rw [show encode (.nxfer ord scope xd xn xb) = w from hx]
  rw [decodeClass_14 e0]
  unfold decodeLine
  rw [e2]
  show withScope w 17 (fun sc => take w [(21, 1, 0), (5, 1, 0)] (.nxfer (ordAt w) sc (reg w 11) (bits w 6 5) (bits w 0 5))) = _
  simp [take, ordAt, order_of_code, withScope, scope_of_code, reg, bits, e3, e4, e5, e6, e7, e8, e9]

theorem RoundTrip.grow (scope : Scope) (xd : RegNo) (xb : BitVec 5) :
    RoundTrip.Statement (.grow scope xd xb) := by
  intro _ hf
  have h0 := scope_code_lt scope
  have h1 := xd.isLt
  have h2 := xb.isLt
  obtain ⟨e0, e2, e3, e5, e6, e4, e7⟩ := @fld_packE 15 0 0 scope.code xd.toNat 0 xb.toNat (by decide) (by decide) (by decide) (by omega) (by omega) (by decide) (by omega)
  generalize hx : packE 15 0 0 scope.code xd.toNat 0 xb.toNat = w at *
  refine decodeWord_of hf ?_
  rw [show encode (.grow scope xd xb) = w from hx]
  rw [decodeClass_15 e0]
  unfold decodeSched
  rw [e2]
  show withScope w 17 (fun sc => take w [(21, 2, 0), (5, 6, 0)] (.grow sc (reg w 11) (bits w 0 5))) = _
  simp [take, withScope, scope_of_code, reg, bits, e3, e4, e5, e6, e7]

theorem RoundTrip.post (ord : Order) (scope : Scope) (xd : RegNo) (xa : RegNo) :
    RoundTrip.Statement (.post ord scope xd xa) := by
  intro _ hf
  have h0 := order_code_lt ord
  have h1 := scope_code_lt scope
  have h2 := xd.isLt
  have h3 := xa.isLt
  have hw := @packE_toNat 15 1 ord.code scope.code xd.toNat xa.toNat 0 (by decide) (by decide) (by omega) (by omega) (by omega) (by omega) (by decide)
  have ho21 : ord.code % 2 = 0 := by revert hf; cases ord <;> simp [wellFormed, Order.rlxRel, Order.code]
  obtain ⟨e0, e2, e5, e6, e7, e8, e4⟩ := @fld_packE 15 1 ord.code scope.code xd.toNat xa.toNat 0 (by decide) (by decide) (by omega) (by omega) (by omega) (by omega) (by decide)
  generalize hx : packE 15 1 ord.code scope.code xd.toNat xa.toNat 0 = w at *
  have e3 : fld w 21 1 = 0 := by unfold fld; omega
  refine decodeWord_of hf ?_
  rw [show encode (.post ord scope xd xa) = w from hx]
  rw [decodeClass_15 e0]
  unfold decodeSched
  rw [e2]
  show withScope w 17 (fun sc => take w [(21, 1, 0), (0, 5, 0)] (.post (ordAt w) sc (reg w 11) (reg w 5))) = _
  simp [take, ordAt, order_of_code, withScope, scope_of_code, reg, e3, e4, e5, e6, e7, e8]

theorem RoundTrip.fencew (ord : Order) (scope : Scope) (xd : RegNo) :
    RoundTrip.Statement (.fencew ord scope xd) := by
  intro _ hf
  have h0 := order_code_lt ord
  have h1 := scope_code_lt scope
  have h2 := xd.isLt
  have hw := @packE_toNat 15 2 ord.code scope.code xd.toNat 0 0 (by decide) (by decide) (by omega) (by omega) (by omega) (by decide) (by decide)
  have ho21 : ord.code % 2 = 0 := by revert hf; cases ord <;> simp [wellFormed, Order.rlxRel, Order.code]
  obtain ⟨e0, e2, e5, e6, e7, _, _⟩ := @fld_packE 15 2 ord.code scope.code xd.toNat 0 0 (by decide) (by decide) (by omega) (by omega) (by omega) (by decide) (by decide)
  generalize hx : packE 15 2 ord.code scope.code xd.toNat 0 0 = w at *
  have e3 : fld w 21 1 = 0 := by unfold fld; omega
  have e4 : fld w 0 11 = 0 := by unfold fld; omega
  refine decodeWord_of hf ?_
  rw [show encode (.fencew ord scope xd) = w from hx]
  rw [decodeClass_15 e0]
  unfold decodeSched
  rw [e2]
  show withScope w 17 (fun sc => take w [(21, 1, 0), (0, 11, 0)] (.fencew (ordAt w) sc (reg w 11))) = _
  simp [take, ordAt, order_of_code, withScope, scope_of_code, reg, e3, e4, e5, e6, e7]

theorem RoundTrip.gbind (ord : Order) (scope : Scope) (xd : RegNo) (xa : RegNo) (xb : BitVec 5) :
    RoundTrip.Statement (.gbind ord scope xd xa xb) := by
  intro _ hf
  have h0 := order_code_lt ord
  have h1 := scope_code_lt scope
  have h2 := xd.isLt
  have h3 := xa.isLt
  have h4 := xb.isLt
  have hw := @packE_toNat 15 3 ord.code scope.code xd.toNat xa.toNat xb.toNat (by decide) (by decide) (by omega) (by omega) (by omega) (by omega) (by omega)
  have ho21 : ord.code % 2 = 0 := by revert hf; cases ord <;> simp [wellFormed, Order.rlxRel, Order.code]
  obtain ⟨e0, e2, e4, e5, e6, e7, e8⟩ := @fld_packE 15 3 ord.code scope.code xd.toNat xa.toNat xb.toNat (by decide) (by decide) (by omega) (by omega) (by omega) (by omega) (by omega)
  generalize hx : packE 15 3 ord.code scope.code xd.toNat xa.toNat xb.toNat = w at *
  have e3 : fld w 21 1 = 0 := by unfold fld; omega
  refine decodeWord_of hf ?_
  rw [show encode (.gbind ord scope xd xa xb) = w from hx]
  rw [decodeClass_15 e0]
  unfold decodeSched
  rw [e2]
  show withScope w 17 (fun sc => take w [(21, 1, 0)] (.gbind (ordAt w) sc (reg w 11) (reg w 5) (bits w 0 5))) = _
  simp [take, ordAt, order_of_code, withScope, scope_of_code, reg, bits, e3, e4, e5, e6, e7, e8]

theorem RoundTrip.grebind (ord : Order) (scope : Scope) (xd : RegNo) (xa : RegNo) (xb : BitVec 5) :
    RoundTrip.Statement (.grebind ord scope xd xa xb) := by
  intro _ hf
  have h0 := order_code_lt ord
  have h1 := scope_code_lt scope
  have h2 := xd.isLt
  have h3 := xa.isLt
  have h4 := xb.isLt
  have hw := @packE_toNat 15 4 ord.code scope.code xd.toNat xa.toNat xb.toNat (by decide) (by decide) (by omega) (by omega) (by omega) (by omega) (by omega)
  have ho21 : ord.code % 2 = 0 := by revert hf; cases ord <;> simp [wellFormed, Order.rlxRel, Order.code]
  obtain ⟨e0, e2, e4, e5, e6, e7, e8⟩ := @fld_packE 15 4 ord.code scope.code xd.toNat xa.toNat xb.toNat (by decide) (by decide) (by omega) (by omega) (by omega) (by omega) (by omega)
  generalize hx : packE 15 4 ord.code scope.code xd.toNat xa.toNat xb.toNat = w at *
  have e3 : fld w 21 1 = 0 := by unfold fld; omega
  refine decodeWord_of hf ?_
  rw [show encode (.grebind ord scope xd xa xb) = w from hx]
  rw [decodeClass_15 e0]
  unfold decodeSched
  rw [e2]
  show withScope w 17 (fun sc => take w [(21, 1, 0)] (.grebind (ordAt w) sc (reg w 11) (reg w 5) (bits w 0 5))) = _
  simp [take, ordAt, order_of_code, withScope, scope_of_code, reg, bits, e3, e4, e5, e6, e7, e8]

theorem RoundTrip.gstat (scope : Scope) (xd : RegNo) (xb : BitVec 5) :
    RoundTrip.Statement (.gstat scope xd xb) := by
  intro _ hf
  have h0 := scope_code_lt scope
  have h1 := xd.isLt
  have h2 := xb.isLt
  obtain ⟨e0, e2, e3, e5, e6, e4, e7⟩ := @fld_packE 15 5 0 scope.code xd.toNat 0 xb.toNat (by decide) (by decide) (by decide) (by omega) (by omega) (by decide) (by omega)
  generalize hx : packE 15 5 0 scope.code xd.toNat 0 xb.toNat = w at *
  refine decodeWord_of hf ?_
  rw [show encode (.gstat scope xd xb) = w from hx]
  rw [decodeClass_15 e0]
  unfold decodeSched
  rw [e2]
  show withScope w 17 (fun sc => take w [(21, 2, 0), (5, 6, 0)] (.gstat sc (reg w 11) (bits w 0 5))) = _
  simp [take, withScope, scope_of_code, reg, bits, e3, e4, e5, e6, e7]

theorem RoundTrip.ptset (scope : Scope) (xd : RegNo) (xa : RegNo) (xb : BitVec 5) :
    RoundTrip.Statement (.ptset scope xd xa xb) := by
  intro _ hf
  have h0 := scope_code_lt scope
  have h1 := xd.isLt
  have h2 := xa.isLt
  have h3 := xb.isLt
  obtain ⟨e0, e2, e3, e4, e5, e6, e7⟩ := @fld_packE 15 6 0 scope.code xd.toNat xa.toNat xb.toNat (by decide) (by decide) (by decide) (by omega) (by omega) (by omega) (by omega)
  generalize hx : packE 15 6 0 scope.code xd.toNat xa.toNat xb.toNat = w at *
  refine decodeWord_of hf ?_
  rw [show encode (.ptset scope xd xa xb) = w from hx]
  rw [decodeClass_15 e0]
  unfold decodeSched
  rw [e2]
  show withScope w 17 (fun sc => take w [(21, 2, 0)] (.ptset sc (reg w 11) (reg w 5) (bits w 0 5))) = _
  simp [take, withScope, scope_of_code, reg, bits, e3, e4, e5, e6, e7]

theorem RoundTrip.hmrisk (scope : Scope) (xd : RegNo) :
    RoundTrip.Statement (.hmrisk scope xd) := by
  intro _ hf
  have h0 := scope_code_lt scope
  have h1 := xd.isLt
  have hw := @packE_toNat 15 7 0 scope.code xd.toNat 0 0 (by decide) (by decide) (by decide) (by omega) (by omega) (by decide) (by decide)
  obtain ⟨e0, e2, e3, e5, e6, _, _⟩ := @fld_packE 15 7 0 scope.code xd.toNat 0 0 (by decide) (by decide) (by decide) (by omega) (by omega) (by decide) (by decide)
  generalize hx : packE 15 7 0 scope.code xd.toNat 0 0 = w at *
  have e4 : fld w 0 11 = 0 := by unfold fld; omega
  refine decodeWord_of hf ?_
  rw [show encode (.hmrisk scope xd) = w from hx]
  rw [decodeClass_15 e0]
  unfold decodeSched
  rw [e2]
  show withScope w 17 (fun sc => take w [(21, 2, 0), (0, 11, 0)] (.hmrisk sc (reg w 11))) = _
  simp [take, withScope, scope_of_code, reg, e3, e4, e5, e6]

theorem RoundTrip.prack (scope : Scope) :
    RoundTrip.Statement (.prack scope) := by
  intro _ hf
  have h0 := scope_code_lt scope
  have hw := @packE_toNat 15 8 0 scope.code 0 0 0 (by decide) (by decide) (by decide) (by omega) (by decide) (by decide) (by decide)
  obtain ⟨e0, e2, e3, e5, _, _, _⟩ := @fld_packE 15 8 0 scope.code 0 0 0 (by decide) (by decide) (by decide) (by omega) (by decide) (by decide) (by decide)
  generalize hx : packE 15 8 0 scope.code 0 0 0 = w at *
  have e4 : fld w 0 17 = 0 := by unfold fld; omega
  refine decodeWord_of hf ?_
  rw [show encode (.prack scope) = w from hx]
  rw [decodeClass_15 e0]
  unfold decodeSched
  rw [e2]
  show withScope w 17 (fun sc => take w [(21, 2, 0), (0, 17, 0)] (.prack sc)) = _
  simp [take, withScope, scope_of_code, e3, e4, e5]

theorem RoundTrip.packetIssue (core : Nat) (ctx : CtxId) : RoundTrip.Statement (.packetIssue core ctx) :=
  fun h => nomatch h

theorem RoundTrip.holdExpiry (core : Nat) (ctx : CtxId) : RoundTrip.Statement (.holdExpiry core ctx) :=
  fun h => nomatch h

theorem RoundTrip.queueEntryGrant (core : Nat) (cls : Cls) : RoundTrip.Statement (.queueEntryGrant core cls) :=
  fun h => nomatch h

theorem RoundTrip.trackerAdmit (core : Nat) : RoundTrip.Statement (.trackerAdmit core) :=
  fun h => nomatch h

theorem RoundTrip.commandStart (cmd : Nat) : RoundTrip.Statement (.commandStart cmd) :=
  fun h => nomatch h

theorem RoundTrip.engineMicroOp (cmd : Nat) : RoundTrip.Statement (.engineMicroOp cmd) :=
  fun h => nomatch h

theorem RoundTrip.commandComplete (cmd : Nat) : RoundTrip.Statement (.commandComplete cmd) :=
  fun h => nomatch h

theorem RoundTrip.pendingReportDelivery (core : Nat) (ctx : CtxId) : RoundTrip.Statement (.pendingReportDelivery core ctx) :=
  fun h => nomatch h

theorem RoundTrip.loadFill (acc : Nat) : RoundTrip.Statement (.loadFill acc) :=
  fun h => nomatch h

theorem RoundTrip.storePerform (acc : Nat) (far : Bool) : RoundTrip.Statement (.storePerform acc far) :=
  fun h => nomatch h

theorem RoundTrip.replyFill (cmd : Nat) : RoundTrip.Statement (.replyFill cmd) :=
  fun h => nomatch h

theorem RoundTrip.templateImageArrival (acc : Nat) : RoundTrip.Statement (.templateImageArrival acc) :=
  fun h => nomatch h

theorem RoundTrip.fenceComplete (core : Nat) (ctx : CtxId) (fence : Nat) : RoundTrip.Statement (.fenceComplete core ctx fence) :=
  fun h => nomatch h

theorem RoundTrip.taskRetire (core : Nat) : RoundTrip.Statement (.taskRetire core) :=
  fun h => nomatch h

theorem RoundTrip.schedulerScan (part : Nat) : RoundTrip.Statement (.schedulerScan part) :=
  fun h => nomatch h

theorem RoundTrip.bankGrant (core : Nat) (bank : Nat) : RoundTrip.Statement (.bankGrant core bank) :=
  fun h => nomatch h

theorem RoundTrip.noticeQueueWrite (part : Nat) (ring : RingSel) : RoundTrip.Statement (.noticeQueueWrite part ring) :=
  fun h => nomatch h

theorem RoundTrip.vectorWordComplete (core : Nat) : RoundTrip.Statement (.vectorWordComplete core) :=
  fun h => nomatch h

theorem RoundTrip.arrivalAdmission (w : Arrival) : RoundTrip.Statement (.arrivalAdmission w) :=
  fun h => nomatch h

theorem RoundTrip.constantLineEvict (core : Nat) (line : Nat) : RoundTrip.Statement (.constantLineEvict core line) :=
  fun h => nomatch h

theorem RoundTrip.pageFault (acc : Nat) : RoundTrip.Statement (.pageFault acc) :=
  fun h => nomatch h

theorem RoundTrip.remoteRefusal (who : Refused) (hint : Nat) : RoundTrip.Statement (.remoteRefusal who hint) :=
  fun h => nomatch h

theorem RoundTrip.retryTimerExpiry (acc : Nat) : RoundTrip.Statement (.retryTimerExpiry acc) :=
  fun h => nomatch h

theorem RoundTrip.pageMigration (part : Nat) (asid : Nat) (ipa : Nat) (frame : Nat) : RoundTrip.Statement (.pageMigration part asid ipa frame) :=
  fun h => nomatch h

theorem RoundTrip.invalidationWatchdogExpiry (part : Nat) (inv : Nat) : RoundTrip.Statement (.invalidationWatchdogExpiry part inv) :=
  fun h => nomatch h

theorem RoundTrip.budgetExpiry (gang : Nat) : RoundTrip.Statement (.budgetExpiry gang) :=
  fun h => nomatch h

theorem RoundTrip.policyAgePromotion (part : Nat) (idx : Nat) : RoundTrip.Statement (.policyAgePromotion part idx) :=
  fun h => nomatch h

theorem RoundTrip.graphFiringPlacement (part : Nat) (slot : Nat) : RoundTrip.Statement (.graphFiringPlacement part slot) :=
  fun h => nomatch h

theorem RoundTrip.preload (gang : Nat) : RoundTrip.Statement (.preload gang) :=
  fun h => nomatch h

theorem RoundTrip.preemptAgeExpiry (part : Nat) (idx : Nat) : RoundTrip.Statement (.preemptAgeExpiry part idx) :=
  fun h => nomatch h

theorem RoundTrip.preemptTimeout (gang : Nat) : RoundTrip.Statement (.preemptTimeout gang) :=
  fun h => nomatch h

theorem RoundTrip.gangResume (gang : Nat) : RoundTrip.Statement (.gangResume gang) :=
  fun h => nomatch h

theorem RoundTrip.syncBlockFetch (part : Nat) (die : Nat) (block : Nat) (bad : Bool) : RoundTrip.Statement (.syncBlockFetch part die block bad) :=
  fun h => nomatch h

theorem RoundTrip.tradonCrcReplay (port : Nat) : RoundTrip.Statement (.tradonCrcReplay port) :=
  fun h => nomatch h

theorem RoundTrip.linkDown (port : Nat) : RoundTrip.Statement (.linkDown port) :=
  fun h => nomatch h

theorem RoundTrip.channelRecordDelivery (m : ChanRecord) : RoundTrip.Statement (.channelRecordDelivery m) :=
  fun h => nomatch h

theorem RoundTrip.windowEndArrival (m : WindowEnd) : RoundTrip.Statement (.windowEndArrival m) :=
  fun h => nomatch h

theorem RoundTrip.closeNoticeArrival (m : CloseNotice) : RoundTrip.Statement (.closeNoticeArrival m) :=
  fun h => nomatch h

theorem RoundTrip.countRowArrival (m : CountRow) : RoundTrip.Statement (.countRowArrival m) :=
  fun h => nomatch h

theorem RoundTrip.xa2aPieceArrival (m : Piece) : RoundTrip.Statement (.xa2aPieceArrival m) :=
  fun h => nomatch h

theorem RoundTrip.ringChunkArrival (m : RingMsg) : RoundTrip.Statement (.ringChunkArrival m) :=
  fun h => nomatch h

theorem RoundTrip.czBlockExpand (part : Nat) (asid : Nat) (block : Nat) : RoundTrip.Statement (.czBlockExpand part asid block) :=
  fun h => nomatch h

theorem RoundTrip.czBlockCompress (part : Nat) (asid : Nat) (block : Nat) : RoundTrip.Statement (.czBlockCompress part asid block) :=
  fun h => nomatch h

theorem RoundTrip.backgroundRelease (part : Nat) (name : Nat) : RoundTrip.Statement (.backgroundRelease part name) :=
  fun h => nomatch h

theorem RoundTrip.mirrorTransferReceive (m : MirrorMsg) : RoundTrip.Statement (.mirrorTransferReceive m) :=
  fun h => nomatch h

theorem RoundTrip.throttleEngage (die : Nat) (temp : Nat) : RoundTrip.Statement (.throttleEngage die temp) :=
  fun h => nomatch h

theorem RoundTrip.throttleRelease (temps : List Nat) : RoundTrip.Statement (.throttleRelease temps) :=
  fun h => nomatch h

theorem RoundTrip.riskUpdate : RoundTrip.Statement (.riskUpdate) :=
  fun h => nomatch h

theorem RoundTrip.powerOnReset (found : BringUp) : RoundTrip.Statement (.powerOnReset found) :=
  fun h => nomatch h

theorem RoundTrip.cxlLinkUp : RoundTrip.Statement (.cxlLinkUp) :=
  fun h => nomatch h

theorem RoundTrip.hostMemRead (part : Nat) (addr : Nat) (keep : Bool) : RoundTrip.Statement (.hostMemRead part addr keep) :=
  fun h => nomatch h

theorem RoundTrip.hostMemWrite (part : Nat) (addr : Nat) (data : List Byte) (poison : Bool) : RoundTrip.Statement (.hostMemWrite part addr data poison) :=
  fun h => nomatch h

theorem RoundTrip.backInvalidationComplete (line : Nat) : RoundTrip.Statement (.backInvalidationComplete line) :=
  fun h => nomatch h

theorem RoundTrip.registerWrite (fn : Nat) (off : Nat) (val : Word) : RoundTrip.Statement (.registerWrite fn off val) :=
  fun h => nomatch h

theorem RoundTrip.getInfo (fn : Nat) : RoundTrip.Statement (.getInfo fn) :=
  fun h => nomatch h

theorem RoundTrip.partCreate (fn : Nat) : RoundTrip.Statement (.partCreate fn) :=
  fun h => nomatch h

theorem RoundTrip.partDestroy (fn : Nat) : RoundTrip.Statement (.partDestroy fn) :=
  fun h => nomatch h

theorem RoundTrip.partReset (fn : Nat) : RoundTrip.Statement (.partReset fn) :=
  fun h => nomatch h

theorem RoundTrip.vfBind (fn : Nat) : RoundTrip.Statement (.vfBind fn) :=
  fun h => nomatch h

theorem RoundTrip.partConfig (fn : Nat) : RoundTrip.Statement (.partConfig fn) :=
  fun h => nomatch h

theorem RoundTrip.launch (fn : Nat) : RoundTrip.Statement (.launch fn) :=
  fun h => nomatch h

theorem RoundTrip.faultAnswer (fn : Nat) : RoundTrip.Statement (.faultAnswer fn) :=
  fun h => nomatch h

theorem RoundTrip.invalidate (fn : Nat) : RoundTrip.Statement (.invalidate fn) :=
  fun h => nomatch h

theorem RoundTrip.asidRetire (fn : Nat) : RoundTrip.Statement (.asidRetire fn) :=
  fun h => nomatch h

theorem RoundTrip.flush (fn : Nat) : RoundTrip.Statement (.flush fn) :=
  fun h => nomatch h

theorem RoundTrip.tableRoot (fn : Nat) : RoundTrip.Statement (.tableRoot fn) :=
  fun h => nomatch h

theorem RoundTrip.domainSet (fn : Nat) : RoundTrip.Statement (.domainSet fn) :=
  fun h => nomatch h

theorem RoundTrip.mirrorEnable (fn : Nat) : RoundTrip.Statement (.mirrorEnable fn) :=
  fun h => nomatch h

theorem RoundTrip.preempt (fn : Nat) : RoundTrip.Statement (.preempt fn) :=
  fun h => nomatch h

theorem RoundTrip.attest (fn : Nat) : RoundTrip.Statement (.attest fn) :=
  fun h => nomatch h

theorem RoundTrip.pushImage (fn : Nat) : RoundTrip.Statement (.pushImage fn) :=
  fun h => nomatch h

theorem RoundTrip.hmWeights (fn : Nat) : RoundTrip.Statement (.hmWeights fn) :=
  fun h => nomatch h

theorem RoundTrip.sensors (fn : Nat) : RoundTrip.Statement (.sensors fn) :=
  fun h => nomatch h

theorem RoundTrip.linkRetrain (port : Nat) (lanes : Nat) : RoundTrip.Statement (.linkRetrain port lanes) :=
  fun h => nomatch h

theorem RoundTrip.receiverCloseArrival (m : ReceiverClose) : RoundTrip.Statement (.receiverCloseArrival m) :=
  fun h => nomatch h

end Sys2Proof.Laws
end

