-- ==== Sys2Proof/Laws/Reset.lean ====
section
/-! SUPPORT. What the reset of a partition does (R389), and what a write at a place leaves alone. -/

namespace Sys2Proof.Machine

set_option Elab.async false

/-- The cores of a partition stop (R389). -/
theorem stop_fold (l : List Nat) (s : State) :
    let t := l.foldl stopCore s
    { t with cores := s.cores, free := s.free } = s ∧ (∀ n ∈ l, taskOf t n = none) ∧
    ∀ n, n ∉ l → coreOf t n = coreOf s n := by
  induction l generalizing s with
  | nil => simp
  | cons a l ih =>
    simp only [List.foldl_cons]
    obtain ⟨e1, e2, e3⟩ := ih (stopCore s a)
    refine ⟨?_, ?_, ?_⟩
    · exact congrArg (fun u : State => { u with cores := s.cores, free := s.free }) e1
    · intro n hn
      by_cases h : n ∈ l
      · exact e2 n h
      · have : n = a := by simpa [h] using hn
        subst this
        have : coreOf (l.foldl stopCore (stopCore s n)) n = coreOf (stopCore s n) n := e3 n h
        unfold taskOf
        rw [this]
        unfold stopCore
        show (coreOf (setCore s n _) n).task = none
        simp [Core.reset]
    · intro n hn
      simp only [List.mem_cons, not_or] at hn
      rw [e3 n hn.2]
      exact coreOf_setCore_ne _ _ _ _ hn.1

theorem partOf_of_parts {s t : State} (h : t.parts = s.parts) (n : Nat) : partOf t n = partOf s n := by unfold partOf; rw [h]

theorem taskOf_locWrite (s : State) (l : Loc) (d : List Byte) (n : Nat) : taskOf (locWrite s l d) n = taskOf s n := by
  cases l with
  | pa a => rfl
  | sp c o =>
    unfold locWrite taskOf
    by_cases h : n = c
    · subst h; simp
    · rw [coreOf_modCore_ne _ _ _ _ h]

theorem locWrite_parts (s : State) (l : Loc) (d : List Byte) : (locWrite s l d).parts = s.parts := by cases l <;> rfl

theorem locWrite_only (s : State) (l : Loc) (d : List Byte) :
    { locWrite s l d with cores := s.cores, mem := s.mem, poison := s.poison, bad := s.bad } = s := by cases l <;> rfl

theorem clearRoot_none (s : State) (part : Nat) (h : ∀ p, partOf s part = some p → kgetD p.ctl 0 0#64 = 0#64) :
    clearRoot s part = s := by
  unfold clearRoot
  generalize natBytes 0 16 = d
  split
  · rfl
  · rename_i p hp
    simp [h p hp]


/-- The translation caches and L2 are all that the use of a leaf changes (R177, R178). -/
theorem useLeaf_only (s : State) (part asid gen : Nat) (d : Dest) :
    { useLeaf s part asid gen d with tcache := s.tcache, wcache := s.wcache, l2 := s.l2 } = s := by
  unfold useLeaf
  split
  · unfold cacheLeaf
    split
    · unfold cacheWalk
      dsimp only
      split
      · rfl
      · split
        · rfl
        · split <;> rfl
    · rfl
  · rfl

theorem oweHost_only (s : State) (a : Access) : { oweHost s a with backInv := s.backInv } = s := by
  unfold oweHost; split <;> rfl

theorem partOf_modPart_ne (s : State) (n m : Nat) (g : Partition → Partition) (h : m ≠ n) : partOf (modPart s n g) m = partOf s m := by
  rw [partOf_modPart, if_neg h]

theorem partOf_modPart_same (s : State) (n : Nat) (g : Partition → Partition) : partOf (modPart s n g) n = (partOf s n).map g := by
  rw [partOf_modPart, if_pos rfl]

/-- A change of a partition that only adds records that wait for its log, and settles whether its root is due (R172, R389). -/
def AddsRecords (g : Partition → Partition) : Prop :=
  ∀ p, { g p with pendRecords := p.pendRecords, rootDue := p.rootDue } = p ∧ ∀ r ∈ p.pendRecords, r ∈ (g p).pendRecords

theorem mem_insertRecord (l : List Rec32) (r : Rec32) : ∀ x, x ∈ insertRecord l r ↔ x = r ∨ x ∈ l := by
  induction l with
  | nil => simp [insertRecord]
  | cons a l ih =>
    intro x
    unfold insertRecord
    split
    · simp
    · simp only [List.mem_cons, ih]
      constructor <;> (rintro (h | h | h) <;> simp [h])

/-- A record changes a partition's records that wait, and the health monitor (R172). -/
theorem mcRecord_adds (s : State) (part src code cls ctx core : Nat) (ea : Word) (ipa : Nat) :
    let t := mcRecord s part src code cls ctx core ea ipa
    { t with parts := s.parts, health := s.health } = s ∧ (∀ n, n ≠ part → partOf t n = partOf s n) ∧
    ∃ g, AddsRecords g ∧ partOf t part = (partOf s part).map g ∧
      ∀ p : Partition, p.mcRing.isSome = true → recordWords s part src code cls ctx core ea ipa ∈ (g p).pendRecords := by
  refine ⟨rfl, fun n hn => partOf_modPart_ne _ _ _ _ hn, _, ?_, partOf_modPart_same _ _ _, ?_⟩
  · intro p
    dsimp only
    split
    · exact ⟨rfl, fun r hr => (mem_insertRecord _ _ _).2 (.inr hr)⟩
    · exact ⟨rfl, fun r hr => hr⟩
  · intro p hp
    simp only [hp, if_true]
    exact (mem_insertRecord _ _ _).2 (.inl rfl)

/-- What a unit's write at a place leaves alone, with the use of its leaf and the host event that it owes (R154, R177). -/
theorem unitWrite_only (s : State) (l : Loc) (d : List Byte) (part asid gen n : Nat) (x : Dest) (a : Access) :
    let t := oweHost { useLeaf (locWrite s l d) part asid gen x with nextId := n } a
    { t with
      cores := s.cores, mem := s.mem, poison := s.poison, bad := s.bad, backInv := s.backInv, nextId := s.nextId
      tcache := s.tcache, wcache := s.wcache, l2 := s.l2 } = s ∧
    (∀ n, taskOf t n = taskOf s n) := by
  have e1 := locWrite_only s l d
  have e2 := useLeaf_only (locWrite s l d) part asid gen x
  have e3 := oweHost_only { useLeaf (locWrite s l d) part asid gen x with nextId := n } a
  refine ⟨?_, fun m => ?_⟩
  · have f1 := congrArg (fun x : State => { x with
      cores := s.cores, mem := s.mem, poison := s.poison, bad := s.bad
      backInv := s.backInv, nextId := s.nextId, tcache := s.tcache, wcache := s.wcache, l2 := s.l2 }) e3
    have f2 := congrArg (fun x : State => { x with
      cores := s.cores, mem := s.mem, poison := s.poison, bad := s.bad
      backInv := s.backInv, nextId := s.nextId, tcache := s.tcache, wcache := s.wcache, l2 := s.l2 }) e2
    have f3 := congrArg (fun x : State => { x with
      backInv := s.backInv, nextId := s.nextId, tcache := s.tcache, wcache := s.wcache, l2 := s.l2 }) e1
    exact f1.trans (f2.trans f3)
  · have f2 := congrArg State.cores e2
    have f3 := congrArg State.cores e3
    have c : (oweHost { useLeaf (locWrite s l d) part asid gen x with nextId := n } a).cores = (locWrite s l d).cores :=
      Eq.trans f3 f2
    refine Eq.trans ?_ (taskOf_locWrite s l d m)
    unfold taskOf coreOf; rw [c]

/-- What the write of the null root leaves alone (R389). -/
theorem clearRoot_only (s : State) (part : Nat) :
    let t := clearRoot s part
    { t with
      cores := s.cores, mem := s.mem, poison := s.poison, bad := s.bad, parts := s.parts, health := s.health
      backInv := s.backInv, nextId := s.nextId, tcache := s.tcache, wcache := s.wcache, l2 := s.l2 } = s ∧
    (∀ n, taskOf t n = taskOf s n) ∧ (∀ n, n ≠ part → partOf t n = partOf s n) ∧
    ∃ g, AddsRecords g ∧ partOf t part = (partOf s part).map g := by
  have same : AddsRecords id := fun p => ⟨rfl, fun _ h => h⟩
  unfold clearRoot
  generalize natBytes 0 16 = d
  split
  · exact ⟨rfl, fun _ => rfl, fun _ _ => rfl, id, same, by simp⟩
  · dsimp only
    split
    · exact ⟨rfl, fun _ => rfl, fun _ _ => rfl, id, same, by simp⟩
    · split
      · obtain ⟨e, o⟩ := unitWrite_only s _ d part _ _ (s.nextId + 1) _ _
        have pt := congrArg State.parts e
        exact ⟨congrArg (fun x : State => { x with parts := s.parts, health := s.health }) e, o,
          fun n _ => partOf_of_parts pt n, id, same, (partOf_of_parts pt part).trans (by simp)⟩
      · obtain ⟨e, o, g, ag, pg, _⟩ := mcRecord_adds s part _ _ 0 3 0x3FF _ _
        exact ⟨e, fun _ => rfl, o, g, ag, pg⟩
      · exact ⟨rfl, fun _ => rfl, fun n hn => partOf_modPart_ne _ _ _ _ hn, fun p => { p with rootDue := true },
          fun p => ⟨rfl, fun _ h => h⟩, partOf_modPart_same _ _ _⟩

/-- What the read of the fence record leaves alone (R172, R389). -/
theorem readFence_only (s : State) (part : Nat) (p : Partition) :
    let t := (readFence s part p).2
    { t with parts := s.parts, health := s.health, free := s.free } = s ∧ (∀ n, n ≠ part → partOf t n = partOf s n) ∧
    ∃ g, AddsRecords g ∧ partOf t part = (partOf s part).map g := by
  have same : AddsRecords id := fun p => ⟨rfl, fun _ h => h⟩
  unfold readFence
  split
  · exact ⟨rfl, fun _ _ => rfl, id, same, by simp⟩
  · dsimp only
    split
    · obtain ⟨e, o, g, ag, pg, _⟩ :=
        mcRecord_adds s part (srcMemory (p.fenceAt + 16)) 9 0 3 0x3FF (BitVec.ofNat 64 (p.fenceAt + 16)) 0
      exact ⟨congrArg (fun x : State => { x with free := s.free }) e, o, g, ag, pg⟩
    · exact ⟨rfl, fun _ _ => rfl, id, same, by rw [Option.map_id]; rfl⟩

/-- A partition's invalidations and its notices that wait are all that its completing invalidations change of it (R184). -/
def OnlyInvals (g : Partition → Partition) : Prop := ∀ p, { g p with invals := p.invals, pendNotices := p.pendNotices } = p

/-- An invalidation that completes while no core of the partition runs a task (R184). -/
theorem completeInval_idle (s : State) (part : Nat) (v : Inval)
    (h : ∀ p, partOf s part = some p → ∀ n ∈ partCores p, taskOf s n = none) :
    let t := completeInval s part v
    { t with parts := s.parts, tcache := s.tcache, wcache := s.wcache, l2 := s.l2, gangs := s.gangs, noticeNext := s.noticeNext } = s ∧
    (∀ n, n ≠ part → partOf t n = partOf s n) ∧ (∃ g, OnlyInvals g ∧ partOf t part = (partOf s part).map g) ∧
    ∀ g ∈ t.gangs, ∃ g' ∈ s.gangs, g.2.part = g'.2.part := by
  have e : (((partOf s part).map partCores).getD []).foldl (fun s n => renewSaved s v n) s = s := by
    have hl : ∀ n ∈ ((partOf s part).map partCores).getD [], taskOf s n = none := by
      cases hp : partOf s part with
      | none => simp
      | some p => simpa using h p hp
    revert hl
    generalize ((partOf s part).map partCores).getD [] = l
    induction l with
    | nil => intro _; rfl
    | cons a l ih =>
      intro hl
      rw [List.foldl_cons, show renewSaved s v a = s by simp [renewSaved, hl a (by simp)]]
      exact ih (fun n hn => hl n (by simp [hn]))
  unfold completeInval
  dsimp only
  rw [e]
  refine ⟨rfl, ?_, ?_, ?_⟩
  · intro n hn
    exact (partOf_modPart_ne _ _ _ _ hn).trans (partOf_modPart_ne _ _ _ _ hn)
  · refine ⟨_, ?_, Eq.trans (partOf_modPart_same _ _ _) ((congrArg _ (partOf_modPart_same s part _)).trans (Option.map_map ..))⟩
    intro p; rfl
  · intro g hg
    simp only [queueNotice, modPart_gangs, List.mem_map] at hg
    obtain ⟨g', hg', rfl⟩ := hg
    exact ⟨g', hg', rfl⟩

/-- The invalidations that complete as a partition is left without a task (R184). -/
theorem settleInvals_idle (s : State) (part : Nat) (h : ∀ p, partOf s part = some p → ∀ n ∈ partCores p, taskOf s n = none) :
    let t := settleInvals s part
    { t with parts := s.parts, tcache := s.tcache, wcache := s.wcache, l2 := s.l2, gangs := s.gangs, noticeNext := s.noticeNext } = s ∧
    (∀ n, n ≠ part → partOf t n = partOf s n) ∧ (∃ g, OnlyInvals g ∧ partOf t part = (partOf s part).map g) ∧
    ∀ g ∈ t.gangs, ∃ g' ∈ s.gangs, g.2.part = g'.2.part := by
  have key : ∀ (l : List Inval) (s : State), (∀ p, partOf s part = some p → ∀ n ∈ partCores p, taskOf s n = none) →
      let t := l.foldl (fun s v => completeInval s part v) s
      { t with parts := s.parts, tcache := s.tcache, wcache := s.wcache, l2 := s.l2, gangs := s.gangs, noticeNext := s.noticeNext } = s ∧
      (∀ n, n ≠ part → partOf t n = partOf s n) ∧ (∃ g, OnlyInvals g ∧ partOf t part = (partOf s part).map g) ∧
      ∀ g ∈ t.gangs, ∃ g' ∈ s.gangs, g.2.part = g'.2.part := by
    intro l
    induction l with
    | nil => intro s _; exact ⟨rfl, fun _ _ => rfl, ⟨id, fun _ => rfl, by simp⟩, fun g hg => ⟨g, hg, rfl⟩⟩
    | cons a l ih =>
      intro s hs
      simp only [List.foldl_cons]
      obtain ⟨a1, a2, ⟨g, ag, a3⟩, a4⟩ := completeInval_idle s part a hs
      have hu : ∀ p, partOf (completeInval s part a) part = some p → ∀ n ∈ partCores p, taskOf (completeInval s part a) n = none := by
        intro p hp n hn
        rw [a3] at hp
        obtain ⟨q, hq, rfl⟩ := Option.map_eq_some_iff.1 hp
        have ec : partCores (g q) = partCores q := by
          have := congrArg Partition.clusters (ag q)
          unfold partCores; rw [show (g q).clusters = q.clusters from this]
        rw [ec] at hn
        have et : (completeInval s part a).cores = s.cores := by have := congrArg State.cores a1; exact this
        unfold taskOf coreOf
        rw [et]
        exact hs q hq n hn
      obtain ⟨b1, b2, ⟨g', bg, b3⟩, b4⟩ := ih (completeInval s part a) hu
      refine ⟨?_, fun n hn => (b2 n hn).trans (a2 n hn), ⟨g' ∘ g, ?_, ?_⟩, ?_⟩
      · exact (congrArg (fun u : State => { u with parts := s.parts, tcache := s.tcache, wcache := s.wcache, l2 := s.l2, gangs := s.gangs, noticeNext := s.noticeNext }) b1).trans a1
      · intro p
        exact (congrArg (fun q : Partition => { q with invals := p.invals, pendNotices := p.pendNotices }) (bg (g p))).trans (ag p)
      · rw [b3, a3, Option.map_map]
      · intro x hx
        obtain ⟨y, hy, e1⟩ := b4 x hx
        obtain ⟨z, hz, e2⟩ := a4 y hy
        exact ⟨z, hz, e1.trans e2⟩
  unfold settleInvals
  split
  · exact ⟨rfl, fun _ _ => rfl, ⟨id, fun _ => rfl, by simp⟩, fun g hg => ⟨g, hg, rfl⟩⟩
  · exact key _ s h

theorem setQueue_only (p : Partition) (n : Nat) (l : List Entry) : { setQueue p n l with queues := p.queues } = p := rfl
theorem enterEntry_only (p : Partition) (e : Entry) :
    { enterEntry p e with queues := p.queues, grids := p.grids } = p := rfl
theorem growGrid_only (p : Partition) (g : Grid) (n : Nat) :
    { growGrid p g n with queues := p.queues, grids := p.grids } = p := by
  unfold growGrid; dsimp only; split <;> rfl

/-- A log entry taken again changes queues and grids alone (R389). -/
theorem replayEntry_only (p : Partition) (e : LogEntry) (tsc : Nat) :
    { replayEntry p e tsc with queues := p.queues, grids := p.grids } = p := by
  unfold replayEntry; split
  · exact enterEntry_only _ _
  · split
    · exact growGrid_only _ _ _
    · rfl

/-- The replay changes queues and grids alone (R389). -/
theorem replayLog_only (p : Partition) (pos tsc : Nat) :
    { replayLog p pos tsc with queues := p.queues, grids := p.grids } = p := by
  have h : ∀ (l : List LogEntry) (q : Partition),
      { l.foldl (fun p e => if pos ≤ e.pos then replayEntry p e tsc else p) q with queues := q.queues, grids := q.grids } = q := by
    intro l
    induction l with
    | nil => intro q; rfl
    | cons a l ih =>
      intro q
      rw [List.foldl_cons]
      generalize hr : (if pos ≤ a.pos then replayEntry q a tsc else q) = r
      have e : { r with queues := q.queues, grids := q.grids } = q := by
        rw [← hr]; split
        · exact replayEntry_only _ _ _
        · rfl
      have e2 := congrArg (fun p : Partition => { p with queues := q.queues, grids := q.grids }) (ih r)
      exact e2.trans e
  exact h _ _

/-- What a partition's reset leaves alone, and what it makes of the rest (R389). -/
theorem resetPartition_only (s : State) (part code ctx core : Nat) (ea : Word) (p : Partition) (h : partOf s part = some p) :
    let t := resetPartition s part code ctx core ea
    t.mail = s.mail ∧ t.msix = s.msix ∧ t.masked = s.masked ∧ (∀ n, n ≠ part → partOf t n = partOf s n) ∧
    (∀ c ∈ t.cmds, c.part ≠ part) ∧ (∀ g ∈ t.gangs, g.2.part ≠ part) ∧ (∀ k ∈ partCores p, taskOf t k = none) ∧
    (∃ q, partOf t part = some q ∧
      { q with
        queues := [], grids := [], rootDue := p.rootDue, invals := p.invals, pendNotices := p.pendNotices
        pendRecords := p.pendRecords } = { clearPartition p with replays := p.replays + 1 } ∧
      (∀ r ∈ p.pendRecords, r ∈ q.pendRecords) ∧
      (p.mcRing.isSome = true → recordWords s part srcSched code 0 ctx core ea 0 ∈ q.pendRecords)) ∧
    (kgetD p.ctl 0 0#64 = 0#64 → (∀ k, k ∉ partCores p → coreOf t k = coreOf s k) ∧ t.mem = s.mem) := by
  unfold resetPartition
  rw [h]
  dsimp only
  obtain ⟨r0, r0o, f0, f0a, r0p, r0r⟩ := mcRecord_adds s part srcSched code 0 ctx core ea 0
  generalize e0 : mcRecord s part srcSched code 0 ctx core ea 0 = s0 at *
  obtain ⟨r1, r1o, f1, f1a, r1p⟩ := readFence_only s0 part p
  generalize e1 : (readFence s0 part p).2 = s1 at *
  generalize (readFence s0 part p).1 = pos
  generalize e2 : discardWork s1 part = s2
  generalize e3 : (partCores p).foldl stopCore s2 = s3
  generalize e4 : closeChannels s3 part = s4
  generalize e5 : modPart s4 part clearPartition = s5
  generalize e6 : clearRoot s5 part = s6
  generalize eg : (fun p : Partition =>
      if p.logCap.isSome then replayLog { p with replays := p.replays + 1 } pos s6.tsc
      else { p with replays := p.replays + 1 }) = g
  generalize e7 : modPart s6 part g = s7
  have r1 : { s1 with parts := s.parts, health := s.health, free := s.free } = s :=
    (congrArg (fun x : State => { x with parts := s.parts, health := s.health, free := s.free }) r1).trans
      (congrArg (fun x : State => { x with free := s.free }) r0)
  have r2 : { s2 with cmds := s1.cmds, gangs := s1.gangs, acc := s1.acc } = s1 := by rw [← e2]; rfl
  obtain ⟨r3, r3a, r3b⟩ := stop_fold (partCores p) s2
  rw [e3] at r3 r3a r3b
  have r4 : { s4 with sends := s3.sends, recvs := s3.recvs, known := s3.known, net := s3.net, nextId := s3.nextId } = s3 := by
    rw [← e4]; rfl
  have r5 : { s5 with parts := s4.parts } = s4 := by rw [← e5]; rfl
  obtain ⟨r6, r6a, r6c, f6, f6a, r6d⟩ := clearRoot_only s5 part
  have r6b := clearRoot_none s5 part
  rw [e6] at r6 r6a r6b r6c r6d
  have r7 : { s7 with parts := s6.parts } = s6 := by rw [← e7]; rfl
  have q1 (n : Nat) : partOf s1 n = if n = part then some (f1 (f0 p)) else partOf s n := by
    split
    · rename_i e; subst e; rw [r1p, r0p, h]; rfl
    · rename_i e; rw [r1o n e, r0o n e]
  have q4 (n : Nat) : partOf s4 n = partOf s1 n := by
    have a : s4.parts = s1.parts := by
      have f2 := congrArg State.parts r2; have f3 := congrArg State.parts r3; have f4 := congrArg State.parts r4
      exact Eq.trans f4 (Eq.trans f3 f2)
    exact partOf_of_parts a n
  have q5 (n : Nat) : partOf s5 n = if n = part then (partOf s4 part).map clearPartition else partOf s4 n := by
    rw [← e5, partOf_modPart]
  generalize ep : f1 (f0 p) = p1 at *
  have k1 : { p1 with pendRecords := p.pendRecords, rootDue := p.rootDue } = p := by
    rw [← ep]
    exact (congrArg (fun u : Partition => { u with pendRecords := p.pendRecords, rootDue := p.rootDue }) (f1a (f0 p)).1).trans
      (f0a p).1
  have m1 : ∀ r ∈ p.pendRecords, r ∈ p1.pendRecords := by
    rw [← ep]; exact fun r hr => (f1a _).2 r ((f0a p).2 r hr)
  have n1 : p.mcRing.isSome = true → recordWords s part srcSched code 0 ctx core ea 0 ∈ p1.pendRecords := by
    rw [← ep]; exact fun hm => (f1a _).2 _ (r0r p hm)
  generalize e6p : f6 (clearPartition p1) = p6 at *
  have k6 : { p6 with pendRecords := p1.pendRecords, rootDue := p1.rootDue } = clearPartition p1 := by
    rw [← e6p]; exact (f6a (clearPartition p1)).1
  have m6 : ∀ r ∈ p1.pendRecords, r ∈ p6.pendRecords := by rw [← e6p]; exact (f6a (clearPartition p1)).2
  have p6e : partOf s6 part = some p6 := by
    rw [r6d, q5, if_pos rfl, q4, q1, if_pos rfl]; exact congrArg some e6p
  have p7 : partOf s7 part = some (g p6) := by
    rw [← e7, partOf_modPart_same, p6e]; rfl
  have pq : { g p6 with
        queues := [], grids := [], rootDue := p.rootDue, pendRecords := p.pendRecords } =
      { clearPartition p with replays := p.replays + 1 } ∧ (g p6).pendRecords = p6.pendRecords := by
    have c0 : { clearPartition p1 with rootDue := p.rootDue, pendRecords := p.pendRecords } = clearPartition p :=
      congrArg clearPartition k1
    have c1 : { p6 with rootDue := p.rootDue, pendRecords := p.pendRecords } = clearPartition p :=
      (congrArg (fun u : Partition => { u with rootDue := p.rootDue, pendRecords := p.pendRecords }) k6).trans c0
    have c3 : p6.replays = p.replays := (congrArg Partition.replays c1).trans rfl
    have cq : p6.queues = [] := (congrArg Partition.queues c1).trans rfl
    have cg : p6.grids = [] := (congrArg Partition.grids c1).trans rfl
    have c4 : { p6 with queues := [], grids := [], rootDue := p.rootDue, pendRecords := p.pendRecords, replays := p6.replays + 1 } =
        { clearPartition p with replays := p.replays + 1 } := by
      rw [c3]
      exact (congrArg (fun u : Partition => { u with queues := [], grids := [], replays := p.replays + 1 }) c1).trans rfl
    rw [← eg]
    dsimp only
    split
    · have f := replayLog_only { p6 with replays := p6.replays + 1 } pos s6.tsc
      refine ⟨(congrArg (fun u : Partition =>
        { u with queues := [], grids := [], rootDue := p.rootDue, pendRecords := p.pendRecords }) f).trans c4, ?_⟩
      exact (congrArg Partition.pendRecords f).trans rfl
    · exact ⟨c4, rfl⟩
  have cl : partCores (g p6) = partCores p := by
    have := congrArg Partition.clusters pq.1
    unfold partCores
    rw [show (g p6).clusters = p.clusters from this]
  have tk (n : Nat) : taskOf s7 n = taskOf s3 n := by
    have f7 := congrArg State.cores r7; have f5 := congrArg State.cores r5; have f4 := congrArg State.cores r4
    have a : taskOf s7 n = taskOf s6 n := by unfold taskOf coreOf; rw [show s7.cores = s6.cores from f7]
    rw [a, r6a]; unfold taskOf coreOf
    rw [show s5.cores = s3.cores from Eq.trans f5 f4]
  have idle : ∀ q, partOf s7 part = some q → ∀ n ∈ partCores q, taskOf s7 n = none := by
    intro q hq n hn
    rw [p7] at hq
    have hq' := Option.some.inj hq
    rw [← hq', cl] at hn
    rw [tk]; exact r3a n hn
  obtain ⟨r8, r8a, ⟨g8, g8o, r8b⟩, r8c⟩ := settleInvals_idle s7 part idle
  generalize settleInvals s7 part = t at *
  refine ⟨?_, ?_, ?_, ?_, ?_, ?_, ?_, ?_, ?_⟩
  · have f1 := congrArg State.mail r1; have f2 := congrArg State.mail r2; have f3 := congrArg State.mail r3
    have f4 := congrArg State.mail r4; have f5 := congrArg State.mail r5; have f6 := congrArg State.mail r6
    have f7 := congrArg State.mail r7; have f8 := congrArg State.mail r8
    exact Eq.trans f8 (Eq.trans f7 (Eq.trans f6 (Eq.trans f5 (Eq.trans f4 (Eq.trans f3 (Eq.trans f2 f1))))))
  · have f1 := congrArg State.msix r1; have f2 := congrArg State.msix r2; have f3 := congrArg State.msix r3
    have f4 := congrArg State.msix r4; have f5 := congrArg State.msix r5; have f6 := congrArg State.msix r6
    have f7 := congrArg State.msix r7; have f8 := congrArg State.msix r8
    exact Eq.trans f8 (Eq.trans f7 (Eq.trans f6 (Eq.trans f5 (Eq.trans f4 (Eq.trans f3 (Eq.trans f2 f1))))))
  · have f1 := congrArg State.masked r1; have f2 := congrArg State.masked r2; have f3 := congrArg State.masked r3
    have f4 := congrArg State.masked r4; have f5 := congrArg State.masked r5; have f6 := congrArg State.masked r6
    have f7 := congrArg State.masked r7; have f8 := congrArg State.masked r8
    exact Eq.trans f8 (Eq.trans f7 (Eq.trans f6 (Eq.trans f5 (Eq.trans f4 (Eq.trans f3 (Eq.trans f2 f1))))))
  · intro n hn
    rw [r8a n hn, ← e7, partOf_modPart_ne _ _ _ _ hn, r6c n hn, q5, if_neg hn, q4, q1, if_neg hn]
  · intro c hc
    have f3 := congrArg State.cmds r3; have f4 := congrArg State.cmds r4; have f5 := congrArg State.cmds r5
    have f6 := congrArg State.cmds r6; have f7 := congrArg State.cmds r7; have f8 := congrArg State.cmds r8
    have : c ∈ s2.cmds := by
      rw [← show t.cmds = s2.cmds from Eq.trans f8 (Eq.trans f7 (Eq.trans f6 (Eq.trans f5 (Eq.trans f4 f3))))]; exact hc
    rw [← e2] at this
    simp [discardWork] at this
    exact this.2
  · intro c hc
    obtain ⟨c', hc', ec⟩ := r8c c hc
    have f3 := congrArg State.gangs r3; have f4 := congrArg State.gangs r4; have f5 := congrArg State.gangs r5
    have f6 := congrArg State.gangs r6; have f7 := congrArg State.gangs r7
    have : c' ∈ s2.gangs := by
      rw [← show s7.gangs = s2.gangs from Eq.trans f7 (Eq.trans f6 (Eq.trans f5 (Eq.trans f4 f3)))]; exact hc'
    rw [← e2] at this
    simp [discardWork] at this
    rw [ec]; exact this.2
  · intro k hk
    have f8 := congrArg State.cores r8
    have a : taskOf t k = taskOf s7 k := by unfold taskOf coreOf; rw [show t.cores = s7.cores from f8]
    rw [a, tk]; exact r3a k hk
  · have fr0 := congrArg Partition.pendRecords (g8o (g p6))
    have fr : (g8 (g p6)).pendRecords = p6.pendRecords := Eq.trans fr0 pq.2
    refine ⟨_, r8b.trans (by rw [p7]; rfl), ?_, ?_, ?_⟩
    · have f := g8o (g p6)
      refine Eq.trans ?_ pq.1
      have f' := congrArg (fun u : Partition =>
        { u with queues := [], grids := [], rootDue := p.rootDue, invals := p.invals, pendNotices := p.pendNotices, pendRecords := p.pendRecords }) f
      refine Eq.trans f' ?_
      have i1 := congrArg Partition.invals pq.1
      have i2 := congrArg Partition.pendNotices pq.1
      have e : ∀ u : Partition, u.invals = p.invals → u.pendNotices = p.pendNotices →
          { u with queues := [], grids := [], rootDue := p.rootDue, invals := p.invals, pendNotices := p.pendNotices, pendRecords := p.pendRecords } =
          { u with queues := [], grids := [], rootDue := p.rootDue, pendRecords := p.pendRecords } := by
        intro u h1 h2; rw [← h1, ← h2]
      exact e _ i1 i2
    · rw [fr]; exact fun r hr => m6 r (m1 r hr)
    · rw [fr]; exact fun hm => m6 _ (n1 hm)
  · intro hv
    have c6 : s6 = s5 := by
      apply r6b
      intro p' hp'
      rw [q5, if_pos rfl, q4, q1, if_pos rfl] at hp'
      simp only [Option.map_some, Option.some.injEq] at hp'
      rw [← hp']
      have kc := congrArg Partition.ctl k1
      have : p1.ctl = p.ctl := kc
      show kgetD p1.ctl 0 0#64 = 0#64
      rw [this]; exact hv
    have f1 := congrArg State.cores r1; have f2 := congrArg State.cores r2; have f4 := congrArg State.cores r4
    have f5 := congrArg State.cores r5; have f6 := congrArg State.cores c6; have f7 := congrArg State.cores r7
    have f8 := congrArg State.cores r8
    have m1 := congrArg State.mem r1; have m2 := congrArg State.mem r2; have m3 := congrArg State.mem r3
    have m4 := congrArg State.mem r4; have m5 := congrArg State.mem r5; have m6 := congrArg State.mem c6
    have m7 := congrArg State.mem r7; have m8 := congrArg State.mem r8
    refine ⟨?_, Eq.trans m8 (Eq.trans m7 (Eq.trans m6 (Eq.trans m5 (Eq.trans m4 (Eq.trans m3 (Eq.trans m2 m1))))))⟩
    intro k hk
    have a : t.cores = s3.cores := Eq.trans f8 (Eq.trans f7 (Eq.trans f6 (Eq.trans f5 f4)))
    have b : s2.cores = s.cores := Eq.trans f2 f1
    have := r3b k hk
    unfold coreOf at this ⊢
    rw [a, this, b]

end Sys2Proof.Machine
end

