-- ==== Sys2Proof/Tests/Slice0.lean ====
section
/-! SUPPORT. Tests: words written out from the spec's encodings, one ill-formed term for each check of
wellFormed, and one witness for the hypotheses of each statement, each on a small state. -/

namespace Sys2Proof.Tests

open Sys2Proof Sys2Proof.Machine

set_option Elab.async false
set_option maxRecDepth 100000
set_option exponentiation.threshold 1024

/-! The words of a packet (R50 to R60): each word is the spec's own example, field by field. -/

/-- Class 0, op 0x23, xd 9, xa 9, xb 0, fn 01 (R51, R103). -/
theorem test_decode_cmpp : decodeWord 0 0x08C92401#32 = .ok (.cmppNe 1#3 9#6 0#6 false false) := by rfl
theorem test_decode_clz : decodeWord 0 0x05C32008#32 = .ok (.clz 3#6 8#6 true) := by rfl
theorem test_decode_addi : decodeWord 0 0x100701FF#32 = .ok (.addi 7#6 0#6 false (-1#9)) := by rfl
theorem test_decode_srai : decodeWord 0 0x11830C3F#32 = .ok (.srai 3#6 3#6 false 63#6) := by rfl
theorem test_decode_st : decodeWord 0 0x2E7E7A20#32 = .ok (.st 3#2 3#4 60#6 61#6 false 32#8) := by rfl
theorem test_decode_j : decodeWord 0 0x370003FE#32 = .ok (.j (-2#10)) := by rfl
theorem test_decode_loop : decodeWord 0 0x3A1C1002#32 = .ok (.loopS 7#6 1#6 false 2#10) := by rfl
theorem test_decode_ld_natural : decodeWord 0 0x43440848#32 = .ok (.ldNatural 4#6 2#6 false 2#4 1#2) := by rfl
theorem test_decode_fence : decodeWord 0 0x40C00218#32 = .ok (.fence 8#16 .pkg) := by rfl
theorem test_decode_csrr : decodeWord 0 0x41C20007#32 = .ok (.csrr 2#6 .lwb) := by rfl
theorem test_decode_tpl_ld : decodeWord 0 0x42C00C01#32 = .ok (.tplLd 0#6 3#6 false .cp) := by rfl
theorem test_decode_wld : decodeWord 0 0x51010300#32 = .ok (.wld 4#6 0#2 0x1030#16) := by rfl
theorem test_decode_wins : decodeWord 0 0x513ABCD8#32 = .ok (.wins 4#6 3#2 0xABCD#16) := by rfl
theorem test_decode_vwalk : decodeWord 0 0x8BE00928#32 = .ok (.vwalk 9#6 10#6) := by rfl
/-- Class 8, xop 0, vop 0x22: the mask field, the registers, then sub with .sat, the rounding mode and the format (R234). -/
theorem test_decode_vcvt : decodeWord 0 0x82204024#32 = .ok (.vcvt 2#3 1#6 0#6 0#2 true 1#3 0#2) := by rfl
theorem test_decode_mma : decodeWord 1 0x91400000#32 = .ok (.mma 5#6 0#6 0#16) := by rfl
theorem test_decode_cpy_in : decodeWord 1 0xA14F0003#32 = .ok (.cpyIn 5#6 15#6 3#16) := by rfl
theorem test_decode_aadd : decodeWord 0 0xB18A5009#32 = .ok (.aadd .rlx .part 10#6 0#6 9#5) := by rfl
theorem test_decode_xsort : decodeWord 1 0xC0BF1105#32 = .ok (.xsort 2#6 63#6 0x1105#16) := by rfl
theorem test_decode_sst : decodeWord 0 0xD00AA0A6#32 = .ok (.sst .rlx .part 20#6 5#6 6#5) := by rfl
theorem test_decode_nget : decodeWord 0 0xE42AC146#32 = .ok (.nget .acq .part 24#6 5#5 6#5) := by rfl
theorem test_decode_gbind : decodeWord 0 0xF1CAA0A6#32 = .ok (.gbind .rel .part 20#6 5#6 6#5) := by rfl
theorem test_decode_prack : decodeWord 0 0xF40A0000#32 = .ok (.prack .part) := by rfl
theorem test_decode_unassigned_class : decodeWord 0 0x60000000#32 = .error .unassignedClass := by rfl

/-! Terms that are not instructions: one for each check of wellFormed. -/

theorem test_ill_loop_stages : wellFormed (.loopS 1#6 8#6 false 2#10) = false := by rfl
theorem test_ill_loop_s_empty : wellFormed (.loopS 1#6 0#6 false 2#10) = false := by rfl
theorem test_ill_loop_s_offset : wellFormed (.loopS 1#6 1#6 false 0#10) = false := by rfl
theorem test_ill_loop_o : wellFormed (.loopO 1#6 false (-1#10)) = false := by rfl
theorem test_ill_csrw : wellFormed (.csrw .gid 1#6 false) = false := by rfl
theorem test_ill_ld_natural : wellFormed (.ldNatural 1#6 2#6 false 0#4 3#2) = false := by rfl
theorem test_ill_vcvt : wellFormed (.vcvt 0#3 1#6 0#6 0#2 false 5#3 0#2) = false := by rfl
theorem test_ill_vtopk : wellFormed (.vtopk 63#6 1#6 2#6 0#2) = false := by rfl
theorem test_ill_matrix_patch : wellFormed (.mma 0#6 62#6 0#16) = false := by rfl
theorem test_ill_copy_patch : wellFormed (.cpyIn 0#6 62#6 0#16) = false := by rfl
theorem test_ill_prism_patch : wellFormed (.xsort 0#6 62#6 0#16) = false := by rfl
theorem test_ill_ald_order : wellFormed (.ald .rel .part 1#6 2#6) = false := by rfl
theorem test_ill_ald_reply : wellFormed (.ald .acq .part 0#6 2#6) = false := by rfl
theorem test_ill_ast : wellFormed (.ast .acq .part 1#6 2#5) = false := by rfl
theorem test_ill_abinit : wellFormed (.abinit .ar .part 1#6 2#5) = false := by rfl
theorem test_ill_abexp : wellFormed (.abexp .acq .part 1#6 2#5) = false := by rfl
theorem test_ill_asemp : wellFormed (.asemp .acq .part 1#6 2#5) = false := by rfl
theorem test_ill_aadd : wellFormed (.aadd .ar .part 0#6 2#6 3#5) = false := by rfl
theorem test_ill_abarr : wellFormed (.abarr .acq .part 0#6 2#6) = false := by rfl
theorem test_ill_abwait_order : wellFormed (.abwait .rel .part 1#6 2#6 3#5) = false := by rfl
theorem test_ill_abwait_reply : wellFormed (.abwait .rlx .part 0#6 2#6 3#5) = false := by rfl
theorem test_ill_asemw : wellFormed (.asemw .rlx .part 0#6 2#6 3#5) = false := by rfl
theorem test_ill_sst_order : wellFormed (.sst .acq .part 1#6 2#6 3#5) = false := by rfl
theorem test_ill_sst_done : wellFormed (.sst .rlx .part 60#6 2#6 3#5) = false := by rfl
theorem test_ill_srel : wellFormed (.srel .acq .part 1#6 2#6) = false := by rfl
theorem test_ill_spf : wellFormed (.spf .rlx .part 0#6 2#6 3#5) = false := by rfl
theorem test_ill_sqry : wellFormed (.sqry .rel .part 1#6 2#6) = false := by rfl
theorem test_ill_lexp : wellFormed (.lexp .part 60#6 2#6 3#5) = false := by rfl
theorem test_ill_lred : wellFormed (.lred .acq .part 1#6 2#6 3#5) = false := by rfl
theorem test_ill_lqry : wellFormed (.lqry .rel .part 1#6 2#6) = false := by rfl
theorem test_ill_nlook : wellFormed (.nlook .part 58#6 2#6 3#5) = false := by rfl
theorem test_ill_nref : wellFormed (.nref .part 60#6 2#5) = false := by rfl
theorem test_ill_nrel : wellFormed (.nrel .acq .part 1#6 2#5) = false := by rfl
theorem test_ill_nswap : wellFormed (.nswap .rlx .part 1#6 2#6 3#3) = false := by rfl
theorem test_ill_nget : wellFormed (.nget .rel .part 1#6 2#5 3#5) = false := by rfl
theorem test_ill_nout : wellFormed (.nout .part 60#6 2#5 3#4) = false := by rfl
theorem test_ill_nxfer : wellFormed (.nxfer .acq .part 1#6 2#5 3#5) = false := by rfl
theorem test_ill_post : wellFormed (.post .acq .part 1#6 2#6) = false := by rfl
theorem test_ill_fencew : wellFormed (.fencew .acq .part 1#6) = false := by rfl

/-- A command of core 0, context L, with number 7. -/
def sentCmd : Cmd :=
  { id := 7, core := 0, ctx := .L, instr := .aadd .rlx .part 3#6 1#6 2#5, cls := .atomic, slot := 0, seq := 0, disp := 7, part := 0,
    asid := 1, gen := 0, gang := 0, tslot := 0, img := 0#512, lrec := 0#768, fmt := 0, vals := [8#64, 5#64, 0#64], vtype := 0#64,
    vwin := 0#64, ports := [], creg := 3, phase := .queued, upc := 0, edges := [], waits := [], farWaits := [], reads := [],
    writes := [], code := 0, value := 0, out := [], list := [], elem := [], work := [], acls := 0, acq := [], tile := none,
    counted := 0, refused := false, fslot := 0, fimg := 0#512, ffmt := 0, freg := 0, fault := 0, retry := none, notice := none,
    denied := false, locks := none, back := .queued, lost := none }

/-- An access of core 0, context L, with number 5, to the shared page. -/
def access (k : AccKind) : Access :=
  { id := 5, core := 0, ctx := some .L, seq := 0, slot := 0, kind := k, cls := 0, ea := 0x10008#64, dest := .ipa 0x10008, size := 8,
    data := if k.writes then natBytes 0x1122334455667788 8 else [], nearAt := 0, notice := none, denied := false, retry := none, refused := false,
    granted := false, since := 0, sync := 0, part := 0, asid := 1, gen := 0, cmd := 0, store := 0 }

/-! Small states. -/

/-- A context whose x1 is v and whose other registers are 0. -/
def ctxV (v : Word) : Ctx := Ctx.reset.setReg 1#6 (XReg.full v)

/-- A core that runs a task of partition 0 under a privileged gang. -/
def core0 : Core := { Core.reset with task := some fetchTask, ctxL := { ctxV 0x10008#64 with pc := 0x10000#64, tvb := 0x10100#64 } }

/-- Partition 0 with the tables of fetchTables. -/
def part0 : Partition := { Partition.fresh [0] with roots := [(1, 0x1000)], curAsid := 1 }

/-- Core 0 runs; everything else is at rest. -/
def st : State :=
  { State.reset with
    cores := [(0, core0)], gangs := [(0, fetchGang)], parts := [(0, part0)], mem := fetchTables [], boot := .ready, tsc := 50000 }

/-- The frame of a packet of context i in which x1 is v. -/
def frame (i : CtxId) (v : Word) : Issue := frameOf st 0 i 0x10000#64 (ctxV v) []

/-- st with that frame. -/
def act (i : CtxId) (v : Word) : State := { st with issue := some (frame i v) }

/-- st with that frame, its packet not yet checked. -/
def alone (v : Word) : State := { st with issue := some { frame .L v with checked := false } }

theorem acting (i : CtxId) (v : Word) : Acting (act i v) (frame i v) := ⟨rfl, rfl⟩

/-! Words of a packet: the hypotheses of each statement hold in such a state. -/

theorem witness_AddSubMul : Acting (act .L 5#64) (frame .L 5#64) := acting _ _
theorem witness_DivRem : Acting (act .L 0#64) (frame .L 0#64) := acting _ _
theorem witness_Logic : Acting (act .C 5#64) (frame .C 5#64) := acting _ _
theorem witness_Shifts : Acting (act .S 63#64) (frame .S 63#64) := acting _ _
theorem witness_MinMaxSet : Acting (act .L (-1#64)) (frame .L (-1#64)) := acting _ _
theorem witness_BitCounts : Acting (act .L 0#64) (frame .L 0#64) := acting _ _
theorem witness_CarryLess : Acting (act .L 3#64) (frame .L 3#64) := acting _ _
theorem witness_BitFields : Acting (act .L 0x4000#64) (frame .L 0x4000#64) := acting _ _
theorem witness_WideSelect : Acting (act .L 1#64) (frame .L 1#64) := acting _ _
theorem witness_Comparisons : Acting (act .L 1#64) (frame .L 1#64) := acting _ _
theorem witness_ReadSpecial : Acting (act .L 1#64) (frame .L 1#64) := acting _ _
theorem witness_Branches : Acting (act .L 1#64) (frame .L 1#64) := acting _ _
theorem witness_Jumps : Acting (act .L 0x10000#64) (frame .L 0x10000#64) := acting _ _
theorem witness_LateWords : Acting (act .L 1#64) (frame .L 1#64) := acting _ _

/-- A packet at 0 that is not yet checked, and a branch of it to one packet before; JR to 2^48 and to 8; ERET to those. -/
def atZero (v : Word) : Issue := { frame .L v with checked := false, pc := 0#64 }
theorem witness_Branches_target : { st with issue := some (atZero 1#64) }.issue = some (atZero 1#64) ∧ (atZero 1#64).checked = false ∧
    2 ^ 48 ≤ (w64 ((atZero 1#64).pc.toNat + 16 * (-1#10 : BitVec 10).toInt)).toNat ∧
    (∀ q : RegNo, q = 1#6 ∨ q = 1#6 → ((atZero 1#64).snap.reg q).pend = [] ∧ ((atZero 1#64).snap.reg q).mark = none) ∧
    (atZero 1#64).snap.pred 0 ≠ false := by
  refine ⟨rfl, rfl, ?_, ?_, ?_⟩ <;> decide
theorem witness_Jumps_target : ((atZero 0x1000000000000#64).rd 1#6).toNat = 2 ^ 48 ∧ ((atZero 8#64).rd 1#6).toNat % 16 ≠ 0 ∧
    ((atZero 8#64).snap.reg 62#6).pend = [] := by
  refine ⟨?_, ?_, ?_⟩ <;> decide
theorem witness_LateWords_target : { atZero 1#64 with tpc := 0x1000000000000#64 }.tpc.toNat = 2 ^ 48 ∧
    { atZero 1#64 with tpc := 8#64 }.tpc.toNat % 16 ≠ 0 := by
  refine ⟨?_, ?_⟩ <;> decide
theorem witness_StreamBinding : Acting (act .L 1#64) (frame .L 1#64) ∧ (1#6 : RegNo) ≠ 0#6 := ⟨acting _ _, by decide⟩
theorem witness_WriteSpecial : Acting (act .C 1#64) (frame .C 1#64) := acting _ _
theorem witness_MatrixSent : Acting (act .C 1#64) (frame .C 1#64) := acting _ _
theorem witness_CopySent : Acting (act .L 1#64) (frame .L 1#64) := acting _ _
theorem witness_PrismSent : Acting (act .L 1#64) (frame .L 1#64) := acting _ _
theorem witness_VectorSent : Acting (act .C 1#64) (frame .C 1#64) ∧ wordCls (.vadd false 1#6 2#6 3#6 0#2) = some .vector ∧
    (∀ r, Instr.vadd false 1#6 2#6 3#6 0#2 ≠ .vwin r) ∧ Instr.vadd false 1#6 2#6 3#6 0#2 ≠ .vfence := by
  refine ⟨acting _ _, rfl, ?_, ?_⟩
  · intro r h; cases h
  · intro h; cases h
theorem witness_ReplyWordsSent : Acting (act .L 1#64) (frame .L 1#64) ∧
    wordCls (.aadd .rel .part 3#6 1#6 2#5) = some .atomic ∧ wordCls (.sst .rlx .part 3#6 1#6 2#5) = some .stash ∧
    wordCls (.nref .part 3#6 1#5) = some .line ∧ wordCls (.gstat .part 3#6 1#5) = some .sched ∧
    ∀ sc, Instr.gstat .part 3#6 1#5 ≠ .prack sc := by
  refine ⟨acting _ _, rfl, rfl, rfl, rfl, ?_⟩
  intro sc h; cases h

/-- The first and last local address, the first and last address of the cluster aperture, and one of neither. -/
theorem witness_ApertureWords : Acting (act .L 0x100000#64) (frame .L 0x100000#64) ∧
    aperture fetchTask 0x100000#64 = .loc ∧ aperture fetchTask 0x1FFFFF#64 = .loc ∧ aperture fetchTask 0x800000#64 = .cluster ∧
    aperture fetchTask 0xFFFFFF#64 = .cluster ∧ aperture fetchTask 0x200000#64 = .shared := by
  refine ⟨acting _ _, ?_, ?_, ?_, ?_, ?_⟩ <;> rfl

/-- Loads: at a generic address, and LDC at a shared one. -/
theorem witness_LoadsIssue : Acting (act .L 0x10008#64) (frame .L 0x10008#64) ∧
    frameTask (act .L 0x10008#64) (frame .L 0x10008#64) = fetchTask ∧ (frame .L 0x10008#64).rd 1#6 = 0x10008#64 ∧
    checkAddr (act .L 0x10008#64) fetchTask 0 0x10008#64 8 .read = .ok (.ipa 0x10008) ∧
    aperture fetchTask 0x10008#64 = .shared := by
  refine ⟨acting _ _, rfl, ?_, ?_, ?_⟩ <;> rfl

theorem witness_StoresIssue : Acting (act .L 0x10008#64) (frame .L 0x10008#64) ∧
    checkAddr (act .L 0x10008#64) fetchTask 0 0x10008#64 8 .write = .ok (.ipa 0x10008) := by
  refine ⟨acting _ _, ?_⟩; rfl

/-- The image of TPL.LD at a multiple of 64. -/
theorem witness_ImageLoad : Acting (act .L 0x10040#64) (frame .L 0x10040#64) ∧
    checkAddr (act .L 0x10040#64) fetchTask 0 0x10040#64 64 .read = .ok (.ipa 0x10040) := by
  refine ⟨acting _ _, ?_⟩; rfl

/-- One address of each case, at its edge: misaligned, the last bytes of the scratchpad and the first beyond it, in the local
and in the cluster aperture, and a shared address without and with an entry that allows the access. -/
theorem witness_AddressChecks :
    checkAddr st fetchTask 0 0x10001#64 2 .read = .error .align ∧
    checkAddr st fetchTask 0 0x1BFFF8#64 8 .read = .ok (.sp 0 0xBFFF8) ∧
    checkAddr st fetchTask 0 0x1C0000#64 8 .read = .error .localRange ∧
    checkAddr st fetchTask 0 0x9BFFF8#64 8 .write = .ok (.sp 1 0xBFFF8) ∧
    checkAddr st fetchTask 0 0x9C0000#64 8 .write = .error .localRange ∧
    checkAddr st fetchTask 0 0x20000#64 8 .read = .error .range ∧
    checkAddr st fetchTask 0 0x1FFF8#64 8 .write = .ok (.ipa 0x1FFF8) := by
  refine ⟨?_, ?_, ?_, ?_, ?_, ?_, ?_⟩ <;> rfl

/-- A shared address whose entry forbids the access, and ones whose IPA is 2^52, and one below it. -/
theorem witness_AddressChecks_entry :
    let shut : Task := { fetchTask with ranges := [⟨true, 1, 2, 0, 0, true, false, true⟩] }
    let high : Task := { fetchTask with ranges := [⟨true, 1, 3, 2 ^ 36 - 2, 0, true, true, true⟩] }
    checkAddr st shut 0 0x10000#64 8 .write = .error .range ∧ checkAddr st shut 0 0x10000#64 8 .read = .ok (.ipa 0x10000) ∧
    checkAddr st high 0 0x1FFF8#64 8 .read = .ok (.ipa (2 ^ 52 - 8)) ∧ checkAddr st high 0 0x20000#64 8 .read = .error .range := by
  refine ⟨?_, ?_, ?_, ?_⟩ <;> decide +kernel

/-- A misaligned load and store, and an LDC of a local address. -/
theorem witness_AddressTraps :
    let f (v : Word) : Issue := { frame .L v with checked := false }
    (alone 0x10001#64).issue = some (f 0x10001#64) ∧ (f 0x10001#64).checked = false ∧
    ((f 0x10001#64).snap.reg 1#6).pend = [] ∧ ((f 0x10001#64).snap.reg 1#6).mark = none ∧
    ((f 0x10001#64).snap.reg 2#6).pend = [] ∧ ((f 0x10001#64).snap.reg 2#6).mark = none ∧
    checkAddr (alone 0x10001#64) fetchTask 0 0x10001#64 8 .read = .error .align ∧
    checkAddr (alone 0x10001#64) fetchTask 0 0x10001#64 8 .write = .error .align ∧
    ((f 0x100000#64).rd 1#6).toNat % 8 = 0 ∧ aperture fetchTask 0x100000#64 ≠ .shared ∧
    aperture fetchTask 0x20000#64 = .shared ∧ checkAddr (alone 0x20000#64) fetchTask 0 0x20000#64 8 .read = .error .range ∧
    checkAddr (alone 0x10008#64) fetchTask 0 0x10008#64 64 .read = .error .align := by
  refine ⟨rfl, rfl, ?_, ?_, ?_, ?_, ?_, ?_, ?_, ?_, ?_, ?_, ?_⟩ <;> first | rfl | decide

/-- FENCE, CSYNC, QPOINT without invalidations, and VFENCE in context C. -/
theorem witness_FenceWords : Acting (act .C 1#64) (frame .C 1#64) ∧ (frame .C 1#64).ctx = .C ∧
    ∀ k p, taskOf (act .C 1#64) 0 = some k → partOf (act .C 1#64) k.part = some p → p.invals = [] := by
  refine ⟨acting _ _, rfl, ?_⟩
  intro k p hk hp
  cases hk; cases hp; rfl

/-- QPOINT with one invalidation that core 0 has not acknowledged: while core 1 has not either, and alone. -/
def pending1 (acks : List Nat) : Inval :=
  { id := 1, rset := none, asid := 1, gen := 0, lo := 0x10000, hi := 0x20000, since := 0, acks := acks, watch := false }
theorem witness_FenceWords_inval :
    (let p : Partition := { part0 with invals := [pending1 []] }
     let s : State := { act .L 1#64 with parts := [(0, p)], cores := [(0, core0), (1, core0)] }
     Acting s (frame .L 1#64) ∧ taskOf s 0 = some fetchTask ∧ partOf s 0 = some p ∧ 0 ∉ (pending1 []).acks ∧
     1 ∈ partCores p ∧ 1 ∉ (pending1 []).acks ∧ coreRuns s 1 = true) ∧
    (let p : Partition := { part0 with invals := [pending1 [1]] }
     let s : State := { act .L 1#64 with parts := [(0, p)] }
     partOf s 0 = some p ∧ 0 ∉ (pending1 [1]).acks ∧
     ∀ n ∈ partCores p, coreSaved s n = false ∧ (n = 0 ∨ n ∈ (pending1 [1]).acks ∨ taskOf s n = none)) := by
  refine ⟨⟨⟨rfl, rfl⟩, rfl, rfl, ?_, ?_, ?_, ?_⟩, rfl, ?_, ?_⟩ <;> decide +kernel

/-- The two cases of a loop's count. -/
theorem witness_Loops : Acting (act .L 0#64) (frame .L 0#64) ∧ (frame .L 0#64).pc.toNat % 16 = 0 ∧
    (frame .L 0#64).pc.toNat + 16 < 2 ^ 48 ∧ ((frame .L 0#64).rd 1#6).toNat % 2 ^ 32 = 0 ∧
    Acting (act .L 4#64) (frame .L 4#64) ∧ ((frame .L 4#64).rd 1#6).toNat % 2 ^ 32 ≠ 0 ∧
    (7#6 : BitVec 6).toNat < 8 ∧ (511#10 : BitVec 10).toNat < 512 := by
  refine ⟨acting _ _, ?_, ?_, ?_, acting _ _, ?_, ?_, ?_⟩ <;> first | rfl | decide

/-- A loop word whose loop is active, and one whose body lies beyond the last packet. -/
theorem witness_Loops_traps : lcAct { (frame .L 4#64).snap with lc0 := 0x8000000000000000#64 }.lc0 = true ∧
    lcAct { (frame .L 4#64).snap with lc1 := 0x8000000000000000#64 }.lc1 = true ∧
    (let f : Issue := { frame .L 4#64 with checked := false, pc := 0xFFFFFFFFFFF0#64 }
     f.pc.toNat % 16 = 0 ∧ (f.snap.reg 1#6).pend = [] ∧ (f.snap.reg 1#6).mark = none ∧ (f.rd 1#6).toNat % 2 ^ 32 ≠ 0 ∧
     2 ^ 48 ≤ (f.pc + 16#64).toNat ∧ lcAct f.snap.lc0 = false ∧ lcAct f.snap.lc1 = false) := by
  refine ⟨?_, ?_, ?_, ?_, ?_, ?_, ?_, ?_, ?_⟩ <;> decide

/-- The inner loop's last packet, at a step boundary that goes round and at one that ends it, where it is the outer loop's last too; and
a branch out of its body. -/
theorem witness_BlockShiftAndLoopEnds :
    let lc : Word := lcWord true 2 0x10000
    let c (n : Nat) : Ctx := { Ctx.reset with lc0 := lc, lc1 := lc, sk0 := BitVec.ofNat 64 n, li1 := 0x200000000#64 }
    lc.getLsbD 63 = true ∧ (0x10010#64 : Word).toNat = lcEnd lc ∧ ((c 2).li0 + 1#64).toNat + 2 ≤ 2 + 0 + 1 ∧
    ¬((c 1).li0 + 1#64).toNat + 2 ≤ 1 ∧ lcHolds lc 0x10010 = true ∧ lcHolds lc 0x10020 = false := by
  refine ⟨?_, ?_, ?_, ?_, ?_, ?_⟩ <;> decide

/-- A context with a handler. -/
theorem witness_TrapEntry : (ctxOf st 0 .L).tvb ≠ 0#64 ∧ (ctxOf st 0 .L).tcause.getLsbD 63 = false := by decide

/-- A context without one, and one inside its handler. -/
def stHandler : State := setCtx st 0 .L { ctxOf st 0 .L with tcause := 0x8000000000000007#64, handling := [0] }

theorem witness_FaultReturned : taskOf st 0 = some fetchTask ∧ (ctxOf st 0 .C).tvb = 0#64 ∧
    taskOf stHandler 0 = some fetchTask ∧ (ctxOf stHandler 0 .L).tcause.getLsbD 63 = true := by
  refine ⟨rfl, ?_, rfl, ?_⟩ <;> rfl

/-- A copy command with what a test asks of it. -/
def cmd (w : Instr) (e : Cls) (ph : Phase) : Cmd :=
  { sentCmd with instr := w, cls := e, phase := ph }

/-- ERET of a handler whose report named a held command. -/
def stHeld : State :=
  { setCtx st 0 .L { ctxOf st 0 .L with tcause := 0x8000000000000007#64, handling := [7] } with
    cmds := [cmd (.cpyIn 0#6 0#6 0#16) .copy .held] }

theorem witness_LastEffects : (ctxOf stHandler 0 .L).handling.headD 0 = 0 ∧ (ctxOf stHeld 0 .L).handling = [7] ∧
    cmdOf stHeld 7 = some (cmd (.cpyIn 0#6 0#6 0#16) .copy .held) ∧ (7 : Nat) ≠ 0 ∧
    (ctxOf st 0 .L).tvb ≠ 0#64 ∧ (ctxOf st 0 .L).tcause.getLsbD 63 = false := by
  refine ⟨?_, ?_, rfl, ?_, ?_, ?_⟩ <;> first | rfl | decide

/-- ERET to a held scheduler word; PRACK of a gang whose flag is set, with a load on its way and with nothing. -/
theorem witness_LastEffects_rest :
    (let s : State := { stHeld with cmds := [cmd (.gstat .part 3#6 1#5) .sched .held] }
     cmdOf s 7 = some (cmd (.gstat .part 3#6 1#5) .sched .held) ∧ (cmd (.gstat .part 3#6 1#5) .sched .held).cls = .sched) ∧
    (let g : Gang := { fetchGang with flag := some 1000 }
     let s : State := { st with gangs := [(0, g)] }
     taskOf s 0 = some fetchTask ∧ gangOf s 0 = some g ∧ g.flag ≠ none ∧ g.notices = [] ∧ g.watch = [] ∧ g.saved = false ∧
     (access .load).core ∈ g.cores ∧ (access .load).kind.writes = false ∧ s.acc = [] ∧ s.cmds = [] ∧ partOf s 0 = some part0 ∧
     part0.saveAt = none ∧ part0.invals = []) ∧ fetchGang.flag = none := by
  refine ⟨⟨rfl, rfl⟩, ⟨rfl, rfl, ?_, rfl, rfl, rfl, ?_, rfl, rfl, rfl, rfl, rfl, rfl⟩, rfl⟩ <;> decide

/-- PTSET under an unprivileged task. -/
def stUser : State := { setCore (alone 1#64) 0 { core0 with task := some { fetchTask with priv := false } } with free := 0 }

theorem witness_PrivilegeTrap : stUser.issue = some { frame .L 1#64 with checked := false } ∧
    (frameTask stUser { frame .L 1#64 with checked := false }).priv = false := ⟨rfl, by rfl⟩

/-! Engines, accesses, fences, pages: the hypotheses of each clause. -/

/-- Core 0 holds in context L, and contexts L and S wait for a queue of the copy engine. -/
def stWait : State :=
  setCore st 0 { (setCtx st 0 .L { ctxOf st 0 .L with hold := 3 } |> fun s => coreOf s 0) with waiting := [(Cls.copy.code, [0, 2])] }

/-- st with one command. -/
def stCmd (c : Cmd) : State := { st with cmds := [c] }

/-- A copy command that stands in its queue; one whose edge waits for it. -/
def copyQueued : Cmd := cmd (.cpyIn 0#6 0#6 0#16) .copy .queued
def copyLater : Cmd := { cmd (.cpyIn 0#6 0#6 0#16) .copy .admitted with id := 8, disp := 8, edges := [7] }
def copyAlone : Cmd := cmd (.cpyIn 0#6 0#6 0#16) .copy .admitted

theorem witness_QueuesAndTracker :
    ((ctxOf stWait 0 .L).hold ≠ 0 ∧ coreSaved stWait 0 = false) ∧
    (kget (coreOf stWait 0).grants Cls.copy.code = none ∧ kget (coreOf stWait 0).waiting Cls.copy.code = some [0, 2] ∧
      CtxId.L ≠ .S ∧ CtxId.L.num ∈ [0, 2] ∧ CtxId.S.num ∈ [0, 2] ∧ queueLength stWait 0 .copy < 32) ∧
    (cmdOf (stCmd copyQueued) 7 = some copyQueued ∧ copyQueued.cls.tracked = true ∧ copyQueued.phase = .queued ∧
      (∀ d ∈ (stCmd copyQueued).cmds, d.core = 0 → d.cls.tracked = true → d.phase = .queued → d = copyQueued ∨ 7 < d.disp) ∧
      (tracked (stCmd copyQueued) 0).length < 32 ∧ ∀ g, gangOf (stCmd copyQueued) 0 = some g → g.saved = false) ∧
    (cmdOf (stCmd copyAlone) 7 = some copyAlone ∧ copyAlone.phase = .admitted ∧ waitsDone (stCmd copyAlone) copyAlone = true ∧
      gangRuns (stCmd copyAlone) copyAlone = true ∧ engineFree (stCmd copyAlone) copyAlone = true ∧
      ∀ n ∈ copyAlone.edges, cmdOf (stCmd copyAlone) n = none) ∧
    (cmdOf { st with cmds := [copyQueued, copyLater] } 8 = some copyLater ∧ copyLater.phase = .admitted ∧
      ∃ n ∈ copyLater.edges, cmdOf { st with cmds := [copyQueued, copyLater] } n ≠ none) := by
  refine ⟨⟨by decide, rfl⟩, ⟨rfl, rfl, by decide, by decide, by decide, by decide⟩,
    ⟨rfl, rfl, rfl, ?_, by decide, ?_⟩, ⟨rfl, rfl, rfl, rfl, rfl, ?_⟩, ⟨rfl, rfl, 7, by decide, by decide⟩⟩
  · intro d hd _ _ _
    cases hd with
    | head => exact .inl rfl
    | tail _ h => cases h
  · intro g hg; cases hg; rfl
  · intro n hn; cases hn

/-- MSTAT and CPY.STAT as their commands run, and a copy that has finished. -/
def mstatRuns : Cmd := { cmd (.mstat 0#6 0#6 0#16) .matrix .running with img := BitVec.ofNat 512 (7 * 2 ^ 58) }
def cstatRuns : Cmd := { cmd (.cpyStat 0#6 0#6 0#16) .copy .running with img := BitVec.ofNat 512 (11 * 2 ^ 58) }
def copyDone : Cmd := { cmd (.cpyIn 0#6 0#6 0#16) .copy .finished with img := BitVec.ofNat 512 (2 ^ 58), value := 256 }

theorem witness_EngineCompletion :
    (cmdOf (stCmd mstatRuns) 7 = some mstatRuns ∧ mayRun (stCmd mstatRuns) mstatRuns = true ∧ mstatRuns.cls = .matrix ∧
      mxOp mstatRuns.img = 7) ∧
    (cmdOf (stCmd cstatRuns) 7 = some cstatRuns ∧ mayRun (stCmd cstatRuns) cstatRuns = true ∧ cstatRuns.cls = .copy ∧
      cpOp cstatRuns.img = 11 ∧ (stCmd cstatRuns).acc = []) ∧
    (cmdOf (stCmd copyDone) 7 = some copyDone ∧ copyDone.phase = .finished ∧
      (∀ g, gangOf (stCmd copyDone) 0 = some g → g.saved = false) ∧ waitsDone (stCmd copyDone) copyDone = true ∧
      (stCmd copyDone).acc ++ (stCmd copyDone).backInv = []) := by
  refine ⟨⟨rfl, rfl, rfl, by decide⟩, ⟨rfl, rfl, rfl, by decide, rfl⟩, rfl, rfl, ?_, rfl, rfl⟩
  intro g hg; cases hg; rfl

/-- Partition 0 with a sync space of 64 KiB on die 0. -/
def partSync : Partition := { part0 with syncSize := [65536, 0, 0, 0] }

/-- AADD at variable 8 of die 0. -/
def stAtomic : State := { st with cmds := [sentCmd], parts := [(0, partSync)] }

theorem witness_AtomicReplies : cmdOf stAtomic 7 = some sentCmd ∧ sentCmd.cls = .atomic ∧ partOf stAtomic 0 = some partSync ∧
    retryDue stAtomic sentCmd = true ∧ sentCmd.phase = .queued ∧ atomicBefore stAtomic sentCmd = false ∧
    gangRuns stAtomic sentCmd = true ∧ edgesDone stAtomic sentCmd = true ∧ waitsDone stAtomic sentCmd = true ∧
    atomicError partSync sentCmd 8 = none ∧ partSync.waiters = [] := by
  refine ⟨rfl, rfl, rfl, ?_, rfl, ?_, ?_, ?_, ?_, ?_, rfl⟩ <;> rfl

/-- st with one access. -/
def stAcc (a : Access) : State := { st with acc := [a], nextId := 6 }

/-- st whose line at the frame of the shared page is marked poisoned, with one access. -/
def stPoison (a : Access) : State := { stAcc a with poison := [0x800] }

/-- An LDC whose line is in the constant cache, and a template image. -/
def stLdc : State := setCore (stAcc (access .ldc)) 0 { core0 with consts := [(0x100, List.replicate 256 0x7#8)] }
def image : Access := { access .tpl with ea := 0x10040#64, dest := .ipa 0x10040, size := 64, store := 64 * 2 + 63 }

/-- A load of the core's own scratchpad that asks for bank 1. -/
def bankLoad : Access := { access .load with ea := 0x100020#64, dest := .sp 0 0x20 }

theorem witness_ReadsPerform :
    (accOf (stAcc (access .load)) 5 = some (access .load) ∧ (access .load).ctx = some .L ∧ (access .load).denied = false ∧
      (access .load).parked (stAcc (access .load)) = false ∧ nearHeld (stAcc (access .load)) (access .load) = false ∧
      Settled (stAcc (access .load)) 0 ∧ judge (stAcc (access .load)) 0 1 0 (.ipa 0x10008) 8 false = .ok (.pa 0x10008) (leafWord 0x10000) ∧
      bankReady (stAcc (access .load)) (access .load) = true) ∧
    (judge (stPoison (access .load)) 0 1 0 (.ipa 0x10008) 8 false = .err 8 (.pa 0x10008) (leafWord 0x10000) ∧ leafPpol (leafWord 0x10000) = 0) ∧
    ({ access .load with denied := true }.denied = true) ∧
    ((access .ldc).parked stLdc = false ∧ nearHeld stLdc (access .ldc) = false ∧
      kget (coreOf stLdc 0).consts (0x10008 / 256) = some (List.replicate 256 0x7#8)) ∧
    (accOf (stAcc image) 5 = some image ∧ image.parked (stAcc image) = false ∧ nearHeld (stAcc image) image = false ∧
      judge (stAcc image) 0 1 0 (.ipa 0x10040) 64 false = .ok (.pa 0x10040) (leafWord 0x10000) ∧ bankReady (stAcc image) image = true ∧
      image.store = 64 * 2 + 63) ∧
    (accOf (stAcc bankLoad) 5 = some bankLoad ∧ wantsBank (stAcc bankLoad) 0 1 bankLoad = true) := by
  refine ⟨⟨rfl, rfl, rfl, rfl, rfl, ?_, by decide +kernel, rfl⟩, ⟨by decide +kernel, by decide +kernel⟩, rfl, ⟨rfl, rfl, rfl⟩,
    ⟨rfl, rfl, rfl, by decide +kernel, rfl, rfl⟩, rfl, rfl⟩
  intro x hx _ hw
  cases hx with
  | head => cases hw
  | tail _ h => cases h

theorem witness_WritesPerform :
    (accOf (stAcc (access .store)) 5 = some (access .store) ∧ (access .store).kind.writes = true ∧
      (access .store).parked (stAcc (access .store)) = false ∧ nearHeld (stAcc (access .store)) (access .store) = false ∧
      judge (stAcc (access .store)) 0 1 0 (.ipa 0x10008) 8 true = .ok (.pa 0x10008) (leafWord 0x10000) ∧
      (access .store).nearAt = 0 ∧ farHeld (stAcc { access .store with nearAt := 1 }) { access .store with nearAt := 1 } = false ∧
      bankReady (stAcc (access .store)) (access .store) = true) ∧
    judge (stPoison (access .store)) 0 1 0 (.ipa 0x10008) 8 true = .err 8 (.pa 0x10008) (leafWord 0x10000) :=
  ⟨⟨rfl, rfl, rfl, rfl, by decide +kernel, rfl, rfl, rfl⟩, by decide +kernel⟩

/-- An accumulation of one element at the start of the core's own scratchpad. -/
def accum : Access := { access .acc with ea := 0x100000#64, dest := .sp 0 0, size := 4, data := natBytes 0x3F800000 4, granted := true }
theorem witness_WritesPerform_acc : accOf (stAcc accum) 5 = some accum ∧ accum.kind.writes = true ∧ accum.denied = false ∧
    accum.parked (stAcc accum) = false ∧ writeParked (stAcc accum) accum = false ∧ nearHeld (stAcc accum) accum = false ∧
    judge (stAcc accum) 0 1 0 (.sp 0 0) 4 true = .ok (.sp 0 0) 0#64 ∧ accum.nearAt = 0 ∧ farHeld (stAcc accum) accum = false ∧
    bankReady (stAcc accum) accum = true ∧ accum.data.length = accum.size ∧ accum.size % 4 = 0 ∧
    writeParked (stAcc (access .store)) (access .store) = false :=
  ⟨rfl, rfl, rfl, rfl, rfl, rfl, by decide +kernel, rfl, rfl, rfl, rfl, rfl, rfl⟩

/-- A FENCE that waits for a load, with a dropped store that it covers, and a report. -/
def fenceRec : FenceRec := { id := 9, at_ := 4, mask := 1#16, scope := .part, waits := [5] }
def engineReport : Report := { engine := true, order := 3, ecls := 10, tslot := 1, creg := 2, upc := 4, code := 0x905, tval := 0#64, cmd := 7 }
def stFence : State :=
  setCtx st 0 .L { ctxOf st 0 .L with fences := [fenceRec], drops := [⟨0, 0, 0x10008#64⟩], reports := [engineReport] }

theorem witness_FencesAndReports :
    (ctxOf stFence 0 .L).fences.find? (fun g => g.id == 9) = some fenceRec ∧
    (∀ w ∈ fenceRec.waits, performedAt stFence .part w = true) ∧ CtxId.L ≠ .C ∧
    (∃ w ∈ fenceRec.waits, performedAt { stFence with acc := [access .load] } .part w = false) ∧
    (ctxOf stFence 0 .L).reports = [engineReport] ∧ (ctxOf stFence 0 .L).tcause.getLsbD 63 = false ∧
    (ctxOf stFence 0 .L).ended = false ∧ (ctxOf stFence 0 .L).stopped = false ∧ (ctxOf stFence 0 .L).tvb ≠ 0#64 ∧
    engineReport.code < 2 ^ 16 ∧ engineReport.ecls < 2 ^ 4 ∧ engineReport.upc < 2 ^ 24 := by
  refine ⟨rfl, ?_, by decide, ⟨5, by decide, by rfl⟩, rfl, ?_, rfl, rfl, ?_, ?_, ?_, ?_⟩ <;> decide

/-- The dropped store that this FENCE is the first to cover; and a refused store that holds it. -/
theorem witness_FencesAndReports_told : (⟨0, 0, 0x10008#64⟩ : Drop) ∈ (ctxOf stFence 0 .L).drops ∧ 0 < fenceRec.at_ ∧
    fenceRec.mask.getLsbD 0 = true ∧ (∀ g ∈ (ctxOf stFence 0 .L).fences, ¬g.at_ < fenceRec.at_) ∧
    (let a := { access .store with refused := true }
     a.core = 0 ∧ a.ctx = some .L ∧ a.refused = true ∧ 4 * a.seq + a.slot < fenceRec.at_ ∧ a.cls < 16 ∧
     fenceRec.mask.getLsbD a.cls = true) := by
  refine ⟨?_, ?_, ?_, ?_, rfl, rfl, rfl, ?_, ?_, ?_⟩ <;> decide

/-- A load of a page that no table maps; a load that the home has refused; an invalidation that core 0 has not acknowledged. -/
def missing : Access := { access .load with ea := 0x20008#64, dest := .ipa 0x20008 }
def inval : Inval := { id := 1, rset := none, asid := 1, gen := 0, lo := 0x10000, hi := 0x20000, since := 0, acks := [1, 2, 3, 4, 5, 6, 7], watch := false }
def partInval : Partition := { part0 with invals := [inval], watchdog := 10, mcRing := some ⟨0x8000, 16⟩, noticeRing := some ⟨0x9000, 1⟩,
                                          pendNotices := [[1#64, 0#64, 0#64, 0#64]], pendRecords := [[1#64, 0#64, 0#64, 0#64]] }
def stInval : State := { stAcc (access .load) with parts := [(0, partInval)] }

theorem witness_PagesAndRings :
    (accOf (stAcc missing) 5 = some missing ∧ findDest (stAcc missing) 0 1 0 (.ipa 0x20008) false = .miss false ∧
      missing.denied = false ∧ missing.parked (stAcc missing) = false ∧ nearHeld (stAcc missing) missing = false ∧
      partOf (stAcc missing) 0 = some part0 ∧ taskOf (stAcc missing) 0 = some fetchTask ∧ gangOf (stAcc missing) 0 = some fetchGang) ∧
    (cmdOf (stAcc missing) 5 = none ∧ (1 : Nat) ≤ 65535 ∧ { missing with retry := some 0 }.retry = some 0 ∧ 0 ≤ st.tsc) ∧
    (st.mem.wf = true ∧ walk st 0 1 0x10000 = .leaf (leafWord 0x10000) false ∧ part0.roots = [(1, 0x1000)] ∧
      leafHome (leafWord 0x10000) ≠ 1 ∧ 0x20000 % 2 ^ 16 = 0 ∧ populated st 0x20000 = true ∧ leafPa (leafWord 0x10000) ≠ 0x20000 ∧
      walk { st with mem := memCopy st.mem 0x10000 0x20000 (2 ^ 16) } 0 1 0x10000 = .leaf (leafWord 0x10000) false ∧
      leafEntry { st with mem := memCopy st.mem 0x10000 0x20000 (2 ^ 16) } 0x10000 0 0x1000 4 = some 0x4008) ∧
    (partOf stInval 0 = some partInval ∧ partInval.invals.find? (fun w => w.id == 1) = some inval ∧ 0 + 1000 * 10 ≤ stInval.tsc ∧
      access .load ∈ stInval.acc ∧ inval.names (access .load) = true ∧ 0 ∈ unackedCores stInval partInval inval ∧
      taskOf stInval 0 = some fetchTask) ∧
    (partInval.noticeRing = some ⟨0x9000, 1⟩ ∧ leNat (memRead stInval.mem 0x9000 8) = 0 ∧ 0 - min 0 0 < 1) ∧
    (leNat (memRead (memWrite [] 0x9000 [1#8]) 0x9000 8) = 1 ∧ 1 ≤ 1 - min 0 1) ∧
    (partInval.mcRing = some ⟨0x8000, 16⟩) := by
  refine ⟨⟨rfl, rfl, rfl, rfl, rfl, rfl, rfl, rfl⟩, ⟨rfl, by decide, rfl, by decide⟩,
    ⟨rfl, rfl, rfl, by decide, by decide, rfl, by decide, rfl, rfl⟩, ⟨rfl, rfl, by decide, ?_, rfl, by decide, rfl⟩,
    ⟨rfl, by decide, by decide⟩, ⟨by decide, by decide⟩, rfl⟩
  exact List.mem_cons_self

/-- A home here refuses another device's access to a page that no table maps. -/
theorem witness_PagesAndRings_other : partOf st 0 = some part0 ∧ findDest st 0 1 (kgetD part0.gens 1 0) (.ipa 0x20000) true = .miss false ∧
    writeParked (stAcc missing) missing = false := ⟨rfl, rfl, rfl⟩

/-- A vector word of core 0 alone in the queue: VADD of u32 lanes, and VMAND. -/
def vecCmd (i : Instr) : Cmd := { cmd i .vector .queued with ctx := .C, vtype := 5#64, vals := [3#64, 4#64] }

theorem witness_VectorResults :
    let c := vecCmd (.vadd false 2#6 0#6 1#6 0#2)
    cmdOf (stCmd c) 7 = some c ∧ c.cls = .vector ∧ (∀ d ∈ (stCmd c).cmds, d = c) ∧ gangRuns (stCmd c) c = true ∧
    vectorHeld (stCmd c) c = false ∧ c.ports = [] ∧ (coreOf (stCmd c) 0).spBad = [] ∧ Settled (stCmd c) 0 ∧
    c.vtype.toNat % 16 = 5 ∧ (vecCmd (.vmand 1#3 2#3 3#3)).instr = .vmand 1#3 2#3 3#3 ∧
    (vecCmd (.vmset 1#3 3#2 2#6)).instr = .vmset 1#3 3#2 2#6 ∧ (vecCmd (.vmpopc 3#6 1#3)).instr = .vmpopc 3#6 1#3 ∧
    (vecCmd (.vwalk 1#6 2#6)).instr = .vwalk 1#6 2#6 := by
  refine ⟨rfl, rfl, ?_, rfl, rfl, rfl, rfl, ?_, ?_, rfl, rfl, rfl, rfl⟩
  · intro d hd
    cases hd with
    | head => rfl
    | tail _ h => cases h
  · intro x hx; cases hx
  · decide

/-! Tasks and gangs. -/

/-- A task record with one core, one index, its range set at 0x10000 and the argument 5 (R78). -/
def rec0 : List Byte :=
  ([0x10000, 0x10000, 0x10000, 5, 0x10000, 0, 1000, 0x100000, 0x800000, 2 ^ 32, 0, 0, 0, 0, 0, 0] : List Nat).flatMap (fun v => natBytes v 8)

/-- The range set's one entry: page 1, read, write and execute (R173). -/
def range0 : List Byte := natBytes 0x10000 8 ++ natBytes 0x20000 8 ++ natBytes 0 8 ++ natBytes (2 ^ 63 + 7) 8

/-- An entry with that record, and its grid. -/
def entry0 : Entry := ⟨0, 0, 0, 0, 0xC2, some rec0, true, 0, 0, false⟩
def partQueue : Partition :=
  { part0 with queues := [(0, [entry0])], grids := [⟨0, entry0, [], 1, [⟨0, 1, 0, none⟩], 0⟩], logCap := some 16, mcRing := some ⟨0x8000, 16⟩ }

/-- A bound graph of one node with its period in progress. -/
def graph0 : GraphSlot := { nodes := [0x10080], edges := [], q := [1], table := [(0, 1)], period := some entry0, placed := [], retired := [], periods := 0 }

/-- No gang runs; the range set stands at 0x10000, and the record at 0x10080. -/
def stQueue (p : Partition) : State :=
  { st with cores := [], gangs := [], parts := [(0, p)], mem := memWrite (memWrite (fetchTables []) 0x10000 range0) 0x10080 rec0 }

/-- The entry that R396 checks by age: valid, kind F, any stage, limit 1 ns. -/
def ageWord : Word := 0x9000000000000001#64

/-- The three contexts of core 0 have ended. -/
def stEnded : State :=
  setCore st 0 { core0 with ctxL := { core0.ctxL with ended := true }, ctxC := { core0.ctxC with ended := true }, ctxS := { core0.ctxS with ended := true } }

theorem witness_TasksPlaced_retire :
    taskOf stEnded 0 = some fetchTask ∧ partOf stEnded 0 = some part0 ∧ gangOf stEnded 0 = some fetchGang ∧ 0 ∈ fetchGang.cores ∧
    (coreOf stEnded 0).ctxL.ended = true ∧ (coreOf stEnded 0).ctxC.ended = true ∧ (coreOf stEnded 0).ctxS.ended = true ∧
    stEnded.cmds = [] ∧ stEnded.acc = [] ∧ fetchTask.kind = 0 ∧ fetchTask.fenced = false ∧ part0.invals = [] ∧ fetchGang.kind = 0 ∧
    fetchGang.firing = none ∧ fetchGang.securing = false ∧ gridOf part0 fetchGang.grid = none ∧
    taskOf st 0 = some fetchTask ∧ (coreOf st 0).ctxL.ended = false := by
  refine ⟨rfl, rfl, rfl, ?_, rfl, rfl, rfl, rfl, rfl, rfl, rfl, rfl, rfl, rfl, rfl, rfl, rfl, rfl⟩; decide

theorem witness_TasksPlaced_scan :
    partOf (stQueue partQueue) 0 = some partQueue ∧ ([0] : List Nat).Nodup ∧ kgetD partQueue.ctl 0 0#64 = 0#64 ∧ partQueue.graphs = [] ∧
    partQueue.boundary = false ∧ gridOf partQueue 0 = some ⟨0, entry0, [], 1, [⟨0, 1, 0, none⟩], 0⟩ ∧
    checkRecord (stQueue partQueue) 0 partQueue rec0 = .ok [⟨true, 1, 2, 0, 0, true, true, true⟩] ∧ aperturesMeet rec0 = false ∧
    fitCores (stQueue partQueue) partQueue (recCores rec0) = some [0] ∧ partQueue.policy = [] ∧
    ageWord.getLsbD 63 = true ∧ ageWord.toNat / 2 ^ 61 % 4 = entry0.kind ∧ ageWord.getLsbD 60 = true ∧
    ageWord.toNat % 2 ^ 32 ≠ 0 ∧ ageWord.toNat % 2 ^ 32 ≤ (stQueue partQueue).tsc - entry0.at_ := by
  refine ⟨rfl, ?_, ?_, rfl, rfl, rfl, ?_, ?_, ?_, rfl, ?_, ?_, ?_, ?_, ?_⟩ <;> decide +kernel

theorem witness_TasksPlaced_firing :
    let p : Partition := { part0 with graphs := [(3, graph0)] }
    partOf (stQueue p) 0 = some p ∧ kget p.graphs 3 = some graph0 ∧ graph0.period = some entry0 ∧
    (upFrom 0 (firingsOf graph0.table).length).filter (firingFree graph0 (firingsOf graph0.table)) = [0] ∧
    nth (firingsOf graph0.table) 0 = 0 ∧
    (match tagRecord (stQueue p) 0 p 0x10080 0 0 0 0 0 with
     | .ok r => decide (checkRecord (stQueue p) 0 p r = .ok [⟨true, 1, 2, 0, 0, true, true, true⟩]) && !aperturesMeet r &&
         decide (fitCores (stQueue p) p (recCores r) = some [0])
     | .error _ => false) = true := by
  refine ⟨rfl, rfl, rfl, ?_, ?_, ?_⟩ <;> decide +kernel

theorem witness_TasksPlaced_admission :
    let p := partQueue
    let e := { entry0 with at_ := 50000 }
    sameR p e = false ∧ (queueOf p e.sid e.kind).length < 256 ∧ logRoom p = true ∧
    (let c := { cmd (.post .rlx .part 3#6 1#6) .sched .waiting with elem := rec0 }
     let s : State := { stQueue p with cmds := [c] }
     cmdOf s 7 = some c ∧ c.phase = .waiting ∧ c.cls = .sched) ∧
    (let s : State := { stQueue p with mail := [(0, { command := goBit, status := 0#64, payload := [], waiting := some (0, entry0), bell := 1 })] }
     (mailOf s 0).waiting = some (0, entry0) ∧ partOf s 0 = some p) := by
  refine ⟨?_, ?_, ?_, ⟨rfl, rfl, rfl⟩, rfl, rfl⟩ <;> decide +kernel

/-- A gang whose budget is spent; one with a remainder of its grid; one whose flag is due; one that is saved. -/
def spent : Gang := { fetchGang with budget := 0 }
def partRest : Partition := { part0 with grids := [⟨1, entry0, rec0, 2, [⟨1, 2, 0, some 0⟩], 0⟩] }
def flagged : Gang := { fetchGang with flag := some 1000 }
def saved : Gang := { fetchGang with saved := true }
def stGang (g : Gang) (p : Partition) : State := { st with gangs := [(0, g)], parts := [(0, p)] }

theorem witness_Preemption_budget : gangOf (stGang spent part0) 0 = some spent ∧ partOf (stGang spent part0) 0 = some part0 ∧
    spent.saved = false ∧ spent.budget = 0 ∧ fetchGang.budget ≠ 0 ∧ partInval.mcRing.isSome = true ∧
    kgetD part0.ctl 0 0#64 = 0#64 := by
  refine ⟨rfl, rfl, rfl, rfl, ?_, rfl, rfl⟩; decide

theorem witness_Preemption_preload : gangOf (stGang fetchGang partRest) 0 = some fetchGang ∧
    gridOf partRest fetchGang.grid = some ⟨1, entry0, rec0, 2, [⟨1, 2, 0, some 0⟩], 0⟩ ∧ fetchGang.saved = false :=
  ⟨rfl, rfl, rfl⟩

/-- A head that waits for eight cores while core 0 is held. -/
def rec8 : List Byte := setDw rec0 0x28 (7 * 2 ^ 41)
def entry8 : Entry := { entry0 with record := some rec8 }
def partAge : Partition := { part0 with queues := [(0, [entry8])], policy := [(0, ageWord)] }

theorem witness_Preemption_age : kwf (stGang fetchGang partAge).gangs = true ∧ partAge.queues = [(0, [entry8])] ∧
    kgetD partAge.policy 0 0#64 = ageWord ∧ 2 * (ageWord.toNat % 2 ^ 32) ≤ (stGang fetchGang partAge).tsc - entry8.at_ ∧
    fitCores (stGang fetchGang partAge) partAge (recCores rec8) = none ∧ partAge.clusters = [] ++ 0 :: [] ∧
    clusterOf (fetchGang.cores.headD 0) = 0 ∧ fetchGang.saved = false ∧ fetchGang.flag = none ∧
    recCores rec8 ≤ (freeCores (stGang fetchGang partAge) 0).length + fetchGang.cores.length := by
  refine ⟨rfl, rfl, rfl, ?_, ?_, rfl, rfl, rfl, rfl, ?_⟩ <;> decide +kernel

/-- The flag is due: with a load on its way, and with nothing. The save area is at 0x40000. -/
theorem witness_Preemption_timeout : gangOf (stGang flagged part0) 0 = some flagged ∧ flagged.flag = some 1000 ∧
    flagged.stopping = false ∧ flagged.saved = false ∧ 1000 + 20000 ≤ (stGang flagged part0).tsc ∧ flagged.notices = [] ∧
    flagged.watch = [] ∧ (stGang flagged part0).acc = [] ∧ (stGang flagged part0).cmds = [] ∧ part0.invals = [] ∧
    part0.saveAt = none ∧ { part0 with saveAt := some 0x40000 }.saveAt = some 0x40000 ∧ flagged.cores = [0] ∧ 0 ∈ partCores part0 ∧
    (coreOf (stGang flagged part0) 0).sp = [] ∧ (access .load).kind.writes = false ∧
    { fetchGang with flag := some 40000 }.flag = some 40000 ∧ (stGang flagged part0).tsc < 40000 + 20000 := by
  refine ⟨rfl, rfl, rfl, rfl, ?_, rfl, rfl, rfl, rfl, rfl, rfl, rfl, rfl, ?_, rfl, rfl, rfl, ?_⟩ <;> decide

/-- A saved gang; and one whose ASID has been retired, with its record and its range set. -/
theorem witness_Preemption_resume : gangOf (stGang saved part0) 0 = some saved ∧ partOf (stGang saved part0) 0 = some part0 ∧
    saved.saved = true ∧ saved.retired = false ∧
    (let g : Gang := { saved with retired := true, record := rec0 }
     let s : State := { stQueue partQueue with gangs := [(0, g)] }
     gangOf s 0 = some g ∧ partOf s 0 = some partQueue ∧ g.cores.Nodup ∧
     checkRecord s 0 partQueue g.record = .ok [⟨true, 1, 2, 0, 0, true, true, true⟩]) := by
  refine ⟨rfl, rfl, rfl, rfl, rfl, rfl, ?_, ?_⟩ <;> decide +kernel

/-! Links and messages. -/

/-- Ports 0 to 3 run at 32 lanes, and port 4 is down; port 0 has failed eight replays. -/
def stLinks : State :=
  { st with units := { Units.reset with links := 0xFCFF#16 }, crc := [(0, 8)], dims := (4, 1, 1), node := 0
            parts := [(0, { part0 with dpart := some 9 })] }

/-- A record that this device sends to its neighbour over port 0, and its command. -/
def recOut : ChanRecord := ⟨9, 0, 3, 1, 4, 64, 32, 0, 0, List.replicate 32 0x5#8, 7, 0, 1⟩
def stLost : State :=
  { stLinks with net := ⟨[recOut], [], [], [], [], [], []⟩, cmds := [{ cmd (.xchSend 0#6 0#6 0#16) .prism .running with upc := 3 }] }

theorem witness_Links : portState stLinks 0 ≠ 0 ∧ 8 ≤ kgetD stLinks.crc 0 0 ∧ portState stLinks 1 ≠ 0 ∧ kgetD stLinks.crc 1 0 < 8 ∧
    portState stLinks 4 = 0 ∧ stLinks.net = ⟨[], [], [], [], [], [], []⟩ ∧ portState stLost 0 ≠ 0 ∧ 8 ≤ kgetD stLost.crc 0 0 ∧
    recOut.src = stLost.node ∧ recOut.dst ≠ stLost.node ∧ portTo stLost recOut.dst = 0 ∧ (cmdOf stLost 7).isSome = true ∧
    (ctxOf stLost 0 .L).ended = false := by
  refine ⟨?_, ?_, ?_, ?_, ?_, rfl, ?_, ?_, rfl, ?_, ?_, ?_, ?_⟩ <;> decide +kernel

/-- A receive channel of core 0, from channel 3 of node 1 or of this node, with and without an arrival queue. -/
def recv (node : Nat) (bq : Bool) : RecvCh := ⟨0, 0, node, 3, 0x1000, 256, 32, 256, bq, 0, 64, 0, none⟩
def recIn (node : Nat) : ChanRecord := ⟨9, node, 3, 0, 4, 64, 32, 0, 0, List.replicate 32 0x5#8, 0, 0, 1⟩
def partArrive : Partition := { part0 with dpart := some 9, logCap := some 16 }
def stRecv (node : Nat) (bq : Bool) (l : List ChanRecord) : State :=
  { stLinks with recvs := [(4, recv node bq)], parts := [(0, partArrive)], net := ⟨l, [], [], [], [], [], []⟩ }

theorem witness_Messages_record :
    (let s := stRecv 1 false []
     (recIn 1).dst = s.node ∧ (recIn 1).src ≠ s.node ∧
     s.net.records.find? (fun x => x.schan == 3 && x.dst == 0) ≠ some (recIn 1) ∧ portState s (portFrom s 1) ≠ 0 ∧
     kget s.recvs 4 = some (recv 1 false) ∧ identNo s 0 = 9 ∧ (recv 1 false).rsz = 32 ∧ (recIn 1).data.length = 32 ∧
     (recIn 1).off = (recv 1 false).dlv ∧ coreSaved s 0 = false) ∧
    (let s := stRecv 0 true [recIn 0]
     (recIn 0).src = s.node ∧ s.net.records.find? (fun x => x.schan == 3 && x.dst == 0) = some (recIn 0) ∧
     pathHeld s (recIn 0).prism 0 (recIn 0).sent = false ∧ kget s.recvs 4 = some (recv 0 true) ∧ partOf s 0 = some partArrive ∧
     sameR partArrive ⟨0, 0, 0, 50000, 0xA2, none, false, 0, 0, false⟩ = false ∧ (queueOf partArrive 0 0).length < 256 ∧
     logRoom partArrive = true) := by
  refine ⟨⟨rfl, ?_, ?_, ?_, rfl, rfl, rfl, rfl, rfl, rfl⟩, rfl, ?_, ?_, rfl, rfl, rfl, ?_, rfl⟩ <;> decide +kernel

/-- Window ends, closes, rows and pieces from node 1, for the partition whose identity is 9. -/
theorem witness_Messages_other :
    let s := stRecv 1 false []
    partByIdent s 9 = some 0 ∧ s.net.ends = [] ∧ s.net.closes = [] ∧ s.net.rcloses = [] ∧ s.net.rows = [] ∧ s.net.pieces = [] ∧
    s.net.records = [] ∧ s.node = 0 ∧ 1 ≠ s.node ∧ portState s (portFrom s 1) ≠ 0 ∧ s.heldRows = [] ∧
    rowAwaited s ⟨9, 1, 0, 1, 1, 2, 1, false, [0, 0], 0, 0, 0, 0, 0, 0, 1⟩ = false ∧
    kget s.recvs 4 = some (recv 1 false) ∧ identNo s (recv 1 false).part = 9 := by
  refine ⟨?_, rfl, rfl, rfl, rfl, rfl, rfl, rfl, ?_, ?_, rfl, ?_, rfl, ?_⟩ <;> decide +kernel

/-- A window end, a close of either side, a row and a piece of this node's own, one after the other on their Prism's path. -/
theorem witness_Messages_own :
    let e : WindowEnd := ⟨9, 0, 4, 0, 3, 128, 0, 0, 1⟩
    let c : CloseNotice := ⟨9, 0, 3, 0, 4, 64, 0, 2⟩
    let x : ReceiverClose := ⟨9, 0, 4, 0, 3, 0, 3⟩
    let w : CountRow := ⟨9, 0, 0, 1, 1, 2, 1, false, [0, 0], 0, 0, 0, 0, 0, 0, 4⟩
    let d : Piece := ⟨9, 0, 0, 1, 1, 1, 0, 0x1000, 0x20, List.replicate 32 0x5#8, false, 0, 0, 5⟩
    let s (n : Net) : State := { stRecv 0 true [] with net := n }
    pathHeld (s ⟨[], [e], [c], [], [], [], []⟩) 0 0 1 = false ∧ pathHeld (s ⟨[], [e], [c], [], [], [], []⟩) 0 0 2 = true ∧
    pathHeld (s ⟨[], [], [c], [], [w], [d], []⟩) 0 0 2 = false ∧ pathHeld (s ⟨[], [], [], [x], [w], [d], []⟩) 0 0 3 = false ∧
    pathHeld (s ⟨[], [], [], [], [w], [d], []⟩) 0 0 4 = false ∧ pathHeld (s ⟨[], [], [], [], [], [d], []⟩) 0 0 5 = false ∧
    (s ⟨[], [], [], [], [], [d], []⟩).net.pieces.contains d = true := by
  refine ⟨?_, ?_, ?_, ?_, ?_, ?_, ?_⟩ <;> decide +kernel

/-- A piece for a barrier that still expects arrivals and bytes. -/
theorem witness_Messages_piece :
    let p : Partition := { partArrive with syncSize := [65536, 0, 0, 0], ib := [0x20], sync := [(0x20, 1#64), (0x28, 0x100000040#64)] }
    let s : State := { stRecv 1 false [] with parts := [(0, p)] }
    partByIdent s 9 = some 0 ∧ partOf s 0 = some p ∧ 0x1000 + 32 ≤ 786432 ∧ isBarrier p 0x20 = true ∧ (barrierAt p 0x20).pz = false ∧
    -2 ^ 31 ≤ (barrierAt p 0x20).b - (32 : Nat) ∧ (barrierAt p 0x20).a ≠ 0 ∧ p.syncPz = [] ∧ p.waiters = [] := by
  refine ⟨?_, rfl, ?_, ?_, ?_, ?_, ?_, rfl, rfl⟩ <;> decide +kernel

/-- A ring of three devices, of which this is position 1. -/
theorem witness_Messages_ring :
    let s : State := { stRecv 1 false [] with rg := 3, q := 1 }
    let m : RingMsg := ⟨9, 1, 1, 1, some ⟨0, true, 6, 0⟩, 0, 1, []⟩
    s.rg ≠ 0 ∧ m.dst = s.q ∧ s.net.rings.head? ≠ some m ∧ portState s 6 ≠ 0 ∧ partByIdent s 9 = some 0 := by
  refine ⟨?_, rfl, ?_, ?_, ?_⟩ <;> decide +kernel

/-! The memory side. -/

/-- A partition with a sync space, a named store of one page and mirrors from node 1. -/
def partStore : Partition :=
  { part0 with
    syncSize := [65536, 0, 0, 0], namePages := [0x40000], nameCap := 4, releases := [0x24, 0x30], mirrors := [1], dpart := some 9
    names := [⟨0x24, 0, 1⟩, ⟨0x30, 1, 2⟩, ⟨0x40, 2, 0xFFFFFFFF⟩], czMissing := [0x11], cz := [(0x12, ⟨true, false, 1, 3, 0x120⟩)] }

/-- The page at 0x10000 is a cz page. -/
def czLeaf : Word := leafWord 0x10000 ||| 0x0800000000000000#64
def stStore : State := { st with parts := [(0, partStore)], mem := memWrite (fetchTables []) 0x4008 (wordBytes czLeaf) }

theorem witness_MemoryUnits_sync : partOf stStore 0 = some partStore ∧ 0 < 4 ∧ 1023 < 2 ^ 22 ∧
    inSpace partStore (0 * 2 ^ 30 + 1023 * 64) = true ∧ inSpace partStore (0 * 2 ^ 30 + 1024 * 64) = false ∧
    kgetD stStore.resident 0 [] = [] := by
  refine ⟨rfl, ?_, ?_, ?_, ?_, rfl⟩ <;> decide +kernel

/-- A full residency table whose last block has no waiter. -/
theorem witness_MemoryUnits_full : ∃ (s : State) (l : List (Nat × Nat)) (x : Nat × Nat), kgetD s.resident 0 [] = l ++ [x] ∧
    (l ++ [x]).length = 65536 ∧ (l ++ [x]).Nodup ∧ blockWaits s x = false ∧ (0, 1) ∉ l ++ [x] := by
  refine ⟨{ stStore with resident := [(0, (List.range 65535).map (fun n => (1, n)) ++ [(1, 65535)])] }, _, _, rfl, ?_, ?_, rfl, ?_⟩
  · simp
  · rw [show ((1, 65535) : Nat × Nat) = (fun n => (1, n)) 65535 from rfl, ← List.map_singleton, ← List.map_append,
      ← List.range_succ]
    exact List.Nodup.map (fun a b h => by simpa using h) List.nodup_range
  · simp

theorem witness_MemoryUnits_blocks : walk stStore 0 1 (4096 * 0x10) = .leaf czLeaf false ∧ leafCz czLeaf = true ∧
    kget partStore.cz 0x10 = none ∧ 0x10 ∉ partStore.czMissing ∧ locError stStore (leafLoc czLeaf false (4096 * 0x10)) 4096 = none ∧
    walk stStore 0 1 (4096 * 0x12) = .leaf czLeaf false ∧ kget partStore.cz 0x12 = some ⟨true, false, 1, 3, 0x120⟩ ∧
    0x12 ∉ partStore.czMissing ∧ partStore.updates = [] ∧ walk stStore 0 1 (4096 * 0x11) = .leaf czLeaf false ∧
    0x11 ∈ partStore.czMissing := by
  refine ⟨?_, ?_, ?_, ?_, ?_, ?_, ?_, ?_, rfl, ?_, ?_⟩ <;> decide +kernel

/-- The last reference of an interior line, and one of two references of a leaf. -/
theorem witness_MemoryUnits_names : 0x24 ∈ partStore.releases ∧ nameAt partStore 0x24 = some ⟨0x24, 0, 1⟩ ∧
    0x30 ∈ partStore.releases ∧ nameAt partStore 0x30 = some ⟨0x30, 1, 2⟩ ∧ partByIdent stStore 9 = some 0 ∧
    1 ≠ stStore.node ∧ 1 ∈ partStore.mirrors ∧ kget partStore.mirrorTab 1 = none ∧ nameAt partStore 0x40 = some ⟨0x40, 2, 0xFFFFFFFF⟩ := by
  refine ⟨?_, rfl, ?_, rfl, ?_, ?_, ?_, rfl, rfl⟩ <;> decide +kernel

/-- The name of a line of zeros under an empty salt: bits [127:4] of SHA3-256 of 257 zero bytes, worked out with another
implementation of FIPS 202 (R357). -/
theorem test_name_of_zero_line :
    nameRow partStore false (List.replicate 256 0#8) = some 0xAD780511932AE5AE363D54DE69E00420 := by decide +kernel

/-- That line is not in the store. -/
theorem witness_MemoryUnits_tree : nameAt partStore 0xAD780511932AE5AE363D54DE69E00420 = none ∧
    (partStore.names.filter (fun e => nameSlice stStore e.name ==
      nameSlice stStore 0xAD780511932AE5AE363D54DE69E00420)).length < partStore.nameCap ∧ freeLine partStore = some 3 := by
  refine ⟨?_, ?_, ?_⟩ <;> decide +kernel

/-! The module and the host's accesses. -/

theorem witness_ModuleEvents : st.throttled = false ∧ { st with temps := [100, 100, 100, 100] }.temps.length = 4 ∧ (3 : Nat) < 4 ∧
    { st with throttled := true }.throttled = true ∧ (∀ x ∈ ([759, 0, 0, 759] : List Nat), x < 760) ∧
    (∃ x ∈ ([759, 760, 0, 0] : List Nat), 760 ≤ x) ∧ { st with boot := .linkDown }.boot = .linkDown ∧
    st.tsc < st.riskAt + 1000000 ∧ { st with riskAt := 5 }.riskAt + 1000000 ≤ { st with tsc := 1000005, riskAt := 5 }.tsc := by
  refine ⟨rfl, rfl, ?_, rfl, ?_, ?_, rfl, ?_, ?_⟩ <;> decide

/-- A host window of one page at 2^40 over the shared page. -/
def partWindow : Partition := { part0 with winBase := 0xFFFF0000, winSize := 0x20000, hostAsid := 1, mcRing := some ⟨0x8000, 16⟩ }
def stWindow : State := { st with parts := [(0, partWindow)] }

/-- The window with the leaf of the shared page replaced. -/
def stLeaf (l : Word) : State := { stWindow with mem := memWrite (fetchTables []) 0x4008 (wordBytes l) }

theorem witness_HostMemory : partOf stWindow 0 = some partWindow ∧ partWindow.winBase ≤ 0x100000000 ∧
    0x100000000 + 64 ≤ partWindow.winBase + partWindow.winSize ∧
    hostAns stWindow 0 0x100000000 64 false = .ok 0x10000 (.pa 0x10000) ∧ kget stWindow.hostLines (0 * 2 ^ 46 + 0x10000 / 64) = none ∧
    kget { stWindow with hostLines := [(0x400, List.replicate 64 0#8)] }.hostLines (0 * 2 ^ 46 + 0x10000 / 64) = some (List.replicate 64 0#8) ∧
    ¬partWindow.winBase ≤ 0x10000 ∧
    ([1#8] : List Byte) ≠ [] ∧ 63 % 64 + 1 ≤ 64 ∧ hostAns stWindow 0 0x10000003F 1 true = .ok 0x1003F (.pa 0x1003F) ∧
    writeDropped stWindow (.pa 0x1003F) 1 = false := by
  refine ⟨rfl, ?_, ?_, ?_, ?_, ?_, ?_, ?_, ?_, ?_, ?_⟩ <;> decide +kernel

/-- Reads that meet poison, under a policy of 00 and of 01, an uncorrectable error, a page of home 01, a named line, and a block of a cz
page that is to be expanded. -/
theorem witness_HostMemory_errors :
    hostAns { stWindow with poison := [0x801] } 0 0x100000000 64 false = .error 0x10000 8 (.pa 0x10000) (leafWord 0x10000) ∧
    leafPpol (leafWord 0x10000) ≠ 1 ∧
    (let l := leafWord 0x10000 ||| 0x0200000000000000#64
     hostAns { stLeaf l with poison := [0x801] } 0 0x100000000 64 false = .error 0x10000 8 (.pa 0x10000) l ∧ leafPpol l = 1) ∧
    hostAns { stWindow with bad := [0x801] } 0 0x100000000 64 false = .error 0x10000 9 (.pa 0x10000) (leafWord 0x10000) ∧
    hostAns (stLeaf (leafWord 0x10000 ||| 0x2000000000000000#64)) 0 0x100000000 64 false = .poisoned ∧
    hostAns (stLeaf (leafWord 0x10000 ||| 0x1000000000000000#64)) 0 0x100000000 64 false = .named 0x10000 (.pa 0x10000) ∧
    hostAns { stLeaf (leafWord 0x10000 ||| 0x0800000000000000#64) with
      parts := [(0, { partWindow with cz := [(0x10, ⟨true, false, 1, 3, 0x100⟩)] })] } 0 0x100000000 64 false = .wait := by
  refine ⟨?_, ?_, ⟨?_, ?_⟩, ?_, ?_, ?_, ?_⟩ <;> decide +kernel

/-! The mailboxes. -/

/-- The command doubleword of an op with a payload of a length. -/
def go (op len : Nat) : Word := BitVec.ofNat 64 (2 ^ 63 + op * 2 ^ 32 + len)

/-- A function's mailbox holds a command whose payload is these doublewords. -/
def sent (s : State) (fn op : Nat) (v : List Nat) : State :=
  { s with
    mail := kput s.mail fn { command := go op (8 * v.length), status := 0#64, payload := memWrite [] 0 (v.flatMap (fun n => natBytes n 8)), waiting := none, bell := 1 } }

/-- VF 0 is the control VF of partition 0, and VF 1 a plain one. -/
def stHost (p : Partition) : State := { st with vfs := [(0, ⟨0, true⟩), (1, ⟨0, false⟩)], parts := [(0, p)], gangs := [], cores := [] }

/-- A doorbell and a window write at its last doubleword, the limits of each field, and a command in progress. -/
theorem witness_PartitionCommands_write : (1024 : Nat) ≤ 1024 ∧ st.boot = .ready ∧ (mailOf st 5).command.getLsbD 63 = false ∧
    (go 0x13 4096).getLsbD 63 = true ∧ (go 0x13 4096).toNat / 2 ^ 48 % 2 ^ 15 = 0 ∧ (go 0x13 4096).toNat / 2 ^ 13 % 2 ^ 19 = 0 ∧
    (go 0x13 4096).toNat % 2 ^ 13 ≤ 4096 ∧ 1 ≤ (go 0x13 4096).toNat / 2 ^ 32 % 2 ^ 16 ∧ (go 0x13 4096).toNat / 2 ^ 32 % 2 ^ 16 ≤ 0x13 ∧
    4096 < (go 1 4097).toNat % 2 ^ 13 ∧ 0x13 < (go 0x14 0).toNat / 2 ^ 32 % 2 ^ 16 ∧ (go 0 0).toNat / 2 ^ 32 % 2 ^ 16 = 0 ∧ 511 < 512 ∧
    (mailOf (sent st 5 1 []) 5).command.getLsbD 63 = true := by
  refine ⟨?_, rfl, ?_, ?_, ?_, ?_, ?_, ?_, ?_, ?_, ?_, ?_, ?_, ?_⟩ <;> decide +kernel

/-- Other registers, at the edges of the payload window and the last doubleword before it. -/
theorem witness_PartitionCommands_masks : (1024 : Nat) ≤ 1024 ∧ st.boot = .ready ∧
    ∀ off, off = 8 ∨ off = 0x10 ∨ off = 0xFF8 ∨ off = 0x2000 → off % 8 = 0 ∧ off ≠ 0 ∧ (off < 0x1000 ∨ 0x2000 ≤ off) := by
  refine ⟨by decide, rfl, ?_⟩
  omega

/-- A mailbox whose command is to run, in its turn. -/
theorem sentOf {s : State} {fn op : Nat} (h : ((mailOf s fn).command.getLsbD 63 && mailOp (mailOf s fn).command == op &&
    (mailOf s fn).waiting.isNone && !mailBefore s fn) = true) : Sent s fn op := by
  simp only [Bool.and_eq_true, beq_iff_eq, Option.isNone_iff_eq_none, Bool.not_eq_true'] at h
  exact ⟨⟨h.1.1.1, h.1.1.2, h.1.2⟩, h.2⟩

theorem sent_holds : Sent (sent (stHost part0) 0 2 [31, 0x300]) 0 2 := sentOf (by decide +kernel)

/-- Two commands for partition 0 from its two VFs: that of VF 1 came first. -/
theorem witness_PartitionCommands_turn :
    let m (n : Nat) : Mailbox := { command := go 7 0, status := 0#64, payload := [], waiting := none, bell := n }
    let s : State := { stHost part0 with mail := [(1, m 2), (2, m 1)] }
    Holds s 1 7 ∧ Holds s 2 7 ∧ bindingOf s 1 = some ⟨0, true⟩ ∧ bindingOf s 2 = some ⟨0, false⟩ ∧
    (mailOf s 2).bell < (mailOf s 1).bell ∧ mailBefore s 1 = true := by
  refine ⟨⟨?_, ?_, rfl⟩, ⟨?_, ?_, rfl⟩, rfl, rfl, ?_, ?_⟩ <;> decide +kernel

/-- Partition 31 on clusters 8 and 9. -/
theorem witness_PartitionCommands_create :
    let s := sent (stHost part0) 0 2 [31, 0x300]
    Sent s 0 2 ∧ s.boot = .ready ∧ payload s 0 0 = 31 ∧ partOf s 31 = none ∧
    (upFrom 0 64).filter (fun c => (payload s 0 8).testBit c) = [8, 9] ∧
    ∀ c ∈ ([8, 9] : List Nat), clusterEnabled s c = true ∧ ∀ x ∈ s.parts, c ∉ x.2.clusters := by
  refine ⟨sent_holds, rfl, ?_, rfl, ?_, ?_⟩ <;> decide +kernel

theorem witness_PartitionCommands_destroy :
    let s := sent (stHost part0) 0 3 [0]
    Sent s 0 3 ∧ s.boot = .ready ∧ payload s 0 0 = 0 ∧ partOf s 0 = some part0 := by
  refine ⟨sentOf ?_, rfl, ?_, rfl⟩ <;> decide +kernel

/-- PART_RESET from the control VF, and from a VF that may not send it. -/
theorem witness_PartitionCommands_reset :
    (let s := sent (stHost part0) 1 4 []
     Sent s 1 4 ∧ s.boot = .ready ∧ bindingOf s 1 = some ⟨0, true⟩ ∧ partOf s 0 = some part0) ∧
    (let s := sent (stHost part0) 2 4 []
     Sent s 2 4 ∧ s.boot = .ready ∧ bindingOf s 2 = some ⟨0, false⟩) := by
  refine ⟨⟨sentOf ?_, rfl, rfl, rfl⟩, sentOf ?_, rfl, rfl⟩ <;> decide +kernel

/-- VF_BIND: unbinding VF 1, binding VF 1023 plainly, and binding VF 0 as the control VF. -/
theorem witness_PartitionCommands_bind :
    (let s := sent (stHost part0) 0 5 [2 ^ 31 + 1]
     Sent s 0 5 ∧ payload s 0 0 / 2 ^ 31 % 2 = 1 ∧ kget s.vfs (payload s 0 0 % 1024) = some ⟨0, false⟩) ∧
    (let s := sent (stHost part0) 0 5 [1023]
     Sent s 0 5 ∧ payload s 0 0 / 2 ^ 31 % 2 = 0 ∧ payload s 0 0 / 2 ^ 15 % 2 = 0 ∧ partOf s (payload s 0 0 / 2 ^ 16 % 32) = some part0 ∧
     kget s.vfs 1023 = none) ∧
    (let s := sent (stHost part0) 0 5 [2 ^ 15]
     Sent s 0 5 ∧ payload s 0 0 / 2 ^ 15 % 2 = 1 ∧ partBusy s 0 = false ∧ payload s 0 0 % 1024 = 0 ∧
     ∀ b ∈ s.vfs, b.1 = 0 ∨ b.2.part ≠ 0 ∨ b.2.control = false) := by
  refine ⟨⟨sentOf ?_, ?_, ?_⟩, ⟨sentOf ?_, ?_, ?_, ?_, ?_⟩, sentOf ?_, ?_, ?_, ?_, ?_⟩ <;> decide +kernel

/-- PART_CONFIG: no such key; a partition with work; the watchdog's limits; and the places of keys 1, 4, 6 and 10. -/
theorem witness_PartitionCommands_config :
    (payload (sent (stHost part0) 0 6 [0, 11]) 0 8 = 11) ∧
    (partBusy (sent { stHost part0 with gangs := [(0, fetchGang)] } 0 6 [0, 4]) 0 = true) ∧
    (payload (sent (stHost part0) 0 6 [0, 8, 100000]) 0 0x10 = 100000) ∧
    (let s := sent (stHost part0) 0 6 [0, 1, 0x10000, 0x1000000, 0, 0, 0, 0, 0, 0]
     Sent s 0 6 ∧ partBusy s 0 = false ∧ payload s 0 8 = 1 ∧ hbmRange s 0 0x1000000 0x10000 = true ∧
     placesFree s 0 1 [(0x1000000, 0x10000)] = true) ∧
    (let s := sent (stHost part0) 0 6 [0, 4, 0x1000000, 4096, 0x1001000]
     Sent s 0 6 ∧ deviceRange s 0x1000000 4096 = true ∧ deviceRange s 0x1001000 32 = true ∧
     placesFree s 0 4 [(0x1000000, 4096), (0x1001000, 32)] = true) ∧
    (let s := sent (stHost part0) 0 6 [0, 6, 0x800000000000, 16, 0x800000001000, 16]
     Sent s 0 6 ∧ hostRange 0x800000000000 (64 + 32 * 16) = true ∧ hostRange 0x800000001000 (64 + 32 * 16) = true ∧
     placesFree s 0 6 [(0x800000000000, 64 + 32 * 16), (0x800000001000, 64 + 32 * 16)] = true) ∧
    (let s := sent (stHost part0) 0 6 [0, 10, 65535]
     Sent s 0 6 ∧ payload s 0 0x10 < 2 ^ 16 ∧ ∀ o ∈ s.parts, o.1 = 0 ∨ o.2.dpart ≠ some (payload s 0 0x10)) := by
  refine ⟨?_, ?_, ?_, ⟨sentOf ?_, ?_, ?_, ?_, ?_⟩, ⟨sentOf ?_, ?_, ?_, ?_⟩, ⟨sentOf ?_, ?_, ?_, ?_⟩, sentOf ?_, ?_, ?_⟩ <;>
    decide +kernel

/-- LAUNCH from the control VF: into a partition without a log, into one with room, and into one whose log is full. -/
def recWords : List Nat := [0x10000, 0x10000, 0x10000, 5, 0x10000, 0, 1000, 0x100000, 0x800000, 2 ^ 32, 0, 0, 0, 0, 0, 0]
def partLaunch : Partition := { part0 with logCap := some 1, mcRing := some ⟨0x8000, 16⟩ }
def stLaunch (p : Partition) : State :=
  { sent (stHost p) 1 7 recWords with mem := memWrite (fetchTables []) 0x10000 range0 }

theorem witness_DeviceCommands_launch :
    (let s := stLaunch part0
     Sent s 1 7 ∧ s.boot = .ready ∧ bindingOf s 1 = some ⟨0, true⟩ ∧ partOf s 0 = some part0 ∧
     128 ≤ (mailOf s 1).command.toNat % 2 ^ 13 ∧ part0.logCap = none) ∧
    (let s := stLaunch partLaunch
     takesWork partLaunch = true ∧ memRead (mailOf s 1).payload 0 128 = rec0 ∧
     checkRecord s 0 partLaunch rec0 = .ok [⟨true, 1, 2, 0, 0, true, true, true⟩] ∧
     mayEnter partLaunch (recordEntry rec0 true 50000 0xC2) = true ∧
     mayEnter { partLaunch with log := [⟨0, 0, 0, none, 0, 0⟩] } (recordEntry rec0 true 50000 0xC2) = false) := by
  refine ⟨⟨sentOf ?_, rfl, rfl, rfl, ?_, rfl⟩, ?_, ?_, ?_, ?_, ?_⟩ <;> decide +kernel

theorem witness_DeviceCommands_preempt :
    let s := sent { st with vfs := [] } 0 0xF [0]
    Sent s 0 0xF ∧ s.gangs.find? (fun g => g.2.cores.contains (payload s 0 0)) = some (0, fetchGang) ∧
    gangOf s 0 = some fetchGang ∧ fetchGang.flag = none ∧ fetchGang.saved = false := by
  refine ⟨sentOf ?_, ?_, rfl, rfl, rfl⟩ <;> decide +kernel

def notice0 : Notice := { num := 1, asid := 1, gen := 0, kind := 0, core := 0, gang := some 0, ipa := 0x20008, bad := false, whose := .held }
theorem witness_DeviceCommands_answer :
    (let s := sent (stHost part0) 0 8 [1, 0]
     Sent s 0 8 ∧ ∀ x ∈ s.parts, x.2.notices = []) ∧
    (let p : Partition := { part0 with notices := [notice0] }
     let s := sent (stHost p) 0 8 [1, 1]
     Sent s 0 8 ∧ s.parts = [(0, p)] ∧ payload s 0 0 = notice0.num ∧ notice0.whose = .held ∧ p.updates = []) := by
  refine ⟨⟨sentOf ?_, ?_⟩, sentOf ?_, rfl, ?_, rfl, rfl⟩ <;> decide +kernel

/-- INVALIDATE of an ASID's range while core 0 runs; ASID_RETIRE below 15 and at 15 without and with a flush; TABLE_ROOT. -/
theorem witness_DeviceCommands_translation :
    (let s := sent { stHost part0 with cores := [(0, core0)] } 1 9 [1, 1, 0x10000, 0x20000]
     Sent s 1 9 ∧ bindingOf s 1 = some ⟨0, true⟩ ∧ partOf s 0 = some part0 ∧ 0 ∈ partCores part0 ∧ coreRuns s 0 = true ∧
     part0.invals = [] ∧ payload s 1 0 = 1 ∧ payload s 1 8 < 2 ^ 16 ∧ payload s 1 16 ≤ payload s 1 24) ∧
    (let s := sent (stHost part0) 1 0xA [65535]
     Sent s 1 0xA ∧ kgetD part0.gens 65535 0 < 15) ∧
    (kgetD [(1, 15)] 1 0 = 15 ∧ 1 ∉ ([] : List Nat) ∧ 1 ∈ ([1] : List Nat)) ∧
    (Sent (sent (stHost part0) 1 0xB []) 1 0xB) ∧
    (let s := sent (stHost part0) 1 0xC [1, 0x1000]
     Sent s 1 0xC ∧ payload s 1 8 % 4096 = 0 ∧ populated s (payload s 1 8) = true) ∧
    populated st 0x8000000000 = false := by
  refine ⟨⟨sentOf ?_, rfl, rfl, ?_, rfl, rfl, ?_, ?_, ?_⟩, ⟨sentOf ?_, ?_⟩, ⟨?_, ?_, ?_⟩, sentOf ?_, ⟨sentOf ?_, ?_, ?_⟩, ?_⟩ <;>
    decide +kernel

/-- DOMAIN_SET at its limits, in the state that waits for it; MIRROR_ENABLE; HM_WEIGHTS; SENSORS; GET_INFO; ATTEST; PUSH_IMAGE. -/
theorem witness_DeviceCommands_rest :
    (let s := { sent (stHost part0) 0 0xD [32767, 32, 32, 32, 255, 254, 65535] with boot := .waiting }
     Sent s 0 0xD ∧ s.boot = .waiting ∧ payload s 0 0 < 2 ^ 15 ∧ payload s 0 8 ≤ 32 ∧ payload s 0 32 ≤ 255 ∧
     payload s 0 40 < payload s 0 32 ∧ payload s 0 48 < 2 ^ 16) ∧
    (let s := sent (stHost part0) 0 0xE [0, 0x10001]
     Sent s 0 0xE ∧ partOf s (payload s 0 0) = some part0) ∧
    (let s := sent (stHost part0) 0 0x12 [255, 0, 0, 0, 0, 255]
     Sent s 0 0x12 ∧ ∀ i, i < 6 → payload s 0 (8 * i) ≤ 255) ∧
    (Sent (sent (stHost part0) 0 0x13 []) 0 0x13 ∧ { stHost part0 with temps := [1, 2, 3, 4] }.temps = [1, 2, 3, 4]) ∧
    (Sent (sent (stHost part0) 0 1 []) 0 1 ∧ (stHost part0).boot ≠ .cold) ∧
    (Sent (sent (stHost part0) 0 0x10 [0, 0, 0, 0]) 0 0x10) ∧
    (let s := { sent (stHost part0) 0 0x11 [2 ^ 32, 7] with boot := .recovery }
     Sent s 0 0x11 ∧ s.boot = .recovery ∧ 8 ≤ (mailOf s 0).command.toNat % 2 ^ 13 ∧ payload s 0 0 % 2 ^ 32 = s.pushing.length ∧
     payload s 0 0 / 2 ^ 32 % 2 = 1) := by
  refine ⟨⟨sentOf ?_, rfl, ?_, ?_, ?_, ?_, ?_⟩, ⟨sentOf ?_, ?_⟩, ⟨sentOf ?_, ?_⟩, ⟨sentOf ?_, rfl⟩, ⟨sentOf ?_, ?_⟩,
    sentOf ?_, sentOf ?_, rfl, ?_, ?_, ?_⟩ <;> decide +kernel

/-! Encoding, steps, memory. -/

theorem witness_DecodeEncode : isWord (.mma 5#6 63#6 0x0F05#16) = true ∧ isWord (.ptset .part 3#6 1#6 2#5) = true ∧
    wellFormed (.ptset .part 3#6 1#6 2#5) = true := ⟨rfl, rfl, rfl⟩

theorem witness_DecodeSound : decodeWord 0 0x05C32008#32 = .ok (.clz 3#6 8#6 true) := by rfl

theorem witness_StepRunsAgenda :
    { st with agenda := [.cxlLinkUp] }.agenda = .cxlLinkUp :: [] ∧ (∃ t, exec .cxlLinkUp { st with agenda := [] } = .next t) ∧
    st.agenda = [] := ⟨rfl, ⟨_, rfl⟩, rfl⟩

/-- A packet of three NOPs at 0x10000; one that p0 squashes; one whose word reads an empty register; and a context that holds. -/
def nops (head : IWord) (w : IWord) : List Byte := natBytes head.toNat 4 ++ natBytes w.toNat 4 ++ natBytes 0 8
def stNops (head w : IWord) : State := { st with mem := memWrite (fetchTables []) 0x10000 (nops head w) }
def emptyCtx : Ctx := { ctxOf st 0 .L with x := (ctxOf st 0 .L).x.set 2 { XReg.zero with pend := [⟨5, 0, 0⟩] } }

theorem witness_PacketIssues_hold : taskOf stWait 0 = some fetchTask ∧ (ctxOf stWait 0 .L).ended = false ∧
    (ctxOf stWait 0 .L).stopped = false ∧ (ctxOf stWait 0 .L).hold ≠ 0 := by
  refine ⟨rfl, rfl, rfl, ?_⟩; decide

theorem witness_PacketIssues_runs :
    let s := stNops 0#32 0#32
    let c := ctxOf s 0 .L
    let b := nops 0#32 0#32
    taskOf s 0 = some fetchTask ∧ c.hold = 0 ∧ c.images = [] ∧ issueOpen s fetchTask = true ∧ fenceDue s 0 .L = false ∧
    c.reports = [] ∧ fetch s fetchTask 0 c.pc = .bytes b ∧
    decodeFault (coreOf s 0) c true .L (headOf (packetPart b 0)) (packetWords (coreOf s 0) c b) = none ∧
    (headOf (packetPart b 0)).tick = false ∧ c.pred (headOf (packetPart b 0)).pred ≠ (headOf (packetPart b 0)).sense ∧
    (headOf (packetPart b 0)).popl = false ∧ (headOf (packetPart b 0)).popr = false ∧
    decodeWord (formedOp (coreOf s 0) c (packetPart b 1)) (packetPart b 1) = .ok (.add 0#6 0#6 0#6 false false) ∧
    packetReady s 0 .L (headOf (packetPart b 0)) c (packetWords (coreOf s 0) c b) = true ∧
    fullQueues s 0 .L (packetWords (coreOf s 0) c b) = [] ∧
    slotPassed s 0 .L (packetWords (coreOf s 0) c b) = false ∧
    (issueFault (coreOf s 0) c (headOf (packetPart b 0)) (packetWords (coreOf s 0) c b)).or
      (packetFault (frameOf s 0 .L c.pc c [.add 0#6 0#6 0#6 false false, .add 0#6 0#6 0#6 false false, .add 0#6 0#6 0#6 false false]) s
        (packetWords (coreOf s 0) c b)) = none := by
  refine ⟨rfl, rfl, rfl, rfl, rfl, rfl, ?_, ?_, ?_, ?_, ?_, ?_, rfl, ?_, ?_, ?_, ?_⟩ <;> decide +kernel

/-- p0 is 1, so sense 1 squashes; ADD x3, x2, x2 waits for x2. -/
theorem witness_PacketIssues_waits :
    (let h := headOf (packetPart (nops 0x00800000#32 0#32) 0)
     (ctxOf st 0 .L).pred h.pred = h.sense ∧ lcAct (ctxOf st 0 .L).lc0 = false ∧ lcAct (ctxOf st 0 .L).lc1 = false) ∧
    ∃ x ∈ packetWords core0 emptyCtx (nops 0#32 0x00030820#32), needsMet emptyCtx (x.needs core0 emptyCtx) = false := by
  refine ⟨⟨?_, ?_, ?_⟩, _, List.mem_cons_self, ?_⟩ <;> decide +kernel

/-- A context whose pc no entry maps, or meets poison; a packet whose head has a set MBZ bit; one at its tick, whose gang mate on core 1
has not reached it; one that pops an empty FIFO; and one for an engine whose turn in its cycle has passed. -/
theorem witness_PacketIssues_stops :
    fetch st fetchTask 0 0x20000#64 = .range ∧
    fetch { st with poison := [0x800] } fetchTask 0 0x10000#64 = .error 8 0x10000 (.pa 0x10000) (leafWord 0x10000) ∧
    leafPpol (leafWord 0x10000) ≠ 2 ∧
    (let h := headOf (packetPart (nops 0x00020000#32 0#32) 0)
     h.raw.toNat % 2 ^ 18 ≠ 0 ∧
     (decodeFault core0 core0.ctxL true .L h (packetWords core0 core0.ctxL (nops 0x00020000#32 0#32))).isSome = true) ∧
    (let h := headOf (packetPart (nops 0x00400000#32 0#32) 0)
     let s : State := { st with gangs := [(0, { fetchGang with cores := [0, 1] })], cores := [(0, core0), (1, core0)] }
     h.tick = true ∧ tickOpen s fetchTask 0 .L (ctxOf s 0 .L).ticks = false ∧ tickOpen st fetchTask 0 .L (ctxOf st 0 .L).ticks = true) ∧
    (let h := headOf (packetPart (nops 0x80000000#32 0#32) 0)
     h.popl = true ∧ popReady (ctxOf st 0 .L) .left = false) ∧
    (let l := packetWords core0 core0.ctxL (nops 0#32 0xB18A5009#32)
     let s : State := { st with cores := [(0, { core0 with slotAt := instant st, slotMax := 2 })] }
     slotPassed s 0 .L l = true ∧ slotPassed st 0 .L l = false) := by
  refine ⟨?_, ?_, ?_, ⟨?_, ?_⟩, ⟨?_, ?_, ?_⟩, ⟨?_, ?_⟩, ?_, ?_⟩ <;> decide +kernel

theorem witness_MemoryStaysCanonical : State.reset.mem.wf = true ∧ ∃ t, step { State.reset with agenda := [.cxlLinkUp] } = .next t :=
  ⟨rfl, _, rfl⟩

/-! Micro-operations of the engines: a command that runs, with its next micro-operation. -/

/-- A command that runs, with a template image and its next micro-operation. -/
def busy (w : Instr) (e : Cls) (img upc : Nat) : Cmd := { cmd w e .running with img := BitVec.ofNat 512 img, upc := upc }

/-- What AtWork asks, as a test. -/
def works (s : State) (c : Cmd) (e : Cls) : Bool := decide (cmdOf s c.id = some c) && decide (c.cls = e) && mayRun s c

theorem atWork {s : State} {c : Cmd} {e : Cls} (h : works s c e = true) : AtWork s c e := by
  simp only [works, Bool.and_eq_true, decide_eq_true_eq] at h
  exact ⟨h.1.1, h.1.2, h.2⟩

/-- What Unheld asks of a state without accesses, as a test. -/
def quiet (s : State) (c : Cmd) : Bool := (coreOf s c.core).spBad.isEmpty && s.acc.isEmpty

theorem unheld {s : State} {c : Cmd} (h : quiet s c = true) : Unheld s c := by
  simp only [quiet, Bool.and_eq_true, List.isEmpty_iff] at h
  exact ⟨h.1, fun a ha => by rw [h.2] at ha; cases ha⟩

/-- Matrix commands of an op on one row, 65 columns and 129 elements, of mode 1 for an odd list of rows. -/
def mxBusy (op upc : Nat) (rows : List Nat) : Cmd :=
  { busy (.mma 0#6 0#6 0#16) .matrix (op * 2 ^ 58 + (upc % 2) * 2 ^ 46 + 2 ^ 16 + 65 + 129 * 2 ^ 112 + 2 ^ 100 + 0x400 * 2 ^ 260) upc with
    work := rows }

theorem witness_EngineCompletion_matrix :
    (∀ p ∈ ([(1, 0, []), (2, 0, []), (1, 1, [1]), (1, 2, [1]), (2, 4, [1]), (1, 5, [1]), (2, 5, [1]), (3, 0, []), (4, 0, []), (4, 1, []),
        (4, 2, []), (5, 0, []), (5, 1, []), (5, 2, []), (8, 0, [])] : List (Nat × Nat × List Nat)),
      let c := mxBusy p.1 p.2.1 p.2.2
      AtWork (stCmd c) c .matrix ∧ Unheld (stCmd c) c ∧ mxOp c.img = p.1 ∧ c.upc = p.2.1) ∧
    (let c := mxBusy 1 2 [1]
     mxMode c.img = 0 ∧ mxMode (mxBusy 1 1 [1]).img = 1 ∧ c.work = [] ++ 1 :: [] ∧ (1 + 63) / 64 = 1 ∧ (65 + 63) / 64 = 2 ∧ (129 + 127) / 128 = 2 ∧
     c.upc = 1 + 0 + (0 * 2 + 1) * 1 + 0 ∧ mxN c.img = 65 ∧ mxK c.img = 129 ∧ fmtA c.fmt = 0) ∧
    (let c := busy (.mma 0#6 0#6 0#16) .matrix (2 ^ 58 + 2 ^ 36) 0
     AtWork (stCmd c) c .matrix ∧ Unheld (stCmd c) c ∧ mxBpre c.img = 1 ∧ (coreOf (stCmd c) 0).shadow.valid = false) := by
  refine ⟨fun p hp => ⟨atWork ?_, unheld ?_, ?_, ?_⟩, ?_, atWork ?_, unheld ?_, ?_⟩
  iterate 4 revert p; decide +kernel
  all_goals decide +kernel

/-- MMAG whose row counts pass m, and whose micro-operations pass 2^24; MFENCE behind a write of its core. -/
theorem witness_EngineCompletion_limits :
    (let c := busy (.mmag 0#6 0#6 0#16) .matrix (2 * 2 ^ 58 + 2 ^ 100) 0
     let s : State := { stCmd c with cores := [(0, { core0 with sp := memWrite [] 0 [1#8] })] }
     AtWork s c .matrix ∧ Unheld s c ∧ mxM c.img = 0 ∧ leNat (spView s 0 0 4) = 1) ∧
    (let c := busy (.mmag 0#6 0#6 0#16) .matrix (2 * 2 ^ 58 + 2 ^ 100 + 0xFFFF * (2 ^ 112 + 2 ^ 16 + 1)) 0
     let s : State := { stCmd c with cores := [(0, { core0 with sp := memWrite [] 0 [0xFF#8, 0xFF#8] })] }
     AtWork s c .matrix ∧ Unheld s c ∧ leNat (spView s 0 0 4) = mxM c.img ∧ 2 ^ 24 ≤ 1 + 1024 * 512 * 1024) ∧
    (let c := mxBusy 8 0 []
     let s : State := { stCmd c with acc := [{ access .eng with store := 9 }] }
     AtWork s c .matrix ∧ Unheld s c ∧ (access .eng).core = c.core) := by
  refine ⟨⟨atWork ?_, unheld ?_, ?_, ?_⟩, ⟨atWork ?_, unheld ?_, ?_, ?_⟩, atWork ?_, ⟨rfl, ?_⟩, rfl⟩
  all_goals decide +kernel

/-- A record of a window of 4 by 2 elements of 4 bytes at 0x10000, dense, and an image of one granule. -/
def recWin : RecImage :=
  BitVec.ofNat 768 (0x10000 + 2 ^ 96 + 2 * 2 ^ 121 + 4 * 2 ^ 144 + 4 * 2 ^ 160 + 2 ^ 208 + 2 * 2 ^ 272 + 2 * 2 ^ 288 + 4 * 2 ^ 336)

/-- Copy commands on that window, on port 1, for the barrier at 0x20. -/
def cpBusy (op upc : Nat) : Cmd :=
  { busy (.cpyIn 0#6 0#6 0#16) .copy (op * 2 ^ 58 + 61 * 2 ^ 37 + 4 * 2 ^ 12 + 0x400 * 2 ^ 108 + 0x800 * 2 ^ 88 + 0x10000 * 2 ^ 128 + 0x20 * 2 ^ 192) upc with
    lrec := recWin }

/-- Partition 0 with the barrier at 0x20, which expects one arrival and 64 bytes. -/
def partBar : Partition := { partSync with ib := [0x20], sync := [(0x20, 1#64), (0x28, 0x100000040#64)] }
def stCopy (c : Cmd) : State := { stCmd c with parts := [(0, partBar)] }

theorem witness_EngineCompletion_copy :
    (∀ p ∈ ([(1, 0), (2, 0), (3, 0), (4, 0), (5, 0), (6, 0), (7, 0), (8, 0), (9, 0), (10, 0), (1, 1), (2, 1), (3, 1), (4, 1), (5, 1), (6, 1),
        (7, 1), (8, 1), (9, 1), (10, 1), (1, 2), (2, 2), (3, 2), (4, 2), (5, 2), (6, 2), (7, 2), (8, 2), (9, 2), (6, 3)] : List (Nat × Nat)),
      let c := cpBusy p.1 p.2
      AtWork (stCopy c) c .copy ∧ Unheld (stCopy c) c ∧ cpOp c.img = p.1 ∧ c.upc = p.2 ∧ cpDst c.img % 32 = 0 ∧ cpDst2 c.img % 32 = 0) ∧
    (let w := (cpBusy 1 1).window
     w.count = 8 ∧ w.set = 1 ∧ w.turned.set = 1 ∧ w.box = 4 :: 2 :: [] ∧ (cpBusy 5 1).window.granules = 1 ∧
     (∀ e ∈ w.within 0 32, w.inside e = true ∧ engGet (stCopy (cpBusy 1 1)) (cpBusy 1 1) (w.addr e) w.es = .ok [0#8, 0#8, 0#8, 0#8]) ∧
     (∀ p ∈ ((w.within 0 32).filter w.inside).map (fun e => (w.addr e, List.replicate w.es 0#8)),
       (engDest (stCopy (cpBusy 2 1)) (cpBusy 2 1) p.1 p.2.length .write).isOk = true) ∧
     (∀ p ∈ (granuleRuns (((w.within 0 32).filter w.inside).map (fun e => (w.addr e, List.replicate w.es 0#8)))).flatten,
       (engTestAt (stCopy (cpBusy 2 1)) (cpBusy 2 1) p.1 p.2.length).good = true)) ∧
    partOf (stCopy (cpBusy 8 0)) 0 = some partBar ∧ bindError partBar (cpBar (cpBusy 8 0).img) = none ∧
    bindError partSync (cpBar (cpBusy 8 0).img) = some 0xB02 ∧ (barrierAt partBar 0x20).pz = false ∧ (barrierAt partBar 0x20).a ≠ 0 ∧
    -2 ^ 31 ≤ (barrierAt partBar 0x20).b - (32 : Nat) ∧ partBar.syncPz = [] ∧ partBar.waiters = [] := by
  refine ⟨fun p hp => ⟨atWork ?_, unheld ?_, ?_, ?_, ?_, ?_⟩, ⟨?_, ?_, ?_, ?_, ?_, ?_, ?_, ?_⟩, rfl, ?_, ?_, ?_, ?_, ?_, rfl, rfl⟩
  iterate 6 revert p; decide +kernel
  all_goals decide +kernel

/-- CPY.BAR with a granule of 32 bytes to count, refused or not; a counted granule of a store; CPY.FOLLOW with MFMT and MMA; LREC with
its three granules, and one of them poisoned. -/
theorem witness_EngineCompletion_copies :
    (∀ r : Bool, let c := { cpBusy 8 1 with work := [32], refused := r }
     AtWork (stCopy c) c .copy ∧ Unheld (stCopy c) c ∧ c.work = 32 :: [] ∧ (∀ a ∈ (stCopy c).acc, a.cmd ≠ c.id) ∧
     ∀ o ∈ (stCopy c).cmds, o.cls ≠ .atomic) ∧
    (∀ op ∈ [1, 6], let c := { cpBusy 7 2 with fimg := BitVec.ofNat 512 (op * 2 ^ 58) }
     AtWork (stCopy c) c .copy ∧ Unheld (stCopy c) c ∧ mxOp c.fimg = op ∧ queueLength (stCopy c) 0 .matrix < 32) ∧
    (let c := cpBusy 10 1
     (engGet (stCopy c) c 0x10000#64 32 = .ok (List.replicate 32 0#8)) ∧ (engGet (stCopy c) c 0x10020#64 32 = .ok (List.replicate 32 0#8)) ∧
     (engGet (stCopy c) c 0x10040#64 32 = .ok (List.replicate 32 0#8)) ∧ sharedAddr (stCopy c) c 0x10000#64 = true ∧
     engGet { stCopy c with poison := [0x800] } c 0x10000#64 32 = .error 8 0x10000#64 0x10000 (.pa 0x10000) (leafWord 0x10000) ∧
     leafPpol (leafWord 0x10000) = 0) := by
  refine ⟨fun r => ⟨atWork ?_, unheld ?_, rfl, ?_, ?_⟩, fun p hp => ⟨atWork ?_, unheld ?_, ?_, ?_⟩, ?_, ?_, ?_, ?_, ?_, ?_⟩
  iterate 4 revert r; decide +kernel
  iterate 4 revert p; decide +kernel
  all_goals decide +kernel

/-- CPY.RING on an output port with a row and with none, with the row held; and on an input port that is full and one with room. -/
theorem witness_EngineCompletion_ring :
    ∀ x ∈ ([(true, 0, []), (true, 1, []), (true, 1, List.replicate 256 0#8), (false, 4, []), (false, 0, [])] : List (Bool × Nat × List Byte)),
      let p : Port := ⟨x.1, 64, 4, 0, x.2.1⟩
      let c := { cpBusy 5 1 with ports := [(1, p)], elem := x.2.2 }
      let s : State := { stCopy c with cores := [(0, { core0 with vec := { core0.vec with ports := [(1, p)] } })] }
      AtWork s c .copy ∧ Unheld s c ∧ kget c.ports (cpPort c.img - 60) = some p ∧ kget (coreOf s 0).vec.ports (cpPort c.img - 60) = some p ∧
      (∀ e ∈ c.window.within 0 256, engGet s c (c.window.addr e) c.window.es = .ok [0#8, 0#8, 0#8, 0#8]) := by
  intro p hp
  refine ⟨atWork ?_, unheld ?_, ?_, ?_, ?_⟩
  all_goals revert p; decide +kernel

/-! The barrier, semaphore and scheduler words. -/

/-- What every clause of AtomicReplies asks of a word that waits in its queue, as a test. -/
def due (s : State) (c : Cmd) (e : Cls) : Bool :=
  decide (cmdOf s c.id = some c) && decide (c.cls = e) && retryDue s c && decide (c.phase = .queued) && !atomicBefore s c &&
  !schedBefore s c && gangRuns s c && edgesDone s c && waitsDone s c

/-- A word of the barrier at 0x20 or the semaphore at 8, with its second operand. -/
def syncCmd (i : Instr) (x v : Nat) : Cmd := { sentCmd with instr := i, vals := [BitVec.ofNat 64 x, BitVec.ofNat 64 v, 0#64] }
def stSync (c : Cmd) (p : Partition) (l : List Cmd) : State := { st with cmds := l ++ [c], parts := [(0, p)] }

/-- ABINIT and ABARR to an arrival that leaves some bytes and to one that ends the phase, with a waiter; ABEXP; ABWAIT of a poisoned
barrier, of a phase that is over, and of the one in progress. -/
theorem witness_AtomicReplies_barrier :
    (let w := ({ syncCmd (.abwait .rlx .part 3#6 1#6 2#5) 0x20 0 with id := 6, seq := 9, phase := .waiting } : Cmd)
     let p : Partition := { partBar with sync := [(0x20, 1#64)], waiters := [⟨0x20, false, 0, 6⟩] }
     ∀ c ∈ [syncCmd (.abinit .rlx .part 1#6 2#5) 0x20 1, syncCmd (.abarr .rlx .part 3#6 1#6) 0x20 0,
         syncCmd (.abexp .rlx .part 1#6 2#5) 0x20 1],
       due (stSync c p [w]) c .atomic = true ∧ atomicError p c 0x20 = none ∧ cmdOf (stSync c p [w]) 6 = some w ∧
       ∀ x ∈ p.waiters, x.cmd ≠ c.id ∧ (x.sem = true → x.addr ≠ 0x20 ∧ x.addr ≠ 0x20 + 8)) ∧
    ((barrierAt { partBar with sync := [(0x20, 1#64)] } 0x20).a = 1 ∧ (barrierAt partBar 0x20).b = 64) ∧
    (∀ v ∈ [0x4000000000000001, 0x0000000100000001, 1],
      let c := syncCmd (.abwait .rlx .part 3#6 1#6 2#5) 0x20 0
      let p : Partition := { partBar with sync := [(0x20, BitVec.ofNat 64 v)] }
      due (stSync c p []) c .atomic = true ∧ atomicError p c 0x20 = none ∧ p.waiters = []) ∧
    (barrierAt { partBar with sync := [(0x20, 0x4000000000000001#64)] } 0x20).pz = true ∧
    (barrierAt { partBar with sync := [(0x20, 0x100000001#64)] } 0x20).phase = 1 := by
  refine ⟨?_, ?_, ?_, ?_, ?_⟩ <;> decide +kernel

/-- ASEMP with no request, with one that it grants and with one that it does not; ASEMW that waits behind another, for want of a value, and
one that is granted. -/
theorem witness_AtomicReplies_semaphore :
    (∀ n ∈ [0, 1, 2],
      let w := ({ syncCmd (.asemw .rlx .part 3#6 1#6 2#5) 8 1 with id := 6, seq := 9, phase := .waiting } : Cmd)
      let p : Partition := { partSync with waiters := if n = 0 then [] else [⟨8, true, n, 6⟩] }
      let c := syncCmd (.asemp .rlx .part 1#6 2#5) 8 1
      due (stSync c p [w]) c .atomic = true ∧ atomicError p c 8 = none ∧ cmdOf (stSync c p [w]) 6 = some w ∧ ∀ x ∈ p.waiters, x.cmd ≠ c.id) ∧
    (∀ n ∈ [0, 1, 2],
      let p : Partition := { partSync with waiters := if n = 0 then [⟨8, true, 2, 6⟩] else [], sync := [(8, 1#64)] }
      let c := syncCmd (.asemw .rlx .part 3#6 1#6 2#5) 8 (max n 1)
      due (stSync c p []) c .atomic = true ∧ atomicError p c 8 = none ∧ (∀ x ∈ p.waiters, x.cmd ≠ c.id) ∧ (readSync p 8).toInt = 1) := by
  refine ⟨?_, ?_⟩ <;> decide +kernel

/-- A scheduler word with its operands, in a partition with a log, a bound graph in slot 3 and the grid of core 0's gang. -/
def schedCmd (i : Instr) (a b : Nat) : Cmd := { sentCmd with instr := i, cls := .sched, vals := [BitVec.ofNat 64 a, BitVec.ofNat 64 b] }
def partSched : Partition :=
  { part0 with
    logCap := some 16, mcRing := some ⟨0x8000, 16⟩, fenceAt := 0x50000, graphs := [(3, graph0)],
    grids := [⟨1, entry0, rec0, 65535, [⟨0, 65535, 0, some 0⟩], 0⟩], inflight := [(0, 3)] }

/-- The leaf of the shared page with home 11, whose lines do not enter L2. -/
def hostLeaf : Word := leafWord 0x10000 ||| 0x6000000000000000#64

/-- A graph of one node without edges, at 0x10000. -/
def graphRec : List Byte := natBytes (2 ^ 57) 8 ++ natBytes 0 56 ++ natBytes 0x10080 8
def stSched (c : Cmd) (p : Partition) : State :=
  { st with cmds := [c], parts := [(0, p)], mem := memWrite (memWrite (fetchTables []) 0x10000 graphRec) 0x4008 (wordBytes hostLeaf) }

/-- GBIND of that graph with its area at 0x11000, and the state after its reads. -/
def bindCmd : Cmd := schedCmd (.gbind .rlx .part 3#6 1#6 2#5) 0x10000 0x11000
def stBound : State :=
  { stSched bindCmd partSched with tcache := [⟨0, 0, 1, 0, 1, hostLeaf, false⟩], wcache := [⟨0, 0, 1, 0, 0, 0x4000⟩] }
theorem bound_eq : schedUse (stSched bindCmd partSched) bindCmd 0x10000#64 82 = stBound := by rfl

/-- The pieces of the area. -/
def bindPieces : List (Word × List Byte) := areaPieces 0x11000#64 (areaBytes [1] [] [(0, 1)] 1) 400
theorem pieces_eq : bindPieces.map (fun x => (x.1.toNat, x.2.length)) =
    (List.range 49).map (fun i => (0x11000 + 32 * i, if i = 48 then 2 else 32)) := by decide +kernel

/-! Memory read as a record. -/

theorem gdw_read (m : Memory) (a n off : Nat) (h : off + 8 ≤ n) : gdw (memRead m a n) off = leNat (memRead m (a + off) 8) := by
  rw [gdw, memRead_eq, memRead_eq]
  congr 1
  apply List.ext_getElem
  · simp; omega
  · intro i h1 h2
    simp [Nat.add_assoc]

theorem gdw_zero (m : Memory) (a n off : Nat) (h : off + 8 ≤ n) (z : ∀ i < 8, memByte m (a + off + i) = 0#8) :
    gdw (memRead m a n) off = 0 := by
  rw [gdw_read m a n off h, memRead_eq, List.map_congr_left (g := fun _ => 0#8) (fun i hi => z i (List.mem_range.mp hi))]
  rfl

/-- Memory with that record at 0x10000. -/
def bindMem : Memory := (stSched bindCmd partSched).mem
theorem bindMem_zero (i : Nat) (h : 72 ≤ i) : memByte bindMem (0x10000 + i) = 0#8 := by
  have e : bindMem = memWrite (memWrite (fetchTables []) 0x10000 graphRec) 0x4008 (wordBytes hostLeaf) := rfl
  have l1 : (wordBytes hostLeaf).length = 8 := by decide
  have l2 : graphRec.length = 72 := by decide
  have k (a : Nat) (w : Word) (m : Memory) (h : a ≤ 0x5000) : memByte (memWrite m a (wordBytes w)) (0x10000 + i) = memByte m (0x10000 + i) :=
    memByte_memWrite_out _ _ _ _ (.inr (by rw [wordBytes, natBytes_length]; omega))
  rw [e, k _ _ _ (by omega), memByte_memWrite_out _ _ _ _ (.inr (by omega)), fetchTables, k _ _ _ (by omega), k _ _ _ (by omega),
    k _ _ _ (by omega), k _ _ _ (by omega)]
  rfl
theorem record_ok : solveGraph (memRead bindMem 0x10000 2624) = .ok [1] [] [(0, 1)] 1 := by
  have hd (off : Nat) (h : off + 8 ≤ 2624) (h2 : 72 ≤ off) : gdw (memRead bindMem 0x10000 2624) off = 0 :=
    gdw_zero _ _ _ _ h fun i _ => by rw [Nat.add_assoc]; exact bindMem_zero _ (by omega)
  have h0 : gdw (memRead bindMem 0x10000 2624) 0 = 2 ^ 57 := by rw [gdw_read _ _ _ _ (by omega)]; decide +kernel
  have hn : gNodes (memRead bindMem 0x10000 2624) = 1 := by rw [gNodes, h0]; rfl
  have he : gEdges (memRead bindMem 0x10000 2624) = 0 := by rw [gEdges, h0]; rfl
  have h1 : headFault (memRead bindMem 0x10000 2624) = none := by
    have k : ∀ i ∈ upFrom 1 7, gdw (memRead bindMem 0x10000 2624) (8 * i) = 0 := by
      intro i hi
      rw [gdw_read _ _ _ _ (by have : i < 8 := by revert hi; revert i; decide
                               omega)]
      revert i; decide +kernel
    rw [headFault, hn, he, h0]
    have : (upFrom 1 7).findSome? (fun i => mbzAt (8 * i) (gdw (memRead bindMem 0x10000 2624) (8 * i))) = none := by
      rw [List.findSome?_eq_none_iff]; intro i hi; rw [k i hi]; rfl
    rw [this]; rfl
  have h2 : (upFrom 0 64).findSome? (nodeField (memRead bindMem 0x10000 2624)) = none := by
    rw [List.findSome?_eq_none_iff]; intro i hi
    have hi : i < 64 := by revert hi; revert i; decide
    rw [nodeField, hn]
    by_cases h : i = 0
    · subst h; rw [gdw_read _ _ _ _ (by omega)]; decide +kernel
    · rw [hd _ (by omega) (by omega), if_neg (by simp; omega)]
  have h3 : (upFrom 0 128).findSome? (edgeField (memRead bindMem 0x10000 2624)) = none := by
    rw [List.findSome?_eq_none_iff]; intro i hi
    have hi : i < 128 := by revert hi; revert i; decide
    rw [edgeField, he, hd _ (by omega) (by omega), hd _ (by omega) (by omega)]; rfl
  rw [solveGraph, h1, h2, h3]
  simp only [edgesIn, he, hn]
  decide +kernel

theorem bind_reads : ∀ i ∈ upFrom 0 82, judge (stSched bindCmd partSched) 0 1 0 (.ipa (0x10000 + 32 * i)) 32 false =
      .ok (.pa (0x10000 + 32 * i)) hostLeaf ∧
    engDest (stSched bindCmd partSched) bindCmd (0x10000#64 + BitVec.ofNat 64 (32 * i)) 1 .read = .ok (.ipa (0x10000 + 32 * i)) := by
  decide +kernel

theorem memRead_cut (m : Memory) (a k : Nat) : (upFrom 0 k).flatMap (fun i => memRead m (a + 32 * i) 32) = memRead m a (32 * k) := by
  rw [upFrom_eq]
  induction k with
  | zero => rfl
  | succ k ih =>
    rw [List.range_succ, List.map_append, List.flatMap_append, ih, Nat.mul_succ]
    simp only [List.map_cons, List.map_nil, List.flatMap_cons, List.flatMap_nil, List.append_nil, memRead_eq, List.range_add, List.map_append,
      List.map_map, Nat.zero_add]
    exact congrArg _ (List.map_congr_left fun i _ => by simp only [Function.comp]; congr 1; omega)

theorem bind_get : schedGet (stSched bindCmd partSched) bindCmd 0x10000#64 82 =
    (upFrom 0 82).map (fun i => .ok (memRead bindMem (0x10000 + 32 * i) 32)) := by
  rw [schedGet]
  refine List.map_congr_left fun i hi => ?_
  have h := bind_reads i hi
  rw [schedAns, h.2]
  show (match judge (stSched bindCmd partSched) 0 1 0 (.ipa (0x10000 + 32 * i)) 32 false with
    | .ok l _ => _
    | .err code l leaf => _
    | .wait => _) = _
  rw [h.1]; rfl

theorem witness_AtomicReplies_bind :
    let s := stSched bindCmd partSched
    due s bindCmd .sched = true ∧ (∀ x ∈ schedGet s bindCmd 0x10000#64 82, x.good = true) ∧
    solveGraph (allBytes (schedGet s bindCmd 0x10000#64 82)) = .ok [1] [] [(0, 1)] 1 ∧
    ∀ x ∈ bindPieces, (schedAns (schedUse s bindCmd 0x10000#64 82) bindCmd x.1 x.2.length .write).good = true := by
  refine ⟨?_, ?_, ?_, fun x hx => ?_⟩
  · decide +kernel
  · rw [bind_get]; intro x hx
    obtain ⟨i, -, rfl⟩ := List.mem_map.mp hx; rfl
  · rw [bind_get, allBytes, List.flatMap_map]
    exact (congrArg solveGraph (memRead_cut _ _ _)).trans record_ok
  · have hm := pieces_eq ▸ List.mem_map_of_mem (f := fun x : Word × List Byte => (x.1.toNat, x.2.length)) hx
    have ha : ∀ y ∈ (List.range 49).map (fun i => (0x11000 + 32 * i, if i = 48 then 2 else 32)),
        (schedAns stBound bindCmd (BitVec.ofNat 64 y.1) y.2 .write).good = true := by decide +kernel
    have h := ha _ hm
    rwa [BitVec.ofNat_toNat, BitVec.setWidth_eq, ← bound_eq] at h

/-- GROW of 0, of 1 to the limit, of 2 beyond it, and with a full log; FENCEW; GBIND and GREBIND, also of a bad operand, of a slot bound and
not, in a period and not; GSTAT at the edges of its selectors; PTSET of each table, also of an index that it has not; HMRISK. -/
theorem witness_AtomicReplies_scheduler :
    (∀ c ∈ [schedCmd (.grow .part 3#6 1#5) 0 0, schedCmd (.grow .part 3#6 1#5) 1 0, schedCmd (.grow .part 3#6 1#5) 2 0,
        schedCmd (.fencew .rlx .part 3#6) 0 0, schedCmd (.gbind .rlx .part 3#6 1#6 2#5) 0x10001 0, schedCmd (.gbind .rlx .part 3#6 1#6 2#5) 0x10000 3,
        schedCmd (.gbind .rlx .part 3#6 1#6 2#5) 0x10000 0x11000, schedCmd (.grebind .rlx .part 3#6 1#6 2#5) 0x10000 16,
        schedCmd (.grebind .rlx .part 3#6 1#6 2#5) 0 2, schedCmd (.grebind .rlx .part 3#6 1#6 2#5) 0 3,
        schedCmd (.grebind .rlx .part 3#6 1#6 2#5) 0x10000 0x11003, schedCmd (.gstat .part 3#6 1#5) 0x400 0, schedCmd (.gstat .part 3#6 1#5) 0 0,
        schedCmd (.gstat .part 3#6 1#5) 0x13F 0, schedCmd (.gstat .part 3#6 1#5) 0x20F 0, schedCmd (.gstat .part 3#6 1#5) 0x30F 0,
        schedCmd (.ptset .part 3#6 1#6 2#5) 0 16, schedCmd (.ptset .part 3#6 1#6 2#5) 0 15, schedCmd (.ptset .part 3#6 1#6 2#5) 0 0x13F,
        schedCmd (.ptset .part 3#6 1#6 2#5) 0x1FF 0x201, schedCmd (.hmrisk .part 3#6) 0 0],
      ∀ p ∈ [partSched, { partSched with logCap := none }, { partSched with graphs := [(3, { graph0 with period := none })] },
          { partSched with logCap := some 0 }],
        due (stSched c p) c .sched = true ∧ c.notice = none) ∧
    (taskOf st 0 = some fetchTask ∧ gangOf st 0 = some fetchGang ∧ gridOf partSched fetchGang.grid = some ⟨1, entry0, rec0, 65535, [⟨0, 65535, 0, some 0⟩], 0⟩ ∧
      logRoom partSched = true ∧ logRoom { partSched with logCap := some 0 } = false ∧ partSched.log = []) ∧
    (let ctl (v : Word) : Partition := { partSched with ctl := [(1, v)] }
     (kgetD (ctl 0x100#64).ctl 1 0#64).getLsbD 8 = true ∧ (ctl 0x100#64).secured = false ∧ (kgetD partSched.ctl 1 0#64).getLsbD 8 = false) := by
  refine ⟨?_, ⟨rfl, rfl, rfl, rfl, rfl, rfl⟩, ?_⟩
  all_goals decide +kernel

/-! Vector words. -/

/-- A vector word of context C in its queue, of an element type, with streams on its ports and operands. -/
def vecOf (i : Instr) (et : Nat) (ports : KMap Port) : Cmd :=
  { cmd i .vector .queued with ctx := .C, vtype := BitVec.ofNat 64 et, vals := [3#64, 4#64], ports := ports }

/-- A stream of two rows at rows 64 to 67, in each direction. -/
def inRing : Port := ⟨false, 64, 4, 1, 2⟩
def outRing : Port := ⟨true, 68, 4, 0, 2⟩
def stVec (c : Cmd) : State :=
  { stCmd c with cores := [(0, { core0 with vec := { core0.vec with ports := [(0, inRing), (3, outRing)] } })] }

/-- Words of every form: of a float, an integer and a pattern type, folds, conversions, rows moved within the core and to another, walks,
and with a port that is popped and one that is pushed. -/
theorem witness_VectorResults_forms :
    ∀ c ∈ [vecOf (.vfma false 2#6 0#6 1#6 0#2) 0 [], vecOf (.vadd true 63#6 60#6 1#6 1#2) 3 [(0, inRing), (3, outRing)],
        vecOf (.vshl false 2#6 0#6 1#6 0#2) 4 [], vecOf (.vminn false 2#6 0#6 1#6 0#2) 6 [], vecOf (.vmin false 2#6 0#6 1#6 0#2) 1 [],
        vecOf (.vcmpLt true 1#3 0#6 1#6 0#2) 2 [], vecOf (.vcmpLtn false 1#3 0#6 1#6 0#2) 9 [], vecOf (.vscan 2#6 0#6 1#2) 0 [],
        vecOf (.vrmax 2#6 60#6 1#2) 5 [(0, inRing)], vecOf (.vtopk 2#6 0#6 1#6 0#2) 0 [], vecOf (.vexp2 2#6 0#6 0#2) 0 [],
        vecOf (.vrng 2#6 1#6 0#2) 5 [], vecOf (.vperm true 2#6 0#6 1#6 0#2) 9 [], vecOf (.vcvt 1#3 2#6 0#6 1#2 false 4#3 0#2) 0 [],
        vecOf (.vextx 3#6 0#6 1#6) 5 [], { vecOf (.vldr 2#6 1#6) 0 [] with reads := [⟨.sp 0, 0x100, 0x200⟩] },
        { vecOf (.vstr 2#6 1#6) 0 [] with writes := [⟨.sp 0, 0x100, 0x200⟩] },
        { vecOf (.vstr 2#6 1#6) 0 [] with writes := [⟨.sp 1, 0x100, 0x200⟩] }, vecOf (.vldw 2#6) 0 []],
      let s := stVec c
      cmdOf s c.id = some c ∧ c.cls = .vector ∧ (∀ d ∈ s.cmds, d = c) ∧ gangRuns s c = true ∧ vectorHeld s c = false ∧
      (coreOf s 0).spBad = [] ∧ s.acc = [] ∧
      (∀ r ∈ (vShape c.instr).reads, r ∈ (vShape c.instr).writes → portOf c.ports r = none) ∧
      (∀ x ∈ (walkOf s c (coreOf s 0).vec).1, x.1 + 4 ≤ 786432) := by
  decide +kernel

/-! Prism. -/

/-- Prism commands with lists at 0x1000 to 0x6000, one member and one element, on channel 4. -/
def xeBusy (op upc more : Nat) (work : List Nat) : Cmd :=
  { busy (.xsort 0#6 0#6 0#16) .prism (op * 2 ^ 58 + 4 * 2 ^ 42 + 2 ^ 168 + 2 ^ 79 + 2 ^ 131 + 2 ^ 83 + 2 ^ 416 + 3 * 2 ^ 394 +
      0x1000 * 2 ^ 236 + 0x2000 * 2 ^ 216 + 0x3000 * 2 ^ 196 + 0x4000 * 2 ^ 300 + 0x5000 * 2 ^ 280 + 32 * 2 ^ 260 + 0x20 * 2 ^ 320 + more) upc with
    work := work }

/-- The core's lists: the word at 0x1000. -/
def stPrism (v : Nat) (c : Cmd) : State :=
  { stCmd c with
    parts := [(0, { partBar with dpart := some 9 })], dims := (4, 1, 1), node := 0, rg := 1, q := 0
    cores := [(0, { core0 with sp := memWrite [] 0x1000 (natBytes v 8) })] }

/-- XSORT of one entry for expert 0, and of one for expert 1 of 1; its four further micro-operations. -/
theorem witness_EngineCompletion_sort :
    (∀ u ∈ [0, 1, 2, 3, 4], let c := xeBusy 1 u 0 []
     AtWork (stPrism 7 c) c .prism ∧ Unheld (stPrism 7 c) c ∧ xeOp c.img = 1 ∧ xeT c.img * xeK c.img = 1 ∧ xeE c.img = 1) ∧
    leNat (spView (stPrism 7 (xeBusy 1 0 0 [])) 0 0x1000 8) = 7 ∧ nbits 7 35 24 < 1 ∧
    (let c := xeBusy 1 0 0 []
     AtWork (stPrism (2 ^ 24) c) c .prism ∧ Unheld (stPrism (2 ^ 24) c) c ∧ leNat (spView (stPrism (2 ^ 24) c) 0 0x1000 8) = 2 ^ 24 ∧
     1 ≤ nbits (2 ^ 24) 35 24 ∧ nbits (2 ^ 24) 35 24 ≠ 0xFFF) := by
  refine ⟨fun u hu => ⟨atWork ?_, unheld ?_, ?_, ?_, ?_⟩, ?_, ?_, atWork ?_, unheld ?_, ?_, ?_, ?_⟩
  iterate 5 revert u; decide +kernel
  all_goals decide +kernel

/-- XA2A of one member, with and without its row, whose counts pass n or whose rows pass lf, and at each of its micro-operations; and one
that waits for another node's row or has one that disagrees. -/
theorem witness_EngineCompletion_exchange :
    (∀ u ∈ [0, 1, 2, 3], ∀ w ∈ [[], [1, 0, 0, 0], [1, 0, 0, 1], [1, 0, 0, 33]],
      let c := xeBusy 2 u 0 w
      AtWork (stPrism 0 c) c .prism ∧ Unheld (stPrism 0 c) c ∧ xeOp c.img = 2 ∧ xeNpeer c.img = 1 ∧ xeMe c.img = 0 ∧
      bindError partBar (xeGa c.img) = none ∧ (w ≠ [] → (a2aRows (stPrism 0 c) c).isSome = true) ∧ xeLf c.img = 32) ∧
    (let c := xeBusy 2 0 0 []
     let s : State := { stPrism 0 c with cores := [(0, { core0 with sp := memWrite [] 0x2000 [2#8] })] }
     AtWork s c .prism ∧ Unheld s c ∧ xeN c.img = 1 ∧ leNat (spView s 0 0x2000 4) = 2) ∧
    (let c := xeBusy 2 0 (2 ^ 83) [1, 0, 0, 1, 0, 0]
     let row : CountRow := ⟨9, 1, 0, 0, 0, 2, 1, true, [0, 0], 0, 0, 0, 0, 0, 0, 1⟩
     AtWork (stPrism 0 c) c .prism ∧ a2aRows (stPrism 0 c) c = none ∧
     AtWork { stPrism 0 c with heldRows := [row] } c .prism ∧ ((a2aRows { stPrism 0 c with heldRows := [row] } c).getD [])[1]? = some row) := by
  refine ⟨fun u hu w hw => ⟨atWork ?_, unheld ?_, ?_, ?_, ?_, ?_, ?_, ?_⟩, ⟨atWork ?_, unheld ?_, ?_, ?_⟩, atWork ?_, ?_, atWork ?_, ?_⟩
  iterate 8 revert w u; decide +kernel
  all_goals decide +kernel

/-- The channel words: on a channel that is free, open here as a send or a receive channel, and held by another core; to the own node and to
one outside the domain; and XSTAT. -/
theorem witness_EngineCompletion_channels :
    (∀ op ∈ [3, 4, 5, 6, 7, 10], ∀ u ∈ [0, 1, 2], ∀ more ∈ [0, 2 ^ 41, 0xFFFF * 2 ^ 400, 3 * 2 ^ 26, 4 * 2 ^ 26],
      let c := xeBusy op u more [64]
      ∀ x ∈ [stPrism 0 c, { stPrism 0 c with sends := [(4, ⟨0, 0, 0, 3, 32, 64⟩)] }, { stPrism 0 c with sends := [(4, ⟨1, 0, 0, 3, 32, 64⟩)] },
          { stPrism 0 c with recvs := [(4, { recv 0 false with dlv := 64 })] }, { stPrism 0 c with recvs := [(4, recv 0 false)] },
          { stPrism 0 c with recvs := [(4, { recv 0 false with core := 1 })] },
          { stPrism 0 c with sends := [(4, ⟨0, 0, 0, 3, 32, 64⟩)], known := [⟨4, 9, 0, 3, 96, false, false⟩] },
          { stPrism 0 c with sends := [(4, ⟨0, 0, 0, 3, 32, 64⟩)], known := [⟨4, 9, 0, 3, 96, true, false⟩] }],
        works x c .prism = true ∧ quiet x c = true ∧ xeOp c.img = op ∧ xeChan c.img = 4 ∧ sendsBefore x c = false) ∧
    nodeRefuses (stPrism 0 (xeBusy 3 0 0 [])) 0 0 true = false ∧ nodeRefuses (stPrism 0 (xeBusy 3 0 0 [])) 0 0xFFFF true = true ∧
    classHeld (stPrism 0 (xeBusy 5 1 0 [])) (xeBusy 5 1 0 []) 0 = false ∧
    (endOf [⟨4, 9, 0, 3, 96, true, false⟩] 4 9 0 3) = some ⟨4, 9, 0, 3, 96, true, false⟩ := by
  refine ⟨?_, ?_, ?_, ?_, ?_⟩ <;> decide +kernel

/-- XRING of a ring of one at its only chunk and its end; of three, whose next member here holds the identity, with and without the headers
and the chunk; and on a device that is in no ring. -/
theorem witness_EngineCompletion_rings :
    (∀ op ∈ [8, 9], ∀ u ∈ [0, 1, 2], ∀ w ∈ [[], [1]],
      let c := xeBusy op u 0 w
      works (stPrism 0 c) c .prism = true ∧ quiet (stPrism 0 c) c = true ∧ xeOp c.img = op ∧
      works { stPrism 0 c with rg := 0 } c .prism = true ∧ (ringRefused (stPrism 0 c) c = none)) ∧
    (let h : RingHeader := ⟨0, true, 1, 0⟩
     let x : Partner := ⟨Config.ringNext 3 1, [9], [], [], 0, true, true, [], 0, true⟩
     let c := xeBusy 8 2 0 [1]
     let s : State := { stPrism 0 c with rg := 3, q := 1, partners := [x], rings := [⟨9, 0, 0, [(0, h), (1, h), (2, h)], [(2, [])]⟩] }
     works s c .prism = true ∧ ringRefused s c = none ∧ (ringOf s c).headers.length = 3 ∧ kget (ringOf s c).chunks 2 = some [] ∧
     (1 + 2 * 3 - 2) % 3 = 2) := by
  refine ⟨by decide +kernel, by decide +kernel, ?_, by decide +kernel, by decide +kernel, by decide⟩
  show (if 3 = 1 ∨ Option.any _ (some 9) = true then none else some _) = none
  simp [partnerOf]

/-! Stash words. -/

/-- A stash word that runs, on key 0, with its second operand. -/
def stashBusy (i : Instr) (d upc : Nat) : Cmd := { busy i .stash 0 upc with vals := [0#64, BitVec.ofNat 64 d] }

/-- A directory entry of one FP32 element that a policy of 0 stores on die 0: in a state, with an owner, and a block. -/
def tensor (state owner : Nat) (pz : Bool) : StashEntry :=
  ⟨state, 0, 0, 0, false, false, 1, 1, false, 256, 256, [⟨⟨true, pz, 0, 1, 0⟩, List.replicate 32 0#8⟩], 1, 256, [], owner⟩

/-- Pools of a number of bytes on die 0, a directory of four entries and the log. -/
def partStash (pool : Nat) (l : KMap StashEntry) : Partition :=
  { partSched with poolNear := [pool], poolH := [pool], poolL := [pool], stashCap := [4], stash := l }

/-- Each stash word at its micro-operations: without an entry and with one that is dropped, stored, being stored, poisoned or owned by
another command; in pools with room and without; and alone at its home. Whether a fetch from a pool fails is a free value (log entry 103),
so that one of the two clauses about it holds. -/
theorem witness_EngineCompletion_stash :
    (∀ i ∈ [Instr.sqry .rlx .part 3#6 1#6, .sst .rlx .part 3#6 1#6 2#5, .sstT .rlx .part 3#6 1#6 2#5, .spf .rlx .part 3#6 1#6 2#5,
        .srel .rlx .part 3#6 1#6, .spol .rlx .part 3#6 1#6 2#5],
      ∀ u ∈ [0, 1, 2], ∀ d ∈ [2 ^ 42 + 2 ^ 30, 2 ^ 24 + 0x400, 2 ^ 63], ∀ pool ∈ [0, 4096],
      ∀ l ∈ [[], [(0, tensor 3 0 false)], [(0, tensor 2 0 false)], [(0, tensor 1 7 false)], [(0, tensor 2 0 true)], [(0, tensor 2 6 false)]],
      let c := stashBusy i d u
      let s : State := { stCmd c with parts := [(0, partStash pool l)] }
      works s c .stash = true ∧ quiet s c = true ∧ stashBefore s c = false ∧ (∀ o ∈ s.cmds, o = c)) ∧
    (keyHome 0 = 0 ∧ (partStash 4096 []).stashCap = [4] ∧ sdPol (BitVec.ofNat 64 (2 ^ 42 + 2 ^ 30)) = 0 ∧ poolSize (partStash 4096 []) 0 0 = 4096 ∧
      poolSize (partStash 0 []) 0 2 = 0 ∧ (tensor 2 0 false).sizes = [32] ∧ ddNrow (BitVec.ofNat 64 (2 ^ 24 + 0x400)) = 1 ∧
      logRoom (partStash 0 []) = true ∧ logRoom { partStash 0 [] with logCap := some 0 } = false ∧
      sameR (partStash 0 []) ⟨0, 0, 3, 50000, srcStash 0, none, false, 0, 0, false⟩ = false) := by
  refine ⟨?_, ?_⟩ <;> decide +kernel

/-! Line words. -/

/-- A line word that runs, with its operands. -/
def lineBusy (i : Instr) (v : List Nat) (n : Nat) : Cmd := { busy i .line 0 0 with vals := v.map (BitVec.ofNat 64), counted := n }

/-- A descriptor of rule 0 whose lines are those at 0x10000, 0x11000 and so on, and its arming at 0x10000. -/
def sgd : OptDesc :=
  ⟨[0#64, 0x10000#64, 0x11000#64, 0x12000#64, 0x13000#64, 0x14000#64, 0#64, 0#64, 0#64, 0#64, 0#64, 0#64, 0#64, 0#64, 0#64, 0#64],
    [0x10000, 0x11000, 0x12000, 0x13000, 0x14000, 0, 0, 0], 1, 0⟩
def armed (core count acc : Nat) : Armed := ⟨0x10000, count, 0, sgd, core, acc⟩

/-- Slot 2 holds the descriptor; the named store has names of either kind. -/
def partLine (lines : List Armed) : Partition :=
  { partStore with slots := [⟨2, 0, 0, sgd⟩], lines := lines, names := partStore.names ++ [⟨0x50, 3, 1⟩], mirrors := [0, 1], secAt := some 0x50000 }
def stLine (p : Partition) (l : List Cmd) : State :=
  { st with cmds := l, parts := [(0, p)], mem := memWrite (fetchTables []) 0x12000 (sgd.dws.flatMap wordBytes) }

/-- What the clauses of a line word ask of a line of the own core's generic space at an address, as a test. -/
def opens (s : State) (c : Cmd) (a : Word) (n : Nat) (p : Perm) : Bool :=
  decide (lineIpa s c a n p = .ok a.toNat) && !homeHeld s c a.toNat n && (homeAns s c.part c.asid c.gen a a.toNat n (p == .write)).good

theorem witness_EngineCompletion_line :
    (∀ c ∈ [lineBusy (.lopt .part 3#6 1#6 2#5) [0x12000, 2] 0, lineBusy (.lexp .part 3#6 1#6 2#5) [0x10000, 1 + 2 * 2 ^ 44 + 2 ^ 43 + 2 ^ 48] 0,
        lineBusy (.lexp .part 3#6 1#6 2#5) [0x10000, 1 + 3 * 2 ^ 44] 0, lineBusy (.lexp .part 3#6 1#6 2#5) [0x10000, 1] 1,
        lineBusy (.lred .rlx .part 3#6 1#6 2#5) [0x10000, 0x100000] 0, lineBusy (.lqry .rlx .part 3#6 1#6) [0x10000] 0,
        lineBusy (.nlook .part 3#6 1#6 2#5) [0x100000, 0] 0, lineBusy (.nref .part 3#6 1#5) [0x50, 0] 0, lineBusy (.nref .part 3#6 1#5) [1, 0] 0,
        lineBusy (.nrel .rlx .part 3#6 1#5) [0x60, 0] 0, lineBusy (.nrel .rlx .part 3#6 1#5) [0x24, 0] 0, lineBusy (.nrel .rlx .part 3#6 1#5) [0x40, 0] 0,
        lineBusy (.nhas .part 3#6 1#5) [0x30, 0] 0, lineBusy (.nswap .rlx .part 3#6 1#6 2#3) [0x10010, 0, 0, 5, 6] 0,
        lineBusy (.nswap .rlx .part 3#6 1#6 2#3) [0x10010, 1, 0, 5, 6] 0, lineBusy (.nget .rlx .part 3#6 1#5 2#5) [0x400, 0x30, 0] 0,
        lineBusy (.nget .rlx .part 3#6 1#5 2#5) [2 ^ 63 + 0x400, 0x10010, 0] 0, lineBusy (.nout .part 3#6 1#5 2#4) [0x10000, 1, 0x30, 0] 0,
        lineBusy (.nout .part 3#6 1#5 2#4) [0x10000, 1, 0, 0] 1, lineBusy (.nxfer .rlx .part 3#6 1#5 2#5) [0, 0x50, 0] 0,
        lineBusy (.nxfer .rlx .part 3#6 1#5 2#5) [2, 0x50, 0] 0, lineBusy (.nxfer .rlx .part 3#6 1#5 2#5) [1, 0x50, 0] 0],
      ∀ l ∈ [[], [armed 0 2 0], [armed 0 1 0], [armed 1 2 5]], ∀ work ∈ [[], [1]],
      let d := { c with work := work }
      let s := stLine (partLine l) [d]
      works s d .line = true ∧ quiet s d = true ∧ lineBefore s d = false) ∧
    (let c := lineBusy (.lexp .part 3#6 1#6 2#5) [0x10000, 1 + 2 * 2 ^ 44 + 2 ^ 43 + 2 ^ 48] 0
     let s := stLine (partLine []) [c]
     opens s c 0x10000#64 256 .write = true ∧ opens s c 0x10010#64 16 .write = true ∧ opens s c 0x10000#64 256 .read = true ∧
     slotFor s (partLine []) 0 2 = some sgd ∧ slotFor s (partLine []) 0 3 = none ∧ armedFor s (partLine []) 0 0x10000 = none ∧
     armedFor s (partLine [armed 0 2 0]) 0 0x10000 = some (armed 0 2 0) ∧
     armedFor { s with acc := [access .store] } (partLine [armed 1 2 5]) 0 0x10000 = none ∧
     engGet s c 0x12000#64 32 = .ok ((sgd.dws.take 4).flatMap wordBytes) ∧ badDesc sgd.dws = false ∧
     descIpas s c sgd.dws = some [0x10000, 0x11000, 0x12000, 0x13000, 0x14000, 0, 0, 0] ∧
     homeAns s 0 1 0 0x10010#64 0x10010 16 false = .ok (List.replicate 16 0#8) ∧ leNat (List.replicate 16 0#8) = 0) := by
  refine ⟨?_, ?_⟩
  · decide +kernel
  · refine ⟨?_, ?_, ?_, ?_, ?_, ?_, ?_, ?_, ?_, ?_, ?_, ?_, ?_⟩ <;> decide +kernel

/-- A slice whose 2,048 counted lines are all armed. -/
theorem witness_EngineCompletion_full : ∃ p : Partition, armedAt p 0x10000 = none ∧ 2048 ≤ (p.lines.filter (fun a => a.slice == 0)).length := by
  refine ⟨partLine (List.replicate 2048 ⟨0x20000, 1, 0, sgd, 0, 0⟩), ?_, ?_⟩
  · simp [armedAt, partLine]
  · simp [partLine]

/-- The name of the line of zeros, and an interior line with one child. -/
def zeroName : Nat := 0xAD780511932AE5AE363D54DE69E00420
def innerRow (child : Nat) : List Byte := natBytes child 16 ++ List.replicate 240 0#8

/-- NLOOK of the line of zeros in a store that holds it, and of interior lines whose first child is no name and is away; NREL of an interior
line whose children can be read; NOUT of a leaf and of an interior root at depths 0 and 1; NXFER to the own node's mirror and to a partner
that takes the line, has no room, has other salts, or is out of reach. -/
theorem witness_EngineCompletion_names :
    (let p : Partition := { partLine [] with names := [⟨zeroName, 3, 1⟩] }
     nameAt p zeroName = some ⟨zeroName, 3, 1⟩ ∧ nameErr (stLine p []) p ⟨zeroName, 3, 1⟩ = none ∧
     nameData (stLine p []) p ⟨zeroName, 3, 1⟩ = List.replicate 256 0#8) ∧
    ((nameRow (partLine []) true (innerRow 1)).isSome = true ∧ badName 1 = true ∧ (childNames (innerRow 1)).headD 0 = 1) ∧
    ((nameRow (partLine []) true (innerRow 0x60)).isSome = true ∧ badName 0x60 = false ∧ nameAt (partLine []) 0x60 = none ∧
      (childNames (innerRow 0x60)).headD 0 = 0x60) ∧
    (nameAt (partLine []) 0x24 = some ⟨0x24, 0, 1⟩ ∧ (0x24).testBit 2 = true ∧ (0x50).testBit 2 = false ∧ (stLine (partLine []) []).bad = [] ∧
      (stLine (partLine []) []).poison = [] ∧ nameAt (partLine []) 0x40 = some ⟨0x40, 2, 0xFFFFFFFF⟩ ∧ nameAt (partLine []) 0x60 = none) ∧
    (leafAt (stLine (partLine []) []) (partLine []) 0 0 0x30 = .ok (List.replicate 256 0#8) ∧
      leafAt (stLine (partLine []) []) (partLine []) 0 1 0x30 = .status 0xE89 ∧ min (1 % 2 ^ 32) (16 ^ 0) = 1) ∧
    (∀ x ∈ [(⟨1, [9], [], [], 0, true, true, [], 1, true⟩ : Partner), ⟨1, [9], [], [], 0, true, true, [], 0, true⟩,
        ⟨1, [9], [], [], 0, true, false, [], 1, true⟩, ⟨1, [9], [], [], 0, true, true, [], 1, false⟩, ⟨1, [9], [], [], 0, false, true, [], 1, true⟩],
      let s : State := { stLine (partLine []) [] with partners := [x], dims := (4, 1, 1), node := 0, units := { Units.reset with links := 0xFFFF#16 } }
      partnerOf s 1 = x ∧ nodeRefuses s 0 1 true = false ∧ pathUp s true 0 1 = true ∧
      missingLines s (partLine []) 5 0x50 [] = [0x50] ∧ (partnerEnds x 0 = 0 ∨ partnerEnds x 0 ≠ 0)) ∧
    (partLine []).mirrors = [0, 1] ∧ kget (partLine []).mirrorTab 0 = none ∧ writeDropped (stLine (partLine []) []) (.pa 0x50000) 48 = false := by
  refine ⟨⟨?_, ?_, ?_⟩, ⟨?_, ?_, ?_⟩, ⟨?_, ?_, ?_, ?_⟩, ⟨?_, ?_, ?_, ?_, ?_, ?_, ?_⟩, ⟨?_, ?_, ?_⟩, ?_, ?_, ?_, ?_⟩ <;> decide +kernel

/-- A fired update of the line at 0x10000, of rules 0 and 1, with a name table and without, and with its count at the barrier. -/
theorem witness_EngineCompletion_update :
    ∀ w ∈ [0, 2 ^ 60, 2 ^ 59], let d : OptDesc := ⟨BitVec.ofNat 64 w :: sgd.dws.drop 1, [0x10000, 0x11000, 0x12000, 0x13000, 0x14000, 0x15000, 0x16000, 0x17000], 1, 0⟩
      let u : Update := ⟨7, 0x10000, d, none, 0, none, []⟩
      let p := { partLine [] with updates := [u] }
      let s := stLine p []
      partOf s 0 = some p ∧ u.fail = none ∧
      (∀ a ∈ [0x10000, 0x11000, 0x13000, 0x15000], (homeAns s 0 1 0 (BitVec.ofNat 64 a) a 256 false).good = true) ∧
      (∀ a ∈ [0x12000, 0x14000, 0x16000], (homeAns s 0 1 0 (BitVec.ofNat 64 a) a 256 true).good = true) ∧
      (homeAns s 0 1 0 0x17000#64 0x17000 16 true).good = true ∧ nameAt p zeroName = none := by
  decide +kernel

/-! Clauses at their edges. -/

/-- An engine's write that meets poison, of a copy and of a matrix command. -/
theorem witness_WritesPerform_command :
    (∀ e ∈ [Cls.copy, .matrix],
      let c := { busy (.cpyIn 0#6 0#6 0#16) e (2 ^ 58) 1 with id := 4 }
      let a := { access .eng with cmd := 4, nearAt := 1 }
      let s : State := { stPoison a with cmds := [c] }
      accOf s 5 = some a ∧ a.kind.writes = true ∧ a.denied = false ∧ a.parked s = false ∧ writeParked s a = false ∧ a.nearAt ≠ 0 ∧
      judge s 0 1 0 (.ipa 0x10008) 8 true = .err 8 (.pa 0x10008) (leafWord 0x10000) ∧ leafPpol (leafWord 0x10000) = 0 ∧
      cmdOf s 4 = some c ∧ c.phase ≠ .held ∧ (ctxOf s 0 .L).ended = false ∧ cpOp c.img ≠ 8) ∧
    writeCmd (stPoison (access .store)) (access .store) = none := by
  refine ⟨?_, ?_⟩ <;> decide +kernel

/-- A miss at an entry that the controller cannot read; a command of another device's page that its home refuses. -/
theorem witness_PagesAndRings_bad :
    (let s : State := { stAcc missing with poison := [0x200] }
     findDest s 0 1 0 (.ipa 0x20008) false = .miss true ∧ missing.parked s = false ∧ nearHeld s missing = false ∧ writeParked s missing = false) ∧
    (let c := cmd (.cpyIn 0#6 0#6 0#16) .copy .running
     cmdOf (stCmd c) 7 = some c ∧ accOf (stCmd c) 7 = none ∧ (1 : Nat) ≤ 1 ∧ (65535 : Nat) ≤ 65535) := by
  refine ⟨?_, ?_⟩ <;> decide +kernel

/-- A host read that consumes poison under a policy of 10. -/
theorem witness_HostMemory_reset :
    let l := leafWord 0x10000 ||| 0x0400000000000000#64
    hostAns { stLeaf l with poison := [0x801] } 0 0x100000000 64 false = .error 0x10000 8 (.pa 0x10000) l ∧ leafPpol l = 2 := by
  decide +kernel

/-- A partition destroyed while the LAUNCH of function 1 waits for its room. -/
theorem witness_PartitionCommands_waiting :
    let s := sent { stHost part0 with
      mail := [(1, { command := goBit, status := 0#64, payload := [], waiting := some (0, entry0), bell := 1 })] } 0 3 [0]
    Sent s 0 3 ∧ s.boot = .ready ∧ partOf s (payload s 0 0) = some part0 ∧ kwf s.mail = true ∧ (1 : Nat) ≠ 0 ∧
    (mailOf s 1).waiting = some (payload s 0 0, entry0) := by
  refine ⟨sentOf ?_, rfl, ?_, ?_, ?_, ?_⟩ <;> decide +kernel

/-- The answer to a release that waits for a page, denied and not. -/
theorem witness_DeviceCommands_release :
    ∀ v ∈ [0, 1],
      let p : Partition := { part0 with notices := [{ notice0 with core := 0x3FF, gang := none }], relWaits := [⟨1, 0x24, 0x40000⟩] }
      let s := sent (stHost p) 0 8 [1, v]
      Sent s 0 8 ∧ s.parts = [(0, p)] ∧ p.updates = [] ∧ (p.relWaits.map (fun r => r.notice)) = [payload s 0 0] ∧ payload s 0 8 % 2 = v := by
  intro v hv
  refine ⟨sentOf ?_, rfl, rfl, ?_, ?_⟩ <;> (revert v; decide +kernel)

/-- The last reference of an interior line that cannot be read. -/
theorem witness_MemoryUnits_release :
    0x24 ∈ partStore.releases ∧ nameAt partStore 0x24 = some ⟨0x24, 0, 1⟩ ∧ (0x24).testBit 2 = true ∧
    0x2000 ∈ granulesOf (lineAddr partStore 0) 256 := by decide +kernel

/-- A context whose packet's page no table maps, and one whose packet meets poison under a policy of 10. -/
theorem witness_PacketIssues_fetch :
    (let s : State := { st with mem := memWrite (fetchTables []) 0x4008 (wordBytes 0#64) }
     fetch s fetchTask 0 0x10000#64 = .miss 0x10000 false) ∧
    (let l := leafWord 0x10000 ||| 0x0400000000000000#64
     let s : State := { st with mem := memWrite (fetchTables []) 0x4008 (wordBytes l), poison := [0x800] }
     fetch s fetchTask 0 0x10000#64 = .error 8 0x10000 (.pa 0x10000) l ∧ leafPpol l = 2) := by
  refine ⟨?_, ?_⟩ <;> decide +kernel

/-- VFENCE behind two failed vector accesses, the later of which no earlier FENCE covers. -/
theorem witness_FenceWords_drops :
    let c : Ctx := { ctxOf st 0 .C with drops := [⟨4, 16, 0x10008#64⟩, ⟨8, 16, 0x10010#64⟩], fences := [⟨9, 6, 1#16, .core, []⟩] }
    (∃ g ∈ c.fences, ¬(g.at_ ≤ 4) ∧ g.scope ≠ .ctx) ∧ ∀ g ∈ c.fences, g.at_ ≤ 8 := by decide

/-- A close that comes again for a channel of this device whose peer has opened it again. -/
theorem witness_Messages_again :
    endOf [⟨3, 9, 1, 4, 96, true, false⟩, ⟨3, 8, 1, 4, 64, false, false⟩] 3 9 1 4 = some ⟨3, 9, 1, 4, 96, true, false⟩ ∧
    pieceHeld (stRecv 0 true []) ⟨9, 0, 0, 1, 1, 1, 0, 0x1000, 0x20, List.replicate 32 0x5#8, false, 0, 0, 5⟩ = false := by
  refine ⟨?_, ?_⟩ <;> decide +kernel

theorem witness_MemoryStaysCanonical_scratch : State.reset.memoryWf = true ∧ st.memoryWf = true := ⟨rfl, by decide +kernel⟩

end Sys2Proof.Tests
end

section
namespace Sys2Proof.Machine

/-! What every exec answers (R49, R163, R164): an event acts at once, and a word, whatever it meets, traps, waits or acts; no arm
of the model faults or refuses. -/

/-- Every branch of a word's issue, its traps and its waits with it, is a next state. -/
theorem issueWord_next (i : Instr) (fault : Issue → State → Option (Nat × Word)) (fx : Issue → State → State) (s : State) :
    ∃ t, issueWord i fault fx s = .next t := by
  unfold issueWord
  cases s.issue with
  | none => exact ⟨_, rfl⟩
  | some f =>
    dsimp only
    repeat' split
    all_goals exact ⟨_, rfl⟩

theorem exec_word_next (i : Instr) (s : State) (h : isWord i = true) : ∃ t, exec i s = .next t := by
  cases i <;> cases h <;> dsimp only [exec] <;> apply issueWord_next

theorem exec_event_next (i : Instr) (s : State) (h : isWord i = false) : ∃ t, exec i s = .next t := by
  cases i <;> cases h <;> exact ⟨_, rfl⟩

theorem exec_next (i : Instr) (s : State) : ∃ t, exec i s = .next t := by
  cases h : isWord i with
  | true => exact exec_word_next i s h
  | false => exact exec_event_next i s h

/-! Which step comes next (log entry 1), and what follows it (R6, R22). -/

theorem nextStep_of_agenda {s : State} {i : Instr} {rest : List Instr} (h : s.agenda = i :: rest) : nextStep s = i := by
  simp [nextStep, h]

/-- Rotation picks one of the module's own steps; with none, an issue of context L of core 0. -/
theorem nextStep_of_moduleSteps {s : State} (h : s.agenda = []) :
    nextStep s ∈ moduleSteps s ∨ moduleSteps s = [] ∧ nextStep s = .packetIssue 0 .L := by
  simp only [nextStep, h]
  cases hl : moduleSteps s with
  | nil => exact .inr ⟨rfl, rfl⟩
  | cons a l =>
    left
    rw [List.getD_eq_getElem _ _ (Nat.mod_lt _ (List.length_pos_of_mem List.mem_cons_self))]
    exact List.getElem_mem _

theorem takeAgenda_of_agenda {s : State} {i : Instr} {rest : List Instr} (h : s.agenda = i :: rest) :
    takeAgenda s = { s with agenda := rest } := by
  simp [takeAgenda, h]

theorem takeAgenda_of_nil {s : State} (h : s.agenda = []) : takeAgenda s = s := by
  have hdrop : s.agenda.drop 1 = s.agenda := by simp [h]
  rw [takeAgenda, hdrop]

theorem paceOf_eq_headD (s : State) : paceOf s = s.pace.headD 1 := by
  unfold paceOf
  cases s.pace <;> rfl

theorem afterStep_eq (s : State) : afterStep s = settle { advance s (s.pace.headD 1) with pace := s.pace.drop 1 } := by
  rw [afterStep, paceOf_eq_headD]

theorem step_of_exec {s t : State} (h : exec (nextStep s) (takeAgenda s) = .next t) : step s = .next (afterStep t) := by
  simp [step, h]

/-- Settles O56: nextStep and takeAgenda say which event acts and in which state, exec_next that it answers a next state, and
afterStep what follows. -/
theorem stepRunsAgenda : Obligations.StepRunsAgenda := by
  intro s
  simp only [← afterStep_eq]
  constructor
  · intro i rest t hs hexec
    apply step_of_exec
    rwa [nextStep_of_agenda hs, takeAgenda_of_agenda hs]
  · intro hs
    obtain ⟨t, ht⟩ := exec_next (nextStep s) s
    refine ⟨nextStep s, t, nextStep_of_moduleSteps hs, ht, step_of_exec ?_⟩
    rwa [takeAgenda_of_nil hs]

end Sys2Proof.Machine
end

section
namespace Sys2Proof.Machine

/-! Reset (R416). -/

/-- Settles O59: the parts that reset sets are read off State.reset, and a table that lists nothing gives its default. -/
theorem resetValues : Obligations.ResetValues := by
  refine ⟨rfl, rfl, rfl, rfl, rfl, rfl, rfl, rfl, rfl, rfl, fun _ => rfl, fun _ => ?_, fun _ => rfl, rfl, rfl, rfl⟩
  change (default : Mailbox).command.getLsbD 63 = false
  decide

/-! What the words of the vector unit and of the engines that reply are sent with (R11, R151, R219). -/

/-- A read that a word does acquires: what happens before its context's next packet only grows (R142). -/
theorem Ctx.acquire_hb (c : Ctx) (rs : List RegNo) : ∀ n ∈ c.hb, n ∈ (c.acquire rs).hb := by
  induction rs generalizing c with
  | nil => exact fun n hn => hn
  | cons r rs ih =>
    intro n hn
    have hstep : n ∈ (c.acquire [r]).hb := by
      simp only [Ctx.acquire, List.foldl_cons, List.foldl_nil]
      split
      · exact hn
      · exact List.mem_append_left _ hn
    exact ih _ n hstep

/-- What a release covers is covered still after the reads of its word (R151). -/
theorem coveredAt_acquire (s : State) (f : Issue) (rs : List RegNo) :
    ∀ n ∈ coveredAt s f.core f.ctx, n ∈ coveredAt (frameCtx s f (fun c => c.acquire rs)) f.core f.ctx := by
  intro n hn
  simp only [coveredAt, unionNat, hbOf, List.mem_append, List.mem_filter, Bool.not_eq_true', ctxOf_frameCtx] at hn ⊢
  rcases hn with hn | ⟨⟨hb, hp⟩, ho⟩
  · exact .inl hn
  · exact .inr ⟨⟨Ctx.acquire_hb _ rs n hb, hp⟩, ho⟩

/-- The command of a word of class 0xB, 0xD, 0xE or 0xF, as it stands after its reads; footprints are free. -/
theorem wordCmd_sent (i : Instr) (e : Cls) (s : State) (f : Issue) (rs : List RegNo) (r w : List Extent) :
    let c := { wordCmd i e f (frameCtx s f (fun c => c.acquire rs)) with reads := r, writes := w }
    c.sentBy i e s f ∧ c.vals = (srcRegs i).map (fun r => f.rd r.1) ∧ c.waits = ownPending s f.core f.ctx ∧
      (releases (ordScope i).1 = true → ∀ n, n ∈ coveredAt s f.core f.ctx → n ∈ c.farWaits) ∧
      (releases (ordScope i).1 = false → c.farWaits = []) := by
  refine ⟨⟨rfl, rfl, rfl, rfl, rfl, rfl, rfl, rfl, rfl, rfl, rfl, rfl, rfl⟩, rfl, rfl, fun h n hn => ?_, fun h => ?_⟩
  · simpa [wordCmd, h, coveredBy] using coveredAt_acquire s f rs n hn
  · simp [wordCmd, h]

/-- A word whose effect is to dispatch its command, with some footprints, is sent. -/
theorem wordCmd_sends {s : State} {f : Issue} {i : Instr} (e : Cls) {fault : Issue → State → Option (Nat × Word)}
    {fx : Issue → State → State} (h : Acting s f) (he : exec i s = issueWord i fault fx s)
    (hf : ∀ u, ∃ r w, fx f u = dispatch { wordCmd i e f u with reads := r, writes := w } (fillRegs i) f u) :
    ∃ c, Sends i s f (fillRegs i) c ∧ c.sentBy i e s f ∧ c.vals = (srcRegs i).map (fun r => f.rd r.1) ∧
      c.waits = ownPending s f.core f.ctx ∧
      (releases (ordScope i).1 = true → ∀ n, n ∈ coveredAt s f.core f.ctx → n ∈ c.farWaits) ∧
      (releases (ordScope i).1 = false → c.farWaits = []) := by
  refine Sends.of_dispatch (fun c => c.sentBy i e s f ∧ _) h he fun rs => ?_
  obtain ⟨r, w, hd⟩ := hf (frameCtx s f (fun c => c.acquire rs))
  exact ⟨_, hd, rfl, rfl, wordCmd_sent i e s f rs r w⟩

/-- Settles O33: an atomic, stash, line or scheduler word is the dispatch of its wordCmd, of which wordCmd_sent says all. -/
theorem replyWordsSent : Obligations.ReplyWordsSent := by
  intro s f i e h hc he hp
  rcases he with rfl | rfl | rfl | rfl
  · exact wordCmd_sends .atomic h (exec_atomic i s hc) fun u => ⟨[], [], rfl⟩
  · exact wordCmd_sends .stash h (exec_stash i s hc) fun u => ⟨_, _, rfl⟩
  · exact wordCmd_sends .line h (exec_line i s hc) fun u => ⟨_, _, rfl⟩
  · exact wordCmd_sends .sched h (exec_sched i s hc hp) fun u => ⟨[], [], rfl⟩

/-- What a vector word is bound to as it is sent (R219). -/
def VectorBound (i : Instr) (s : State) (f : Issue) (c : Cmd) : Prop :=
  c.sentBy i .vector s f ∧ c.vals = (srcRegs i).map (fun r => f.rd r.1) ∧ c.vtype = f.vtype ∧ c.vwin = f.vwin ∧
  c.ports = f.ports

/-- A vector word is the dispatch of a command that is so bound; u has the numbers of s. -/
theorem issueVector_dispatch (i : Instr) {s u : State} (f : Issue) (hid : u.nextId = s.nextId) :
    ∃ c, issueVector i f u = dispatch c (fillRegs i) f u ∧ c.core = f.core ∧ c.id = s.nextId ∧ VectorBound i s f c :=
  ⟨_, rfl, rfl, hid, ⟨rfl, rfl, rfl, rfl, rfl, rfl, hid, hid, rfl, rfl, rfl, rfl, rfl⟩, rfl, rfl, rfl, rfl⟩

theorem kput_kput {α : Type} (m : KMap α) (k : Nat) (v w : α) : kput (kput m k v) k w = kput m k w := by
  induction m with
  | nil => simp [kput]
  | cons e m ih =>
    obtain ⟨k', v'⟩ := e
    rcases Nat.lt_trichotomy k k' with h | h | h
    · simp [kput, h]
    · simp [kput, h]
    · have h1 : ¬ k < k' := by omega
      have h2 : ¬ k = k' := by omega
      simp [kput, h1, h2, ih]

/-- A change of a core's vector state and one of a context come to the same in either order. -/
theorem modCore_vec_frameCtx (s : State) (f : Issue) (g : Ctx → Ctx) (h : Vec → Vec) :
    modCore (frameCtx s f g) f.core (fun k => { k with vec := h k.vec }) =
      frameCtx (modCore s f.core (fun k => { k with vec := h k.vec })) f g := by
  simp only [frameCtx, modCtx, setCtx, modCore, setCore, ctxOf, coreOf, kgetD_kput_same, kput_kput]
  cases f.ctx <;> rfl

/-- VWIN's sum of the window and a register (R237). -/
theorem vwin_moved (a b : Word) : BitVec.ofNat 64 ((wbits a 11 0 + b.toNat) % 4096) =
    w64 ((a.toNat % 4096 + b.toNat) % 4096 : Nat) := by
  rw [w64, BitVec.ofInt_natCast]
  simp [wbits]

/-- VWIN moves the window and is sent as the window stood before (R219, R237). -/
theorem vwin_sent (s : State) (f : Issue) (xb : RegNo) (h : Acting s f) :
    ∃ t c, exec (.vwin xb) s = .next t ∧
      SentTo (modCore s f.core (fun k => { k with vec := { k.vec with
        vwin := w64 ((f.vwin.toNat % 4096 + (f.rd xb).toNat) % 4096 : Nat) } })) t f [] c ∧
      c.sentBy (.vwin xb) .vector s f ∧ c.vals = [f.rd xb] := by
  have he : exec (.vwin xb) s = execVwin xb s := rfl
  rw [execVwin, issueWord_checked h] at he
  simp only [actWord, vwin_moved] at he
  generalize (needsOf (coreOf s f.core) f.snap (.vwin xb)).src.map (fun r => r.1) = rs at he
  rw [modCore_vec_frameCtx s f (fun c => c.acquire rs) (fun v => { v with vwin := w64 _ })] at he
  generalize hs : modCore s f.core (fun k => { k with vec := { k.vec with vwin := w64 _ } }) = s' at he ⊢
  have hid : (frameCtx s' f (fun c => c.acquire rs)).nextId = s.nextId := by rw [← hs]; rfl
  obtain ⟨c, hd, hcore, hn, hb, hv, _⟩ := issueVector_dispatch (.vwin xb) f hid
  obtain ⟨a, b, o, d, r⟩ := acquired_state s' f rs
  exact ⟨_, c, he, by rw [hd]; exact SentTo.of_dispatch hcore (hn.trans hid.symm) a b o d r, hb, hv⟩

/-- Settles O29: a vector word is the dispatch of a command that is bound as issueVector_dispatch says, VWIN's after the window has
moved. -/
theorem vectorSent : Obligations.VectorSent := by
  intro s f i xb h
  refine ⟨fun hc hw hv => ?_, vwin_sent s f xb h⟩
  exact Sends.of_dispatch (VectorBound i s f) h (exec_vector i s hc hw hv) fun rs => issueVector_dispatch i f rfl

end Sys2Proof.Machine
end

section
namespace Sys2Proof.Machine

/-! Holds, the queues' entries, the tracker, and the start of a command (R14, R81, R83). -/

theorem kget_mapKey {α β : Type} (m : KMap α) (g : Nat → α → β) (n : Nat) :
    kget (m.map (fun k => (k.1, g k.1 k.2))) n = (kget m n).map (g n) := by
  induction m with
  | nil => rfl
  | cons e m ih =>
    obtain ⟨k, v⟩ := e
    by_cases h : k = n
    · simp [kget, h]
    · simp only [List.map_cons, kget, h, if_false, ih]

/-- What cycles leave of a core: its contexts' holds run, unless its gang is saved (R81). -/
theorem coreOf_advance (s : State) (n core : Nat) :
    coreOf (advance s n) core =
      if coreSaved s core then coreOf s core else (coreOf s core).modCtxs (fun c => c.spend n) := by
  have hreset : Core.reset = Core.reset.modCtxs (fun c => c.spend n) := by
    simp [Core.modCtxs, Ctx.spend, Core.reset, Ctx.reset]
  simp only [coreOf, kgetD, advance]
  rw [kget_mapKey s.cores (fun k v => if coreSaved s k then v else v.modCtxs (fun c => c.spend n))]
  cases kget s.cores core with
  | some k => rfl
  | none => simp [← hreset]

theorem ctxOf_advance (s : State) (n core : Nat) (i : CtxId) (h : coreSaved s core = false) :
    ctxOf (advance s n) core i = (ctxOf s core i).spend n := by
  simp only [ctxOf, coreOf_advance, h]
  cases i <;> rfl

theorem holdExpiry_runs_out (s : State) (core : Nat) (i : CtxId) (hold : (ctxOf s core i).hold ≠ 0)
    (saved : coreSaved s core = false) :
    ∃ t, exec (.holdExpiry core i) s = .next t ∧ { t with pace := s.pace } = s ∧
      (ctxOf (advance t (paceOf t)) core i).hold = 0 := by
  refine ⟨{ s with pace := (ctxOf s core i).hold :: s.pace.drop 1 }, ?_, rfl, ?_⟩
  · change Host.Outcome.next _ = _
    rw [if_neg hold]
  · rw [ctxOf_advance _ _ _ _ (by exact saved)]
    exact Nat.sub_self _

/-- The context of a number of issue-slot order. -/
def ctxNumbered (n : Nat) : CtxId := if n = 0 then .L else if n = 1 then .C else .S

theorem ctxNumbered_num (i : CtxId) : ctxNumbered i.num = i := by cases i <;> rfl

theorem ctxId_num_lt (i : CtxId) : i.num < 3 := by cases i <;> decide

/-- The first of the three numbers after last, in round robin, that waits: no other that waits comes before it (R83). -/
theorem roundRobin_first (l : List Nat) (last : Nat) (hl : last < 3) (i : CtxId) (hi : i.num ∈ l) :
    ∃ w : CtxId, (([(last + 1) % 3, (last + 2) % 3, last].find? (fun n => l.contains n)).getD 0) = w.num ∧ w.num ∈ l ∧
      ∀ o : CtxId, o.num ∈ l → (w.num + 2 - last) % 3 ≤ (o.num + 2 - last) % 3 := by
  have hall : ∀ n < 3, ∃ w : CtxId, w.num = n := fun n hn => by
    have : n = 0 ∨ n = 1 ∨ n = 2 := by omega
    rcases this with rfl | rfl | rfl
    exacts [⟨.L, rfl⟩, ⟨.C, rfl⟩, ⟨.S, rfl⟩]
  by_cases h1 : (last + 1) % 3 ∈ l
  · obtain ⟨w, hw⟩ := hall ((last + 1) % 3) (by omega)
    refine ⟨w, by simp [h1, hw], hw ▸ h1, fun o _ => ?_⟩
    rw [hw]; omega
  by_cases h2 : (last + 2) % 3 ∈ l
  · obtain ⟨w, hw⟩ := hall ((last + 2) % 3) (by omega)
    refine ⟨w, by simp [h1, h2, hw], hw ▸ h2, fun o ho => ?_⟩
    have := ctxId_num_lt o
    have : o.num ≠ (last + 1) % 3 := fun e => h1 (e ▸ ho)
    rw [hw]; omega
  · have key : ∀ o : CtxId, o.num ∈ l → o.num = last := fun o ho => by
      have := ctxId_num_lt o
      have : o.num ≠ (last + 1) % 3 := fun e => h1 (e ▸ ho)
      have : o.num ≠ (last + 2) % 3 := fun e => h2 (e ▸ ho)
      omega
    have h3 : last ∈ l := key i hi ▸ hi
    refine ⟨i, by simp [h1, h2, h3, key i hi], hi, fun o ho => ?_⟩
    rw [key i hi, key o ho]

theorem two_le_length {l : List Nat} {i j : CtxId} (h : i ≠ j) (hi : i.num ∈ l) (hj : j.num ∈ l) : 2 ≤ l.length := by
  match l, hi, hj with
  | [n], hi, hj =>
    rw [List.mem_singleton] at hi hj
    exact absurd (by rw [← ctxNumbered_num i, ← ctxNumbered_num j, hi, hj]) h
  | _ :: _ :: l, _, _ => simp

theorem queueEntryGrant_next (s : State) (core : Nat) (e : Cls) (l : List Nat) (i j : CtxId)
    (hg : kget (coreOf s core).grants e.code = none) (hw : kget (coreOf s core).waiting e.code = some l)
    (hij : i ≠ j) (hi : i.num ∈ l) (hj : j.num ∈ l) (hq : queueLength s core e < 32) :
    let k := coreOf s core
    let last := match kget k.won e.code with
      | some w => w.num
      | none => 2
    ∃ w t, exec (.queueEntryGrant core e) s = .next t ∧ { t with cores := s.cores } = s ∧ OnlyCore s t core ∧
      coreOf t core = { k with grants := kput k.grants e.code w, won := kput k.won e.code w } ∧
      w.num ∈ l ∧ ∀ o : CtxId, o.num ∈ l → (w.num + 2 - last) % 3 ≤ (o.num + 2 - last) % 3 := by
  intro k last
  have hlast : ((kget k.won e.code).map CtxId.num).getD 2 = last := by
    simp only [last]
    cases kget k.won e.code <;> rfl
  have hlt : last < 3 := by
    simp only [last]
    cases kget k.won e.code with
    | none => decide
    | some w => exact ctxId_num_lt w
  obtain ⟨w, hn, hwl, hleast⟩ := roundRobin_first l last hlt i hi
  have hnext : queueNext k e l = w.num := by
    rw [← hn, queueNext, hlast]
  have hlen := two_le_length hij hi hj
  refine ⟨w, modCore s core (fun k => { k with grants := kput k.grants e.code w, won := kput k.won e.code w }), ?_, rfl,
    fun n hne => coreOf_modCore_ne s core n _ hne, by rw [coreOf_modCore_same], hwl, hleast⟩
  have hwait : queueWaiting k e = l := by simp [queueWaiting, kgetD, k, hw]
  have hcond : ((kget k.grants e.code).isSome || decide (l.length < 2) || decide (Config.queueDepth ≤ queueLength s core e)) = false := by
    simp only [k, hg, Config.queueDepth, Option.isSome_none, Bool.false_or, Bool.or_eq_false_iff, decide_eq_false_iff_not]
    exact ⟨Nat.not_lt.mpr hlen, decide_eq_false (Nat.not_le.mpr hq)⟩
  change execQueueEntryGrant core e s = _
  simp only [execQueueEntryGrant]
  rw [show coreOf s core = k from rfl, hwait, hnext, hcond]
  rw [← ctxNumbered, ctxNumbered_num]
  rfl

theorem meetsAny_iff (x y : List Extent) : meetsAny x y = true ↔ ∃ a ∈ x, ∃ b ∈ y, a.Shares b := by
  simp [meetsAny, meets_iff]

theorem owes_iff (c o : Cmd) : owes c o = true ↔
    (∃ x ∈ c.reads, ∃ y ∈ o.writes, x.Shares y) ∨ ∃ x ∈ c.writes, ∃ y ∈ o.reads ++ o.writes, x.Shares y := by
  simp only [owes, Bool.or_eq_true, meetsAny_iff, List.mem_append, or_assoc]
  refine or_congr_right ⟨?_, ?_⟩
  · rintro (⟨x, hx, y, hy, h⟩ | ⟨x, hx, y, hy, h⟩)
    exacts [⟨x, hx, y, .inl hy, h⟩, ⟨x, hx, y, .inr hy, h⟩]
  · rintro ⟨x, hx, y, hy | hy, h⟩
    exacts [.inl ⟨x, hx, y, hy, h⟩, .inr ⟨x, hx, y, hy, h⟩]

theorem mem_cmds_of_cmdOf {s : State} {n : Nat} {c : Cmd} (h : cmdOf s n = some c) : c ∈ s.cmds := List.mem_of_find?_eq_some h

/-- A change of one command, which keeps its number. -/
theorem modCmd_changes {s : State} {c : Cmd} (g : Cmd → Cmd) (hg : ∀ x, (g x).id = x.id) (h : cmdOf s c.id = some c) :
    { modCmd s c.id g with cmds := s.cmds } = s ∧ OnlyCmd s (modCmd s c.id g) c.id ∧ cmdOf (modCmd s c.id g) c.id = some (g c) :=
  ⟨rfl, fun m hm => cmdOf_modCmd_ne s c.id m g hg hm, cmdOf_modCmd_same s c.id g hg c h⟩

theorem trackerAdmit_oldest (s : State) (c : Cmd) (hc : cmdOf s c.id = some c) (ht : c.cls.tracked = true)
    (hp : c.phase = .queued)
    (hold : ∀ d ∈ s.cmds, d.core = c.core → d.cls.tracked = true → d.phase = .queued → d = c ∨ c.disp < d.disp)
    (hroom : (tracked s c.core).length < 32) (hs : ∀ g, gangOf s c.gang = some g → g.saved = false) :
    ∃ t edges, exec (.trackerAdmit c.core) s = .next t ∧ { t with cmds := s.cmds } = s ∧ OnlyCmd s t c.id ∧
      cmdOf t c.id = some { c with phase := .admitted, edges := c.edges ++ edges } ∧
      ∀ n, n ∈ edges ↔ ∃ o ∈ s.cmds, o.id = n ∧ o.core = c.core ∧ o.cls.tracked = true ∧ o.phase ≠ .queued ∧
        ((∃ x ∈ c.reads, ∃ y ∈ o.writes, x.Shares y) ∨ ∃ x ∈ c.writes, ∃ y ∈ o.reads ++ o.writes, x.Shares y) := by
  have hmem := mem_cmds_of_cmdOf hc
  have holdest : oldestCmd (s.cmds.filter (fun d => d.core == c.core && d.cls.tracked && d.phase == .queued)) = some c := by
    refine oldest_some _ c (by simp [hmem, ht, hp]) fun d hd => ?_
    simp only [List.mem_filter, Bool.and_eq_true, beq_iff_eq] at hd
    obtain ⟨hd, ⟨h1, h2⟩, h3⟩ := hd
    exact hold d hd h1 h2 h3
  have hgo : ¬ (Config.trackerDepth ≤ (tracked s c.core).length ∨ (gangOf s c.gang).any (fun g => g.saved) = true) := by
    rintro (h | h)
    · exact absurd hroom (Nat.not_lt.mpr h)
    · obtain ⟨g, hg, h⟩ := (Option.any_eq_true _ _).mp h
      simp [hs g hg] at h
  let edges := ((tracked s c.core).filter (fun o => owes c o)).map (fun o => o.id)
  obtain ⟨hrest, honly, hcmd⟩ := modCmd_changes (fun x => { x with phase := .admitted, edges := x.edges ++ edges }) (fun _ => rfl) hc
  refine ⟨_, edges, ?_, hrest, honly, hcmd, fun n => ?_⟩
  · change execTrackerAdmit c.core s = _
    simp only [execTrackerAdmit, holdest, hgo, if_false, edges]
  · simp only [edges, tracked, List.mem_map, List.mem_filter, owes_iff, Bool.and_eq_true, beq_iff_eq, bne_iff_ne, ne_eq]
    constructor
    · rintro ⟨o, ⟨⟨h1, ⟨h2, h3⟩, h4⟩, h5⟩, rfl⟩
      exact ⟨o, h1, rfl, h2, h3, h4, h5⟩
    · rintro ⟨o, h1, rfl, h2, h3, h4, h5⟩
      exact ⟨o, ⟨⟨h1, ⟨h2, h3⟩, h4⟩, h5⟩, rfl⟩

theorem edgesDone_iff (s : State) (c : Cmd) : edgesDone s c = true ↔ ∀ n ∈ c.edges, cmdOf s n = none := by
  simp [edgesDone]

theorem commandStart_eq {s : State} {c : Cmd} (h : cmdOf s c.id = some c) :
    exec (.commandStart c.id) s = .next (if mayStart s c then modCmd s c.id (fun c => { c with phase := .running }) else s) := by
  change execCommandStart c.id s = _
  simp only [execCommandStart, h]

theorem commandStart_starts {s : State} {c : Cmd} (h : cmdOf s c.id = some c) (hp : c.phase = .admitted)
    (ht : c.cls.tracked = true) (hw : waitsDone s c = true) (hg : gangRuns s c = true) (he : engineFree s c = true)
    (hd : ∀ n ∈ c.edges, cmdOf s n = none) :
    ∃ t, exec (.commandStart c.id) s = .next t ∧ { t with cmds := s.cmds } = s ∧ OnlyCmd s t c.id ∧
      cmdOf t c.id = some { c with phase := .running } := by
  have hm : mayStart s c = true := by simp [mayStart, hp, ht, hw, hg, he, (edgesDone_iff s c).mpr hd]
  exact ⟨_, by rw [commandStart_eq h, if_pos hm],
    modCmd_changes (fun c => { c with phase := .running }) (fun _ => rfl) h⟩

theorem commandStart_waits {s : State} {c : Cmd} (h : cmdOf s c.id = some c) (hd : ∃ n ∈ c.edges, cmdOf s n ≠ none) :
    exec (.commandStart c.id) s = .next s := by
  have he : edgesDone s c = false := by
    obtain ⟨n, hn, hx⟩ := hd
    rw [← Bool.not_eq_true, edgesDone_iff]
    exact fun hall => hx (hall n hn)
  rw [commandStart_eq h, if_neg (by simp [mayStart, he])]

/-- Settles O35: one lemma for each of the four events. -/
theorem queuesAndTracker : Obligations.QueuesAndTracker := by
  refine ⟨holdExpiry_runs_out, queueEntryGrant_next, trackerAdmit_oldest, fun s c h hp ht => ⟨?_, ?_⟩⟩
  · exact fun hw hg he hd => commandStart_starts h hp ht hw hg he hd
  · exact fun hd => commandStart_waits h hd

end Sys2Proof.Machine
end

section
namespace Sys2Proof.Machine

/-! The module: its log, its interrupts, its throttle, its risk and its bring-up (R28, R408, R412, R415, R416). -/

/-- An event stands behind those of a later place, and before every other (R24). -/
theorem insertHealth_split (l : List Health) (e : Health) :
    ∃ a b, l = a ++ b ∧ insertHealth l e = a ++ e :: b ∧ (∀ x ∈ a, e.key < x.key) ∧ ∀ x, b.head? = some x → x.key ≤ e.key := by
  induction l with
  | nil => exact ⟨[], [], by simp [insertHealth]⟩
  | cons x l ih =>
    by_cases h : e.key < x.key
    · obtain ⟨a, b, hl, hi, ha, hb⟩ := ih
      refine ⟨x :: a, b, by rw [hl]; rfl, by simp [insertHealth, h, hi], fun y hy => ?_, hb⟩
      rcases List.mem_cons.mp hy with rfl | hy
      · exact h
      · exact ha y hy
    · exact ⟨[], x :: l, rfl, by simp [insertHealth, h], by simp, by simpa using Nat.not_lt.mp h⟩

/-- An event of the health monitor's log, said in the terms of Logged. -/
theorem logged_healthEvent (s : State) (input src : Nat) : Logged s (healthEvent s input src) input src := by
  obtain ⟨a, b, hl, hi, ha, hb⟩ := insertHealth_split s.health ⟨input, s.tsc, src⟩
  exact ⟨a, b, hl, hi, ha, hb⟩

theorem raiseFn_fold (l : List (Nat × Nat)) (s : State) :
    l.foldl (fun s v => raiseFn s v.1 v.2) s =
      { s with msix := l.reverse.filter (fun v => !s.masked.contains v) ++ s.msix } := by
  induction l generalizing s with
  | nil => rfl
  | cons v l ih =>
    rw [List.foldl_cons, ih, raiseFn_eq]
    simp only [List.reverse_cons, List.filter_append, List.append_assoc]

/-- The vectors that a vector on every function with control raises, latest first (R408). -/
def toldAll (s : State) (vec : Nat) : List (Nat × Nat) :=
  ((s.vfs.filter (fun b => b.2.control)).map (fun b => (b.1 + 1, vec))).reverse ++ [(0, vec)]

theorem raiseAll_eq (s : State) (vec : Nat) :
    raiseAll s vec = { s with msix := (toldAll s vec).filter (fun v => !s.masked.contains v) ++ s.msix } := by
  have h := raiseFn_fold ((0, vec) :: (s.vfs.filter (fun b => b.2.control)).map (fun b => (b.1 + 1, vec))) s
  rw [List.foldl_cons, List.foldl_map, List.reverse_cons] at h
  exact h

/-- An event that is logged and told to every function with control: u is the state but for the two. -/
theorem told_event (s u : State) (input : Nat) (hh : u.health = s.health) (hm : u.msix = s.msix) (ht : u.tsc = s.tsc)
    (hv : u.vfs = s.vfs) (hk : u.masked = s.masked) :
    let t := raiseAll (healthEvent u input srcManager) 3
    { t with health := s.health, msix := s.msix } = u ∧ Logged s t input 0xC2 ∧ Raises s t (toldAll s 3) := by
  intro t
  have e : t = { healthEvent u input srcManager with msix := (toldAll s 3).filter (fun v => !s.masked.contains v) ++ s.msix } := by
    simp only [t, raiseAll_eq, healthEvent, toldAll, hv, hk, hm]
  rw [e]
  refine ⟨?_, ?_, rfl⟩
  · rw [← hh, ← hm]; rfl
  · obtain ⟨a, b, hl, hi, ha, hb⟩ := logged_healthEvent s input srcManager
    refine ⟨a, b, hl, ?_, ha, hb⟩
    change insertHealth u.health ⟨input, u.tsc, srcManager⟩ = _
    rw [hh, ht]
    exact hi

theorem throttleEngage_hot (s : State) (die temp : Nat) (hd : die < 4) (hs : s.throttled = false) (h : 840 ≤ temp) :
    ∃ t, exec (.throttleEngage die temp) s = .next t ∧
      { t with health := s.health, msix := s.msix } =
        { s with temps := s.temps.set die temp, throttled := true, throttles := s.throttles + 1 } ∧
      Logged s t 4 0xC2 ∧ Raises s t (toldAll s 3) := by
  refine ⟨_, ?_, told_event s
    { s with temps := s.temps.set die temp, throttled := true, throttles := s.throttles + 1 } 4 rfl rfl rfl rfl rfl⟩
  change execThrottleEngage die temp s = _
  simp only [execThrottleEngage, hs, hd, h, and_self, if_true]

theorem throttleEngage_cool (s : State) (die temp : Nat) (h : temp < 840) :
    exec (.throttleEngage die temp) s = .next { s with temps := s.temps.set die temp } := by
  change execThrottleEngage die temp s = _
  have : ¬ 840 ≤ temp := by omega
  simp only [execThrottleEngage, this, and_false, if_false]

theorem throttleRelease_cool (s : State) (temps : List Nat) (hl : temps.length = 4) (hs : s.throttled = true)
    (h : ∀ x ∈ temps, x < 760) :
    ∃ t, exec (.throttleRelease temps) s = .next t ∧
      { t with health := s.health, msix := s.msix } = { s with temps := temps, throttled := false } ∧
      Logged s t 6 0xC2 ∧ Raises s t (toldAll s 3) := by
  refine ⟨_, ?_, told_event s { s with temps := temps, throttled := false } 6 rfl rfl rfl rfl rfl⟩
  change execThrottleRelease temps s = _
  have : temps.all (fun t => decide (t < 760)) = true := by simpa using h
  simp only [execThrottleRelease, hs, hl, this, and_self, if_true]

theorem throttleRelease_hot (s : State) (temps : List Nat) (h : ∃ x ∈ temps, 760 ≤ x) :
    exec (.throttleRelease temps) s = .next s := by
  change execThrottleRelease temps s = _
  have : ¬ temps.all (fun t => decide (t < 760)) = true := by simpa using h
  rw [execThrottleRelease, if_neg (fun k => this k.2.2)]

/-- The greatest of some numbers bounds each of them and, where it is not 0, is one of them. -/
theorem foldl_max_spec (l : List Nat) (b : Nat) :
    b ≤ l.foldl max b ∧ (∀ x ∈ l, x ≤ l.foldl max b) ∧ (l.foldl max b = b ∨ l.foldl max b ∈ l) := by
  induction l generalizing b with
  | nil => simp
  | cons x l ih =>
    obtain ⟨h1, h2, h3⟩ := ih (max b x)
    simp only [List.foldl_cons, List.mem_cons]
    refine ⟨by omega, fun y hy => ?_, ?_⟩
    · rcases hy with rfl | hy
      · omega
      · exact h2 y hy
    · rcases h3 with h3 | h3
      · rw [h3]; omega
      · exact .inr (.inr h3)

theorem healthRisk_eq (s : State) (i : Nat) : healthRisk s i = nth s.weights i * healthCount s i := by
  unfold healthRisk
  split
  · rename_i h; rw [h, Nat.zero_mul]
  · rfl

/-- The risk of a log, before it is scaled: the greatest weighted count (R415). -/
def worstRisk (s : State) : Nat := ((upFrom 0 6).map (healthRisk s)).foldl max 0

theorem worstRisk_spec (s : State) :
    (∀ i, i < 6 → nth s.weights i * healthCount s i ≤ worstRisk s) ∧
    (worstRisk s = 0 ∨ ∃ i, i < 6 ∧ worstRisk s = nth s.weights i * healthCount s i) := by
  obtain ⟨-, hle, hat⟩ := foldl_max_spec ((upFrom 0 6).map (healthRisk s)) 0
  simp only [upFrom_eq, List.mem_map, List.mem_range, Nat.zero_add] at hle hat
  refine ⟨fun i hi => ?_, ?_⟩
  · rw [← healthRisk_eq]
    exact hle _ ⟨i, ⟨i, hi, rfl⟩, rfl⟩
  · rcases hat with h | ⟨i, ⟨_, hi, rfl⟩, h⟩
    · exact .inl (by simpa [worstRisk, upFrom_eq] using h)
    · exact .inr ⟨_, hi, by rw [← healthRisk_eq, h]; simp [worstRisk, upFrom_eq]⟩

theorem keepDue_eq (s : State) (p : Partition) : keepDue s p = { p with boundary := p.boundary && armedNow s p } := by
  unfold keepDue
  cases h : armedNow s p
  · rw [if_neg (by simp), Bool.and_false]
  · rw [if_pos rfl, Bool.and_true]

/-- What a new risk makes of a partition's securing (R393). -/
theorem relatch_eq (s : State) (p : Partition) :
    relatch s p =
      let c : Word := kgetD p.ctl 1 0#64
      { p with secured := p.secured && decide (c.toNat % 256 ≤ s.risk)
               boundary := p.boundary && c.getLsbD 8 && decide (c.toNat % 256 ≤ s.risk) && !p.secured } := by
  have hthr : riskThr p = (kgetD p.ctl 1 0#64).toNat % 256 := by simp [riskThr, wbits]
  dsimp only
  rw [relatch, ← hthr, keepDue_eq]
  by_cases h : s.risk < riskThr p
  · have h' : decide (riskThr p ≤ s.risk) = false := decide_eq_false (by omega)
    have harm : armedNow s { p with secured := false } = false := by
      have : riskThr { p with secured := false } = riskThr p := rfl
      simp only [armedNow, this, h', Bool.and_false, Bool.false_and]
    rw [if_pos h, harm, h']
    simp only [Bool.and_false, Bool.false_and]
  · have h' : decide (riskThr p ≤ s.risk) = true := decide_eq_true (by omega)
    rw [if_neg h]
    simp only [armedNow, h', Bool.and_true, Bool.and_assoc]

/-- The state whose log the monitor counts: a hot die has been logged (R415). -/
def hotLogged (s : State) : State := if s.temps.any (fun t => decide (760 ≤ t)) then healthEvent s 5 srcManager else s

/-- The state as the risk is set: the log holds what is younger than 1 s. -/
def recentLog (s : State) : State :=
  { s with health := (hotLogged s).health.filter (fun h => decide (s.tsc < h.at_ + 1000000000)), riskAt := s.tsc }

theorem riskUpdate_due (s : State) (h : s.riskAt + 1000000 ≤ s.tsc) :
    let v := { recentLog s with risk := min 255 (worstRisk (recentLog s) / 16) }
    exec .riskUpdate s = .next { v with parts := s.parts.map (fun p => (p.1, relatch v p.2)) } := by
  intro v
  have hn : ¬ s.tsc < s.riskAt + riskPeriod := Nat.not_lt.mpr h
  change execRiskUpdate s = _
  rw [execRiskUpdate, if_neg hn]
  by_cases hot : s.temps.any (fun t => decide (760 ≤ t)) = true
  · simp only [if_pos hot, v, recentLog, hotLogged]
    rfl
  · simp only [if_neg hot, v, recentLog, hotLogged]
    rfl

theorem riskUpdate_spec (s : State) (h : s.riskAt + 1000000 ≤ s.tsc) :
    ∃ t w u, exec .riskUpdate s = .next t ∧
      { t with health := s.health, risk := s.risk, riskAt := s.riskAt, parts := s.parts } = s ∧ t.riskAt = s.tsc ∧
      (if ∃ x ∈ s.temps, 760 ≤ x then Logged s u 5 0xC2 else u.health = s.health) ∧
      t.health = u.health.filter (fun h => decide (s.tsc < h.at_ + 1000000000)) ∧
      let count (i : Nat) : Nat := if i = 0 then Config.corrected s.tsc else (t.health.filter (fun h => h.input == i)).length
      t.risk = min 255 (w / 16) ∧
      (∀ i, i < 6 → nth s.weights i * count i ≤ w) ∧ (w = 0 ∨ ∃ i, i < 6 ∧ w = nth s.weights i * count i) ∧
      ∀ n, partOf t n = (partOf s n).map (fun p =>
        let c : Word := kgetD p.ctl 1 0#64
        { p with secured := p.secured && decide (c.toNat % 256 ≤ t.risk)
                 boundary := p.boundary && c.getLsbD 8 && decide (c.toNat % 256 ≤ t.risk) && !p.secured }) := by
  refine ⟨_, worstRisk (recentLog s), hotLogged s, riskUpdate_due s h, rfl, rfl, ?_, rfl, rfl, ?_, ?_, fun n => ?_⟩
  · have hiff : (s.temps.any (fun t => decide (760 ≤ t)) = true) ↔ ∃ x ∈ s.temps, 760 ≤ x := by simp
    unfold hotLogged
    simp only [hiff]
    split
    · exact logged_healthEvent s 5 srcManager
    · rfl
  · exact (worstRisk_spec (recentLog s)).1
  · exact (worstRisk_spec (recentLog s)).2
  · simp only [partOf]
    rw [kget_map, funext (relatch_eq _)]

theorem kget_filter_key {α : Type} (m : KMap α) (q : Nat → Bool) (k : Nat) :
    kget (m.filter (fun c => q c.1)) k = if q k then kget m k else none := by
  induction m with
  | nil => simp [kget]
  | cons e m ih =>
    obtain ⟨k', v⟩ := e
    rw [List.filter_cons]
    by_cases hk : k' = k
    · subst hk
      cases hq : q k' <;> simp [kget, ih, hq]
    · cases hq : q k' <;> simp [kget, ih, hk]

/-- A power-on reset leaves the bytes of host memory, and no other (R416). -/
theorem memByte_host (m : Memory) (a : Nat) :
    memByte (m.filter (fun c => decide (2 ^ 47 ≤ c.1))) a = if 2 ^ 47 ≤ a then memByte m a else 0#8 := by
  simp only [memByte, kgetD, kget_filter_key m (fun k => decide (2 ^ 47 ≤ k)) a, decide_eq_true_eq]
  split <;> rfl

theorem powerOnReset_spec (s : State) (found : BringUp) : ∃ t, exec (.powerOnReset found) s = .next t ∧
    { t with mem := [], temps := State.reset.temps, partners := [], agenda := [], pace := State.reset.pace, free := State.reset.free, stored := [],
             running := [], found := State.reset.found, boot := .cold, units := State.reset.units } =
      { State.reset with boot := .cold, partners := [], agenda := [], mem := [], stored := [], running := [] } ∧
    (∀ a, memByte t.mem a = if 2 ^ 47 ≤ a then memByte s.mem a else 0#8) ∧ t.stored = s.stored ∧ t.running = s.stored ∧
    t.temps = s.temps ∧ t.found = found ∧
    if imageOk s.stored = true then t.units = ⟨found.cores, found.slices, found.hbm, found.links⟩ ∧
      t.boot = (if found.single = true then .linkDown else .recovery)
    else t.boot = .recovery := by
  have he : exec (.powerOnReset found) s = execPowerOnReset found s := rfl
  by_cases h : imageOk s.stored = true
  · rw [execPowerOnReset, if_pos h] at he
    refine ⟨_, he, rfl, memByte_host s.mem, ?_⟩
    rw [if_pos h]
    exact ⟨rfl, rfl, rfl, rfl, rfl, rfl⟩
  · rw [execPowerOnReset, if_neg h] at he
    refine ⟨_, he, rfl, memByte_host s.mem, ?_⟩
    rw [if_neg h]
    exact ⟨rfl, rfl, rfl, rfl, rfl⟩

/-- Settles O49: a lemma for each event and each of its outcomes. -/
theorem moduleEvents : Obligations.ModuleEvents := by
  intro s told
  refine ⟨fun die temp hd hs _ => ⟨throttleEngage_hot s die temp hd hs, throttleEngage_cool s die temp⟩,
    fun temps hl hs => ⟨throttleRelease_cool s temps hl hs, throttleRelease_hot s temps⟩, fun h => ?_,
    riskUpdate_spec s, powerOnReset_spec s, fun h => ?_⟩
  · change execRiskUpdate s = _
    rw [execRiskUpdate, if_pos (by exact h)]
  · change execCxlLinkUp s = _
    rw [execCxlLinkUp, if_pos h]

end Sys2Proof.Machine
end

section
namespace Sys2Proof.Machine

/-! The end of a packet does not look at its context's counts (R47, R74 to R76). -/

/-- A context with other counts: whether it waits at a tick, its ticks, and its place. -/
def Ctx.counting (c : Ctx) (wait : Bool) (ticks seq : Nat) : Ctx := { c with tickWait := wait, ticks := ticks, seq := seq }

theorem Ctx.counting_self (c : Ctx) : c.counting c.tickWait c.ticks c.seq = c := rfl

/-- A function of contexts that leaves the counts alone and does not look at them. -/
def KeepsCounts (g : Ctx → Ctx) : Prop := ∀ c w n q, g (c.counting w n q) = (g c).counting w n q

theorem KeepsCounts.id : KeepsCounts (fun c => c) := fun _ _ _ _ => rfl

theorem KeepsCounts.comp {g h : Ctx → Ctx} (hg : KeepsCounts g) (hh : KeepsCounts h) : KeepsCounts (fun c => g (h c)) :=
  fun c w n q => (congrArg g (hh c w n q)).trans (hg (h c) w n q)

theorem KeepsCounts.counts {g : Ctx → Ctx} (h : KeepsCounts g) (c : Ctx) :
    (g c).tickWait = c.tickWait ∧ (g c).ticks = c.ticks ∧ (g c).seq = c.seq := by
  have e : g c = (g c).counting c.tickWait c.ticks c.seq := h c c.tickWait c.ticks c.seq
  rw [e]
  exact ⟨rfl, rfl, rfl⟩

theorem KeepsCounts.foldl {α : Type} {g : Ctx → α → Ctx} (l : List α) (h : ∀ a, KeepsCounts (fun c => g c a)) :
    KeepsCounts (fun c => l.foldl g c) := by
  induction l with
  | nil => exact KeepsCounts.id
  | cons a l ih => exact ih.comp (h a)

theorem setReg_keepsCounts (r : RegNo) (v : XReg) : KeepsCounts (fun c => c.setReg r v) := by
  intro c w n q
  unfold Ctx.setReg
  split <;> rfl

theorem setPred_keepsCounts (m : Nat) (b : Bool) : KeepsCounts (fun c => c.setPred m b) := by
  intro c w n q
  unfold Ctx.setPred
  split <;> rfl

theorem setStage_keepsCounts : KeepsCounts Ctx.setStage :=
  KeepsCounts.foldl _ fun j c w n q => setPred_keepsCounts j _ c w n q

theorem clearStage_keepsCounts : KeepsCounts Ctx.clearStage :=
  KeepsCounts.foldl _ fun j => setPred_keepsCounts j false

/-- Registers moved up one after another (R65). -/
def Ctx.moveUp (c : Ctx) (l : List Nat) : Ctx :=
  l.foldl (fun c i => c.setReg (BitVec.ofNat 6 (47 - i)) (c.regN (46 - i))) c

theorem moveUp_counting (l : List Nat) (c : Ctx) (w : Bool) (n q : Nat) :
    (c.counting w n q).moveUp l = (c.moveUp l).counting w n q :=
  KeepsCounts.foldl l (fun _ d w n q => setReg_keepsCounts _ _ d w n q) c w n q

/-- The registers of a block shift, its count apart (R65). -/
def Ctx.movedUp (c : Ctx) : Ctx := (c.moveUp (upFrom 0 15)).setReg 32#6 (c.regN 47)

theorem shiftBlock_eq (c : Ctx) : c.shiftBlock = { c.movedUp with bsc := c.bsc + 1#4 } := rfl

theorem movedUp_keepsCounts : KeepsCounts Ctx.movedUp := by
  intro c w n q
  have hreg : (c.counting w n q).regN 47 = c.regN 47 := rfl
  rw [Ctx.movedUp, hreg, moveUp_counting]
  exact setReg_keepsCounts 32#6 (c.regN 47) (c.moveUp (upFrom 0 15)) w n q

theorem shiftBlock_keepsCounts : KeepsCounts Ctx.shiftBlock := by
  intro c w n q
  rw [shiftBlock_eq, shiftBlock_eq, movedUp_keepsCounts]
  generalize c.movedUp = d
  rfl

theorem shiftBlocks_counting (m : Nat) (c : Ctx) (w : Bool) (n q : Nat) :
    (c.counting w n q).shiftBlocks m = (c.shiftBlocks m).counting w n q := by
  induction m generalizing c with
  | zero => rfl
  | succ m ih => rw [Ctx.shiftBlocks, Ctx.shiftBlocks, shiftBlock_keepsCounts, ih]

theorem endInner_keepsCounts : KeepsCounts Ctx.endInner := by
  intro c w n q
  unfold Ctx.endInner
  split
  · rename_i h
    rw [if_pos (by exact h)]
    exact clearStage_keepsCounts { c with lc0 := lcOff c.lc0 } w n q
  · rename_i h
    rw [if_neg (by exact h)]

theorem outerStep_counting (c : Ctx) (w : Bool) (n q : Nat) (pc : Word) :
    (c.counting w n q).outerStep pc = ((c.outerStep pc).1.counting w n q, (c.outerStep pc).2) := by
  by_cases h : lcAct c.lc1 ∧ pc.toNat = lcEnd c.lc1
  · by_cases hj : (li1J c.li1 + 1) % 2 ^ 32 < li1N c.li1
    · have e (d : Ctx) (h1 : d.lc1 = c.lc1) (h2 : d.li1 = c.li1) : d.outerStep pc =
          ({ d with li1 := BitVec.ofNat 64 (li1N c.li1 * 2 ^ 32 + (li1J c.li1 + 1) % 2 ^ 32) }.endInner,
            some (BitVec.ofNat 64 (lcStart c.lc1))) := by
        rw [Ctx.outerStep, h1, h2, if_pos h, if_pos hj]
      rw [e c rfl rfl, e (c.counting w n q) rfl rfl]
      exact congrArg (·, _) (endInner_keepsCounts
        { c with li1 := BitVec.ofNat 64 (li1N c.li1 * 2 ^ 32 + (li1J c.li1 + 1) % 2 ^ 32) } w n q)
    · have e (d : Ctx) (h1 : d.lc1 = c.lc1) (h2 : d.li1 = c.li1) : d.outerStep pc =
          ({ d with
              li1 := BitVec.ofNat 64 (li1N c.li1 * 2 ^ 32 + (li1J c.li1 + 1) % 2 ^ 32)
              lc1 := lcOff c.lc1 }.endInner,
            some (afterPacket pc)) := by
        rw [Ctx.outerStep, h1, h2, if_pos h, if_neg hj]
      rw [e c rfl rfl, e (c.counting w n q) rfl rfl]
      exact congrArg (·, _) (endInner_keepsCounts
        { c with
          li1 := BitVec.ofNat 64 (li1N c.li1 * 2 ^ 32 + (li1J c.li1 + 1) % 2 ^ 32)
          lc1 := lcOff c.lc1 } w n q)
  · have e (d : Ctx) (h1 : d.lc1 = c.lc1) : d.outerStep pc = (d, none) := by
      rw [Ctx.outerStep, h1, if_neg h]
    rw [e c rfl, e (c.counting w n q) rfl]

/-- The context at the inner loop's last packet, its step taken (R74). -/
def Ctx.innerStep (c : Ctx) : Ctx := { c with li0 := c.li0 + 1#64 }.shiftBlock

theorem innerStep_keepsCounts : KeepsCounts Ctx.innerStep := fun c w n q =>
  shiftBlock_keepsCounts { c with li0 := c.li0 + 1#64 } w n q

theorem boundary_counting (c : Ctx) (w : Bool) (n q : Nat) (pc : Word) :
    (c.counting w n q).boundary pc = ((c.boundary pc).1.counting w n q, (c.boundary pc).2) := by
  have hd := innerStep_keepsCounts c w n q
  by_cases h : lcAct c.lc0 ∧ pc.toNat = lcEnd c.lc0
  · have e (d : Ctx) (h0 : d.lc0 = c.lc0) : d.boundary pc =
        if d.innerStep.li0.toNat + 2 ≤ skN d.innerStep.sk0 + skK d.innerStep.sk0 then
          (d.innerStep.setStage, some (BitVec.ofNat 64 (lcStart d.innerStep.lc0)))
        else ((d.innerStep.endInner.outerStep pc).1, some ((d.innerStep.endInner.outerStep pc).2.getD (afterPacket pc))) := by
      unfold Ctx.boundary Ctx.innerStep
      rw [h0, if_pos h]
    rw [e c rfl, e (c.counting w n q) rfl, hd]
    generalize c.innerStep = d
    by_cases hr : d.li0.toNat + 2 ≤ skN d.sk0 + skK d.sk0
    · rw [if_pos hr, if_pos (by exact hr)]
      exact congrArg (·, _) (setStage_keepsCounts _ w n q)
    · rw [if_neg hr, if_neg (by exact hr), endInner_keepsCounts, outerStep_counting]
  · have e (d : Ctx) (h0 : d.lc0 = c.lc0) : d.boundary pc = d.outerStep pc := by
      rw [Ctx.boundary, h0, if_neg h]
    rw [e c rfl, e (c.counting w n q) rfl, outerStep_counting]

theorem branchOut_counting (c : Ctx) (w : Bool) (n q : Nat) (pc target : Word) :
    (c.counting w n q).branchOut pc target = (c.branchOut pc target).counting w n q := by
  have he := endInner_keepsCounts c w n q
  have e (d : Ctx) (h0 : d.lc0 = c.lc0) (h1 : d.lc1 = c.lc1) : d.branchOut pc target =
      if !((lcAct c.lc0 && lcHolds c.lc0 pc.toNat) || (lcAct c.lc1 && lcHolds c.lc1 pc.toNat)) then d
      else
        let x := if lcHolds c.lc0 target.toNat then d else d.endInner
        if lcAct c.lc1 && !lcHolds c.lc1 target.toNat then { x with lc1 := lcOff x.lc1 } else x := by
    rw [Ctx.branchOut, h0, h1]
  rw [e c rfl rfl, e (c.counting w n q) rfl rfl, he]
  generalize c.endInner = x
  split
  · rfl
  · cases lcHolds c.lc0 target.toNat <;> cases lcAct c.lc1 && !lcHolds c.lc1 target.toNat <;> rfl

/-- What a packet leaves of its context at its end does not depend on the context's counts, which it leaves alone. -/
theorem flowOn_counting (c : Ctx) (w : Bool) (n q : Nat) (pc : Word) (f : Issue) :
    (c.counting w n q).flowOn pc f = (c.flowOn pc f).counting w n q := by
  unfold Ctx.flowOn
  rw [boundary_counting]
  split
  · rw [branchOut_counting]
    rfl
  · rfl

/-- Of a packet's frame, its end reads what the words have steered alone. -/
theorem flowOn_of_next_none (c : Ctx) (pc : Word) {f g : Issue} (hf : f.next = none) (hg : g.next = none) :
    c.flowOn pc f = c.flowOn pc g := by
  simp only [Ctx.flowOn, hf, hg]

end Sys2Proof.Machine
end

section
namespace Sys2Proof

/-! What the decoder reads from a word is a word of a packet, and no event (R49, R50). -/

/-- Every instruction that a decoder answers is a word of a packet. -/
def ReadsWords (r : Except Reject Instr) : Prop := ∀ i, r = .ok i → isWord i = true

theorem ReadsWords.ok {i : Instr} (h : isWord i = true) : ReadsWords (.ok i) := by
  intro j e
  cases e
  exact h

theorem ReadsWords.error (r : Reject) : ReadsWords (.error r) := by
  intro j e
  cases e

theorem ReadsWords.take {w : IWord} {l : List (Nat × Nat × Nat)} {i : Instr} (h : isWord i = true) :
    ReadsWords (take w l i) := by
  unfold Sys2Proof.take
  split
  · exact ReadsWords.ok h
  · exact ReadsWords.error _

theorem ReadsWords.refuseField (r : Instr → Reject) (x : Except Reject Instr) : ReadsWords (refuseField r x) := by
  cases x <;> exact ReadsWords.error _

theorem ReadsWords.withScope {w : IWord} {lo : Nat} {k : Scope → Except Reject Instr} (h : ∀ sc, ReadsWords (k sc)) :
    ReadsWords (withScope w lo k) := by
  unfold Sys2Proof.withScope
  split
  · exact h _
  · exact ReadsWords.refuseField _ _

theorem ReadsWords.withCsr {w : IWord} {k : Csr → Except Reject Instr} (h : ∀ r, ReadsWords (k r)) :
    ReadsWords (withCsr w k) := by
  unfold Sys2Proof.withCsr
  split
  · exact h _
  · exact ReadsWords.refuseField _ _

theorem ReadsWords.withEng {w : IWord} {k : TplEng → Except Reject Instr} (h : ∀ r, ReadsWords (k r)) :
    ReadsWords (withEng w k) := by
  unfold Sys2Proof.withEng
  split
  · exact h _
  · exact ReadsWords.refuseField _ _

theorem decodeA_reads (w : IWord) : ReadsWords (decodeA w) := by
  unfold decodeA
  repeat' split
  all_goals first | exact .take rfl | exact .ok rfl | exact .error _

theorem decodeI_reads (w : IWord) : ReadsWords (decodeI w) := by
  unfold decodeI
  split
  all_goals first | exact .take rfl | exact .ok rfl | exact .error _

theorem decodeM_reads (w : IWord) : ReadsWords (decodeM w) := by
  unfold decodeM
  split
  all_goals first | exact .ok rfl | exact .error _

theorem decodeB_reads (w : IWord) : ReadsWords (decodeB w) := by
  unfold decodeB
  split
  all_goals first | exact .take rfl | exact .ok rfl | exact .error _

theorem decodeS_reads (w : IWord) : ReadsWords (decodeS w) := by
  unfold decodeS
  split
  all_goals first
    | exact .take rfl
    | exact .withScope fun _ => .take rfl
    | exact .withCsr fun _ => .take rfl
    | exact .withEng fun _ => .take rfl
    | exact .error _

theorem decodeW_reads (w : IWord) : ReadsWords (decodeW w) := by
  unfold decodeW
  split
  all_goals first | exact .take rfl | exact .error _

theorem decodeV_reads (w : IWord) : ReadsWords (decodeV w) := by
  unfold decodeV
  split
  all_goals first | exact .take rfl | exact .ok rfl | exact .error _

theorem decodeAtomic_reads (w : IWord) : ReadsWords (decodeAtomic w) := by
  unfold decodeAtomic
  split
  all_goals first | exact .withScope fun _ => .take rfl | exact .withScope fun _ => .ok rfl | exact .error _

theorem decodeStash_reads (w : IWord) : ReadsWords (decodeStash w) := by
  unfold decodeStash
  split
  all_goals first | exact .withScope fun _ => .take rfl | exact .error _

theorem decodeLine_reads (w : IWord) : ReadsWords (decodeLine w) := by
  unfold decodeLine
  split
  all_goals first | exact .withScope fun _ => .take rfl | exact .error _

theorem decodeSched_reads (w : IWord) : ReadsWords (decodeSched w) := by
  unfold decodeSched
  split
  all_goals first | exact .withScope fun _ => .take rfl | exact .error _

theorem decodeMatrix_reads (op : Nat) (w : IWord) : ReadsWords (decodeMatrix op w) := by
  unfold decodeMatrix
  split
  all_goals first | exact .ok rfl | exact .error _

theorem decodeCopy_reads (op : Nat) (w : IWord) : ReadsWords (decodeCopy op w) := by
  unfold decodeCopy
  split
  all_goals first | exact .ok rfl | exact .error _

theorem decodePrism_reads (op : Nat) (w : IWord) : ReadsWords (decodePrism op w) := by
  unfold decodePrism
  split
  all_goals first | exact .ok rfl | exact .error _

theorem ReadsWords.patched {p : Bool} {x : Except Reject Instr} (h : ReadsWords x) :
    ReadsWords (if p then x else .error .patch) := by
  cases p
  · exact ReadsWords.error _
  · exact h

theorem decodeClass_reads (op : Nat) (w : IWord) : ReadsWords (decodeClass op w) := by
  unfold decodeClass
  split
  · exact decodeA_reads w
  · exact decodeI_reads w
  · exact decodeM_reads w
  · exact decodeB_reads w
  · exact decodeS_reads w
  · exact decodeW_reads w
  · exact decodeV_reads w
  · exact (decodeMatrix_reads op w).patched
  · exact (decodeCopy_reads op w).patched
  · exact decodeAtomic_reads w
  · exact (decodePrism_reads op w).patched
  · exact decodeStash_reads w
  · exact decodeLine_reads w
  · exact decodeSched_reads w
  · exact ReadsWords.error _

theorem isWord_of_decodeWord {op : Nat} {w : IWord} {i : Instr} (h : decodeWord op w = .ok i) : isWord i = true := by
  unfold decodeWord at h
  split at h
  · rename_i j hj
    split at h
    · cases h
      exact decodeClass_reads op w _ hj
    · cases h
  · cases h

end Sys2Proof
end

section
namespace Sys2Proof.Machine

/-! The issue of a packet (R47 to R49, R64, R81, R82, R120, R169). -/

theorem ctxOf_of_cores {s t : State} (h : t.cores = s.cores) (n : Nat) (i : CtxId) : ctxOf t n i = ctxOf s n i := by
  unfold ctxOf coreOf
  rw [h]

/-- Of a context's counts, what the packet of a head leaves: c is the context as the packet was fetched (R81, R82). -/
def Ctx.countedFrom (c : Ctx) (h : Head) (x : Ctx) : Ctx :=
  { x with hold := h.hold + 1, seq := c.seq + 1, tickWait := false, ticks := c.ticks + if h.tick = true then 1 else 0 }

theorem issued_eq {c x : Ctx} (h : Head) (hs : x.seq = c.seq) (ht : x.ticks = c.ticks) : x.issued h = c.countedFrom h x := by
  rw [Ctx.issued, Ctx.countedFrom, hs, ht]
  cases h.tick <;> rfl

/-- The entry of a push on its way (R142). -/
def pushOf (t : State) (core : Nat) (i : CtxId) (e : Side × Word) : PendPush :=
  ⟨e.1, e.2, ownPending t core i, if i = .C then vectorPending t core else [], coveredAt t core i⟩

theorem pushAll_spec (t : State) (core : Nat) (i : CtxId) (l : List (Side × Word)) :
    let u := pushAll t core i l
    { u with cores := t.cores } = t ∧ OnlyContext t u core i ∧
      ctxOf u core i = { ctxOf t core i with outs := (ctxOf t core i).outs ++ l.map (pushOf t core i) } := by
  cases l with
  | nil => exact ⟨rfl, OnlyContext.refl t core i, by simp [pushAll]⟩
  | cons e l =>
    have hp : pushAll t core i (e :: l) =
        modCtx t core i (fun c => { c with outs := c.outs ++ (e :: l).map (pushOf t core i) }) := rfl
    dsimp only
    rw [hp]
    exact ⟨rfl, OnlyContext.of_modCtx t core i _, ctxOf_modCtx_same t core i _⟩

/-- A context as a packet's words and pushes have left it: a CSRW of bsc has shifted the block (log entry 32). -/
def Ctx.bscShifted (x y : Ctx) (f : Issue) : Ctx :=
  match f.bsc with
  | some v => y.shiftBlocks (v - x.bsc).toNat
  | none => y

theorem bscShifted_counting (x y : Ctx) (f : Issue) (w : Bool) (n q : Nat) :
    x.bscShifted (y.counting w n q) f = (x.bscShifted y f).counting w n q := by
  unfold Ctx.bscShifted
  split
  · exact shiftBlocks_counting _ y w n q
  · rfl

/-- The state in which the last effects of a packet happen (R47 step 6). -/
def closed (t : State) (core : Nat) (i : CtxId) (h : Head) (f : Issue) (l : List (Side × Word)) : State :=
  modCtx (pushAll { t with issue := none } core i l) core i (fun c => ((c.bscShifted c f).flowOn f.pc f).issued h)

theorem closePacket_eq (t : State) (core : Nat) (i : CtxId) (h : Head) (f : Issue) (l : List (Side × Word)) :
    closePacket t core i h f l = lastEffects (closed t core i h f l) core i f := rfl

theorem closed_spec (t : State) (core : Nat) (i : CtxId) (h : Head) (f : Issue) (l : List (Side × Word)) :
    let u := closed t core i h f l
    let x := ctxOf t core i
    let y : Ctx := { x with outs := x.outs ++ l.map (pushOf t core i) }
    { u with cores := t.cores, issue := t.issue } = t ∧ u.issue = none ∧ OnlyContext t u core i ∧
      ctxOf u core i = ((x.bscShifted y f).flowOn f.pc f).issued h := by
  intro u x y
  obtain ⟨ho, hc, hx⟩ := pushAll_spec { t with issue := none } core i l
  have hy : ctxOf (pushAll { t with issue := none } core i l) core i = y := hx
  refine ⟨?_, ?_, ?_, ?_⟩
  · have e := congrArg (fun v : State => { v with issue := t.issue }) ho
    exact e
  · have e := congrArg State.issue ho
    exact e
  · have a : OnlyContext t (pushAll { t with issue := none } core i l) core i := hc
    exact a.trans (OnlyContext.of_modCtx _ core i _)
  · simp only [u, closed, ctxOf_modCtx_same, hy]
    rfl

/-- What the end of a packet leaves of its context, where nothing else has changed the context's place and ticks. -/
theorem closed_counted {t : State} {core : Nat} {i : CtxId} {c : Ctx} (h : Head) (f : Issue) (l : List (Side × Word)) :
    let x := ctxOf t core i
    let y : Ctx := { x with outs := x.outs ++ l.map (pushOf t core i) }
    x.seq = c.seq → x.ticks = c.ticks → ctxOf (closed t core i h f l) core i = c.countedFrom h ((x.bscShifted y f).flowOn f.pc f) := by
  intro x y hs ht
  have hk : KeepsCounts (fun c => (x.bscShifted c f).flowOn f.pc f) := fun c w n q => by
    simp only [bscShifted_counting, flowOn_counting]
  obtain ⟨-, hticks, hseq⟩ := hk.counts y
  rw [(closed_spec t core i h f l).2.2.2]
  exact issued_eq h (hseq.trans hs) (hticks.trans ht)

/-- Nothing comes last for a packet whose words ask for nothing. -/
theorem lastEffects_none {f : Issue} (he : f.eret = false) (ht : f.trap = none) (hd : f.tend = false) (hp : f.prack = false)
    (t : State) (core : Nat) (i : CtxId) : lastEffects t core i f = t := by
  simp [lastEffects, he, ht, hd, hp]

/-- A squashed packet (R47 step 1). -/
theorem runSquashed_spec (u : State) (core : Nat) (i : CtxId) (h : Head) (pc : Word) :
    let t := runSquashed u core i h pc
    { t with cores := u.cores, issue := u.issue } = u ∧ t.issue = none ∧ OnlyContext u t core i ∧
      ∀ f : Issue, f.next = none → ctxOf t core i = ((ctxOf u core i).flowOn pc f).issued h := by
  intro t
  have e : t = closed u core i h (frameOf u core i pc (ctxOf u core i) []) [] := by
    simp only [t, runSquashed, closePacket_eq]
    exact lastEffects_none rfl rfl rfl rfl _ _ _
  rw [e]
  obtain ⟨h1, h2, h3, h4⟩ := closed_spec u core i h (frameOf u core i pc (ctxOf u core i) []) []
  refine ⟨h1, h2, h3, fun f hf => h4.trans ?_⟩
  rw [List.map_nil, List.append_nil]
  exact congrArg (fun c : Ctx => c.issued h) (flowOn_of_next_none _ pc rfl hf)

/-- A word acts in its slot as exec says. -/
theorem actIn_eq {s t : State} {x : SlotWord} {a : Instr} {op : Nat} {w : IWord} (hx : x.dec = decodeWord op w)
    (hd : decodeWord op w = .ok a) (he : exec a (setFrame s (fun g => { g with slot := x.slot })) = .next t) :
    actIn s x = t := by
  rw [← runWord_eq a _ (isWord_of_decodeWord hd)] at he
  simp only [actIn, hx, hd, he]

/-- The words of a packet act one after another, and it closes. -/
theorem runPacket_eq {s : State} {core : Nat} {i : CtxId} {h : Head} {f : Issue} {k : Core} {b : List Byte} {a0 a1 a2 : Instr}
    (hd : ∀ n a, (n, a) ∈ [(0, a0), (1, a1), (2, a2)] →
      decodeWord (formedOp k f.snap (packetPart b (n + 1))) (packetPart b (n + 1)) = .ok a) :
    ∃ t0 t1 t2,
      exec a0 (setFrame { setCtx s core i f.snap with issue := some f } (fun g => { g with slot := 0 })) = .next t0 ∧
      exec a1 (setFrame t0 (fun g => { g with slot := 1 })) = .next t1 ∧
      exec a2 (setFrame t1 (fun g => { g with slot := 2 })) = .next t2 ∧
      runPacket s core i h f (packetWords k f.snap b) =
        closePacket t2 core i h (t2.issue.getD f) (pushesOf h (t2.issue.getD f)) := by
  obtain ⟨t0, h0⟩ := exec_next a0 (setFrame { setCtx s core i f.snap with issue := some f } (fun g => { g with slot := 0 }))
  obtain ⟨t1, h1⟩ := exec_next a1 (setFrame t0 (fun g => { g with slot := 1 }))
  obtain ⟨t2, h2⟩ := exec_next a2 (setFrame t1 (fun g => { g with slot := 2 }))
  refine ⟨t0, t1, t2, h0, h1, h2, ?_⟩
  have e0 := actIn_eq (x := slotWord k f.snap b 0) rfl (hd 0 a0 (by simp)) h0
  have e1 := actIn_eq (x := slotWord k f.snap b 1) rfl (hd 1 a1 (by simp)) h1
  have e2 := actIn_eq (x := slotWord k f.snap b 2) rfl (hd 2 a2 (by simp)) h2
  simp only [runPacket, packetWords, List.foldl_cons, List.foldl_nil, e0, e1, e2]

/-- A context whose next packet waits, whatever the packet is (R81, R84, R125, R132). -/
theorem packetIssue_waits {s : State} {core : Nat} {i : CtxId} {k : Task} (hk : taskOf s core = some k)
    (h : (ctxOf s core i).hold ≠ 0 ∨ (ctxOf s core i).images ≠ [] ∨ issueOpen s k = false ∨ fenceDue s core i = true) :
    exec (.packetIssue core i) s = .next s := by
  change execPacketIssue core i s = _
  simp only [execPacketIssue, hk]
  rw [if_pos]
  rcases h with h | h | h | h <;> simp [h]

/-- What the fetch of a packet leads to (R120, R169, R175). -/
def fetchedTo (s : State) (k : Task) (core : Nat) (i : CtxId) (pc : Word) : Fetched → State
  | .bytes b => considerPacket (fetchUse s k pc) k core i b
  | .range => packetTrap s core i pc 5 pc
  | .error code ipa l leaf =>
    let t := consume s k.part core 16 (some i) pc ipa code l leaf
    if code = 8 ∧ leafPpol leaf = 2 then t else packetTrap t core i pc code pc
  | .miss ipa bad => raiseNotice s k.part k.asid k.gen 2 core (some k.gang) ipa bad (.fetch i)
  | .wait => s

/-- A context that nothing holds and that has no report to take fetches its packet. -/
theorem packetIssue_fetches {s : State} {core : Nat} {i : CtxId} {k : Task} (hk : taskOf s core = some k)
    (he : (ctxOf s core i).ended = false) (hs : (ctxOf s core i).stopped = false) (hh : (ctxOf s core i).hold = 0)
    (hi : (ctxOf s core i).images = []) (ho : issueOpen s k = true) (hf : fenceDue s core i = false)
    (hr : (ctxOf s core i).inh = true ∨ (ctxOf s core i).reports = []) :
    exec (.packetIssue core i) s = .next (fetchedTo s k core i (ctxOf s core i).pc (fetch s k core (ctxOf s core i).pc)) := by
  have hreport : (if (ctxOf s core i).inh = true then none else firstReport (ctxOf s core i).reports) = none := by
    rcases hr with hr | hr
    · rw [if_pos hr]
    · rw [hr]
      split <;> rfl
  change execPacketIssue core i s = _
  simp only [execPacketIssue, hk, he, hs, hh, hi, ho, hf, hreport]
  rw [if_neg (by simp)]
  cases fetch s k core (ctxOf s core i).pc <;> rfl

/-- The fetch of a packet changes the caches alone (R177, R178). -/
theorem fetchUse_only (s : State) (k : Task) (pc : Word) : Cached s (fetchUse s k pc) := by
  unfold fetchUse
  split
  · rfl
  · exact useLeaf_only s k.part k.asid k.gen _

theorem Cached.cores {s u : State} (h : Cached s u) : u.cores = s.cores := by
  have e := congrArg State.cores h
  exact e

theorem Cached.gangs {s u : State} (h : Cached s u) : u.gangs = s.gangs := by
  have e := congrArg State.gangs h
  exact e

theorem tickOpen_cached {s u : State} (hc : Cached s u) (k : Task) (core : Nat) (i : CtxId) (n : Nat) :
    tickOpen u k core i n = tickOpen s k core i n := by
  have hgang : gangOf u k.gang = gangOf s k.gang := congrArg (fun m => kget m k.gang) hc.gangs
  simp only [tickOpen, hgang, ctxOf_of_cores hc.cores]

/-- The state of a packet that has passed its checks: its context waits at the tick where the packet has one (R82). -/
def atTick (v : State) (core : Nat) (i : CtxId) (h : Head) : State :=
  if h.tick = true then setCtx v core i { ctxOf v core i with tickWait := (ctxOf v core i).tickWait || h.tick } else v

theorem ctxOf_atTick (v : State) (core : Nat) (i : CtxId) (h : Head) :
    ctxOf (atTick v core i h) core i = { ctxOf v core i with tickWait := (ctxOf v core i).tickWait || h.tick } := by
  unfold atTick
  cases ht : h.tick
  · simp
  · simp

theorem atTick_only (v : State) (core : Nat) (i : CtxId) (h : Head) :
    { atTick v core i h with cores := v.cores } = v ∧ OnlyContext v (atTick v core i h) core i := by
  unfold atTick
  split
  · exact ⟨rfl, OnlyContext.of_modCtx v core i (fun _ => _)⟩
  · exact ⟨rfl, OnlyContext.refl v core i⟩

/-- Whether a tick is open does not depend on the context that comes to it. -/
theorem tickOpen_atTick (v : State) (k : Task) (core : Nat) (i : CtxId) (h : Head) (n : Nat) :
    tickOpen (atTick v core i h) k core i n = tickOpen v k core i n := by
  obtain ⟨hrest, honly, -⟩ := atTick_only v core i h
  have hg := congrArg State.gangs hrest
  have hgang : gangOf (atTick v core i h) k.gang = gangOf v k.gang := congrArg (fun m => kget m k.gang) hg
  unfold tickOpen
  rw [hgang]
  split
  · rfl
  · refine congrArg (fun q => List.all _ q) (funext fun m => ?_)
    by_cases hm : m = core
    · simp [hm]
    · simp only [ctxOf, honly m hm]

theorem considerPacket_trap {v : State} {k : Task} {core : Nat} {i : CtxId} {b : List Byte} {code : Nat} {w : Word}
    (hd : decodeFault (coreOf v core) (ctxOf v core i) k.priv i (headOf (packetPart b 0))
      (packetWords (coreOf v core) (ctxOf v core i) b) = some (code, w)) :
    considerPacket v k core i b = packetTrap v core i (ctxOf v core i).pc code w := by
  simp only [considerPacket, hd]

theorem considerPacket_passes {v : State} {k : Task} {core : Nat} {i : CtxId} {b : List Byte}
    (hd : decodeFault (coreOf v core) (ctxOf v core i) k.priv i (headOf (packetPart b 0))
      (packetWords (coreOf v core) (ctxOf v core i) b) = none) :
    let h := headOf (packetPart b 0)
    let u := atTick v core i h
    considerPacket v k core i b =
      if h.tick && !tickOpen v k core i (ctxOf v core i).ticks then u
      else if squashed (ctxOf v core i) h then runSquashed u core i h (ctxOf v core i).pc else tryPacket u core i h b := by
  intro h u
  have hu : (if h.tick = true then modCtx v core i (fun c => { c with tickWait := true }) else v) = u := by
    simp only [u, atTick]
    cases h.tick
    · rfl
    · simp only [if_true, Bool.or_true]
      rfl
  rw [← tickOpen_atTick v k core i h]
  simp only [considerPacket, hd]
  rw [hu]

/-- A packet that has made its pops: it waits, faults, or issues (R64, R81, R169). snap is its context then, pc its place. -/
def popped (u : State) (core : Nat) (i : CtxId) (h : Head) (b : List Byte) (pc : Word) (snap : Ctx) : State :=
  let l := packetWords (coreOf u core) snap b
  if packetReady u core i h snap l = false then u
  else if fullQueues u core i l ≠ [] then waitFor u core i (fullQueues u core i l)
  else if slotPassed u core i l = true then u
  else
    let f := frameOf u core i pc snap (instrsOf l)
    match (issueFault (coreOf u core) snap h l).or (packetFault f u l) with
    | some (code, v) => packetTrap u core i pc code v
    | none => runPacket (markSlot u core i l) core i h f l

theorem tryPacket_pop_waits {u : State} {core : Nat} {i : CtxId} {h : Head} (b : List Byte)
    (hp : h.popl = true ∧ popReady (ctxOf u core i) .left = false ∨ h.popr = true ∧ popReady (ctxOf u core i) .right = false) :
    tryPacket u core i h b = u := by
  simp only [tryPacket]
  rw [if_pos (by simpa using hp)]

theorem tryPacket_pops {u : State} {core : Nat} {i : CtxId} {h : Head} (b : List Byte)
    (hl : h.popl = true → popReady (ctxOf u core i) .left = true)
    (hr : h.popr = true → popReady (ctxOf u core i) .right = true) :
    tryPacket u core i h b = popped u core i h b (ctxOf u core i).pc (popAll h (ctxOf u core i)) := by
  have hgo : ¬((h.popl && !popReady (ctxOf u core i) .left) || (h.popr && !popReady (ctxOf u core i) .right)) = true := by
    simpa using ⟨hl, hr⟩
  have hempty (q : List Cls) : (!q.isEmpty) = true ↔ q ≠ [] := by simp
  simp only [tryPacket, popped]
  rw [if_neg hgo]
  simp only [Bool.not_eq_true', hempty] <;> rfl

theorem packetReady_needs {u : State} {core : Nat} {i : CtxId} {h : Head} {snap : Ctx} {l : List SlotWord}
    (hx : ∃ x ∈ l, needsMet snap (x.needs (coreOf u core) snap) = false) : packetReady u core i h snap l = false := by
  obtain ⟨x, hx, hn⟩ := hx
  have : l.all (fun x => needsMet snap (x.needs (coreOf u core) snap)) = false := by
    rw [List.all_eq_false]
    exact ⟨x, hx, by simp [hn]⟩
  simp [packetReady, this]

/-- A popped packet that nothing holds and that has no fault runs; a fault traps. -/
theorem popped_issues {u : State} {core : Nat} {i : CtxId} {h : Head} {b : List Byte} {pc : Word} {snap : Ctx}
    (hr : packetReady u core i h snap (packetWords (coreOf u core) snap b) = true)
    (hq : fullQueues u core i (packetWords (coreOf u core) snap b) = [])
    (hs : slotPassed u core i (packetWords (coreOf u core) snap b) = false) :
    let l := packetWords (coreOf u core) snap b
    let f := frameOf u core i pc snap (instrsOf l)
    let fault := (issueFault (coreOf u core) snap h l).or (packetFault f u l)
    (∀ code v, fault = some (code, v) → popped u core i h b pc snap = packetTrap u core i pc code v) ∧
    (fault = none → popped u core i h b pc snap = runPacket (markSlot u core i l) core i h f l) := by
  intro l f fault
  refine ⟨fun code v hf => ?_, fun hf => ?_⟩
  all_goals
    simp only [popped]
    rw [if_neg (by simp [hr]), if_neg (by simp [hq]), if_neg (by simp [hs])]
    simp only [fault, f, l] at hf
    rw [hf]

/-- A state with the parts of s that a packet without effect may change. -/
def restored (s v : State) : State :=
  { v with cores := s.cores, issue := s.issue, tcache := s.tcache, wcache := s.wcache, l2 := s.l2 }

/-- A squashed packet, as its fetch found its context (R47 step 1). -/
theorem squashed_spec {s v : State} (hv : Cached s v) (core : Nat) (i : CtxId) (h : Head) :
    let c := ctxOf s core i
    let t := runSquashed (atTick v core i h) core i h c.pc
    restored s t = s ∧ t.issue = none ∧ OnlyContext s t core i ∧
      ∀ f : Issue, f.next = none → f.pc = c.pc → ctxOf t core i = c.countedFrom h (c.flowOn c.pc f) := by
  intro c t
  obtain ⟨hrest, hnone, honly, hctx⟩ := runSquashed_spec (atTick v core i h) core i h c.pc
  obtain ⟨hrest', honly'⟩ := atTick_only v core i h
  have e1 := congrArg (restored s) hrest
  have e2 := congrArg (restored s) hrest'
  have e3 := congrArg (restored s) hv
  have hs : OnlyContext s v core i := (OnlyContext.refl s core i).of_cores hv.cores
  refine ⟨e1.trans (e2.trans e3), hnone, (hs.trans honly').trans honly, fun f hf _ => ?_⟩
  have hd : ctxOf (atTick v core i h) core i = c.counting (c.tickWait || h.tick) c.ticks c.seq := by
    rw [ctxOf_atTick, ctxOf_of_cores hv.cores]
    rfl
  rw [hctx f hf, hd, flowOn_counting]
  exact issued_eq (c := c) (x := (c.flowOn c.pc f).counting (c.tickWait || h.tick) c.ticks c.seq) h rfl rfl

/-- Settles O57: the parts are the lemmas above, in the order of execPacketIssue. -/
theorem packetIssues : Obligations.PacketIssues := by
  intro s core i k b a0 a1 a2 c h issues traps counted
  refine ⟨?_, fun hk he hs => ⟨packetIssue_waits hk, fun hh hi ho hf hr => ?_⟩⟩
  · intro t f l x y z
    obtain ⟨hrest, hissue, honly, -⟩ := closed_spec t core i h f l
    exact ⟨_, closePacket_eq t core i h f l, hrest, hissue, honly, closed_counted h f l⟩
  intro got cached
  have hgo : issues (fetchedTo s k core i c.pc (fetch s k core c.pc)) := packetIssue_fetches hk he hs hh hi ho hf hr
  have hcached : Cached s got := fetchUse_only s k c.pc
  refine ⟨hcached, fun hw => ?_, fun ipa bad hm => ?_, fun ipa q leaf hm hl => ?_, fun hm => ?_, fun code ipa q leaf hm hl => ?_,
    fun hm => ?_⟩
  · rwa [hw] at hgo
  · rwa [hm] at hgo
  · rw [hm, fetchedTo, if_pos ⟨rfl, hl⟩] at hgo
    exact hgo
  · rwa [hm] at hgo
  · rw [hm, fetchedTo, if_neg (by tauto)] at hgo
    exact hgo
  intro check
  rw [hm, fetchedTo] at hgo
  have hcore : coreOf got core = coreOf s core := by unfold coreOf; rw [hcached.cores]
  have hctx : ctxOf got core i = c := ctxOf_of_cores hcached.cores core i
  have htrap : ∀ code v, check = some (code, v) → traps got code v := fun code v hc => by
    rw [considerPacket_trap (by rwa [hcore, hctx]), hctx] at hgo
    exact hgo
  refine ⟨fun hz => ?_, htrap, fun hc => ?_⟩
  · refine htrap 1 _ ?_
    simp only [check, decodeFault]
    rw [if_pos (.inl (by simpa [fld] using hz))]
  intro d u
  rw [considerPacket_passes (by rwa [hcore, hctx]), hctx, tickOpen_cached hcached] at hgo
  have hu : atTick got core i h = u := by
    simp only [atTick, hctx]
    rfl
  have hd : ctxOf u core i = d := by
    rw [← hu, ctxOf_atTick, hctx]
  have hsquash : squashed c h = true ↔ c.pred h.pred = h.sense := by simp [squashed]
  refine ⟨fun ht hno => ?_, fun ht => ?_⟩
  · rw [if_pos (by rw [ht, hno]; rfl), hu] at hgo
    exact hgo
  have hopen : ¬(h.tick && !tickOpen s k core i c.ticks) = true := by simpa using ht
  rw [if_neg hopen] at hgo
  refine ⟨fun hq => ?_, fun hq => ?_⟩
  · rw [if_pos (hsquash.mpr hq)] at hgo
    exact ⟨_, hgo, squashed_spec hcached core i h⟩
  rw [if_neg (fun hx => hq (hsquash.mp hx)), hu] at hgo
  have hpop (e : Side) : popReady (ctxOf u core i) e = popReady c e := by
    rw [hd]
    cases e <;> rfl
  refine ⟨fun hw => ?_, fun hl hr => ?_⟩
  · rw [tryPacket_pop_waits b (by rwa [hpop, hpop])] at hgo
    exact hgo
  intro snap l full
  rw [tryPacket_pops b (by rwa [hpop]) (by rwa [hpop]), hd] at hgo
  have hwaits : packetReady u core i h snap l = false → issues u := fun hn => by
    rw [popped, if_pos hn] at hgo
    exact hgo
  refine ⟨fun hn => ?_, fun hready => ⟨fun hfull => ?_, fun hfull hpast => ?_, fun hfull hpast => ?_⟩⟩
  · rcases hn with hn | hn
    · exact hwaits hn
    · exact hwaits (packetReady_needs hn)
  · rw [popped, if_neg (fun hn => absurd (hready.symm.trans hn) (by decide)), if_pos hfull] at hgo
    exact hgo
  · rw [popped, if_neg (fun hn => absurd (hready.symm.trans hn) (by decide)), if_neg (by simpa using hfull), if_pos hpast] at hgo
    exact hgo
  intro f fault
  obtain ⟨hfault, hruns⟩ := popped_issues (pc := c.pc) hready hfull hpast
  refine ⟨fun code v hx => ?_, fun hx hdec => ?_⟩
  · rw [show d.pc = c.pc from rfl, hfault code v hx] at hgo
    exact hgo
  · rw [show d.pc = c.pc from rfl, hruns hx] at hgo
    obtain ⟨t0, t1, t2, h0, h1, h2, hrun⟩ :=
      runPacket_eq (s := markSlot u core i l) (core := core) (i := i) (h := h) (f := f) (k := coreOf u core) (b := b) hdec
    refine ⟨t0, t1, t2, h0, h1, h2, ?_⟩
    have hgo' : issues (runPacket (markSlot u core i l) core i h f (packetWords (coreOf u core) f.snap b)) := hgo
    rw [hrun] at hgo'
    exact hgo'

end Sys2Proof.Machine
end

section
/-! What a micro-operation leaves, by how it leaves its command: rules for every engine (R18 to R20). -/

namespace Sys2Proof.Machine

theorem cmdOf_congr {s u : State} (h : u.cmds = s.cmds) (n : Nat) : cmdOf u n = cmdOf s n := by simp only [cmdOf, h]

/-- A micro-operation that changes its command, and what u is beside it. -/
theorem AtWork.mods {s u : State} {c : Cmd} {e : Cls} (h : AtWork s c e) (f : Cmd → Cmd) (hf : ∀ x, (f x).id = x.id)
    (hu : u.cmds = s.cmds) (ho : microOp s c = modCmd u c.id f) : Works s c u (f c) :=
  h.works hf ((cmdOf_congr hu _).trans h.1) rfl ho

/-- A micro-operation that ends its command. -/
theorem AtWork.ends {s u : State} {c : Cmd} {e : Cls} (h : AtWork s c e) {code value : Nat} (hu : u.cmds = s.cmds)
    (ho : microOp s c = finish u c code value) : Works s c u { c with phase := .finished, code := code, value := value } :=
  h.mods (fun c => { c with phase := .finished, code := code, value := value }) (fun _ => rfl) hu ho

/-- A micro-operation after which its command goes on. -/
theorem AtWork.goes {s u : State} {c : Cmd} {e : Cls} (h : AtWork s c e) {n : Nat} (hu : u.cmds = s.cmds)
    (ho : microOp s c = goOn u c n) : Works s c u { c with upc := n } :=
  h.mods (fun c => { c with upc := n }) (fun _ => rfl) hu ho

theorem AtWork.matrix {s : State} {c : Cmd} (h : AtWork s c .matrix) : microOp s c = matrixUop s c := by rw [microOp, h.2.1]
theorem AtWork.copy {s : State} {c : Cmd} (h : AtWork s c .copy) : microOp s c = copyUop s c := by rw [microOp, h.2.1]
theorem AtWork.prism {s : State} {c : Cmd} (h : AtWork s c .prism) : microOp s c = prismUop s c := by rw [microOp, h.2.1]
theorem AtWork.stash {s : State} {c : Cmd} (h : AtWork s c .stash) : microOp s c = stashUop s c := by rw [microOp, h.2.1]
theorem AtWork.line {s : State} {c : Cmd} (h : AtWork s c .line) : microOp s c = lineUop s c := by rw [microOp, h.2.1]

/-- A micro-operation of which the state is known. -/
theorem AtWork.next {s t : State} {c : Cmd} {e : Cls} (h : AtWork s c e) (ho : microOp s c = t) :
    exec (.engineMicroOp c.id) s = .next t := by rw [h.exec_eq, ho]

theorem cmdOf_finish_ne (s : State) (c : Cmd) (code value : Nat) {n : Nat} (h : n ≠ c.id) :
    cmdOf (finish s c code value) n = cmdOf s n := cmdOf_modCmd_ne s c.id n _ (by intro x; rfl) h

theorem cmdOf_finish_same {s : State} {c d : Cmd} (code value : Nat) (h : cmdOf s c.id = some d) :
    cmdOf (finish s c code value) c.id = some { d with phase := .finished, code := code, value := value } :=
  cmdOf_modCmd_same s c.id (fun c => { c with phase := .finished, code := code, value := value }) (by intro x; rfl) d h

theorem Stores.cmds {s u : State} {c : Cmd} {k : AccKind} {r : List (Nat × List Byte)} (h : Stores s u c k r) : u.cmds = s.cmds := by
  obtain ⟨-, l, -, -, h, -⟩ := h
  have e := congrArg State.cmds h
  exact e

theorem Stores.cores {s u : State} {c : Cmd} {k : AccKind} {r : List (Nat × List Byte)} (h : Stores s u c k r) : u.cores = s.cores := by
  obtain ⟨-, l, -, -, h, -⟩ := h
  have e := congrArg State.cores h
  exact e

theorem Stores.parts {s u : State} {c : Cmd} {k : AccKind} {r : List (Nat × List Byte)} (h : Stores s u c k r) : u.parts = s.parts := by
  obtain ⟨-, l, -, -, h, -⟩ := h
  have e := congrArg State.parts h
  exact e

/-! Completion (R19, R20), and the status words of the matrix and the copy engine (R260, R288). -/

/-- MSTAT replies the sticky bits, and clears them where it says so (R260). -/
theorem mstat_spec {s : State} {c : Cmd} (h : AtWork s c .matrix) (ho : mxOp c.img = 7) :
    ∃ t, exec (.engineMicroOp c.id) s = .next t ∧ { t with cores := s.cores, cmds := s.cmds } = s ∧ OnlyCmd s t c.id ∧
      OnlyCore s t c.core ∧
      coreOf t c.core = { coreOf s c.core with sticky := if mxClr c.img = 1 then 0#4 else (coreOf s c.core).sticky } ∧
      cmdOf t c.id = some { c with phase := .finished, code := 0, value := (coreOf s c.core).sticky.toNat } := by
  have hm : microOp s c = finish (if mxClr c.img = 1 then modCore s c.core (fun k => { k with sticky := 0#4 }) else s) c 0
      (coreOf s c.core).sticky.toNat := by
    rw [h.matrix]; simp [matrixUop, ho]
  refine ⟨_, h.next hm, ?_, ?_, ?_, ?_, ?_⟩
  · split <;> rfl
  · intro m hn
    rw [cmdOf_finish_ne _ _ _ _ hn]
    split <;> rfl
  · intro n hn
    split
    · exact coreOf_modCore_ne s c.core n (fun k => { k with sticky := 0#4 }) hn
    · rfl
  · split
    · exact coreOf_modCore_same s c.core (fun k => { k with sticky := 0#4 })
    · rfl
  · refine cmdOf_finish_same _ _ ?_
    split <;> exact h.1

theorem copyStat_spec {s : State} {c : Cmd} (h : AtWork s c .copy) (ho : cpOp c.img = 11)
    (hf : ∀ a ∈ s.acc, a.core = c.core → a.kind = .eng → a.store = 10 → c.id ≤ a.cmd) :
    ∃ t l, exec (.engineMicroOp c.id) s = .next t ∧ { t with cmds := s.cmds } = s ∧ OnlyCmd s t c.id ∧
      cmdOf t c.id = some { c with phase := .finished, code := 0, value := (coreOf s c.core).total.toNat, acq := l } ∧
      ∀ n, n ∈ l ↔ ∃ a ∈ s.backInv, a.id = n ∧ a.core = c.core ∧ a.kind = .eng ∧ a.store = 10 ∧ a.cmd < c.id := by
  have far : copiesFar s c = true := by
    simp only [copiesFar, Bool.not_eq_true', List.any_eq_false]
    intro a ha
    have := hf a ha
    simp only [Bool.and_eq_true, beq_iff_eq, decide_eq_true_eq, not_and, Nat.not_lt]
    rintro ⟨⟨h1, h2⟩, h3⟩
    exact this h1 h2 h3
  have hm : microOp s c = statDone s c := by rw [h.copy]; simp [copyUop, ho, far]
  refine ⟨statDone s c, (s.backInv.filter (fun a => a.core == c.core && a.kind == .eng && a.store == Cls.copy.code &&
    decide (a.cmd < c.id))).map (fun a => a.id), h.next hm, rfl, ?_, ?_, ?_⟩
  · intro m hn
    rw [statDone, cmdOf_finish_ne _ _ _ _ hn, cmdOf_modCmd_ne _ _ _ _ (by intro x; rfl) hn]
  · exact cmdOf_finish_same _ _ (cmdOf_modCmd_same s c.id (fun d => { d with acq := _ }) (by intro x; rfl) c h.1)
  · intro n
    simp only [List.mem_map, List.mem_filter, Bool.and_eq_true, beq_iff_eq, decide_eq_true_eq]
    constructor
    · rintro ⟨a, ⟨ha, ⟨⟨h1, h2⟩, h3⟩, h4⟩, rfl⟩
      exact ⟨a, ha, rfl, h1, h2, h3, h4⟩
    · rintro ⟨a, ha, rfl, h1, h2, h3, h4⟩
      exact ⟨a, ⟨ha, ⟨⟨h1, h2⟩, h3⟩, h4⟩, rfl⟩

end Sys2Proof.Machine
end

section
/-! The completion of a command (R19, R20, R288). -/

namespace Sys2Proof.Machine

/-- Filled speaks of the cores alone. -/
theorem Filled.congr {s t u : State} {core : Nat} {i : CtxId} {n : Nat} {v : Word} {m : Option Mark}
    (h : Filled s t core i n v m) (e : ∀ k, coreOf u k = coreOf t k) : Filled s u core i n v m := by
  unfold Filled OnlyContext ctxOf at *
  simpa only [e] using h

/-- Fills of the parts of a reply behind the first change no register that waits for the first alone, and none that waits for none. -/
theorem fillsBehind_keep (l : List (Nat × Word)) (hl : ∀ p ∈ l, p.1 ≠ 0) (n : Nat) (acq : List Nat) (c : Ctx) :
    OnlyRegs c (l.foldl (fun x p => x.fill n p.1 p.2 none acq) c) ∧
    ∀ q, (∀ p ∈ (c.reg q).pend, p.id ≠ n) → SameReg c (l.foldl (fun x p => x.fill n p.1 p.2 none acq) c) q := by
  induction l generalizing c with
  | nil => exact ⟨OnlyRegs.refl c, fun q _ => SameReg.refl c q⟩
  | cons p l ih =>
    have hd := ih (fun p hp => hl p (by simp [hp])) (c.fill n p.1 p.2 none acq)
    refine ⟨(Ctx.fill_only c n p.1 p.2 none acq).trans hd.1, fun q hq => ?_⟩
    have hs := Ctx.fill_same c n p.1 p.2 none acq q hq
    exact hs.trans (hd.2 q (by rw [hs.2.2.1]; exact hq))

/-- The fills of all parts of a reply fill the registers that wait for its first. -/
theorem Filled.of_fills (s : State) (core : Nat) (i : CtxId) (n : Nat) (v : Word) (l : List (Nat × Word)) (hl : ∀ p ∈ l, p.1 ≠ 0)
    (acq : List Nat) : Filled s (modCtx s core i (fun c => ((0, v) :: l).foldl (fun x p => x.fill n p.1 p.2 none acq) c)) core i n v none := by
  have hk := fillsBehind_keep l hl n acq ((ctxOf s core i).fill n 0 v none acq)
  refine ⟨OnlyContext.of_modCtx s core i _, ?_, fun q hq => ?_, fun q hq => ?_⟩
  · rw [ctxOf_modCtx_same]; exact (Ctx.fill_only ..).trans hk.1
  · obtain ⟨hv, hm, hp⟩ := Ctx.fill_awaits (ctxOf s core i) n v none acq q hq
    have hs := hk.2 q (by rw [hp]; simp)
    rw [ctxOf_modCtx_same]
    exact ⟨hs.1.trans hv, hs.2.1.trans hm, hs.2.2.1.trans hp⟩
  · have hs := Ctx.fill_same (ctxOf s core i) n 0 v none acq q hq
    rw [ctxOf_modCtx_same]
    exact hs.trans (hk.2 q (by rw [hs.2.2.1]; exact hq))

theorem coreOf_setCtx_total (s : State) (core : Nat) (i : CtxId) (x : Ctx) :
    (coreOf (setCtx s core i x) core).total = (coreOf s core).total := by
  cases i <;> simp [setCtx, Core.setCtx]

/-- The fills of the parts of a reply, each part with its number. -/
def replyFills (v : Word) (out : List Word) : List (Nat × Word) := (0, v) :: (upFrom 1 out.length).zip out

theorem replyFills_behind (out : List Word) : ∀ p ∈ (upFrom 1 out.length).zip out, p.1 ≠ 0 := by
  intro p hp
  have := (List.of_mem_zip hp).1
  rw [upFrom_eq] at this
  obtain ⟨i, -, hi⟩ := List.mem_map.1 this
  omega

/-- A command that is over: its fills, and a copy's share of the byte total. -/
theorem endCmd_spec {s : State} {c : Cmd} (v : Word) :
    let t := endCmd s c (v :: c.out)
    { t with cores := s.cores, cmds := s.cmds } = s ∧ OnlyCmd s t c.id ∧ cmdOf t c.id = none ∧
    (coreOf t c.core).total = (if c.cls = .copy ∧ cpOp c.img ≠ 11 then (coreOf s c.core).total + BitVec.ofNat 48 c.value
      else (coreOf s c.core).total) ∧
    Filled s (setCore t c.core { coreOf t c.core with total := (coreOf s c.core).total }) c.core c.ctx c.id v none := by
  intro t
  let acq := (cmdAcc s c.id).map (fun a => a.id) ++ c.acq
  let u := modCtx s c.core c.ctx (fun x => (replyFills v c.out).foldl (fun x p => x.fill c.id p.1 p.2 none acq) x)
  have hf : Filled s u c.core c.ctx c.id v none := Filled.of_fills s c.core c.ctx c.id v _ (replyFills_behind c.out) acq
  have hu : (coreOf u c.core).total = (coreOf s c.core).total := coreOf_setCtx_total s c.core c.ctx _
  have ht : t = if c.cls = .copy ∧ cpOp c.img ≠ 11 then
      modCore (dropCmd u c.id) c.core (fun k => { k with total := k.total + BitVec.ofNat 48 c.value }) else dropCmd u c.id := rfl
  have he : ∀ n, coreOf (setCore t c.core { coreOf t c.core with total := (coreOf s c.core).total }) n = coreOf u n := by
    intro n
    by_cases h : n = c.core
    · subst h
      rw [coreOf_setCore_same, ← hu, ht]
      split
      · rw [coreOf_modCore_same]; rfl
      · rfl
    · rw [coreOf_setCore_ne _ _ _ _ h, ht]
      split
      · rw [coreOf_modCore_ne _ _ _ _ h]; rfl
      · rfl
  refine ⟨?_, fun m hm => ?_, ?_, ?_, hf.congr he⟩
  · rw [ht]; split <;> rfl
  · rw [ht]; split <;> exact cmdOf_dropCmd_ne u c.id m hm
  · rw [ht]; split <;> exact cmdOf_dropCmd_same u c.id
  · rw [ht]
    split
    · rw [coreOf_modCore_same, ← hu]; rfl
    · exact hu

theorem statusWord_eq (code value : Nat) : statusWord code value = w64 (code % 2 ^ 16 * 2 ^ 48 + value % 2 ^ 48 : Nat) :=
  (BitVec.ofInt_natCast 64 _).symm

theorem commandComplete_spec {s : State} {c : Cmd} (h : cmdOf s c.id = some c) (hp : c.phase = .finished)
    (hg : ∀ g, gangOf s c.gang = some g → g.saved = false) (hw : waitsDone s c = true)
    (ha : ∀ a ∈ s.acc ++ s.backInv, a.cmd = c.id → a.nearAt ≠ 0) :
    exec (.commandComplete c.id) s = .next (endCmd s c (statusWord c.code c.value :: c.out)) := by
  have hs : gangSaved s c = false := by
    unfold gangSaved
    cases hx : gangOf s c.gang with
    | none => rfl
    | some g => simp [hg g hx]
  have hn : (cmdAcc s c.id).all (fun a => a.nearAt != 0) = true := by
    simp only [cmdAcc, List.all_eq_true, List.mem_filter, beq_iff_eq, bne_iff_ne]
    exact fun a ⟨h1, h2⟩ => ha a h1 h2
  change Host.Outcome.next _ = _
  rw [h]
  simp only [hp, hs, hn, hw, and_self, if_true]

end Sys2Proof.Machine
end

section
/-! The micro-operations of the matrix engine: their numbering, their operands and what they write (R249 to R260). -/

namespace Sys2Proof.Machine

/-! Lists of fixed-size pieces. -/

theorem countsOf_eq (b : List Byte) (n : Nat) :
    countsOf b n = (List.range n).map (fun i => leNat ((b.drop (4 * i)).take 4)) := by
  induction n generalizing b with
  | zero => rfl
  | succ n ih =>
    rw [countsOf, ih, List.range_succ_eq_map, List.map_cons, List.map_map]
    simp only [Nat.mul_zero, List.drop_zero, List.cons.injEq, true_and]
    exact List.map_congr_left (fun i _ => by simp [List.drop_drop, Nat.mul_succ, Nat.add_comm])

/-! Reads of an unmarked scratchpad. -/

section
variable {s : State} {c : Cmd} (h : (coreOf s c.core).spBad = [])
include h

theorem engRead_unmarked (off n : Nat) : engRead s c off n = .ok (spView s c.core off n) := by
  rw [engRead, List.find?_eq_none.2 (fun g _ => by simp [h])]

theorem badRange_unmarked (l : List (Nat × Nat)) : badRange s c l = none := by
  unfold badRange
  induction l with
  | nil => rfl
  | cons r l ih => rw [List.foldl_cons, engRead_unmarked h]; exact ih

theorem engGetSp_unmarked (off n : Nat) : engGetSp s c off n = .ok (spView s c.core off n) := by
  rw [engGetSp, engRead_unmarked h]

end

theorem Unheld.engRead_ok {s : State} {c : Cmd} (h : Unheld s c) (off n : Nat) : engRead s c off n = .ok (spView s c.core off n) :=
  engRead_unmarked h.1 off n

theorem Unheld.badRange_none {s : State} {c : Cmd} (h : Unheld s c) (l : List (Nat × Nat)) : badRange s c l = none :=
  badRange_unmarked h.1 l

theorem Unheld.engGetSp_ok {s : State} {c : Cmd} (h : Unheld s c) (off n : Nat) : engGetSp s c off n = .ok (spView s c.core off n) :=
  engGetSp_unmarked h.1 off n

/-! The numbers of the micro-operations of MMA and MMAG (R252, R255). -/

theorem uopAt_pass (ncg nkg : Nat) (l r : List Nat) (n cg kg b g r0 : Nat) (hc : cg < ncg) (hk : kg < nkg) (hb : b < cdiv n 64) :
    uopAt ncg nkg (l ++ n :: r) g r0 ((l.map (fun n => ncg * nkg * cdiv n 64)).sum + ((cg * nkg + kg) * cdiv n 64 + b)) =
      some ⟨g + l.length, cg, kg, r0 + l.sum + 64 * b, min (r0 + l.sum + 64 * b + 64) (r0 + l.sum + n)⟩ := by
  induction l generalizing g r0 with
  | nil =>
    have hd : cg * nkg + kg < ncg * nkg := by nlinarith
    have hlt : (cg * nkg + kg) * cdiv n 64 + b < ncg * nkg * cdiv n 64 := by nlinarith
    have h1 : ((cg * nkg + kg) * cdiv n 64 + b) / cdiv n 64 = cg * nkg + kg := by
      rw [Nat.add_comm, Nat.add_mul_div_right _ _ (by omega), Nat.div_eq_of_lt hb, Nat.zero_add]
    have h2 : ((cg * nkg + kg) * cdiv n 64 + b) % cdiv n 64 = b := by
      rw [Nat.add_comm, Nat.add_mul_mod_self_right, Nat.mod_eq_of_lt hb]
    have h3 : (cg * nkg + kg) / nkg = cg := by
      rw [Nat.add_comm, Nat.add_mul_div_right _ _ (by omega), Nat.div_eq_of_lt hk, Nat.zero_add]
    have h4 : (cg * nkg + kg) % nkg = kg := by rw [Nat.add_comm, Nat.add_mul_mod_self_right, Nat.mod_eq_of_lt hk]
    simp only [List.nil_append, List.map_nil, List.sum_nil, Nat.zero_add, uopAt, hlt, if_true, h1, h2, h3, h4, List.length_nil,
      Nat.add_zero]
  | cons m l ih =>
    rw [List.cons_append, uopAt, if_neg (by simp only [List.map_cons, List.sum_cons]; omega)]
    have := ih (g + 1) (r0 + m)
    simp only [List.map_cons, List.sum_cons, List.length_cons]
    rw [show ncg * nkg * cdiv m 64 + (l.map (fun n => ncg * nkg * cdiv n 64)).sum + ((cg * nkg + kg) * cdiv n 64 + b)
      - ncg * nkg * cdiv m 64 = (l.map (fun n => ncg * nkg * cdiv n 64)).sum + ((cg * nkg + kg) * cdiv n 64 + b) by omega, this]
    simp only [Option.some.injEq, MxUop.mk.injEq, true_and]
    omega

theorem uopAt_end (ncg nkg : Nat) (l : List Nat) (g r0 : Nat) :
    uopAt ncg nkg l g r0 (l.map (fun n => ncg * nkg * cdiv n 64)).sum = none := by
  induction l generalizing g r0 with
  | nil => rfl
  | cons m l ih =>
    rw [uopAt, if_neg (by simp)]
    simpa using ih (g + 1) (r0 + m)

theorem uopCount_eq (c : Cmd) (l : List Nat) : uopCount c l = (l.map (fun n => mxNcg c * mxNkg c * cdiv n 64)).sum :=
  (List.sum_eq_foldl ..).symm

/-! The set-up of MMAG (R255). -/

theorem ragged_at (m : Nat) (l : List Nat) (i g sum : Nat) (hi : i < l.length) (hl : sum + (l.take i).sum ≤ m)
    (hm : m < sum + (l.take (i + 1)).sum) : ragged m l g sum = some (g + i) := by
  induction l generalizing i g sum with
  | nil => simp at hi
  | cons n l ih =>
    cases i with
    | zero => rw [ragged, if_pos (by simpa using hm)]; rfl
    | succ i =>
      simp only [List.take_succ_cons, List.sum_cons] at hl hm
      rw [ragged, if_neg (by omega), ih i (g + 1) (sum + n) (by simpa using hi) (by omega) (by omega)]
      congr 1; omega

theorem ragged_none (m : Nat) (l : List Nat) (g sum : Nat) (hl : sum + l.sum ≤ m) : ragged m l g sum = none := by
  induction l generalizing g sum with
  | nil => rfl
  | cons n l ih =>
    simp only [List.sum_cons] at hl
    rw [ragged, if_neg (by omega), ih _ _ (by omega)]

theorem mmaStart_fault {s : State} {c : Cmd} (counts : List Nat) (hp : mxBpre c.img = 1)
    (h : ¬((coreOf s c.core).shadow.valid = true ∧ (coreOf s c.core).shadow.btype = fmtB c.fmt ∧
      (coreOf s c.core).shadow.g = fmtGc c.fmt)) : mmaStart s c counts = engineFault s c 0x904 0#64 := by
  rw [mmaStart, if_pos ⟨hp, h⟩]

theorem mmaStart_ok {s : State} {c : Cmd} (counts : List Nat) (h : mxBpre c.img ≠ 1 ∨
    ((coreOf s c.core).shadow.valid = true ∧ (coreOf s c.core).shadow.btype = fmtB c.fmt ∧
      (coreOf s c.core).shadow.g = fmtGc c.fmt)) :
    mmaStart s c counts = modCmd (setCore s c.core { coreOf s c.core with shadow := Shadow.reset }) c.id (fun d =>
      { d with upc := 1, work := counts, tile := if mxBpre d.img = 1 then some (coreOf s c.core).shadow else none }) := by
  rw [mmaStart, if_neg (fun ⟨hp, hn⟩ => h.elim (fun h => h hp) hn)]
  rfl

/-- The set-up of an MMA or MMAG whose groups have the row counts given (R252, R253). -/
theorem mmaStart_spec {s : State} {c : Cmd} {counts : List Nat} (h : AtWork s c .matrix) (hm : microOp s c = mmaStart s c counts) :
    let w := (coreOf s c.core).shadow
    let fits : Prop := w.valid = true ∧ w.btype = fmtB c.fmt ∧ w.g = fmtGc c.fmt
    (mxBpre c.img = 1 → ¬fits → exec (.engineMicroOp c.id) s = .next (engineFault s c 0x904 0#64)) ∧
    (mxBpre c.img ≠ 1 ∨ fits → Works s c (setCore s c.core { coreOf s c.core with shadow := Shadow.reset })
      { c with upc := 1, work := counts, tile := if mxBpre c.img = 1 then some w else none }) :=
  ⟨fun hp hf => h.next (hm.trans (mmaStart_fault counts hp hf)),
   fun hf => h.mods (fun d => { d with upc := 1, work := counts, tile := if mxBpre d.img = 1 then some (coreOf s c.core).shadow else none })
     (fun _ => rfl) rfl (hm.trans (mmaStart_ok counts hf))⟩

end Sys2Proof.Machine
end

section
/-! What a pass of MMA or MMAG computes and writes (R249 to R252, R264). -/

namespace Sys2Proof.Machine

/-- Column j of a pass's B: its values of the pass's K steps, from the shadow tile where the pass takes that. -/
def mmaCol (s : State) (c : Cmd) (u : MxUop) (j : Nat) : List Num :=
  let cnt := min (kStep c.fmt) (mxK c.img - u.kg * kStep c.fmt)
  match (if u.g = 0 ∧ u.cg = 0 ∧ u.kg = 0 then c.tile else none) with
  | some w => (upFrom 0 cnt).map (tileVal w j)
  | none => (upFrom (u.kg * kStep c.fmt) cnt).map (fun k => bVal (fmtB c.fmt) (bRaw (spView s c.core) c.img c.fmt u.g j k))

/-- The sum that a pass adds at row i and column j, as an FP32 pattern (R201 to R203). -/
def mmaSum (s : State) (c : Cmd) (u : MxUop) (i j : Nat) : Nat :=
  let cnt := min (kStep c.fmt) (mxK c.img - u.kg * kStep c.fmt)
  rndFloat ((exactSum (aVals (spView s c.core) c.img c.fmt i (u.kg * kStep c.fmt) cnt) (mmaCol s c u j)
    (decide (cnt < kStep c.fmt))).mul (tileScale c.img)) fp32 0 false Rand.zero

/-- The rows that a pass writes, with a pattern for each row and column. -/
def mmaRows (c : Cmd) (u : MxUop) (v : Nat → Nat → Nat) : List (Nat × List Byte) :=
  (upFrom u.lo (u.hi - u.lo)).map (fun i => (mxCof c.img + i * mxCstr c.img + 4 * (64 * u.cg),
    (upFrom (64 * u.cg) (min 64 (mxN c.img - 64 * u.cg))).flatMap (fun j => natBytes (v i j) 4)))

/-- The values that a pass which starts from +0 leaves. -/
def mmaVals (s : State) (c : Cmd) (u : MxUop) : List Num :=
  (upFrom u.lo (u.hi - u.lo)).flatMap (fun i =>
    (upFrom (64 * u.cg) (min 64 (mxN c.img - 64 * u.cg))).map (fun j => decNum 0 (addFp32 0 (mmaSum s c u i j))))

theorem mmaUop_fresh {s : State} {c : Cmd} (h : Unheld s c) (u : MxUop) (hm : mxMode c.img = 0) (hk : u.kg = 0) :
    mmaUop s c u = writeRows s c (mmaRows c u (fun i j => addFp32 0 (mmaSum s c u i j)))
      (fun s' => goOn (setSticky s' c.core (accSticky (mmaVals s c u))) c (c.upc + 1)) := by
  unfold mmaUop
  simp only [h.badRange_none]
  rw [if_pos (by simp [hm, hk])]
  simp only [mmaRows, mmaVals, mmaSum, mmaCol, Function.comp_def, List.flatMap_map, Bool.and_eq_true, beq_iff_eq, and_assoc,
    List.map_map] <;> rfl

theorem mmaUop_adds {s : State} {c : Cmd} (h : Unheld s c) (u : MxUop) (hf : ¬(mxMode c.img = 0 ∧ u.kg = 0)) :
    mmaUop s c u = addRows s c (mmaRows c u (mmaSum s c u)) (fun s => goOn s c (c.upc + 1)) := by
  unfold mmaUop
  simp only [h.badRange_none]
  rw [if_neg (by simpa using hf)]
  simp only [mmaRows, mmaSum, mmaCol, Function.comp_def, List.flatMap_map, Bool.and_eq_true, beq_iff_eq, and_assoc, List.map_map] <;> rfl

/-- A pass of an MMA or MMAG, by the number of its micro-operation. -/
theorem matrixUop_pass {s : State} {c : Cmd} (ho : mxOp c.img = 1 ∨ mxOp c.img = 2) {l r : List Nat} {n cg kg b : Nat}
    (hw : c.work = l ++ n :: r) (hc : cg < mxNcg c) (hk : kg < mxNkg c) (hb : b < cdiv n 64)
    (hu : c.upc = 1 + (l.map (fun n => mxNcg c * mxNkg c * cdiv n 64)).sum + (cg * mxNkg c + kg) * cdiv n 64 + b) :
    matrixUop s c = mmaUop s c ⟨l.length, cg, kg, l.sum + 64 * b, min (l.sum + 64 * b + 64) (l.sum + n)⟩ := by
  have hp := uopAt_pass (mxNcg c) (mxNkg c) l r n cg kg b 0 0 hc hk hb
  rw [Nat.zero_add, Nat.zero_add, ← hw, show (l.map (fun n => mxNcg c * mxNkg c * cdiv n 64)).sum + ((cg * mxNkg c + kg) * cdiv n 64 + b)
    = c.upc - 1 by omega] at hp
  have h0 : c.upc ≠ 0 := by omega
  rcases ho with ho | ho <;> simp [matrixUop, ho, h0, hp]

/-- An MMA or MMAG behind its last pass. -/
theorem matrixUop_end {s : State} {c : Cmd} (ho : mxOp c.img = 1 ∨ mxOp c.img = 2)
    (hu : c.upc = 1 + (c.work.map (fun n => mxNcg c * mxNkg c * cdiv n 64)).sum) :
    matrixUop s c = finish s c 0 ((if mxOp c.img = 1 then mxM c.img else c.work.sum) * mxN c.img) := by
  have hp := uopAt_end (mxNcg c) (mxNkg c) c.work 0 0
  rw [show (c.work.map (fun n => mxNcg c * mxNkg c * cdiv n 64)).sum = c.upc - 1 by omega] at hp
  have h0 : c.upc ≠ 0 := by omega
  rcases ho with ho | ho <;> simp [matrixUop, ho, h0, hp]

theorem exactSum_eq (av bv : List Num) (q : Prop) [Decidable q] :
    exactSum av bv (decide q) = Num.sum (List.zipWith Num.mul av bv ++ if q then [.fin false 0 0] else []) := by
  simp only [exactSum, List.zip, List.map_zipWith]
  by_cases hq : q <;> simp [hq]

theorem setSticky_eq {s u : State} (h : u.cores = s.cores) (core : Nat) (b : BitVec 4) :
    setSticky u core b = setCore u core { coreOf s core with sticky := (coreOf s core).sticky ||| b } := by
  rw [setSticky, modCore, coreOf, h]; rfl

/-- The rows of a block of a group, from its first. -/
theorem passRows_eq (x y n b : Nat) (h : x = y + 64 * b) (hb : b < cdiv n 64) :
    upFrom x (min (x + 64) (y + n) - x) = (List.range (min 64 (n - 64 * b))).map (fun i => x + i) := by
  rw [upFrom_eq, show min (x + 64) (y + n) - x = min 64 (n - 64 * b) by
    have : b < (n + 63) / 64 := hb
    omega]

end Sys2Proof.Machine
end

section
/-! The set-up of MMAG, and MWLD, MDRAIN, MZERO and MFENCE (R254 to R258, R261). -/

namespace Sys2Proof.Machine

/-- The row counts that MMAG reads. -/
def mmagCounts (s : State) (c : Cmd) : List Nat := countsOf (spView s c.core (mxRof c.img) (4 * mxNg c.img)) (mxNg c.img)

theorem mmagCounts_length (s : State) (c : Cmd) : (mmagCounts s c).length = mxNg c.img := by simp [mmagCounts, countsOf_eq]

theorem mmagStart_ragged {s : State} {c : Cmd} (h : Unheld s c) {g : Nat} (hg : g < mxNg c.img)
    (hl : ((mmagCounts s c).take g).sum ≤ mxM c.img) (hm : mxM c.img < ((mmagCounts s c).take (g + 1)).sum) :
    mmagStart s c = engineFault s c 0x903 (BitVec.ofNat 64 g) := by
  have hr := ragged_at (mxM c.img) (mmagCounts s c) g 0 0 (by rwa [mmagCounts_length]) (by simpa using hl) (by simpa using hm)
  unfold mmagCounts at hr
  rw [mmagStart, h.engRead_ok]
  simp only [hr, Nat.zero_add]

theorem mmagStart_fits {s : State} {c : Cmd} (h : Unheld s c) (hl : (mmagCounts s c).sum ≤ mxM c.img) :
    mmagStart s c = if 2 ^ 24 ≤ 1 + uopCount c (mmagCounts s c) then engineFault s c 0x903 0xFFFFFFFF#64
      else mmaStart s c (mmagCounts s c) := by
  have hr := ragged_none (mxM c.img) (mmagCounts s c) 0 0 (by simpa using hl)
  unfold mmagCounts at hr ⊢
  rw [mmagStart, h.engRead_ok]
  simp only [hr]

/-- The cells of the tile that MWLD loads: pattern and scale, by columns. -/
def mwldCells (s : State) (c : Cmd) : List (Nat × Nat) :=
  (List.range (min (mxN c.img) 64)).flatMap (fun j => (List.range (min (mxK c.img) (kStep c.fmt))).map (fun x =>
    bRaw (spView s c.core) c.img c.fmt 0 j x))

theorem mwldUop_eq {s : State} {c : Cmd} (h : Unheld s c) :
    mwldUop s c = finish (setCore s c.core { coreOf s c.core with
      shadow := ⟨true, fmtB c.fmt, fmtGc c.fmt, min (mxK c.img) (kStep c.fmt), (mwldCells s c).map (fun p => p.1),
        (mwldCells s c).map (fun p => p.2)⟩ }) c 0
      (((mxReads 3 c.img c.fmt).filter MxExt.live).map (fun x => x.count * x.size)).sum := by
  unfold mwldUop
  simp only [h.badRange_none, upFrom_eq, Nat.zero_add, List.map_id']
  rfl

theorem rowBlock_eq (t : TplImage) (n : Nat) :
    rowBlock t n = (List.range (min 64 (mxM t - 64 * n))).map (fun i => 64 * n + i) := upFrom_eq _ _

/-- The FP32 patterns of a row of an accumulator. -/
def accRow (s : State) (c : Cmd) (i : Nat) : List Nat :=
  countsOf (spView s c.core (mxCof c.img + i * mxCstr c.img) (4 * mxN c.img)) (mxN c.img)

theorem foldl_or_map {α : Type} (l : List α) (f : α → BitVec 4) (b : BitVec 4) :
    l.foldl (fun b x => b ||| f x) b = b ||| l.foldl (fun b x => b ||| f x) 0#4 := by
  induction l generalizing b with
  | nil => simp
  | cons x l ih => rw [List.foldl_cons, ih, List.foldl_cons, ih (0#4 ||| f x)]; simp [BitVec.or_assoc]

/-- Status bits gathered over rows: each is set where some row sets it. -/
theorem foldl_or_bits {α : Type} (l : List α) (p q : α → Bool) :
    l.foldl (fun b x => b ||| ((if p x = true then 8#4 else 0#4) ||| if q x = true then 4#4 else 0#4)) 0#4 =
      (if l.any p = true then 8#4 else 0#4) ||| if l.any q = true then 4#4 else 0#4 := by
  have key : ∀ a b c d : Bool, 0#4 ||| ((if a = true then 8#4 else 0#4) ||| if b = true then 4#4 else 0#4) |||
      ((if c = true then 8#4 else 0#4) ||| if d = true then 4#4 else 0#4) =
      (if (a || c) = true then 8#4 else 0#4) ||| if (b || d) = true then 4#4 else 0#4 := by decide
  induction l with
  | nil => simp
  | cons x l ih =>
    rw [List.foldl_cons, foldl_or_map, ih, List.any_cons, List.any_cons]
    exact key _ _ _ _

/-- Whether a drained row holds a NaN, and whether a value of it lies beyond BF16's range (R260). -/
def drainNan (t : TplImage) (row : List Nat) : Bool :=
  match mxDtype t with
  | 0 | 1 => (row.map (decNum 0)).any Num.isNan
  | 2 => packNan e4m3 (mxDrm t) (mxDsat t == 1) (row.map (decNum 0))
  | _ => packNan e5m2 (mxDrm t) (mxDsat t == 1) (row.map (decNum 0))
def drainPast (t : TplImage) (row : List Nat) : Bool :=
  mxDtype t == 1 && (row.map (decNum 0)).any (fun x => bf16Over x (mxDrm t))

theorem drainSticky_eq (t : TplImage) (row : List Nat) :
    drainSticky t row = (if drainNan t row = true then 8#4 else 0#4) ||| if drainPast t row = true then 4#4 else 0#4 := by
  unfold drainSticky drainNan drainPast
  generalize mxDtype t = d
  match d with
  | 0 => simp
  | 1 => simp
  | 2 => simp
  | n + 3 => simp

theorem drainUop_eq {s : State} {c : Cmd} (h : Unheld s c) :
    let rows := rowBlock c.img (c.upc - 1)
    drainUop s c = writeRows s c (rows.map (fun i => (mxDof c.img + i * mxDstr c.img, drainBytes c.img (accRow s c i))))
      (fun s' => modCmd (setSticky s' c.core (rows.foldl (fun b i => b ||| drainSticky c.img (accRow s c i)) 0#4)) c.id (fun d =>
        { d with upc := d.upc + 1, counted := d.counted + (rows.map (fun i => (drainBytes c.img (accRow s c i)).length)).sum })) := by
  intro rows
  unfold drainUop
  simp only [h.badRange_none]
  simp only [← List.map_prod_left_eq_zip, List.map_map, Function.comp_def, List.foldl_map]
  rfl

theorem zeroUop_eq (s : State) (c : Cmd) :
    zeroUop s c = writeRows s c ((rowBlock c.img (c.upc - 1)).map (fun i =>
      (mxCof c.img + i * mxCstr c.img, natBytes 0 (4 * mxN c.img)))) (fun s => goOn s c (c.upc + 1)) := rfl

theorem natBytes_zero (n : Nat) : natBytes 0 n = List.replicate n 0#8 := by
  induction n with
  | zero => rfl
  | succ n ih => rw [natBytes, Nat.zero_div, ih]; rfl

theorem matrixFar_iff (s : State) (core : Nat) :
    matrixFar s core = true ↔ ∀ a ∈ s.acc, a.core = core → a.kind = .eng ∨ a.kind = .acc → a.store ≠ 9 := by
  simp only [matrixFar, Bool.not_eq_true', List.any_eq_false, Bool.and_eq_true, Bool.or_eq_true, beq_iff_eq, not_and, and_imp]
  rfl

end Sys2Proof.Machine
end

section
/-! The granules of a list of writes (R156, R280). -/

namespace Sys2Proof.Machine

/-- A run keeps to the bytes that it is made from. -/
theorem runsFrom_bounds (a : Nat) (os : List (Option Byte)) (r : Nat × List Byte) (h : r ∈ runsFrom a os) :
    a ≤ r.1 ∧ r.1 + r.2.length ≤ a + os.length ∧ r.2 ≠ [] := by
  induction os generalizing a r with
  | nil => simp [runsFrom] at h
  | cons o os ih =>
    cases o with
    | none =>
      have := ih (a + 1) r h
      simp only [List.length_cons]
      exact ⟨by omega, by omega, this.2.2⟩
    | some b =>
      have hr : ∀ q, q ∈ runsFrom (a + 1) os → a + 1 ≤ q.1 ∧ q.1 + q.2.length ≤ a + 1 + os.length ∧ q.2 ≠ [] := fun q hq => ih (a + 1) q hq
      rw [runsFrom] at h
      split at h
      · rename_i o d more e
        rw [e] at hr
        split at h
        · rename_i ho
          rcases List.mem_cons.1 h with h | h
          · subst h
            have := hr (o, d) (by simp)
            simp only [List.length_cons] at this ⊢
            exact ⟨by omega, by omega, by simp⟩
          · have := hr r (by simp [h])
            simp only [List.length_cons]
            exact ⟨by omega, by omega, this.2.2⟩
        · rcases List.mem_cons.1 h with h | h
          · subst h
            simp only [List.length_cons, List.length_nil]
            exact ⟨by omega, by omega, by simp⟩
          · have := hr r h
            simp only [List.length_cons]
            exact ⟨by omega, by omega, this.2.2⟩
      · have := List.mem_singleton.1 h
        subst this
        simp only [List.length_cons, List.length_nil]
        exact ⟨by omega, by omega, by simp⟩

/-- A byte at a place of a list of runs. -/
def byteIn (l : List (Nat × List Byte)) (x : Nat) (b : Byte) : Prop := ∃ r ∈ l, r.1 ≤ x ∧ r.2[x - r.1]? = some b

theorem byteIn_cons (r : Nat × List Byte) (l : List (Nat × List Byte)) (x : Nat) (b : Byte) :
    byteIn (r :: l) x b ↔ (r.1 ≤ x ∧ r.2[x - r.1]? = some b) ∨ byteIn l x b := by
  simp [byteIn]

/-- The runs hold the bytes that they are made from, each at its place. -/
theorem byteIn_runsFrom (a : Nat) (os : List (Option Byte)) (x : Nat) (b : Byte) :
    byteIn (runsFrom a os) x b ↔ a ≤ x ∧ os[x - a]? = some (some b) := by
  induction os generalizing a with
  | nil => simp [runsFrom, byteIn]
  | cons o os ih =>
    have hx : (a + 1 ≤ x ∧ os[x - (a + 1)]? = some (some b)) ↔ a < x ∧ (o :: os)[x - a]? = some (some b) := by
      constructor
      · rintro ⟨h, g⟩
        rw [show x - a = x - (a + 1) + 1 by omega]
        exact ⟨h, by simpa using g⟩
      · rintro ⟨h, g⟩
        rw [show x - a = x - (a + 1) + 1 by omega] at g
        exact ⟨h, by simpa using g⟩
    have hi := (ih (a + 1)).trans hx
    have hone : ∀ d, (a ≤ x ∧ ([d] : List Byte)[x - a]? = some b) ↔ x = a ∧ d = b := by
      intro d
      constructor
      · rintro ⟨h, g⟩
        have : x - a = 0 := by
          by_contra hn
          rw [List.getElem?_eq_none (by simp; omega)] at g
          simp at g
        rw [this] at g
        exact ⟨by omega, by simpa using g⟩
      · rintro ⟨rfl, rfl⟩; simp
    have hsplit : (a ≤ x ∧ (o :: os)[x - a]? = some (some b)) ↔ (x = a ∧ o = some b) ∨ (a < x ∧ (o :: os)[x - a]? = some (some b)) := by
      constructor
      · rintro ⟨h, g⟩
        rcases Nat.eq_or_lt_of_le h with h | h
        · subst h; exact .inl ⟨rfl, by simpa using g⟩
        · exact .inr ⟨h, g⟩
      · rintro (⟨rfl, rfl⟩ | ⟨h, g⟩)
        · simp
        · exact ⟨Nat.le_of_lt h, g⟩
    rw [hsplit, ← hi]
    cases o with
    | none => simp [runsFrom]
    | some d =>
      rw [runsFrom]
      split
      · rename_i q e more hq
        split
        · rename_i ho
          rw [hq, byteIn_cons, byteIn_cons]
          subst ho
          have hstep : (a ≤ x ∧ (d :: e)[x - a]? = some b) ↔ (x = a ∧ d = b) ∨ (a + 1 ≤ x ∧ e[x - (a + 1)]? = some b) := by
            constructor
            · rintro ⟨h, g⟩
              rcases Nat.eq_or_lt_of_le h with h | h
              · subst h; exact .inl ⟨rfl, by simpa using g⟩
              · rw [show x - a = x - (a + 1) + 1 by omega] at g
                exact .inr ⟨h, by simpa using g⟩
            · rintro (⟨rfl, rfl⟩ | ⟨h, g⟩)
              · simp
              · rw [show x - a = x - (a + 1) + 1 by omega]
                exact ⟨by omega, by simpa using g⟩
          simp only [hstep, or_assoc, Option.some.injEq]
        · rw [hq, byteIn_cons, hone]
          simp
      · rename_i hq
        rw [hq, byteIn_cons, hone]
        simp [byteIn]

/-- The granules in which writes begin, in the order in which they come first. -/
def granulesIn (l : List (Word × List Byte)) : List Nat := l.foldl (fun b p => unionNat b [p.1.toNat / 32]) []

/-- The runs of a granule. -/
def runsIn (l : List (Word × List Byte)) (g : Nat) : List (Nat × List Byte) :=
  runsFrom (32 * g) ((upFrom (32 * g) 32).map (lastByte l))

theorem granuleRuns_eq (l : List (Word × List Byte)) :
    granuleRuns l = (granulesIn l).map (fun g => (runsIn l g).map (fun r => (BitVec.ofNat 64 r.1, r.2))) := rfl

theorem mem_unionNat_one (b : List Nat) (n g : Nat) : g ∈ unionNat b [n] ↔ g ∈ b ∨ g = n := by
  simp only [unionNat, List.mem_append, List.mem_filter, List.mem_singleton, Bool.not_eq_true', List.contains_eq_mem,
    decide_eq_false_iff_not]
  constructor
  · rintro (h | ⟨h, -⟩)
    · exact .inl h
    · exact .inr h
  · rintro (h | rfl)
    · exact .inl h
    · by_cases hb : g ∈ b
      · exact .inl hb
      · exact .inr ⟨rfl, hb⟩

theorem mem_granulesIn (l : List (Word × List Byte)) (g : Nat) : g ∈ granulesIn l ↔ ∃ p ∈ l, p.1.toNat / 32 = g := by
  have key : ∀ (l : List (Word × List Byte)) (b : List Nat),
      g ∈ l.foldl (fun b p => unionNat b [p.1.toNat / 32]) b ↔ g ∈ b ∨ ∃ p ∈ l, p.1.toNat / 32 = g := by
    intro l
    induction l with
    | nil => simp
    | cons p l ih =>
      intro b
      rw [List.foldl_cons, ih, mem_unionNat_one, or_assoc]
      simp only [List.exists_mem_cons_iff, eq_comm]
  exact (key l []).trans (by simp)

theorem nodup_granulesIn (l : List (Word × List Byte)) : (granulesIn l).Nodup := by
  have key : ∀ (l : List (Word × List Byte)) (b : List Nat), b.Nodup → (l.foldl (fun b p => unionNat b [p.1.toNat / 32]) b).Nodup := by
    intro l
    induction l with
    | nil => exact fun _ h => h
    | cons p l ih =>
      intro b hb
      refine ih _ (List.nodup_append.2 ⟨hb, (List.nodup_singleton _).filter _, ?_⟩)
      rintro x hx y hy rfl
      simp only [List.mem_filter, Bool.not_eq_true', List.contains_eq_mem, decide_eq_false_iff_not] at hy
      exact hy.2 hx
  exact key l [] List.nodup_nil

/-- The byte that a list of writes leaves at an address comes from one of them. -/
theorem lastByte_mem (l : List (Word × List Byte)) (a : Nat) (b : Byte) (h : lastByte l a = some b) :
    ∃ p ∈ l, p.1.toNat ≤ a ∧ a < p.1.toNat + p.2.length := by
  have key : ∀ (l : List (Word × List Byte)) (o : Option Byte),
      l.foldl (fun b p => if p.1.toNat ≤ a ∧ a < p.1.toNat + p.2.length then p.2[a - p.1.toNat]? else b) o = some b →
      o = some b ∨ ∃ p ∈ l, p.1.toNat ≤ a ∧ a < p.1.toNat + p.2.length := by
    intro l
    induction l with
    | nil => exact fun o h => .inl h
    | cons p l ih =>
      intro o h
      by_cases hp : p.1.toNat ≤ a ∧ a < p.1.toNat + p.2.length
      · exact .inr ⟨p, by simp, hp⟩
      · rw [List.foldl_cons, if_neg hp] at h
        rcases ih o h with h | ⟨q, hq, h⟩
        · exact .inl h
        · exact .inr ⟨q, by simp [hq], h⟩
  rcases key l none h with h | h
  · simp at h
  · exact h

/-- A run of a granule keeps to it, and its address is that of a word. -/
theorem runsIn_bounds {l : List (Word × List Byte)} {g : Nat} (hg : g ∈ granulesIn l) {r : Nat × List Byte} (h : r ∈ runsIn l g) :
    32 * g ≤ r.1 ∧ r.1 + r.2.length ≤ 32 * g + 32 ∧ r.2 ≠ [] ∧ (BitVec.ofNat 64 r.1).toNat = r.1 := by
  have hb := runsFrom_bounds _ _ r h
  rw [List.length_map, upFrom_eq, List.length_map, List.length_range] at hb
  obtain ⟨p, -, rfl⟩ := (mem_granulesIn l g).1 hg
  have hl : 0 < r.2.length := List.length_pos_iff.2 hb.2.2
  have : p.1.toNat < 2 ^ 64 := p.1.isLt
  exact ⟨hb.1, hb.2.1, hb.2.2, by rw [BitVec.toNat_ofNat, Nat.mod_eq_of_lt (by omega)]⟩

theorem mem_granuleRuns (l : List (Word × List Byte)) (q : Word × List Byte) :
    q ∈ (granuleRuns l).flatten ↔ ∃ g ∈ granulesIn l, ∃ r ∈ runsIn l g, q = (BitVec.ofNat 64 r.1, r.2) := by
  simp only [granuleRuns_eq, List.mem_flatten, List.mem_map]
  constructor
  · rintro ⟨_, ⟨g, hg, rfl⟩, hq⟩
    obtain ⟨r, hr, rfl⟩ := List.mem_map.1 hq
    exact ⟨g, hg, r, hr, rfl⟩
  · rintro ⟨g, hg, r, hr, rfl⟩
    exact ⟨_, ⟨g, hg, rfl⟩, List.mem_map.2 ⟨r, hr, rfl⟩⟩

/-- The runs of the granules leave at each address what the writes leave there. -/
theorem lastByte_iff_run (l : List (Word × List Byte)) (hl : ∀ p ∈ l, p.2 ≠ [] ∧ p.1.toNat / 32 = (p.1.toNat + p.2.length - 1) / 32)
    (a : Nat) (b : Byte) :
    lastByte l a = some b ↔ ∃ p ∈ (granuleRuns l).flatten, p.1.toNat ≤ a ∧ p.2[a - p.1.toNat]? = some b := by
  have hrun : ∀ g, byteIn (runsIn l g) a b ↔ (32 * g ≤ a ∧ a < 32 * g + 32) ∧ lastByte l a = some b := by
    intro g
    rw [runsIn, byteIn_runsFrom, upFrom_eq, List.map_map]
    constructor
    · rintro ⟨h, e⟩
      have hlt : a - 32 * g < 32 := by
        by_contra hn
        rw [List.getElem?_eq_none (by simpa using hn)] at e
        simp at e
      rw [List.getElem?_map, List.getElem?_range hlt] at e
      simp only [Option.map_some, Function.comp_apply, Option.some.injEq] at e
      rw [show 32 * g + (a - 32 * g) = a by omega] at e
      exact ⟨⟨h, by omega⟩, e⟩
    · rintro ⟨⟨h, h2⟩, e⟩
      rw [List.getElem?_map, List.getElem?_range (by omega)]
      simp only [Option.map_some, Function.comp_apply, Option.some.injEq]
      exact ⟨h, by rw [show 32 * g + (a - 32 * g) = a by omega]; exact e⟩
  constructor
  · intro h
    obtain ⟨p, hp, h1, h2⟩ := lastByte_mem l a b h
    obtain ⟨-, hg⟩ := hl p hp
    have hm : p.1.toNat / 32 ∈ granulesIn l := (mem_granulesIn l _).2 ⟨p, hp, rfl⟩
    obtain ⟨r, hr, h3, h4⟩ := (hrun (p.1.toNat / 32)).2 ⟨by omega, h⟩
    have hb := runsIn_bounds hm hr
    exact ⟨_, (mem_granuleRuns l _).2 ⟨_, hm, r, hr, rfl⟩, by simpa only [hb.2.2.2] using h3, by simpa only [hb.2.2.2] using h4⟩
  · rintro ⟨q, hq, h1, h2⟩
    obtain ⟨g, hg, r, hr, rfl⟩ := (mem_granuleRuns l q).1 hq
    have hb := runsIn_bounds hg hr
    simp only [hb.2.2.2] at h1 h2
    exact ((hrun g).1 ⟨r, hr, h1, h2⟩).2

end Sys2Proof.Machine
end

section
/-! Windows and images: the positions that begin in granules of an image, and the bytes laid there (R271, R272, R282). -/

namespace Sys2Proof.Machine

/-- An element's bytes divide a granule. -/
theorem laneBytes_divides (et : Nat) : ∃ k, 32 = k * laneBytes et := by
  unfold laneBytes
  split
  · exact ⟨8, rfl⟩
  · exact ⟨8, rfl⟩
  · exact ⟨16, rfl⟩
  · exact ⟨4, rfl⟩
  · exact ⟨32, rfl⟩

/-- Two rising lists of the same numbers are one list. -/
theorem eq_of_sorted_mem {l r : List Nat} (hl : l.Pairwise (· < ·)) (hr : r.Pairwise (· < ·)) (h : ∀ e, e ∈ l ↔ e ∈ r) : l = r :=
  List.Perm.eq_of_pairwise (le := (· < ·)) (fun _ _ _ _ h1 h2 => absurd h1 (Nat.lt_asymm h2)) hl hr
    ((List.perm_ext_iff_of_nodup (hl.imp Nat.ne_of_lt) (hr.imp Nat.ne_of_lt)).2 h)

theorem upFrom_sorted (a n : Nat) : (upFrom a n).Pairwise (· < ·) := by
  rw [upFrom_eq, List.pairwise_map]
  exact List.pairwise_lt_range.imp (fun h => by omega)

theorem mem_upFrom (a n e : Nat) : e ∈ upFrom a n ↔ a ≤ e ∧ e < a + n := by
  rw [upFrom_eq, List.mem_map]
  exact ⟨fun ⟨i, hi, h⟩ => by have := List.mem_range.1 hi; omega, fun h => ⟨e - a, List.mem_range.2 (by omega), by omega⟩⟩

/-- A window with a box of nothing has no position. -/
theorem count_of_head_zero (w : Window) (h : w.box.headD 1 = 0) : w.count = 0 := by
  have key : ∀ l : List Nat, l.foldl (fun a b => a * b) 0 = 0 := by
    intro l
    induction l with
    | nil => rfl
    | cons x l ih => simpa using ih
  unfold Window.count
  cases hb : w.box with
  | nil => rw [hb] at h; exact absurd h (by decide)
  | cons x l =>
    rw [hb] at h
    have hx : x = 0 := h
    rw [hx, List.foldl_cons, Nat.mul_zero, key]

/-- An image line holds the elements of a row of the box, in whole granules. -/
theorem Window.line_bounds (w : Window) : w.line % 32 = 0 ∧ w.box.headD 1 * w.es ≤ w.line := by
  unfold Window.line cdiv
  omega

/-- Positions in the order of their bytes are in their own order. -/
theorem Window.lt_of_byte_lt (w : Window) {e f : Nat} (h : w.byte e < w.byte f) : e < f := by
  by_contra hn
  have hfe : f ≤ e := Nat.le_of_not_lt hn
  refine absurd h (Nat.not_lt.2 ?_)
  have hl := w.line_bounds.2
  simp only [Window.byte]
  generalize w.box.headD 1 = b at hl ⊢
  split
  · rcases Nat.lt_or_ge (f / b) (e / b) with hq | hq
    · have hb : 0 < b := by
        rcases Nat.eq_zero_or_pos b with rfl | hb
        · simp at hq
        · exact hb
      have h1 : f % b * w.es ≤ b * w.es := Nat.mul_le_mul_right _ (Nat.le_of_lt (Nat.mod_lt f hb))
      have h2 : (f / b + 1) * w.line ≤ e / b * w.line := Nat.mul_le_mul_right _ hq
      rw [Nat.add_mul, Nat.one_mul] at h2
      omega
    · have hq : f / b = e / b := Nat.le_antisymm (Nat.div_le_div_right hfe) hq
      have hm : f % b ≤ e % b := by
        have h1 := Nat.div_add_mod f b
        have h2 := Nat.div_add_mod e b
        rw [hq] at h1
        omega
      rw [hq]
      exact Nat.add_le_add_left (Nat.mul_le_mul_right _ hm) _
  · exact Nat.mul_le_mul_right _ hfe

/-- A position that begins in a granule of an image with lines. -/
theorem Window.mem_granule (w : Window) {k : Nat} (hk : 32 = k * w.es) (hg : w.lgr = true) (hb : 0 < w.box.headD 1) {x : Nat}
    (hx : x % 32 = 0) (e : Nat) :
    e ∈ upFrom (x / w.line * w.box.headD 1 + x % w.line / w.es) (min (32 / w.es) (w.box.headD 1 - x % w.line / w.es)) ↔
      x ≤ w.byte e ∧ w.byte e < x + 32 := by
  obtain ⟨hl, hbl⟩ := w.line_bounds
  have hes : 0 < w.es := by
    rcases Nat.eq_zero_or_pos w.es with h | h
    · rw [h] at hk; omega
    · exact h
  simp only [Window.byte, hg, if_true, mem_upFrom]
  generalize w.box.headD 1 = b at hbl hb ⊢
  generalize w.line = L at hl hbl ⊢
  generalize w.es = z at hk hes hbl ⊢
  have hL : 0 < L := Nat.lt_of_lt_of_le (Nat.mul_pos hb hes) hbl
  have ho : x % L % 32 = 0 := by
    obtain ⟨m, rfl⟩ := Nat.dvd_of_mod_eq_zero hl
    rw [Nat.mod_mul_right_mod, hx]
  have hot : x % L / z * z = x % L := by
    refine Nat.div_mul_cancel (Nat.dvd_trans ?_ (Nat.dvd_of_mod_eq_zero ho))
    exact ⟨k, by rw [hk, Nat.mul_comm]⟩
  have hxq : x = x / L * L + x % L := by rw [Nat.mul_comm]; exact (Nat.div_add_mod x L).symm
  have h32 : 32 / z = k := by rw [hk, Nat.mul_div_cancel _ hes]
  have hoL : x % L + 32 ≤ L := by have := Nat.mod_lt x hL; omega
  have hej := Nat.div_add_mod e b
  have hjb := Nat.mod_lt e hb
  rw [h32]
  generalize x % L / z = t at *
  generalize x % L = o at *
  generalize x / L = q at *
  generalize hj : e % b = j at *
  generalize hp : e / b = p at *
  subst hot
  constructor
  · rintro ⟨h1, h2⟩
    have htb : t < b := by
      by_contra hn
      rw [Nat.sub_eq_zero_of_le (Nat.le_of_not_lt hn), Nat.min_zero] at h2
      omega
    have hpq : p = q := by
      rw [← hp]
      have h3 : e < (q + 1) * b := by rw [Nat.add_mul, Nat.one_mul]; omega
      exact Nat.div_eq_of_lt_le (by omega) h3
    subst hpq
    have h4 : b * p = p * b := Nat.mul_comm _ _
    have h5 : t ≤ j := by omega
    have h6 : j < t + k := by omega
    have h7 : t * z ≤ j * z := Nat.mul_le_mul_right _ h5
    have h8 : (j + 1) * z ≤ (t + k) * z := Nat.mul_le_mul_right _ h6
    rw [Nat.add_mul, Nat.add_mul] at h8
    omega
  · rintro ⟨h1, h2⟩
    have hjz : (j + 1) * z ≤ b * z := Nat.mul_le_mul_right _ hjb
    rw [Nat.add_mul, Nat.one_mul] at hjz
    have hpq : p = q := by
      rcases Nat.lt_trichotomy p q with h | h | h
      · have : (p + 1) * L ≤ q * L := Nat.mul_le_mul_right _ h
        rw [Nat.add_mul, Nat.one_mul] at this
        omega
      · exact h
      · have : (q + 1) * L ≤ p * L := Nat.mul_le_mul_right _ h
        rw [Nat.add_mul, Nat.one_mul] at this
        omega
    subst hpq
    have h4 : b * p = p * b := Nat.mul_comm _ _
    have h5 : t ≤ j := by
      by_contra hn
      have : (j + 1) * z ≤ t * z := Nat.mul_le_mul_right _ (Nat.lt_of_not_le hn)
      rw [Nat.add_mul, Nat.one_mul] at this
      omega
    have h6 : j < t + k := by
      by_contra hn
      have : (t + k) * z ≤ j * z := Nat.mul_le_mul_right _ (Nat.le_of_not_lt hn)
      rw [Nat.add_mul] at this
      omega
    omega

theorem Window.within_sorted (w : Window) (a n : Nat) : (w.within a n).Pairwise (· < ·) := List.pairwise_lt_range.filter _

theorem Window.mem_within (w : Window) (a n e : Nat) : e ∈ w.within a n ↔ e < w.count ∧ a ≤ w.byte e ∧ w.byte e < a + n := by
  simp [Window.within]

/-- The positions that whole granules of an image hold are those whose bytes begin there. -/
theorem Window.positions_eq (w : Window) {k : Nat} (hk : 32 = k * w.es) {a n : Nat} (ha : a % 32 = 0) (hn : n % 32 = 0) :
    w.positions a n = w.within a n := by
  have hes : 0 < w.es := by
    rcases Nat.eq_zero_or_pos w.es with h | h
    · rw [h] at hk; omega
    · exact h
  cases hg : w.lgr with
  | false =>
    simp only [Window.positions, hg, Bool.false_eq_true, if_false]
    refine eq_of_sorted_mem ((upFrom_sorted _ _).filter _) (w.within_sorted a n) fun e => ?_
    obtain ⟨i, rfl⟩ := Nat.dvd_of_mod_eq_zero ha
    obtain ⟨m, rfl⟩ := Nat.dvd_of_mod_eq_zero hn
    rw [w.mem_within, List.mem_filter, mem_upFrom]
    simp only [Window.byte, hg, Bool.false_eq_true, if_false, decide_eq_true_eq]
    have h1 : 32 * i / w.es = k * i := by rw [hk, Nat.mul_right_comm, Nat.mul_div_cancel _ hes]
    have h2 : 32 * m / w.es = k * m := by rw [hk, Nat.mul_right_comm, Nat.mul_div_cancel _ hes]
    have h3 : 32 * i = k * i * w.es := by rw [hk, Nat.mul_right_comm]
    have h4 : 32 * i + 32 * m = (k * i + k * m) * w.es := by rw [h3, show 32 * m = k * m * w.es by rw [hk, Nat.mul_right_comm], Nat.add_mul]
    rw [h1, h2, h4, h3]
    constructor
    · rintro ⟨⟨h5, h6⟩, h7⟩
      exact ⟨h7, Nat.mul_le_mul_right _ h5, Nat.mul_lt_mul_of_pos_right h6 hes⟩
    · rintro ⟨h5, h6, h7⟩
      exact ⟨⟨Nat.le_of_mul_le_mul_right h6 hes, Nat.lt_of_mul_lt_mul_right h7⟩, h5⟩
  | true =>
    rcases Nat.eq_zero_or_pos (w.box.headD 1) with hb | hb
    · have hc := count_of_head_zero w hb
      simp [Window.positions, Window.within, hg, hc]
    have hi : ∀ i e, (e ∈ (upFrom ((a + 32 * i) / w.line * w.box.headD 1 + (a + 32 * i) % w.line / w.es)
        (min (32 / w.es) (w.box.headD 1 - (a + 32 * i) % w.line / w.es))).filter (fun e => decide (e < w.count))) ↔
        (a + 32 * i ≤ w.byte e ∧ w.byte e < a + 32 * i + 32) ∧ e < w.count := by
      intro i e
      rw [List.mem_filter, w.mem_granule hk hg hb (by omega), decide_eq_true_eq]
    simp only [Window.positions, hg, if_true]
    refine eq_of_sorted_mem (List.pairwise_flatMap.2 ⟨fun i _ => (upFrom_sorted _ _).filter _, ?_⟩) (w.within_sorted a n) fun e => ?_
    · refine (upFrom_sorted 0 _).imp fun {i j} hij e he f hf => w.lt_of_byte_lt ?_
      have h1 := (hi i e).1 he
      have h2 := (hi j f).1 hf
      omega
    · rw [w.mem_within, List.mem_flatMap]
      simp only [hi, mem_upFrom]
      constructor
      · rintro ⟨i, hi, ⟨h1, h2⟩, h3⟩
        exact ⟨h3, by omega, by omega⟩
      · rintro ⟨h1, h2, h3⟩
        exact ⟨(w.byte e - a) / 32, by omega, ⟨by omega, by omega⟩, h1⟩

end Sys2Proof.Machine
end

section
/-! The bytes of a window's positions, laid in an image (R272, R279). -/

namespace Sys2Proof.Machine

/-- Element sizes divide the places of positions. -/
theorem Window.byte_aligned (w : Window) {k : Nat} (hk : 32 = k * w.es) (e : Nat) : ∃ m, w.byte e = m * w.es := by
  obtain ⟨hl, -⟩ := w.line_bounds
  unfold Window.byte
  obtain ⟨i, hi⟩ := Nat.dvd_of_mod_eq_zero hl
  dsimp only
  split
  · refine ⟨e / w.box.headD 1 * (k * i) + e % w.box.headD 1, ?_⟩
    rw [Nat.add_mul, hi, hk]
    congr 1
    ring
  · exact ⟨e, rfl⟩

/-- Later positions stand behind earlier ones. -/
theorem Window.byte_lt (w : Window) (hes : 0 < w.es) (hc : 0 < w.count) {e f : Nat} (h : e < f) : w.byte e < w.byte f := by
  obtain ⟨-, hl⟩ := w.line_bounds
  have hb : 0 < w.box.headD 1 := by
    rcases Nat.eq_zero_or_pos (w.box.headD 1) with hb | hb
    · rw [count_of_head_zero w hb] at hc; omega
    · exact hb
  unfold Window.byte
  generalize w.box.headD 1 = b at hl hb ⊢
  dsimp only
  split
  · have he := Nat.mod_lt e hb
    have hz : (e % b + 1) * w.es ≤ b * w.es := Nat.mul_le_mul_right _ he
    rw [Nat.add_mul, Nat.one_mul] at hz
    rcases Nat.lt_or_ge (e / b) (f / b) with hq | hq
    · have : (e / b + 1) * w.line ≤ f / b * w.line := Nat.mul_le_mul_right _ hq
      rw [Nat.add_mul, Nat.one_mul] at this
      omega
    · have hq : e / b = f / b := Nat.le_antisymm (Nat.div_le_div_right (Nat.le_of_lt h)) hq
      have h1 := Nat.div_add_mod f b
      have h2 := Nat.div_add_mod e b
      rw [hq] at h2 ⊢
      have : (e % b + 1) * w.es ≤ f % b * w.es := Nat.mul_le_mul_right _ (by omega)
      rw [Nat.add_mul, Nat.one_mul] at this
      omega
  · exact Nat.mul_lt_mul_of_pos_right h hes

/-- Positions that share a byte are one position. -/
theorem Window.eq_of_shared (w : Window) {k : Nat} (hk : 32 = k * w.es) (hes : 0 < w.es) (hc : 0 < w.count) {e f i : Nat}
    (he : w.byte e ≤ i ∧ i < w.byte e + w.es) (hf : w.byte f ≤ i ∧ i < w.byte f + w.es) : e = f := by
  obtain ⟨m, hm⟩ := w.byte_aligned hk e
  obtain ⟨j, hj⟩ := w.byte_aligned hk f
  have hmj : m = j := by
    rw [hm] at he
    rw [hj] at hf
    rcases Nat.lt_trichotomy m j with h | h | h
    · have := Nat.mul_le_mul_right w.es (Nat.succ_le_of_lt h)
      rw [Nat.succ_mul] at this
      omega
    · exact h
    · have := Nat.mul_le_mul_right w.es (Nat.succ_le_of_lt h)
      rw [Nat.succ_mul] at this
      omega
  rcases Nat.lt_trichotomy e f with h | h | h
  · have := w.byte_lt hes hc h; rw [hm, hj, hmj] at this; omega
  · exact h
  · have := w.byte_lt hes hc h; rw [hm, hj, hmj] at this; omega

/-- A position that begins in whole granules ends in them. -/
theorem Window.within_end (w : Window) {k : Nat} (hk : 32 = k * w.es) {a n : Nat} (ha : a % 32 = 0) (hn : n % 32 = 0) {e : Nat}
    (he : e ∈ w.within a n) : w.byte e + w.es ≤ a + n := by
  obtain ⟨-, -, h⟩ := (w.mem_within a n e).1 he
  obtain ⟨m, hm⟩ := w.byte_aligned hk e
  obtain ⟨i, hi⟩ : 32 ∣ a + n := Nat.dvd_of_mod_eq_zero (by omega)
  have h2 : a + n = k * i * w.es := by rw [hi, hk]; ring
  rw [hm, h2] at h ⊢
  have := Nat.mul_le_mul_right w.es (Nat.succ_le_of_lt (Nat.lt_of_mul_lt_mul_right h))
  rwa [Nat.succ_mul] at this

/-- The bytes of positions laid in an image show them. -/
theorem Window.shows_lay (w : Window) {k : Nat} (hk : 32 = k * w.es) {a n : Nat} (ha : a % 32 = 0) (hn : n % 32 = 0)
    (val : Nat → List Byte) (hv : ∀ e ∈ w.within a n, (val e).length = w.es) :
    w.Shows a n val (layBytes n ((w.positions a n).map (fun e => (w.byte e - a, val e)))) := by
  have hes : 0 < w.es := by
    rcases Nat.eq_zero_or_pos w.es with h | h
    · rw [h] at hk; omega
    · exact h
  rw [w.positions_eq hk ha hn]
  generalize hl : (w.within a n).map (fun e => (w.byte e - a, val e)) = l
  have hlen : (layBytes n l).length = n := by simp [layBytes, upFrom_eq]
  have hat : ∀ i, i < n → (layBytes n l)[i]? = some (match l.find? (fun p => decide (p.1 ≤ i) && decide (i < p.1 + p.2.length)) with
      | some p => p.2.getD (i - p.1) 0#8
      | none => 0#8) := by
    intro i hi
    rw [layBytes, List.getElem?_map, upFrom_eq, List.getElem?_map, List.getElem?_range hi]
    simp only [Option.map_some, Nat.zero_add] <;> rfl
  have hfind : ∀ i p, l.find? (fun p => decide (p.1 ≤ i) && decide (i < p.1 + p.2.length)) = some p →
      ∃ f ∈ w.within a n, p = (w.byte f - a, val f) ∧ w.byte f ≤ a + i ∧ a + i < w.byte f + w.es := by
    intro i p h
    have hp := List.find?_some h
    simp only [Bool.and_eq_true, decide_eq_true_eq] at hp
    rw [← hl] at h
    obtain ⟨f, hf, rfl⟩ := List.mem_map.1 (List.mem_of_find?_eq_some h)
    obtain ⟨-, h1, -⟩ := (w.mem_within a n f).1 hf
    rw [hv f hf] at hp
    exact ⟨f, hf, rfl, by omega, by omega⟩
  refine ⟨hlen, fun e he => ?_, fun i hi hno => ?_⟩
  · obtain ⟨hec, hea, -⟩ := (w.mem_within a n e).1 he
    have hend := w.within_end hk ha hn he
    refine List.ext_getElem? fun j => ?_
    rcases Nat.lt_or_ge j w.es with hj | hj
    · rw [List.getElem?_take_of_lt hj, List.getElem?_drop, hat _ (by omega)]
      split
      · rename_i p hp
        obtain ⟨f, hf, rfl, h1, h2⟩ := hfind _ p hp
        have hfe : f = e := w.eq_of_shared hk hes (by omega) ⟨h1, h2⟩ ⟨by omega, by omega⟩
        subst hfe
        rw [show w.byte f - a + j - (w.byte f - a) = j by omega, List.getD_eq_getElem?_getD,
          List.getElem?_eq_getElem (by rw [hv f he]; exact hj)]
        rfl
      · rename_i hnone
        rw [← hl, List.find?_eq_none] at hnone
        exact absurd (hnone _ (List.mem_map.2 ⟨e, he, rfl⟩)) (by simp [hv e he, hj])
    · rw [List.getElem?_eq_none (by rw [List.length_take]; omega), List.getElem?_eq_none (by rw [hv e he]; exact hj)]
  · rw [List.getD_eq_getElem?_getD, hat i hi]
    split
    · rename_i p hp
      obtain ⟨f, hf, -, h1, h2⟩ := hfind _ p hp
      exact absurd ⟨h1, h2⟩ (hno f hf)
    · rfl

end Sys2Proof.Machine
end

section
/-! Reads and writes of a copy at memory, and its granules in (R278, R279, R286). -/

namespace Sys2Proof.Machine

/-! Lengths of what is read. -/

theorem viewBytes_length (s : State) (core part : Nat) (d : Dest) (l : List Byte) : (viewBytes s core part d l).length = l.length := by
  induction l generalizing d with
  | nil => rfl
  | cons b l ih => simp [viewBytes, ih]

theorem memRead_length (m : Memory) (a n : Nat) : (memRead m a n).length = n := by simp [memRead_eq]

theorem spView_length (s : State) (core off n : Nat) : (spView s core off n).length = n := by
  unfold spView
  split
  · rw [viewBytes_length, memRead_length]
  · exact memRead_length _ _ _

theorem locBytes_length (s : State) (l : Loc) (n : Nat) : (locBytes s l n).length = n := by
  cases l <;> exact memRead_length _ _ _

theorem engGet_length {s : State} {c : Cmd} {a : Word} {n : Nat} {b : List Byte} (h : engGet s c a n = .ok b) : b.length = n := by
  unfold engGet at h
  split at h
  · simp at h
  · unfold engAt at h
    rw [if_neg (by decide)] at h
    split at h
    · simp only [Bool.false_eq_true, if_false, EngAns.ok.injEq] at h
      rw [← h, viewBytes_length, locBytes_length]
    · simp at h
    · split at h <;> simp at h

/-! Requests that have used their leaves change the caches alone. -/

theorem Cached.refl (s : State) : Cached s s := rfl

theorem Cached.trans {s u v : State} (h : Cached s u) (g : Cached u v) : Cached s v := by
  unfold Cached at *
  rw [← h, ← g]

theorem Cached.of_useLeaf (s : State) (part asid gen : Nat) (d : Dest) : Cached s (useLeaf s part asid gen d) :=
  useLeaf_only s part asid gen d

theorem Cached.of_engUse (s : State) (c : Cmd) (l : List Word) : Cached s (engUse s c l) := by
  unfold engUse
  induction l generalizing s with
  | nil => exact Cached.refl s
  | cons a l ih =>
    rw [List.foldl_cons]
    refine Cached.trans ?_ (ih _)
    split
    · exact Cached.of_useLeaf ..
    · exact Cached.refl s

theorem Cached.cmds {s u : State} (h : Cached s u) : u.cmds = s.cmds := by
  have e := congrArg State.cmds h
  exact e

theorem Cached.acc {s u : State} (h : Cached s u) : u.acc = s.acc := by
  have e := congrArg State.acc h
  exact e

theorem Cached.parts {s u : State} (h : Cached s u) : u.parts = s.parts := by
  have e := congrArg State.parts h
  exact e

theorem Cached.coreOf_eq {s u : State} (h : Cached s u) (n : Nat) : coreOf u n = coreOf s n := by rw [coreOf, h.cores, coreOf]

theorem Cached.unheld {s u : State} {c : Cmd} (h : Cached s u) (hU : Unheld s c) : Unheld u c := by
  unfold Unheld at *
  rw [h.coreOf_eq, h.acc]
  exact hU

/-! Writes that nothing holds. -/

theorem Unheld.granuleHeld_eq {s : State} {c : Cmd} (h : Unheld s c) (d : Dest) (n : Nat) : granuleHeld s c d n = false := by
  simp only [granuleHeld, List.any_eq_false]
  intro a ha
  simp [h.2 a ha]

/-- A granule written to the own scratchpad, and the command goes on. -/
theorem Unheld.putGranule_eq {s : State} {c : Cmd} (h : Unheld s c) {off : Nat} {data : List Byte} (ho : off % 32 = 0)
    (hd : data.length = 32) (n : Nat) : ∃ u, Stores s u c .eng [(off, data)] ∧ putGranule s c off data n = goOn u c n := by
  refine ⟨_, stores_engWrite s c (genericOf s c off) off data (List.ne_nil_of_length_pos (by omega)) (by omega), ?_⟩
  rw [putGranule, if_neg (by rw [h.granuleHeld_eq]; decide)]

/-- A place of an image starts a granule. -/
theorem Window.place_aligned (w : Window) {dst : Nat} (h : dst % 32 = 0) (n : Nat) : w.place dst n % 32 = 0 := by
  unfold Window.place
  omega

theorem Cmd.window_es (c : Cmd) : ∃ k, 32 = k * c.window.es := laneBytes_divides _

/-- What a copy reads for the positions that begin in n bytes of an image (R279, R286): val is what each gives. -/
def Reads (s : State) (c : Cmd) (a n : Nat) (val : Nat → List Byte) : Prop :=
  ∀ e ∈ c.window.within a n, if cpOp c.img ≠ 9 ∧ c.window.inside e = true then engGet s c (c.window.addr e) c.window.es = .ok (val e)
    else val e = natBytes c.window.fill c.window.es

theorem Reads.length {s : State} {c : Cmd} {a n : Nat} {val : Nat → List Byte} (h : Reads s c a n val) :
    ∀ e ∈ c.window.within a n, (val e).length = c.window.es := by
  intro e he
  have := h e he
  split at this
  · exact engGet_length this
  · rw [this, natBytes_length]

theorem Reads.gather {s : State} {c : Cmd} {a n : Nat} {val : Nat → List Byte} (h : Reads s c a n val) (ha : a % 32 = 0)
    (hn : n % 32 = 0) :
    gatherElems s c c.window a n = (c.window.positions a n).map (fun e => (c.window.byte e - a, EngAns.ok (val e))) := by
  obtain ⟨k, hk⟩ := c.window_es
  unfold gatherElems
  rw [c.window.positions_eq hk ha hn]
  refine List.map_congr_left fun e he => ?_
  have := h e he
  split at this
  · rename_i hc
    rw [if_pos hc, this]
  · rename_i hc
    rw [if_neg hc, this]

/-- What is laid in an image of what a copy reads. -/
def laid (c : Cmd) (a n : Nat) (val : Nat → List Byte) : List Byte :=
  layBytes n ((c.window.positions a n).map (fun e => (c.window.byte e - a, val e)))

theorem Reads.shows {s : State} {c : Cmd} {a n : Nat} {val : Nat → List Byte} (h : Reads s c a n val) (ha : a % 32 = 0)
    (hn : n % 32 = 0) : c.window.Shows a n val (laid c a n val) := by
  obtain ⟨k, hk⟩ := c.window_es
  exact c.window.shows_lay hk ha hn val h.length

theorem firstStop_ok {α : Type} (l : List α) (f : α → List Byte) : firstStop (l.map (fun x => EngAns.ok (f x))) = none := by
  rw [firstStop, List.find?_eq_none]
  intro a ha
  obtain ⟨x, -, rfl⟩ := List.mem_map.1 ha
  simp [EngAns.good]

theorem copyIn_eq {s : State} {c : Cmd} {n : Nat} {val : Nat → List Byte} (h : Reads s c (32 * n) 32 val) :
    copyIn s c n = putGranule (gatherUse s c c.window (32 * n) 32) c (c.window.place (cpDst c.img) n) (laid c (32 * n) 32 val)
      (c.upc + 1) := by
  rw [copyIn, h.gather (by omega) (by decide)]
  simp only [List.map_map, Function.comp_def, firstStop_ok, EngAns.bytes]
  rfl

/-- A granule in (R279, R286). -/
theorem copyIn_spec {s : State} {c : Cmd} {n : Nat} {val : Nat → List Byte} (hU : Unheld s c) (hd : cpDst c.img % 32 = 0)
    (h : Reads s c (32 * n) 32 val) :
    ∃ v u data, Cached s v ∧ c.window.Shows (32 * n) 32 val data ∧ Stores v u c .eng [(c.window.place (cpDst c.img) n, data)] ∧
      copyIn s c n = goOn u c (c.upc + 1) := by
  have hv : Cached s (gatherUse s c c.window (32 * n) 32) := Cached.of_engUse ..
  have hs := h.shows (by omega) (by decide)
  obtain ⟨u, hu, e⟩ := (hv.unheld hU).putGranule_eq (c.window.place_aligned hd n) hs.1 (c.upc + 1)
  exact ⟨_, u, _, hv, hs, hu, by rw [copyIn_eq h, e]⟩

end Sys2Proof.Machine
end

section
/-! The writes of a copy at generic addresses (R106, R156, R280). -/

namespace Sys2Proof.Machine

/-- A write of a command at a generic address: what an access of it is. -/
def IsPut (s : State) (c : Cmd) (a : Access) : Prop :=
  a.kind = .eng ∧ a.cls = c.acls ∧ a.cmd = c.id ∧ a.core = c.core ∧ a.sync = c.upc ∧ a.size = a.data.length ∧
  engDest s c a.ea 1 .write = .ok a.dest

/-- The state with accesses added behind those that there are. -/
def withPuts (s : State) (l : List Access) (near : Nat) : State :=
  { s with acc := s.acc ++ l, nextId := s.nextId + l.length, nearNext := near }

theorem engPutAt_eq {s : State} {c : Cmd} {ea : Word} {d : Dest} (h : engDest s c ea 1 .write = .ok d) (near : Nat) (data : List Byte) :
    engPutAt near s c ea data = withPuts s [engAccess s c .eng near c.acls ea d data] s.nearNext := by
  rw [engPutAt, h]
  rfl

/-- The runs of one granule, written with one place among near events. -/
theorem engPutAt_foldl (c : Cmd) (runs : List (Word × List Byte)) (s : State) (h : ∀ r ∈ runs, ∃ d, engDest s c r.1 1 .write = .ok d) :
    ∃ l, runs.foldl (fun s r => engPutAt s.nearNext s c r.1 r.2) s = withPuts s l s.nearNext ∧
      l.map (fun a => (a.ea, a.data)) = runs ∧ ∀ a ∈ l, IsPut s c a ∧ a.nearAt = s.nearNext := by
  induction runs generalizing s with
  | nil => exact ⟨[], by simp [withPuts], rfl, by simp⟩
  | cons r runs ih =>
    obtain ⟨d, hd⟩ := h r (by simp)
    obtain ⟨l, h1, h2, h3⟩ := ih (withPuts s [engAccess s c .eng s.nearNext c.acls r.1 d r.2] s.nearNext)
      (fun q hq => h q (by simp [hq]))
    refine ⟨engAccess s c .eng s.nearNext c.acls r.1 d r.2 :: l, ?_, ?_, ?_⟩
    · rw [List.foldl_cons, engPutAt_eq hd, h1]
      simp [withPuts, Nat.add_assoc, Nat.add_comm 1]
    · rw [List.map_cons, h2]
      rfl
    · intro a ha
      rcases List.mem_cons.1 ha with rfl | ha
      · exact ⟨⟨rfl, rfl, rfl, rfl, rfl, rfl, hd⟩, rfl⟩
      · exact h3 a ha

/-- Granule after granule: the writes of one have one place among near events, each granule its own. -/
theorem engPutRuns_foldl (c : Cmd) (gs : List Nat) (runs : Nat → List (Word × List Byte)) (s : State)
    (h : ∀ g ∈ gs, ∀ r ∈ runs g, ∃ d, engDest s c r.1 1 .write = .ok d) :
    ∃ l, (gs.map runs).foldl (fun s r => engPutRuns s c r) s = withPuts s l (s.nearNext + gs.length) ∧
      l.map (fun a => (a.ea, a.data)) = (gs.map runs).flatten ∧
      ∀ a ∈ l, IsPut s c a ∧ ∃ i g, gs[i]? = some g ∧ (a.ea, a.data) ∈ runs g ∧ a.nearAt = s.nearNext + i := by
  induction gs generalizing s with
  | nil => exact ⟨[], by simp [withPuts], rfl, by simp⟩
  | cons g gs ih =>
    obtain ⟨l, h1, h2, h3⟩ := engPutAt_foldl c (runs g) s (h g (by simp))
    have hs : engPutRuns s c (runs g) = withPuts s l (s.nearNext + 1) := by rw [engPutRuns, h1]; rfl
    obtain ⟨m, g1, g2, g3⟩ := ih (withPuts s l (s.nearNext + 1)) (fun q hq => h q (by simp [hq]))
    refine ⟨l ++ m, ?_, ?_, ?_⟩
    · rw [List.map_cons, List.foldl_cons, hs, g1]
      simp [withPuts, Nat.add_assoc, Nat.add_comm 1]
    · rw [List.map_append, h2, g2, List.map_cons, List.flatten_cons]
    · intro a ha
      rcases List.mem_append.1 ha with ha | ha
      · have hm : (a.ea, a.data) ∈ runs g := by rw [← h2]; exact List.mem_map.2 ⟨a, ha, rfl⟩
        exact ⟨(h3 a ha).1, 0, g, rfl, hm, (h3 a ha).2⟩
      · obtain ⟨hp, i, q, hi, hq, hn⟩ := g3 a ha
        refine ⟨hp, i + 1, q, hi, hq, ?_⟩
        rw [hn]
        change s.nearNext + 1 + i = _
        omega

/-- The runs of a list of writes, put at generic addresses that take them. -/
theorem scatters_runs {s : State} {c : Cmd} (l : List (Word × List Byte))
    (h : ∀ p ∈ (granuleRuns l).flatten, ∃ d, engDest s c p.1 1 .write = .ok d) :
    Scatters s ((granuleRuns l).foldl (fun s r => engPutRuns s c r) s) c (granuleRuns l).flatten := by
  have hg : ∀ g ∈ granulesIn l, ∀ r ∈ (runsIn l g).map (fun r => (BitVec.ofNat 64 r.1, r.2)), r.1.toNat / 32 = g := by
    intro g hg r hr
    obtain ⟨q, hq, rfl⟩ := List.mem_map.1 hr
    have hb := runsIn_bounds hg hq
    have : 0 < q.2.length := List.length_pos_iff.2 hb.2.2.1
    rw [hb.2.2.2]
    omega
  obtain ⟨m, h1, h2, h3⟩ := engPutRuns_foldl c (granulesIn l) (fun g => (runsIn l g).map (fun r => (BitVec.ofNat 64 r.1, r.2))) s
    (fun g hg r hr => h r (by rw [granuleRuns_eq]; exact List.mem_flatten.2 ⟨_, List.mem_map.2 ⟨g, hg, rfl⟩, hr⟩))
  rw [granuleRuns_eq, h1]
  refine ⟨m, rfl, rfl, rfl, h2, fun a ha => ?_, fun a ha b hb => ?_⟩
  · obtain ⟨⟨k1, k2, k3, k4, k5, k6, k7⟩, i, g, -, -, hn⟩ := h3 a ha
    exact ⟨k1, k2, k3, k4, k5, by omega, k6, k7⟩
  · obtain ⟨-, i, x, hi, hx, hn⟩ := h3 a ha
    obtain ⟨-, j, y, hj, hy, hk⟩ := h3 b hb
    have ha32 : a.ea.toNat / 32 = x := hg x (List.mem_of_getElem? hi) _ hx
    have hb32 : b.ea.toNat / 32 = y := hg y (List.mem_of_getElem? hj) _ hy
    rw [ha32, hb32, hn, hk]
    constructor
    · intro hij
      have : i = j := by omega
      subst this
      rw [hi] at hj
      exact Option.some.inj hj
    · rintro rfl
      obtain ⟨hil, hix⟩ := List.getElem?_eq_some_iff.1 hi
      obtain ⟨hjl, hjx⟩ := List.getElem?_eq_some_iff.1 hj
      rw [(List.Nodup.getElem_inj_iff (nodup_granulesIn l)).1 (hix.trans hjx.symm)]

theorem engTestAt_dest {s : State} {c : Cmd} {ea : Word} {n : Nat} (h : (engTestAt s c ea n).good = true) :
    ∃ d, engDest s c ea 1 .write = .ok d := by
  unfold engTestAt at h
  split at h
  · simp [EngAns.good] at h
  · exact ⟨_, ‹_›⟩

theorem Unheld.heldAt_eq {s : State} {c : Cmd} (h : Unheld s c) (ea : Word) (n : Nat) : heldAt s c ea n = false := by
  unfold heldAt
  split
  · rfl
  · exact h.granuleHeld_eq _ _

theorem Scatters.cmds {s u : State} {c : Cmd} {l : List (Word × List Byte)} (h : Scatters s u c l) : u.cmds = s.cmds := by
  obtain ⟨-, -, -, h, -⟩ := h
  have e := congrArg State.cmds h
  exact e

/-- Positions written to memory, where nothing stops or holds a write (R280). -/
theorem scatter_spec {s : State} {c : Cmd} (hU : Unheld s c) (l : List (Word × List Byte)) (done : State → State)
    (hd : ∀ p ∈ l, ∃ x, engDest s c p.1 p.2.length .write = .ok x)
    (hg : ∀ p ∈ (granuleRuns l).flatten, (engTestAt s c p.1 p.2.length).good = true) :
    ∃ u, Scatters s u c (granuleRuns l).flatten ∧ scatter s c l done = done u := by
  refine ⟨_, scatters_runs l (fun p hp => engTestAt_dest (hg p hp)), ?_⟩
  have h1 : l.findSome? (elemFault s c) = none := by
    rw [List.findSome?_eq_none_iff]
    intro p hp
    obtain ⟨x, hx⟩ := hd p hp
    rw [elemFault, hx]
  have h2 : firstStop ((granuleRuns l).flatten.map (fun p => engTestAt s c p.1 p.2.length)) = none := by
    rw [firstStop, List.find?_eq_none]
    intro a ha
    obtain ⟨p, hp, rfl⟩ := List.mem_map.1 ha
    simp [hg p hp]
  have h3 : (granuleRuns l).flatten.any (fun p => heldAt s c p.1 p.2.length) = false := by
    rw [List.any_eq_false]
    intro p _
    simp [hU.heldAt_eq]
  simp only [scatter, h1, h2, h3, Option.none_or, Bool.false_eq_true, if_false]

/-- The writes of the inside positions of whole granules of an image, whose bytes are data. -/
theorem elemWrites_eq (c : Cmd) {a : Nat} {data : List Byte} (ha : a % 32 = 0) (hn : data.length % 32 = 0) :
    elemWrites c.window a data = ((c.window.within a data.length).filter c.window.inside).map (fun e =>
      (c.window.addr e, (data.drop (c.window.byte e - a)).take c.window.es)) := by
  obtain ⟨k, hk⟩ := c.window_es
  rw [elemWrites, c.window.positions_eq hk ha hn]

end Sys2Proof.Machine
end

section
/-! The micro-operations of the copy engine, by op and number (R278 to R287). -/

namespace Sys2Proof.Machine

/-! Which micro-operation is due. -/

theorem copyUop_start {s : State} {c : Cmd} (ho : cpOp c.img ≠ 11) (hu : c.upc = 0) : copyUop s c = copyStart s c := by
  simp [copyUop, ho, hu]

theorem copyStart_plain {s : State} {c : Cmd} (ho : cpOp c.img ∈ [1, 2, 5, 6, 7, 9, 10]) : copyStart s c = goOn s c 1 := by
  simp only [List.mem_cons, List.not_mem_nil, or_false] at ho
  rcases ho with ho | ho | ho | ho | ho | ho | ho <;> simp [copyStart, ho]

theorem copyUop_in {s : State} {c : Cmd} (ho : cpOp c.img ∈ [1, 3, 6, 7, 9]) (hu : 1 ≤ c.upc) (hn : c.upc - 1 < c.window.set) :
    copyUop s c = copyIn s c (c.upc - 1) := by
  simp only [List.mem_cons, List.not_mem_nil, or_false] at ho
  rcases ho with ho | ho | ho | ho | ho <;> simp [copyUop, ho, Nat.ne_of_gt hu, hn]

theorem copyUop_out {s : State} {c : Cmd} (ho : cpOp c.img ∈ [2, 4]) (hu : 1 ≤ c.upc) (hn : c.upc - 1 < c.window.set) :
    copyUop s c = copyOut s c (c.upc - 1) := by
  simp only [List.mem_cons, List.not_mem_nil, or_false] at ho
  rcases ho with ho | ho <;> simp [copyUop, ho, Nat.ne_of_gt hu, hn]

theorem copyUop_bar {s : State} {c : Cmd} (ho : cpOp c.img = 8) (hu : 1 ≤ c.upc) (hn : c.upc - 1 < c.window.set) :
    copyUop s c = copyBar s c (c.upc - 1) := by
  simp [copyUop, ho, Nat.ne_of_gt hu, hn]

theorem copyUop_whole {s : State} {c : Cmd} (ho : cpOp c.img ∈ [1, 3, 9]) (hu : c.upc = c.window.set + 1) :
    copyUop s c = finish s c 0 (c.window.count * c.window.es) := by
  simp only [List.mem_cons, List.not_mem_nil, or_false] at ho
  rcases ho with ho | ho | ho <;> simp [copyUop, ho, hu]

theorem copyUop_inner {s : State} {c : Cmd} (ho : cpOp c.img ∈ [2, 4]) (hu : c.upc = c.window.set + 1) :
    copyUop s c = finish s c 0 (insideBytes c.window) := by
  simp only [List.mem_cons, List.not_mem_nil, or_false] at ho
  rcases ho with ho | ho <;> simp [copyUop, ho, hu]

theorem copyUop_barEnd {s : State} {c : Cmd} (ho : cpOp c.img = 8) (hu : c.upc = c.window.set + 1) :
    copyUop s c = finish s c (if c.refused = true then 0xA81 else 0) c.counted := by
  simp [copyUop, ho, hu]

theorem copyUop_ring {s : State} {c : Cmd} (ho : cpOp c.img = 5) (hu : 1 ≤ c.upc) :
    copyUop s c = if c.upc - 1 < cdiv c.window.granules 8 then
        (if (c.port.map (fun p => p.out)).getD false = true then ringOut s c (c.upc - 1) else ringIn s c (c.upc - 1))
      else finish s c 0 (if (c.port.map (fun p => p.out)).getD false = true then insideBytes c.window
        else c.window.count * c.window.es) := by
  simp [copyUop, ho, Nat.ne_of_gt hu]

theorem copyUop_turn {s : State} {c : Cmd} (ho : cpOp c.img = 6) (hu : c.window.set + 1 ≤ c.upc)
    (hn : c.upc - 1 - c.window.set < c.window.turned.set) : copyUop s c = turnGranule s c (c.upc - 1 - c.window.set) := by
  have h0 : c.upc ≠ 0 := by omega
  have h1 : ¬c.upc - 1 < c.window.set := by omega
  have h2 : c.upc - 1 < c.window.set + c.window.turned.set := by omega
  simp [copyUop, ho, h0, h1, h2]

theorem copyUop_turnEnd {s : State} {c : Cmd} (ho : cpOp c.img = 6) (hu : c.upc = c.window.set + c.window.turned.set + 1) :
    copyUop s c = finish s c 0 (2 * (c.window.count * c.window.es)) := by
  have h1 : ¬c.upc - 1 < c.window.set := by omega
  have h2 : ¬c.upc - 1 < c.window.set + c.window.turned.set := by omega
  have h0 : c.upc ≠ 0 := by omega
  simp [copyUop, ho, h0, h1, h2]

theorem copyUop_follow {s : State} {c : Cmd} (ho : cpOp c.img = 7) (hu : c.upc = c.window.set + 1) :
    copyUop s c = placeFollow s c (c.window.count * c.window.es) := by
  simp [copyUop, ho, hu]

theorem copyUop_record {s : State} {c : Cmd} (ho : cpOp c.img = 10) (hu : 1 ≤ c.upc) : copyUop s c = loadRecord s c := by
  simp [copyUop, ho, Nat.ne_of_gt hu]

theorem insideBytes_eq (w : Window) : insideBytes w = ((List.range w.count).filter w.inside).length * w.es := by
  rw [insideBytes, upFrom_eq, show (fun i => 0 + i) = id from funext fun i => Nat.zero_add i, List.map_id]

/-! The index list (R281), and CPY.BAR's barrier (R285). -/

theorem loadIndex_eq {s : State} {c : Cmd} (hU : Unheld s c) (hu : c.upc = 0) :
    let list := (List.range (cpNidx c.img)).map (fun i =>
      (BitVec.ofNat 32 (leNat (((spView s c.core (cpIxof c.img) (4 * cpNidx c.img)).drop (4 * i)).take 4))).toInt)
    loadIndex s c = modCmd s c.id (fun d => { d with
      upc := c.upc + 1, list := list
      locks := if cpOp d.img = 4 then copyLocks s d.core d.img (windowOf c.img c.lrec list) d.writes false else none }) := by
  intro list
  rw [loadIndex, hU.engGetSp_ok, hu]
  simp only [countsOf_eq, List.map_map]
  rfl

theorem copyStart_bar {s : State} {c : Cmd} (ho : cpOp c.img = 8) {p : Partition} (hp : partOf s c.part = some p)
    (hb : bindError p (cpBar c.img) = none) : copyStart s c = goOn (touchBlock s c.part (cpBar c.img)) c 1 := by
  simp [copyStart, ho, hp, hb]

theorem copyStart_barFault {s : State} {c : Cmd} (ho : cpOp c.img = 8) (hu : c.upc = 0) {p : Partition} (hp : partOf s c.part = some p)
    {code : Nat} (hb : bindError p (cpBar c.img) = some code) :
    copyStart s c = engineFault s c code (BitVec.ofNat 64 (cpBar c.img)) := by
  simp [copyStart, ho, hp, hb, copyFails, hu]

/-! Granules out (R280, R285). -/

theorem copyOut_eq {s : State} {c : Cmd} (hU : Unheld s c) (n : Nat) :
    copyOut s c n = scatter s c (elemWrites c.window (32 * n) (spView s c.core (c.window.place (cpDst c.img) n) 32))
      (fun s => goOn s c (c.upc + 1)) := by
  rw [copyOut, hU.engGetSp_ok]

theorem copyBar_eq {s : State} {c : Cmd} (hU : Unheld s c) (n : Nat) (hw : c.work = []) :
    let l := elemWrites c.window (32 * n) (spView s c.core (c.window.place (cpDst c.img) n) 32)
    copyBar s c n = scatter s c l (fun s => modCmd s c.id (fun d => { d with work := [(l.map (fun p => p.2.length)).sum] })) := by
  intro l
  rw [copyBar, hw]
  simp only [hU.engGetSp_ok]
  rfl

/-- The writes of the inside positions that whole granules of an image hold, once they have been taken (R280). -/
theorem AtWork.scatters {s : State} {c : Cmd} (h : AtWork s c .copy) (hU : Unheld s c) {a : Nat} {data : List Byte} (ha : a % 32 = 0)
    (hn : data.length % 32 = 0) (f : Cmd → Cmd) (hf : ∀ x, (f x).id = x.id)
    (hm : microOp s c = scatter s c (elemWrites c.window a data) (fun s => modCmd s c.id f)) :
    let l := ((c.window.within a data.length).filter c.window.inside).map (fun e =>
      (c.window.addr e, (data.drop (c.window.byte e - a)).take c.window.es))
    (∀ p ∈ l, ∃ x, engDest s c p.1 p.2.length .write = .ok x) →
    (∀ p ∈ (granuleRuns l).flatten, (engTestAt s c p.1 p.2.length).good = true) →
    ∃ u, Scatters s u c (granuleRuns l).flatten ∧ Works s c u (f c) := by
  intro l hd hg
  rw [elemWrites_eq c ha hn] at hm
  obtain ⟨u, hu, e⟩ := scatter_spec hU l (fun s => modCmd s c.id f) hd hg
  exact ⟨u, hu, h.mods f hf hu.cmds (hm.trans e)⟩

end Sys2Proof.Machine
end

section
/-! Variables and barriers of the sync space as copies and exchanges count at them (R305, R306). -/

namespace Sys2Proof.Machine

theorem rawSync_putSync_same (p : Partition) (a : Nat) (v : Word) : rawSync (putSync p a v) a = v := by
  unfold rawSync putSync kgetD
  by_cases h : v = 0#64
  · simp [h, kget_kdel_same]
  · simp [h]

theorem rawSync_putSync_ne (p : Partition) (a x : Nat) (v : Word) (h : x ≠ a) : rawSync (putSync p a v) x = rawSync p x := by
  unfold rawSync putSync kgetD
  by_cases hv : v = 0#64
  · simp [hv, kget_kdel_ne _ _ _ h]
  · simp [hv, kget_kput_ne _ _ _ _ h]

/-- A barrier as its two words can hold it. -/
def Barrier.fits (x : Barrier) : Prop :=
  x.st < 4 ∧ x.phase < 2 ^ 16 ∧ x.a < 2 ^ 32 ∧ x.n < 2 ^ 32 ∧ -2 ^ 31 ≤ x.b ∧ x.b < 2 ^ 31

theorem barrierAt_fits (p : Partition) (addr : Nat) : (barrierAt p addr).fits := by
  have hb := BitVec.two_mul_toInt_lt (x := (rawSync p (addr + 8)).setWidth 32)
  have hc := BitVec.le_two_mul_toInt (x := (rawSync p (addr + 8)).setWidth 32)
  simp only [barrierAt, Barrier.fits, wbits]
  refine ⟨Nat.mod_lt _ (by decide), Nat.mod_lt _ (by decide), Nat.mod_lt _ (by decide), Nat.mod_lt _ (by decide), ?_, ?_⟩ <;> omega

/-- A barrier is read back as it was written (R305). -/
theorem barrierAt_putBarrier (p : Partition) (addr : Nat) (x : Barrier) (h : x.fits) : barrierAt (putBarrier p addr x) addr = x := by
  obtain ⟨h1, h2, h3, h4, h5, h6⟩ := h
  have hv : rawSync (putBarrier p addr x) (addr + 8) = BitVec.ofNat 64 (x.n % 2 ^ 32 * 2 ^ 32 + (BitVec.ofInt 32 x.b).toNat) :=
    rawSync_putSync_same _ _ _
  have hw : rawSync (putBarrier p addr x) addr = BitVec.ofNat 64
      ((if x.pz then 2 ^ 62 else 0) + x.st % 4 * 2 ^ 60 + x.phase % 2 ^ 16 * 2 ^ 32 + x.a % 2 ^ 32) := by
    rw [putBarrier, rawSync_putSync_ne _ _ _ _ (by omega), rawSync_putSync_same]
  have hm : (BitVec.ofInt 32 x.b).toNat < 2 ^ 32 := (BitVec.ofInt 32 x.b).isLt
  have hb : (BitVec.setWidth 32 (rawSync (putBarrier p addr x) (addr + 8))).toInt = x.b := by
    have he : BitVec.setWidth 32 (rawSync (putBarrier p addr x) (addr + 8)) = BitVec.ofInt 32 x.b := by
      apply BitVec.eq_of_toNat_eq
      rw [hv, BitVec.toNat_setWidth, BitVec.toNat_ofNat]
      omega
    rw [he, BitVec.toInt_ofInt]
    exact Int.bmod_eq_of_le (by omega) (by omega)
  have hwn : (rawSync (putBarrier p addr x) addr).toNat =
      (if x.pz then 2 ^ 62 else 0) + x.st * 2 ^ 60 + x.phase * 2 ^ 32 + x.a := by
    rw [hw, BitVec.toNat_ofNat]
    split <;> omega
  have hvn : (rawSync (putBarrier p addr x) (addr + 8)).toNat = x.n * 2 ^ 32 + (BitVec.ofInt 32 x.b).toNat := by
    rw [hv, BitVec.toNat_ofNat]
    omega
  have hpz : (rawSync (putBarrier p addr x) addr).getLsbD 62 = x.pz := by
    rw [BitVec.getLsbD, hwn, Nat.testBit_eq_decide_div_mod_eq]
    cases x.pz
    · simp only [Bool.false_eq_true, if_false, decide_eq_false_iff_not]; omega
    · simp only [if_true, decide_eq_true_eq]; omega
  simp only [barrierAt, wbits, hb, hwn, hvn, hpz]
  obtain ⟨pz, st, phase, a, n, b⟩ := x
  simp only [Barrier.mk.injEq, true_and, and_true]
  simp only at h1 h2 h3 h4 h5 h6 hm
  cases pz
  · simp only [Bool.false_eq_true, if_false]; omega
  · simp only [if_true]; omega

theorem putSync_sync (p : Partition) (a : Nat) (v : Word) : ∃ m, putSync p a v = { p with sync := m } := ⟨_, rfl⟩

/-- A barrier written changes its two variables alone. -/
theorem putBarrier_only (p : Partition) (addr : Nat) (x : Barrier) : { putBarrier p addr x with sync := p.sync } = p := by
  unfold putBarrier
  generalize BitVec.ofNat 64 _ = v
  generalize BitVec.ofNat 64 _ = w
  obtain ⟨m, h⟩ := putSync_sync p addr v
  obtain ⟨n, g⟩ := putSync_sync (putSync p addr v) (addr + 8) w
  rw [g, h]

/-- A semaphore request that stands at neither variable of a pair is not granted by judging the pair again. -/
theorem rejudge_eq {s : State} {part a : Nat} {p : Partition} (hp : partOf s part = some p)
    (hw : ∀ x ∈ p.waiters, x.sem = true → x.addr ≠ a ∧ x.addr ≠ a + 8) : rejudge s part a = s := by
  have key : ∀ b, (∀ x ∈ p.waiters, x.sem = true → x.addr ≠ b) → ∀ n, grantSem s part b n = s := by
    intro b hb n
    cases n with
    | zero => rfl
    | succ n =>
      have hf : p.waiters.find? (fun w => w.addr == b && w.sem) = none := by
        rw [List.find?_eq_none]
        intro x hx
        simp only [Bool.and_eq_true, beq_iff_eq, not_and]
        exact fun h1 h2 => hb x hx h2 h1
      simp only [grantSem, hp, hf]
  simp only [rejudge, key a (fun x hx hs => (hw x hx hs).1), key (a + 8) (fun x hx hs => (hw x hx hs).2)]

/-- Touching a block changes what is resident alone. -/
theorem touchBlock_only (s : State) (part a : Nat) : ∃ r, touchBlock s part a = { s with resident := r } := ⟨_, rfl⟩

theorem partOf_touchBlock (s : State) (part a n : Nat) : partOf (touchBlock s part a) n = partOf s n := by
  obtain ⟨r, h⟩ := touchBlock_only s part a
  rw [h]; rfl

/-- Bytes counted or posted at a barrier that stays short of its phase's end (R306). -/
theorem countAt_eq {s : State} {part addr : Nat} {p : Partition} (hp : partOf s part = some p) (v : Int)
    (ha : (barrierAt p addr).a ≠ 0) (h1 : -2 ^ 31 ≤ v) (h2 : v < 2 ^ 31)
    (hw : ∀ x ∈ p.waiters, x.sem = true → x.addr ≠ addr ∧ x.addr ≠ addr + 8) :
    let y := { barrierAt p addr with b := v }
    rejudge (checkBarrier (touchBlock s part addr) part addr y) part addr =
      modPart (touchBlock s part addr) part (fun p => putBarrier p addr y) ∧
    barrierAt (putBarrier p addr y) addr = y := by
  intro y
  have hc : checkBarrier (touchBlock s part addr) part addr y = modPart (touchBlock s part addr) part (fun p => putBarrier p addr y) := by
    have hy : y.a ≠ 0 := ha
    simp [checkBarrier, hy]
  have hq : partOf (modPart (touchBlock s part addr) part (fun p => putBarrier p addr y)) part = some (putBarrier p addr y) := by
    rw [partOf_modPart, if_pos rfl, partOf_touchBlock, hp, Option.map_some]
  have hwq : (putBarrier p addr y).waiters = p.waiters := by
    have e := congrArg Partition.waiters (putBarrier_only p addr y)
    exact e
  obtain ⟨k1, k2, k3, k4, -, -⟩ := barrierAt_fits p addr
  exact ⟨by rw [hc, rejudge_eq hq (by rw [hwq]; exact hw)], barrierAt_putBarrier p addr y ⟨k1, k2, k3, k4, h1, h2⟩⟩

/-- What a count or a post leaves, as the state holds it. -/
theorem countAt_parts {s : State} {part addr : Nat} {p : Partition} (hp : partOf s part = some p) (y : Barrier) :
    let u := modPart (touchBlock s part addr) part (fun p => putBarrier p addr y)
    { u with parts := s.parts, resident := s.resident } = s ∧ (∀ i, i ≠ part → partOf u i = partOf s i) ∧
    partOf u part = some (putBarrier p addr y) := by
  intro u
  obtain ⟨r, h⟩ := touchBlock_only s part addr
  refine ⟨?_, fun i hi => ?_, ?_⟩
  · generalize hg : (fun p => putBarrier p addr y) = g at u
    change { modPart (touchBlock s part addr) part g with parts := s.parts, resident := s.resident } = s
    rw [h]; rfl
  · rw [partOf_modPart, if_neg hi, partOf_touchBlock]
  · rw [partOf_modPart, if_pos rfl, partOf_touchBlock, hp, Option.map_some]

theorem countBytes_eq {s : State} {part addr n : Nat} {p : Partition} (hp : partOf s part = some p)
    (hz : (barrierAt p addr).pz = false) (ha : (barrierAt p addr).a ≠ 0) (h1 : -2 ^ 31 ≤ (barrierAt p addr).b - n)
    (hw : ∀ x ∈ p.waiters, x.sem = true → x.addr ≠ addr ∧ x.addr ≠ addr + 8) :
    countBytes s part addr n =
      modPart (touchBlock s part addr) part (fun q => putBarrier q addr { barrierAt p addr with b := (barrierAt p addr).b - n }) := by
  have hf := (barrierAt_fits p addr).2.2.2.2.2
  have hk := (countAt_eq hp ((barrierAt p addr).b - n) ha h1 (by omega) hw).1
  rw [countBytes, hp]
  dsimp only
  rw [if_neg (by rw [hz]; decide), if_neg (by omega), hk]

theorem postBytes_eq {s : State} {part addr : Nat} {n : Int} {p : Partition} (hp : partOf s part = some p)
    (ha : (barrierAt p addr).a ≠ 0) (h1 : -2 ^ 31 ≤ (barrierAt p addr).b + n) (h2 : (barrierAt p addr).b + n < 2 ^ 31)
    (hw : ∀ x ∈ p.waiters, x.sem = true → x.addr ≠ addr ∧ x.addr ≠ addr + 8) :
    postBytes s part addr n =
      modPart (touchBlock s part addr) part (fun q => putBarrier q addr { barrierAt p addr with b := (barrierAt p addr).b + n }) := by
  rw [postBytes, hp]
  exact (countAt_eq hp _ ha h1 h2 hw).1

theorem refusesCounts_eq {s : State} {part addr : Nat} {p : Partition} (hp : partOf s part = some p) :
    refusesCounts s part addr = (barrierAt p addr).pz := by rw [refusesCounts, hp]

theorem countError_none {s : State} {part addr : Nat} {p : Partition} (hp : partOf s part = some p) (h1 : addr ∉ p.syncPz)
    (h2 : addr + 8 ∉ p.syncPz) : countError s part addr = none := by
  simp [countError, hp, h1, h2]

theorem countHeld_false {s : State} {c : Cmd}
    (h : ∀ o ∈ s.cmds, o.core = c.core → o.ctx = c.ctx → o.cls = .atomic → o.disp < c.disp → o.phase = .waiting) :
    countHeld s c = false := by
  simp only [countHeld, List.any_eq_false, Bool.and_eq_true, beq_iff_eq, decide_eq_true_eq, bne_iff_ne, not_and, not_not, and_imp]
  exact h

end Sys2Proof.Machine
end

section
/-! CPY.BAR's count, CPY.RING, CPY.T, CPY.FOLLOW and LREC (R282 to R285, R287). -/

namespace Sys2Proof.Machine

/-! CPY.BAR's count (R285, R304, R306). -/

theorem noAcc_of_cmd {s : State} {c : Cmd} (h : ∀ a ∈ s.acc, a.cmd ≠ c.id) : (cmdAcc s c.id).any (fun a => s.acc.contains a) = false := by
  simp only [cmdAcc, List.any_eq_false, List.mem_filter, beq_iff_eq, List.contains_eq_mem, decide_eq_true_eq, and_imp]
  exact fun a _ hc ha => h a ha hc

section
variable {s : State} {c : Cmd} {p : Partition} (hp : partOf s c.part = some p) (ha : ∀ a ∈ s.acc, a.cmd ≠ c.id)
  (hh : countHeld s c = false)
include hp ha hh

theorem barCount_refused (n : Nat) (h : c.refused = true ∨ (barrierAt p (cpBar c.img)).pz = true) :
    barCount s c n = modCmd s c.id (fun d => { d with upc := d.upc + 1, work := [], refused := true }) := by
  rw [barCount, if_neg (by rw [noAcc_of_cmd ha, hh]; decide), refusesCounts_eq hp, if_pos h]

theorem barCount_counts (n : Nat) (hr : c.refused = false) (hz : (barrierAt p (cpBar c.img)).pz = false)
    (h1 : cpBar c.img ∉ p.syncPz) (h2 : cpBar c.img + 8 ∉ p.syncPz) :
    barCount s c n = modCmd (countBytes s c.part (cpBar c.img) n) c.id
      (fun d => { d with upc := d.upc + 1, work := [], counted := d.counted + n }) := by
  rw [barCount, if_neg (by rw [noAcc_of_cmd ha, hh]; decide), refusesCounts_eq hp, if_neg (by simp [hr, hz]), countError_none hp h1 h2]

end

theorem copyBar_count {s : State} {c : Cmd} {m : Nat} {r : List Nat} (hw : c.work = m :: r) (n : Nat) :
    copyBar s c n = barCount s c m := by rw [copyBar, hw]

/-! CPY.RING (R283). -/

/-- The state with a port of a core's ring changed. -/
def putPort (s : State) (c : Cmd) (p : Port) : State :=
  setCore s c.core { coreOf s c.core with
    vec := { (coreOf s c.core).vec with ports := kput (coreOf s c.core).vec.ports (cpPort c.img - 60) p } }

theorem modPort_eq {s : State} {c : Cmd} {p : Port} (hp : kget (coreOf s c.core).vec.ports (cpPort c.img - 60) = some p)
    (g : Port → Port) : modPort s c g = putPort s c (g p) := by
  simp only [modPort, modCore, putPort, kmod, hp]

theorem ringOut_waits {s : State} {c : Cmd} {n : Nat} (he : c.elem.length = 256 * n) {p : Port}
    (hp : kget (coreOf s c.core).vec.ports (cpPort c.img - 60) = some p) (h0 : p.count = 0) : ringOut s c n = s := by
  simp [ringOut, he, livePort, hp, h0]

theorem ringOut_pops {s : State} {c : Cmd} (hU : Unheld s c) {n : Nat} (he : c.elem.length = 256 * n) {p : Port}
    (hp : kget (coreOf s c.core).vec.ports (cpPort c.img - 60) = some p) (h0 : p.count ≠ 0) :
    ringOut s c n = modCmd (putPort s c { p with head := (p.head + 1) % p.len, count := p.count - 1 }) c.id
      (fun d => { d with elem := d.elem ++ spView s c.core (256 * (p.base + p.head)) 256 }) := by
  rw [ringOut, if_pos (by rw [he]), livePort, hp]
  simp only [h0, if_false, hU.engGetSp_ok, modPort_eq hp]

theorem ringOut_writes {s : State} {c : Cmd} {n : Nat} (he : c.elem.length = 256 * (n + 1)) :
    ringOut s c n = scatter s c (elemWrites c.window (256 * n) (c.elem.drop (256 * n))) (fun s => goOn s c (c.upc + 1)) := by
  rw [ringOut, if_neg (by omega), List.take_of_length_le (by rw [List.length_drop]; omega)]

theorem ringIn_waits {s : State} {c : Cmd} {n : Nat} {val : Nat → List Byte} (h : Reads s c (256 * n) 256 val) {p : Port}
    (hp : kget (coreOf s c.core).vec.ports (cpPort c.img - 60) = some p) (hc : p.len ≤ p.count) : ringIn s c n = s := by
  rw [ringIn, h.gather (by omega) (by decide)]
  simp only [livePort, hp, List.map_map, Function.comp_def, firstStop_ok, hc, true_or, if_true]

theorem landHeld_false {s : State} {c : Cmd} (hU : Unheld s c)
    (h : ∀ x ∈ s.acc, x.core = c.core → x.kind.writes = true → x.cmd = c.id ∨ x.nearAt = 0) (d : Dest) (n : Nat) :
    landHeld s c d n = false := by
  simp only [landHeld, hU.granuleHeld_eq, Bool.false_or, List.any_eq_false, Bool.and_eq_true, beq_iff_eq, bne_iff_ne, not_and]
  intro x hx ⟨⟨⟨h1, h2⟩, h3⟩, h4⟩
  exact absurd (h x hx h1 h3) (by simp [h2, h4])

theorem ringIn_puts {s : State} {c : Cmd} {n : Nat} {val : Nat → List Byte} (hU : Unheld s c) (h : Reads s c (256 * n) 256 val)
    {p : Port} (hp : kget (coreOf s c.core).vec.ports (cpPort c.img - 60) = some p) (hc : p.count < p.len)
    (ha : ∀ x ∈ s.acc, x.core = c.core → x.kind.writes = true → x.cmd = c.id ∨ x.nearAt = 0) :
    ringIn s c n = goOn (modPort (locWrite (gatherUse s c c.window (256 * n) 256)
      (.sp c.core (256 * (p.base + (p.head + p.count) % p.len))) (laid c (256 * n) 256 val)) c
        (fun p => { p with count := p.count + 1 })) c (c.upc + 1) := by
  rw [ringIn, h.gather (by omega) (by decide)]
  simp only [livePort, hp, List.map_map, Function.comp_def, firstStop_ok, Nat.not_le.2 hc, landHeld_false hU ha, Bool.false_eq_true,
    or_self, if_false, EngAns.bytes]
  rfl

/-- An element that enters its port's ring: its bytes, and the ring's count (R283). -/
theorem ringIn_spec {s : State} {c : Cmd} {n : Nat} {val : Nat → List Byte} (hU : Unheld s c) (h : Reads s c (256 * n) 256 val)
    {p : Port} (hp : kget (coreOf s c.core).vec.ports (cpPort c.img - 60) = some p) (hc : p.count < p.len)
    (ha : ∀ x ∈ s.acc, x.core = c.core → x.kind.writes = true → x.cmd = c.id ∨ x.nearAt = 0) :
    ∃ u data, c.window.Shows (256 * n) 256 val data ∧ ringIn s c n = goOn u c (c.upc + 1) ∧
      Wrote s u (.sp c.core (256 * (p.base + (p.head + p.count) % p.len))) data ∧ OnlyCore s u c.core ∧
      { u with cores := s.cores, tcache := s.tcache, wcache := s.wcache, l2 := s.l2 } = s ∧
      { coreOf u c.core with sp := (coreOf s c.core).sp, spBad := (coreOf s c.core).spBad } = { coreOf s c.core with
        vec := { (coreOf s c.core).vec with
          ports := kput (coreOf s c.core).vec.ports (cpPort c.img - 60) { p with count := p.count + 1 } } } := by
  have hv : Cached s (gatherUse s c c.window (256 * n) 256) := Cached.of_engUse ..
  have hs := h.shows (by omega) (by decide)
  have hm := ringIn_puts hU h hp hc ha
  generalize gatherUse s c c.window (256 * n) 256 = v at hv hm
  generalize 256 * (p.base + (p.head + p.count) % p.len) = off at hm ⊢
  have hcore : coreOf v c.core = coreOf s c.core := hv.coreOf_eq _
  have hw : Wrote v (locWrite v (.sp c.core off) (laid c (256 * n) 256 val)) (.sp c.core off) (laid c (256 * n) 256 val) :=
    Wrote.of_locWrite ..
  have hk : coreOf (locWrite v (.sp c.core off) (laid c (256 * n) 256 val)) c.core = { coreOf s c.core with
      sp := memWrite (coreOf s c.core).sp off (laid c (256 * n) 256 val)
      spBad := clearMarks (coreOf s c.core).spBad off (laid c (256 * n) 256 val).length } := by
    rw [locWrite, coreOf_modCore_same, hcore]
  have hmod := modPort_eq (s := locWrite v (.sp c.core off) (laid c (256 * n) 256 val)) (c := c) (p := p) (by rw [hk]; exact hp)
    (fun p => { p with count := p.count + 1 })
  rw [hmod] at hm
  refine ⟨_, _, hs, hm, ⟨fun a => ?_, fun k a => ?_⟩, fun k hn => ?_, ?_, ?_⟩
  · have e := congrArg (fun x => memByte (State.mem x) a) hv
    exact (hw.1 a).trans e
  · have h1 := hw.2 k a
    rw [hv.coreOf_eq] at h1
    by_cases hkc : k = c.core
    · subst hkc
      rw [putPort, coreOf_setCore_same]
      exact h1
    · rw [putPort, coreOf_setCore_ne _ _ _ _ hkc]
      exact h1
  · rw [putPort, coreOf_setCore_ne _ _ _ _ hn, locWrite, coreOf_modCore_ne _ _ _ _ hn, hv.coreOf_eq]
  · rw [← hv.cores]
    exact hv
  · rw [putPort, coreOf_setCore_same, hk]

/-! CPY.T (R282). -/

theorem Window.turned_es (w : Window) : w.turned.es = w.es := by
  unfold Window.turned
  split <;> rfl

theorem Window.turned_eq {w : Window} {a b : Nat} {r : List Nat} (h : w.box = a :: b :: r) :
    w.turned = { w with box := b :: a :: r } := by rw [Window.turned, h]

theorem Window.turnBack_eq {w : Window} {a b : Nat} {r : List Nat} (h : w.box = a :: b :: r) {i j : Nat} (q : Nat) (hi : i < a)
    (hj : j < b) : w.turnBack (j + b * (i + a * q)) = i + a * (j + b * q) := by
  have h1 : (j + b * (i + a * q)) / b = i + a * q := by
    rw [Nat.add_mul_div_left _ _ (by omega), Nat.div_eq_of_lt hj, Nat.zero_add]
  have h2 : (j + b * (i + a * q)) % b = j := by rw [Nat.add_mul_mod_self_left, Nat.mod_eq_of_lt hj]
  have h3 : (i + a * q) % a = i := by rw [Nat.add_mul_mod_self_left, Nat.mod_eq_of_lt hi]
  have h4 : (j + b * (i + a * q)) / (a * b) = q := by
    rw [Nat.mul_comm a b, ← Nat.div_div_eq_div_mul, h1, Nat.add_mul_div_left _ _ (by omega), Nat.div_eq_of_lt hi, Nat.zero_add]
  simp only [Window.turnBack, h, h1, h2, h3, h4]

/-- A granule of the transposed image. -/
theorem turnGranule_spec {s : State} {c : Cmd} (hU : Unheld s c) (hd : cpDst2 c.img % 32 = 0) (n : Nat) :
    let w := c.window
    let val (e : Nat) : List Byte :=
      spView s c.core (w.place (cpDst c.img) (w.byte (w.turnBack e) / 32) + w.byte (w.turnBack e) % 32) w.es
    ∃ u data, w.turned.Shows (32 * n) 32 val data ∧ Stores s u c .eng [(w.turned.place (cpDst2 c.img) n, data)] ∧
      turnGranule s c n = goOn u c (c.upc + 1) := by
  intro w val
  obtain ⟨k, hk⟩ := c.window_es
  have hs := w.turned.shows_lay (k := k) (by rw [w.turned_es]; exact hk) (a := 32 * n) (n := 32) (by omega) (by decide) val
    (fun e _ => by rw [w.turned_es]; exact spView_length ..)
  obtain ⟨u, hu, e⟩ := hU.putGranule_eq (w.turned.place_aligned hd n) hs.1 (c.upc + 1)
  refine ⟨u, _, hs, hu, ?_⟩
  rw [← e, turnGranule]
  simp only [hU.engGetSp_ok, List.map_map, Function.comp_def, firstStop_ok, EngAns.bytes]
  rfl

/-! CPY.FOLLOW (R284). -/

theorem placeFollow_format {s : State} {c : Cmd} (h : mxOp c.fimg = 6) (value : Nat) :
    placeFollow s c value = finish (setCore s c.core { coreOf s c.core with
      fmts := kput (coreOf s c.core).fmts c.ffmt (mxFval c.fimg) }) c 0 value := by
  rw [placeFollow, if_pos h]; rfl

theorem placeFollow_full {s : State} {c : Cmd} (h : mxOp c.fimg ≠ 6) (hq : 32 ≤ queueLength s c.core .matrix) (value : Nat) :
    placeFollow s c value = s := by rw [placeFollow, if_neg h, if_pos (show Config.queueDepth ≤ _ from hq)]

/-- The matrix command that a CPY.FOLLOW places. -/
def followCmd (s : State) (c : Cmd) : Cmd :=
  mxForm { c with
    id := c.id + 1, instr := matrixWord (mxOp c.fimg) c.fslot, cls := .matrix, disp := s.nextId, tslot := c.fslot
    creg := c.freg, phase := .queued, upc := 0, edges := [], waits := [], acls := 0, work := [], counted := 0, fault := 0 } c.fimg c.ffmt

theorem placeFollow_places {s : State} {c : Cmd} (h : mxOp c.fimg ≠ 6) (hq : queueLength s c.core .matrix < 32) (value : Nat) :
    placeFollow s c value =
      { s with cmds := (finish s c 0 value).cmds ++ [followCmd s c], nextId := s.nextId + 1 } := by
  rw [placeFollow, if_neg h, if_neg (show ¬Config.queueDepth ≤ _ from Nat.not_le.2 hq)]; rfl

/-! LREC (R287). -/

/-- The state with a record slot replaced. -/
def putRec (s : State) (c : Cmd) (r : RecSlot) : State := modCore s c.core (fun k => { k with recs := kput k.recs (cpRec c.img) r })

theorem loadRecord_ok {s : State} {c : Cmd} {b0 b1 b2 : List Byte} (h0 : engGet s c (BitVec.ofNat 64 (cpAddr c.img)) 32 = .ok b0)
    (h1 : engGet s c (BitVec.ofNat 64 (cpAddr c.img) + 32#64) 32 = .ok b1)
    (h2 : engGet s c (BitVec.ofNat 64 (cpAddr c.img) + 64#64) 32 = .ok b2) :
    ∃ v, Cached s v ∧ loadRecord s c = finish (putRec v c ⟨BitVec.ofNat 768 (leNat (b0 ++ b1 ++ b2)), none⟩) c 0 96 := by
  refine ⟨_, Cached.of_engUse s c ((upFrom 0 3).map (fun i => BitVec.ofNat 64 (cpAddr c.img) + BitVec.ofNat 64 (32 * i))), ?_⟩
  have hl : (upFrom 0 3).map (fun i => engGet s c (BitVec.ofNat 64 (cpAddr c.img) + BitVec.ofNat 64 (32 * i)) 32) =
      [.ok b0, .ok b1, .ok b2] := by
    simp only [upFrom, List.map_cons, List.map_nil, Nat.mul_zero, Nat.zero_add, BitVec.add_zero, h0, h1, h2,
      Nat.mul_one, Nat.reduceMul, Nat.reduceAdd]
  unfold loadRecord
  simp only [hl]
  simp [firstStop, EngAns.good, EngAns.bytes, putRec]

theorem consume_plain (s : State) (part core cls : Nat) (i : CtxId) (ea : Word) (ipa code : Nat) (l : Loc) {leaf : Word}
    (hc : code = 8 ∨ code = 0xC) (hl : leafPpol leaf = 0) : consume s part core cls (some i) ea ipa code l leaf = s := by
  rcases hc with rfl | rfl <;> cases l <;> simp [consume, hl]

theorem loadRecord_marks {s : State} {c : Cmd} {code ipa : Nat} {l : Loc} {leaf : Word}
    (h0 : engGet s c (BitVec.ofNat 64 (cpAddr c.img)) 32 = .error code (BitVec.ofNat 64 (cpAddr c.img)) ipa l leaf)
    (hc : code = 8 ∨ code = 0xC) (hl : leafPpol leaf = 0) (hs : sharedAddr s c (BitVec.ofNat 64 (cpAddr c.img)) = true) :
    loadRecord s c = finish (putRec s c { (coreOf s c.core).recSlot (cpRec c.img) with
      mark := some (BitVec.ofNat 64 (cpAddr c.img)) }) c 0 96 := by
  have hf : firstStop ((upFrom 0 3).map (fun i => engGet s c (BitVec.ofNat 64 (cpAddr c.img) + BitVec.ofNat 64 (32 * i)) 32)) =
      some (.error code (BitVec.ofNat 64 (cpAddr c.img)) ipa l leaf) := by
    simp only [upFrom, List.map_cons, Nat.mul_zero, BitVec.add_zero, h0, firstStop]
    rfl
  unfold loadRecord
  simp only [hf]
  rw [if_pos ⟨by rcases hc with rfl | rfl <;> simp, hs⟩, consume_plain s _ _ _ _ _ _ _ _ hc hl]
  rfl

end Sys2Proof.Machine
end

section
/-! XSORT (R316, R317). -/

namespace Sys2Proof.Machine

/-! Lists with their indices, pieces of eight bytes, and running sums. -/

theorem find?_indexed_some {α : Type} (p : α → Bool) (l : List α) (a i : Nat) {x : α} (hi : l[i]? = some x) (hx : p x = true)
    (hl : ∀ j y, j < i → l[j]? = some y → p y = false) :
    ((upFrom a l.length).zip l).find? (fun q => p q.2) = some (a + i, x) := by
  induction l generalizing a i with
  | nil => simp at hi
  | cons y l ih =>
    cases i with
    | zero =>
      obtain rfl : y = x := by simpa using hi
      simp [upFrom, hx]
    | succ i =>
      have hy : p y = false := hl 0 y (by omega) rfl
      have h := ih (a + 1) i (by simpa using hi) (fun j z hj hz => hl (j + 1) z (by omega) (by simpa using hz))
      rw [List.length_cons, upFrom, List.zip_cons_cons, List.find?_cons_of_neg (by simp [hy]), h]
      congr 2
      omega

theorem find?_indexed_none {α : Type} (p : α → Bool) (l : List α) (a : Nat) (h : ∀ x ∈ l, p x = false) :
    ((upFrom a l.length).zip l).find? (fun q => p q.2) = none := by
  rw [List.find?_eq_none]
  intro q hq
  simp [h q.2 (List.of_mem_zip hq).2]

theorem sortInput_eq (b : List Byte) (n : Nat) : sortInput b n = (List.range n).map (fun i => leNat ((b.drop (8 * i)).take 8)) := by
  induction n generalizing b with
  | zero => rfl
  | succ n ih =>
    rw [sortInput, ih, List.range_succ_eq_map, List.map_cons, List.map_map]
    simp only [Nat.mul_zero, List.drop_zero, List.cons.injEq, true_and]
    exact List.map_congr_left (fun i _ => by simp [List.drop_drop, Nat.mul_succ, Nat.add_comm])

theorem sumsBefore_map_range (f : Nat → Nat) (n a : Nat) :
    sumsBefore ((List.range n).map f) a = (List.range n).map (fun j => a + ((List.range j).map f).sum) := by
  induction n generalizing f a with
  | zero => rfl
  | succ n ih =>
    rw [List.range_succ_eq_map, List.map_cons, List.map_map, sumsBefore, ih, List.map_cons, List.map_map]
    congr 1
    refine List.map_congr_left fun j _ => ?_
    rw [Function.comp_apply, List.range_succ_eq_map, List.map_cons, List.map_map, List.sum_cons, Nat.add_assoc]

/-! The sort: stable, in the order of an entry's expert, token and slot. -/

/-- What the order of R317 looks at. -/
def entFields (x : Nat) : Nat × Nat × Nat := (nbits x 35 24, nbits x 23 0, nbits x 38 36)

/-- The order of R317. -/
def entBefore (x y : Nat × Nat × Nat) : Prop := x.1 < y.1 ∨ x.1 = y.1 ∧ (x.2.1 < y.2.1 ∨ x.2.1 = y.2.1 ∧ x.2.2 ≤ y.2.2)

theorem entToken_lt (x : Nat) : nbits x 23 0 < 2 ^ 24 := Nat.mod_lt _ (by decide)

theorem entSlot_lt (x : Nat) : nbits x 38 36 < 2 ^ 3 := Nat.mod_lt _ (by decide)

theorem entKey_le_iff (x y : Nat) : entKey x ≤ entKey y ↔ entBefore (entFields x) (entFields y) := by
  have := entToken_lt x
  have := entToken_lt y
  have := entSlot_lt x
  have := entSlot_lt y
  simp only [entKey, entBefore, entFields, entExpert, entToken, entSlot]
  omega

theorem entKey_eq_iff (x y : Nat) : entKey x = entKey y ↔ entFields x = entFields y := by
  have := entToken_lt x
  have := entToken_lt y
  have := entSlot_lt x
  have := entSlot_lt y
  unfold entKey entFields entExpert entToken entSlot
  rw [Prod.mk.injEq, Prod.mk.injEq]
  omega

theorem mem_insertEnt (x z : Nat) (l : List Nat) : z ∈ insertEnt x l ↔ z = x ∨ z ∈ l := by
  induction l with
  | nil => simp [insertEnt]
  | cons y l ih =>
    rw [insertEnt]
    split
    · simp
    · rw [List.mem_cons, ih, List.mem_cons, or_left_comm]

theorem insertEnt_sorted (x : Nat) (l : List Nat) (h : l.Pairwise (fun a b => entKey a ≤ entKey b)) :
    (insertEnt x l).Pairwise (fun a b => entKey a ≤ entKey b) := by
  induction l with
  | nil => simp [insertEnt]
  | cons y l ih =>
    obtain ⟨hy, hl⟩ := List.pairwise_cons.1 h
    rw [insertEnt]
    split
    · rename_i hxy
      refine List.pairwise_cons.2 ⟨fun z hz => ?_, h⟩
      rcases List.mem_cons.1 hz with rfl | hz
      · omega
      · have := hy z hz
        omega
    · refine List.pairwise_cons.2 ⟨fun z hz => ?_, ih hl⟩
      rcases (mem_insertEnt x z l).1 hz with rfl | hz
      · omega
      · exact hy z hz

/-- An entry is put behind all that agree with it in the order. -/
theorem insertEnt_filter (x : Nat) (l : List Nat) (p : Nat → Bool) (hp : ∀ a b, p a = true → p b = true → entKey a = entKey b)
    (h : l.Pairwise (fun a b => entKey a ≤ entKey b)) : (insertEnt x l).filter p = l.filter p ++ [x].filter p := by
  induction l with
  | nil => rfl
  | cons y l ih =>
    obtain ⟨hy, hl⟩ := List.pairwise_cons.1 h
    rw [insertEnt]
    split
    · rename_i hxy
      by_cases hx : p x = true
      · have hn : (y :: l).filter p = [] := by
          rw [List.filter_eq_nil_iff]
          intro z hz hpz
          have := hp x z hx hpz
          rcases List.mem_cons.1 hz with rfl | hz
          · omega
          · have := hy z hz
            omega
        rw [List.filter_cons_of_pos hx, hn, List.filter_cons_of_pos hx]
        rfl
      · rw [List.filter_cons_of_neg hx, List.filter_cons_of_neg hx, List.filter_nil, List.append_nil]
    · by_cases hpy : p y = true
      · rw [List.filter_cons_of_pos hpy, List.filter_cons_of_pos hpy, ih hl, List.cons_append]
      · rw [List.filter_cons_of_neg hpy, List.filter_cons_of_neg hpy, ih hl]

theorem sortEnts_fold (l acc : List Nat) (h : acc.Pairwise (fun a b => entKey a ≤ entKey b)) :
    (l.foldl (fun acc x => insertEnt x acc) acc).Pairwise (fun a b => entKey a ≤ entKey b) ∧
    ∀ p : Nat → Bool, (∀ a b, p a = true → p b = true → entKey a = entKey b) →
      (l.foldl (fun acc x => insertEnt x acc) acc).filter p = acc.filter p ++ l.filter p := by
  induction l generalizing acc with
  | nil => exact ⟨h, fun p _ => by simp⟩
  | cons x l ih =>
    obtain ⟨h1, h2⟩ := ih _ (insertEnt_sorted x acc h)
    refine ⟨h1, fun p hp => ?_⟩
    rw [List.foldl_cons, h2 p hp, insertEnt_filter x acc p hp h, List.append_assoc, ← List.filter_append, List.singleton_append]

/-- The sort puts entries in the order of R317, and those that agree in it keep their order. -/
theorem sortEnts_spec (l : List Nat) : (sortEnts l).Pairwise (fun x y => entBefore (entFields x) (entFields y)) ∧
    ∀ k, (sortEnts l).filter (fun x => entFields x == k) = l.filter (fun x => entFields x == k) := by
  obtain ⟨h1, h2⟩ := sortEnts_fold l [] List.Pairwise.nil
  refine ⟨h1.imp (fun h => (entKey_le_iff _ _).1 h), fun k => h2 _ fun a b ha hb => ?_⟩
  rw [entKey_eq_iff, beq_iff_eq.1 ha, beq_iff_eq.1 hb]

/-! The micro-operations. -/

theorem entStray_iff (c : Cmd) (x : Nat) : (decide (xeE c.img ≤ entExpert x) && entExpert x != 0xFFF) = true ↔
    xeE c.img ≤ nbits x 35 24 ∧ nbits x 35 24 ≠ 0xFFF := by
  rw [Bool.and_eq_true, decide_eq_true_eq, bne_iff_ne, entExpert]

/-- The sort reads its entries; the first that names no expert faults. -/
theorem sortUop_bad {s : State} {c : Cmd} (hU : Unheld s c) (hu : c.upc = 0) {i x : Nat} :
    let b := spView s c.core (xeLa c.img) (8 * (xeT c.img * xeK c.img))
    let l := (List.range (xeT c.img * xeK c.img)).map (fun i => leNat ((b.drop (8 * i)).take 8))
    let bad (x : Nat) : Prop := xeE c.img ≤ nbits x 35 24 ∧ nbits x 35 24 ≠ 0xFFF
    l[i]? = some x → bad x → (∀ j y, j < i → l[j]? = some y → ¬bad y) →
    sortUop s c = engineFault s c 0xC06 (BitVec.ofNat 64 i) := by
  intro b l bad hi hx hj
  have hf := find?_indexed_some (fun y => decide (xeE c.img ≤ entExpert y) && entExpert y != 0xFFF) l 0 i hi
    ((entStray_iff c x).2 hx) (fun j y h1 h2 => Bool.eq_false_iff.2 fun h => hj j y h1 h2 ((entStray_iff c y).1 h))
  rw [sortUop, hu]
  simp only [withBytes, hU.engGetSp_ok, sortInput_eq]
  rw [hf, Nat.zero_add]

/-- The valid entries, in the order of R317; those that agree in it keep the order in which they were read. -/
theorem sortUop_sorts {s : State} {c : Cmd} (hU : Unheld s c) (hu : c.upc = 0) :
    let b := spView s c.core (xeLa c.img) (8 * (xeT c.img * xeK c.img))
    let l := (List.range (xeT c.img * xeK c.img)).map (fun i => leNat ((b.drop (8 * i)).take 8))
    (∀ x ∈ l, ¬(xeE c.img ≤ nbits x 35 24 ∧ nbits x 35 24 ≠ 0xFFF)) →
    ∃ m, sortUop s c = modCmd s c.id (fun c => { c with upc := 1, work := m }) ∧
      m.Pairwise (fun x y => entBefore (entFields x) (entFields y)) ∧
      ∀ k, m.filter (fun x => entFields x == k) = l.filter (fun x => nbits x 35 24 != 0xFFF && entFields x == k) := by
  intro b l h
  have hf := find?_indexed_none (fun y => decide (xeE c.img ≤ entExpert y) && entExpert y != 0xFFF) l 0
    (fun x hx => Bool.eq_false_iff.2 fun hb => h x hx ((entStray_iff c x).1 hb))
  obtain ⟨h1, h2⟩ := sortEnts_spec (l.filter (fun x => nbits x 35 24 != 0xFFF))
  refine ⟨_, ?_, h1, fun k => ?_⟩
  · rw [sortUop, hu]
    simp only [withBytes, hU.engGetSp_ok, sortInput_eq]
    rw [hf]
    rfl
  · rw [h2 k, List.filter_filter]
    simp only [Bool.and_comm]

/-- Rows of no bytes write nothing. -/
theorem placed_filter (rows : List (Nat × List Byte)) :
    (rows.filter (fun p => !p.2.isEmpty)).flatMap (fun r => placed r.1 r.2) = rows.flatMap (fun r => placed r.1 r.2) := by
  induction rows with
  | nil => rfl
  | cons r rows ih =>
    obtain ⟨o, d⟩ := r
    cases d with
    | nil => exact ih
    | cons b d => rw [List.filter_cons_of_pos (by rfl), List.flatMap_cons, List.flatMap_cons, ih]

/-- The rows of a sort that are not empty are written. -/
theorem Unheld.filledRows_eq {s : State} {c : Cmd} (h : Unheld s c) (rows : List (Nat × List Byte)) (done : State → State) :
    ∃ u, Stores s u c .eng rows ∧ writeRows s c (rows.filter (fun p => !p.2.isEmpty)) done = done u := by
  obtain ⟨u, hu, e⟩ := h.writeRows_eq (rows.filter (fun p => !p.2.isEmpty)) done
  exact ⟨u, hu.recut (placed_filter rows), e⟩

section
variable (s : State) (c : Cmd)

/-- How many entries an expert keeps. -/
def keptFor (j : Nat) : Nat :=
  if xeCap c.img = 0 then (entsOf c.work j).length else min (entsOf c.work j).length (xeCap c.img)

/-- The entries kept, and those beyond the capacity. -/
def keptEnts : List Nat := (List.range (xeE c.img)).flatMap (fun j => (entsOf c.work j).take (keptFor c j))
def beyondEnts : List Nat := (List.range (xeE c.img)).flatMap (fun j => (entsOf c.work j).drop (keptFor c j))

theorem sortSplit_eq : sortSplit (xeE c.img) (xeCap c.img) c.work =
    (keptEnts c, beyondEnts c, (List.range (xeE c.img)).map (keptFor c)) := by
  have hr : upFrom 0 (xeE c.img) = List.range (xeE c.img) := by
    rw [upFrom_eq, show (fun i => 0 + i) = id from funext fun i => Nat.zero_add i, List.map_id]
  simp only [sortSplit, hr, List.flatMap_map, List.map_map]
  rfl

theorem sortUop_kept (h : c.upc = 1) : sortUop s c =
    writeRows s c ([(xeLb c.img, (keptEnts c).flatMap (fun x => natBytes x 8))].filter (fun p => !p.2.isEmpty))
      (fun s => goOn s c (c.upc + 1)) := by
  simp only [sortUop, h, sortSplit_eq]

theorem sortUop_counts (h : c.upc = 2) : sortUop s c =
    writeRows s c ([(xeLc c.img, (List.range (xeE c.img)).flatMap (fun j => natBytes (keptFor c j) 4)),
      (xeLd c.img, (List.range (xeE c.img)).flatMap (fun j => natBytes ((List.range j).map (keptFor c)).sum 4))].filter
        (fun p => !p.2.isEmpty)) (fun s => goOn s c (c.upc + 1)) := by
  simp only [sortUop, h, sortSplit_eq, sumsBefore_map_range, List.flatMap_map, Nat.zero_add]

theorem sortUop_beyond (h : c.upc = 3) : sortUop s c =
    writeRows s c ([(xeLe c.img, (beyondEnts c).flatMap (fun x => natBytes x 8))].filter (fun p => !p.2.isEmpty))
      (fun s => goOn s c (c.upc + 1)) := by
  simp only [sortUop, h, sortSplit_eq]

theorem sortUop_end (h : 4 ≤ c.upc) : sortUop s c = finish s c 0 ((beyondEnts c).length * 2 ^ 24 + (keptEnts c).length) := by
  obtain ⟨n, hn⟩ := Nat.exists_eq_add_of_le' h
  simp only [sortUop, hn, sortSplit_eq]

end

end Sys2Proof.Machine
end

section
/-! XA2A (R323, R324). -/

namespace Sys2Proof.Machine

/-! Lists with their indices. -/

theorem indexed_iff {α : Type} (l : List α) (f : Nat × α → Bool) :
    ((upFrom 0 l.length).zip l).any f = true ↔ ∃ i x, l[i]? = some x ∧ f (i, x) = true := by
  have key : ∀ a, ((upFrom a l.length).zip l).any f = true ↔ ∃ i x, l[i]? = some x ∧ f (a + i, x) = true := by
    induction l with
    | nil => simp [upFrom]
    | cons y l ih =>
      intro a
      rw [List.length_cons, upFrom, List.zip_cons_cons, List.any_cons, Bool.or_eq_true, ih]
      constructor
      · rintro (h | ⟨i, x, hi, hx⟩)
        · exact ⟨0, y, rfl, h⟩
        · exact ⟨i + 1, x, by simpa using hi, by rwa [show a + (i + 1) = a + 1 + i by omega]⟩
      · rintro ⟨i, x, hi, hx⟩
        cases i with
        | zero =>
          obtain rfl : y = x := by simpa using hi
          exact Or.inl hx
        | succ i => exact Or.inr ⟨i, x, by simpa using hi, by rwa [show a + 1 + i = a + (i + 1) by omega]⟩
  simpa using key 0

theorem sum_take_range (f : Nat → Nat) (n m : Nat) :
    (((List.range n).map f).take m).sum = ((List.range n).map (fun i => if i < m then f i else 0)).sum := by
  induction n generalizing f m with
  | zero => simp
  | succ n ih =>
    rw [List.range_succ_eq_map, List.map_cons, List.map_map, List.map_cons, List.map_map]
    cases m with
    | zero => simp [Function.comp_def]
    | succ m =>
      rw [List.take_succ_cons, List.sum_cons, ih, List.sum_cons, if_pos (Nat.succ_pos m)]
      congr 3
      funext i
      simp

/-! The sending of the rows. -/

section
variable (s : State) (c : Cmd)

/-- The counts in the scratchpad, from an offset. -/
def countWord (off i : Nat) : Nat :=
  leNat (((spView s c.core off (4 * xeNpeer c.img)).drop (4 * i)).take 4)

/-- The peers' nodes and the own counts. -/
def peersRead : List Nat := (List.range (xeNpeer c.img)).map (fun i => countWord s c (xeLa c.img) i % 2 ^ 16)
def countsRead : List Nat := (List.range (xeNpeer c.img)).map (countWord s c (xeLb c.img))

/-- The other members, by index and node. -/
def othersRead : List (Nat × Nat) := ((List.range (xeNpeer c.img)).zip (peersRead s c)).filter (fun q => q.1 != xeMe c.img)

/-- What the command keeps once its row is sent. -/
def rowWork : List Nat :=
  [1, if nth (peersRead s c) (xeMe c.img) = s.node then 0 else 1] ++ peersRead s c ++ countsRead s c

/-- The row for a peer. -/
def sentRow (i node : Nat) : CountRow :=
  ⟨identNo s c.part, s.node, node, xeGtag c.img, xeSeq c.img, xeNpeer c.img, xeMe c.img,
   nth (peersRead s c) (xeMe c.img) != s.node, countsRead s c, xeLd c.img, xeLf c.img, c.core, xeGa c.img, i, dieOf c.core, s.nextId⟩

theorem upFrom_zero (n : Nat) : upFrom 0 n = List.range n := by
  rw [upFrom_eq, show (fun i => 0 + i) = id from funext fun i => Nat.zero_add i, List.map_id]

theorem ownRow_eq (l : List Int) (node i : Nat) : ownRow s { c with work := rowWork s c, list := l } node i = sentRow s c i node := by
  have hc : a2aCounts { c with work := rowWork s c, list := l } = countsRead s c := by
    simp [a2aCounts, rowWork, peersRead]
  have hg : (nth (rowWork s c) 1 == 1) = (nth (peersRead s c) (xeMe c.img) != s.node) := by
    have h1 : nth (rowWork s c) 1 = if nth (peersRead s c) (xeMe c.img) = s.node then 0 else 1 := rfl
    rw [h1]
    split
    · rename_i h
      simp [h]
    · rename_i h
      simp [h]
  simp only [ownRow, sentRow, hc, hg]

theorem countsOf_peers : (countsOf (spView s c.core (xeLa c.img) (4 * xeNpeer c.img)) (xeNpeer c.img)).map (fun n => n % 2 ^ 16) =
    peersRead s c := by
  rw [countsOf_eq, List.map_map]
  rfl

theorem countsOf_own : countsOf (spView s c.core (xeLb c.img) (4 * xeNpeer c.img)) (xeNpeer c.img) = countsRead s c := countsOf_eq ..

theorem othersOf_peers : ((upFrom 0 (xeNpeer c.img)).zip (peersRead s c)).filter (fun q => q.1 != xeMe c.img) = othersRead s c := by
  rw [upFrom_zero, othersRead]

variable {s c} {p : Partition}

theorem a2aSend_large (hU : Unheld s c) (hn : xeN c.img < (countsRead s c).sum) :
    a2aSend s c = engineFault s c 0xC07 (BitVec.ofNat 64 (countsRead s c).sum) := by
  simp only [a2aSend, withBytes, hU.engGetSp_ok, countsOf_peers, countsOf_own]
  rw [if_pos hn]

theorem a2aSend_unbound (hU : Unheld s c) (hp : partOf s c.part = some p) (hn : (countsRead s c).sum ≤ xeN c.img) {code : Nat}
    (hb : bindError p (xeGa c.img) = some code) : a2aSend s c = engineFault s c code (BitVec.ofNat 64 (xeGa c.img)) := by
  simp only [a2aSend, withBytes, hU.engGetSp_ok, countsOf_peers, countsOf_own, hp, Option.bind_some, hb, Option.map_some]
  rw [if_neg (Nat.not_lt.2 hn)]

theorem a2aSend_sends (hU : Unheld s c) (hp : partOf s c.part = some p) (hn : (countsRead s c).sum ≤ xeN c.img)
    (hb : bindError p (xeGa c.img) = none) (ho : ∀ q ∈ othersRead s c, nodeRefuses s c.part q.2 true = false) :
    a2aSend s c = modCmd { touchBlock s c.part (xeGa c.img) with
        nextId := s.nextId + 1
        net := { s.net with rows := s.net.rows ++ (othersRead s c).map (fun q => sentRow s c q.1 q.2) } } c.id
      (fun x => { x with
        work := rowWork s c
        list := (((List.range (xeNpeer c.img)).zip ((peersRead s c).zip (countsRead s c))).filter
          (fun q => q.1 != xeMe c.img && q.2.2 != 0)).map (fun q => (q.2.1 : Int)) }) := by
  have hf : ((othersRead s c).map (fun p => p.2)).find? (fun n => nodeRefuses s c.part n true) = none := by
    rw [List.find?_eq_none]
    intro n hn
    obtain ⟨q, hq, rfl⟩ := List.mem_map.1 hn
    simp [ho q hq]
  have hr := ownRow_eq s c ((((List.range (xeNpeer c.img)).zip ((peersRead s c).zip (countsRead s c))).filter
    (fun q => q.1 != xeMe c.img && q.2.2 != 0)).map (fun q => (q.2.1 : Int)))
  simp only [a2aSend, withBytes, hU.engGetSp_ok, countsOf_peers, countsOf_own, othersOf_peers, hp, Option.bind_some, hb,
    Option.map_none, hf]
  rw [if_neg (Nat.not_lt.2 hn)]
  simp only [upFrom_zero]
  congr 3
  simp only [← hr, rowWork]

end

/-! The rows once all are there. -/

section
variable {s : State} {c : Cmd} {rows : List CountRow}

theorem a2aUop_sends (hw : c.work = []) : a2aUop s c = a2aSend s c := by
  rw [a2aUop, hw]
  rfl

theorem a2aUop_waits (hw : c.work ≠ []) (hr : a2aRows s c = none) : a2aUop s c = s := by
  rw [a2aUop, if_neg (by simpa using hw), hr]

theorem rowsAgree_iff (np : Nat) (l : List CountRow) :
    rowsAgree np l = true ↔ ¬∃ (i : Nat) (x : CountRow), l[i]? = some x ∧ (x.gerr = true ∨ x.npeer ≠ np ∨ x.me ≠ i) := by
  rw [rowsAgree, ← Bool.not_eq_false, not_iff_not, ← Bool.not_eq_true', List.not_all_eq_any_not, indexed_iff]
  refine exists_congr fun i => exists_congr fun x => and_congr_right fun _ => ?_
  by_cases h1 : x.gerr = true <;> by_cases h2 : x.npeer = np <;> by_cases h3 : x.me = i <;> simp [h1, h2, h3]

theorem overCapacity_iff (l : List CountRow) :
    overCapacity l = true ↔ ∃ (i : Nat) (x : CountRow), l[i]? = some x ∧ x.lf < (l.map (fun y => nth y.counts i)).sum := by
  rw [overCapacity, indexed_iff]
  simp only [decide_eq_true_eq]
  rfl

theorem columnOf_eq (l : List CountRow) (r : Nat) :
    columnOf l r = (List.range l.length).map (fun i => nth (l.getD i default).counts r) := by
  refine List.ext_getElem (by simp [columnOf]) fun i h1 h2 => ?_
  have : i < l.length := by simpa [columnOf] using h1
  simp [columnOf, List.getElem?_eq_getElem this]

/-- The receive table (R323). -/
theorem table_eq (l : List CountRow) (r : Nat) :
    ((columnOf l r).zip (sumsBefore (columnOf l r) 0)).flatMap (fun p => natBytes p.1 4 ++ natBytes p.2 4) =
      (List.range l.length).flatMap (fun i => natBytes (nth (l.getD i default).counts r) 4 ++
        natBytes ((List.range i).map (fun j => nth (l.getD j default).counts r)).sum 4) := by
  rw [columnOf_eq, sumsBefore_map_range, List.zip_map', List.flatMap_map]
  simp only [Nat.zero_add]

variable (hw : c.work ≠ []) (hr : a2aRows s c = some rows)
include hw hr

theorem a2aUop_checks (hu : c.upc = 0) :
    a2aUop s c = if rowsAgree (xeNpeer c.img) rows = true then
        (if overCapacity rows = true then endExchange s c 0xC81 0 else goOn s c 1)
      else endExchange s c 0xC82 0 := by
  rw [a2aUop, if_neg (by simpa using hw), hr]
  simp only [hu, if_true]
  cases rowsAgree (xeNpeer c.img) rows <;> rfl

theorem a2aUop_posts (hu : c.upc = 1) : a2aUop s c = a2aPost s c rows := by
  rw [a2aUop, if_neg (by simpa using hw), hr]
  simp [hu]

theorem a2aUop_piece (h1 : 2 ≤ c.upc) (h2 : c.upc < xeNpeer c.img + 2) : a2aUop s c = a2aPiece s c rows (c.upc - 2) := by
  rw [a2aUop, if_neg (by simpa using hw), hr]
  dsimp only
  rw [if_neg (by omega), if_neg (by omega), if_pos h2]

theorem a2aUop_end (hu : xeNpeer c.img + 2 ≤ c.upc) (hf : piecesFlying s c.id = false) :
    a2aUop s c = endExchange s c 0 (a2aCounts c).sum := by
  rw [a2aUop, if_neg (by simpa using hw), hr]
  dsimp only
  rw [if_neg (by omega), if_neg (by omega), if_neg (by omega), if_neg (by simp [hf])]

end

theorem piecesFlying_false {s : State} {n : Nat} (h : ∀ m ∈ s.net.pieces, m.cmd ≠ n) : piecesFlying s n = false := by
  simpa [piecesFlying] using h

section
variable {s : State} {c : Cmd} {rows : List CountRow} {p : Partition} (hp : partOf s c.part = some p)
include hp

theorem a2aPost_unbound (hb : isBarrier p (xeGa c.img) = false) :
    a2aPost s c rows = engineFault s c 0xB02 (BitVec.ofNat 64 (xeGa c.img)) := by
  simp [a2aPost, hp, hb]

theorem a2aPost_poisoned (hb : isBarrier p (xeGa c.img) = true) (hz : (barrierAt p (xeGa c.img)).pz = true) :
    a2aPost s c rows = engineFault s c 0xB04 (BitVec.ofNat 64 (xeGa c.img)) := by
  simp [a2aPost, hp, hb, hz]

/-- The post to the own barrier, and the receive table. -/
theorem a2aPost_spec (hb : isBarrier p (xeGa c.img) = true) (hz : (barrierAt p (xeGa c.img)).pz = false)
    (h1 : xeGa c.img ∉ p.syncPz) (h2 : xeGa c.img + 8 ∉ p.syncPz) (hU : Unheld s c) (hh : countHeld s c = false)
    (ha : (barrierAt p (xeGa c.img)).a ≠ 0)
    (hn : (barrierAt p (xeGa c.img)).b + ((columnOf rows (xeMe c.img)).sum : Nat) < 2 ^ 31)
    (hw : ∀ x ∈ p.waiters, x.sem = true → x.addr ≠ xeGa c.img ∧ x.addr ≠ xeGa c.img + 8) :
    let x := { barrierAt p (xeGa c.img) with b := (barrierAt p (xeGa c.img)).b + ((columnOf rows (xeMe c.img)).sum : Nat) }
    ∃ u v, Stores s u c .eng [(xeLe c.img, ((columnOf rows (xeMe c.img)).zip (sumsBefore (columnOf rows (xeMe c.img)) 0)).flatMap
        (fun p => natBytes p.1 4 ++ natBytes p.2 4))] ∧ a2aPost s c rows = goOn v c 2 ∧
      { v with parts := u.parts, resident := u.resident } = u ∧ (∀ i, i ≠ c.part → partOf v i = partOf s i) ∧
      partOf v c.part = some (putBarrier p (xeGa c.img) x) ∧ barrierAt (putBarrier p (xeGa c.img) x) (xeGa c.img) = x := by
  intro x
  have hf := (barrierAt_fits p (xeGa c.img)).2.2.2.2.1
  obtain ⟨u, hu, e⟩ := hU.writeRows_eq [(xeLe c.img, ((columnOf rows (xeMe c.img)).zip
    (sumsBefore (columnOf rows (xeMe c.img)) 0)).flatMap (fun p => natBytes p.1 4 ++ natBytes p.2 4))]
    (fun s => goOn (postBytes s c.part (xeGa c.img) (columnOf rows (xeMe c.img)).sum) c 2)
  have hq : partOf u c.part = some p := by rw [partOf, hu.parts]; exact hp
  obtain ⟨k1, k2, k3⟩ := countAt_parts (addr := xeGa c.img) hq x
  refine ⟨u, postBytes u c.part (xeGa c.img) (columnOf rows (xeMe c.img)).sum, hu, ?_, ?_, fun i hi => ?_, ?_,
    (countAt_eq hq _ ha (by omega) hn hw).2⟩
  · rw [a2aPost, hp, ← e]
    simp [hb, hz, countError_none hp h1 h2, hh]
  · rw [postBytes_eq hq ha (by omega) hn hw]
    exact k1
  · rw [postBytes_eq hq ha (by omega) hn hw, k2 i hi, partOf, hu.parts]
    rfl
  · rw [postBytes_eq hq ha (by omega) hn hw]
    exact k3

end

/-! The pieces. -/

section
variable {s : State} {c : Cmd} {rows : List CountRow} {r : Nat} (hf : piecesFlying s c.id = false)
include hf

theorem a2aPiece_empty (hn : nth (a2aCounts c) r = 0) : a2aPiece s c rows r = goOn s c (c.upc + 1) := by
  simp [a2aPiece, hf, hn]

theorem a2aPiece_sends (hU : Unheld s c) (hn : nth (a2aCounts c) r ≠ 0) :
    let node := if r = xeMe c.img then s.node else nth (a2aPeers c) r
    (r ≠ xeMe c.img → classHeld s c node = false) → (r = xeMe c.img → countHeld s c = false) →
    a2aPiece s c rows r = goOn { s with
      nextId := s.nextId + 1
      net := { s.net with pieces := s.net.pieces ++ [⟨identNo s c.part, s.node, node, xeGtag c.img, xeSeq c.img, xeMe c.img,
        (rows.getD r default).core, (rows.getD r default).ld + ((columnOf rows r).take (xeMe c.img)).sum, (rows.getD r default).bar,
        spView s c.core (xeLc c.img + ((a2aCounts c).take r).sum) (nth (a2aCounts c) r), false, c.id, dieOf c.core, s.nextId⟩] } }
      c (c.upc + 1) := by
  intro node h1 h2
  have hh : ((r != xeMe c.img && classHeld s c node) || (r == xeMe c.img && countHeld s c)) = false := by
    by_cases hr : r = xeMe c.img
    · simp [hr, h2 hr]
    · simp [hr, h1 hr]
  rw [a2aPiece, hf]
  dsimp only
  rw [if_neg (by decide), if_neg hn, if_neg (by rw [hh]; decide), withBytes, hU.engGetSp_ok]

end

end Sys2Proof.Machine
end

section
/-! The channel words and XSTAT (R318 to R322, R325). -/

namespace Sys2Proof.Machine

/-! Which operation a Prism command is. -/

section
variable {s : State} {c : Cmd} (h : AtWork s c .prism)
include h

theorem AtWork.xsort (ho : xeOp c.img = 1) : microOp s c = sortUop s c := by rw [h.prism, prismUop, ho]; rfl
theorem AtWork.xa2a (ho : xeOp c.img = 2) : microOp s c = a2aUop s c := by rw [h.prism, prismUop, ho]; rfl
theorem AtWork.xopen (ho : xeOp c.img = 3) : microOp s c = openUop s c := by rw [h.prism, prismUop, ho]; rfl
theorem AtWork.xwin (ho : xeOp c.img = 4) : microOp s c = winUop s c := by rw [h.prism, prismUop, ho]; rfl
theorem AtWork.xsend (ho : xeOp c.img = 5) : microOp s c = sendUop s c := by rw [h.prism, prismUop, ho]; rfl
theorem AtWork.xrecv (ho : xeOp c.img = 6) : microOp s c = recvUop s c := by rw [h.prism, prismUop, ho]; rfl
theorem AtWork.xclose (ho : xeOp c.img = 7) : microOp s c = closeUop s c := by rw [h.prism, prismUop, ho]; rfl
theorem AtWork.xstat (ho : xeOp c.img = 10) : microOp s c = statUop s c := by rw [h.prism, prismUop, ho]; rfl

theorem AtWork.xring (ho : xeOp c.img = 8 ∨ xeOp c.img = 9) : microOp s c = ringUop s c := by
  rcases ho with ho | ho <;> (rw [h.prism, prismUop, ho]; rfl)

end

/-! The channel that a command names. -/

section
variable {s : State} {c : Cmd}

theorem ownRecv_none (h : ∀ r, kget s.recvs (xeChan c.img) = some r → ¬(r.core = c.core ∧ r.part = c.part)) : ownRecv s c = none := by
  unfold ownRecv
  cases hr : kget s.recvs (xeChan c.img) with
  | none => rfl
  | some r => rw [Option.bind_some, if_neg (h r hr)]

theorem ownSend_none (h : ∀ x, kget s.sends (xeChan c.img) = some x → ¬(x.core = c.core ∧ x.part = c.part)) : ownSend s c = none := by
  unfold ownSend
  cases hx : kget s.sends (xeChan c.img) with
  | none => rfl
  | some x => rw [Option.bind_some, if_neg (h x hx)]

theorem ownRecv_some {r : RecvCh} (h : kget s.recvs (xeChan c.img) = some r) (h1 : r.core = c.core) (h2 : r.part = c.part) :
    ownRecv s c = some r := by rw [ownRecv, h, Option.bind_some, if_pos ⟨h1, h2⟩]

theorem ownSend_some {x : SendCh} (h : kget s.sends (xeChan c.img) = some x) (h1 : x.core = c.core) (h2 : x.part = c.part) :
    ownSend s c = some x := by rw [ownSend, h, Option.bind_some, if_pos ⟨h1, h2⟩]

/-! XCH.OPEN (R318). -/

theorem openUop_send (hd : xeDir c.img = 0) : openUop s c =
    if (kget s.sends (xeChan c.img)).isSome = true then chanFault s c
    else if nodeRefuses s c.part (xePnode c.img) false = true then nodeFault s c (xePnode c.img)
    else finish { s with sends := kput s.sends (xeChan c.img) ⟨c.core, c.part, xePnode c.img, xePchan c.img, xeLe c.img, 0⟩ } c 0 0 := by
  rw [openUop, if_pos hd]

theorem openUop_recv (hd : xeDir c.img ≠ 0) : openUop s c =
    if (kget s.recvs (xeChan c.img)).isSome = true then chanFault s c
    else if nodeRefuses s c.part (xePnode c.img) true = true then nodeFault s c (xePnode c.img)
    else finish { s with
      recvs := kput s.recvs (xeChan c.img) ⟨c.core, c.part, xePnode c.img, xePchan c.img, xeLa c.img, xeLf c.img, xeLe c.img,
        xeGa c.img, xeBq c.img == 1, xeBsid c.img, 0, 0, none⟩
      nextId := s.nextId + 1
      net := { s.net with ends := s.net.ends ++ [⟨identNo s c.part, s.node, xeChan c.img, xePnode c.img, xePchan c.img, xeGa c.img, 0,
        dieOf c.core, s.nextId⟩] } } c 0 0 := by
  rw [openUop, if_neg hd]
  rfl

/-! A command whose channel is not its core's (R328). -/

/-- A word of a receive channel. -/
theorem recvWord_faults (h : AtWork s c .prism) (hu : c.upc = 0) (hr : ownRecv s c = none)
    (ho : xeOp c.img ∈ [4, 6] ∨ xeOp c.img = 7 ∧ xeDir c.img ≠ 0 ∨ xeOp c.img = 10 ∧ xeSel c.img = 3) :
    microOp s c = chanFault s c := by
  rcases ho with ho | ⟨ho, hd⟩ | ⟨ho, hs⟩
  · rcases List.mem_pair.1 ho with ho | ho
    · simp only [h.xwin ho, winUop, hu, hr]
    · rw [h.xrecv ho, recvUop, hr]
      dsimp only
      rw [if_pos hu]
  · rw [h.xclose ho, closeUop, if_neg hd, hr]
  · simp only [h.xstat ho, statUop, hs, hr]

/-- A word of a send channel. -/
theorem sendWord_faults (h : AtWork s c .prism) (hu : c.upc = 0) (hx : ownSend s c = none)
    (ho : xeOp c.img = 5 ∨ xeOp c.img = 7 ∧ xeDir c.img = 0 ∨ xeOp c.img = 10 ∧ xeSel c.img ∈ [1, 2]) :
    microOp s c = chanFault s c := by
  rcases ho with ho | ⟨ho, hd⟩ | ⟨ho, hs⟩
  · rw [h.xsend ho, sendUop, hx]
    dsimp only
    rw [if_pos hu]
  · rw [h.xclose ho, closeUop, if_pos hd, hx]
  · rcases List.mem_pair.1 hs with hs | hs <;> simp only [h.xstat ho, statUop, hs, hx]

/-! Words of a receive channel (R322). -/

section
variable {r : RecvCh} (hr : kget s.recvs (xeChan c.img) = some r) (h1 : r.core = c.core) (h2 : r.part = c.part)
include hr h1 h2

theorem winUop_sends (hu : c.upc = 0) (hn : nodeRefuses s c.part r.pnode true = false) : winUop s c = goOn { s with
      recvs := kput s.recvs (xeChan c.img) { r with wend := xeGa c.img }, nextId := s.nextId + 1
      net := { s.net with ends := s.net.ends ++ [⟨identNo s c.part, s.node, xeChan c.img, r.pnode, r.pchan, xeGa c.img, c.id,
        dieOf c.core, s.nextId⟩] } } c 1 := by
  simp only [winUop, hu, ownRecv_some hr h1 h2, hn]
  rw [if_neg (by decide), ← h1, ← h2]
  rfl

theorem recvUop_takes (hw : c.work = []) : recvUop s c =
    modCmd { s with recvs := kput s.recvs (xeChan c.img) { r with rcv := r.rcv + xeN c.img * r.rsz } } c.id
      (fun x => { x with work := [r.rcv + xeN c.img * r.rsz] }) := by
  rw [recvUop, hw, takeTarget, targetOf, ownRecv_some hr h1 h2]

theorem recvUop_target {target : Nat} {l : List Nat} (hw : c.work = target :: l) : recvUop s c =
    if target ≤ r.dlv then finish s c 0 target else if r.eos.isSome = true then finish s c 0xC83 r.dlv else goOn s c 1 := by
  rw [recvUop, ownRecv_some hr h1 h2, hw]

theorem closeUop_recv (hd : xeDir c.img ≠ 0) (hn : nodeRefuses s c.part r.pnode true = false) : closeUop s c = finish { s with
      recvs := kdel s.recvs (xeChan c.img), nextId := s.nextId + 1
      net := { s.net with rcloses := s.net.rcloses ++ [⟨identNo s c.part, s.node, xeChan c.img, r.pnode, r.pchan, dieOf c.core,
        s.nextId⟩] } } c 0 r.dlv := by
  rw [closeUop, if_neg hd, ownRecv_some hr h1 h2]
  dsimp only
  rw [if_neg (by simp [hn])]

theorem statUop_recv (hs : xeSel c.img = 3) : statUop s c = finish s c 0 r.dlv := by
  simp only [statUop, hs, ownRecv_some hr h1 h2]

end

theorem winUop_waits (hu : 1 ≤ c.upc) : winUop s c = if s.net.ends.any (fun m => m.cmd == c.id) = true then s
    else finish s c 0 (xeGa c.img) := by
  obtain ⟨n, hn⟩ := Nat.exists_eq_add_of_le' hu
  rw [winUop, hn]
  rfl

/-! Words of a send channel (R320, R322). -/

theorem inFlight_isEmpty (s : State) (n : Nat) : (inFlight s n).isEmpty = true ↔ ¬∃ m ∈ s.net.records, m.cmd = n := by
  simp [inFlight, List.filter_eq_nil_iff]

section
variable {x : SendCh} (hx : kget s.sends (xeChan c.img) = some x) (h1 : x.core = c.core) (h2 : x.part = c.part)
include hx h1 h2

theorem sendUop_starts (hu : c.upc = 0) (hn : nodeRefuses s c.part x.pnode false = false) : sendUop s c = goOn s c 1 := by
  rw [sendUop, ownSend_some hx h1 h2]
  dsimp only
  rw [if_pos hu, if_neg (by simp [hn])]

theorem sendUop_record (hu : 1 ≤ c.upc) (hn : c.upc ≤ xeN c.img) (hb : sendsBefore s c = false) :
    sendUop s c = sendRecord s c x := by
  rw [sendUop, ownSend_some hx h1 h2]
  dsimp only
  rw [if_neg (by omega), if_pos hn, if_neg (by simp [hb])]

theorem sendUop_ends (hn : xeN c.img < c.upc) : sendUop s c =
    if (inFlight s c.id).isEmpty = true then finish s c 0 (xeN c.img * x.rsz) else s := by
  rw [sendUop, ownSend_some hx h1 h2]
  dsimp only
  rw [if_neg (by omega), if_neg (by omega)]

theorem closeUop_waits (hd : xeDir c.img = 0) (hb : sendsBefore s c = true) : closeUop s c = s := by
  rw [closeUop, if_pos hd, ownSend_some hx h1 h2]
  dsimp only
  rw [if_pos hb]

theorem closeUop_send (hd : xeDir c.img = 0) (hb : sendsBefore s c = false) (hn : nodeRefuses s c.part x.pnode true = false) :
    closeUop s c = finish { s with
      sends := kdel s.sends (xeChan c.img), known := forgetEnd s.known (xeChan c.img) (identNo s c.part) x, nextId := s.nextId + 1
      net := { s.net with closes := s.net.closes ++ [⟨identNo s c.part, s.node, xeChan c.img, x.pnode, x.pchan, x.sof, dieOf c.core,
        s.nextId⟩] } } c 0 x.sof := by
  rw [closeUop, if_pos hd, ownSend_some hx h1 h2]
  dsimp only
  rw [if_neg (by simp [hb]), if_neg (by simp [hn])]

theorem statUop_sof (hs : xeSel c.img = 1) : statUop s c = finish s c 0 x.sof := by
  rw [statUop, hs, ownSend_some hx h1 h2]
  rfl

theorem statUop_wend (hs : xeSel c.img = 2) :
    statUop s c = finish s c 0 (((endOf s.known (xeChan c.img) (identNo s c.part) x.pnode x.pchan).map (fun k => k.wend)).getD 0) := by
  rw [statUop, hs, ownSend_some hx h1 h2, ← h2]
  rfl

end

theorem statUop_links (hs : xeSel c.img = 4) : statUop s c = finish s c 0 s.units.links.toNat := by simp only [statUop, hs]

theorem statUop_place (hs : xeSel c.img = 0) :
    statUop s c = finish s c 0 (s.node % 2 ^ 16 * 2 ^ 32 + s.rg % 2 ^ 8 * 2 ^ 24 + s.q % 2 ^ 8 * 2 ^ 16) := by simp only [statUop, hs]

/-! A record of XCH.SEND (R320). -/

section
variable {x : SendCh} (h2 : x.part = c.part)
include h2

theorem receiverClosed_iff (ch : Nat) : receiverClosed s ch x = true ↔
    ∃ k, endOf s.known ch (identNo s c.part) x.pnode x.pchan = some k ∧ k.closed = true := by
  rw [receiverClosed, h2, Option.any_eq_true]

omit h2 in
theorem sendRecord_closed (hc : receiverClosed s (xeChan c.img) x = true) : sendRecord s c x =
    if (inFlight s c.id).isEmpty = true then engineFault s c 0xC03 (BitVec.ofNat 64 x.sof) else s := by
  simp only [sendRecord]
  rw [if_pos hc]
  cases (inFlight s c.id).isEmpty <;> rfl

theorem sendRecord_waits (hc : receiverClosed s (xeChan c.img) x = false)
    (hw : ((endOf s.known (xeChan c.img) (identNo s c.part) x.pnode x.pchan).map (fun k => k.wend)).getD 0 < x.sof + x.rsz) :
    sendRecord s c x = s := by
  have hk : wendKnown s (xeChan c.img) x < x.sof + x.rsz := by rw [wendKnown, h2]; exact hw
  simp only [sendRecord]
  rw [if_neg (by simp [hc]), if_pos (by simp [hk])]

theorem sendRecord_sends (hU : Unheld s c) (hc : receiverClosed s (xeChan c.img) x = false)
    (hw : x.sof + x.rsz ≤ ((endOf s.known (xeChan c.img) (identNo s c.part) x.pnode x.pchan).map (fun k => k.wend)).getD 0)
    (hh : classHeld s c x.pnode = false) (hn : nodeRefuses s c.part x.pnode true = false) :
    sendRecord s c x = goOn { s with
      nextId := s.nextId + 1, sends := kput s.sends (xeChan c.img) { x with sof := x.sof + x.rsz }
      net := { s.net with records := s.net.records ++ [⟨identNo s c.part, s.node, xeChan c.img, x.pnode, x.pchan, x.sof, x.rsz,
        xeTag c.img, xeKind c.img, spView s c.core (xeLa c.img + (c.upc - 1) * x.rsz) x.rsz, c.id, dieOf c.core, s.nextId⟩] } }
      c (c.upc + 1) := by
  have hk : ¬wendKnown s (xeChan c.img) x < x.sof + x.rsz := by rw [wendKnown, h2]; exact Nat.not_lt.2 hw
  simp only [sendRecord]
  rw [if_neg (by simp [hc]), if_neg (by simp [hk, hh]), if_neg (by simp [hn]), hU.engGetSp_ok]

end

end

end Sys2Proof.Machine
end

section
/-! The ring (R325). -/

namespace Sys2Proof.Machine

section
variable (s : State) (c : Cmd)

/-- A chunk's first element, and its length. -/
def chunkLo (j : Nat) : Nat := min (xeN c.img) (j * ((xeN c.img + s.rg - 1) / s.rg))
def chunkLen (j : Nat) : Nat := min (xeN c.img) ((j + 1) * ((xeN c.img + s.rg - 1) / s.rg)) - chunkLo s c j

theorem chunkOf_eq (j : Nat) : chunkOf s.rg (xeN c.img) j = (chunkLo s c j, chunkLen s c j) := by
  unfold chunkOf chunkLen chunkLo
  by_cases h : s.rg = 0
  · simp [h]
  · rw [if_neg h]
    rfl

theorem patternsOf_eq (es : Nat) (b : List Byte) (n : Nat) :
    patternsOf es b n = (List.range n).map (fun i => leNat ((b.drop (es * i)).take es)) := by
  induction n generalizing b with
  | zero => rfl
  | succ n ih =>
    rw [patternsOf, ih, List.range_succ_eq_map, List.map_cons, List.map_map]
    simp only [Nat.mul_zero, List.drop_zero, List.cons.injEq, true_and]
    exact List.map_congr_left (fun i _ => by simp [List.drop_drop, Nat.mul_succ, Nat.add_comm])

/-- The state with a chunk of a command's ring operation taken. -/
def takenChunk (u : State) (j : Nat) : State := putRing u { ringOf s c with chunks := kdel (ringOf s c).chunks j }

/-- The state with a message to the next position of the ring. -/
def sentOn (u : State) (h : Option RingHeader) (j hops : Nat) (data : List (BitVec 32)) : State :=
  sendRing u ⟨identNo s c.part, (s.q + 1) % s.rg, xeGtag c.img, xeSeq c.img, h, j, hops, data⟩

variable {s c}

theorem ringRefused_none_iff : ringRefused s c = none ↔ s.rg = 1 ∨
    ((partOf s c.part).bind (fun p => p.dpart)).any (fun d => (partnerOf s (Config.ringNext s.rg s.q)).holds.contains d) = true := by
  unfold ringRefused
  dsimp only
  split <;> simp_all

theorem ringSend_acts (h : ringRefused s c = none) (act : State → State) : ringSend s c act = act s := by rw [ringSend, h]

/-! The headers. -/

theorem ringHeaders_none (h : s.rg = 0) : ringHeaders s c = engineFault s c 0xC05 (BitVec.ofNat 64 s.node) := by
  simp [ringHeaders, h, nodeFault]

variable (hr : s.rg = 1 ∨ 1 < s.rg ∧ ringRefused s c = none)
include hr

theorem ring_joined : ¬(s.rg = 0 ∨ s.rg ≠ 1 ∧ ((partOf s c.part).bind (fun p => p.dpart)).isNone = true) ∧ ringRefused s c = none := by
  rcases hr with h | ⟨h, hn⟩
  · exact ⟨by omega, ringRefused_none_iff.2 (Or.inl h)⟩
  · refine ⟨?_, hn⟩
    rintro (h0 | ⟨-, hp⟩)
    · omega
    · rcases ringRefused_none_iff.1 hn with h1 | h1
      · omega
      · rw [Option.isNone_iff_eq_none.1 hp] at h1
        simp at h1

theorem ringHeaders_joined : ringHeaders s c =
    if c.work.isEmpty = true then
      modCmd (if s.rg = 1 then putRing s { ringOf s c with headers := kput (ringOf s c).headers s.q (ringHeader s c) }
        else sentOn s c (putRing s { ringOf s c with headers := kput (ringOf s c).headers s.q (ringHeader s c) })
          (some (ringHeader s c)) 0 1 []) c.id (fun c => { c with work := [1] })
    else if (ringOf s c).headers.length < s.rg then s
    else if (ringOf s c).headers.all (fun x => x.2.scatter == (ringHeader s c).scatter && x.2.n == (ringHeader s c).n &&
      x.2.etype == (ringHeader s c).etype) = true then goOn s c 1
    else finish (putRing s { ringOf s c with headers := [], chunks := [] }) c 0xC82 0 := by
  obtain ⟨h1, h2⟩ := ring_joined hr
  simp only [ringHeaders]
  rw [if_neg (by simpa [Bool.or_eq_true] using h1), ringSend_acts h2]
  rfl

end

/-- Whether the headers of all members agree with the own one. -/
theorem headersAgree_iff (l : KMap RingHeader) (h : RingHeader) :
    l.all (fun x => x.2.scatter == h.scatter && x.2.n == h.n && x.2.etype == h.etype) = true ↔
      ∀ x ∈ l, x.2.scatter = h.scatter ∧ x.2.n = h.n ∧ x.2.etype = h.etype := by
  simp only [List.all_eq_true, Bool.and_eq_true, beq_iff_eq, and_assoc]

/-! The micro-operations of the chunks. -/

section
variable {s : State} {c : Cmd}

theorem ringUop_start (hu : c.upc = 0) : ringUop s c = ringHeaders s c := by simp [ringUop, hu]

theorem ringUop_scatter (ho : xeOp c.img = 8) (hu : 1 ≤ c.upc) (hk : c.upc ≤ s.rg) : ringUop s c = scatterUop s c c.upc := by
  simp [ringUop, ho, Nat.ne_of_gt hu, hk]

theorem ringUop_gather (ho : xeOp c.img = 9) (hu : 1 ≤ c.upc) (hk : c.upc ≤ s.rg) : ringUop s c = gatherUop s c c.upc := by
  simp [ringUop, ho, Nat.ne_of_gt hu, hk]

theorem ringUop_end (hu : 1 ≤ c.upc) (hk : s.rg < c.upc) :
    ringUop s c = endRing s c (if xeOp c.img = 8 then chunkLen s c s.q * ringEs c.img else xeN c.img * ringEs c.img) := by
  simp only [ringUop, chunkOf_eq]
  rw [if_neg (by omega)]
  split
  · rw [if_neg (by omega)]
  · rw [if_neg (by omega)]

/-- Rows written where there is something to write. -/
theorem Unheld.someRow_eq {s : State} {c : Cmd} (h : Unheld s c) (off : Nat) (d : List Byte) (done : State → State) :
    ∃ u, Stores s u c .eng [(off, d)] ∧ (if d.isEmpty = true then done s else writeRows s c [(off, d)] done) = done u := by
  cases d with
  | nil => exact ⟨s, (Stores.refl s c .eng).recut (by simp [placed]), rfl⟩
  | cons b d => exact h.writeRows_eq [(off, b :: d)] done

/-- The own elements of a chunk. -/
def ownVals (s : State) (c : Cmd) (off n : Nat) : List Nat :=
  (List.range n).map (fun i => leNat (((spView s c.core off (n * ringEs c.img)).drop (ringEs c.img * i)).take (ringEs c.img)))

/-- The sum that a member makes of a chunk: its own elements, and what has come (R325). -/
def ringSum (c : Cmd) (own : List Nat) : Option (List (BitVec 32)) → List Num
  | none => own.map (fun v => rne32 (decNum (xeEtype c.img) v))
  | some l => List.zipWith (fun v h => rne32 ((decFloat fp32 (BitVec.toNat h)).add (decNum (xeEtype c.img) v))) own l

/-- The chunk of a micro-operation of XRING.RS. -/
def scatterChunk (s : State) (k : Nat) : Nat := (s.q + 2 * s.rg - k) % s.rg

/-- What a member adds to a chunk: nothing for its first, else what has come. -/
def scatterHeld (s : State) (c : Cmd) (k : Nat) : Option (Option (List (BitVec 32))) :=
  if k = 1 then some none else (kget (ringOf s c).chunks (scatterChunk s k)).map some

theorem scatterUop_waits {k : Nat} (hk : 1 < k) (h : kget (ringOf s c).chunks (scatterChunk s k) = none) : scatterUop s c k = s := by
  simp only [scatterUop]
  rw [if_neg (by omega)]
  simp only [scatterChunk] at h
  rw [h]

/-- The sum of a micro-operation of XRING.RS. -/
def scatterSum (s : State) (c : Cmd) (k : Nat) (held : Option (List (BitVec 32))) : List Num :=
  ringSum c (ownVals s c (xeLa c.img + chunkLo s c (scatterChunk s k) * ringEs c.img) (chunkLen s c (scatterChunk s k))) held

theorem scatterUop_eq {k : Nat} {held : Option (List (BitVec 32))} (hU : Unheld s c) (h : scatterHeld s c k = some held) :
    scatterUop s c k = if k = s.rg then
        (let out := (scatterSum s c k held).flatMap (fun x => natBytes (rnd x (xeEtype c.img) 0 false Rand.zero) (ringEs c.img))
        let done (u : State) : State := goOn (takenChunk s c u (scatterChunk s k)) c (k + 1)
        if out.isEmpty = true then done s else writeRows s c [(xeLb c.img, out)] done)
      else ringSend s c (fun u => goOn (sendRing (takenChunk s c u (scatterChunk s k)) (chunkMsg u c (scatterChunk s k) k
        ((scatterSum s c k held).map (fun x => BitVec.ofNat 32 (rndFloat x fp32 0 false Rand.zero))))) c (k + 1)) := by
  unfold scatterHeld at h
  simp only [scatterUop, withBytes, hU.engGetSp_ok, chunkOf_eq, patternsOf_eq]
  split at h
  · rename_i h1
    obtain rfl : none = held := Option.some.inj h
    rw [if_pos h1]
    rfl
  · rename_i h1
    obtain ⟨l, hl, rfl⟩ := Option.map_eq_some_iff.1 h
    unfold scatterChunk at hl
    rw [if_neg h1, hl]
    simp only [List.map_zip_eq_zipWith]
    rfl

/-- What a member does with its sum: it goes on to the next member. -/
theorem scatterUop_passes {k : Nat} {held : Option (List (BitVec 32))} (hU : Unheld s c) (h : scatterHeld s c k = some held)
    (hk : k < s.rg) (hr : ringRefused s c = none) :
    scatterUop s c k = goOn (sentOn s c (takenChunk s c s (scatterChunk s k)) none (scatterChunk s k) k
      ((scatterSum s c k held).map (fun x => BitVec.ofNat 32 (rndFloat x fp32 0 false Rand.zero)))) c (k + 1) := by
  rw [scatterUop_eq hU h, if_neg (Nat.ne_of_lt hk), ringSend_acts hr]
  rfl

/-- The last sum is the member's own chunk, written. -/
theorem scatterUop_writes {k : Nat} {held : Option (List (BitVec 32))} (hU : Unheld s c) (h : scatterHeld s c k = some held)
    (hk : k = s.rg) :
    ∃ u, Stores s u c .eng [(xeLb c.img, (scatterSum s c k held).flatMap (fun x =>
        natBytes (rnd x (xeEtype c.img) 0 false Rand.zero) (ringEs c.img)))] ∧
      scatterUop s c k = goOn (takenChunk s c u (scatterChunk s k)) c (k + 1) := by
  rw [scatterUop_eq hU h, if_pos hk]
  exact hU.someRow_eq _ _ (fun u => goOn (takenChunk s c u (scatterChunk s k)) c (k + 1))

/-- The chunk of a micro-operation of XRING.AG. -/
def gatherChunk (s : State) (k : Nat) : Nat := (s.q + 2 * s.rg + 1 - k) % s.rg

theorem gatherUop_waits {k : Nat} (hk : 1 < k) (h : kget (ringOf s c).chunks (gatherChunk s k) = none) : gatherUop s c k = s := by
  simp only [gatherUop]
  rw [if_neg (by omega)]
  simp only [gatherChunk] at h
  rw [h]

/-- The chunk that a member has: its own for the first, else what has come. -/
def gatherData (s : State) (c : Cmd) (k : Nat) : Option (List (BitVec 32)) :=
  if k = 1 then some ((ownVals s c (xeLa c.img) (chunkLen s c (gatherChunk s k))).map (BitVec.ofNat 32))
  else kget (ringOf s c).chunks (gatherChunk s k)

/-- What XRING.AG leaves of a state once a chunk is written. -/
def gathered (s : State) (c : Cmd) (k : Nat) (l : List (BitVec 32)) (u : State) : State :=
  goOn (if k < u.rg then sendRing (takenChunk s c u (gatherChunk s k)) (chunkMsg (takenChunk s c u (gatherChunk s k)) c
    (gatherChunk s k) k l) else takenChunk s c u (gatherChunk s k)) c (k + 1)

theorem gatherUop_eq {k : Nat} {l : List (BitVec 32)} (hU : Unheld s c) (h : gatherData s c k = some l) :
    gatherUop s c k = (
      let write (u : State) : State := if l.isEmpty = true then gathered s c k l u
        else writeRows u c [(xeLb c.img + chunkLo s c (gatherChunk s k) * ringEs c.img,
          l.flatMap (fun x => natBytes (BitVec.toNat x) (ringEs c.img)))] (gathered s c k l)
      if k < s.rg then ringSend s c write else write s) := by
  unfold gatherData at h
  simp only [gatherUop, withBytes, hU.engGetSp_ok, chunkOf_eq, patternsOf_eq]
  split at h
  · rename_i h1
    rw [if_pos h1, ← Option.some.inj h]
    rfl
  · rename_i h1
    unfold gatherChunk at h
    rw [if_neg h1, h]
    rfl

theorem Stores.ring {u : State} {k : AccKind} {r : List (Nat × List Byte)} (h : Stores s u c k r) :
    u.rg = s.rg ∧ u.q = s.q ∧ identNo u c.part = identNo s c.part := by
  have hp := h.parts
  obtain ⟨-, l, -, -, h, -⟩ := h
  refine ⟨?_, ?_, by rw [identNo, partOf, hp]; rfl⟩
  · have e := congrArg State.rg h
    exact e
  · have e := congrArg State.q h
    exact e

/-- A chunk is written and goes on to the next member. -/
theorem gatherUop_spec {k : Nat} {l : List (BitVec 32)} (hU : Unheld s c) (h : gatherData s c k = some l)
    (hr : k < s.rg → ringRefused s c = none) :
    ∃ u, Stores s u c .eng [(xeLb c.img + chunkLo s c (gatherChunk s k) * ringEs c.img,
        l.flatMap (fun x => natBytes (BitVec.toNat x) (ringEs c.img)))] ∧
      gatherUop s c k = goOn (if k < s.rg then sentOn s c (takenChunk s c u (gatherChunk s k)) none (gatherChunk s k) k l
        else takenChunk s c u (gatherChunk s k)) c (k + 1) := by
  have hw : ∃ u, Stores s u c .eng [(xeLb c.img + chunkLo s c (gatherChunk s k) * ringEs c.img,
        l.flatMap (fun x => natBytes (BitVec.toNat x) (ringEs c.img)))] ∧ gatherUop s c k = gathered s c k l u := by
    have hact : ∀ act : State → State, (if k < s.rg then ringSend s c act else act s) = act s := by
      intro act
      split
      · exact ringSend_acts (hr ‹_›) act
      · rfl
    rw [gatherUop_eq hU h]
    dsimp only
    rw [hact]
    cases l with
    | nil => exact ⟨s, (Stores.refl s c .eng).recut (by simp [placed]), rfl⟩
    | cons x l => exact hU.writeRows_eq _ _
  obtain ⟨u, hu, e⟩ := hw
  refine ⟨u, hu, e.trans ?_⟩
  obtain ⟨h1, h2, h3⟩ := hu.ring
  have hm : chunkMsg (takenChunk s c u (gatherChunk s k)) c (gatherChunk s k) k l = chunkMsg s c (gatherChunk s k) k l := by
    have hi : identNo (takenChunk s c u (gatherChunk s k)) c.part = identNo s c.part := h3
    simp only [chunkMsg, hi]
    rw [show (takenChunk s c u (gatherChunk s k)).q = s.q from h2, show (takenChunk s c u (gatherChunk s k)).rg = s.rg from h1]
  rw [gathered, h1, hm]
  rfl

end

end Sys2Proof.Machine
end

section
/-! Stored forms (R340). -/

namespace Sys2Proof.Machine

/-! Numbers as bytes. -/

theorem leNat_natBytes (v n : Nat) : leNat (natBytes v n) = v % 256 ^ n := by
  induction n generalizing v with
  | zero => rw [Nat.pow_zero, Nat.mod_one]; rfl
  | succ n ih =>
    rw [natBytes, leNat, ih, BitVec.toNat_ofNat, Nat.pow_succ' (n := n), Nat.mod_mul (a := 256)]

/-! The elements of a block. -/

theorem elemsOf_length (es n : Nat) (b : List Byte) : (elemsOf es n b).length = n := by
  induction n generalizing b with
  | zero => rfl
  | succ n ih => rw [elemsOf, List.length_cons, ih]

theorem elemsOf_flatten (es n : Nat) (b : List Byte) (h : b.length = n * es) :
    (elemsOf es n b).flatten = b ∧ ∀ x ∈ elemsOf es n b, x.length = es := by
  induction n generalizing b with
  | zero =>
    obtain rfl : b = [] := List.eq_nil_of_length_eq_zero (by omega)
    exact ⟨rfl, by simp [elemsOf]⟩
  | succ n ih =>
    have hl : b.length = n * es + es := by rw [h, Nat.succ_mul]
    obtain ⟨h1, h2⟩ := ih (b.drop es) (by rw [List.length_drop]; omega)
    refine ⟨by rw [elemsOf, List.flatten_cons, h1, List.take_append_drop], fun x hx => ?_⟩
    rcases List.mem_cons.1 hx with rfl | hx
    · rw [List.length_take]
      omega
    · exact h2 x hx

theorem eq_zeros_of_not_live {x : List Byte} (h : liveElem x = false) : x = List.replicate x.length 0#8 := by
  refine List.eq_replicate_iff.2 ⟨rfl, fun b hb => ?_⟩
  simpa using List.any_eq_false.1 h b hb

theorem flatten_zeros (l : List (List Byte)) (h : l.any liveElem = false) : l.flatten = List.replicate l.flatten.length 0#8 := by
  refine List.eq_replicate_iff.2 ⟨rfl, fun b hb => ?_⟩
  obtain ⟨x, hx, hb⟩ := List.mem_flatten.1 hb
  have hn : liveElem x = false := by simpa using List.any_eq_false.1 h x hx
  simpa using List.any_eq_false.1 hn b hb

/-! The bitmap. -/

/-- The bits of a bitmap, from bit k on. -/
def mapBits (k a : Nat) (l : List (List Byte)) : Nat :=
  ((upFrom k l.length).zip l).foldl (fun n p => if liveElem p.2 then n + 2 ^ p.1 else n) a

theorem mapBits_cons (k a : Nat) (x : List Byte) (l : List (List Byte)) :
    mapBits k a (x :: l) = mapBits (k + 1) (if liveElem x = true then a + 2 ^ k else a) l := rfl

theorem mapBits_spec (l : List (List Byte)) (k a : Nat) (ha : a < 2 ^ k) :
    mapBits k a l < 2 ^ (k + l.length) ∧ (∀ i, i < k → (mapBits k a l).testBit i = a.testBit i) ∧
    ∀ i x, l[i]? = some x → (mapBits k a l).testBit (k + i) = liveElem x := by
  induction l generalizing k a with
  | nil => exact ⟨by simpa [mapBits, upFrom] using ha, fun i _ => rfl, by simp⟩
  | cons x l ih =>
    have hb : (if liveElem x = true then a + 2 ^ k else a) < 2 ^ (k + 1) := by
      rw [Nat.pow_succ]
      split <;> omega
    obtain ⟨h1, h2, h3⟩ := ih (k + 1) _ hb
    rw [mapBits_cons]
    refine ⟨by rw [List.length_cons, show k + (l.length + 1) = k + 1 + l.length by omega]; exact h1, fun i hi => ?_, fun i y hy => ?_⟩
    · rw [h2 i (by omega)]
      split
      · rw [Nat.add_comm, Nat.testBit_two_pow_add_gt hi]
      · rfl
    · cases i with
      | zero =>
        obtain rfl : x = y := by simpa using hy
        rw [show k + 0 = k from rfl]
        rw [h2 k (by omega)]
        split
        · rename_i hx
          rw [Nat.add_comm, Nat.testBit_two_pow_add_eq, Nat.testBit_lt_two_pow ha, hx]
          rfl
        · rename_i hx
          rw [Nat.testBit_lt_two_pow ha]
          exact (Bool.eq_false_iff.2 hx).symm
      | succ i => rw [show k + (i + 1) = k + 1 + i by omega, h3 i y (by simpa using hy)]

theorem elemMap_length (l : List (List Byte)) : (elemMap l).length = 32 * cdiv l.length 256 := natBytes_length ..

theorem leNat_elemMap (l : List (List Byte)) : leNat (elemMap l) = mapBits 0 0 l := by
  have h := (mapBits_spec l 0 0 (by decide)).1
  rw [Nat.zero_add] at h
  rw [elemMap, leNat_natBytes]
  rw [show 256 = 2 ^ 8 from rfl, ← Nat.pow_mul]
  refine Nat.mod_eq_of_lt (Nat.lt_of_lt_of_le h (Nat.pow_le_pow_right (by decide) ?_))
  unfold cdiv
  omega

/-! Back from a sparse form. -/

theorem spreadElems_eq (m es : Nat) (l : List (List Byte)) (k : Nat) (hl : ∀ x ∈ l, x.length = es)
    (hm : ∀ i x, l[i]? = some x → m.testBit (k + i) = liveElem x) :
    spreadElems m es k l.length (l.filter liveElem).flatten = l.flatten := by
  induction l generalizing k with
  | nil => rfl
  | cons x l ih =>
    have hx : x.length = es := hl x (by simp)
    have hr := ih (k + 1) (fun y hy => hl y (by simp [hy])) (fun i y hy => by
      rw [show k + 1 + i = k + (i + 1) by omega]
      exact hm (i + 1) y (by simpa using hy))
    have hb : m.testBit k = liveElem x := hm 0 x rfl
    rw [List.length_cons, spreadElems, hb]
    split
    · rename_i hv
      rw [List.filter_cons_of_pos hv, List.flatten_cons, List.flatten_cons, List.take_append_of_le_length (by omega),
        List.drop_append_of_le_length (by omega), ← hx, List.take_length, List.drop_length, List.nil_append, hx, hr]
    · rename_i hv
      rw [List.filter_cons_of_neg hv, List.flatten_cons, hr, eq_zeros_of_not_live (x := x) (by simpa using hv), hx]

section
variable {es : Nat} {b : List Byte}

theorem sparseForm_empty (h : (elemsOf es (b.length / es) b).any liveElem = false) : sparseForm es b = [] := by
  simp only [sparseForm]
  rw [if_neg (by rw [h]; decide)]

theorem sparseForm_live (h : (elemsOf es (b.length / es) b).any liveElem = true) : sparseForm es b =
    elemMap (elemsOf es (b.length / es) b) ++ ((elemsOf es (b.length / es) b).filter liveElem).flatten := by
  simp only [sparseForm]
  rw [if_pos h]

/-- A block is had back from its sparse form. -/
theorem expandForm_sparse (line fmt etype : Nat) (h0 : fmt ≠ 0) (h2 : fmt ≠ 2) (hb : b.length % es = 0) :
    expandForm (blockAt line fmt (sparseForm es b)) b.length es etype = b := by
  have hl : b.length = b.length / es * es := (Nat.div_mul_cancel (Nat.dvd_of_mod_eq_zero hb)).symm
  obtain ⟨h3, h4⟩ := elemsOf_flatten es (b.length / es) b hl
  have hx : expandForm (blockAt line fmt (sparseForm es b)) b.length es etype =
      if (sparseForm es b).isEmpty = true then List.replicate b.length 0#8
      else spreadElems (leNat ((sparseForm es b).take (32 * cdiv (b.length / es) 256))) es 0 (b.length / es)
        ((sparseForm es b).drop (32 * cdiv (b.length / es) 256)) := by
    unfold expandForm
    split
    · exact absurd ‹_› h0
    · exact absurd ‹_› h2
    · rfl
  have hn := elemsOf_length es (b.length / es) b
  rw [hx]
  cases hv : (elemsOf es (b.length / es) b).any liveElem with
  | false =>
    rw [sparseForm_empty hv, if_pos List.isEmpty_nil]
    have hz := flatten_zeros _ hv
    rw [h3] at hz
    exact hz.symm
  | true =>
    have hw := elemMap_length (elemsOf es (b.length / es) b)
    rw [hn] at hw
    have hne : elemsOf es (b.length / es) b ≠ [] := by
      intro h
      rw [h] at hv
      cases hv
    have hpos : 0 < b.length / es := by
      rw [← hn]
      exact List.length_pos_iff.2 hne
    have hnil : ¬(sparseForm es b).isEmpty = true := by
      rw [List.isEmpty_iff, sparseForm_live hv]
      intro h
      have h := congrArg List.length h
      rw [List.length_append, hw, List.length_nil, cdiv] at h
      omega
    rw [if_neg hnil, sparseForm_live hv, List.take_append_of_le_length (by omega), List.drop_append_of_le_length (by omega), ← hw,
      List.take_length, List.drop_length, List.nil_append]
    have hs := spreadElems_eq (leNat (elemMap (elemsOf es (b.length / es) b))) es _ 0 h4 (fun i x hi => by
      rw [leNat_elemMap]
      exact (mapBits_spec _ 0 0 (by decide)).2.2 i x hi)
    rw [hn, h3] at hs
    exact hs

/-- The lossless forms expand to what was stored. -/
theorem expandForm_storeForm (line fmt etype : Nat) (h2 : fmt ≠ 2) (hb : b.length % es = 0) :
    expandForm (storeForm line fmt es etype b) b.length es etype = b := by
  unfold storeForm
  split
  · rfl
  · exact absurd rfl h2
  · rename_i h0 _
    dsimp only
    split
    · rfl
    · exact expandForm_sparse line fmt etype (fun h => h0 h) h2 hb

end

end Sys2Proof.Machine
end

section
/-! The arrival of a stash command at its home, and the directory words (R335, R338, R339, R343). -/

namespace Sys2Proof.Machine

/-! Arrival. -/

/-- A stash command once it has reached its home. -/
def stashHere (s : State) (c : Cmd) : Cmd := if c.work = [] then { c with work := [s.nextId] } else c

/-- The state at a stash command's home, but for the command. -/
def stashAt (s : State) (c : Cmd) : State := if c.work = [] then { s with nextId := s.nextId + 1 } else s

/-- The state at a stash command's home. -/
def stashState (s : State) (c : Cmd) : State :=
  if c.work = [] then { modCmd s c.id (fun c => { c with work := [s.nextId] }) with nextId := s.nextId + 1 } else s

/-- An unfinished command on the same key that reached the home before this one (R343). -/
def StashAhead (s : State) (c o : Cmd) : Prop :=
  o ∈ s.cmds ∧ o.part = c.part ∧ o.cls = .stash ∧ o.key = c.key ∧ o.phase ≠ .finished ∧ o.work ≠ [] ∧
  (o.id ≠ c.id ∨ c.work ≠ []) ∧ o.arrival < (stashHere s c).arrival

section
variable (s : State) (c : Cmd)

theorem stashHere_work : (stashHere s c).work = if c.work = [] then [s.nextId] else c.work := by
  unfold stashHere
  split <;> rfl

/-- Arrival changes the work of the command alone. -/
theorem stashHere_eq : stashHere s c = { c with work := (stashHere s c).work } := by
  unfold stashHere
  split <;> rfl

theorem stashAt_cmds : (stashAt s c).cmds = s.cmds := by
  unfold stashAt
  split <;> rfl

/-- But for the commands and the next number the state is what it was. -/
theorem stashState_eq : ∃ l n, stashState s c = { s with cmds := l, nextId := n } ∧ stashAt s c = { s with nextId := n } := by
  unfold stashState stashAt
  split
  · exact ⟨_, _, rfl, rfl⟩
  · exact ⟨_, _, rfl, rfl⟩

theorem stashState_rest : { stashState s c with cmds := s.cmds } = stashAt s c := by
  obtain ⟨l, n, h1, h2⟩ := stashState_eq s c
  rw [h1, h2]

theorem partOf_stashState (n : Nat) : partOf (stashState s c) n = partOf s n := by
  obtain ⟨l, n, h, -⟩ := stashState_eq s c
  rw [h]
  rfl

theorem coreOf_stashState (n : Nat) : coreOf (stashState s c) n = coreOf s n := by
  obtain ⟨l, n, h, -⟩ := stashState_eq s c
  rw [h]
  rfl

theorem viewBytes_rest (l : List Cmd) (n core part : Nat) (d : Dest) (b : List Byte) :
    viewBytes { s with cmds := l, nextId := n } core part d b = viewBytes s core part d b := by
  induction b generalizing d with
  | nil => rfl
  | cons x b ih => rw [viewBytes, viewBytes, ih]; rfl

theorem spView_stashState (core off n : Nat) : spView (stashState s c) core off n = spView s core off n := by
  obtain ⟨l, m, h, -⟩ := stashState_eq s c
  rw [h]
  unfold spView
  rw [viewBytes_rest]
  rfl

variable {s c}

theorem cmdOf_stashState_ne {m : Nat} (h : m ≠ c.id) : cmdOf (stashState s c) m = cmdOf s m := by
  unfold stashState
  split
  · exact cmdOf_modCmd_ne s c.id m (fun c => { c with work := [s.nextId] }) (fun _ => rfl) h
  · rfl

theorem cmdOf_stashState_same (h : cmdOf s c.id = some c) : cmdOf (stashState s c) c.id = some (stashHere s c) := by
  unfold stashState stashHere
  split
  · exact cmdOf_modCmd_same s c.id (fun c => { c with work := [s.nextId] }) (fun _ => rfl) c h
  · exact h

/-- What is ahead of a command at its home. -/
theorem mem_keyAhead (o : Cmd) : o ∈ keyAhead (stashState s c) (stashHere s c) ↔ StashAhead s c o := by
  have hk : ∀ l : List Cmd, o ∈ l.filter (fun o => o.part == (stashHere s c).part && o.cls == .stash && o.key == (stashHere s c).key &&
      o.phase != .finished && o.reached && decide (o.arrival < (stashHere s c).arrival)) ↔
      o ∈ l ∧ o.part = c.part ∧ o.cls = .stash ∧ o.key = c.key ∧ o.phase ≠ .finished ∧ o.work ≠ [] ∧
        o.arrival < (stashHere s c).arrival := by
    intro l
    have h1 : (stashHere s c).part = c.part := by rw [stashHere_eq]
    have h2 : (stashHere s c).key = c.key := by rw [stashHere_eq]; rfl
    rw [h1, h2]
    simp [Cmd.reached, and_assoc]
  unfold keyAhead
  rw [hk, StashAhead]
  unfold stashState
  split
  · rename_i hw
    have ha : (stashHere s c).arrival = s.nextId := by rw [Cmd.arrival, stashHere_work, if_pos hw]; rfl
    rw [ha]
    simp only [modCmd, List.mem_map]
    constructor
    · rintro ⟨⟨x, hx, rfl⟩, h1, h2, h3, h4, h5, h6⟩
      by_cases hi : x.id = c.id
      · rw [if_pos hi] at h6
        exact absurd h6 (Nat.lt_irrefl _)
      · rw [if_neg hi] at h1 h2 h3 h4 h5 h6 ⊢
        exact ⟨hx, h1, h2, h3, h4, h5, Or.inl hi, h6⟩
    · rintro ⟨h0, h1, h2, h3, h4, h5, h7, h6⟩
      have hi : o.id ≠ c.id := h7.resolve_right (fun hn => hn hw)
      exact ⟨⟨o, h0, if_neg hi⟩, h1, h2, h3, h4, h5, h6⟩
  · rename_i hw
    constructor
    · rintro ⟨h0, h1, h2, h3, h4, h5, h6⟩
      exact ⟨h0, h1, h2, h3, h4, h5, Or.inr hw, h6⟩
    · rintro ⟨h0, h1, h2, h3, h4, h5, -, h6⟩
      exact ⟨h0, h1, h2, h3, h4, h5, h6⟩

theorem turnWaits_false (h : c.upc = 0 → ∀ o, StashAhead s c o → o.upc ≠ 0) : turnWaits (stashState s c) (stashHere s c) = false := by
  have hu : (stashHere s c).upc = c.upc := by rw [stashHere_eq]
  rw [turnWaits, hu, Bool.and_eq_false_iff]
  by_cases h0 : c.upc = 0
  · refine Or.inr (List.any_eq_false.2 fun o ho => ?_)
    simpa using h h0 o ((mem_keyAhead o).1 ho)
  · exact Or.inl (by simpa using h0)

theorem entryBusy_iff (e : StashEntry) : entryBusy (stashState s c) (stashHere s c) e = true ↔
    e.owner ≠ 0 ∨ ∃ o, StashAhead s c o ∧ o.prefetching = true := by
  simp only [entryBusy, Bool.or_eq_true, bne_iff_ne, List.any_eq_true, mem_keyAhead]

/-- A stash command that has arrived and is changed. -/
theorem AtWork.arrived {e : Cls} (h : AtWork s c e) {u v : State} (f : Cmd → Cmd) (hf : ∀ x, (f x).id = x.id)
    (hc : u.cmds = (stashState s c).cmds) (hu : { u with cmds := s.cmds } = v) (hm : microOp s c = modCmd u (stashHere s c).id f) :
    Works s c v (f (stashHere s c)) := by
  subst hu
  rw [show (stashHere s c).id = c.id by rw [stashHere_eq]] at hm
  refine ⟨_, h.next hm, rfl, fun m hn => ?_, ?_⟩
  · rw [cmdOf_modCmd_ne u c.id m f hf hn, cmdOf_congr hc, cmdOf_stashState_ne hn]
    rfl
  · exact cmdOf_modCmd_same u c.id f hf _ ((cmdOf_congr hc _).trans (cmdOf_stashState_same h.1))

/-- A stash command that has arrived and waits. -/
theorem AtWork.arrives {e : Cls} (h : AtWork s c e) (hm : microOp s c = stashState s c) : Works s c (stashAt s c) (stashHere s c) :=
  ⟨_, h.next hm, by rw [stashAt_cmds, stashState_rest], fun m hn => (cmdOf_stashState_ne hn).trans (cmdOf_congr (stashAt_cmds s c) m).symm,
    cmdOf_stashState_same h.1⟩

/-! Which word a stash command is. -/

theorem arrive_eq : (if c.reached = true then (c, s) else arrive s c) = (stashHere s c, stashState s c) := by
  cases hw : c.work with
  | nil => simp [Cmd.reached, hw, arrive, stashHere, stashState]
  | cons => simp [Cmd.reached, hw, stashHere, stashState]

theorem stashBefore_passes (hb : c.work = [] → stashBefore s c = false) : ¬(!c.reached && stashBefore s c) = true := by
  cases hw : c.work with
  | nil => simp [hb hw]
  | cons => simp [Cmd.reached, hw]

variable {p : Partition} (h : AtWork s c .stash) (hp : partOf s c.part = some p) (hb : c.work = [] → stashBefore s c = false)
include h hp hb

theorem AtWork.sqry {o sc xd xa} (hi : c.instr = .sqry o sc xd xa) :
    microOp s c = finish (stashState s c) (stashHere s c) 0 (queryValue (kget p.stash c.key)) := by
  simp only [h.stash, stashUop, hp, stashBefore_passes hb, arrive_eq, hi]
  rfl

variable (ht : c.upc = 0 → ∀ o, StashAhead s c o → o.upc ≠ 0)
include ht

theorem AtWork.sst {tr : Bool} {o sc xd xa xb} (hi : c.instr = if tr = true then .sstT o sc xd xa xb else .sst o sc xd xa xb) :
    microOp s c = sstUop (stashState s c) (stashHere s c) p tr := by
  simp only [h.stash, stashUop, hp, stashBefore_passes hb, arrive_eq, hi, turnWaits_false ht]
  cases tr <;> rfl

theorem AtWork.spf {o sc xd xa xb} (hi : c.instr = .spf o sc xd xa xb) :
    microOp s c = spfUop (stashState s c) (stashHere s c) p := by
  simp only [h.stash, stashUop, hp, stashBefore_passes hb, arrive_eq, hi, turnWaits_false ht]
  rfl

theorem AtWork.srel {o sc xd xa} (hi : c.instr = .srel o sc xd xa) :
    microOp s c = srelUop (stashState s c) (stashHere s c) p := by
  simp only [h.stash, stashUop, hp, stashBefore_passes hb, arrive_eq, hi, turnWaits_false ht]
  rfl

theorem AtWork.spol {o sc xd xa xb} (hi : c.instr = .spol o sc xd xa xb) :
    microOp s c = spolUop (stashState s c) (stashHere s c) p := by
  simp only [h.stash, stashUop, hp, stashBefore_passes hb, arrive_eq, hi, turnWaits_false ht]
  rfl

end

end Sys2Proof.Machine
end

section
/-! What the stash words do at the directory, and their blocks (R335 to R341). -/

namespace Sys2Proof.Machine

/-! A pool's room (R335). -/

/-- What an entry needs of a pool in the worst case, and whether it fits. -/
def StashEntry.need (e : StashEntry) (pol : Nat) : Nat := (e.sizes.map (fun b => 256 * worstLines (formOf pol e.q e.pk) b e.es)).sum
def RoomFor (p : Partition) (e : StashEntry) (pol : Nat) : Prop :=
  poolUsed p e.die (poolOf pol) + e.need pol ≤ poolSize p e.die (poolOf pol)

theorem takeRoom_succ {pol : Nat} (h : pol < 4) (p : Partition) (e : StashEntry) (fuel : Nat) :
    takeRoom p e pol (fuel + 1) = if poolUsed p e.die (poolOf pol) + e.need pol ≤ poolSize p e.die (poolOf pol) then (pol, e.need pol)
      else takeRoom p e (pol + 1) fuel := by
  rw [takeRoom, if_neg (by omega)]
  rfl

/-- The first policy whose pool has room is taken. -/
theorem takeRoom_takes {p : Partition} {e : StashEntry} {pol : Nat} (h4 : pol < 4) (hp : RoomFor p e pol) (fuel least : Nat)
    (hl : least ≤ pol) (hf : pol < least + fuel) (hn : ∀ q, least ≤ q → q < pol → ¬RoomFor p e q) :
    takeRoom p e least fuel = (pol, e.need pol) := by
  induction fuel generalizing least with
  | zero => omega
  | succ fuel ih =>
    rw [takeRoom_succ (by omega)]
    by_cases hq : least = pol
    · subst hq
      exact if_pos hp
    · rw [if_neg (show ¬poolUsed p e.die (poolOf least) + e.need least ≤ poolSize p e.die (poolOf least) from 
        hn least (Nat.le_refl _) (by omega))]
      exact ih (least + 1) (by omega) (by omega) (fun q h1 h2 => hn q (by omega) h2)

/-- With no room in any pool the entry is dropped. -/
theorem takeRoom_none {p : Partition} {e : StashEntry} (fuel least : Nat) (hn : ∀ q, least ≤ q → q < 4 → ¬RoomFor p e q) :
    takeRoom p e least fuel = (4, 0) := by
  induction fuel generalizing least with
  | zero => rfl
  | succ fuel ih =>
    by_cases h4 : least < 4
    · rw [takeRoom_succ h4, if_neg (show ¬poolUsed p e.die (poolOf least) + e.need least ≤ poolSize p e.die (poolOf least) from 
        hn least (Nat.le_refl _) h4)]
      exact ih (least + 1) (fun q h1 h2 => hn q (by omega) h2)
    · rw [takeRoom, if_pos (by omega)]

/-! A command whose key's entry is known. -/

theorem modPart_congr {s : State} {part : Nat} {p : Partition} (hp : partOf s part = some p) {f g : Partition → Partition}
    (h : f p = g p) : modPart s part f = modPart s part g := by
  simp only [partOf] at hp
  simp only [modPart, kmod, hp, h]

section
variable {s : State} {c : Cmd} {p : Partition} {e : StashEntry}

theorem modEntry_eq (hp : partOf s c.part = some p) (he : kget p.stash c.key = some e) (g : StashEntry → StashEntry) :
    modEntry s c g = putEntry s c (g e) :=
  modPart_congr hp (by simp only [kmod, he])

theorem partOf_putEntry (hp : partOf s c.part = some p) (e : StashEntry) :
    partOf (putEntry s c e) c.part = some { p with stash := kput p.stash c.key e } := by
  rw [putEntry, partOf_modPart_same, hp, Option.map_some]

/-! SST (R335). -/

/-- The entry that SST makes. -/
def sstEntry (c : Cmd) (tr : Bool) : StashEntry :=
  ⟨1, 4, dieOf c.core, sdEtype (c.val 1), sdPk (c.val 1), sdQ (c.val 1), sdRows (c.val 1), sdCols (c.val 1), tr, 0, 0, [], 0, 0, [], c.id⟩

theorem sstUop_start (hu : c.upc = 0) (tr : Bool) : sstUop s c p tr = sstStart s c p tr := by rw [sstUop, if_pos hu]

theorem sstStart_known (he : kget p.stash c.key = some e) (tr : Bool) : sstStart s c p tr = finish s c 0xD84 0 := by
  rw [sstStart, entryOf, he]

section
variable (he : kget p.stash c.key = none) {tr : Bool}
include he

theorem sstStart_full (h : nth p.stashCap (keyHome c.key) ≤ (p.stash.filter (fun e => keyHome e.1 == keyHome c.key)).length) :
    sstStart s c p tr = finish s c 0 (placedValue 4 0) := by
  rw [sstStart, entryOf, he]
  dsimp only
  rw [if_pos h]

variable (h : (p.stash.filter (fun e => keyHome e.1 == keyHome c.key)).length < nth p.stashCap (keyHome c.key))
include h

theorem sstStart_takes {pol : Nat} (h1 : sdPol (c.val 1) ≤ pol) (h4 : pol < 4) (hr : RoomFor p (sstEntry c tr) pol)
    (hn : ∀ q, sdPol (c.val 1) ≤ q → q < pol → ¬RoomFor p (sstEntry c tr) q) :
    sstStart s c p tr = goOn (putEntry s c { sstEntry c tr with pol := pol, room := (sstEntry c tr).need pol }) c 1 := by
  have ht := takeRoom_takes h4 hr 5 _ h1 (by omega) hn
  unfold sstEntry at ht ⊢
  rw [sstStart, entryOf, he]
  dsimp only
  rw [if_neg (Nat.not_le.2 h), ht, if_neg (by simpa using Nat.ne_of_lt h4)]

theorem sstStart_drops (hn : ∀ q, sdPol (c.val 1) ≤ q → q < 4 → ¬RoomFor p (sstEntry c tr) q) :
    sstStart s c p tr = finish (putEntry s c (dropEntry (sstEntry c tr))) c 0 (placedValue 4 0) := by
  have ht := takeRoom_none 5 _ hn
  unfold sstEntry at ht ⊢
  rw [sstStart, entryOf, he]
  dsimp only
  rw [if_neg (Nat.not_le.2 h), ht, if_pos rfl]

end

section
variable (he : kget p.stash c.key = some e) (hu : 1 ≤ c.upc) {tr : Bool}
include he hu

theorem sstUop_block (hn : c.upc - 1 < e.sizes.length) : sstUop s c p tr = sstBlock s c e (c.upc - 1) := by
  rw [sstUop, if_neg (by omega), entryOf, he]
  dsimp only
  rw [if_pos (by omega)]

theorem sstUop_end (hn : e.sizes.length ≤ c.upc - 1) : sstUop s c p tr =
    finish (putEntry s c { e with state := 2, bytes := blockBytes e.blocks, room := blockBytes e.blocks, owner := 0 }) c 0
      (placedValue e.pol (blockBytes e.blocks)) := by
  rw [sstUop, if_neg (by omega), entryOf, he]
  dsimp only
  rw [if_neg (by omega)]

end

/-! SREL (R338). -/

theorem srelUop_none (he : kget p.stash c.key = none) : srelUop s c p = finish s c 0xD83 0 := by rw [srelUop, entryOf, he]

theorem srelUop_some (he : kget p.stash c.key = some e) : srelUop s c p = if entryBusy s c e = true then s
    else finish (modPart s c.part (fun p => { p with stash := kdel p.stash c.key })) c 0 e.bytes := by
  rw [srelUop, entryOf, he]

/-! SPOL (R338). -/

theorem wbits_top (w : Word) : wbits w 63 60 = w.toNat / 2 ^ 60 := by
  have := w.isLt
  unfold wbits
  omega

theorem spolUop_none (hu : c.upc = 0) (he : kget p.stash c.key = none) : spolUop s c p = finish s c 0xD83 0 := by
  rw [spolUop, if_pos hu, spolStart, entryOf, he]

section
variable (he : kget p.stash c.key = some e)
include he

theorem spolUop_waits (hu : c.upc = 0) (hb : entryBusy s c e = true) : spolUop s c p = s := by
  rw [spolUop, if_pos hu, spolStart, entryOf, he]
  dsimp only
  rw [if_pos hb]

theorem spolUop_dropped (hu : c.upc = 0) (hb : entryBusy s c e = false) (hs : e.state = 3) : spolUop s c p = finish s c 0xD81 0 := by
  rw [spolUop, if_pos hu, spolStart, entryOf, he]
  dsimp only
  rw [if_neg (by simp [hb]), if_pos hs]

theorem spolUop_takes (hu : c.upc = 0) (hb : entryBusy s c e = false) (hs : e.state ≠ 3) {pol : Nat}
    (h1 : (c.val 1).toNat / 2 ^ 60 ≤ pol) (h4 : pol < 4) (hr : RoomFor p e pol)
    (hn : ∀ q, (c.val 1).toNat / 2 ^ 60 ≤ q → q < pol → ¬RoomFor p e q) :
    spolUop s c p = goOn (putEntry s c { e with toPol := pol, toRoom := e.need pol, moved := [], owner := c.id }) c 1 := by
  have ht := takeRoom_takes h4 hr 5 _ h1 (by omega) hn
  rw [spolUop, if_pos hu, spolStart, entryOf, he]
  dsimp only
  rw [if_neg (by simp [hb]), if_neg hs, wbits_top, ht, if_neg (by simpa using Nat.ne_of_lt h4)]

theorem spolUop_drops (hu : c.upc = 0) (hb : entryBusy s c e = false) (hs : e.state ≠ 3)
    (hn : ∀ q, (c.val 1).toNat / 2 ^ 60 ≤ q → q < 4 → ¬RoomFor p e q) :
    spolUop s c p = finish (putEntry s c (dropEntry e)) c 0 (placedValue 4 0) := by
  have ht := takeRoom_none 5 _ hn
  rw [spolUop, if_pos hu, spolStart, entryOf, he]
  dsimp only
  rw [if_neg (by simp [hb]), if_neg hs, wbits_top, ht, if_pos rfl]

theorem spolUop_end (hu : 1 ≤ c.upc) (hn : e.sizes.length ≤ c.upc - 1) : spolUop s c p =
    finish (putEntry s c { e with
      pol := e.toPol, bytes := blockBytes e.moved, room := blockBytes e.moved, blocks := e.moved, toPol := 0, toRoom := 0, moved := []
      owner := 0 }) c 0 (placedValue e.toPol (blockBytes e.moved)) := by
  rw [spolUop, if_neg (by omega), entryOf, he]
  dsimp only
  rw [if_neg (by omega)]

end

/-! Blocks read and written (R337, R340, R341). -/

/-- Block n of an entry can be read: it is not poisoned, and neither the fetch of its metadata entry nor its read fails. -/
def Sound (s : State) (c : Cmd) (e : StashEntry) (n : Nat) : Prop :=
  (e.blocks.getD n default).md.pz = false ∧ Config.poolFails s.free = false ∧
  (s.mdcache.contains ⟨e.die, c.part, false, c.key, n⟩ = false → Config.poolFails (s.free + 1) = false)

theorem mdTouch_eq (s : State) (k : MdKey) : ∃ m, mdTouch s k = { s with mdcache := m } := ⟨_, rfl⟩

/-- A sound block is read; the cache of metadata entries and the free values go on. -/
theorem readBlock_sound {n : Nat} (h : Sound s c e n) :
    ∃ m f, readBlock s c e n = (e.blocks.getD n default, { s with mdcache := m, free := f }) := by
  obtain ⟨h1, h2, h3⟩ := h
  have hk : c.mdKey e n = ⟨e.die, c.part, false, c.key, n⟩ := rfl
  rw [← hk] at h3
  unfold readBlock mdFetch
  cases hc : s.mdcache.contains (c.mdKey e n) with
  | true =>
    obtain ⟨m, hm⟩ := mdTouch_eq s (c.mdKey e n)
    refine ⟨m, s.free + 1, ?_⟩
    simp only [h1, hm, h2, Bool.false_eq_true, if_false, if_true]
  | false =>
    obtain ⟨m, hm⟩ := mdTouch_eq { s with free := s.free + 1 } (c.mdKey e n)
    refine ⟨m, s.free + 1 + 1, ?_⟩
    simp only [h1, hm, h2, h3 hc, Bool.false_eq_true, if_false]

theorem readBlock_poisoned {n : Nat} (h : (e.blocks.getD n default).md.pz = true) :
    readBlock s c e n = (e.blocks.getD n default, s) := by
  unfold readBlock
  simp only [h, if_true]

/-- The state with the record of a block that fails (R172, R337). -/
def blockRecord (v : State) (c : Cmd) (e : StashEntry) (n code : Nat) : State :=
  mcRecord v c.part (srcStash e.die) code (c.acls % 16) c.ctx.num c.core (c.val 0) (256 * (e.blocks.getD n default).md.line)

/-- A record leaves the commands and the directory as they are. -/
theorem blockRecord_spec {v : State} (hv : v.cmds = s.cmds) (hq : v.parts = s.parts) (hp : partOf s c.part = some p) (n code : Nat) :
    ∃ q, (blockRecord v c e n code).cmds = s.cmds ∧ partOf (blockRecord v c e n code) c.part = some q ∧ q.stash = p.stash := by
  obtain ⟨h1, -, g, hg, h3, -⟩ := mcRecord_adds v c.part (srcStash e.die) code (c.acls % 16) c.ctx.num c.core (c.val 0)
    (256 * (e.blocks.getD n default).md.line)
  have hpv : partOf v c.part = some p := by rw [partOf, hq]; exact hp
  refine ⟨g p, ?_, by rw [blockRecord, h3, hpv, Option.map_some], ?_⟩
  · have e := congrArg State.cmds h1
    exact e.trans hv
  · have e := congrArg Partition.stash (hg p).1
    exact e

/-- A block whose fetch or read fails is poisoned, and the directory stays as it is. -/
theorem readBlock_fails {n : Nat} (hp : partOf s c.part = some p) (h : (e.blocks.getD n default).md.pz = false) (hs : ¬Sound s c e n) :
    ∃ u q, readBlock s c e n = ({ e.blocks.getD n default with md := { (e.blocks.getD n default).md with pz := true } }, u) ∧
      u.cmds = s.cmds ∧ partOf u c.part = some q ∧ q.stash = p.stash := by
  have fetched : ∀ v : State, Config.poolFails v.free = true → v.cmds = s.cmds → v.parts = s.parts →
      mdFetch s (c.mdKey e n) = (false, v) → ∃ u q,
      readBlock s c e n = ({ e.blocks.getD n default with md := { (e.blocks.getD n default).md with pz := true } }, u) ∧
      u.cmds = s.cmds ∧ partOf u c.part = some q ∧ q.stash = p.stash := by
    intro v hf hv hq hm
    obtain ⟨q, h1, h2, h3⟩ := blockRecord_spec (e := e) hv hq hp n 9
    refine ⟨{ blockRecord v c e n 9 with free := (blockRecord v c e n 9).free + 1 }, q, ?_, h1, h2, h3⟩
    unfold readBlock
    simp only [h, hm, hf, Bool.false_eq_true, if_false, if_true]
    rfl
  cases hc : s.mdcache.contains (c.mdKey e n) with
  | true =>
    obtain ⟨m, hm⟩ := mdTouch_eq s (c.mdKey e n)
    refine fetched { s with mdcache := m } ?_ rfl rfl (by rw [mdFetch, if_pos hc, hm])
    cases hf : Config.poolFails s.free with
    | true => rfl
    | false => exact absurd ⟨h, hf, fun he => absurd (hc.symm.trans he) (by decide)⟩ hs
  | false =>
    cases hf : Config.poolFails s.free with
    | true =>
      obtain ⟨q, h1, h2, h3⟩ := blockRecord_spec (s := s) (v := { s with free := s.free + 1 }) (e := e) rfl rfl hp n 0xD03
      refine ⟨_, q, ?_, h1, h2, h3⟩
      unfold readBlock mdFetch
      simp only [h, hc, hf, Bool.false_eq_true, if_false, if_true]
      rfl
    | false =>
      obtain ⟨m, hm⟩ := mdTouch_eq { s with free := s.free + 1 } (c.mdKey e n)
      refine fetched { s with mdcache := m, free := s.free + 1 } ?_ rfl rfl
        (by rw [mdFetch, if_neg (by rw [hc]; decide), if_neg (by rw [hf]; decide), hm])
      cases hg : Config.poolFails (s.free + 1) with
      | true => rfl
      | false => exact absurd ⟨h, hf, fun _ => hg⟩ hs

/-- A block is written in its stored form at a line that the pool gives. -/
theorem writeBlock_eq (pol n : Nat) (b : List Byte) : ∃ line m f,
    writeBlock s c e pol n b = (storeForm line (formOf pol e.q e.pk) e.es e.etype b, { s with mdcache := m, free := f }) :=
  ⟨_, _, _, rfl⟩

/-! Blocks that SPOL moves (R338). -/

section
variable (hp : partOf s c.part = some p) (he : kget p.stash c.key = some e) (hu : 1 ≤ c.upc) (hn : c.upc - 1 < e.sizes.length)
include hp he hu hn

theorem spolUop_moves (hs : Sound s c e (c.upc - 1)) : ∃ line m f, spolUop s c p = goOn (putEntry { s with mdcache := m, free := f } c
    { e with moved := e.moved.take (c.upc - 1) ++ [storeForm line (formOf e.toPol e.q e.pk) e.es e.etype
      (expandForm (e.blocks.getD (c.upc - 1) default) (nth e.sizes (c.upc - 1)) e.es e.etype)] }) c (c.upc + 1) := by
  obtain ⟨m, f, hr⟩ := readBlock_sound hs
  obtain ⟨line, m', f', hw⟩ := writeBlock_eq (s := { s with mdcache := m, free := f }) (c := c) (e := e) e.toPol (c.upc - 1)
    (expandForm (e.blocks.getD (c.upc - 1) default) (nth e.sizes (c.upc - 1)) e.es e.etype)
  refine ⟨line, m', f', ?_⟩
  rw [spolUop, if_neg (by omega), entryOf, he]
  dsimp only
  rw [if_pos hn, hr]
  dsimp only
  rw [if_neg (by rw [hs.1]; decide), hw]
  exact congrArg (fun u => goOn u c (c.upc + 1)) (modEntry_eq (s := { s with mdcache := m', free := f' }) hp he _)

theorem spolUop_keeps (hz : (e.blocks.getD (c.upc - 1) default).md.pz = true) : spolUop s c p = goOn (putEntry s c
    { e with moved := e.moved.take (c.upc - 1) ++ [e.blocks.getD (c.upc - 1) default] }) c (c.upc + 1) := by
  rw [spolUop, if_neg (by omega), entryOf, he]
  dsimp only
  rw [if_pos hn, readBlock_poisoned hz]
  dsimp only
  rw [if_pos hz, modEntry_eq hp he]

end

end

end Sys2Proof.Machine
end

section
/-! The micro-operations of SST and SPF (R335, R337). -/

namespace Sys2Proof.Machine

/-! The transposed image (R335). -/

theorem StashEntry.es_dvd (e : StashEntry) (h : 0 < e.es) : e.es ∣ 32 := by
  unfold StashEntry.es stashEs at *
  split at h
  · rw [if_pos ‹_›]
    decide
  · rw [if_neg ‹_›]
    unfold etWidth at *
    split <;> simp_all

theorem pitchOf_ge (n es : Nat) : n * es ≤ pitchOf n es := by
  unfold pitchOf cdiv
  omega

/-- Row r of the transposed image holds, of each row j of the tensor, the element r. -/
theorem turnByte_eq (e : StashEntry) {r j x : Nat} (hj : j < e.rows) (hx : x < e.es) :
    turnByte e (r * pitchOf e.rows e.es + j * e.es + x) = some (j * pitchOf e.cols e.es + r * e.es + x) := by
  obtain ⟨k, hk⟩ := e.es_dvd (by omega)
  have hlt : j * e.es + x < pitchOf e.rows e.es := by
    have h1 := pitchOf_ge e.rows e.es
    have h2 : (j + 1) * e.es ≤ e.rows * e.es := Nat.mul_le_mul_right _ hj
    rw [Nat.succ_mul] at h2
    omega
  have ha : r * pitchOf e.rows e.es + j * e.es + x = (j * e.es + x) + pitchOf e.rows e.es * r := by
    rw [Nat.mul_comm r]
    omega
  have h1 : (r * pitchOf e.rows e.es + j * e.es + x) % pitchOf e.rows e.es = j * e.es + x := by
    rw [ha, Nat.add_mul_mod_self_left, Nat.mod_eq_of_lt hlt]
  have h2 : (r * pitchOf e.rows e.es + j * e.es + x) / pitchOf e.rows e.es = r := by
    rw [ha, Nat.add_mul_div_left _ _ (by omega), Nat.div_eq_of_lt hlt, Nat.zero_add]
  have h3 : (j * e.es + x) / e.es = j := by
    rw [Nat.add_comm, Nat.add_mul_div_right _ _ (by omega), Nat.div_eq_of_lt hx, Nat.zero_add]
  have h4 : (r * pitchOf e.rows e.es + j * e.es + x) % e.es = x := by
    have hp : pitchOf e.rows e.es = e.es * (k * cdiv (e.rows * e.es) 32) := by
      rw [pitchOf, ← Nat.mul_assoc, ← hk]
    rw [hp, show r * (e.es * (k * cdiv (e.rows * e.es) 32)) + j * e.es + x =
      x + e.es * (r * (k * cdiv (e.rows * e.es) 32) + j) by ring, Nat.add_mul_mod_self_left, Nat.mod_eq_of_lt hx]
  unfold turnByte
  simp only [h1, h2, h3, h4, if_pos hj]

section
variable {s : State} {c : Cmd} {p : Partition} {e : StashEntry}

theorem turnBytes_length (off a n : Nat) : (turnBytes s c e off a n).length = n := by
  induction n generalizing a with
  | zero => rfl
  | succ n ih => rw [turnBytes, List.length_cons, ih]

theorem turnBytes_getD (off a n i b : Nat) (hi : i < n) (hb : turnByte e (a + i) = some b) :
    (turnBytes s c e off a n).getD i 0#8 = (spView s c.core (off + b) 1).headD 0#8 := by
  induction n generalizing a i with
  | zero => omega
  | succ n ih =>
    rw [turnBytes]
    cases i with
    | zero => rw [List.getD_cons_zero, show a = a + 0 from rfl, hb]
    | succ i => rw [List.getD_cons_succ, ih (a + 1) i (by omega) (by rw [show a + 1 + i = a + (i + 1) by omega]; exact hb)]

/-! A block of SST. -/

/-- What SST stores as block n: a block of the tensor, or one of its transposed image. -/
def StoredBytes (s : State) (c : Cmd) (e : StashEntry) (n : Nat) (b : List Byte) : Prop :=
  b.length = nth e.sizes n ∧
  (n < (blockSizes e.size).length → b = spView s c.core (sdOff (c.val 1) + 4096 * n) (nth e.sizes n)) ∧
  ((blockSizes e.size).length ≤ n → ∀ i r j x, i < nth e.sizes n → j < e.rows → x < e.es →
    4096 * (n - (blockSizes e.size).length) + i = r * pitchOf e.rows e.es + j * e.es + x →
    b.getD i 0#8 = (spView s c.core (sdOff (c.val 1) + (j * pitchOf e.cols e.es + r * e.es + x)) 1).headD 0#8)

theorem sstBlock_spec (hp : partOf s c.part = some p) (he : kget p.stash c.key = some e) (hm : (coreOf s c.core).spBad = [])
    (n : Nat) : ∃ line b m f, StoredBytes s c e n b ∧
    sstBlock s c e n = goOn (putEntry { s with mdcache := m, free := f } c
      { e with blocks := e.blocks.take n ++ [storeForm line (formOf e.pol e.q e.pk) e.es e.etype b] }) c (n + 2) := by
  have hput : ∀ (g : Nat) (b : List Byte), ∃ line m f,
      goOn (modEntry (writeBlock { s with free := g } c e e.pol n b).2 c
        (fun e' => { e' with blocks := e'.blocks.take n ++ [(writeBlock { s with free := g } c e e.pol n b).1] })) c (n + 2) =
      goOn (putEntry { s with mdcache := m, free := f } c
        { e with blocks := e.blocks.take n ++ [storeForm line (formOf e.pol e.q e.pk) e.es e.etype b] }) c (n + 2) := by
    intro g b
    obtain ⟨line, m, f, hw⟩ := writeBlock_eq (s := { s with free := g }) (c := c) (e := e) e.pol n b
    refine ⟨line, m, f, ?_⟩
    rw [hw]
    exact congrArg (fun u => goOn u c (n + 2)) (modEntry_eq (s := { s with mdcache := m, free := f }) hp he _)
  unfold sstBlock
  by_cases hn : n < (blockSizes e.size).length
  · obtain ⟨line, m, f, h⟩ := hput s.free (spView s c.core (sdOff (c.val 1) + 4096 * n) (nth e.sizes n))
    refine ⟨line, _, m, f, ⟨spView_length .., fun _ => rfl, fun h => absurd hn (Nat.not_lt.2 h)⟩, ?_⟩
    simp only [hn, if_true, engGetSp_unmarked hm]
    exact h
  · obtain ⟨line, m, f, h⟩ := hput (s.free + 4096 * (n - (blockSizes e.size).length) + nth e.sizes n)
      (turnBytes s c e (sdOff (c.val 1)) (4096 * (n - (blockSizes e.size).length)) (nth e.sizes n))
    refine ⟨line, turnBytes s c e (sdOff (c.val 1)) (4096 * (n - (blockSizes e.size).length)) (nth e.sizes n), m, f,
      ⟨turnBytes_length .., fun h => absurd h hn, fun _ i r j x hi hj hx ha => ?_⟩, ?_⟩
    · exact turnBytes_getD _ _ _ _ _ hi (by rw [ha]; exact turnByte_eq e hj hx)
    · simp only [hn, if_false, badRange_unmarked hm]
      exact h

/-! SPF (R337). -/

theorem spfUop_start (hu : c.upc = 0) : spfUop s c p = spfStart s c p := by rw [spfUop, if_pos hu]

/-- The R entry that an SPF of an absent or dropped key posts. -/
def rEntry (s : State) (c : Cmd) : Entry := ⟨keyTag c.key, keySid c.key, 3, s.tsc, srcStash (keyHome c.key), none, false, 0, 0, false⟩

theorem spfStart_posts (h : ∀ e, kget p.stash c.key = some e → e.state = 3) :
    spfStart s c p = postR s c p (if kget p.stash c.key = none then 0xD83 else 0xD81) := by
  rw [spfStart, entryOf]
  cases he : kget p.stash c.key with
  | none => rfl
  | some e =>
    dsimp only
    rw [if_pos (h e he), if_neg (by simp)]

theorem postR_same (code : Nat) (h : sameR p (rEntry s c) = true) : postR s c p code = finish s c code 0 := by
  unfold rEntry at h
  simp only [postR, h, if_true]

theorem postR_waits (code : Nat) (h : sameR p (rEntry s c) = false)
    (hl : logRoom p = false ∨ logOrder p (rEntry s c).at_ (rEntry s c).src = false) : postR s c p code = s := by
  unfold rEntry at h hl
  simp only [postR, h, Bool.false_eq_true, if_false]
  rw [if_pos (by rcases hl with hl | hl <;> simp [hl])]

theorem postR_posts (code : Nat) (h : sameR p (rEntry s c) = false) (h1 : logRoom p = true)
    (h2 : logOrder p (rEntry s c).at_ (rEntry s c).src = true) (hq : (queueOf p (rEntry s c).sid 3).length < 256) :
    postR s c p code = finish (modPart s c.part (fun p => admitEntry p (rEntry s c))) c code 0 := by
  have hd : ¬(Config.extraDepth ≤ extraR p ∧ Config.arrivalDepth ≤ (queueOf p (rEntry s c).sid 3).length) := by
    rintro ⟨-, hn⟩
    exact absurd hq (Nat.not_lt.2 hn)
  unfold rEntry at h h2 hd
  simp only [postR, h, h1, h2, Bool.false_eq_true, Bool.not_true, Bool.or_self, if_false]
  rw [if_neg hd]
  rfl

section
variable (he : kget p.stash c.key = some e)
include he

/-- The size of the image that SPF expands: the tensor's, or that of its transposed image. -/
def StashEntry.image (e : StashEntry) (tr : Bool) : Nat := if tr = true then e.turned else e.size

/-- The first of an entry's blocks that SPF expands, and their sizes. -/
def StashEntry.first (e : StashEntry) (tr : Bool) : Nat := if tr = true then (blockSizes e.size).length else 0
def StashEntry.images (e : StashEntry) (tr : Bool) : List Nat := if tr = true then blockSizes e.turned else blockSizes e.size

omit he in
theorem spfBlocks_eq : spfBlocks c e = (e.first (ddTr (c.val 1)), e.images (ddTr (c.val 1))) := by
  unfold spfBlocks StashEntry.first StashEntry.images
  split <;> rfl

theorem spfStart_entry (hs : e.state ≠ 3) : spfStart s c p =
    if e.owner ≠ 0 then s
    else if ddTr (c.val 1) = true ∧ e.tr = false then finish s c 0xD86 0
    else if 256 * ddNrow (c.val 1) < e.image (ddTr (c.val 1)) then finish s c 0xD85 (e.image (ddTr (c.val 1)))
    else goOn s c 1 := by
  rw [spfStart, entryOf, he]
  dsimp only
  rw [if_neg hs]
  rfl

variable (hu : 1 ≤ c.upc)
include hu

/-- A sound block is expanded into the scratchpad. -/
theorem spfUop_expands (hU : Unheld s c) (hn : c.upc - 1 < (spfBlocks c e).2.length)
    (hs : Sound s c e ((spfBlocks c e).1 + (c.upc - 1))) :
    ∃ m f u, Stores { s with mdcache := m, free := f } u c .eng [(ddOff (c.val 1) + 4096 * (c.upc - 1),
        expandForm (e.blocks.getD ((spfBlocks c e).1 + (c.upc - 1)) default) (nth (spfBlocks c e).2 (c.upc - 1)) e.es e.etype)] ∧
      spfUop s c p = goOn u c (c.upc + 1) := by
  obtain ⟨m, f, hr⟩ := readBlock_sound hs
  have hU' : Unheld { s with mdcache := m, free := f } c := hU
  obtain ⟨u, h1, h2⟩ := hU'.writeRows_eq [(ddOff (c.val 1) + 4096 * (c.upc - 1),
    expandForm (e.blocks.getD ((spfBlocks c e).1 + (c.upc - 1)) default) (nth (spfBlocks c e).2 (c.upc - 1)) e.es e.etype)]
    (fun s => goOn s c (c.upc + 1))
  refine ⟨m, f, u, h1, ?_⟩
  rw [spfUop, if_neg (by omega), entryOf, he]
  dsimp only
  rw [if_pos hn, hr]
  dsimp only
  rw [if_neg (by rw [hs.1]; decide), h2]

/-- A poisoned block is noted. -/
theorem spfUop_lost (hn : c.upc - 1 < (spfBlocks c e).2.length) {b : Block} {u : State} {q : Partition}
    (hr : readBlock s c e ((spfBlocks c e).1 + (c.upc - 1)) = (b, u)) (hb : b.md.pz = true) (hq : partOf u c.part = some q)
    (hs : q.stash = p.stash) :
    spfUop s c p = modCmd (putEntry u c { e with blocks := e.blocks.set ((spfBlocks c e).1 + (c.upc - 1)) b }) c.id (fun d => { d with
      upc := d.upc + 1, work := if d.work.length < 2 then d.work ++ [4096 * (c.upc - 1)] else d.work }) := by
  rw [spfUop, if_neg (by omega), entryOf, he]
  dsimp only
  rw [if_pos hn, hr]
  dsimp only
  rw [if_pos hb, modEntry_eq hq (by rw [hs]; exact he)]

theorem spfUop_end (hn : (spfBlocks c e).2.length ≤ c.upc - 1) : spfUop s c p =
    (match c.work with
      | _ :: at_ :: _ => finish s c 0xD82 at_
      | _ => finish s c 0 (e.image (ddTr (c.val 1)))) := by
  rw [spfUop, if_neg (by omega), entryOf, he]
  dsimp only
  rw [if_neg (Nat.not_lt.2 hn)]
  rfl

end

end

/-! A command's home: what its state leaves as it was. -/

section
variable {s : State} {c : Cmd} {e : StashEntry}

theorem stashHere_id : (stashHere s c).id = c.id := by rw [stashHere_eq]

theorem stashHere_core : (stashHere s c).core = c.core := by rw [stashHere_eq]

theorem stashHere_part : (stashHere s c).part = c.part := by rw [stashHere_eq]

theorem stashHere_upc : (stashHere s c).upc = c.upc := by rw [stashHere_eq]

theorem stashHere_val (n : Nat) : (stashHere s c).val n = c.val n := by rw [stashHere_eq]; rfl

theorem stashHere_key : (stashHere s c).key = c.key := by rw [stashHere_eq]; rfl

theorem sound_stashState (n : Nat) : Sound (stashState s c) (stashHere s c) e n ↔ Sound s c e n := by
  obtain ⟨l, m, h, -⟩ := stashState_eq s c
  rw [Sound, stashHere_key, stashHere_part, h]
  rfl

theorem storedBytes_stashState (n : Nat) (b : List Byte) :
    StoredBytes (stashState s c) (stashHere s c) e n b ↔ StoredBytes s c e n b := by
  simp only [StoredBytes, stashHere_core, stashHere_val, spView_stashState]

theorem rEntry_stashState : rEntry (stashState s c) (stashHere s c) = rEntry s c := by
  obtain ⟨l, m, h, -⟩ := stashState_eq s c
  rw [rEntry, stashHere_key, h]
  rfl

theorem unheld_stashState (h : Unheld s c) : Unheld (stashState s c) (stashHere s c) := by
  obtain ⟨l, m, e, -⟩ := stashState_eq s c
  rw [stashHere_eq, e]
  exact h

/-- The entry of a command's key set, at its home. -/
theorem stashState_put (e : StashEntry) :
    { putEntry (stashState s c) (stashHere s c) e with cmds := s.cmds } =
      modPart (stashAt s c) c.part (fun p => { p with stash := kput p.stash c.key e }) := by
  rw [← stashState_rest, stashHere_eq]
  rfl

/-- An entry of which a block has been written. -/
theorem stashState_stored (m : List MdKey) (f : Nat) (e : StashEntry) :
    let u := { putEntry { stashState s c with mdcache := m, free := f } (stashHere s c) e with cmds := s.cmds }
    { u with parts := s.parts, mdcache := s.mdcache, free := s.free } = stashAt s c ∧
      u.parts = (modPart s c.part (fun p => { p with stash := kput p.stash c.key e })).parts := by
  obtain ⟨l, n, h1, h2⟩ := stashState_eq s c
  rw [h1, h2, stashHere_eq]
  exact ⟨rfl, rfl⟩

/-- A change of the command's partition, at its home. -/
theorem stashState_modPart (g : Partition → Partition) :
    { modPart (stashState s c) c.part g with cmds := s.cmds } = modPart (stashAt s c) c.part g := by
  rw [← stashState_rest]
  rfl

/-- Rows written at the home of a stash command. -/
theorem Stores.withCmds {s u : State} {c : Cmd} {k : AccKind} {r : List (Nat × List Byte)} (h : Stores s u c k r) (l : List Cmd) :
    Stores { s with cmds := l } { u with cmds := l } c k r := by
  obtain ⟨h0, m, h1, h2, h3, h4, h5⟩ := h
  exact ⟨h0, m, h1, h2, by rw [← h3], h4, h5⟩

theorem Stores.of_here {u v : State} {k : AccKind} {r : List (Nat × List Byte)} (h : Stores u v (stashHere s c) k r) :
    Stores u v c k r := by
  rw [stashHere_eq] at h
  exact h

end

end Sys2Proof.Machine
end

section
/-! The arrival of a line command at its home, and what its answers and writes are (R347, R350, R365). -/

namespace Sys2Proof.Machine

/-! Arrival. -/

/-- A line command once it has reached a home. -/
def lineHere (c : Cmd) : Cmd := if c.work = [] then { c with work := [1] } else c

/-- The state at a line command's home. -/
def lineState (s : State) (c : Cmd) : State := if c.work = [] then modCmd s c.id (fun c => { c with work := [1] }) else s

section
variable {s : State} {c : Cmd}

/-- Arrival changes the work of the command alone. -/
theorem lineHere_eq (c : Cmd) : lineHere c = { c with work := (lineHere c).work } := by
  unfold lineHere
  split <;> rfl

theorem lineState_eq (s : State) (c : Cmd) : ∃ l, lineState s c = { s with cmds := l } := by
  unfold lineState
  split
  · exact ⟨_, rfl⟩
  · exact ⟨_, rfl⟩

theorem lineState_rest (s : State) (c : Cmd) : { lineState s c with cmds := s.cmds } = s := by
  obtain ⟨l, h⟩ := lineState_eq s c
  rw [h]

/-- What the command list shows of a line command that has arrived and is changed. -/
theorem lined_cmds (h : cmdOf s c.id = some c) {u : State} (f : Cmd → Cmd) (hf : ∀ x, (f x).id = x.id)
    (hc : u.cmds = (lineState s c).cmds) :
    (∀ n, n ≠ c.id → cmdOf (modCmd u c.id f) n = cmdOf s n) ∧ cmdOf (modCmd u c.id f) c.id = some (f (lineHere c)) := by
  have hn : ∀ m, m ≠ c.id → cmdOf (lineState s c) m = cmdOf s m := by
    intro m hm
    unfold lineState
    split
    · exact cmdOf_modCmd_ne s c.id m (fun c => { c with work := [1] }) (fun _ => rfl) hm
    · rfl
  have hd : cmdOf (lineState s c) c.id = some (lineHere c) := by
    unfold lineState lineHere
    split
    · exact cmdOf_modCmd_same s c.id (fun c => { c with work := [1] }) (fun _ => rfl) c h
    · exact h
  refine ⟨fun m hm => ?_, cmdOf_modCmd_same u c.id f hf _ ((cmdOf_congr hc _).trans hd)⟩
  rw [cmdOf_modCmd_ne u c.id m f hf hm, cmdOf_congr hc, hn m hm]

/-- A line command that has arrived and is changed. -/
theorem AtWork.lined {e : Cls} (h : AtWork s c e) {u v : State} (f : Cmd → Cmd) (hf : ∀ x, (f x).id = x.id)
    (hc : u.cmds = (lineState s c).cmds) (hu : { u with cmds := s.cmds } = v) (hm : microOp s c = modCmd u c.id f) :
    Works s c v (f (lineHere c)) := by
  obtain ⟨h1, h2⟩ := lined_cmds h.1 f hf hc
  subst hu
  exact ⟨_, h.next hm, rfl, h1, h2⟩

/-- A line command that has arrived and waits. -/
theorem AtWork.lineWaits {e : Cls} (h : AtWork s c e) (hm : microOp s c = lineState s c) : Works s c s (lineHere c) := by
  have hw := h.lined (u := lineState s c) id (fun _ => rfl) rfl (lineState_rest s c) (hm.trans ?_)
  · exact hw
  · have : (lineState s c).cmds.map (fun x => if x.id = c.id then id x else x) = (lineState s c).cmds := by
      simp
    unfold modCmd
    rw [this]

/-! Which word a line command is. -/

theorem line_arrives (s : State) (c : Cmd) :
    (if c.reached = true then s else modCmd s c.id (fun c => { c with work := [1] })) = lineState s c := by
  cases hw : c.work with
  | nil => simp [Cmd.reached, hw, lineState]
  | cons => simp [Cmd.reached, hw, lineState]

section
variable (h : AtWork s c .line) (hb : lineBefore s c = false)
include h hb

theorem AtWork.lexp {sc xd xa xb} (hi : c.instr = .lexp sc xd xa xb) : microOp s c = lexpUop (lineState s c) c := by
  rw [h.line, lineUop, if_neg (by rw [hb]; decide), line_arrives, hi]

theorem AtWork.lred {o sc xd xa xb} (hi : c.instr = .lred o sc xd xa xb) : microOp s c = lredUop (lineState s c) c := by
  rw [h.line, lineUop, if_neg (by rw [hb]; decide), line_arrives, hi]

theorem AtWork.lopt {sc xd xa xb} (hi : c.instr = .lopt sc xd xa xb) : microOp s c = loptUop (lineState s c) c := by
  rw [h.line, lineUop, if_neg (by rw [hb]; decide), line_arrives, hi]

theorem AtWork.lqry {o sc xd xa} (hi : c.instr = .lqry o sc xd xa) : microOp s c = lqryUop (lineState s c) c := by
  rw [h.line, lineUop, if_neg (by rw [hb]; decide), line_arrives, hi]

theorem AtWork.nlook {sc xd xa xb} (hi : c.instr = .nlook sc xd xa xb) : microOp s c = nlookUop (lineState s c) c := by
  rw [h.line, lineUop, if_neg (by rw [hb]; decide), line_arrives, hi]

theorem AtWork.nswap {o sc xd xa xq} (hi : c.instr = .nswap o sc xd xa xq) : microOp s c = nswapUop (lineState s c) c := by
  rw [h.line, lineUop, if_neg (by rw [hb]; decide), line_arrives, hi]

theorem AtWork.nget {o sc xd xn xb} (hi : c.instr = .nget o sc xd xn xb) : microOp s c = ngetUop (lineState s c) c := by
  rw [h.line, lineUop, if_neg (by rw [hb]; decide), line_arrives, hi]

theorem AtWork.nout {sc xd xn xp} (hi : c.instr = .nout sc xd xn xp) : microOp s c = noutUop (lineState s c) c := by
  rw [h.line, lineUop, if_neg (by rw [hb]; decide), line_arrives, hi]

theorem AtWork.nxfer {o sc xd xn xb} (hi : c.instr = .nxfer o sc xd xn xb) : microOp s c = nxferUop (lineState s c) c := by
  rw [h.line, lineUop, if_neg (by rw [hb]; decide), line_arrives, hi]

theorem AtWork.ref (hi : (∃ sc xd xn, c.instr = .nref sc xd xn) ∨ (∃ o sc xd xn, c.instr = .nrel o sc xd xn) ∨
    ∃ sc xd xn, c.instr = .nhas sc xd xn) : microOp s c = refUop (lineState s c) c := by
  rw [h.line, lineUop, if_neg (by rw [hb]; decide), line_arrives]
  obtain ⟨_, _, _, hi⟩ | ⟨_, _, _, _, hi⟩ | ⟨_, _, _, hi⟩ := hi <;> rw [hi]

end

/-! Answers do not look at the commands. -/

section
variable (s) (c) (l : List Cmd)

theorem engGet_cmds (a : Word) (n : Nat) : engGet { s with cmds := l } c a n = engGet s c a n := by
  have hv : ∀ d b, viewBytes { s with cmds := l } c.core c.part d b = viewBytes s c.core c.part d b :=
    fun d b => viewBytes_rest s l s.nextId c.core c.part d b
  have hd : engDest { s with cmds := l } c a n .read = engDest s c a n .read := rfl
  have hj : ∀ d, judgeRead { s with cmds := l } c.core c.part c.asid c.gen d n = judgeRead s c.core c.part c.asid c.gen d n :=
    fun _ => rfl
  have hb : ∀ p, locBytes { s with cmds := l } p n = locBytes s p n := fun p => by cases p <;> rfl
  have hf : ∀ d w, findDest { s with cmds := l } c.part c.asid c.gen d w = findDest s c.part c.asid c.gen d w := fun _ _ => rfl
  unfold engGet engAt
  simp only [hd, hj, hv, hb, hf, Bool.false_eq_true, if_false]

end

theorem engGet_lineState (s : State) (c : Cmd) (a : Word) (n : Nat) : engGet (lineState s c) c a n = engGet s c a n := by
  obtain ⟨l, h⟩ := lineState_eq s c
  rw [h, engGet_cmds]

/-- n granules that can be read, and their bytes. -/
theorem granulesAt_ok {a : Word} {n : Nat} {l : List (List Byte)} (hn : l.length = n)
    (h : ∀ i x, l[i]? = some x → engGet s c (a + BitVec.ofNat 64 (32 * i)) 32 = .ok x) : granulesAt s c a n = l.map EngAns.ok := by
  rw [granulesAt, upFrom_zero]
  refine List.ext_getElem (by simp [hn]) fun i h1 h2 => ?_
  have hi : i < l.length := by simpa using h2
  simp [h i l[i] (List.getElem?_eq_getElem hi)]

theorem firstStop_oks (l : List (List Byte)) : firstStop (l.map EngAns.ok) = none := firstStop_ok l id

theorem bytes_oks (l : List (List Byte)) : (l.map EngAns.ok).flatMap EngAns.bytes = l.flatten := by
  induction l with
  | nil => rfl
  | cons x l ih => rw [List.map_cons, List.flatMap_cons, ih, List.flatten_cons]; rfl

/-- The answer to an access at a home that nothing holds. -/
theorem lineAns_home {ea : Word} {n ipa : Nat} {p : Perm} {w : Bool} (h1 : lineIpa s c ea n p = .ok ipa)
    (h2 : homeHeld s c ipa n = false) : lineAns s c ea n p w = homeAns s c.part c.asid c.gen ea ipa n w := by
  rw [lineAns, h1]
  dsimp only
  rw [if_neg (by rw [h2]; decide)]

theorem EngAns.of_good {a : EngAns} (h : a.good = true) : ∃ b, a = .ok b := by
  cases a with
  | ok b => exact ⟨b, rfl⟩
  | _ => cases h

/-! Caches, and writes at a home. -/

theorem Cached.withCmds {t u : State} (h : Cached t u) (l : List Cmd) : Cached { t with cmds := l } { u with cmds := l } := by
  unfold Cached at *
  rw [← h]

/-- A request that has used leaves at a line command's home. -/
theorem Cached.of_lineState {u : State} (h : Cached (lineState s c) u) : Cached s { u with cmds := s.cmds } := by
  have := h.withCmds s.cmds
  rw [lineState_rest] at this
  exact this

theorem Wrote.congr {s t u v : State} {l : Loc} {d : List Byte} (h : Wrote s t l d) (h1 : u.mem = s.mem) (h2 : u.cores = s.cores)
    (h3 : v.mem = t.mem) (h4 : v.cores = t.cores) : Wrote u v l d := by
  have hu : ∀ n, coreOf u n = coreOf s n := fun n => by rw [coreOf, h2, coreOf]
  have hv : ∀ n, coreOf v n = coreOf t n := fun n => by rw [coreOf, h4, coreOf]
  cases l with
  | pa p =>
    refine ⟨fun n a => ?_, fun a => ?_⟩
    · rw [hu, hv]
      exact h.1 n a
    · rw [h1, h3]
      exact h.2 a
  | sp k o =>
    refine ⟨fun a => ?_, fun n a => ?_⟩
    · rw [h1, h3]
      exact h.1 a
    · rw [hu, hv]
      exact h.2 n a

theorem Cached.eq {u : State} (h : Cached s u) : u = { s with tcache := u.tcache, wcache := u.wcache, l2 := u.l2 } := by
  unfold Cached at h
  conv_rhs => rw [← h]

theorem Cached.of_granulesUse (s : State) (c : Cmd) (a : Word) (n : Nat) : Cached s (granulesUse s c a n) := Cached.of_engUse s c _

/-- What requests at a line command's home leave of the state before it arrived. -/
theorem Cached.here_eq {u : State} (h : Cached (lineState s c) u) :
    u = { s with cmds := u.cmds, tcache := u.tcache, wcache := u.wcache, l2 := u.l2 } := by
  obtain ⟨l, hl⟩ := lineState_eq s c
  have e := h.eq
  rw [hl] at e
  have hc := congrArg State.cmds e
  conv_lhs => rw [e]
  rw [hc]

theorem oweHost_eq (s : State) (a : Access) : ∃ b, oweHost s a = { s with backInv := b } := by
  unfold oweHost
  split
  · exact ⟨_, rfl⟩
  · exact ⟨s.backInv, rfl⟩

/-- What a write at a home leaves (R146, R350). -/
theorem homed_homeWrite {part asid gen ipa : Nat} {l : Loc} {leaf : Word} (h : findDest s part asid gen (.ipa ipa) true = .place l leaf)
    (core cmd : Nat) (data : List Byte) : Homed s (homeWrite s part asid gen core cmd ipa data) l data := by
  have he : homeWrite s part asid gen core cmd ipa data =
      oweHost (useLeaf (locWrite (dropAcc { s with nextId := s.nextId + 1 } s.nextId) l data) part asid gen (.ipa ipa))
        (unitAccess s part asid gen core cmd ipa data) := by
    rw [homeWrite, h]
    rfl
  have hw := Wrote.of_locWrite (dropAcc { s with nextId := s.nextId + 1 } s.nextId) l data
  have e1 := locWrite_only (dropAcc { s with nextId := s.nextId + 1 } s.nextId) l data
  generalize locWrite (dropAcc { s with nextId := s.nextId + 1 } s.nextId) l data = x at he hw e1
  have e2 := (Cached.of_useLeaf x part asid gen (.ipa ipa)).eq
  obtain ⟨b, e3⟩ := oweHost_eq (useLeaf x part asid gen (.ipa ipa)) (unitAccess s part asid gen core cmd ipa data)
  rw [he, e3]
  generalize useLeaf x part asid gen (.ipa ipa) = y at e2
  rw [e2]
  refine ⟨hw.congr rfl rfl rfl rfl, ?_, ?_⟩
  · have e := congrArg State.nextId e1
    exact e
  · have e := congrArg (fun u : State => { u with
      acc := s.acc, tcache := s.tcache, wcache := s.wcache, l2 := s.l2, backInv := s.backInv, nextId := s.nextId }) e1
    exact e

end

end Sys2Proof.Machine
end

section
/-! What LEXP, LQRY and NOUT do once they have arrived (R352, R356, R361). -/

namespace Sys2Proof.Machine

/-! LEXP. -/

/-- LEXP has judged a line: the status that it met, and the lines armed. -/
def lexpStep (s : State) (c : Cmd) (code armed : Nat) : State :=
  modCmd s c.id (fun c => { c with counted := c.counted + 1, code := if c.code = 0 then code else c.code, value := c.value + armed })

/-- The state after LEXP has armed a line, but for the command. -/
def lexpArmed (s : State) (c : Cmd) (ea : Word) (ipa slice : Nat) (d : OptDesc) : State :=
  useLeaf (modPart (if (c.val 1).getLsbD 43 = true then engPut s c ea (natBytes 0 256)
      else { addAccess s (setupAccess s c) with nearNext := s.nearNext + 1 }) c.part (fun p =>
    { p with lines := p.lines ++ [⟨ipa, (c.val 1).toNat / 2 ^ 48 % 2 ^ 16, slice, d, c.core, s.nextId⟩] }))
    c.part c.asid c.gen (.ipa ipa)

section
variable {s : State} {c : Cmd} {p : Partition}

theorem wbits_low (w : Word) : wbits w 31 0 = w.toNat % 2 ^ 32 := by
  simp [wbits]

theorem lexpUop_end (h : (c.val 1).toNat % 2 ^ 32 ≤ c.counted) : lexpUop s c = finish s c c.code c.value := by
  rw [← wbits_low] at h
  rw [lexpUop, if_pos h]

theorem lexpUop_line {ipa : Nat} (hp : partOf s c.part = some p) (h : c.counted < (c.val 1).toNat % 2 ^ 32) :
    let ea := c.val 0 + BitVec.ofNat 64 (256 * c.counted)
    let slice := sliceOf s c.part c.asid c.gen ipa
    lineIpa s c ea 256 .write = .ok ipa → homeHeld s c ipa 256 = false →
    (homeAns s c.part c.asid c.gen ea ipa 256 true).good = true →
    lexpUop s c = match slotFor s p c.core ((c.val 1).toNat / 2 ^ 44 % 16) with
      | none => finish s c 0xE84 c.value
      | some d =>
        if (armedFor s p c.core ipa).isSome = true then lexpStep s c 0xE81 0
        else if (armedAt p ipa).isSome = true then s
        else if 2048 ≤ (p.lines.filter (fun a => a.slice == slice)).length then lexpStep s c 0xE83 0
        else lexpStep (lexpArmed s c ea ipa slice d) c 0 1 := by
  intro ea slice h1 h2 h3
  obtain ⟨b, h3⟩ := EngAns.of_good h3
  rw [← wbits_low] at h
  rw [lexpUop, if_neg (Nat.not_le.2 h), hp, lineAns_home h1 h2, h1, h3]
  rfl

/-- A line that LEXP arms is written or has its write set up, and stands among the armed lines. -/
theorem lexpArmed_spec {ea : Word} {ipa slice : Nat} {d : OptDesc}
    (h : (c.val 1).getLsbD 43 = true → engDest s c ea 1 .write = .ok (.ipa ipa)) :
    let t := lexpArmed s c ea ipa slice d
    ∃ a, Cached s { t with acc := s.acc, nextId := s.nextId, nearNext := s.nearNext, parts := s.parts } ∧
      t.acc = s.acc ++ [a] ∧ a.id = s.nextId ∧ a.core = c.core ∧ a.cmd = c.id ∧ a.kind = .eng ∧
      (if (c.val 1).getLsbD 43 = true then a.dest = .ipa ipa ∧ a.data = List.replicate 256 0#8 else a.data = []) ∧
      t.parts = (modPart s c.part (fun p =>
        { p with lines := p.lines ++ [⟨ipa, (c.val 1).toNat / 2 ^ 48 % 2 ^ 16, slice, d, c.core, s.nextId⟩] })).parts := by
  intro t
  have ht : t = lexpArmed s c ea ipa slice d := rfl
  rw [lexpArmed] at ht
  by_cases hz : (c.val 1).getLsbD 43 = true
  · rw [if_pos hz, engPut, engPutAt_eq (h hz)] at ht
    rw [ht, (Cached.of_useLeaf _ _ _ _ _).eq]
    exact ⟨_, rfl, rfl, rfl, rfl, rfl, rfl, (if_pos hz).mpr ⟨rfl, natBytes_zero 256⟩, rfl⟩
  · rw [if_neg hz] at ht
    rw [ht, (Cached.of_useLeaf _ _ _ _ _).eq]
    exact ⟨_, rfl, rfl, rfl, rfl, rfl, rfl, (if_neg hz).mpr rfl, rfl⟩

/-- LEXP goes on after a line that it does not arm. -/
theorem AtWork.lexpSkips (h : AtWork s c .line) {code : Nat} (hm : microOp s c = lexpStep (lineState s c) c code 0) :
    Works s c s { lineHere c with counted := c.counted + 1, code := if c.code = 0 then code else c.code } := by
  have hw := h.lined (fun x => { x with
    counted := x.counted + 1, code := if x.code = 0 then code else x.code, value := x.value + 0 }) (fun _ => rfl) rfl
    (lineState_rest s c) hm
  rw [lineHere_eq] at *
  exact hw

/-- LEXP goes on after a line that it arms. -/
theorem AtWork.lexpArms (h : AtWork s c .line) {u v : State} (hc : u.cmds = (lineState s c).cmds) (hu : { u with cmds := s.cmds } = v)
    (hm : microOp s c = lexpStep u c 0 1) : Works s c v { lineHere c with counted := c.counted + 1, value := c.value + 1 } := by
  have hw := h.lined (fun x => { x with
    counted := x.counted + 1, code := if x.code = 0 then 0 else x.code, value := x.value + 1 }) (fun _ => rfl) hc hu hm
  have hk : (if c.code = 0 then 0 else c.code) = c.code := by
    split
    · exact Eq.symm ‹c.code = 0›
    · rfl
  rw [lineHere_eq] at *
  dsimp only at hw
  rw [hk] at hw
  exact hw

/-! LQRY. -/

theorem lqryUop_eq {ipa : Nat} (hp : partOf s c.part = some p) (h1 : lineIpa s c (c.val 0) 256 .read = .ok ipa)
    (h2 : homeHeld s c ipa 256 = false) (h3 : (homeAns s c.part c.asid c.gen (c.val 0) ipa 256 false).good = true) :
    lqryUop s c = match armedFor s p c.core ipa with
      | some a => finish s c 0 (2 ^ 16 + a.count)
      | none => finish s c 0 0 := by
  obtain ⟨b, h3⟩ := EngAns.of_good h3
  rw [lqryUop, lineAns_home h1 h2, h1, h3, hp]
  rfl

/-! NOUT. -/

theorem outLines_eq (w : Word) : outLines w = min (w.toNat % 2 ^ 32) (16 ^ (w.toNat / 2 ^ 60)) := by
  rw [outLines, wbits_low, wbits_top]

theorem noutUop_named (hn : nameOf (c.val 2) (c.val 3) = 0 ∨ badName (nameOf (c.val 2) (c.val 3)) = false) : ¬(nameOf (c.val 2) (c.val 3) ≠ 0 ∧ badName (nameOf (c.val 2) (c.val 3)) = true) := by
  rintro ⟨h0, hb⟩
  rcases hn with hn | hn
  · exact h0 hn
  · rw [hn] at hb
    cases hb

variable (hp : partOf s c.part = some p)
include hp

theorem noutUop_bad (h0 : nameOf (c.val 2) (c.val 3) ≠ 0) (hb : badName (nameOf (c.val 2) (c.val 3)) = true) :
    noutUop s c = finish s c 0xE88 0 := by
  rw [noutUop, hp]
  exact if_pos ⟨h0, hb⟩

variable (hn : nameOf (c.val 2) (c.val 3) = 0 ∨ badName (nameOf (c.val 2) (c.val 3)) = false)
include hn

theorem noutUop_end (h : min ((c.val 1).toNat % 2 ^ 32) (16 ^ ((c.val 1).toNat / 2 ^ 60)) ≤ c.counted) :
    noutUop s c = finish s c 0 c.counted := by
  rw [← outLines_eq] at h
  rw [noutUop, hp]
  dsimp only
  rw [if_neg (noutUop_named hn), if_pos h]

variable (h : c.counted < min ((c.val 1).toNat % 2 ^ 32) (16 ^ ((c.val 1).toNat / 2 ^ 60)))
include h

theorem noutUop_status {code : Nat}
    (hl : leafAt s p c.counted ((c.val 1).toNat / 2 ^ 60) (nameOf (c.val 2) (c.val 3)) = .status code) :
    noutUop s c = finish s c code c.counted := by
  rw [← outLines_eq] at h
  rw [noutUop, hp]
  dsimp only
  rw [if_neg (noutUop_named hn), if_neg (Nat.not_le.2 h), wbits_top, hl]

theorem noutUop_leaf {b : List Byte} {ipa : Nat}
    (hl : leafAt s p c.counted ((c.val 1).toNat / 2 ^ 60) (nameOf (c.val 2) (c.val 3)) = .ok b) :
    let ea := c.val 0 + BitVec.ofNat 64 (256 * c.counted)
    lineIpa s c ea 256 .write = .ok ipa → homeHeld s c ipa 256 = false →
    (homeAns s c.part c.asid c.gen ea ipa 256 true).good = true → heldAt s c ea 256 = false →
    noutUop s c = modCmd (engPut s c ea b) c.id (fun x => { x with counted := c.counted + 1 }) := by
  intro ea h1 h2 h3 h4
  obtain ⟨x, h3⟩ := EngAns.of_good h3
  rw [← outLines_eq] at h
  rw [noutUop, hp]
  dsimp only
  rw [if_neg (noutUop_named hn), if_neg (Nat.not_le.2 h), wbits_top, hl]
  dsimp only
  rw [lineAns_home h1 h2, h3]
  dsimp only
  rw [if_neg (by rw [h4]; decide)]

end

/-- One write of a command at a generic address. -/
theorem scatters_engPut {s : State} {c : Cmd} {ea : Word} {d : Dest} (h : engDest s c ea 1 .write = .ok d) (b : List Byte) :
    Scatters s (engPut s c ea b) c [(ea, b)] := by
  rw [engPut, engPutAt_eq h]
  refine ⟨[_], rfl, rfl, rfl, rfl, fun a ha => ?_, fun a ha b hb => ?_⟩
  · rw [List.mem_singleton.1 ha]
    exact ⟨rfl, rfl, rfl, rfl, rfl, Nat.le_refl _, rfl, h⟩
  · rw [List.mem_singleton.1 ha, List.mem_singleton.1 hb]
    exact iff_of_true rfl rfl

theorem Scatters.withCmds {s u : State} {c : Cmd} {r : List (Word × List Byte)} (h : Scatters s u c r) (l : List Cmd) :
    Scatters { s with cmds := l } { u with cmds := l } c r := by
  obtain ⟨m, h1, h2, h3, h4⟩ := h
  refine ⟨m, h1, h2, ?_, h4⟩
  have e := congrArg (fun x : State => { x with cmds := l }) h3
  exact e

end Sys2Proof.Machine
end

section
/-! The leaves of a named tree, and references to names (R357, R359, R361). -/

namespace Sys2Proof.Machine

/-! Leaves. -/

section
variable {s : State} {p : Partition} {n : Nat} {e : NameEntry} (pos : Nat)

theorem leafAt_null (s : State) (p : Partition) (d : Nat) : leafAt s p pos d 0 = .ok (List.replicate 256 0#8) := by
  rw [leafAt, if_pos rfl, natBytes_zero]

theorem leafAt_away (h0 : n ≠ 0) (h : nameAt p n = none) (d : Nat) : leafAt s p pos d n = .status 0xE86 := by
  rw [leafAt, if_neg h0, h]

variable (h0 : n ≠ 0) (h : nameAt p n = some e)
include h0 h

theorem leafAt_row (hk : n.testBit 2 = false) (he : nameErr s p e = none) : leafAt s p pos 0 n = .ok (nameData s p e) := by
  rw [leafAt, if_neg h0, h]
  dsimp only
  rw [if_neg (by rw [isInterior, hk]; decide), he]

theorem leafAt_rowAbove (hk : n.testBit 2 = false) (d : Nat) : leafAt s p pos (d + 1) n = .status 0xE89 := by
  rw [leafAt, if_neg h0, h]
  dsimp only
  rw [if_pos (by rw [isInterior, hk]; decide)]

theorem leafAt_interiorLeaf (hk : n.testBit 2 = true) : leafAt s p pos 0 n = .status 0xE89 := by
  rw [leafAt, if_neg h0, h]
  exact if_pos hk

theorem leafAt_interior (hk : n.testBit 2 = true) (he : nameErr s p e = none) (d : Nat) : leafAt s p pos (d + 1) n =
    leafAt s p pos d (nth (childNames (nameData s p e)) (pos / 16 ^ d % 16)) := by
  rw [leafAt, if_neg h0, h]
  dsimp only
  rw [if_neg (by rw [isInterior, hk]; decide), he]

end

theorem leafAt_cmds (s : State) (l : List Cmd) (p : Partition) (pos d n : Nat) :
    leafAt { s with cmds := l } p pos d n = leafAt s p pos d n := by
  have he : ∀ e, nameErr { s with cmds := l } p e = nameErr s p e := fun _ => rfl
  have hd : ∀ e, nameData { s with cmds := l } p e = nameData s p e := fun _ => rfl
  induction d generalizing n with
  | zero =>
    unfold leafAt
    simp only [he, hd]
  | succ d ih =>
    unfold leafAt
    simp only [he, hd, ih]

/-! References. -/

section
variable {s : State} {c : Cmd} {p : Partition} {e : NameEntry} {n part : Nat}

/-- A count of a name changed, in a partition that is known. -/
theorem modPart_setCount (hp : partOf s part = some p) (n : Nat) (g : Nat → Nat) : modPart s part (fun p => setCount p n g) =
    modPart s part (fun _ =>
      { p with names := p.names.map (fun x => if x.name = n then { x with count := g x.count } else x) }) :=
  modPart_congr hp rfl

section
variable (hp : partOf s part = some p) (he : nameAt p n = some e)
include hp he

theorem dropRef_stuck (hc : e.count = 0xFFFFFFFF) : dropRef s part n = s := by
  rw [dropRef, hp, Option.bind_some, he, Option.map_some]
  exact if_pos hc

theorem dropRef_shared (hc : e.count ≠ 0xFFFFFFFF) (h1 : 1 < e.count) :
    dropRef s part n = modPart s part (fun p => setCount p n (fun k => k - 1)) := by
  rw [dropRef, hp, Option.bind_some, he, Option.map_some]
  dsimp only
  rw [if_neg hc, if_pos h1]

/-- The last reference to a row: its name goes. -/
theorem dropRef_row (h1 : e.count ≤ 1) (hk : n.testBit 2 = false) :
    dropRef s part n = modPart s part (fun _ => { p with names := p.names.filter (fun x => x.name != n) }) := by
  rw [dropRef, hp, Option.bind_some, he, Option.map_some]
  have hi : ¬isInterior n = true := by rw [isInterior, hk]; decide
  dsimp only
  rw [if_neg (by omega), if_neg (by omega), if_neg hi, if_neg hi]
  refine modPart_congr hp ?_
  rw [List.append_nil]

end

theorem locError_clear {a m : Nat} (hb : ∀ g ∈ s.bad, g ∉ granulesOf a m) (hp : s.poison = []) : locError s (.pa a) m = none := by
  have h1 : (granulesOf a m).any (fun g => s.poison.contains g) = false := by simp [hp]
  have h2 : (granulesOf a m).any (fun g => s.bad.contains g) = false := by
    rw [List.any_eq_false]
    intro g hg hm
    exact hb g (List.contains_iff_mem.1 hm) hg
  rw [locError, h1, h2]
  rfl

theorem granulesOf_part {a m i k : Nat} (h : i + k ≤ m) (g : Nat) (hg : g ∈ granulesOf (a + i) k) : g ∈ granulesOf a m := by
  unfold granulesOf at *
  split at hg
  · cases hg
  · rw [if_neg (by omega)]
    rw [mem_upFrom] at *
    omega

theorem memRead_part (m : Memory) (a : Nat) {i k n : Nat} (h : i + k ≤ n) : ((memRead m a n).drop i).take k = memRead m (a + i) k := by
  refine List.ext_getElem (by simp [memRead_length]; omega) fun j h1 h2 => ?_
  simp [memRead_eq, Nat.add_assoc]

theorem rowMarks_clear (hb : ∀ g ∈ s.bad, g ∉ granulesOf (lineAddr p e.line) 256) (hp : s.poison = []) {i : Nat} (hi : i ∈ upFrom 0 16) :
    (locError s (.pa (lineAddr p e.line + 16 * i)) 16).isNone = true := by
  have h16 : i < 16 := ((mem_upFrom 0 16 i).1 hi).2
  have hg : ∀ g ∈ s.bad, g ∉ granulesOf (lineAddr p e.line + 16 * i) 16 := fun g hg hm =>
    hb g hg (granulesOf_part (by omega) g hm)
  rw [locError_clear hg hp, Option.isNone_none]

/-- The children of a line none of whose granules is marked. -/
theorem lineKids_clear (hb : ∀ g ∈ s.bad, g ∉ granulesOf (lineAddr p e.line) 256) (hp : s.poison = []) :
    lineKids s p e = (childNames (nameData s p e)).filter (fun k => k != 0) := by
  have hf : (upFrom 0 16).filter (fun i => (locError s (.pa (lineAddr p e.line + 16 * i)) 16).isNone) = upFrom 0 16 :=
    List.filter_eq_self.2 fun i hi => rowMarks_clear hb hp hi
  have hr : (upFrom 0 16).map (fun i => leNat (memRead s.mem (lineAddr p e.line + 16 * i) 16)) = childNames (nameData s p e) :=
    List.map_congr_left fun i hi => by
      have h16 : i < 16 := ((mem_upFrom 0 16 i).1 hi).2
      rw [nameData, memRead_part _ _ (show 16 * i + 16 ≤ 256 by omega)]
  rw [lineKids, hf, hr]

/-- The last reference to an interior line: its children are to be released. -/
theorem dropRef_interior (hp : partOf s part = some p) (he : nameAt p n = some e) (h1 : e.count ≤ 1) (hk : n.testBit 2 = true)
    (hb : ∀ g ∈ s.bad, g ∉ granulesOf (lineAddr p e.line) 256) (hz : s.poison = []) :
    dropRef s part n = modPart s part (fun _ => { p with
      names := p.names.filter (fun x => x.name != n)
      releases := p.releases ++ (childNames (nameData s p e)).filter (fun k => k != 0) }) := by
  have hn : noteLine s part p e = s := by
    have h2 : ¬(granulesOf (lineAddr p e.line) 256).any (fun g => s.bad.contains g) = true := by
      rw [Bool.not_eq_true, List.any_eq_false]
      intro g hg hm
      exact hb g (List.contains_iff_mem.1 hm) hg
    rw [noteLine]
    exact if_neg h2
  rw [dropRef, hp, Option.bind_some, he, Option.map_some]
  dsimp only
  rw [if_neg (by omega), if_neg (by omega), if_pos (show isInterior n = true from hk), if_pos (show isInterior n = true from hk), hn,
    lineKids_clear hb hz]
  exact modPart_congr hp rfl

/-! NREF, NREL and NHAS. -/

/-- What NREF, NREL and NHAS do with a name that is well formed and its entry. -/
def refAnswer (s : State) (c : Cmd) (n : Nat) (x : Option NameEntry) : State :=
  match x with
  | none =>
    match c.instr with
    | .nhas .. => finish s c 0 0
    | _ => finish s c 0xE86 0
  | some e =>
    match c.instr with
    | .nref .. => finish (takeRef s c.part n) c 0 (satInc e.count)
    | .nrel .. => finish (dropRef s c.part n) c 0 (if e.count = 0xFFFFFFFF then e.count else e.count - 1)
    | _ => finish s c 0 (2 ^ 32 + e.count)

/-- A function that is used through an equation of its own. -/
theorem apply_of_eq {α β γ : Type} {g : α → β → γ} {s : α} {c : β} {x : γ} (h : ∀ f, f = g → f s c = x) : g s c = x := h g rfl

/- The kernel must not compare refUop's body with its application: it would evaluate the name's sum in unary. So these two take the
body from the equation of the function itself, before it is applied. -/

theorem refUop_bad (hb : badName (nameOf (c.val 0) (c.val 1)) = true) : refUop s c = finish s c 0xE88 0 := by
  refine apply_of_eq fun f hf => ?_
  conv at hf => rhs; whnf
  rw [hf]
  dsimp only
  rw [hb]

theorem refUop_named (hp : partOf s c.part = some p) (hb : badName (nameOf (c.val 0) (c.val 1)) = false) :
    refUop s c = refAnswer s c (nameOf (c.val 0) (c.val 1)) (nameAt p (nameOf (c.val 0) (c.val 1))) := by
  refine apply_of_eq fun f hf => ?_
  conv at hf => rhs; whnf
  rw [hf]
  dsimp only
  rw [hb, hp, Option.bind_some]
  generalize nameAt p (nameOf (c.val 0) (c.val 1)) = x
  cases x <;> rfl

theorem refAnswer_hasNot {o xd xn} (hi : c.instr = .nhas o xd xn) : refAnswer s c n none = finish s c 0 0 := by
  rw [refAnswer, hi]

theorem refAnswer_away (hi : ∀ o xd xn, c.instr ≠ .nhas o xd xn) : refAnswer s c n none = finish s c 0xE86 0 := by
  rw [refAnswer]
  split
  · rename_i h
    exact absurd h (hi _ _ _)
  · rfl

theorem refAnswer_takes {o xd xn} (hi : c.instr = .nref o xd xn) :
    refAnswer s c n (some e) = finish (takeRef s c.part n) c 0 (satInc e.count) := by
  rw [refAnswer, hi]

theorem refAnswer_drops {o o' xd xn} (hi : c.instr = .nrel o o' xd xn) : refAnswer s c n (some e) =
    finish (dropRef s c.part n) c 0 (if e.count = 0xFFFFFFFF then e.count else e.count - 1) := by
  rw [refAnswer, hi]

theorem refAnswer_has {o xd xn} (hi : c.instr = .nhas o xd xn) : refAnswer s c n (some e) = finish s c 0 (2 ^ 32 + e.count) := by
  rw [refAnswer, hi]

end

end Sys2Proof.Machine
end

section
/-! The secured-state record and the transfer of a tree to a mirror partner (R363, R364). -/

namespace Sys2Proof.Machine

section
variable {s : State} {c : Cmd} {p : Partition}

/-! The secured-state record. -/

/-- The step that the secured-state record names: that of slot 0 as a core's agents see it. -/
def securedStep (s : State) (p : Partition) (core : Nat) : Nat :=
  match slotFor s p core 0 with
  | some d => (d.dw 15).toNat / 2 ^ 32
  | none => 0

theorem wbits_high (w : Word) : wbits w 63 32 = w.toNat / 2 ^ 32 :=
  Nat.mod_eq_of_lt (Nat.div_lt_of_lt_mul w.isLt)

theorem securedStep_eq (s : State) (p : Partition) (core : Nat) :
    ((slotFor s p core 0).map (fun d => wbits (d.dw 15) 63 32)).getD 0 = securedStep s p core := by
  unfold securedStep
  cases slotFor s p core 0 with
  | none => rfl
  | some d => exact wbits_high _

theorem writeSecured_eq {part a : Nat} (hp : partOf s part = some p) (ha : p.secAt = some a) (hd : writeDropped s (.pa a) 48 = false)
    (core node code lines root : Nat) : writeSecured s part core node code lines root = locWrite s (.pa a) (natBytes s.tsc 8 ++
      natBytes (node * 2 ^ 48 + code * 2 ^ 32 + if code = 0 then 2 ^ 31 else 0) 8 ++ natBytes lines 8 ++
      natBytes (securedStep s p core) 8 ++ natBytes root 16) := by
  rw [writeSecured, hp, Option.bind_some, ha, Option.map_some]
  dsimp only
  rw [securedStep_eq, if_neg (fun h => Bool.false_ne_true (hd.symm.trans h))]

theorem writeSecured_cmds (s : State) (l : List Cmd) (part core node code lines root : Nat) :
    writeSecured { s with cmds := l } part core node code lines root =
      { writeSecured s part core node code lines root with cmds := l } := by
  have hp : partOf { s with cmds := l } part = partOf s part := rfl
  have hd : ∀ a, writeDropped { s with cmds := l } a 48 = writeDropped s a 48 := fun a => by cases a <;> rfl
  have hs : ∀ p, slotFor { s with cmds := l } p core 0 = slotFor s p core 0 := fun _ => rfl
  unfold writeSecured
  rw [hp]
  cases (partOf s part).bind (fun p => p.secAt.map (fun a => (p, a))) with
  | none => rfl
  | some x =>
    dsimp only
    rw [hd, hs]
    cases h : writeDropped s (.pa x.2) 48 with
    | true => rw [if_pos rfl, if_pos rfl]; rfl
    | false => rw [if_neg Bool.false_ne_true, if_neg Bool.false_ne_true]; rfl

/-! Lines that a partner lacks. -/

theorem missingLines_cmds (s : State) (l : List Cmd) (p : Partition) (d n : Nat) (seen : List Nat) :
    missingLines { s with cmds := l } p d n seen = missingLines s p d n seen := by
  have hd : ∀ e, nameData { s with cmds := l } p e = nameData s p e := fun _ => rfl
  induction d generalizing n seen with
  | zero => rfl
  | succ d ih =>
    unfold missingLines
    simp only [hd, ih]

/-! NXFER. -/

/-- Whether a partner, or the own device's mirrors, refuse a transfer. -/
def MirrorRefuses (s : State) (part : Nat) (p : Partition) (node : Nat) : Prop :=
  if node = s.node then node ∉ p.mirrors else nodeRefuses s part node true = true ∨ (partnerOf s node).accepts = false

theorem mirrorRefuses_iff (part node : Nat) :
    (if (node == s.node) = true then !p.mirrors.contains node else nodeRefuses s part node true || !(partnerOf s node).accepts) = true ↔
      MirrorRefuses s part p node := by
  unfold MirrorRefuses
  by_cases h : node = s.node
  · rw [if_pos (beq_iff_eq.2 h), if_pos h]
    simp
  · rw [if_neg (by simpa using h), if_neg h]
    simp

/-- The partner of a transfer and the lines that it lacks. -/
def xferLines (s : State) (p : Partition) (node root : Nat) : List Nat :=
  (missingLines s p (p.names.length + 1) root (partnerOf s node).has).drop (partnerOf s node).has.length

section
variable (hp : partOf s c.part = some p)
include hp

theorem nxferUop_refused (h : MirrorRefuses s c.part p (c.val 0).toNat) :
    nxferUop s c = endTransfer s c 0xE8C c.counted (nameOf (c.val 1) (c.val 2)) := by
  rw [nxferUop, hp]
  exact if_pos ((mirrorRefuses_iff _ _).2 h)

variable (h : ¬MirrorRefuses s c.part p (c.val 0).toNat)
include h

theorem nxferUop_bad (hb : badName (nameOf (c.val 1) (c.val 2)) = true) :
    nxferUop s c = endTransfer s c 0xE88 c.counted (nameOf (c.val 1) (c.val 2)) := by
  rw [nxferUop, hp]
  exact (if_neg (fun x => h ((mirrorRefuses_iff _ _).1 x))).trans (if_pos hb)

variable (hb : badName (nameOf (c.val 1) (c.val 2)) = false)
include hb

theorem nxferUop_away (hn : nameAt p (nameOf (c.val 1) (c.val 2)) = none) :
    nxferUop s c = endTransfer s c 0xE86 c.counted (nameOf (c.val 1) (c.val 2)) := by
  rw [nxferUop, hp]
  dsimp only
  rw [if_neg (fun x => h ((mirrorRefuses_iff _ _).1 x)), if_neg (by rw [hb]; decide), if_pos (by rw [hn]; rfl)]

variable (hn : nameAt p (nameOf (c.val 1) (c.val 2)) ≠ none)
include hn

theorem nxferUop_own (ho : (c.val 0).toNat = s.node) : nxferUop s c = endTransfer
    (putMirror (takeRef s c.part (nameOf (c.val 1) (c.val 2))) c.part (c.val 0).toNat (nameOf (c.val 1) (c.val 2)))
    c 0xE8B 0 (nameOf (c.val 1) (c.val 2)) := by
  rw [nxferUop, hp]
  dsimp only
  rw [if_neg (fun x => h ((mirrorRefuses_iff _ _).1 x)), if_neg (by rw [hb]; decide), if_neg (by simpa using hn),
    if_pos (beq_iff_eq.2 ho)]

theorem nxferUop_far (ho : (c.val 0).toNat ≠ s.node) :
    nxferUop s c = xferUop s c p (c.val 0).toNat (nameOf (c.val 1) (c.val 2)) := by
  rw [nxferUop, hp]
  dsimp only
  rw [if_neg (fun x => h ((mirrorRefuses_iff _ _).1 x)), if_neg (by rw [hb]; decide), if_neg (by simpa using hn),
    if_neg (by simpa using ho)]

end

/-- A transfer whose lines can all be read. -/
theorem xferUop_eq {node root : Nat} (hq : ∀ m ∈ xferLines s p node root, ∀ e, nameAt p m = some e → nameErr s p e = none) :
    let x := partnerOf s node
    let l := xferLines s p node root
    xferUop s c p node root =
      if (!(x.link && pathUp s true s.node node)) = true then endTransfer s c 0xE8F c.counted root
      else if l.length ≤ c.counted then
        endTransfer { s with
          partners := { x with has := x.has ++ l, room := x.room - l.length } :: s.partners.filter (fun y => y.node != node) }
          c (if x.feed = s.feed then 0xE8B else 0) c.counted root
      else if partnerEnds x c.counted ≠ 0 then endTransfer s c (partnerEnds x c.counted) (c.counted + 1) root
      else modCmd s c.id (fun x => { x with counted := c.counted + 1 }) := by
  intro x l
  have hf : ∀ m ∈ l, (nameAt p m).bind (fun e => (nameErr s p e).map (fun code => (e, code))) = none := by
    intro m hm
    cases he : nameAt p m with
    | none => rfl
    | some e =>
      rw [Option.bind_some, hq m hm e he]
      rfl
  have h1 : (l.filter isInterior).findSome? (fun m => (nameAt p m).bind (fun e => (nameErr s p e).map (fun code => (e, code)))) = none :=
    List.findSome?_eq_none_iff.2 fun m hm => hf m (List.mem_of_mem_filter hm)
  have h2 : (l[c.counted]?).bind (fun m => (nameAt p m).bind (fun e => (nameErr s p e).map (fun code => (e, code)))) = none := by
    cases hl : l[c.counted]? with
    | none => rfl
    | some m => exact hf m (List.mem_of_getElem? hl)
  rw [xferUop]
  dsimp only
  rw [show List.drop (partnerOf s node).has.length (missingLines s p (p.names.length + 1) root (partnerOf s node).has) = l from rfl, h1, h2]

/-- A partition that is known, changed twice. -/
theorem modPart_modPart {part : Nat} (hp : partOf s part = some p) (f g : Partition → Partition) :
    modPart (modPart s part f) part g = modPart s part (fun p => g (f p)) := by
  have hp : kget s.parts part = some p := hp
  simp only [modPart, kmod, hp, kget_kput_same, kput_kput]

/-- A root that the own node keeps for itself. -/
theorem putMirror_takeRef {part : Nat} (hp : partOf s part = some p) {node root : Nat} (hm : kget p.mirrorTab node = none)
    (h0 : root ≠ 0) : putMirror (takeRef s part root) part node root = modPart s part (fun _ => { p with
      names := p.names.map (fun e => if e.name = root then { e with count := satInc e.count } else e)
      mirrorTab := kput p.mirrorTab node root }) := by
  have hq : partOf (takeRef s part root) part = some (setCount p root satInc) := by
    rw [takeRef, partOf_modPart_same, hp, Option.map_some]
  have hk : kget (setCount p root satInc).mirrorTab node = none := hm
  rw [putMirror, hq]
  dsimp only
  rw [hk, takeRef, modPart_modPart hp]
  refine modPart_congr hp ?_
  simp only [setCount, if_neg h0]

end

end Sys2Proof.Machine
end

section
/-! What LRED, NSWAP and NGET do once they have arrived (R353, R360, R362). -/

namespace Sys2Proof.Machine

/-! Replies with a name. -/

section
variable {s : State} {c : Cmd}

/-- A command changed twice. -/
theorem modCmd_modCmd (s : State) (n : Nat) (f g : Cmd → Cmd) (hf : ∀ x, (f x).id = x.id) :
    modCmd (modCmd s n f) n g = modCmd s n (fun x => g (f x)) := by
  unfold modCmd
  dsimp only
  rw [List.map_map]
  congr 2
  funext x
  dsimp only [Function.comp]
  split
  · rw [if_pos (by rw [hf]; assumption)]
  · rfl

theorem finishName_eq (s : State) (c : Cmd) (code value name : Nat) : finishName s c code value name = modCmd s c.id (fun x =>
    { x with phase := .finished, code := code, value := value, out := [BitVec.ofNat 64 name, BitVec.ofNat 64 (name / 2 ^ 64)] }) :=
  modCmd_modCmd s c.id _ _ (fun _ => rfl)

/-- A line command that ends with a name in its triple. -/
theorem AtWork.lineNames (h : AtWork s c .line) {u v : State} {code value name : Nat} (hc : u.cmds = (lineState s c).cmds)
    (hu : { u with cmds := s.cmds } = v) (hm : microOp s c = finishName u c code value name) : Works s c v { lineHere c with
      phase := .finished, code := code, value := value, out := [BitVec.ofNat 64 name, BitVec.ofNat 64 (name / 2 ^ 64)] } :=
  h.lined (fun x => { x with
    phase := .finished, code := code, value := value, out := [BitVec.ofNat 64 name, BitVec.ofNat 64 (name / 2 ^ 64)] })
    (fun _ => rfl) hc hu (hm.trans (finishName_eq u c code value name))

/-- A reply with a name, and what the command acquires. -/
def nameReply (s : State) (c : Cmd) (code value name : Nat) (acq : List Nat) : State :=
  modCmd (finishName s c code value name) c.id (fun c => { c with acq := acq })

/-- A line command that ends with a name in its triple and acquires. -/
theorem AtWork.lineReplies (h : AtWork s c .line) {u v : State} {code value name : Nat} {acq : List Nat}
    (hc : u.cmds = (lineState s c).cmds) (hu : { u with cmds := s.cmds } = v) (hm : microOp s c = nameReply u c code value name acq) :
    Works s c v { lineHere c with
      phase := .finished, code := code, value := value, out := [BitVec.ofNat 64 name, BitVec.ofNat 64 (name / 2 ^ 64)]
      acq := acq } := by
  rw [nameReply, finishName_eq] at hm
  exact h.lined (fun x => { x with
    phase := .finished, code := code, value := value, out := [BitVec.ofNat 64 name, BitVec.ofNat 64 (name / 2 ^ 64)]
    acq := acq }) (fun _ => rfl) hc hu (hm.trans (modCmd_modCmd u c.id _ _ (fun _ => rfl)))

/-! Caches and writes at a home. -/

variable {p : Partition}

theorem Homed.withCmds {u : State} {l : Loc} {b : List Byte} (h : Homed s u l b) (m : List Cmd) :
    Homed { s with cmds := m } { u with cmds := m } l b := by
  obtain ⟨h1, h2, h3⟩ := h
  refine ⟨h1.congr rfl rfl rfl rfl, h2, ?_⟩
  have e := congrArg (fun x : State => { x with cmds := m }) h3
  exact e

theorem Homed.parts {u : State} {l : Loc} {b : List Byte} (h : Homed s u l b) : u.parts = s.parts := by
  have e := congrArg State.parts h.2.2
  exact e

theorem Homed.cmds {u : State} {l : Loc} {b : List Byte} (h : Homed s u l b) : u.cmds = s.cmds := by
  have e := congrArg State.cmds h.2.2
  exact e

theorem partOf_congr {s u : State} (h : u.parts = s.parts) (n : Nat) : partOf u n = partOf s n := congrArg (fun m => kget m n) h

theorem Cached.nameData {u : State} (h : Cached s u) (e : NameEntry) : nameData u p e = nameData s p e := by
  rw [h.eq]
  rfl

theorem Cached.nameErr {u : State} (h : Cached s u) (e : NameEntry) : nameErr u p e = nameErr s p e := by
  rw [h.eq]
  rfl

/-! Lines of FP32 values. -/

theorem elemsOf_eq (es n : Nat) (b : List Byte) : elemsOf es n b = (List.range n).map (fun i => (b.drop (es * i)).take es) := by
  induction n generalizing b with
  | zero => rfl
  | succ n ih =>
    rw [elemsOf, ih, List.range_succ_eq_map, List.map_cons, List.map_map]
    refine congrArg₂ _ rfl (List.map_congr_left fun i _ => ?_)
    rw [List.drop_drop]
    simp only [Function.comp, Nat.mul_succ, Nat.add_comm]

/-- The FP32 value i of a line. -/
def fp32At (b : List Byte) (i : Nat) : Num := decFloat fp32 (leNat ((b.drop (4 * i)).take 4))

theorem fp32Line_eq (b : List Byte) : fp32Line b = (List.range 64).map (fp32At b) := by
  rw [fp32Line, elemsOf_eq, List.map_map]
  rfl

theorem fp32Bytes_map (f : Nat → Num) (n : Nat) : fp32Bytes ((List.range n).map f) =
    (List.range n).flatMap (fun i => natBytes (rndFloat (f i) fp32 0 false Rand.zero) 4) := List.flatMap_map ..

/-- A line of sums. -/
def sumLine (g b : List Byte) : List Byte :=
  (List.range 64).flatMap (fun i => natBytes (rndFloat (add32 (fp32At g i) (fp32At b i)) fp32 0 false Rand.zero) 4)

theorem sumLine_eq (g b : List Byte) :
    fp32Bytes (((fp32Line g).zip (fp32Line b)).map (fun x => add32 x.1 x.2)) = sumLine g b := by
  rw [fp32Line_eq, fp32Line_eq, List.zip_map', List.map_map, fp32Bytes_map]
  rfl

/-! LRED. -/

/-- What LRED does with an armed line to which it has added: the line counts down, and at 0 its update runs. -/
def lredEnd (u : State) (c : Cmd) (ipa : Nat) (line : Armed) : State :=
  let x : Update := ⟨u.nextId, ipa, line.desc, none, 0, none, []⟩
  if line.count - 1 = 0 then
    runUpdate (finish (modPart { u with nextId := u.nextId + 1 } c.part (fun p =>
      { p with lines := p.lines.filter (fun a => a.ipa != ipa), updates := p.updates ++ [x] })) c 0 0) c.part x
  else finish (modPart u c.part (fun p =>
    { p with lines := p.lines.map (fun a => if a.ipa = ipa then { a with count := line.count - 1 } else a) })) c 0 (line.count - 1)

section
variable {ipa : Nat} {l : List (List Byte)} (hp : partOf s c.part = some p) (hn : l.length = 8)
  (hl : ∀ i x, l[i]? = some x → engGet s c (c.val 1 + BitVec.ofNat 64 (32 * i)) 32 = .ok x)
  (h1 : lineIpa s c (c.val 0) 256 .write = .ok ipa) (h2 : homeHeld s c ipa 256 = false)
  (h3 : (homeAns s c.part c.asid c.gen (c.val 0) ipa 256 true).good = true)
include hp hn hl h1 h2 h3

theorem lredUop_unarmed (ha : armedFor s p c.core ipa = none) : lredUop s c = finish s c 0xE82 0 := by
  obtain ⟨x, h3⟩ := EngAns.of_good h3
  rw [lredUop, granulesAt_ok hn hl, firstStop_oks, lineAns_home h1 h2, h1, h3, hp]
  dsimp only
  rw [ha]

variable {line : Armed} {g : List Byte} (ha : armedFor s p c.core ipa = some line)
  (hg : homeAns s c.part c.asid c.gen (c.val 0) ipa 256 false = .ok g)
include ha hg

theorem lredUop_adds : lredUop s c =
    lredEnd (homeWrite (granulesUse s c (c.val 1) 8) c.part c.asid c.gen c.core c.id ipa (sumLine g l.flatten)) c ipa line := by
  obtain ⟨x, h3⟩ := EngAns.of_good h3
  rw [lredUop, granulesAt_ok hn hl, firstStop_oks, lineAns_home h1 h2, h1, h3, hp]
  dsimp only
  rw [ha, hg]
  dsimp only
  rw [bytes_oks, sumLine_eq]
  rfl

end

/-! NSWAP. -/

theorem nswapUop_eq {ipa : Nat} {b : List Byte} (hp : partOf s c.part = some p) (h1 : lineIpa s c (c.val 0) 16 .write = .ok ipa)
    (h2 : homeHeld s c ipa 16 = false) (h3 : (homeAns s c.part c.asid c.gen (c.val 0) ipa 16 true).good = true)
    (hb : homeAns s c.part c.asid c.gen (c.val 0) ipa 16 false = .ok b) :
    let u := useLeaf s c.part c.asid c.gen (.ipa ipa)
    nswapUop s c = if leNat b = nameOf (c.val 1) (c.val 2) then
        nameReply (modPart (homeWrite u c.part c.asid c.gen c.core c.id ipa (natBytes (c.val 3).toNat 8 ++ natBytes (c.val 4).toNat 8))
          c.part (fun p => leave c p (slotKey ipa) false)) c 0 0 (leNat b) (gains u c p (slotKey ipa) false)
      else finishName u c 0xE8A 0 (leNat b) := by
  obtain ⟨x, h3⟩ := EngAns.of_good h3
  rw [nswapUop, lineAns_home h1 h2, h1, h3, hp]
  dsimp only
  rw [hb]
  rfl

/-! NGET. -/

theorem ngetUop_root {ipa : Nat} {b : List Byte} (hp : partOf s c.part = some p) (hr : (c.val 0).getLsbD 63 = true)
    (h1 : lineIpa s c (c.val 1) 16 .read = .ok ipa) (h2 : homeHeld s c ipa 16 = false)
    (hb : homeAns s c.part c.asid c.gen (c.val 1) ipa 16 false = .ok b) :
    ngetUop s c = nameFetch (useLeaf s c.part c.asid c.gen (.ipa ipa)) c p (leNat b) (gains s c p (slotKey ipa) false) := by
  rw [ngetUop, hp]
  dsimp only
  rw [if_pos hr, lineAns_home h1 h2, h1, hb]

theorem ngetUop_name (hp : partOf s c.part = some p) (hr : (c.val 0).getLsbD 63 = false) :
    ngetUop s c = nameFetch s c p (nameOf (c.val 1) (c.val 2)) [] := by
  rw [ngetUop, hp]
  dsimp only
  rw [if_neg (by rw [hr]; decide)]

section
variable {n : Nat} (acq : List Nat)

theorem nameFetch_bad (hb : badName n = true) : nameFetch s c p n acq = nameReply s c 0xE88 0 n acq := by
  rw [nameFetch, if_pos hb]
  rfl

variable (hb : badName n = false)
include hb

theorem nameFetch_away (hn : nameAt p n = none) : nameFetch s c p n acq = nameReply s c 0xE86 0 n acq := by
  rw [nameFetch, if_neg (by rw [hb]; decide), hn]
  rfl

theorem nameFetch_line {e : NameEntry} (hn : nameAt p n = some e) (he : nameErr s p e = none) (hU : Unheld s c) :
    ∃ u, Stores s u c .eng [((c.val 0).toNat % 2 ^ 20, nameData s p e)] ∧ nameFetch s c p n acq = nameReply u c 0 256 n acq := by
  obtain ⟨u, h1, h2⟩ := hU.writeRows_eq [((c.val 0).toNat % 2 ^ 20, nameData s p e)] (fun s => nameReply s c 0 256 n acq)
  refine ⟨u, h1, ?_⟩
  rw [nameFetch, if_neg (by rw [hb]; decide), hn]
  dsimp only
  rw [he]
  dsimp only
  rw [show wbits (c.val 0) 19 0 = (c.val 0).toNat % 2 ^ 20 by simp [wbits]]
  exact h2

end
end

end Sys2Proof.Machine
end

section
/-! LOPT: the slots of a core's line engines (R351, R367). -/

namespace Sys2Proof.Machine

/-- A stronger test finds the same element where it holds of the one found. -/
theorem find?_of_imp {α : Type} {P Q : α → Bool} (l : List α) (hi : ∀ x, Q x = true → P x = true)
    (hx : ∀ x, l.find? P = some x → Q x = true) : l.find? Q = l.find? P := by
  induction l with
  | nil => rfl
  | cons y l ih =>
    by_cases hp : P y = true
    · have hq := hx y (List.find?_cons_of_pos hp)
      rw [List.find?_cons_of_pos hp, List.find?_cons_of_pos hq]
    · have hq : ¬Q y = true := fun h => hp (hi y h)
      rw [List.find?_cons_of_neg hp] at hx ⊢
      rw [List.find?_cons_of_neg hq]
      exact ih hx

theorem find?_congr_mem {α : Type} {P Q : α → Bool} (l : List α) (h : ∀ x ∈ l, P x = Q x) : l.find? P = l.find? Q := by
  induction l with
  | nil => rfl
  | cons y l ih =>
    rw [List.find?_cons, List.find?_cons, h y (by simp), ih fun x hx => h x (by simp [hx])]

/-! Slots. -/

section
variable {s u : State} {p : Partition}

/-- Whether an agent of a core sees a write of a slot. -/
def seesSlot (s : State) (core n : Nat) (e : SlotEntry) : Bool := e.slot == n && (e.core == core || performedFar s e.acc)

theorem slotFor_eq (s : State) (p : Partition) (core n : Nat) :
    slotFor s p core n = (p.slots.reverse.find? (seesSlot s core n)).map (fun e => e.desc) := rfl

/-- A write of a slot is kept where an agent may see it. -/
def keepsSlot (s : State) (l : List SlotEntry) (n : Nat) (x : SlotEntry) : Bool :=
  x.slot != n || !performedFar s x.acc || some x == l.reverse.find? (fun x => x.slot == n && performedFar s x.acc)

theorem putSlot_eq (s : State) (l : List SlotEntry) (e : SlotEntry) : putSlot s l e = l.filter (keepsSlot s l e.slot) ++ [e] := rfl

/-- The writes that are left out are those that no agent sees. -/
theorem find?_kept (s : State) (l : List SlotEntry) (core m n : Nat) :
    (l.filter (keepsSlot s l n)).reverse.find? (seesSlot s core m) = l.reverse.find? (seesSlot s core m) := by
  rw [← List.filter_reverse, List.find?_filter]
  refine find?_of_imp _ (fun x h => (of_decide_eq_true h).2) fun x h => ?_
  have hs : seesSlot s core m x = true := List.find?_some h
  refine decide_eq_true ⟨?_, hs⟩
  unfold keepsSlot
  by_cases hn : x.slot = n
  · cases hf : performedFar s x.acc with
    | false => simp
    | true =>
      have hm : m = n := by
        rw [seesSlot, Bool.and_eq_true, beq_iff_eq] at hs
        exact hs.1.symm.trans hn
      subst hm
      have he : l.reverse.find? (fun x => x.slot == m && performedFar s x.acc) = l.reverse.find? (seesSlot s core m) := by
        refine find?_of_imp _ (fun y hy => ?_) fun y hy => ?_
        · rw [Bool.and_eq_true] at hy
          rw [seesSlot, hy.1, hy.2]
          simp
        · rw [h] at hy
          obtain rfl := Option.some.inj hy
          rw [hf, hn]
          simp
      rw [he, h]
      simp
  · simp [hn]

/-- The accesses that were there when a write was made have performed as before. -/
theorem performedFar_added {a : Access} (h : u.acc = s.acc ++ [a]) {n : Nat} (hn : n ≠ a.id) : performedFar u n = performedFar s n := by
  have ha : List.find? (fun x => x.id == n) [a] = none := by simp [hn.symm]
  rw [performedFar, performedFar, accOf, accOf, h, List.find?_append, ha, Option.or_none]

theorem performedFar_new {a : Access} (h : u.acc = s.acc ++ [a]) : performedFar u a.id = false := by
  rw [performedFar, accOf, h, Option.isNone_eq_false_iff, List.find?_isSome]
  exact ⟨a, by simp, beq_self_eq_true _⟩

/-- What the agents see after a slot has been written: the writer its own write, and nobody else another slot or another write. -/
theorem slotFor_putSlot {a : Access} {q : Partition} {e : SlotEntry} (ha : u.acc = s.acc ++ [a]) (he : e.acc = a.id)
    (hp : ∀ x ∈ p.slots, x.acc < a.id) (hq : q.slots = putSlot u p.slots e) :
    slotFor u q e.core e.slot = some e.desc ∧ (∀ k, k ≠ e.core → slotFor u q k e.slot = slotFor s p k e.slot) ∧
    ∀ k m, m ≠ e.slot → slotFor u q k m = slotFor s p k m := by
  have hold : ∀ k m, seesSlot u k m e = false → slotFor u q k m = slotFor s p k m := by
    intro k m hs
    rw [slotFor_eq, slotFor_eq, hq, putSlot_eq, List.reverse_append, List.reverse_singleton, List.singleton_append,
      List.find?_cons_of_neg (by rw [hs]; decide), find?_kept]
    refine congrArg _ (find?_congr_mem _ fun x hx => ?_)
    rw [seesSlot, seesSlot, performedFar_added ha (Nat.ne_of_lt (hp x (List.mem_reverse.1 hx)))]
  refine ⟨?_, fun k hk => hold k e.slot ?_, fun k m hm => hold k m ?_⟩
  · rw [slotFor_eq, hq, putSlot_eq, List.reverse_append, List.reverse_singleton, List.singleton_append,
      List.find?_cons_of_pos (by simp [seesSlot]), Option.map_some]
  · rw [seesSlot, he, performedFar_new ha]
    simp [hk.symm]
  · simp [seesSlot, hm.symm]

end

/-! LOPT. -/

section
variable {s : State} {c : Cmd} {p : Partition} {l : List (List Byte)}

/-- The doublewords of a descriptor. -/
def descWords (b : List Byte) : List Word := (List.range 16).map (fun i => leWord ((b.drop (8 * i)).take 8))

/-- The state after LOPT has written a slot, but for the command. -/
def loptPut (s : State) (c : Cmd) (n : Nat) (d : OptDesc) : State :=
  modPart { addAccess s (setupAccess s c) with nearNext := s.nearNext + 1 } c.part (fun p =>
    { p with slots := putSlot { addAccess s (setupAccess s c) with nearNext := s.nearNext + 1 } p.slots ⟨n, c.core, s.nextId, d⟩ })

/-- What LOPT's write of a slot leaves. -/
theorem loptPut_spec {w : State} {n : Nat} {d : OptDesc} (h1 : w.acc = s.acc) (h2 : w.parts = s.parts) (h3 : w.nextId = s.nextId)
    (hp : partOf s c.part = some p) (hs : ∀ x ∈ p.slots, x.acc < s.nextId) :
    let u := loptPut w c n d
    ∃ q, u.acc = s.acc ++ [setupAccess w c] ∧ (∀ i, i ≠ c.part → partOf u i = partOf s i) ∧
      partOf u c.part = some q ∧ { q with slots := p.slots } = p ∧ slotFor u q c.core n = some d ∧
      (∀ k, k ≠ c.core → slotFor u q k n = slotFor s p k n) ∧ ∀ k m, m ≠ n → slotFor u q k m = slotFor s p k m := by
  intro u
  have hacc : u.acc = s.acc ++ [setupAccess w c] := congrArg (fun l => l ++ [setupAccess w c]) h1
  have hid : ∀ x ∈ p.slots, x.acc < (setupAccess w c).id := fun x hx => Nat.lt_of_lt_of_eq (hs x hx) h3.symm
  have hq : partOf u c.part = some { p with slots := putSlot u p.slots ⟨n, c.core, w.nextId, d⟩ } := by
    exact (partOf_modPart_same _ _ _).trans (congrArg (Option.map _) ((partOf_congr h2 c.part).trans hp))
  exact ⟨_, hacc, fun i hi => (partOf_modPart_ne _ _ _ _ hi).trans (partOf_congr h2 i), hq, rfl, slotFor_putSlot (e := ⟨n, c.core, w.nextId, d⟩) hacc rfl hid rfl⟩

variable (hn : l.length = 4)
  (hl : ∀ i x, l[i]? = some x → engGet s c (c.val 0 + BitVec.ofNat 64 (32 * i)) 32 = .ok x)
include hn hl

theorem loptUop_bad (hd : badDesc (descWords l.flatten) = true ∨ descIpas s c (descWords l.flatten) = none) :
    loptUop s c = finish s c 0xE84 0 := by
  have hx : (if badDesc (descWords l.flatten) = true then none else descIpas s c (descWords l.flatten)) = none := by
    rcases hd with hd | hd
    · exact if_pos hd
    · rw [hd]
      exact ite_self none
  rw [loptUop, granulesAt_ok hn hl, firstStop_oks]
  dsimp only
  rw [bytes_oks, upFrom_zero, show (List.range 16).map _ = descWords l.flatten from rfl, hx]

theorem loptUop_puts (hb : badDesc (descWords l.flatten) = false) {ipas : List Nat}
    (hi : descIpas s c (descWords l.flatten) = some ipas) : loptUop s c =
    finish (loptPut (granulesUse s c (c.val 0) 4) c ((c.val 1).toNat % 16) ⟨descWords l.flatten, ipas, c.asid, c.gen⟩) c 0 0 := by
  rw [loptUop, granulesAt_ok hn hl, firstStop_oks]
  dsimp only
  rw [bytes_oks, upFrom_zero, show (List.range 16).map _ = descWords l.flatten from rfl, if_neg (by rw [hb]; decide), hi]
  dsimp only
  rw [show wbits (c.val 1) 3 0 = (c.val 1).toNat % 16 by simp [wbits]]
  rfl

end

end Sys2Proof.Machine
end

section
/-! NLOOK: a row and its name in the store (R358). -/

namespace Sys2Proof.Machine

section
variable {p : Partition}

/-! References taken on many names. -/

theorem nameAt_setCount_ne (n m : Nat) (g : Nat → Nat) (h : m ≠ n) : nameAt (setCount p n g) m = nameAt p m :=
  find_map_ne (fun e : NameEntry => e.name) p.names n m (fun e => { e with count := g e.count }) (fun _ => rfl) h

theorem nameAt_setCount_same (n : Nat) (g : Nat → Nat) :
    nameAt (setCount p n g) n = (nameAt p n).map (fun e => { e with count := g e.count }) := by
  cases h : nameAt p n with
  | some e => exact find_map_same (fun e : NameEntry => e.name) p.names n (fun e => { e with count := g e.count }) (fun _ => rfl) e h
  | none =>
    have hn := List.find?_eq_none.1 h
    refine List.find?_eq_none.2 fun x hx => ?_
    obtain ⟨y, hy, rfl⟩ := List.mem_map.1 hx
    have := hn y hy
    split
    · exact this
    · exact this

/-- A partition with one reference more on each of some names. -/
def takeAll (p : Partition) (l : List Nat) : Partition := l.foldl (fun p k => setCount p k satInc) p

theorem repeat_satInc (n k : Nat) : Nat.repeat satInc n (satInc k) = Nat.repeat satInc (n + 1) k := by
  induction n with
  | zero => rfl
  | succ n ih => rw [Nat.repeat, ih]; rfl

theorem nameAt_takeAll (l : List Nat) (m : Nat) :
    nameAt (takeAll p l) m = (nameAt p m).map (fun e => { e with count := Nat.repeat satInc (l.count m) e.count }) := by
  induction l generalizing p with
  | nil =>
    rw [List.count_nil]
    exact (Option.map_id' ..).symm
  | cons k l ih =>
    rw [takeAll, List.foldl_cons]
    refine (ih (p := setCount p k satInc)).trans ?_
    by_cases h : k = m
    · subst h
      rw [nameAt_setCount_same, Option.map_map, List.count_cons_self]
      refine congrArg (fun f => (nameAt p k).map f) (funext fun e => ?_)
      rw [Function.comp, repeat_satInc]
    · rw [nameAt_setCount_ne _ _ _ (Ne.symm h), List.count_cons_of_ne h]

theorem takeAll_only (p : Partition) (l : List Nat) : { takeAll p l with names := p.names } = p := by
  induction l generalizing p with
  | nil => rfl
  | cons k l ih =>
    have e := congrArg (fun q : Partition => { q with names := p.names }) (ih (setCount p k satInc))
    exact e

/-- The state after references have been taken on some names. -/
theorem takeRefs_spec {s : State} {part : Nat} (hp : partOf s part = some p) (l : List Nat) :
    let t := l.foldl (fun s k => takeRef s part k) s
    { t with parts := s.parts } = s ∧ (∀ i, i ≠ part → partOf t i = partOf s i) ∧ partOf t part = some (takeAll p l) := by
  induction l generalizing s p with
  | nil => exact ⟨rfl, fun _ _ => rfl, hp⟩
  | cons k l ih =>
    have hk : partOf (takeRef s part k) part = some (setCount p k satInc) := by
      rw [takeRef, partOf_modPart_same, hp, Option.map_some]
    obtain ⟨h1, h2, h3⟩ := ih hk
    refine ⟨?_, fun i hi => (h2 i hi).trans (partOf_modPart_ne _ _ _ _ hi), h3⟩
    have e := congrArg (fun t : State => { t with parts := s.parts }) h1
    exact e

/-! NLOOK's rule. -/

variable {s : State} {part : Nat} (hp : partOf s part = some p) {kind : Bool} {row : List Byte}
include hp

theorem lookName_null (hn : nameRow p kind row = none) : lookName s part kind row = (s, 0xE85, 0, 0) := by
  rw [lookName, hp]
  dsimp only
  rw [hn]

variable {n : Nat} (hn : nameRow p kind row = some n)
include hn

theorem lookName_differs {e : NameEntry} (he : nameAt p n = some e) (hr : nameErr s p e = none) (hd : nameData s p e ≠ row) :
    lookName s part kind row = (s, 0xE85, 0, 0) := by
  rw [lookName, hp]
  dsimp only
  rw [hn]
  dsimp only
  rw [he]
  dsimp only
  rw [hr, if_neg (by decide), if_neg hd]

theorem lookName_held {e : NameEntry} (he : nameAt p n = some e) (hr : nameErr s p e = none) (hd : nameData s p e = row) :
    lookName s part kind row = (takeRef s part n, 0, 0, n) := by
  rw [lookName, hp]
  dsimp only
  rw [hn]
  dsimp only
  rw [he]
  dsimp only
  rw [hr, if_neg (by decide), if_pos hd]

variable (ha : nameAt p n = none)
include ha

/-- The names that a row of a kind holds. -/
def rowNames (kind : Bool) (row : List Byte) : List Nat := if kind = true then childNames row else []

theorem lookName_badName {i k : Nat} (hi : (rowNames kind row)[i]? = some k) (hk : k ≠ 0 ∧ badName k = true)
    (hf : ∀ j x, j < i → (rowNames kind row)[j]? = some x → ¬(x ≠ 0 ∧ badName x = true)) :
    lookName s part kind row = (s, 0xE88, i, 0) := by
  have h1 := find?_indexed_some (fun c => c != 0 && badName c) (rowNames kind row) 0 i hi (by simpa using hk)
    (fun j y hj hy => by simpa using hf j y hj hy)
  rw [Nat.zero_add] at h1
  rw [lookName, hp]
  dsimp only
  rw [hn]
  dsimp only
  rw [ha]
  dsimp only
  rw [show (if kind = true then childNames row else []) = rowNames kind row from rfl, h1]

variable (hb : ∀ k ∈ rowNames kind row, ¬(k ≠ 0 ∧ badName k = true))
include hb

omit hp hn ha in
theorem noBadName : ((upFrom 0 (rowNames kind row).length).zip (rowNames kind row)).find? (fun c => c.2 != 0 && badName c.2) = none :=
  find?_indexed_none (fun c => c != 0 && badName c) (rowNames kind row) 0 fun x hx => by simpa using hb x hx

theorem lookName_away {i k : Nat} (hi : (rowNames kind row)[i]? = some k) (hk : k ≠ 0 ∧ nameAt p k = none)
    (hf : ∀ j x, j < i → (rowNames kind row)[j]? = some x → ¬(x ≠ 0 ∧ nameAt p x = none)) :
    lookName s part kind row = (s, 0xE86, i, 0) := by
  have h1 := find?_indexed_some (fun c => c != 0 && (nameAt p c).isNone) (rowNames kind row) 0 i hi (by simpa using hk)
    (fun j y hj hy => Bool.eq_false_iff.2 fun h => hf j y hj hy (by simpa using h))
  rw [Nat.zero_add] at h1
  rw [lookName, hp]
  dsimp only
  rw [hn]
  dsimp only
  rw [ha]
  dsimp only
  rw [show (if kind = true then childNames row else []) = rowNames kind row from rfl, noBadName hb, h1]

variable (hh : ∀ k ∈ rowNames kind row, ¬(k ≠ 0 ∧ nameAt p k = none))
include hh

theorem lookName_fresh : lookName s part kind row =
    match (if p.nameCap ≤ (p.names.filter (fun e => nameSlice s e.name == nameSlice s n)).length then none else freeLine p) with
    | none => (s, 0xE87, 0, 0)
    | some l => (modPart (locWrite (((rowNames kind row).filter (fun c => c != 0)).foldl (fun s c => takeRef s part c) s)
        (.pa (lineAddr p l)) row) part (fun p => { p with names := p.names ++ [⟨n, l, 1⟩] }), 0, 1, n) := by
  have h1 := find?_indexed_none (fun c => c != 0 && (nameAt p c).isNone) (rowNames kind row) 0 fun x hx =>
    Bool.eq_false_iff.2 fun h => hh x hx (by simpa using h)
  rw [lookName, hp]
  dsimp only
  rw [hn]
  dsimp only
  rw [ha]
  dsimp only
  rw [show (if kind = true then childNames row else []) = rowNames kind row from rfl, noBadName hb, h1] <;> rfl

theorem lookName_full (hf : p.nameCap ≤ (p.names.filter (fun e => nameSlice s e.name == nameSlice s n)).length ∨ freeLine p = none) :
    lookName s part kind row = (s, 0xE87, 0, 0) := by
  have hx : (if p.nameCap ≤ (p.names.filter (fun e => nameSlice s e.name == nameSlice s n)).length then none else freeLine p) = none := by
    rcases hf with hf | hf
    · exact if_pos hf
    · rw [hf]
      exact ite_self none
  rw [lookName_fresh hp hn ha hb hh, hx]

/-- A new row: it is written to a free line, has one reference, and takes one on each name that it holds. -/
theorem lookName_stores (hc : (p.names.filter (fun e => nameSlice s e.name == nameSlice s n)).length < p.nameCap) {l : Nat}
    (hl : freeLine p = some l) : ∃ u q, lookName s part kind row = (u, 0, 1, n) ∧ Wrote s u (.pa (lineAddr p l)) row ∧
      (∀ i, i ≠ part → partOf u i = partOf s i) ∧
      { u with mem := s.mem, poison := s.poison, bad := s.bad, parts := s.parts } = s ∧ partOf u part = some q ∧
      { q with names := p.names } = p ∧ nameAt q n = some ⟨n, l, 1⟩ ∧
      ∀ m, m ≠ n → nameAt q m = (nameAt p m).map (fun e =>
        { e with count := Nat.repeat satInc (((rowNames kind row).filter (fun k => k != 0)).count m) e.count }) := by
  have hx : (if p.nameCap ≤ (p.names.filter (fun e => nameSlice s e.name == nameSlice s n)).length then none else freeLine p) = some l := by
    rw [if_neg (Nat.not_le.2 hc), hl]
  have he := lookName_fresh hp hn ha hb hh
  rw [hx] at he
  dsimp only at he
  obtain ⟨k1, k2, k3⟩ := takeRefs_spec hp ((rowNames kind row).filter (fun c => c != 0))
  generalize List.foldl (fun s c => takeRef s part c) s ((rowNames kind row).filter (fun c => c != 0)) = t at he k1 k2 k3
  have hnames := nameAt_takeAll (p := p) ((rowNames kind row).filter (fun c => c != 0))
  refine ⟨_, { takeAll p ((rowNames kind row).filter (fun c => c != 0)) with
    names := (takeAll p ((rowNames kind row).filter (fun c => c != 0))).names ++ [⟨n, l, 1⟩] }, he, ?_, fun i hi => ?_, ?_, ?_, ?_, ?_, fun m hm => ?_⟩
  · have e1 := congrArg State.mem k1
    have e2 := congrArg State.cores k1
    exact (Wrote.of_locWrite t (.pa (lineAddr p l)) row).congr e1.symm e2.symm rfl rfl
  · exact (partOf_modPart_ne _ _ _ _ hi).trans (k2 i hi)
  · have e := congrArg (fun u : State => { u with mem := s.mem, poison := s.poison, bad := s.bad }) k1
    exact e
  · exact (partOf_modPart_same _ _ _).trans (congrArg (Option.map _) k3)
  · exact takeAll_only p _
  · have hq : nameAt (takeAll p ((rowNames kind row).filter (fun c => c != 0))) n = none := by rw [hnames, ha, Option.map_none]
    rw [nameAt] at hq ⊢
    rw [List.find?_append, hq, Option.none_or]
    exact List.find?_cons_of_pos (beq_self_eq_true n)
  · rw [← hnames m, nameAt, List.find?_append, List.find?_cons_of_neg (by simpa using hm.symm), List.find?_nil, Option.or_none]
    rfl

end

/-! NLOOK. -/

/-- NLOOK, where a line that it compares with the row can be read. -/
theorem nlookUop_eq {s : State} {c : Cmd} {p : Partition} {l : List (List Byte)} (hp : partOf s c.part = some p) (hn : l.length = 8)
    (hl : ∀ i x, l[i]? = some x → engGet s c (c.val 0 + BitVec.ofNat 64 (32 * i)) 32 = .ok x)
    (he : ∀ n e, nameRow p ((c.val 1).getLsbD 0) l.flatten = some n → nameAt p n = some e → nameErr s p e = none) :
    let r := lookName (granulesUse s c (c.val 0) 8) c.part ((c.val 1).getLsbD 0) l.flatten
    nlookUop s c = finishName r.1 c r.2.1 r.2.2.1 r.2.2.2 := by
  have hw := Cached.of_engUse s c ((upFrom 0 8).map (fun i => c.val 0 + BitVec.ofNat 64 (32 * i)))
  change Cached _ (granulesUse s c (c.val 0) 8) at hw
  intro r
  rw [nlookUop, granulesAt_ok hn hl, firstStop_oks, hp]
  dsimp only
  rw [bytes_oks]
  cases hx : (nameRow p ((c.val 1).getLsbD 0) l.flatten).bind (nameAt p) with
  | none => rfl
  | some e =>
    obtain ⟨n, h1, h2⟩ := Option.bind_eq_some_iff.1 hx
    dsimp only
    rw [hw.nameErr, he n e h1 h2]

end Sys2Proof.Machine
end

section
/-! What a fired update reads, computes and writes (R354, R355). -/

namespace Sys2Proof.Machine

/-! The lines that it computes. -/

/-- A line of FP32 values. -/
def lineOf (x : Nat → Num) : List Byte := (List.range 64).flatMap (fun i => natBytes (rndFloat (x i) fp32 0 false Rand.zero) 4)

theorem updateOuts_adam {d : OptDesc} (h : dwAlg d.dws = 1) (b0 b1 b2 b3 : List Byte) :
    let x (i : Nat) := adamElem d (fp32At b0 i) (fp32At b1 i) (fp32At b2 i) (fp32At b3 i)
    updateOuts d [b0, b1, b2, b3] = [lineOf (fun i => (x i).1), lineOf (fun i => (x i).2.1), lineOf (fun i => (x i).2.2)] := by
  intro x
  rw [updateOuts]
  dsimp only
  rw [if_pos h]
  simp only [List.getD_cons_zero, List.getD_cons_succ, fp32Line_eq, List.zip_map', List.map_map]
  rw [fp32Bytes_map, fp32Bytes_map, fp32Bytes_map]
  rfl

theorem updateOuts_sgd {d : OptDesc} (h : dwAlg d.dws ≠ 1) (b0 b1 b2 : List Byte) :
    let x (i : Nat) := sgdElem d (fp32At b0 i) (fp32At b1 i) (fp32At b2 i)
    updateOuts d [b0, b1, b2] = [lineOf (fun i => (x i).1), lineOf (fun i => (x i).2)] := by
  intro x
  rw [updateOuts]
  dsimp only
  rw [if_neg h]
  simp only [List.getD_cons_zero, List.getD_cons_succ, fp32Line_eq, List.zip_map', List.map_map]
  rw [fp32Bytes_map, fp32Bytes_map]
  rfl

section
variable {s : State} {part : Nat} {p : Partition} {u : Update}

/-! An update that runs. -/

/-- The lines that an update reads. -/
def updateIns (s : State) (part : Nat) (u : Update) : List (List Byte) :=
  (updateReads u).map (fun a => (updateAns s part u a 256 false).bytes)

/-- An update all of whose accesses can be made takes effect. -/
theorem runUpdate_good (hf : u.fail = none) (hr : ∀ a ∈ updateReads u, (updateAns s part u a 256 false).good = true)
    (hw : ∀ a ∈ updateWrites u, (updateAns s part u a 256 true).good = true)
    (ht : dwNm u.desc.dws = true → (updateAns s part u (tableIpa u.desc u.ipa) 16 true).good = true)
    (hn : namingErr s part u ((updateOuts u.desc (updateIns s part u)).headD []) = none) :
    runUpdate s part u = applyUpdate s part u (updateIns s part u) := by
  have hins : ((updateReads u).map (fun a => (a, updateAns s part u a 256 false))).map (fun p => p.2.bytes) = updateIns s part u :=
    List.map_map ..
  have hstop : (((updateReads u).map (fun a => (a, updateAns s part u a 256 false))) ++
      ((updateWrites u).map (fun a => (a, updateAns s part u a 256 true)) ++
        if dwNm u.desc.dws = true then [(tableIpa u.desc u.ipa, updateAns s part u (tableIpa u.desc u.ipa) 16 true)] else [])).find?
      (fun p => !p.2.good) = none := by
    refine List.find?_eq_none.2 fun x hx => ?_
    have hx : x.2.good = true := by
      rcases List.mem_append.1 hx with hx | hx
      · obtain ⟨a, ha, rfl⟩ := List.mem_map.1 hx
        exact hr a ha
      · rcases List.mem_append.1 hx with hx | hx
        · obtain ⟨a, ha, rfl⟩ := List.mem_map.1 hx
          exact hw a ha
        · split at hx
          · rw [List.mem_singleton.1 hx]
            exact ht ‹_›
          · cases hx
    rw [hx]
    decide
  rw [runUpdate, hf]
  dsimp only
  rw [hins, hstop, hn]

theorem namingErr_none (hp : partOf s part = some p) {row : List Byte}
    (h : dwNm u.desc.dws = true → ∀ e, (nameRow p false row).bind (nameAt p) = some e → nameErr s p e = none) :
    namingErr s part u row = none := by
  unfold namingErr
  split
  · rw [hp, Option.bind_some]
    cases he : (nameRow p false row).bind (nameAt p) with
    | none => rfl
    | some e =>
      rw [Option.bind_some, h ‹_› e he]
      rfl
  · rfl

/-! Its effects. -/

/-- The B lines written, then the name's entry in the table. -/
def updateNamed (s : State) (part : Nat) (u : Update) (row : List Byte) : State :=
  if dwNm u.desc.dws = true then
    updatePut (lookName s part false row).1 part u (tableIpa u.desc u.ipa) (natBytes (lookName s part false row).2.2.2 16)
  else s

/-- The count at the barrier of an update. -/
def updateCounted (s : State) (part : Nat) (u : Update) : State :=
  if dwBc u.desc.dws = true ∧ ((partOf s part).map (fun p => isBarrier p (u.desc.dw 9).toNat)).getD false = true ∧
      refusesCounts s part (u.desc.dw 9).toNat = false ∧ countError s part (u.desc.dw 9).toNat = none then
    countBytes s part (u.desc.dw 9).toNat 256
  else s

theorem updateCounted_eq (s : State) (part : Nat) (u : Update) :
    (if (dwBc u.desc.dws && ((partOf s part).map (fun p => isBarrier p (u.desc.dw 9).toNat)).getD false &&
      !refusesCounts s part (u.desc.dw 9).toNat && (countError s part (u.desc.dw 9).toNat).isNone) = true then
      countBytes s part (u.desc.dw 9).toNat 256 else s) = updateCounted s part u := by
  refine if_congr ?_ rfl rfl
  rw [Bool.and_eq_true, Bool.and_eq_true, Bool.and_eq_true, Bool.not_eq_true', Option.isNone_iff_eq_none, and_assoc, and_assoc]

theorem Cached.of_reads (part asid gen : Nat) (l : List Nat) (s : State) :
    Cached s (l.foldl (fun s a => useLeaf s part asid gen (.ipa a)) s) := by
  induction l generalizing s with
  | nil => exact Cached.refl s
  | cons a l ih => exact (Cached.of_useLeaf s part asid gen (.ipa a)).trans (ih _)

theorem applyUpdate_spec (s : State) (part : Nat) (u : Update) (ins : List (List Byte)) :
    ∃ v, Cached s v ∧ applyUpdate s part u ins = dropUpdate (updateCounted (updateNamed
      (((updateWrites u).zip (updateOuts u.desc ins)).foldl (fun s x => updatePut s part u x.1 x.2) v) part u
      ((updateOuts u.desc ins).headD [])) part u) part u.id := by
  refine ⟨_, Cached.of_reads part u.desc.asid u.desc.gen (updateReads u) s, ?_⟩
  rw [← updateCounted_eq]
  rfl

end

end Sys2Proof.Machine
end

section
/-! O36, from what is said above of each engine. -/

namespace Sys2Proof.Machine

/-- Settles O36: engine by engine, each clause from the lemma that says what the micro-operation does in that case. -/
theorem engineCompletion : Obligations.EngineCompletion := by
  unfold Obligations.EngineCompletion
  refine ⟨?_, ?_, ?_, ?_, ?_, ?_, ?_, ?_, ?_, ?_, ?_⟩
  -- the status words
  · intro s c hc hr k
    exact ⟨fun he ho => mstat_spec ⟨hc, he, hr⟩ ho, fun he ho hf => copyStat_spec ⟨hc, he, hr⟩ ho hf⟩
  -- the matrix engine
  · intro s c h hU t e k rd ends goes ks nkg ncg blocks passes pat scale starts
    have hpat : ∀ g j x, bRaw (spView s c.core) c.img c.fmt g j x = (pat g j x, scale g j x) := by
      intro g j x
      simp only [bRaw, intB, Bool.or_eq_true, beq_iff_eq]
      rfl
    refine ⟨?_, ?_, ?_, ?_, ?_, ?_, ?_, ?_⟩
    -- MMA starts
    · intro ho hu
      exact mmaStart_spec h (by rw [h.matrix]; simp [matrixUop, ho, hu, t])
    -- MMAG starts
    · intro ho hu l
      have hl : l = mmagCounts s c := (countsOf_eq _ _).symm
      have hm : microOp s c = mmagStart s c := by rw [h.matrix]; simp [matrixUop, ho, hu, t]
      refine ⟨fun g hg h1 h2 => h.next ?_, fun h1 h2 => h.next ?_, fun h1 h2 => ?_⟩
      · rw [hl] at h1 h2
        rw [hm, mmagStart_ragged hU hg h1 h2]
      · rw [hl] at h1 h2
        rw [hm, mmagStart_fits hU h1, if_pos (by rw [uopCount_eq]; exact h2)]
      · rw [hl] at h1 h2
        refine mmaStart_spec h ?_
        rw [hm, mmagStart_fits hU h1, if_neg (by rw [uopCount_eq]; exact Nat.not_le.2 h2), hl]
    -- a pass of MMA or MMAG
    · intro l r n cg kg b ho hw hc hk hb hu g rows cols m steps av bv sum add fresh out val
      have hm := h.matrix.trans (matrixUop_pass ho hw hc hk hb hu)
      generalize hp : (⟨l.length, cg, kg, l.sum + 64 * b, min (l.sum + 64 * b + 64) (l.sum + n)⟩ : MxUop) = p at hm
      have hrows : upFrom p.lo (p.hi - p.lo) = rows := by rw [← hp]; exact passRows_eq _ _ n b rfl hb
      have hcols : upFrom (64 * p.cg) (min 64 (mxN c.img - 64 * p.cg)) = cols := by rw [← hp]; exact upFrom_eq _ _
      have hadd : ∀ i j, add i j = mmaSum s c p i j := by
        intro i j
        have hA : aVals (spView s c.core) c.img c.fmt i (kg * ks) m = av i := by
          simp only [aVals, upFrom_eq, List.map_map, av, steps]
          rfl
        have hB : mmaCol s c p j = bv j := by
          rw [← hp]
          simp only [mmaCol, upFrom_eq, bv, steps, List.map_map, Function.comp_def, hpat, Nat.zero_add, List.map_id']
          rfl
        have hs : mmaSum s c p i j = rndFloat ((Num.sum (List.zipWith Num.mul (aVals (spView s c.core) c.img c.fmt i (kg * ks) m)
            (mmaCol s c p j) ++ if m < ks then [.fin false 0 0] else [])).mul (tileScale t)) fp32 0 false Rand.zero := by
          rw [← hp, mmaSum, exactSum_eq]
          rfl
        rw [hs, hA, hB]
      have hout : ∀ v, out v = mmaRows c p v := by
        intro v
        rw [mmaRows, hrows, hcols, ← hp]
      refine ⟨fun hf => ?_, fun hf => ?_⟩
      · have hv : val = fun i j => addFp32 0 (mmaSum s c p i j) := funext fun i => funext fun j => congrArg (addFp32 0) (hadd i j)
        have hs : mmaVals s c p = rows.flatMap (fun i => cols.map (fun j => decNum 0 (val i j))) := by
          rw [mmaVals, hrows, hcols, hv]
        obtain ⟨u, hu, e⟩ := hU.writeRows_eq (out val)
          (fun s' => goOn (setSticky s' c.core (accSticky (mmaVals s c p))) c (c.upc + 1))
        refine ⟨u, hu, h.goes hu.cmds ?_⟩
        rw [hm, mmaUop_fresh hU p hf.1 (by rw [← hp]; exact hf.2), ← hv, ← hout, e, setSticky_eq hu.cores, hs]
      · obtain ⟨u, hu, e⟩ := hU.addRows_eq (out add) (fun s => goOn s c (c.upc + 1))
        refine ⟨u, hu, h.goes hu.cmds ?_⟩
        have hs : add = mmaSum s c p := funext fun i => funext fun j => hadd i j
        rw [hm, mmaUop_adds hU p (by rw [← hp]; exact hf), ← hout, ← hs, e]
    · intro ho hu
      exact h.ends rfl (by rw [h.matrix, matrixUop_end (.inl ho) hu, if_pos ho])
    · intro ho hu
      exact h.ends rfl (by rw [h.matrix, matrixUop_end (.inr ho) hu, if_neg (by rw [show mxOp c.img = 2 from ho]; decide)])
    -- MWLD
    · intro ho m cells
      have hc : mwldCells s c = cells.map (fun p => (pat 0 p.1 p.2, scale 0 p.1 p.2)) := by
        simp only [mwldCells, cells, List.map_flatMap, List.map_map, Function.comp_def, hpat]
        rfl
      refine h.ends rfl ?_
      rw [h.matrix, show matrixUop s c = mwldUop s c by simp [matrixUop, show mxOp c.img = 3 from ho], mwldUop_eq hU, hc, List.map_map,
        List.map_map]
      rfl
    -- MDRAIN and MZERO
    · intro ho place rows
      have hrows : rowBlock c.img (c.upc - 1) = rows := rowBlock_eq _ _
      refine ⟨fun hu => ?_, fun h1 h2 ho => ?_, fun h1 h2 ho => ?_, fun hu => ?_⟩
      · refine h.goes rfl ?_
        rcases ho with ho | ho <;> rw [h.matrix] <;> simp [matrixUop, show mxOp c.img = _ from ho, hu]
      · intro row xs sat made nan past full
        have hrow : ∀ i, accRow s c i = row i := fun i => countsOf_eq _ _
        have hfull : ∀ i, drainBytes c.img (accRow s c i) = full i := by
          intro i
          rw [hrow]
          rfl
        have hbits : ∀ i, drainSticky c.img (accRow s c i) =
            ((if nan i = true then 8#4 else 0#4) ||| if past i = true then 4#4 else 0#4) := by
          intro i
          rw [hrow, drainSticky_eq]
          rfl
        obtain ⟨u, hu, e⟩ := hU.writeRows_eq (rows.map (fun i => (mxDof t + i * mxDstr t, full i)))
          (fun s' => modCmd (setSticky s' c.core (rows.foldl (fun b i => b ||| drainSticky c.img (accRow s c i)) 0#4)) c.id (fun d =>
            { d with upc := d.upc + 1, counted := d.counted + (rows.map (fun i => (drainBytes c.img (accRow s c i)).length)).sum }))
        have hd : matrixUop s c = drainUop s c := by
          have : c.upc ≤ cdiv (mxM c.img) 64 := h2
          simp [matrixUop, show mxOp c.img = 4 from ho, Nat.ne_of_gt h1, this]
        refine ⟨u, hu, h.mods (fun d => { d with upc := d.upc + 1, counted := d.counted + (rows.map (fun i => (full i).length)).sum })
          (fun _ => rfl) hu.cmds ?_⟩
        rw [h.matrix, hd, drainUop_eq hU]
        simp only [hrows, hfull, hbits, foldl_or_bits] at e ⊢
        rw [e, setSticky_eq hu.cores]
      · obtain ⟨u, hu, e⟩ := hU.writeRows_eq (rows.map (fun i => (place i, List.replicate (4 * mxN t) 0#8)))
          (fun s => goOn s c (c.upc + 1))
        refine ⟨u, hu, h.goes hu.cmds ?_⟩
        have hz : matrixUop s c = zeroUop s c := by
          have : c.upc ≤ cdiv (mxM c.img) 64 := h2
          simp [matrixUop, show mxOp c.img = 5 from ho, Nat.ne_of_gt h1, this]
        rw [h.matrix, hz, zeroUop_eq, hrows, natBytes_zero, e]
      · have h0 : c.upc ≠ 0 := by omega
        have h1 : ¬c.upc ≤ cdiv (mxM c.img) 64 := Nat.not_le.2 hu
        refine h.ends rfl ?_
        rcases ho with ho | ho <;> rw [h.matrix] <;> simp [matrixUop, show mxOp c.img = _ from ho, h0, h1, show mxOp t = _ from ho] <;> rfl
    -- MFENCE
    · intro ho
      have hm : matrixUop s c = if matrixFar s c.core then finish s c 0 0 else s := by
        simp [matrixUop, show mxOp c.img = 8 from ho]
      refine ⟨fun hf => h.ends rfl ?_, fun ⟨a, ha, h1, h2, h3⟩ => h.next ?_⟩
      · rw [h.matrix, hm, if_pos ((matrixFar_iff s c.core).2 hf)]
      · rw [h.matrix, hm, if_neg (fun hf => (matrixFar_iff s c.core).1 hf a ha h1 h2 h3)]
  -- runs of a granule
  · exact fun l hl a b => lastByte_iff_run l hl a b
  -- the copy engine
  · intro s c h hU t op w k n whole inner onward ends idles faults read writes
    have hwrites : ∀ a data (d : List (Word × List Byte) → Cmd → Cmd), (∀ l x, (d l x).id = x.id) → a % 32 = 0 → data.length % 32 = 0 →
        (microOp s c = scatter s c (elemWrites c.window a data) (fun s => modCmd s c.id (d (elemWrites c.window a data)))) →
        writes a data (fun l => d l c) := by
      intro a data d hd ha hn hm
      have he := elemWrites_eq c ha hn
      intro h1 h2
      exact h.scatters hU ha hn (d _) (hd _) (hm.trans (by rw [he])) h1 h2
    refine ⟨?_, ?_, ?_, ?_, ?_, ?_, ?_, ?_, ?_, ?_, ?_, ?_⟩
    · intro hu ho
      refine h.goes rfl ?_
      rw [h.copy, copyUop_start (by intro h; simp [op, t, h] at ho) hu, copyStart_plain ho, hu]
    · intro hu ho b list
      have h11 : cpOp c.img ≠ 11 := by rcases ho with ho | ho <;> simp [show cpOp c.img = _ from ho]
      have hs : copyStart s c = loadIndex s c := by rcases ho with ho | ho <;> simp [copyStart, show cpOp c.img = _ from ho]
      exact h.mods (fun d => { d with
        upc := c.upc + 1, list := list
        locks := if cpOp d.img = 4 then copyLocks s d.core d.img (windowOf c.img c.lrec list) d.writes false else none })
        (fun _ => rfl) rfl (by rw [h.copy, copyUop_start h11 hu, hs, loadIndex_eq hU hu])
    · intro hu ho p hp
      have hs : microOp s c = copyStart s c := by rw [h.copy, copyUop_start (by simp [show cpOp c.img = 8 from ho]) hu]
      refine ⟨fun hb => h.goes rfl ?_, fun code hb => h.next ?_⟩
      · rw [hs, copyStart_bar ho hp hb, hu]
      · rw [hs, copyStart_barFault ho hu hp hb]
    -- a granule in
    · intro hu hn ho hd val hr
      obtain ⟨v, u, data, hv, hs, hw, e⟩ := copyIn_spec hU hd (show Reads s c (32 * (c.upc - 1)) 32 val from hr)
      exact ⟨v, u, data, hv, hs, hw, h.goes (hw.cmds.trans hv.cmds) (by rw [h.copy, copyUop_in ho hu hn, e])⟩
    -- a granule out
    · intro hu hn ho
      refine hwrites _ _ (fun _ d => { d with upc := c.upc + 1 }) (fun _ _ => rfl) (by omega) (by rw [spView_length]) ?_
      rw [h.copy, copyUop_out ho hu hn, copyOut_eq hU]
      rfl
    -- CPY.BAR's granule, then its count
    · intro hu hn ho hw
      refine hwrites _ _ (fun l d => { d with work := [(l.map (fun p => p.2.length)).sum] }) (fun _ _ => rfl) (by omega)
        (by rw [spView_length]) ?_
      rw [h.copy, copyUop_bar ho hu hn, copyBar_eq hU _ hw]
    · intro hu hn ho m r p hw hp ha hh b
      have hm : microOp s c = barCount s c m := by rw [h.copy, copyUop_bar ho hu hn, copyBar_count hw]
      refine ⟨fun hr => ?_, fun hr hz h1 h2 hb hba hwt => ?_⟩
      · exact h.mods (fun d => { d with upc := d.upc + 1, work := [], refused := true }) (fun _ => rfl) rfl
          (by rw [hm, barCount_refused hp ha (countHeld_false hh) m hr])
      · have hc := countBytes_eq hp hz hba hb hwt
        have hf : b.b < 2 ^ 31 := (barrierAt_fits p (cpBar c.img)).2.2.2.2.2
        obtain ⟨k1, k2, k3⟩ := countAt_parts (addr := cpBar c.img) hp { b with b := b.b - m }
        have hu : (countBytes s c.part (cpBar c.img) m).cmds = s.cmds := by
          rw [hc]
          have e := congrArg State.cmds k1
          exact e
        refine ⟨countBytes s c.part (cpBar c.img) m, putBarrier p (cpBar c.img) { b with b := b.b - m }, h.mods (fun d => { d with upc := d.upc + 1, work := [], counted := d.counted + m })
          (fun _ => rfl) hu (by rw [hm, barCount_counts hp ha (countHeld_false hh) m hr hz h1 h2]), ?_⟩
        rw [hc]
        exact ⟨k1, k2, k3, putBarrier_only _ _ _, (countAt_eq hp _ hba hb (by omega) hwt).2⟩
    · intro hu
      refine ⟨fun ho => h.ends rfl (by rw [h.copy, copyUop_whole ho hu]), fun ho => h.ends rfl ?_, fun ho => h.ends rfl ?_⟩
      · rw [h.copy, copyUop_inner ho hu, insideBytes_eq]
      · rw [h.copy, copyUop_barEnd ho hu]
    -- CPY.RING
    · intro ho hu out count
      have hm : microOp s c = if n < count then (if out = true then ringOut s c n else ringIn s c n)
          else finish s c 0 (if out = true then inner else whole) := by
        rw [h.copy, copyUop_ring ho hu, insideBytes_eq]
        rfl
      refine ⟨fun he => ?_, fun hn hout hl => ?_, fun p hp hn => ⟨fun hout hl => ⟨fun h0 => ?_, fun h0 => ?_⟩, fun hout val hr =>
        ⟨fun hc => ?_, fun hc ha => ?_⟩⟩⟩
      · exact h.ends rfl (by rw [hm, if_neg (by omega)])
      · refine hwrites _ _ (fun _ d => { d with upc := c.upc + 1 }) (fun _ _ => rfl) (by omega) (by rw [List.length_drop]; omega) ?_
        rw [hm, if_pos hn, if_pos hout, ringOut_writes hl]
        rfl
      · exact h.next (by rw [hm, if_pos hn, if_pos hout, ringOut_waits hl hp h0])
      · exact h.mods (fun d => { d with elem := d.elem ++ spView s c.core (256 * (p.base + p.head)) 256 }) (fun _ => rfl) rfl
          (by rw [hm, if_pos hn, if_pos hout, ringOut_pops hU hl hp h0]; rfl)
      · exact h.next (by rw [hm, if_pos hn, if_neg (by simp [hout]), ringIn_waits (val := val) hr hp hc])
      · obtain ⟨u, data, h1, h2, h3, h4, h5, h6⟩ := ringIn_spec (val := val) hU hr hp hc ha
        refine ⟨u, data, h1, h.goes ?_ (by rw [hm, if_pos hn, if_neg (by simp [hout]), h2]), h3, h4, h5, h6⟩
        have e := congrArg State.cmds h5
        exact e
    -- CPY.T
    · intro ho
      refine ⟨fun a b r hb => ⟨w.turned_eq hb, fun i j q hi hj => w.turnBack_eq hb q hi hj⟩, fun hu hn hd => ?_, fun hu => ?_⟩
      · obtain ⟨u, data, h1, h2, h3⟩ := turnGranule_spec hU hd (n - w.set)
        exact ⟨u, data, h1, h2, h.goes h2.cmds (by rw [h.copy, copyUop_turn ho hu hn, h3])⟩
      · exact h.ends rfl (by rw [h.copy, copyUop_turnEnd ho hu])
    -- CPY.FOLLOW
    · intro ho hu
      have hm : microOp s c = placeFollow s c whole := by rw [h.copy, copyUop_follow ho hu]
      refine ⟨fun h6 => h.ends rfl (by rw [hm, placeFollow_format h6]), fun h6 hq => h.next (by rw [hm, placeFollow_full h6 hq]),
        fun h6 hq => ⟨followCmd s c, (finish s c 0 whole).cmds, h.next (by rw [hm, placeFollow_places h6 hq]), fun n hn => cmdOf_finish_ne s c _ _ hn,
        cmdOf_finish_same _ _ h.1, rfl, rfl, rfl, rfl, rfl, rfl, rfl, rfl, rfl, rfl, rfl, rfl, rfl, rfl, rfl, rfl⟩⟩
    -- LREC
    · intro ho hu a put
      have hm : microOp s c = loadRecord s c := by rw [h.copy, copyUop_record ho hu]
      refine ⟨fun b0 b1 b2 h0 h1 h2 => ?_, fun code ipa l leaf h0 hc hl hs => ?_⟩
      · obtain ⟨v, hv, e⟩ := loadRecord_ok h0 h1 h2
        exact ⟨v, hv, h.ends hv.cmds (by rw [hm, e]; rfl)⟩
      · exact h.ends rfl (by rw [hm, loadRecord_marks h0 hc hl hs]; rfl)
  -- Prism
  · intro s c h t op ch ident die rd finished ends goes idles faults
    refine ⟨?_, ?_, ?_, ?_, ?_, ?_, ?_, ?_, ?_, ?_, ?_⟩
    -- XSORT
    · intro ho hU key before mine kept experts good beyond puts
      have hputs : ∀ rows, microOp s c = writeRows s c (rows.filter (fun p => !p.2.isEmpty)) (fun s => goOn s c (c.upc + 1)) →
          puts rows := by
        intro rows hm
        obtain ⟨u, hu, e⟩ := hU.filledRows_eq rows (fun s => goOn s c (c.upc + 1))
        exact ⟨u, hu, h.goes hu.cmds (hm.trans e)⟩
      refine ⟨fun hu => ⟨fun i x hi hx hj => h.next ?_, fun hl => ?_⟩, fun hu => hputs _ ?_, fun hu => hputs _ ?_,
        fun hu => hputs _ ?_, fun hu => h.ends rfl ?_⟩
      · rw [h.xsort ho, sortUop_bad hU hu hi hx hj]
      · obtain ⟨m, e, h1, h2⟩ := sortUop_sorts hU hu hl
        exact ⟨m, h.mods (fun c => { c with upc := 1, work := m }) (fun _ => rfl) rfl (by rw [h.xsort ho, e]), h1, h2⟩
      · rw [h.xsort ho, sortUop_kept s c hu]
        rfl
      · rw [h.xsort ho, sortUop_counts s c hu]
        rfl
      · rw [h.xsort ho, sortUop_beyond s c hu]
        rfl
      · rw [h.xsort ho, sortUop_end s c hu]
        rfl
    -- XA2A
    · intro ho np me bar
      refine ⟨fun hw hU p hp => ?_, fun hw hr => h.next (by rw [h.xa2a ho, a2aUop_waits hw hr]), fun hw rows hr => ?_⟩
      · have hm : microOp s c = a2aSend s c := (h.xa2a ho).trans (a2aUop_sends hw)
        intro word peers counts others row
        refine ⟨fun hn => h.next ?_, fun hn code hb => h.next ?_, fun hn hb hq => ?_⟩
        · rw [hm, a2aSend_large hU hn]
          rfl
        · rw [hm, a2aSend_unbound hU hp hn hb]
        · exact h.mods (fun x => { x with work := rowWork s c, list := _ }) (fun _ => rfl) rfl (hm.trans (a2aSend_sends hU hp hn hb hq))
      · intro cnt due dropped unlike large
        refine ⟨fun hu => ⟨fun hx => h.ends rfl ?_, fun hx hl => h.ends rfl ?_, fun hx hl => h.goes rfl ?_⟩, fun hu p hp => ?_,
          fun h1 h2 hf => ?_, fun hu hf => h.ends rfl ?_⟩
        · rw [h.xa2a ho, a2aUop_checks hw hr hu, if_neg (fun he => (rowsAgree_iff _ _).1 he hx)]
          rfl
        · rw [h.xa2a ho, a2aUop_checks hw hr hu, if_pos ((rowsAgree_iff _ _).2 hx), if_pos ((overCapacity_iff _).2 hl)]
          rfl
        · rw [h.xa2a ho, a2aUop_checks hw hr hu, if_pos ((rowsAgree_iff _ _).2 hx), if_neg (fun he => hl ((overCapacity_iff _).1 he)), hu]
        · have hm : microOp s c = a2aPost s c rows := (h.xa2a ho).trans (a2aUop_posts hw hr hu)
          refine ⟨fun hb => h.next (by rw [hm, a2aPost_unbound hp hb]), fun hb hz => h.next (by rw [hm, a2aPost_poisoned hp hb hz]),
            fun hb hz k1 k2 hU hh ha hn hq => ?_⟩
          obtain ⟨u, v, g1, g2, g3, g4, g5, g6⟩ := a2aPost_spec (rows := rows) hp hb hz k1 k2 hU (countHeld_false hh) ha hn hq
          rw [table_eq] at g1
          refine ⟨u, v, _, g1, h.goes ?_ (by rw [hm, g2]), g3, g4, g5, putBarrier_only _ _ _, g6⟩
          have e := congrArg State.cmds g3
          exact e.trans g1.cmds
        · intro r counts node x
          have hm : microOp s c = a2aPiece s c rows r := (h.xa2a ho).trans (a2aUop_piece hw hr h1 h2)
          refine ⟨fun hn => h.goes rfl (by rw [hm, a2aPiece_empty (piecesFlying_false hf) hn]), fun hn hU hc hd => h.goes rfl ?_⟩
          rw [hm, a2aPiece_sends (piecesFlying_false hf) hU hn hc hd, columnOf_eq, sum_take_range]
          rfl
        · rw [h.xa2a ho, a2aUop_end hw hr hu (piecesFlying_false hf)]
          rfl
    -- XCH.OPEN
    · intro ho hd
      have hm : microOp s c = _ := (h.xopen ho).trans (openUop_send hd)
      refine ⟨fun hk => h.next ?_, fun hk hn => h.next ?_, fun hk hn => h.ends rfl ?_⟩
      · rw [hm, if_pos (Option.isSome_iff_ne_none.2 hk)]
        rfl
      · rw [hm, if_neg (by rw [show kget s.sends (xeChan c.img) = none from hk]; decide), if_pos hn]
        rfl
      · rw [hm, if_neg (by rw [show kget s.sends (xeChan c.img) = none from hk]; decide), if_neg (by rw [hn]; decide)]
    · intro ho hd
      have hm : microOp s c = _ := (h.xopen ho).trans (openUop_recv hd)
      refine ⟨fun hk => h.next ?_, fun hk hn => h.next ?_, fun hk hn => h.ends rfl ?_⟩
      · rw [hm, if_pos (Option.isSome_iff_ne_none.2 hk)]
        rfl
      · rw [hm, if_neg (by rw [show kget s.recvs (xeChan c.img) = none from hk]; decide), if_pos hn]
        rfl
      · rw [hm, if_neg (by rw [show kget s.recvs (xeChan c.img) = none from hk]; decide), if_neg (by rw [hn]; decide)]
    · exact fun ho hu hr => h.next (recvWord_faults h hu (ownRecv_none hr) ho)
    · exact fun ho hu hx => h.next (sendWord_faults h hu (ownSend_none hx) ho)
    -- the words of a receive channel
    · intro r hr h1 h2 put
      refine ⟨fun ho hu hn => h.goes rfl ?_, fun ho hw => h.mods (fun c => { c with work := [r.rcv + xeN t * r.rsz] }) (fun _ => rfl) rfl ?_,
        fun ho target l hw => ?_, fun ho hd hn => h.ends rfl ?_, fun ho hs => h.ends rfl ?_⟩
      · rw [h.xwin ho, winUop_sends hr h1 h2 hu hn, hu]
      · rw [h.xrecv ho, recvUop_takes hr h1 h2 hw]
      · have hm : microOp s c = _ := (h.xrecv ho).trans (recvUop_target hr h1 h2 hw)
        refine ⟨fun ht => h.ends rfl ?_, fun ht he => h.ends rfl ?_, fun ht he => h.goes rfl ?_⟩
        · rw [hm, if_pos ht]
        · rw [hm, if_neg (Nat.not_le.2 ht), if_pos (Option.isSome_iff_ne_none.2 he)]
        · rw [hm, if_neg (Nat.not_le.2 ht), if_neg (by rw [he]; decide)]
      · rw [h.xclose ho, closeUop_recv hr h1 h2 hd hn]
      · rw [h.xstat ho, statUop_recv hr h1 h2 hs]
    · intro ho hu
      have hm : microOp s c = _ := (h.xwin ho).trans (winUop_waits hu)
      refine ⟨fun hx => h.next ?_, fun hx => h.ends rfl ?_⟩
      · rw [hm, if_pos (by simpa [List.any_eq_true] using hx)]
      · rw [hm, if_neg (by simpa [List.any_eq_true] using hx)]
    -- the words of a send channel
    · intro x hx h1 h2 flies known wend closed
      refine ⟨fun ho hu hn => h.goes rfl ?_, fun ho hu hn hb => ?_, fun ho hu => ?_, fun ho hd hb => h.next ?_,
        fun ho hd hb hn => h.ends rfl ?_, fun ho => ⟨fun hs => h.ends rfl ?_, fun hs => h.ends rfl ?_⟩⟩
      · rw [h.xsend ho, sendUop_starts hx h1 h2 hu hn, hu]
      · have hm : microOp s c = _ := (h.xsend ho).trans (sendUop_record hx h1 h2 hu hn hb)
        have hc : receiverClosed s (xeChan c.img) x = true ↔ closed := receiverClosed_iff h2 _
        refine ⟨fun k hf => h.next ?_, fun k hf => h.next ?_, fun k hw => h.next ?_, fun k hw hh hr hU => h.goes rfl ?_⟩
        · rw [hm, sendRecord_closed (hc.2 k), if_pos ((inFlight_isEmpty s c.id).2 hf)]
        · rw [hm, sendRecord_closed (hc.2 k), if_neg (fun he => (inFlight_isEmpty s c.id).1 he hf)]
        · rw [hm, sendRecord_waits h2 (Bool.eq_false_iff.2 fun he => k (hc.1 he)) hw]
        · rw [hm, sendRecord_sends h2 hU (Bool.eq_false_iff.2 fun he => k (hc.1 he)) hw hh hr]
      · have hm : microOp s c = _ := (h.xsend ho).trans (sendUop_ends hx h1 h2 hu)
        refine ⟨fun hf => h.next ?_, fun hf => h.ends rfl ?_⟩
        · rw [hm, if_neg (fun he => (inFlight_isEmpty s c.id).1 he hf)]
        · rw [hm, if_pos ((inFlight_isEmpty s c.id).2 hf)]
      · rw [h.xclose ho, closeUop_waits hx h1 h2 hd hb]
      · rw [h.xclose ho, closeUop_send hx h1 h2 hd hb hn]
      · rw [h.xstat ho, statUop_sof hx h1 h2 hs]
      · rw [h.xstat ho, statUop_wend hx h1 h2 hs]
    · exact fun ho => ⟨fun hs => h.ends rfl (by rw [h.xstat ho, statUop_links hs]), fun hs => h.ends rfl (by rw [h.xstat ho, statUop_place hs])⟩
    -- XRING.RS and XRING.AG
    · intro ho rg q es size lo len own head sends gone taken
      have hring := h.xring ho
      refine ⟨fun hu hr => h.next ?_, fun hu hr => ?_, fun ho hu hk hr hU => ?_, fun ho hu hk hr hU => ?_, fun hk hu => h.ends rfl ?_⟩
      · rw [hring, ringUop_start hu, ringHeaders_none hr]
      · intro lone
        have hm : microOp s c = _ := (hring.trans (ringUop_start hu)).trans (ringHeaders_joined hr)
        refine ⟨fun hw => h.mods (fun c => { c with work := [1] }) (fun _ => rfl) ?_ ?_, fun hw hl => h.next ?_, fun hw hl ha => h.goes rfl ?_,
          fun hw hl ha => h.ends rfl ?_⟩
        · split <;> rfl
        · rw [hm, if_pos (by rw [hw]; rfl)]
          rfl
        · rw [hm, if_neg (by simpa using hw), if_pos hl]
        · rw [hm, if_neg (by simpa using hw), if_neg (Nat.not_lt.2 hl), if_pos ((headersAgree_iff _ (ringHeader s c)).2 ha)]
        · rw [hm, if_neg (by simpa using hw), if_neg (Nat.not_lt.2 hl), if_neg (fun he => ?_)]
          obtain ⟨x, hx, hn⟩ := ha
          exact hn ((headersAgree_iff _ (ringHeader s c)).1 he x hx)
      · have hm : microOp s c = _ := hring.trans (ringUop_scatter ho hu hk)
        intro j vals
        refine ⟨fun h1 hj => h.next (by rw [hm, scatterUop_waits h1 hj]), fun l h1 h2 => ?_⟩
        have hl : ∃ held, scatterHeld s c c.upc = some held ∧ scatterSum s c c.upc held = l := by
          by_cases h0 : c.upc = 1
          · exact ⟨none, if_pos h0, (h1 h0).symm⟩
          · obtain ⟨m, e, hl⟩ := h2 (by omega)
            exact ⟨some m, (if_neg h0).trans (by rw [show kget (ringOf s c).chunks (scatterChunk s c.upc) = some m from e]; rfl), hl.symm⟩
        obtain ⟨held, e, hl⟩ := hl
        refine ⟨fun hk => h.goes rfl ?_, fun hk => ?_⟩
        · rw [hm, scatterUop_passes hU e hk (hr hk), hl]
          rfl
        · obtain ⟨u, hu, g⟩ := scatterUop_writes hU e hk
          rw [hl] at hu
          exact ⟨u, hu, h.goes hu.cmds (by rw [hm, g]; rfl)⟩
      · have hm : microOp s c = _ := hring.trans (ringUop_gather ho hu hk)
        intro j vals
        refine ⟨fun h1 hj => h.next (by rw [hm, gatherUop_waits h1 hj]), fun l hl => ?_⟩
        have e : gatherData s c c.upc = some l := by
          unfold gatherData
          split at hl
          · rw [if_pos ‹_›, hl]
            rfl
          · rw [if_neg ‹_›]
            exact hl
        obtain ⟨u, hu, g⟩ := gatherUop_spec hU e hr
        refine ⟨u, hu, h.goes ?_ (by rw [hm, g]; rfl)⟩
        split <;> exact hu.cmds
      · rw [hring, ringUop_end hu hk]
        rfl
  -- what a stash form expands to
  · exact fun line fmt es etype b h2 _ hb => expandForm_storeForm line fmt etype h2 hb
  -- the stash engine
  · intro s c p h hp hb key d at_ here onward ends waits ahead turn put stored gone need fits takes total sound word
    have hp' : partOf (stashState s c) (stashHere s c).part = some p := by rw [partOf_stashState, stashHere_part]; exact hp
    have hends : ∀ {u v : State} {code value : Nat}, microOp s c = finish u (stashHere s c) code value →
        u.cmds = (stashState s c).cmds → { u with cmds := s.cmds } = v → ends v code value := by
      intro u v code value hm hc hv
      exact h.arrived (fun x => { x with phase := .finished, code := code, value := value }) (fun _ => rfl) hc hv hm
    have hended : ∀ {code value : Nat}, microOp s c = finish (stashState s c) (stashHere s c) code value → ends at_ code value :=
      fun hm => hends hm rfl (stashState_rest s c)
    have hgoes : ∀ {u v : State}, microOp s c = goOn u (stashHere s c) (c.upc + 1) →
        u.cmds = (stashState s c).cmds → { u with cmds := s.cmds } = v → Works s c v onward := by
      intro u v hm hc hv
      exact h.arrived (fun x => { x with upc := c.upc + 1 }) (fun _ => rfl) hc hv hm
    have hgoesPut : ∀ {e : StashEntry}, microOp s c = goOn (putEntry (stashState s c) (stashHere s c) e) (stashHere s c) (c.upc + 1) →
        Works s c (put at_ e) onward := fun hm => hgoes hm rfl (stashState_put _)
    have hendsPut : ∀ {e : StashEntry} {value : Nat},
        microOp s c = finish (putEntry (stashState s c) (stashHere s c) e) (stashHere s c) 0 value → ends (put at_ e) 0 value :=
      fun hm => hends hm rfl (stashState_put _)
    have hendsMod : ∀ {g : Partition → Partition} {code value : Nat},
        microOp s c = finish (modPart (stashState s c) c.part g) (stashHere s c) code value → ends (modPart at_ c.part g) code value :=
      fun hm => hends hm rfl (stashState_modPart _)
    have hgoesStored : ∀ {m : List MdKey} {f : Nat} {e : StashEntry},
        microOp s c = goOn (putEntry { stashState s c with mdcache := m, free := f } (stashHere s c) e) (stashHere s c) (c.upc + 1) →
        Works s c { putEntry { stashState s c with mdcache := m, free := f } (stashHere s c) e with cmds := s.cmds } onward :=
      fun hm => hgoes hm rfl rfl
    have hent : ∀ {x}, kget p.stash key = x → kget p.stash (stashHere s c).key = x := fun hx => by rw [stashHere_key]; exact hx
    refine ⟨?_, ?_, ?_, ?_, ?_⟩
    · exact fun o sc xd xa hi => hended (value := queryValue (kget p.stash c.key)) (h.sqry hp hb hi)
    -- SST and SST.T
    · intro tr hw ht
      obtain ⟨o, sc, xd, xa, xb, hi⟩ := hw
      have hm := h.sst hp hb ht hi
      refine ⟨fun hu hk => ?_, fun hu hk => ?_, fun e he hu => ⟨fun hn hbad => ?_, fun hn => ?_⟩⟩
      · obtain ⟨e, he⟩ := Option.ne_none_iff_exists'.1 hk
        exact hended (by rw [hm, sstUop_start (stashHere_upc.trans hu), sstStart_known (hent he)])
      · have hmade : sstEntry (stashHere s c) tr = sstEntry c tr := by rw [stashHere_eq]; rfl
        have hm : microOp s c = sstStart (stashState s c) (stashHere s c) p tr := by rw [hm, sstUop_start (stashHere_upc.trans hu)]
        intro held e
        refine ⟨fun hc => ?_, fun hc => ⟨fun pol hr => ?_, fun hr => ?_⟩⟩
        · exact hended (by rw [hm, sstStart_full (hent hk) (by rw [stashHere_key]; exact hc)]; rfl)
        · obtain ⟨h1, h4, hr, hq⟩ := hr
          refine hgoesPut ?_
          rw [hm, sstStart_takes (pol := pol) (hent hk) (by rw [stashHere_key]; exact hc) (by rw [stashHere_val]; exact h1) h4 (by rw [hmade]; exact hr)
            (by rw [hmade, stashHere_val]; exact hq), hmade, hu]
          rfl
        · refine hendsPut ?_
          rw [hm, sstStart_drops (hent hk) (by rw [stashHere_key]; exact hc) (by rw [hmade, stashHere_val]; exact hr), hmade]
          rfl
      · obtain ⟨line, b, m, f, hbytes, e1⟩ := sstBlock_spec hp' (hent he) (by rw [coreOf_stashState, stashHere_core]; exact hbad) (c.upc - 1)
        obtain ⟨h1, h2, h3⟩ := (storedBytes_stashState _ _).1 hbytes
        refine ⟨_, line, b, h1, h2, h3, stashState_stored m f _, hgoesStored ?_⟩
        rw [hm, sstUop_block (hent he) (by rw [stashHere_upc]; exact hu) (by rw [stashHere_upc]; exact hn), stashHere_upc, e1]
        congr 1
        omega
      · refine hendsPut ?_
        rw [hm, sstUop_end (hent he) (by rw [stashHere_upc]; exact hu) (by rw [stashHere_upc]; exact hn)]
        rfl
    -- SPF
    · intro o sc xd xa xb hi ht
      have hm := h.spf hp hb ht hi
      refine ⟨fun hu hs => ?_, fun e he => ?_⟩
      · have hm : microOp s c = postR (stashState s c) (stashHere s c) p (if kget p.stash c.key = none then 0xD83 else 0xD81) := by
          rw [hm, spfUop_start (stashHere_upc.trans hu), spfStart_posts (by rw [stashHere_key]; exact hs), stashHere_key]
        have hr := rEntry_stashState (s := s) (c := c)
        intro code r
        refine ⟨fun h1 => hended ?_, fun h1 h2 => h.arrives ?_, fun h1 h2 h3 h4 => hendsMod ?_⟩
        · rw [hm, postR_same _ (by rw [hr]; exact h1)]
        · rw [hm, postR_waits _ (by rw [hr]; exact h1) (by rw [hr]; exact h2)]
        · rw [hm, postR_posts _ (by rw [hr]; exact h1) h2 (by rw [hr]; exact h3) (by rw [hr]; exact h4), hr, stashHere_part]
          exact rfl
      · intro tr size own base sizes n at_n blk lost
        have hblocks : spfBlocks (stashHere s c) e = (base, sizes) := by rw [spfBlocks_eq, stashHere_val]; rfl
        have hn1 : sizes = (spfBlocks (stashHere s c) e).2 := by rw [hblocks]
        have hat : (spfBlocks (stashHere s c) e).1 + ((stashHere s c).upc - 1) = at_n := by rw [hblocks, stashHere_upc]
        have hlost : ∀ {u v : State}, microOp s c = modCmd u (stashHere s c).id (fun x => { x with
            upc := x.upc + 1
            work := if x.work.length < 2 then x.work ++ [4096 * ((stashHere s c).upc - 1)] else x.work }) →
            u.cmds = (stashState s c).cmds → { u with cmds := s.cmds } = v → Works s c v lost := by
          intro u v hm hc hv
          have hw := h.arrived (fun x => { x with
            upc := x.upc + 1
            work := if x.work.length < 2 then x.work ++ [4096 * ((stashHere s c).upc - 1)] else x.work }) (fun _ => rfl) hc hv hm
          rw [stashHere_upc] at hw
          exact hw
        refine ⟨fun hu hs => ?_, fun hu hn => ⟨fun hs hU => ?_, fun hz => ?_, fun hz hs => ?_⟩, fun hu hn => ?_⟩
        · have hm : microOp s c = _ := (hm.trans (spfUop_start (stashHere_upc.trans hu))).trans (spfStart_entry (hent he) hs)
          rw [stashHere_val] at hm
          have hno : tr = false ∨ e.tr = true → ¬(ddTr (c.val 1) = true ∧ e.tr = false) := by
            rintro (ht | ht) ⟨h1, h2⟩
            · exact absurd (h1.symm.trans ht) (by decide)
            · exact absurd (h2.symm.trans ht) (by decide)
          refine ⟨fun ho => h.arrives ?_, fun ho ht hf => hended ?_, fun ho ht hl => hended ?_, fun ho ht hl => hgoes ?_ rfl (stashState_rest s c)⟩
          · rw [hm, if_pos ho]
          · rw [hm, if_neg (by simpa using ho), if_pos ⟨ht, hf⟩]
          · rw [hm, if_neg (by simpa using ho), if_neg (hno ht), if_pos (show _ < e.image (ddTr (c.val 1)) from hl)]
            rfl
          · rw [hm, if_neg (by simpa using ho), if_neg (hno ht),
              if_neg (show ¬_ < e.image (ddTr (c.val 1)) from Nat.not_lt.2 hl), hu]
        · obtain ⟨m, f, u, h1, h2⟩ := spfUop_expands (hent he) (by rw [stashHere_upc]; exact hu) (unheld_stashState hU)
            (by rw [stashHere_upc, hblocks]; exact hn) (by rw [hat]; exact (sound_stashState _).2 hs) (p := p)
          rw [hblocks, stashHere_upc, stashHere_val] at h1
          refine ⟨_, _, ?_, h1.of_here.withCmds s.cmds, hgoes (u := u) (by rw [hm, h2, stashHere_upc]) h1.cmds rfl⟩
          obtain ⟨l, i, h3, h4⟩ := stashState_eq s c
          rw [h3]
          exact h4.symm
        · have hr := readBlock_poisoned (s := stashState s c) (c := stashHere s c) hz
          rw [← hat] at hr
          have hl := spfUop_lost (hent he) (by rw [stashHere_upc]; exact hu) (by rw [stashHere_upc, hblocks]; exact hn) hr
            (by rw [hat]; exact hz) hp' rfl
          rw [hat] at hl
          exact hlost (hm.trans hl) rfl (stashState_put _)
        · obtain ⟨u, q, hr, hc, hq, hk⟩ := readBlock_fails hp' hz (fun hx => hs ((sound_stashState _).1 hx))
          rw [← hat] at hr
          have hl := spfUop_lost (hent he) (by rw [stashHere_upc]; exact hu) (by rw [stashHere_upc, hblocks]; exact hn) hr rfl hq hk
          rw [hat] at hl
          have hp2 := partOf_putEntry hq { e with blocks := e.blocks.set at_n { blk with md := { blk.md with pz := true } } }
          rw [stashHere_part, stashHere_key] at hp2
          exact ⟨_, _, hlost (hm.trans hl) hc rfl, hp2, kget_kput_same _ _ _⟩
        · have hm : microOp s c = _ := hm.trans (spfUop_end (hent he) (by rw [stashHere_upc]; exact hu)
            (by rw [stashHere_upc, hblocks]; exact hn))
          rw [stashHere_val] at hm
          rcases hw : (stashHere s c).work with _ | ⟨a, _ | ⟨off, l⟩⟩ <;> rw [hw] at hm <;> rw [show here.work = _ from hw] <;>
            exact hended hm
    -- SREL
    · intro o sc xd xa hi ht
      have hm := h.srel hp hb ht hi
      refine ⟨fun he => hended (by rw [hm, srelUop_none (hent he)]), fun e he => ⟨fun hf => ?_, fun ho ha => ?_⟩⟩
      · refine h.arrives ?_
        rw [hm, srelUop_some (hent he), if_pos ((entryBusy_iff e).2 hf)]
      · refine hendsMod ?_
        rw [hm, srelUop_some (hent he), if_neg (fun hx => ?_), stashHere_part, stashHere_key]
        rcases (entryBusy_iff e).1 hx with hx | ⟨o, hx, hq⟩
        · exact hx ho
        · exact absurd (ha o hx) (by rw [hq]; decide)
    -- SPOL
    · intro o sc xd xa xb hi ht
      have hm := h.spol hp hb ht hi
      refine ⟨fun hu he => hended (by rw [hm, spolUop_none (stashHere_upc.trans hu) (hent he)]), fun e he => ?_⟩
      intro free n blk
      have hfree : entryBusy (stashState s c) (stashHere s c) e = true ↔ ¬free := by
        rw [entryBusy_iff]
        simp only [free, not_and_or, not_forall, Bool.not_eq_false, exists_prop]
        rfl
      have hb1 : ¬free → entryBusy (stashState s c) (stashHere s c) e = true := hfree.2
      have hb2 : free → entryBusy (stashState s c) (stashHere s c) e = false := fun hf => Bool.eq_false_iff.2 fun hx => hfree.1 hx hf
      refine ⟨fun hu hf => h.arrives ?_, fun hu hf hs => hended ?_, fun hu hf hs => ⟨fun pol hr => ?_, fun hr => ?_⟩, fun hu hn => ⟨fun hs => ?_, fun hz => ?_⟩,
        fun hu hn => ?_⟩
      · rw [hm, spolUop_waits (hent he) (stashHere_upc.trans hu) (hb1 hf)]
      · rw [hm, spolUop_dropped (hent he) (stashHere_upc.trans hu) (hb2 hf) hs]
      · obtain ⟨h1, h4, hr, hq⟩ := hr
        refine hgoesPut ?_
        rw [hm, spolUop_takes (pol := pol) (hent he) (stashHere_upc.trans hu) (hb2 hf) hs (by rw [stashHere_val]; exact h1) h4 hr (by rw [stashHere_val]; exact hq), hu]
        rw [stashHere_id]
        rfl
      · refine hendsPut ?_
        rw [hm, spolUop_drops (hent he) (stashHere_upc.trans hu) (hb2 hf) hs (by rw [stashHere_val]; exact hr)]
        rfl
      · obtain ⟨line, m, f, e1⟩ := spolUop_moves hp' (hent he) (by rw [stashHere_upc]; exact hu) (by rw [stashHere_upc]; exact hn)
          (by rw [stashHere_upc]; exact (sound_stashState _).2 hs)
        rw [stashHere_upc] at e1
        exact ⟨_, line, stashState_stored m f _, hgoesStored (hm.trans e1)⟩
      · refine hgoesPut ?_
        rw [hm, spolUop_keeps hp' (hent he) (by rw [stashHere_upc]; exact hu) (by rw [stashHere_upc]; exact hn)
          (by rw [stashHere_upc]; exact hz), stashHere_upc]
      · refine hendsPut ?_
        rw [hm, spolUop_end (hent he) (by rw [stashHere_upc]; exact hu) (by rw [stashHere_upc]; exact hn)]
        rfl
  -- the line engine
  · intro s c p h hb hp v here finished ends named gets open_ holds others put fp
    obtain ⟨l, hl⟩ := lineState_eq s c
    have hends : ∀ {u w : State} {code value : Nat}, microOp s c = finish u c code value →
        u.cmds = (lineState s c).cmds → { u with cmds := s.cmds } = w → ends w code value := by
      intro u w code value hm hc hv
      exact h.lined (fun x => { x with phase := .finished, code := code, value := value }) (fun _ => rfl) hc hv hm
    have hended : ∀ {code value : Nat}, microOp s c = finish (lineState s c) c code value → ends s code value :=
      fun hm => hends hm rfl (lineState_rest s c)
    have hendsMod : ∀ {g : Partition → Partition} {code value : Nat},
        microOp s c = finish (modPart (lineState s c) c.part g) c code value → ends (modPart s c.part g) code value :=
      fun hm => hends hm rfl (by rw [hl]; rfl)
    have hp' : partOf (lineState s c) c.part = some p := by rw [hl]; exact hp
    have hipa : ∀ {ea n r ipa}, open_ ea n r ipa → lineIpa (lineState s c) c ea n r = .ok ipa ∧ homeHeld (lineState s c) c ipa n = false ∧
        (homeAns (lineState s c) c.part c.asid c.gen ea ipa n (r == .write)).good = true := by
      intro ea n r ipa ho
      rw [hl]
      exact ho
    refine ⟨?_, ?_, ?_, ?_, ?_, ?_, ?_, ?_, ?_, ?_, ?_⟩
    -- LOPT
    · intro sc xd xa xb hi b hget d n
      obtain ⟨ls, hn, rfl, hread⟩ := hget
      have hread : ∀ i x, ls[i]? = some x → engGet (lineState s c) c (c.val 0 + BitVec.ofNat 64 (32 * i)) 32 = .ok x :=
        fun i x hx => (engGet_lineState s c _ _).trans (hread i x hx)
      have hd : descIpas (lineState s c) c d = descIpas s c d := by rw [hl]; rfl
      refine ⟨fun hbad => hended ((h.lopt hb hi).trans (loptUop_bad hn hread ?_)), fun hbad ipas hipas hslots => ?_⟩
      · exact hbad.imp id fun hx => hd.trans hx
      · have hm : microOp s c = finish (loptPut (granulesUse (lineState s c) c (c.val 0) 4) c n ⟨d, ipas, c.asid, c.gen⟩) c 0 0 :=
          (h.lopt hb hi).trans (loptUop_puts hn hread hbad (hd.trans hipas))
        have hw := Cached.of_granulesUse (lineState s c) c (c.val 0) 4
        generalize granulesUse (lineState s c) c (c.val 0) 4 = w at hm hw
        have hacc : w.acc = s.acc := by rw [hw.here_eq]
        have hparts : w.parts = s.parts := by rw [hw.here_eq]
        have hid : w.nextId = s.nextId := by rw [hw.here_eq]
        have hnear : w.nearNext = s.nearNext := by rw [hw.here_eq]
        obtain ⟨q, k1, k2, k3, k4, k5⟩ := loptPut_spec (n := n) (d := ⟨d, ipas, c.asid, c.gen⟩) hacc hparts hid hp hslots
        refine ⟨_, _, setupAccess w c, q, hw.of_lineState, hends hm hw.cmds rfl, ?_, k1, hid, rfl, rfl, rfl, rfl, k2, k3, k4, k5⟩
        rw [← hacc, ← hparts, ← hid, ← hnear]
        rfl
    -- LEXP
    · intro sc xd xa xb hi x n ea skips
      have hm := h.lexp hb hi
      refine ⟨fun hn => hended (hm.trans (lexpUop_end hn)), fun hn ipa ho => ?_⟩
      intro slot slice
      obtain ⟨h1, h2, h3⟩ := hipa ho
      have hm := hm.trans (lexpUop_line hp' hn h1 h2 h3)
      have hslot : slotFor (lineState s c) p c.core slot = slotFor s p c.core slot := by rw [hl]; rfl
      have harm : armedFor (lineState s c) p c.core ipa = armedFor s p c.core ipa := by rw [hl]; rfl
      have hslice : sliceOf (lineState s c) c.part c.asid c.gen ipa = slice := by rw [hl]; rfl
      refine ⟨fun hd => hended ?_, fun d hd => ?_⟩
      · rw [hm, show slotFor (lineState s c) p c.core _ = none from hslot.trans hd]
      · rw [show slotFor (lineState s c) p c.core _ = some d from hslot.trans hd, harm, hslice] at hm
        refine ⟨fun ha => h.lexpSkips ?_, fun ha hq => h.lineWaits ?_, fun ha hq => h.lexpSkips ?_, fun ha hq hz => ?_⟩
        · rw [hm]
          exact if_pos (Option.isSome_iff_ne_none.2 ha)
        · rw [hm, ha]
          exact if_pos (Option.isSome_iff_ne_none.2 hq)
        · rw [hm, armedFor, ha]
          exact if_pos hq
        · obtain ⟨a, k1, k2, k3, k4, k5, k6, k7, k8⟩ := lexpArmed_spec (s := lineState s c) (c := c) (ea := ea) (ipa := ipa)
            (slice := slice) (d := d) (by rw [hl]; exact hz)
          rw [armedFor, ha] at hm
          have hm : microOp s c = lexpStep (lexpArmed (lineState s c) c ea ipa slice d) c 0 1 := hm.trans (if_neg (Nat.not_le.2 hq))
          generalize lexpArmed (lineState s c) c ea ipa slice d = t at *
          refine ⟨{ t with cmds := s.cmds }, a, _, h.lexpArms ?_ rfl hm, rfl, ?_, ?_, ?_, k4, k5, k6, k7, ?_⟩
          · exact k1.cmds
          · have e := k1.of_lineState
            rw [hl] at e
            exact e
          · rw [hl] at k2
            exact k2
          · rw [hl] at k3
            exact k3
          · rw [hl] at k8
            have e := congrArg State.parts (modPart_congr (s := s) hp (g := fun _ => { p with
              lines := p.lines ++ [⟨ipa, x.toNat / 2 ^ 48 % 2 ^ 16, slice, d, c.core, s.nextId⟩] })
              (f := fun p => { p with lines := p.lines ++ [⟨ipa, x.toNat / 2 ^ 48 % 2 ^ 16, slice, d, c.core, s.nextId⟩] }) rfl)
            exact k8.trans e
    -- LRED
    · intro o sc xd xa xb hi b ipa hget ho
      obtain ⟨ls, hn, rfl, hread⟩ := hget
      obtain ⟨h1, h2, h3⟩ := hipa ho
      have hread : ∀ i x, ls[i]? = some x → engGet (lineState s c) c (c.val 1 + BitVec.ofNat 64 (32 * i)) 32 = .ok x :=
        fun i x hx => (engGet_lineState s c _ _).trans (hread i x hx)
      have harm : armedFor (lineState s c) p c.core ipa = armedFor s p c.core ipa := by rw [hl]; rfl
      refine ⟨fun ha => hended ((h.lred hb hi).trans (lredUop_unarmed hp' hn hread h1 h2 h3 (harm.trans ha))), fun line g ha hg => ?_⟩
      have hg : homeAns (lineState s c) c.part c.asid c.gen (c.val 0) ipa 256 false = .ok g := by rw [hl]; exact hg
      have hm := (h.lred hb hi).trans (lredUop_adds hp' hn hread h1 h2 h3 (harm.trans ha) hg)
      have hw := Cached.of_granulesUse (lineState s c) c (c.val 1) 8
      intro sum
      generalize granulesUse (lineState s c) c (c.val 1) 8 = w at hm hw
      refine ⟨{ w with cmds := s.cmds }, hw.of_lineState, fun k leaf hk => ?_⟩
      have hh := homed_homeWrite (s := w) hk c.core c.id sum
      change microOp s c = lredEnd (homeWrite w c.part c.asid c.gen c.core c.id ipa sum) c ipa line at hm
      generalize homeWrite w c.part c.asid c.gen c.core c.id ipa sum = u at hm hh
      have hc : u.cmds = (lineState s c).cmds := hh.cmds.trans hw.cmds
      have hq : partOf { u with cmds := s.cmds } c.part = some p := (partOf_congr (hh.parts.trans hw.parts) _).trans hp'
      refine ⟨fun h1 => ⟨_, hh.withCmds s.cmds, ?_⟩, fun h1 => ⟨_, _, hh.withCmds s.cmds, h.next (hm.trans (if_pos (by omega))), ?_⟩⟩
      · exact hends (hm.trans (if_neg (by omega))) hc (modPart_congr hq rfl)
      · intro x r
        obtain ⟨k1, k2⟩ := lined_cmds h.1 (u := modPart { u with nextId := u.nextId + 1 } c.part (fun p =>
          { p with lines := p.lines.filter (fun a => a.ipa != ipa), updates := p.updates ++ [x] }))
          (fun y => { y with phase := .finished, code := 0, value := 0 }) (fun _ => rfl) hc
        have e := modPart_congr (s := { u with cmds := s.cmds, nextId := u.nextId + 1 }) hq
          (f := fun p => { p with lines := p.lines.filter (fun a => a.ipa != ipa), updates := p.updates ++ [x] })
          (g := fun _ => { p with lines := p.lines.filter (fun a => a.ipa != ipa), updates := p.updates ++ [x] }) rfl
        exact ⟨_, e, k1, k2, rfl⟩
    -- LQRY
    · intro o sc xd xa hi ipa ho
      obtain ⟨h1, h2, h3⟩ := hipa ho
      have hm := (h.lqry hb hi).trans (lqryUop_eq hp' h1 h2 h3)
      have harm : armedFor (lineState s c) p c.core ipa = armedFor s p c.core ipa := by rw [hl]; rfl
      refine ⟨fun ha => hended ?_, fun line ha => hended ?_⟩
      · rw [hm, harm, ha]
      · rw [hm, harm, ha]
    -- NLOOK
    · intro sc xd xa xb hi b hget
      obtain ⟨ls, hn, rfl, hread⟩ := hget
      have hread : ∀ i x, ls[i]? = some x → engGet (lineState s c) c (c.val 0 + BitVec.ofNat 64 (32 * i)) 32 = .ok x :=
        fun i x hx => (engGet_lineState s c _ _).trans (hread i x hx)
      have hm := fun he => (h.nlook hb hi).trans (nlookUop_eq hp' hn hread he)
      have hw := Cached.of_granulesUse (lineState s c) c (c.val 0) 8
      generalize granulesUse (lineState s c) c (c.val 0) 8 = w at hm hw
      have herr : ∀ e, nameErr w p e = nameErr s p e := fun e => by rw [hw.here_eq]; rfl
      have hdata : ∀ e, nameData w p e = nameData s p e := fun e => by rw [hw.here_eq]; rfl
      have hslice : ∀ n, nameSlice w n = nameSlice s n := fun n => by rw [hw.here_eq]; rfl
      have hparts : w.parts = s.parts := by rw [hw.here_eq]
      have hq : partOf w c.part = some p := (partOf_congr hparts c.part).trans hp
      have hnamed : ∀ {u : State} {code value name : Nat}, u.cmds = w.cmds →
          (∀ n e, nameRow p ((c.val 1).getLsbD 0) ls.flatten = some n → nameAt p n = some e → nameErr (lineState s c) p e = none) →
          lookName w c.part ((c.val 1).getLsbD 0) ls.flatten = (u, code, value, name) → named { u with cmds := s.cmds } code value name := by
        intro u code value name hc he hx
        have hm := hm he
        rw [hx] at hm
        exact h.lineNames (hc.trans hw.cmds) rfl hm
      refine ⟨{ w with cmds := s.cmds }, hw.of_lineState, ?_⟩
      intro inner kids
      refine ⟨fun h0 => hnamed rfl (fun n e hx => ?_) (lookName_null hq h0), fun n h1 => ⟨fun e ha hr => ?_, fun ha => ?_⟩⟩
      · cases h0.symm.trans hx
      · have he : ∀ n' e', nameRow p ((c.val 1).getLsbD 0) ls.flatten = some n' → nameAt p n' = some e' →
            nameErr (lineState s c) p e' = none := by
          intro n' e' hx hy
          obtain rfl := Option.some.inj (h1.symm.trans hx)
          obtain rfl := Option.some.inj (ha.symm.trans hy)
          rw [hl]
          exact hr
        refine ⟨fun hd => hnamed rfl he (lookName_differs hq h1 ha ((herr e).trans hr) (by rw [hdata]; exact hd)), fun hd => ?_⟩
        have hx : named (modPart { w with cmds := s.cmds } c.part (fun p => setCount p n satInc)) 0 0 n :=
          hnamed (u := takeRef w c.part n) rfl he (lookName_held hq h1 ha ((herr e).trans hr) (by rw [hdata]; exact hd))
        rw [modPart_setCount (s := { w with cmds := s.cmds }) hq n satInc] at hx
        exact hx
      · have he : ∀ n' e', nameRow p ((c.val 1).getLsbD 0) ls.flatten = some n' → nameAt p n' = some e' →
            nameErr (lineState s c) p e' = none := by
          intro n' e' hx hy
          obtain rfl := Option.some.inj (h1.symm.trans hx)
          cases ha.symm.trans hy
        intro bad away
        refine ⟨fun i k hi hk hf => hnamed rfl he (lookName_badName hq h1 ha hi hk hf), fun hbad i k hi hk hf =>
          hnamed rfl he (lookName_away hq h1 ha hbad hi hk hf), fun hkids => ?_⟩
        have hbad : ∀ k ∈ kids, ¬bad k := fun k hk => (hkids k hk).1
        have haway : ∀ k ∈ kids, ¬away k := fun k hk => (hkids k hk).2
        have hsize : ∀ k, (p.names.filter (fun e => nameSlice w e.name == nameSlice w k)).length =
            (p.names.filter (fun e => nameSlice s e.name == nameSlice s k)).length := fun k => by simp only [hslice]
        intro size
        refine ⟨fun hfull => hnamed rfl he (lookName_full hq h1 ha hbad haway ?_), fun hc f hf => ?_⟩
        · rw [hsize]
          exact hfull
        · obtain ⟨u, q, k1, k2, k3, k4, k5, k6, k7, k8⟩ := lookName_stores hq h1 ha hbad haway (by rw [hsize]; exact hc) hf
          have hcu : u.cmds = w.cmds := by
            have e := congrArg State.cmds k4
            exact e
          have hmem : w.mem = s.mem := by rw [hw.here_eq]
          have hpoison : w.poison = s.poison := by rw [hw.here_eq]
          have hmarks : w.bad = s.bad := by rw [hw.here_eq]
          have hcores : w.cores = s.cores := by rw [hw.here_eq]
          refine ⟨_, q, hnamed hcu he k1, k2.congr hmem.symm hcores.symm rfl rfl, fun i hne => (k3 i hne).trans (partOf_congr hparts i),
            ?_, k5, k6, k7, k8⟩
          rw [← hmem, ← hpoison, ← hmarks, ← hparts]
          have e := congrArg (fun u : State => { u with cmds := s.cmds }) k4
          exact e
    -- NREF, NREL and NHAS
    · intro n counts
      have hcounts : ∀ {g : Nat → Nat} {value : Nat},
          microOp s c = finish (modPart (lineState s c) c.part (fun p => setCount p n g)) c 0 value → ends (counts g) 0 value := by
        intro g value hm
        have e := hendsMod hm
        rw [modPart_setCount hp] at e
        exact e
      refine ⟨fun sc xd xn hi => ?_, fun o sc xd xn hi => ?_, fun sc xd xn hi => ?_⟩
      · have hm := h.ref hb (.inl ⟨sc, xd, xn, hi⟩)
        refine ⟨fun hbad => hended (hm.trans (refUop_bad hbad)), fun hbad hn => hended ?_, fun e hbad hn => hcounts ?_⟩
        · exact hm.trans ((refUop_named hp' hbad).trans ((congrArg _ hn).trans (refAnswer_away (by simp [hi]))))
        · exact hm.trans ((refUop_named hp' hbad).trans ((congrArg _ hn).trans (refAnswer_takes hi)))
      · have hm := h.ref hb (.inr (.inl ⟨o, sc, xd, xn, hi⟩))
        refine ⟨fun hbad => hended (hm.trans (refUop_bad hbad)), fun hbad hn => hended ?_, fun e hbad hn => ?_⟩
        · exact hm.trans ((refUop_named hp' hbad).trans ((congrArg _ hn).trans (refAnswer_away (by simp [hi]))))
        · have hm : microOp s c = finish (dropRef (lineState s c) c.part n) c 0
              (if e.count = 0xFFFFFFFF then e.count else e.count - 1) := hm.trans ((refUop_named hp' hbad).trans ((congrArg _ hn).trans (refAnswer_drops hi)))
          refine ⟨fun hc => hended ?_, fun hc h1 => hcounts (g := fun k => k - 1) ?_, fun h1 hk => ?_, fun h1 hk hg hz => ?_⟩
          · rw [hm, dropRef_stuck hp' hn hc, if_pos hc, hc]
          · rw [hm, dropRef_shared hp' hn hc h1, if_neg hc]
          · rw [dropRef_row hp' hn h1 hk, if_neg (by omega)] at hm
            exact hendsMod hm
          · rw [dropRef_interior hp' hn h1 hk (by rw [hl]; exact hg) (by rw [hl]; exact hz), if_neg (by omega)] at hm
            have hd : nameData (lineState s c) p e = nameData s p e := by rw [hl]; rfl
            rw [hd] at hm
            exact hendsMod hm
      · have hm := h.ref hb (.inr (.inr ⟨sc, xd, xn, hi⟩))
        refine ⟨fun hbad => hended (hm.trans (refUop_bad hbad)), fun hbad hn => hended ?_, fun e hbad hn => hended ?_⟩
        · exact hm.trans ((refUop_named hp' hbad).trans ((congrArg _ hn).trans (refAnswer_hasNot hi)))
        · exact hm.trans ((refUop_named hp' hbad).trans ((congrArg _ hn).trans (refAnswer_has hi)))
    -- NSWAP
    · intro o sc xd xa xq hi ipa b ho hg
      obtain ⟨h1, h2, h3⟩ := hipa ho
      have hg : homeAns (lineState s c) c.part c.asid c.gen (c.val 0) ipa 16 false = .ok b := by rw [hl]; exact hg
      have hm := (h.nswap hb hi).trans (nswapUop_eq hp' h1 h2 h3 hg)
      have hw := Cached.of_useLeaf (lineState s c) c.part c.asid c.gen (.ipa ipa)
      generalize useLeaf (lineState s c) c.part c.asid c.gen (.ipa ipa) = w at hm hw
      refine ⟨{ w with cmds := s.cmds }, hw.of_lineState, ?_⟩
      intro old expected
      refine ⟨fun ho => h.lineNames hw.cmds rfl (hm.trans (if_neg ho)), fun ho k leaf hk => ?_⟩
      have hh := homed_homeWrite (s := w) hk c.core c.id (natBytes (v 3).toNat 8 ++ natBytes (v 4).toNat 8)
      have hm := hm.trans (if_pos ho)
      have hc := hh.cmds.trans hw.cmds
      have hq := (partOf_congr (hh.parts.trans hw.parts) c.part).trans hp'
      refine ⟨_, _, _, leave c p (slotKey ipa) false, hh.withCmds s.cmds, h.lineReplies ?_ rfl hm, rfl, fun i hne => ?_, ?_, rfl⟩
      · exact hc
      · refine (partOf_modPart_ne _ _ _ _ hne).trans ((partOf_congr (hh.parts.trans hw.parts) i).trans ?_)
        rw [hl]
        rfl
      · refine (partOf_modPart_same _ _ _).trans ?_
        rw [show partOf _ c.part = some p from hq, Option.map_some]
    -- NGET
    · intro o sc xd xn xb hi root ipa b hr n
      have hm := h.nget hb hi
      obtain ⟨w, acq, hw, hm⟩ : ∃ w acq, Cached (lineState s c) w ∧ microOp s c = nameFetch w c p n acq := by
        by_cases hroot : root = true
        · obtain ⟨ho, hg⟩ := hr hroot
          obtain ⟨h1, h2, h3⟩ := hipa ho
          have hg : homeAns (lineState s c) c.part c.asid c.gen (c.val 1) ipa 16 false = .ok b := by rw [hl]; exact hg
          rw [show n = leNat b from if_pos hroot]
          exact ⟨_, _, Cached.of_useLeaf _ _ _ _ _, hm.trans (ngetUop_root hp' hroot h1 h2 hg)⟩
        · rw [show n = nameOf (c.val 1) (c.val 2) from if_neg hroot]
          exact ⟨_, _, Cached.refl _, hm.trans (ngetUop_name hp' (Bool.eq_false_iff.2 hroot))⟩
      refine ⟨{ w with cmds := s.cmds }, acq, hw.of_lineState, ?_⟩
      intro replies
      refine ⟨fun hbad => h.lineReplies hw.cmds rfl (hm.trans (nameFetch_bad acq hbad)), fun hbad hn =>
        h.lineReplies hw.cmds rfl (hm.trans (nameFetch_away acq hbad hn)), fun e hbad hn he hU => ?_⟩
      have hdata : nameData w p e = nameData s p e := by rw [hw.here_eq]; rfl
      obtain ⟨u, k1, k2⟩ := nameFetch_line acq hbad hn (by rw [hw.nameErr, hl]; exact he) (hw.unheld (by rw [hl]; exact hU))
      rw [hdata] at k1
      exact ⟨_, k1.withCmds s.cmds, h.lineReplies (k1.cmds.trans hw.cmds) rfl (hm.trans k2)⟩
    -- NOUT
    · intro sc xd xn xp hi n depth pos ea
      have hm := h.nout hb hi
      refine ⟨fun h0 hbad => hended (hm.trans (noutUop_bad hp' h0 hbad)), fun hn => ⟨fun hq => hended (hm.trans (noutUop_end hp' hn hq)),
        fun hq => ⟨fun code hleaf => hended (hm.trans (noutUop_status hp' hn hq ?_)), fun b x ipa hleaf ho hd hU => ?_⟩⟩⟩
      · rw [hl, leafAt_cmds]
        exact hleaf
      · obtain ⟨h1, h2, h3⟩ := hipa ho
        have hd' : engDest (lineState s c) c ea 1 .write = .ok x := by rw [hl]; exact hd
        have hheld : heldAt (lineState s c) c ea 256 = false := by
          rw [hl]
          exact hU.heldAt_eq ea 256
        have hs := scatters_engPut hd' b
        have hm := hm.trans (noutUop_leaf hp' hn hq (by rw [hl, leafAt_cmds]; exact hleaf) h1 h2 h3 hheld)
        refine ⟨{ engPut (lineState s c) c ea b with cmds := s.cmds }, ?_, ?_⟩
        · have e := hs.withCmds s.cmds
          rw [lineState_rest] at e
          exact e
        · exact h.lined (fun x => { x with counted := pos + 1 }) (fun _ => rfl) hs.cmds rfl hm
    -- NXFER
    · intro o sc xd xn xb hi node root x n ls reaches quiet stops refuses
      have hm := h.nxfer hb hi
      have hstops : ∀ {u w : State} {code lines : Nat}, microOp s c = endTransfer u c code lines root →
          u.cmds = (lineState s c).cmds → { u with cmds := s.cmds } = w → stops w code lines := by
        intro u w code lines hm hc hw
        refine hends hm ?_ ?_
        · have e := congrArg State.cmds (writeSecured_cmds u u.cmds c.part c.core node code lines root)
          exact Eq.trans e hc
        · rw [← hw]
          exact (writeSecured_cmds u s.cmds c.part c.core node code lines root).symm
      have hstopped : ∀ {code lines : Nat}, microOp s c = endTransfer (lineState s c) c code lines root → stops s code lines :=
        fun hm => hstops hm rfl (lineState_rest s c)
      have href : MirrorRefuses (lineState s c) c.part p node ↔ refuses := by rw [hl]; exact Iff.rfl
      have hnode : (lineState s c).node = s.node := by rw [hl]
      refine ⟨fun hr => hstopped (hm.trans (nxferUop_refused hp' (href.2 hr))), fun hr hbad =>
        hstopped (hm.trans (nxferUop_bad hp' (mt href.1 hr) hbad)), fun hr hbad hn =>
        hstopped (hm.trans (nxferUop_away hp' (mt href.1 hr) hbad hn)), fun hr hbad hn ho hk h0 => ?_, fun hr hbad hn ho hq => ?_⟩
      · have hm : microOp s c = endTransfer (putMirror (takeRef (lineState s c) c.part root) c.part node root) c 0xE8B 0 root :=
          hm.trans (nxferUop_own hp' (mt href.1 hr) hbad hn (ho.trans hnode.symm))
        rw [putMirror_takeRef hp' hk h0] at hm
        exact hstops hm rfl (by rw [hl]; rfl)
      · have hlines : xferLines (lineState s c) p node root = ls := by
          rw [hl, xferLines, missingLines_cmds]
          rfl
        have hq' : ∀ m ∈ xferLines (lineState s c) p node root, ∀ e, nameAt p m = some e → nameErr (lineState s c) p e = none := by
          rw [hlines, hl]
          exact hq
        have hm : microOp s c = xferUop (lineState s c) c p node root :=
          hm.trans (nxferUop_far hp' (mt href.1 hr) hbad hn (by rw [hnode]; exact ho))
        have hm := hm.trans (xferUop_eq hq')
        rw [hlines] at hm
        have hup : ((partnerOf (lineState s c) node).link && pathUp (lineState s c) true (lineState s c).node node) = true ↔ reaches := by
          rw [hl, Bool.and_eq_true]
          exact Iff.rfl
        have hpartner : partnerOf (lineState s c) node = x := by rw [hl]; rfl
        generalize hb : ((partnerOf (lineState s c) node).link && pathUp (lineState s c) true (lineState s c).node node) = up at hm hup
        rw [hpartner] at hm
        refine ⟨fun hx => hstopped ?_, fun hx hlt he => ?_, fun hx hlt he => hstopped ?_, fun hx hle => ?_⟩
        · rw [hm, Bool.eq_false_iff.2 (mt hup.1 hx)]
          rfl
        · rw [hup.2 hx] at hm
          exact h.lined (fun x => { x with counted := n + 1 }) (fun _ => rfl) rfl (lineState_rest s c)
            (hm.trans ((if_neg (by decide)).trans ((if_neg (Nat.not_le.2 hlt)).trans (if_neg (not_not.2 he)))))
        · rw [hm, hup.2 hx]
          exact (if_neg (by decide)).trans ((if_neg (Nat.not_le.2 hlt)).trans (if_pos he))
        · rw [hup.2 hx, hl] at hm
          exact hstops (hm.trans ((if_neg (by decide)).trans (if_pos hle))) (by rw [hl]) rfl
    -- the secured-state record
    · intro a ha hd core node code lines root step
      exact writeSecured_eq hp ha hd core node code lines root
  -- a tree's leaves
  · intro s p pos n
    refine ⟨leafAt_null pos s p 0, fun d => ⟨leafAt_null pos s p _, fun h0 h => leafAt_away pos h0 h d, fun e h0 h he =>
      ⟨fun hk => ⟨leafAt_row pos h0 h hk he, leafAt_rowAbove pos h0 h hk d⟩,
        fun hk => ⟨leafAt_interiorLeaf pos h0 h hk, leafAt_interior pos h0 h hk he d⟩⟩⟩⟩
  -- a fired update
  · intro s part p u hp hf d adam line table ans ins outs hins houts htab el f gs mu eta g m r q by_ w bytes made hname
    have hmade : updateOuts u.desc (updateIns s part u) = made := by
      by_cases ha : adam
      · have hm : ∀ i, m i = rne32 ((rne32 (mu.mul (el (line 3) i))).add (rne32 ((d.lo 11).mul (g i)))) := fun i => if_pos ha
        have hw : ∀ i, by_ i = rne32 ((rne32 ((m i).mul (d.hi 13))).quot (q i)) := fun i => if_pos ha
        have hmade : made = [bytes w, bytes m, bytes r] := congrArg ([bytes w, bytes m] ++ ·) (if_pos ha)
        have hi : updateIns s part u = [(ans u.ipa 256 false).bytes, (ans (line 1) 256 false).bytes, (ans (line 3) 256 false).bytes,
            (ans (line 5) 256 false).bytes] := by
          rw [updateIns, updateReads, if_pos (show dwAlg u.desc.dws = 1 from ha)]
          rfl
        rw [hi, updateOuts_adam ha, hmade]
        refine congrArg₂ List.cons (congrArg lineOf (funext fun i => ?_)) (congrArg₂ List.cons (congrArg lineOf (funext fun i => ?_)) rfl)
        · show _ = rne32 ((rne32 ((el (line 1) i).mul f)).add (rne32 (eta.mul (by_ i))).neg)
          rw [hw, hm]
          rfl
        · rw [hm]
          rfl
      · have hm : ∀ i, m i = rne32 ((rne32 (mu.mul (el (line 3) i))).add (g i)) := fun i => if_neg ha
        have hw : ∀ i, by_ i = m i := fun i => if_neg ha
        have hmade : made = [bytes w, bytes m] := congrArg ([bytes w, bytes m] ++ ·) (if_neg ha)
        have hi : updateIns s part u = [(ans u.ipa 256 false).bytes, (ans (line 1) 256 false).bytes, (ans (line 3) 256 false).bytes] := by
          rw [updateIns, updateReads, if_neg (show ¬dwAlg u.desc.dws = 1 from ha)]
          rfl
        rw [hi, updateOuts_sgd ha, hmade]
        refine congrArg₂ List.cons (congrArg lineOf (funext fun i => ?_)) (congrArg₂ List.cons (congrArg lineOf (funext fun i => ?_)) rfl)
        · show _ = rne32 ((rne32 ((el (line 1) i).mul f)).add (rne32 (eta.mul (by_ i))).neg)
          rw [hw, hm]
          rfl
        · rw [hm]
          rfl
    have hrow : namingErr s part u ((updateOuts u.desc (updateIns s part u)).headD []) = none :=
      namingErr_none hp fun hd e he => hname hd e (by rw [hmade] at he; exact he)
    obtain ⟨v, hv, happ⟩ := applyUpdate_spec s part u (updateIns s part u)
    have hrun := (runUpdate_good hf hins houts htab hrow).trans happ
    rw [hmade] at hrun
    exact ⟨v, hv, hrun⟩
  -- COMMAND_COMPLETE
  · intro s c h hp hg hw ha total
    obtain ⟨hs, ho, hn, ht, hf⟩ := endCmd_spec (s := s) (c := c) (statusWord c.code c.value)
    exact ⟨_, commandComplete_spec h hp hg hw ha, hs, ho, hn, ht, statusWord_eq c.code c.value ▸ hf⟩

end Sys2Proof.Machine
end

section
namespace Sys2Proof.Machine
open Laws

/-! Every word decodes from its encoding (R50 to R60): the laws of the encoding, one for each constructor. -/

theorem roundTrip (i : Instr) : RoundTrip.Statement i :=
  i.casesOn (motive := RoundTrip.Statement)
    RoundTrip.add RoundTrip.sub RoundTrip.mul RoundTrip.mulh RoundTrip.mulhn RoundTrip.div RoundTrip.divn
    RoundTrip.rem RoundTrip.remn RoundTrip.and RoundTrip.or RoundTrip.xor RoundTrip.andn RoundTrip.orn RoundTrip.shl
    RoundTrip.shr RoundTrip.sra RoundTrip.rol RoundTrip.ror RoundTrip.min RoundTrip.max RoundTrip.minn
    RoundTrip.maxn RoundTrip.clz RoundTrip.ctz RoundTrip.popc RoundTrip.brev RoundTrip.bswap RoundTrip.clmul
    RoundTrip.clmulh RoundTrip.ext RoundTrip.extn RoundTrip.ins RoundTrip.shladd RoundTrip.slt RoundTrip.sltn
    RoundTrip.cmppEq RoundTrip.cmppNe RoundTrip.cmppLt RoundTrip.cmppGe RoundTrip.cmppLtn RoundTrip.cmppGen
    RoundTrip.selP8P11 RoundTrip.selP12P15 RoundTrip.aconv RoundTrip.agen RoundTrip.atest RoundTrip.addi
    RoundTrip.andi RoundTrip.ori RoundTrip.xori RoundTrip.shli RoundTrip.shri RoundTrip.srai RoundTrip.roli
    RoundTrip.rori RoundTrip.slti RoundTrip.sltni RoundTrip.muli RoundTrip.cmppiEq RoundTrip.cmppiNe
    RoundTrip.cmppiLt RoundTrip.cmppiGe RoundTrip.cmppiLtn RoundTrip.cmppiGen RoundTrip.ld RoundTrip.st
    RoundTrip.beq RoundTrip.bne RoundTrip.blt RoundTrip.bge RoundTrip.bltn RoundTrip.bgen RoundTrip.bp RoundTrip.j
    RoundTrip.jl RoundTrip.jr RoundTrip.loopS RoundTrip.loopO RoundTrip.pshv RoundTrip.tokst RoundTrip.sbind
    RoundTrip.fence RoundTrip.csync RoundTrip.qpoint RoundTrip.tsc RoundTrip.csrr RoundTrip.csrw RoundTrip.trap
    RoundTrip.eret RoundTrip.tplLd RoundTrip.tend RoundTrip.ldNatural RoundTrip.ldc RoundTrip.wld RoundTrip.wins
    RoundTrip.vadd RoundTrip.vsub RoundTrip.vmul RoundTrip.vfma RoundTrip.vfnma RoundTrip.vmin RoundTrip.vmax
    RoundTrip.vminn RoundTrip.vmaxn RoundTrip.vabs RoundTrip.vneg RoundTrip.vand RoundTrip.vor RoundTrip.vxor
    RoundTrip.vandn RoundTrip.vshl RoundTrip.vshr RoundTrip.vsra RoundTrip.vexp2 RoundTrip.vlog2 RoundTrip.vrecip
    RoundTrip.vrsq RoundTrip.vcmpEq RoundTrip.vcmpNe RoundTrip.vcmpLt RoundTrip.vcmpGe RoundTrip.vcmpLtn
    RoundTrip.vcmpGen RoundTrip.vsel RoundTrip.vcvt RoundTrip.vrng RoundTrip.vkey RoundTrip.vrsum RoundTrip.vrmax
    RoundTrip.vrmin RoundTrip.vscan RoundTrip.vscanx RoundTrip.vtopk RoundTrip.vperm RoundTrip.vbcast
    RoundTrip.vextx RoundTrip.vmand RoundTrip.vmor RoundTrip.vmxor RoundTrip.vmandn RoundTrip.vmpopc RoundTrip.vmget
    RoundTrip.vmset RoundTrip.vldr RoundTrip.vstr RoundTrip.vwin RoundTrip.vwalk RoundTrip.vldw RoundTrip.vfence
    RoundTrip.mma RoundTrip.mmag RoundTrip.mwld RoundTrip.mdrain RoundTrip.mzero RoundTrip.mfmt RoundTrip.mstat
    RoundTrip.mfence RoundTrip.cpyIn RoundTrip.cpyOut RoundTrip.cpyGather RoundTrip.cpyScat RoundTrip.cpyRing
    RoundTrip.cpyT RoundTrip.cpyFollow RoundTrip.cpyBar RoundTrip.cpyFill RoundTrip.lrec RoundTrip.cpyStat
    RoundTrip.xsort RoundTrip.xa2a RoundTrip.xchOpen RoundTrip.xchWin RoundTrip.xchSend RoundTrip.xchRecv
    RoundTrip.xchClose RoundTrip.xringRs RoundTrip.xringAg RoundTrip.xstat RoundTrip.ald RoundTrip.ast
    RoundTrip.aswp RoundTrip.aadd RoundTrip.aand RoundTrip.aor RoundTrip.axor RoundTrip.amin RoundTrip.amax
    RoundTrip.aminn RoundTrip.amaxn RoundTrip.afadd RoundTrip.acas RoundTrip.acasFa RoundTrip.abinit RoundTrip.abarr
    RoundTrip.abexp RoundTrip.abwait RoundTrip.asemp RoundTrip.asemw RoundTrip.sst RoundTrip.sstT RoundTrip.spf
    RoundTrip.srel RoundTrip.sqry RoundTrip.spol RoundTrip.lexp RoundTrip.lred RoundTrip.lopt RoundTrip.lqry
    RoundTrip.nlook RoundTrip.nref RoundTrip.nrel RoundTrip.nswap RoundTrip.nget RoundTrip.nout RoundTrip.nhas
    RoundTrip.nxfer RoundTrip.grow RoundTrip.post RoundTrip.fencew RoundTrip.gbind RoundTrip.grebind RoundTrip.gstat
    RoundTrip.ptset RoundTrip.hmrisk RoundTrip.prack RoundTrip.packetIssue RoundTrip.holdExpiry
    RoundTrip.queueEntryGrant RoundTrip.trackerAdmit RoundTrip.commandStart RoundTrip.engineMicroOp
    RoundTrip.commandComplete RoundTrip.pendingReportDelivery RoundTrip.loadFill RoundTrip.storePerform
    RoundTrip.replyFill RoundTrip.templateImageArrival RoundTrip.fenceComplete RoundTrip.taskRetire
    RoundTrip.schedulerScan RoundTrip.bankGrant RoundTrip.noticeQueueWrite RoundTrip.vectorWordComplete
    RoundTrip.arrivalAdmission RoundTrip.constantLineEvict RoundTrip.pageFault RoundTrip.remoteRefusal
    RoundTrip.retryTimerExpiry RoundTrip.pageMigration RoundTrip.invalidationWatchdogExpiry RoundTrip.budgetExpiry
    RoundTrip.policyAgePromotion RoundTrip.graphFiringPlacement RoundTrip.preload RoundTrip.preemptAgeExpiry
    RoundTrip.preemptTimeout RoundTrip.gangResume RoundTrip.syncBlockFetch RoundTrip.tradonCrcReplay
    RoundTrip.linkDown RoundTrip.channelRecordDelivery RoundTrip.windowEndArrival RoundTrip.closeNoticeArrival
    RoundTrip.countRowArrival RoundTrip.xa2aPieceArrival RoundTrip.ringChunkArrival RoundTrip.czBlockExpand
    RoundTrip.czBlockCompress RoundTrip.backgroundRelease RoundTrip.mirrorTransferReceive RoundTrip.throttleEngage
    RoundTrip.throttleRelease RoundTrip.riskUpdate RoundTrip.powerOnReset RoundTrip.cxlLinkUp RoundTrip.hostMemRead
    RoundTrip.hostMemWrite RoundTrip.backInvalidationComplete RoundTrip.registerWrite RoundTrip.getInfo
    RoundTrip.partCreate RoundTrip.partDestroy RoundTrip.partReset RoundTrip.vfBind RoundTrip.partConfig
    RoundTrip.launch RoundTrip.faultAnswer RoundTrip.invalidate RoundTrip.asidRetire RoundTrip.flush
    RoundTrip.tableRoot RoundTrip.domainSet RoundTrip.mirrorEnable RoundTrip.preempt RoundTrip.attest
    RoundTrip.pushImage RoundTrip.hmWeights RoundTrip.sensors RoundTrip.linkRetrain RoundTrip.receiverCloseArrival

/-- Settles O54: each constructor's round trip. -/
theorem decodeEncode : Obligations.DecodeEncode := roundTrip

end Sys2Proof.Machine
end

section
namespace Sys2Proof

/-! What the decoder takes encodes to what it read (R50 to R60). Each class has two parts: a form's word is the packing of
its fields, and the decoder of the class reads or fixes each of them. -/

/-! A word's fields (R51, R52). -/

/-- A field within a field. -/
theorem fld_of_fld (w : IWord) {lo n lo' n' : Nat} (hl : lo ≤ lo') (hr : lo' + n' ≤ lo + n) :
    fld w lo' n' = fld w lo n / 2 ^ (lo' - lo) % 2 ^ n' := by
  refine Nat.eq_of_testBit_eq fun i => ?_
  simp only [fld, Nat.testBit_mod_two_pow, Nat.testBit_div_two_pow]
  by_cases hi : i < n'
  · have hn : i + (lo' - lo) < n := by omega
    have hw : i + (lo' - lo) + lo = i + lo' := by omega
    simp only [hi, hn, hw, decide_true, Bool.true_and]
  · simp only [hi, decide_false, Bool.false_and]

/-- What lies within a field of zeros is zero. -/
theorem fld_zero {w : IWord} {lo n lo' n' : Nat} (h : fld w lo n = 0) (hl : lo ≤ lo' := by decide)
    (hr : lo' + n' ≤ lo + n := by decide) : fld w lo' n' = 0 := by
  simp [fld_of_fld w hl hr, h]

/-- A field is its lower part and its upper part. -/
theorem fld_append (w : IWord) (lo m n : Nat) : fld w lo (m + n) = fld w lo m + 2 ^ m * fld w (lo + m) n := by
  simp only [fld, pow_add, Nat.mod_mul, Nat.div_div_eq_div_mul]

/-- The upper part of a field stands in front of its lower part. -/
theorem fld_split (w : IWord) (lo m n : Nat) {u v : Nat} (hv : fld w lo m = v) (hu : fld w (lo + m) n = u) :
    fld w lo (m + n) = u * 2 ^ m + v := by
  rw [fld_append, hv, hu, Nat.mul_comm, Nat.add_comm]

/-- A field whose upper part is zero is its lower part. -/
theorem fld_low (w : IWord) (lo m n : Nat) {v : Nat} (hu : fld w (lo + m) n = 0) (hv : fld w lo m = v) :
    fld w lo (m + n) = v := by
  simp [fld_append, hu, hv]

/-! Each way to read an operand gives the value of its field. -/

theorem fld_bits (w : IWord) (lo n : Nat) : fld w lo n = (bits w lo n).toNat := by simp [bits, fld]

theorem fld_reg (w : IWord) (lo : Nat) : fld w lo 6 = (reg w lo).toNat := fld_bits w lo 6

theorem fld_bit (w : IWord) (lo : Nat) : fld w lo 1 = (bit w lo).toNat := by
  have h : fld w lo 1 < 2 := Nat.mod_lt _ (by decide)
  unfold bit
  interval_cases fld w lo 1 <;> rfl

theorem fld_side (w : IWord) (lo : Nat) : fld w lo 1 = (if bit w lo then Side.right else .left).code := by
  rw [fld_bit]
  cases bit w lo <;> rfl

theorem fld_ord (w : IWord) : fld w 21 2 = (ordAt w).code := by
  have h : fld w 21 2 < 4 := Nat.mod_lt _ (by decide)
  unfold ordAt
  interval_cases fld w 21 2 <;> rfl

theorem code_of_scopeOf {n : Nat} {s : Scope} (h : scopeOf n = some s) : n = s.code := by
  unfold scopeOf at h
  split at h <;> cases h <;> rfl

theorem code_of_csrOf {n : Nat} {r : Csr} (h : csrOf n = some r) : n = r.code := by
  unfold csrOf at h
  split at h <;> cases h <;> rfl

theorem code_of_engOf {n : Nat} {e : TplEng} (h : engOf n = some e) : n = e.code := by
  unfold engOf at h
  split at h <;> cases h <;> rfl

/-! A word is the packing of its fields, form by form (R51, R52). -/

theorem packA_of {w : IWord} {op d a b f g n : Nat} (hc : fld w 28 4 = 0) (hop : fld w 22 6 = op) (hd : fld w 16 6 = d)
    (ha : fld w 10 6 = a) (hb : fld w 4 6 = b) (hf : fld w 3 1 = f) (hg : fld w 2 1 = g) (hn : fld w 0 2 = n) :
    packA op d a b f g n = w := by
  refine BitVec.eq_of_toNat_eq ?_
  simp only [packA, fld, BitVec.toNat_ofNat] at *
  omega

theorem packI_of {w : IWord} {op d a f i : Nat} (hc : fld w 28 4 = 1) (hop : fld w 22 6 = op) (hd : fld w 16 6 = d)
    (ha : fld w 10 6 = a) (hf : fld w 9 1 = f) (hi : fld w 0 9 = i) : packI op d a f i = w := by
  refine BitVec.eq_of_toNat_eq ?_
  simp only [packI, fld, BitVec.toNat_ofNat] at *
  omega

theorem packM_of {w : IWord} {op c d a f i : Nat} (hc : fld w 28 4 = 2) (hop : fld w 25 3 = op) (hcls : fld w 21 4 = c)
    (hd : fld w 15 6 = d) (ha : fld w 9 6 = a) (hf : fld w 8 1 = f) (hi : fld w 0 8 = i) : packM op c d a f i = w := by
  refine BitVec.eq_of_toNat_eq ?_
  simp only [packM, fld, BitVec.toNat_ofNat] at *
  omega

theorem packB_of {w : IWord} {op a b f g o : Nat} (hc : fld w 28 4 = 3) (hop : fld w 24 4 = op) (ha : fld w 18 6 = a)
    (hb : fld w 12 6 = b) (hf : fld w 11 1 = f) (hg : fld w 10 1 = g) (ho : fld w 0 10 = o) : packB op a b f g o = w := by
  refine BitVec.eq_of_toNat_eq ?_
  simp only [packB, fld, BitVec.toNat_ofNat] at *
  omega

theorem packS_of {w : IWord} {op d a s : Nat} (hc : fld w 28 4 = 4) (hop : fld w 22 6 = op) (hd : fld w 16 6 = d)
    (ha : fld w 10 6 = a) (hs : fld w 0 10 = s) : packS op d a s = w := by
  refine BitVec.eq_of_toNat_eq ?_
  simp only [packS, fld, BitVec.toNat_ofNat] at *
  omega

theorem packW_of {w : IWord} {d k i n z : Nat} (hc : fld w 28 4 = 5) (hd : fld w 22 6 = d) (hk : fld w 20 2 = k)
    (hi : fld w 4 16 = i) (hn : fld w 3 1 = n) (hz : fld w 0 3 = z) : packW d k i n z = w := by
  refine BitVec.eq_of_toNat_eq ?_
  simp only [packW, fld, BitVec.toNat_ofNat] at *
  omega

theorem packV_of {w : IWord} {x op d a b m : Nat} (hc : fld w 28 4 = 8) (hx : fld w 27 1 = x) (hop : fld w 20 7 = op)
    (hd : fld w 14 6 = d) (ha : fld w 8 6 = a) (hb : fld w 2 6 = b) (hm : fld w 0 2 = m) : packV x op d a b m = w := by
  refine BitVec.eq_of_toNat_eq ?_
  simp only [packV, fld, BitVec.toNat_ofNat] at *
  omega

theorem packP_of {w : IWord} {c t f v : Nat} (hc : fld w 28 4 = c) (ht : fld w 22 6 = t) (hf : fld w 16 6 = f)
    (hv : fld w 0 16 = v) : packP c t f v = w := by
  refine BitVec.eq_of_toNat_eq ?_
  simp only [packP, fld, BitVec.toNat_ofNat] at *
  omega

theorem packE_of {w : IWord} {c op o s d a b : Nat} (hc : fld w 28 4 = c) (hop : fld w 23 5 = op) (ho : fld w 21 2 = o)
    (hs : fld w 17 4 = s) (hd : fld w 11 6 = d) (ha : fld w 5 6 = a) (hb : fld w 0 5 = b) : packE c op o s d a b = w := by
  refine BitVec.eq_of_toNat_eq ?_
  simp only [packE, fld, BitVec.toNat_ofNat] at *
  omega

/-! What a decoder's answer says of the word it read. -/

/-- An answer to a word gives either no instruction or a word of a packet whose encoding is the word that was read. -/
def Faithful (w : IWord) (r : Except Reject Instr) : Prop := ∀ i, r = .ok i → isWord i = true ∧ encode i = w

/-- p holds where the fixed fields of a form have their values. -/
def Under (w : IWord) : List (Nat × Nat × Nat) → Prop → Prop
  | [], p => p
  | x :: l, p => fld w x.1 x.2.1 = x.2.2 → Under w l p

theorem Under.of_all {w : IWord} {l : List (Nat × Nat × Nat)} {p : Prop} (h : Under w l p)
    (hl : l.all (fun x => fld w x.1 x.2.1 == x.2.2) = true) : p := by
  induction l with
  | nil => exact h
  | cons x l ih =>
    rw [List.all_cons, Bool.and_eq_true, beq_iff_eq] at hl
    exact ih (h hl.1) hl.2

theorem Faithful.ok {w : IWord} {i : Instr} (hi : isWord i = true) (he : encode i = w) : Faithful w (.ok i) := by
  rintro _ ⟨⟩
  exact ⟨hi, he⟩

theorem Faithful.error {w : IWord} {r : Reject} : Faithful w (.error r) := by
  rintro _ ⟨⟩

theorem Faithful.take {w : IWord} {l : List (Nat × Nat × Nat)} {i : Instr} (hi : isWord i = true)
    (he : Under w l (encode i = w)) : Faithful w (take w l i) := by
  unfold Sys2Proof.take
  split
  · exact .ok hi (he.of_all ‹_›)
  · exact .error

theorem Faithful.refuseField {w : IWord} {f : Instr → Reject} {r : Except Reject Instr} :
    Faithful w (refuseField f r) := by
  cases r <;> exact .error

theorem Faithful.withScope {w : IWord} {lo : Nat} {k : Scope → Except Reject Instr}
    (h : ∀ s, fld w lo 4 = s.code → Faithful w (k s)) : Faithful w (withScope w lo k) := by
  unfold Sys2Proof.withScope
  split
  · exact h _ (code_of_scopeOf ‹_›)
  · exact .refuseField

theorem Faithful.withCsr {w : IWord} {k : Csr → Except Reject Instr}
    (h : ∀ r, fld w 0 6 = r.code → Faithful w (k r)) : Faithful w (withCsr w k) := by
  unfold Sys2Proof.withCsr
  split
  · exact h _ (code_of_csrOf ‹_›)
  · exact .refuseField

theorem Faithful.withEng {w : IWord} {k : TplEng → Except Reject Instr}
    (h : ∀ e, fld w 0 2 = e.code → Faithful w (k e)) : Faithful w (withEng w k) := by
  unfold Sys2Proof.withEng
  split
  · exact h _ (code_of_engOf ‹_›)
  · exact .refuseField

end Sys2Proof
end

section
namespace Sys2Proof

/-! Each class answers faithfully. A case is an alternative of the class's decoder, counted from 1; every argument says where
a field of the form comes from: an operand that was read, or a fixed field. -/

variable {w : IWord}

/-- A field that names one of p8 to p15: its upper half is 1 (R54). -/
theorem fld_upperPred (h : fld w 19 3 = 1) : fld w 16 6 = 8 + (bits w 16 3).toNat :=
  fld_split w 16 3 3 (fld_bits w 16 3) h

/-- A field of six bits that names a vector mask (R225). -/
theorem fld_mask (w : IWord) (lo : Nat) (h : fld w (lo + 3) 3 = 0) : fld w lo 6 = (bits w lo 3).toNat :=
  fld_low w lo 3 3 h (fld_bits w lo 3)

/-- The low ten bits of an S-form word with the trap-mode flag in front (R58). -/
theorem fld_flag {v : Nat} (h : fld w 0 9 = v) : fld w 0 10 = (bit w 9).toNat * 512 + v :=
  fld_split w 0 9 1 h (fld_bit w 9)

/-- An A-form word of three registers (R54). -/
theorem packA_registers {op n : Nat} (hc : fld w 28 4 = 0) (hop : fld w 22 6 = op) (hn : fld w 0 2 = n) :
    packA op (reg w 16).toNat (reg w 10).toNat (reg w 4).toNat (bit w 3).toNat (bit w 2).toNat n = w :=
  packA_of hc hop (fld_reg w 16) (fld_reg w 10) (fld_reg w 4) (fld_bit w 3) (fld_bit w 2) hn

/-- An A-form word that writes one of p8 to p15 (R54, R103). -/
theorem packA_predicate {op n : Nat} (hc : fld w 28 4 = 0) (hop : fld w 22 6 = op) (hn : fld w 0 2 = n)
    (hp : fld w 19 3 = 1) :
    packA op (8 + (bits w 16 3).toNat) (reg w 10).toNat (reg w 4).toNat (bit w 3).toNat (bit w 2).toNat n = w :=
  packA_of hc hop (fld_upperPred hp) (fld_reg w 10) (fld_reg w 4) (fld_bit w 3) (fld_bit w 2) hn

theorem decodeA_faithful (hc : fld w 28 4 = 0) : Faithful w (decodeA w) := by
  unfold decodeA
  split
  -- one source register: CLZ, CTZ, POPC, BREV, BSWAP, ACONV, ATEST
  case h_24 | h_25 | h_26 | h_27 | h_28 | h_40 | h_42 =>
    exact .take rfl fun hb hn => packA_of hc ‹_› (fld_reg w 16) (fld_reg w 10) hb (fld_bit w 3) (fld_zero hn) (fld_zero hn)
  -- EXT and EXTN by their modifier
  case h_31 =>
    split
    case h_3 => exact .error
    all_goals exact .ok rfl (packA_registers hc ‹_› ‹_›)
  -- CMPP by its modifier
  case h_36 =>
    split
    case h_5 => exact .error
    all_goals exact .take rfl (packA_predicate hc ‹_› ‹_›)
  case h_37 =>
    split
    case h_3 => exact .error
    all_goals exact .take rfl (packA_predicate hc ‹_› ‹_›)
  -- the modifier is an operand: SHLADD and SEL
  case h_33 | h_38 | h_39 => exact .ok rfl (packA_registers hc ‹_› (fld_bits w 0 2))
  case h_43 => exact .error
  all_goals exact .take rfl (packA_registers hc ‹_›)

theorem decodeI_faithful (hc : fld w 28 4 = 1) : Faithful w (decodeI w) := by
  unfold decodeI
  split
  -- shifts and rotates
  case h_5 | h_6 | h_7 | h_8 | h_9 =>
    exact .take rfl fun hz => packI_of hc ‹_› (fld_reg w 16) (fld_reg w 10) (fld_bit w 9)
      (fld_low w 0 6 3 hz (fld_bits w 0 6))
  -- CMPPI
  case h_13 | h_14 | h_15 | h_16 | h_17 | h_18 =>
    exact .take rfl fun hp => packI_of hc ‹_› (fld_upperPred hp) (fld_reg w 10) (fld_bit w 9) (fld_bits w 0 9)
  case h_19 => exact .error
  all_goals exact .ok rfl (packI_of hc ‹_› (fld_reg w 16) (fld_reg w 10) (fld_bit w 9) (fld_bits w 0 9))

theorem decodeM_faithful (hc : fld w 28 4 = 2) : Faithful w (decodeM w) := by
  unfold decodeM
  split
  case h_1 h =>
    exact .ok rfl (packM_of hc (fld_low w 25 2 1 h (fld_bits w 25 2)) (fld_bits w 21 4) (fld_reg w 15) (fld_reg w 9) (fld_bit w 8)
      (fld_bits w 0 8))
  case h_2 h =>
    exact .ok rfl (packM_of hc (fld_split w 25 2 1 (fld_bits w 25 2) h) (fld_bits w 21 4) (fld_reg w 15) (fld_reg w 9) (fld_bit w 8)
      (fld_bits w 0 8))
  case h_3 => exact .error

theorem decodeB_faithful (hc : fld w 28 4 = 3) : Faithful w (decodeB w) := by
  unfold decodeB
  split
  case h_7 =>
    exact .take rfl fun ht hz =>
      packB_of hc ‹_› (fld_low w 18 5 1 ht (fld_split w 18 4 1 (fld_bits w 18 4) (fld_bit w 22))) (fld_zero hz) (fld_zero hz)
        (fld_zero hz) (fld_bits w 0 10)
  case h_8 | h_9 =>
    exact .take rfl fun hz =>
      packB_of hc ‹_› (fld_zero hz) (fld_zero hz) (fld_zero hz) (fld_zero hz) (fld_bits w 0 10)
  case h_10 =>
    exact .take rfl fun hb hz => packB_of hc ‹_› (fld_reg w 18) hb (fld_bit w 11) (fld_zero hz) (fld_zero hz)
  case h_11 =>
    exact .take rfl fun hg => packB_of hc ‹_› (fld_reg w 18) (fld_bits w 12 6) (fld_bit w 11) hg (fld_bits w 0 10)
  case h_12 =>
    exact .take rfl fun hb hg => packB_of hc ‹_› (fld_reg w 18) hb (fld_bit w 11) hg (fld_bits w 0 10)
  case h_13 => exact .error
  all_goals
    exact .ok rfl (packB_of hc ‹_› (fld_reg w 18) (fld_reg w 12) (fld_bit w 11) (fld_bit w 10) (fld_bits w 0 10))

theorem decodeS_faithful (hc : fld w 28 4 = 4) : Faithful w (decodeS w) := by
  unfold decodeS
  split
  case h_1 =>
    exact .take rfl fun hd hz =>
      packS_of hc ‹_› hd (fld_reg w 10) (fld_flag (fld_low w 0 1 8 hz (fld_side w 0)))
  case h_2 | h_7 => exact .take rfl fun hz => packS_of hc ‹_› (fld_reg w 16) (fld_zero hz) (fld_zero hz)
  case h_3 =>
    exact .take rfl fun hd hz =>
      packS_of hc ‹_› hd (fld_reg w 10) (fld_flag (fld_low w 0 2 7 hz (fld_bits w 0 2)))
  case h_4 =>
    -- the mask of FENCE lies across three of the form's fields
    have hd : fld w 16 6 = (bits w 6 16).toNat / 1024 := by
      rw [← fld_bits, fld_of_fld w (lo := 6) (n := 16) (by decide) (by decide)]
      exact Nat.mod_eq_of_lt (Nat.div_lt_of_lt_mul (Nat.mod_lt _ (by decide)))
    have ha : fld w 10 6 = (bits w 6 16).toNat / 16 % 64 := by
      rw [← fld_bits]
      exact fld_of_fld w (by decide) (by decide)
    have hm : fld w 6 4 = (bits w 6 16).toNat % 16 := by
      rw [← fld_bits]
      exact (Nat.mod_mod_of_dvd _ (by decide)).symm
    exact .withScope fun _ hs => .take rfl fun hz =>
      packS_of hc ‹_› hd ha (fld_split w 0 6 4 (fld_split w 0 2 4 hz hs) hm)
  case h_5 | h_6 | h_11 | h_13 =>
    exact .take rfl fun hz => packS_of hc ‹_› (fld_zero hz) (fld_zero hz) (fld_zero hz)
  case h_8 =>
    exact .withCsr fun r hr => .take rfl fun hz =>
      packS_of hc ‹_› (fld_reg w 16) (fld_zero hz) (fld_low w 0 6 4 (fld_zero hz) hr)
  case h_9 =>
    exact .withCsr fun r hr => .take rfl fun hd hz =>
      packS_of hc ‹_› hd (fld_reg w 10) ((fld_flag (fld_low w 0 6 3 hz hr)).trans (Nat.add_comm _ _))
  case h_10 =>
    exact .take rfl fun hz =>
      packS_of hc ‹_› (fld_zero hz) (fld_zero hz) (fld_low w 0 8 2 (fld_zero hz) (fld_bits w 0 8))
  case h_12 =>
    exact .withEng fun e he => .take rfl fun hz =>
      packS_of hc ‹_› (fld_bits w 16 6) (fld_reg w 10) (fld_flag (fld_low w 0 2 7 hz he))
  case h_14 =>
    exact .take rfl fun hz => packS_of hc ‹_› (fld_reg w 16) (fld_reg w 10)
      ((fld_flag (fld_split w 0 5 4 (fld_split w 0 3 2 hz (fld_bits w 3 2)) (fld_bits w 5 4))).trans (Nat.add_assoc _ _ _).symm)
  case h_15 =>
    exact .take rfl fun hcls hz => packS_of hc ‹_› (fld_reg w 16) (fld_reg w 10)
      (fld_flag (fld_low w 0 5 4 hcls (fld_split w 0 3 2 hz (fld_bits w 3 2))))
  case h_16 => exact .error

theorem decodeW_faithful (hc : fld w 28 4 = 5) : Faithful w (decodeW w) := by
  unfold decodeW
  split
  case h_1 | h_2 => exact .take rfl fun hz => packW_of hc (fld_reg w 22) (fld_bits w 20 2) (fld_bits w 4 16) ‹_› hz
  case h_3 => exact .error

/-- The format of VCVT is the low part of its opcode, 32 to 39, and its b field holds three operands (R234). -/
theorem vcvt_faithful (hc : fld w 28 4 = 8) {v : Nat} (hv : fld w 20 7 = v) (h : v / 2 ^ 3 % 2 ^ 4 = 4 := by decide) :
    Faithful w (take w [(27, 1, 0)]
      (.vcvt (bits w 20 3) (reg w 14) (reg w 8) (bits w 6 2) (bit w 5) (bits w 2 3) (bits w 0 2))) := by
  have hop : fld w 23 4 = 4 := by
    rw [fld_of_fld w (lo := 20) (n := 7) (by decide) (by decide), hv]
    exact h
  exact .take rfl fun hx => packV_of hc hx (fld_split w 20 3 4 (fld_bits w 20 3) hop) (fld_reg w 14) (fld_reg w 8)
    ((fld_split w 2 4 2 (fld_split w 2 3 1 (fld_bits w 2 3) (fld_bit w 5)) (fld_bits w 6 2)).trans (Nat.add_assoc _ _ _).symm)
    (fld_bits w 0 2)

theorem decodeV_faithful (hc : fld w 28 4 = 8) : Faithful w (decodeV w) := by
  unfold decodeV
  split
  -- one source row
  case h_10 | h_11 | h_19 | h_20 | h_21 | h_22 | h_40 | h_41 | h_42 | h_43 | h_44 =>
    exact .take rfl fun hx hb => packV_of hc hx ‹_› (fld_reg w 14) (fld_reg w 8) hb (fld_bits w 0 2)
  -- VCMP
  case h_23 | h_24 | h_25 | h_26 | h_27 | h_28 =>
    exact .take rfl fun hd => packV_of hc (fld_bit w 27) ‹_› (fld_mask w 14 hd) (fld_reg w 8) (fld_reg w 2) (fld_bits w 0 2)
  -- VCVT
  case h_30 | h_31 | h_32 | h_33 | h_34 | h_35 | h_36 | h_37 => exact vcvt_faithful hc ‹_›
  -- VRNG, VBCAST
  case h_38 | h_47 => exact .take rfl fun hx ha => packV_of hc hx ‹_› (fld_reg w 14) ha (fld_reg w 2) (fld_bits w 0 2)
  -- VKEY, VWIN
  case h_39 | h_58 => exact .take rfl fun hx hz hm => packV_of hc hx ‹_› (fld_zero hz) (fld_zero hz) (fld_reg w 2) hm
  -- VTOPK
  case h_45 => exact .take rfl fun hx => packV_of hc hx ‹_› (fld_reg w 14) (fld_reg w 8) (fld_reg w 2) (fld_bits w 0 2)
  -- VEXTX
  case h_48 => exact .take rfl fun hx hm => packV_of hc hx ‹_› (fld_reg w 14) (fld_reg w 8) (fld_reg w 2) hm
  -- masks with masks
  case h_49 | h_50 | h_51 | h_52 =>
    exact .take rfl fun hx hd ha hb hm => packV_of hc hx ‹_› (fld_mask w 14 hd) (fld_mask w 8 ha) (fld_mask w 2 hb) hm
  -- VMPOPC, VMGET, VMSET
  case h_53 => exact .take rfl fun hx ha hz => packV_of hc hx ‹_› (fld_reg w 14) (fld_mask w 8 ha) (fld_zero hz) (fld_zero hz)
  case h_54 =>
    exact .take rfl fun hx ha hq hm =>
      packV_of hc hx ‹_› (fld_reg w 14) (fld_mask w 8 ha) (fld_low w 2 2 4 hq (fld_bits w 2 2)) hm
  case h_55 =>
    exact .take rfl fun hx hd hq hm =>
      packV_of hc hx ‹_› (fld_mask w 14 hd) (fld_low w 8 2 4 hq (fld_bits w 8 2)) (fld_reg w 2) hm
  -- VLDR, VSTR
  case h_56 | h_57 => exact .take rfl fun hx ha hm => packV_of hc hx ‹_› (fld_reg w 14) ha (fld_reg w 2) hm
  -- VWALK, VLDW, VFENCE
  case h_59 => exact .take rfl fun hx hd hm => packV_of hc hx ‹_› hd (fld_reg w 8) (fld_reg w 2) hm
  case h_60 => exact .take rfl fun hx hz => packV_of hc hx ‹_› (fld_reg w 14) (fld_zero hz) (fld_zero hz) (fld_zero hz)
  case h_61 =>
    exact .take rfl fun hx hz => packV_of hc hx ‹_› (fld_zero hz) (fld_zero hz) (fld_zero hz) (fld_zero hz)
  case h_62 => exact .error
  all_goals exact .ok rfl (packV_of hc (fld_bit w 27) ‹_› (fld_reg w 14) (fld_reg w 8) (fld_reg w 2) (fld_bits w 0 2))

/-! The P form names its operation through its template alone (R53). -/

theorem decodeMatrix_faithful (op : Nat) (hc : fld w 28 4 = 9) : Faithful w (decodeMatrix op w) := by
  unfold decodeMatrix
  split
  case h_9 => exact .error
  all_goals exact .ok rfl (packP_of hc (fld_bits w 22 6) (fld_bits w 16 6) (fld_bits w 0 16))

theorem decodeCopy_faithful (op : Nat) (hc : fld w 28 4 = 10) : Faithful w (decodeCopy op w) := by
  unfold decodeCopy
  split
  case h_12 => exact .error
  all_goals exact .ok rfl (packP_of hc (fld_bits w 22 6) (fld_bits w 16 6) (fld_bits w 0 16))

theorem decodePrism_faithful (op : Nat) (hc : fld w 28 4 = 12) : Faithful w (decodePrism op w) := by
  unfold decodePrism
  split
  case h_11 => exact .error
  all_goals exact .ok rfl (packP_of hc (fld_bits w 22 6) (fld_bits w 16 6) (fld_bits w 0 16))

/-! The E form. -/

theorem decodeAtomic_faithful (hc : fld w 28 4 = 11) : Faithful w (decodeAtomic w) := by
  unfold decodeAtomic
  split
  -- ALD, ABARR
  case h_1 =>
    exact .withScope fun _ hs => .take rfl fun _ hb => packE_of hc ‹_› (fld_ord w) hs (fld_reg w 11) (fld_reg w 5) hb
  case h_16 =>
    exact .withScope fun _ hs => .take rfl fun hb => packE_of hc ‹_› (fld_ord w) hs (fld_reg w 11) (fld_reg w 5) hb
  -- no reply: AST, ABINIT, ABEXP, ASEMP
  case h_2 | h_15 | h_17 | h_19 =>
    exact .withScope fun _ hs => .take rfl fun _ hd => packE_of hc ‹_› (fld_ord w) hs hd (fld_reg w 5) (fld_bits w 0 5)
  -- ACAS
  case h_13 | h_14 =>
    exact .withScope fun _ hs => .take rfl fun hb =>
      packE_of hc ‹_› (fld_ord w) hs (fld_reg w 11) (fld_reg w 5) (fld_split w 0 1 4 hb (fld_bits w 1 4))
  -- ABWAIT, ASEMW
  case h_18 | h_20 =>
    exact .withScope fun _ hs => .take rfl fun _ =>
      packE_of hc ‹_› (fld_ord w) hs (fld_reg w 11) (fld_reg w 5) (fld_bits w 0 5)
  case h_21 => exact .error
  all_goals
    exact .withScope fun _ hs => .ok rfl (packE_of hc ‹_› (fld_ord w) hs (fld_reg w 11) (fld_reg w 5) (fld_bits w 0 5))

theorem decodeStash_faithful (hc : fld w 28 4 = 13) : Faithful w (decodeStash w) := by
  unfold decodeStash
  split
  -- SREL, SQRY
  case h_4 | h_5 =>
    exact .withScope fun _ hs => .take rfl fun _ hb => packE_of hc ‹_› (fld_ord w) hs (fld_reg w 11) (fld_reg w 5) hb
  case h_7 => exact .error
  all_goals
    exact .withScope fun _ hs => .take rfl fun _ =>
      packE_of hc ‹_› (fld_ord w) hs (fld_reg w 11) (fld_reg w 5) (fld_bits w 0 5)

theorem decodeLine_faithful (hc : fld w 28 4 = 14) : Faithful w (decodeLine w) := by
  unfold decodeLine
  split
  -- no order: LEXP, LOPT, NLOOK
  case h_1 | h_3 | h_5 =>
    exact .withScope fun _ hs => .take rfl fun ho => packE_of hc ‹_› ho hs (fld_reg w 11) (fld_reg w 5) (fld_bits w 0 5)
  -- LRED, LQRY
  case h_2 =>
    exact .withScope fun _ hs => .take rfl fun _ =>
      packE_of hc ‹_› (fld_ord w) hs (fld_reg w 11) (fld_reg w 5) (fld_bits w 0 5)
  case h_4 =>
    exact .withScope fun _ hs => .take rfl fun _ hb => packE_of hc ‹_› (fld_ord w) hs (fld_reg w 11) (fld_reg w 5) hb
  -- NREF, NHAS
  case h_6 | h_11 =>
    exact .withScope fun _ hs => .take rfl fun ho hz =>
      packE_of hc ‹_› ho hs (fld_reg w 11) (fld_split w 5 1 5 (fld_zero hz) (fld_bits w 6 5)) (fld_zero hz)
  -- NREL
  case h_7 =>
    exact .withScope fun _ hs => .take rfl fun _ hz =>
      packE_of hc ‹_› (fld_ord w) hs (fld_reg w 11) (fld_split w 5 1 5 (fld_zero hz) (fld_bits w 6 5)) (fld_zero hz)
  -- NSWAP
  case h_8 =>
    exact .withScope fun _ hs => .take rfl fun _ hz =>
      packE_of hc ‹_› (fld_ord w) hs (fld_reg w 11) (fld_reg w 5) (fld_split w 0 2 3 hz (fld_bits w 2 3))
  -- NGET, NXFER
  case h_9 | h_12 =>
    exact .withScope fun _ hs => .take rfl fun _ hz =>
      packE_of hc ‹_› (fld_ord w) hs (fld_reg w 11) (fld_split w 5 1 5 hz (fld_bits w 6 5)) (fld_bits w 0 5)
  -- NOUT
  case h_10 =>
    exact .withScope fun _ hs => .take rfl fun ho ha hb =>
      packE_of hc ‹_› ho hs (fld_reg w 11) (fld_split w 5 1 5 ha (fld_bits w 6 5)) (fld_split w 0 1 4 hb (fld_bits w 1 4))
  case h_13 => exact .error

theorem decodeSched_faithful (hc : fld w 28 4 = 15) : Faithful w (decodeSched w) := by
  unfold decodeSched
  split
  -- GROW, GSTAT
  case h_1 | h_6 =>
    exact .withScope fun _ hs => .take rfl fun ho ha => packE_of hc ‹_› ho hs (fld_reg w 11) ha (fld_bits w 0 5)
  -- POST, FENCEW
  case h_2 =>
    exact .withScope fun _ hs => .take rfl fun _ hb => packE_of hc ‹_› (fld_ord w) hs (fld_reg w 11) (fld_reg w 5) hb
  case h_3 =>
    exact .withScope fun _ hs => .take rfl fun _ hz =>
      packE_of hc ‹_› (fld_ord w) hs (fld_reg w 11) (fld_zero hz) (fld_zero hz)
  -- GBIND, GREBIND
  case h_4 | h_5 =>
    exact .withScope fun _ hs => .take rfl fun _ =>
      packE_of hc ‹_› (fld_ord w) hs (fld_reg w 11) (fld_reg w 5) (fld_bits w 0 5)
  -- PTSET, HMRISK, PRACK
  case h_7 =>
    exact .withScope fun _ hs => .take rfl fun ho => packE_of hc ‹_› ho hs (fld_reg w 11) (fld_reg w 5) (fld_bits w 0 5)
  case h_8 =>
    exact .withScope fun _ hs => .take rfl fun ho hz => packE_of hc ‹_› ho hs (fld_reg w 11) (fld_zero hz) (fld_zero hz)
  case h_9 =>
    exact .withScope fun _ hs => .take rfl fun ho hz =>
      packE_of hc ‹_› ho hs (fld_zero hz) (fld_zero hz) (fld_zero hz)
  case h_10 => exact .error

end Sys2Proof
end

section
namespace Sys2Proof

/-! The decoder as a whole (R50). -/

theorem decodeClass_faithful (op : Nat) (w : IWord) : Faithful w (decodeClass op w) := by
  unfold decodeClass
  split
  case h_1 hc => exact decodeA_faithful hc
  case h_2 hc => exact decodeI_faithful hc
  case h_3 hc => exact decodeM_faithful hc
  case h_4 hc => exact decodeB_faithful hc
  case h_5 hc => exact decodeS_faithful hc
  case h_6 hc => exact decodeW_faithful hc
  case h_7 hc => exact decodeV_faithful hc
  case h_8 hc =>
    split
    · exact decodeMatrix_faithful op hc
    · exact .error
  case h_9 hc =>
    split
    · exact decodeCopy_faithful op hc
    · exact .error
  case h_10 hc => exact decodeAtomic_faithful hc
  case h_11 hc =>
    split
    · exact decodePrism_faithful op hc
    · exact .error
  case h_12 hc => exact decodeStash_faithful hc
  case h_13 hc => exact decodeLine_faithful hc
  case h_14 hc => exact decodeSched_faithful hc
  case h_15 => exact .error

/-- A word decodes to what its class decodes it to, if that is well-formed. -/
theorem decodeWord_eq_ok {op : Nat} {w : IWord} {i : Instr} (h : decodeWord op w = .ok i) :
    decodeClass op w = .ok i ∧ wellFormed i = true := by
  unfold decodeWord at h
  split at h
  · split at h
    · cases h
      exact ⟨‹_›, ‹_›⟩
    · cases h
  · cases h

/-- Settles O55: every class answers faithfully, and only a well-formed word is taken. -/
theorem decodeSound : Obligations.DecodeSound := by
  intro op w i h
  obtain ⟨hcls, hwf⟩ := decodeWord_eq_ok h
  obtain ⟨hw, he⟩ := decodeClass_faithful op w i hcls
  exact ⟨hw, hwf, he⟩

end Sys2Proof
end

section
namespace Sys2Proof.Machine

/-! WLD, WINS, SHLADD and SEL (R60, R102, R104). -/

/-- A shift left reduces the shifted value modulo 2^64 (R88). -/
theorem shiftLeft_eq_w64 (a : Word) (n : Nat) : a <<< n = w64 (a.toNat * 2 ^ n : Nat) := by
  refine BitVec.eq_of_toNat_eq ?_
  rw [w64, BitVec.ofInt_natCast, BitVec.toNat_shiftLeft, Nat.shiftLeft_eq, BitVec.toNat_ofNat]

theorem w64_add (a : Nat) (b : Word) : w64 (a : Nat) + b = w64 (a + b.toNat : Nat) := by
  refine BitVec.eq_of_toNat_eq ?_
  simp only [w64, BitVec.ofInt_natCast, BitVec.toNat_add, BitVec.toNat_ofNat, Nat.mod_add_mod]

theorem chunk_eq_w64 (k : BitVec 2) (imm : BitVec 16) : chunk k imm = w64 (imm.toNat * 2 ^ (16 * k.toNat) : Nat) := by
  rw [chunk, shiftLeft_eq_w64, BitVec.toNat_setWidth_of_le (by decide)]

/-- A chunk holds its immediate at its place and zeros elsewhere (R60). -/
theorem getLsbD_chunk (k : BitVec 2) (imm : BitVec 16) {i : Nat} (hi : i < 64) :
    (chunk k imm).getLsbD i =
      if 16 * k.toNat ≤ i ∧ i < 16 * k.toNat + 16 then imm.getLsbD (i - 16 * k.toNat) else false := by
  rw [chunk, BitVec.getLsbD_shiftLeft, BitVec.getLsbD_setWidth]
  by_cases hlo : 16 * k.toNat ≤ i
  · by_cases hhi : i < 16 * k.toNat + 16
    · simp [hi, hlo, hhi, Nat.not_lt.2 hlo, Nat.lt_of_le_of_lt (Nat.sub_le i (16 * k.toNat)) hi]
    · simp [hhi, BitVec.getLsbD_of_ge imm (i - 16 * k.toNat) (by omega)]
  · simp [hlo, Nat.lt_of_not_le hlo]

/-- WINS puts the immediate in place of a chunk of the register (R60). -/
theorem getLsbD_insertChunk (a : Word) (k : BitVec 2) (imm : BitVec 16) {i : Nat} (hi : i < 64) :
    ((a &&& ~~~(chunk k 0xFFFF#16)) ||| chunk k imm).getLsbD i =
      if 16 * k.toNat ≤ i ∧ i < 16 * k.toNat + 16 then imm.getLsbD (i - 16 * k.toNat) else a.getLsbD i := by
  have hones : ∀ j, j < 16 → (0xFFFF#16).getLsbD j = true := by decide
  rw [BitVec.getLsbD_or, BitVec.getLsbD_and, BitVec.getLsbD_not, getLsbD_chunk k _ hi, getLsbD_chunk k _ hi]
  split
  · rw [hones _ (by omega)]
    simp
  · simp [hi]

/-- Settles O9: each is one register write; WINS's value is read bit by bit. -/
theorem wideSelect : Obligations.WideSelect := by
  intro s f xd xa xb fa fb k n imm h
  refine ⟨_, ?wld, ?wins, fun i hi => getLsbD_insertChunk (f.rd xd) k imm hi, ?shladd, ?selLow, ?selHigh⟩
  case wld => exact .of_write (fault := noFault) (val := fun _ _ => chunk k imm) h rfl fun _ => chunk_eq_w64 k imm
  case wins => exact .of_write h (e := rfl) fun _ => rfl
  case shladd =>
    refine .of_write h (e := rfl) fun _ => ?_
    rw [shiftLeft_eq_w64, w64_add]
  case selLow => exact .of_write h (e := rfl) fun _ => rfl
  case selHigh => exact .of_write h (e := rfl) fun _ => rfl

/-! The words that the spec writes out, and the machine's going on. -/

/-- Settles O53: the decoder is run on each of the words. -/
theorem specWordsDecode : Obligations.SpecWordsDecode :=
  ⟨rfl, rfl, rfl, rfl, rfl, rfl, rfl, rfl, rfl, rfl, rfl, rfl, rfl, rfl, rfl, rfl, rfl, rfl, rfl, rfl, rfl⟩

/-- Settles O58: a step is the exec of an instruction, which answers a next state, and what follows it. -/
theorem noStop : Obligations.NoStop := by
  intro i s
  obtain ⟨t, ht⟩ := exec_next (nextStep s) (takeAgenda s)
  exact ⟨exec_next i s, afterStep t, step_of_exec ht⟩

end Sys2Proof.Machine
end

section
namespace Sys2Proof.Machine

/-! Branches, jumps and loop words (R72, R73, R77, R117, R118): what raises their fault, and what they leave. -/

/-- An unchecked word that may stand in its context, that is not held, and whose registers are full and unmarked, raises the fault of
its operands (R169). -/
theorem word_raises {w : Instr} {fault : Issue → State → Option (Nat × Word)} {fx : Issue → State → State} {s : State} {f : Issue}
    {code : Nat} {v : Word} {l : List (RegNo × Bool)} {d : List RegNo} (hs : s.issue = some f) (hc : f.checked = false)
    (e : exec w s = issueWord w fault fx s) (hp : pform w = none) (hn : needsOf (coreOf s f.core) f.snap w = ⟨l, d, []⟩)
    (hi : illegalHere (frameTask s f).priv f.ctx w = none) (hb : loopBusy f.snap w = false)
    (hr : wordReady s f.core f.ctx f.snap.seq w = true)
    (hl : ∀ r ∈ l, (f.snap.reg r.1).pend = [] ∧ (f.snap.reg r.1).mark = none) (hd : ∀ r ∈ d, (f.snap.reg r).pend = [])
    (hf : fault f s = some (code, v)) : exec w s = .next (raise s f.core f.ctx f.pc code v) := by
  have hneeds : needsMet f.snap ⟨l, d, []⟩ = true := by
    simp only [needsMet, Ctx.fullX, Bool.and_eq_true, List.all_eq_true, Bool.or_eq_true]
    exact ⟨⟨fun r h => .inr (by rw [(hl r h).1]; rfl), fun r h => by rw [hd r h]; rfl⟩, by simp⟩
  have hmark : markedSource f.snap ⟨l, d, []⟩ = none := by
    have : l.find? (fun r =>
        match (f.snap.reg r.1).mark with
        | some m => f.snap.fullX r.1 && (r.2 || !m.trapOnly)
        | none => false) = none := List.find?_eq_none.mpr fun r h => by simp [(hl r h).2]
    simp only [markedSource]
    split
    · rename_i r h
      exact absurd (this.symm.trans h) (by simp)
    · rfl
  have hempty : emptySource f.snap ⟨l, d, []⟩ = none := by
    simp only [emptySource, Option.map_eq_none_iff, List.find?_eq_none]
    exact fun r h => by simp [Ctx.fullX, (hl r h).1]
  have hform : formedWord w f s = none := by simp [formedWord, hp]
  have hearly : earlyReserved w f s = none := by simp [earlyReserved, hform]
  have hlate : lateReserved w f s = none := by simp [lateReserved, hform]
  rw [e]
  simp only [issueWord, hs, hc, hi, hb, hn, hneeds, hr, hearly, hmark, hempty, hlate, hf]
  rfl

/-- A relative target, as the sum of whole numbers that R117 gives. -/
theorem relTarget_eq (off : BitVec 10) (f : Issue) : relTarget off f = w64 (f.pc.toNat + 16 * off.toInt) := by
  have h : w64 (f.pc.toNat + 16 * off.toInt) = BitVec.ofInt 64 f.pc.toNat + BitVec.ofInt 64 16 * BitVec.ofInt 64 off.toInt := by
    rw [w64, BitVec.ofInt_add, BitVec.ofInt_mul]
  rw [h, BitVec.ofInt_natCast, BitVec.ofNat_toNat, BitVec.setWidth_eq]
  rfl

theorem Cond.holds_eq (a b : Word) : Cond.eq.holds a b = true ↔ a = b := beq_iff_eq
theorem Cond.holds_ne (a b : Word) : Cond.ne.holds a b = true ↔ a ≠ b := bne_iff_ne
theorem Cond.holds_lt (a b : Word) : Cond.lt.holds a b = true ↔ a.toInt < b.toInt := decide_eq_true_iff
theorem Cond.holds_ltn (a b : Word) : Cond.ltn.holds a b = true ↔ a.toNat < b.toNat := decide_eq_true_iff

theorem Cond.holds_ge (a b : Word) : Cond.ge.holds a b = true ↔ a.toInt ≥ b.toInt := by
  simp [Cond.holds, BitVec.slt]

theorem Cond.holds_gen (a b : Word) : Cond.gen.holds a b = true ↔ a.toNat ≥ b.toNat := by
  simp [Cond.holds, BitVec.ult]

/-- The frame of a packet after a word that takes a branch to an offset where p holds. -/
def branched (f : Issue) (off : BitVec 10) (p : Prop) [Decidable p] : Issue :=
  if p then { f with next := some (w64 (f.pc.toNat + 16 * off.toInt)) } else f

/-- A branch whose condition says p steers its packet where p holds, and else leaves everything. -/
theorem Steers.of_branch {i : Instr} {s : State} {f : Issue} {fault : Issue → State → Option (Nat × Word)} {taken : Issue → Bool}
    {off : BitVec 10} {p : Prop} [Decidable p] (h : Acting s f) (e : exec i s = issueWord i fault (branchIf taken off) s)
    (ht : taken f = true ↔ p) : Steers i s f (branched f off p) := by
  refine Steers.of_frame h e fun u hu => ?_
  by_cases hp : p
  · rw [branchIf, if_pos (ht.mpr hp), branched, if_pos hp, goTo, setFrame, hu, relTarget_eq]
    rfl
  · rw [branchIf, if_neg (fun k => hp (ht.mp k)), branched, if_neg hp, ← hu]

theorem targetFault_high {taken : Issue → Bool} {target : Issue → Word} {f : Issue} {s : State} (ht : taken f = true)
    (hh : 2 ^ 48 ≤ (target f).toNat) : targetFault taken target f s = some (5, target f) := by
  simp only [targetFault, ht, hh, decide_true, Bool.and_self, if_true]

/-- A branch that is taken to a target at or above 2^48 raises RANGE (R77). -/
theorem branch_raises {i : Instr} {s : State} {f : Issue} {fx : Issue → State → State} {taken : Issue → Bool} {off : BitVec 10}
    {l : List (RegNo × Bool)} (hs : s.issue = some f) (hc : f.checked = false)
    (hh : 2 ^ 48 ≤ (w64 (f.pc.toNat + 16 * off.toInt)).toNat)
    (e : exec i s = issueWord i (targetFault taken (relTarget off)) fx s) (hp : pform i = none)
    (hn : needsOf (coreOf s f.core) f.snap i = ⟨l, [], []⟩) (hi : illegalHere (frameTask s f).priv f.ctx i = none)
    (hb : loopBusy f.snap i = false) (hr : wordReady s f.core f.ctx f.snap.seq i = true)
    (hl : ∀ r ∈ l, (f.snap.reg r.1).pend = [] ∧ (f.snap.reg r.1).mark = none) (ht : taken f = true) :
    exec i s = .next (raise s f.core f.ctx f.pc 5 (w64 (f.pc.toNat + 16 * off.toInt))) := by
  rw [← relTarget_eq]
  exact word_raises hs hc e hp hn hi hb hr hl (by simp) (targetFault_high ht (by rwa [relTarget_eq]))

/-- Settles O19: each word is a branch on its condition; where it traps, nothing but its target stops it. -/
theorem branches : Obligations.Branches := by
  intro s f xa xb fa fb neg p off a b target
  refine ⟨fun hs hc hh hr => ?_, fun h => ?_⟩
  · intro traps
    have two : ∀ r ∈ [(xa, fa), (xb, fb)], (f.snap.reg r.1).pend = [] ∧ (f.snap.reg r.1).mark = none := by
      simpa using ⟨hr xa (.inl rfl), hr xb (.inr rfl)⟩
    exact ⟨fun k => branch_raises hs hc hh (taken := takenOn .eq xa xb) rfl rfl rfl rfl rfl rfl two ((Cond.holds_eq a b).mpr k),
      fun k => branch_raises hs hc hh (taken := takenOn .ne xa xb) rfl rfl rfl rfl rfl rfl two ((Cond.holds_ne a b).mpr k),
      fun k => branch_raises hs hc hh (taken := takenOn .lt xa xb) rfl rfl rfl rfl rfl rfl two ((Cond.holds_lt a b).mpr k),
      fun k => branch_raises hs hc hh (taken := takenOn .ge xa xb) rfl rfl rfl rfl rfl rfl two ((Cond.holds_ge a b).mpr k),
      fun k => branch_raises hs hc hh (taken := takenOn .ltn xa xb) rfl rfl rfl rfl rfl rfl two ((Cond.holds_ltn a b).mpr k),
      fun k => branch_raises hs hc hh (taken := takenOn .gen xa xb) rfl rfl rfl rfl rfl rfl two ((Cond.holds_gen a b).mpr k),
      fun k => branch_raises hs hc hh (taken := takenPred neg p) (l := []) rfl rfl rfl rfl rfl rfl (by simp) (bne_iff_ne.mpr k),
      branch_raises hs hc hh (taken := fun _ => true) (l := []) rfl rfl rfl rfl rfl rfl (by simp) rfl⟩
  · exact ⟨Steers.of_branch h rfl (Cond.holds_eq a b), Steers.of_branch h rfl (Cond.holds_ne a b),
      Steers.of_branch h rfl (Cond.holds_lt a b), Steers.of_branch h rfl (Cond.holds_ge a b),
      Steers.of_branch h rfl (Cond.holds_ltn a b), Steers.of_branch h rfl (Cond.holds_gen a b),
      Steers.of_branch (taken := takenPred neg p) h rfl bne_iff_ne,
      Steers.of_branch (p := True) h rfl (by simp)⟩

end Sys2Proof.Machine
end

section
namespace Sys2Proof.Machine

/-! Jumps and loop words (R72, R73, R118). -/

/-- The word completes by steering its packet's frame to g and changing its context, as its reads have left it, by a function. -/
def Alters (i : Instr) (s : State) (f g : Issue) (h : Ctx → Ctx) : Prop :=
  ∃ t x, exec i s = .next t ∧ t.issue = some g ∧ OnlyIssued s t ∧ t.acc = s.acc ∧ t.cmds = s.cmds ∧ t.nextId = s.nextId ∧
    SameBytes s t ∧ OnlyContext s t f.core f.ctx ∧ OnlyRegs (ctxOf s f.core f.ctx) x ∧
    (∀ q, SameReg (ctxOf s f.core f.ctx) x q) ∧ ctxOf t f.core f.ctx = h x

theorem Alters.of_frame {i : Instr} {s : State} {f g : Issue} {h : Ctx → Ctx} {fault : Issue → State → Option (Nat × Word)}
    {fx : Issue → State → State} (ha : Acting s f) (e : exec i s = issueWord i fault fx s)
    (hf : ∀ u, u.issue = some f → fx f u = { frameCtx u f h with issue := some g }) : Alters i s f g h := by
  rw [issueWord_checked ha] at e
  generalize hrs : (needsOf (coreOf s f.core) f.snap i).src.map (fun r => r.1) = rs at e
  obtain ⟨a, b, c, d, r⟩ := acquired_state s f rs
  have hu := hf (frameCtx s f (fun c => c.acquire rs)) ha.1
  simp only [actWord, hrs, hu] at e
  refine ⟨_, ctxOf (frameCtx s f (fun c => c.acquire rs)) f.core f.ctx, e, rfl, ?_⟩
  generalize frameCtx s f (fun c => c.acquire rs) = u at *
  have oc : OnlyContext s { frameCtx u f h with issue := some g } f.core f.ctx :=
    (c.trans (OnlyContext.of_frame u f h)).of_cores rfl
  have oi : OnlyIssued s { frameCtx u f h with issue := some g } := a
  exact ⟨oi, b.2.1, b.2.2.1, b.2.2.2, SameBytes.of_context oc oi.mem, oc, d, r, ctxOf_frameCtx u f h⟩

theorem absFault_high {t : Word} (h : 2 ^ 48 ≤ t.toNat) : absFault t = some (5, t) := by rw [absFault, if_pos h]

theorem absFault_odd {t : Word} (h : t.toNat < 2 ^ 48) (ha : t.toNat % 16 ≠ 0) : absFault t = some (7, t) := by
  rw [absFault, if_neg (Nat.not_le.mpr h), if_pos ha]

/-- What JL leaves: the link in x62, and its target (R118). -/
theorem jl_alters {s : State} {f : Issue} (off : BitVec 10) (h : Acting s f) :
    Alters (.jl off) s f { f with next := some (w64 (f.pc.toNat + 16 * off.toInt)) } (fun c => c.writeX 62#6 f.slot (f.pc + 16#64)) := by
  refine Alters.of_frame h (e := rfl) fun u hu => ?_
  rw [goTo, setFrame, ← relTarget_eq]
  simp only [frameCtx_issue, hu]
  rfl

/-- Settles O20: the traps as their fault says, JR's target, and JL's target with its link. -/
theorem jumps : Obligations.Jumps := by
  intro s f xa fa off target
  refine ⟨fun hs hc => ⟨fun hp hm => ?_, fun hp hh => ?_⟩, fun h => ⟨?_, ?_⟩⟩
  · have one : ∀ r ∈ [(xa, fa)], (f.snap.reg r.1).pend = [] ∧ (f.snap.reg r.1).mark = none := by simpa using ⟨hp, hm⟩
    exact ⟨fun hh => word_raises (fault := fun f _ => absFault (f.rd xa)) (d := []) hs hc rfl rfl rfl rfl rfl rfl one (by simp)
        (absFault_high hh),
      fun hh ha => word_raises (fault := fun f _ => absFault (f.rd xa)) (d := []) hs hc rfl rfl rfl rfl rfl rfl one (by simp)
        (absFault_odd hh ha)⟩
  · have ht : target = relTarget off f := (relTarget_eq off f).symm
    rw [ht] at hh ⊢
    exact word_raises (l := []) (d := [62#6]) hs hc rfl rfl rfl rfl rfl rfl (by simp) (by simpa using hp)
      (targetFault_high (taken := fun _ => true) rfl hh)
  · exact Steers.of_frame h (fault := fun f _ => absFault (f.rd xa)) (fx := fun f s => goTo (f.rd xa) s) rfl fun u hu => by
      rw [goTo, setFrame, hu]
      rfl
  · obtain ⟨t, x, he, hi, ho, h1, h2, h3, h4, h5, hx, hr, hd⟩ := jl_alters off h
    obtain ⟨hv, hm, hp⟩ := Ctx.writeX_self x 62#6 f.slot (f.pc + 16#64) (by decide)
    refine ⟨t, he, hi, ho, h1, h2, h3, h4, h5, ?_⟩
    rw [hd]
    exact ⟨hx.trans (Ctx.writeX_only x _ _ _), hv, hm, hp.trans (hr 62#6).2.2.1,
      fun q hq => (hr q).trans (Ctx.writeX_other x 62#6 q _ _ (.inl hq))⟩

/-! The stage predicates (R66, R72). -/

/-- Predicates written one after another, each with a value that no such write changes. -/
theorem pred_foldl_setPred {v : Ctx → Nat → Bool} (hv : ∀ c n b j, v (c.setPred n b) j = v c j) (l : List Nat)
    (hl : ∀ j ∈ l, j ≠ 0 ∧ j < 16) (c : Ctx) (m : Nat) :
    (l.foldl (fun c j => c.setPred j (v c j)) c).pred m = if m ∈ l then v c m else c.pred m := by
  induction l generalizing c with
  | nil => rfl
  | cons j l ih =>
    obtain ⟨hj, hl⟩ := List.forall_mem_cons.mp hl
    rw [List.foldl_cons, ih hl, hv]
    by_cases hm : m ∈ l
    · simp [hm]
    · by_cases hmj : m = j
      · subst hmj
        simp [hm, Ctx.pred_setPred_same c m _ hj.1 hj.2]
      · simp [hm, hmj, Ctx.pred_setPred_ne c j m _ hmj hj.2]

theorem foldl_setPred_only (v : Ctx → Nat → Bool) (l : List Nat) (c : Ctx) :
    { l.foldl (fun c j => c.setPred j (v c j)) c with p := c.p } = c := by
  induction l generalizing c with
  | nil => rfl
  | cons j l ih =>
    have e := congrArg (fun d : Ctx => { d with p := c.p }) (ih (c.setPred j (v c j)))
    exact e.trans (Ctx.setPred_only c j _)

theorem mem_stages (m : Nat) : m ∈ upFrom 1 7 ↔ 1 ≤ m ∧ m < 8 := by
  rw [upFrom_eq]
  simp only [List.mem_map, List.mem_range]
  exact ⟨fun ⟨i, _, _⟩ => by omega, fun _ => ⟨m - 1, by omega⟩⟩

/-- Whether a stage predicate is set (R72). -/
def stageOn (c : Ctx) (j : Nat) : Bool := decide (j ≤ skK c.sk0) && decide (j - 1 ≤ c.li0.toNat) && decide (c.li0.toNat < j - 1 + skN c.sk0)

theorem stageOn_setPred (c : Ctx) (n : Nat) (b : Bool) (j : Nat) : stageOn (c.setPred n b) j = stageOn c j := by
  rw [Ctx.setPred]
  split <;> rfl

theorem Ctx.pred_setStage (c : Ctx) (m : Nat) : c.setStage.pred m = if 1 ≤ m ∧ m < 8 then stageOn c m else c.pred m := by
  have h := pred_foldl_setPred stageOn_setPred (upFrom 1 7) (fun j hj => by have := (mem_stages j).mp hj; omega) c m
  simp only [mem_stages] at h
  exact h

theorem Ctx.setStage_only (c : Ctx) : { c.setStage with p := c.p } = c := foldl_setPred_only stageOn (upFrom 1 7) c

theorem Ctx.pred_clearStage (c : Ctx) (m : Nat) : c.clearStage.pred m = if 1 ≤ m ∧ m < 8 then false else c.pred m := by
  have h := pred_foldl_setPred (v := fun _ _ => false) (fun _ _ _ _ => rfl) (upFrom 1 7)
    (fun j hj => by have := (mem_stages j).mp hj; omega) c m
  simp only [mem_stages] at h
  exact h

theorem Ctx.clearStage_only (c : Ctx) : { c.clearStage with p := c.p } = c := foldl_setPred_only (fun _ _ => false) (upFrom 1 7) c

theorem OnlyRegs.pred {c d : Ctx} (h : OnlyRegs c d) (m : Nat) : d.pred m = c.pred m := by
  have e : c.p = d.p := by rw [← h]
  rw [Ctx.pred, Ctx.pred, e]

/-! The loop words. -/

theorem loopTarget_eq (xa : RegNo) (d : BitVec 10) (f : Issue) : loopTarget xa d f =
    f.pc + (if (f.rd xa).toNat % 2 ^ 32 = 0 then w64 (16 * (d.toNat + 1) : Nat) else 16#64) := by
  rw [w64, BitVec.ofInt_natCast, loopTarget, tripCount]
  split <;> rfl

/-- The descriptor of an active loop (R68). -/
theorem lcWord_active {len start : Nat} (hl : len < 512) (hs : start < 2 ^ 48) :
    lcWord true len start = w64 (2 ^ 63 + len * 2 ^ 54 + start / 16 * 2 ^ 4 : Nat) := by
  rw [lcWord, w64, BitVec.ofInt_natCast, Nat.mod_eq_of_lt hl, Nat.mod_eq_of_lt (by omega : start / 16 < 2 ^ 44)]
  rfl

/-- A loop word that skips its body. -/
theorem loop_skips {i : Instr} {s : State} {f : Issue} {xa : RegNo} {d : BitVec 10} {fault : Issue → State → Option (Nat × Word)}
    {body : Issue → State → State} (h : Acting s f) (hn : (f.rd xa).toNat % 2 ^ 32 = 0)
    (e : exec i s = issueWord i fault (fun f s =>
      if tripCount xa f = 0 then goLoop (loopTarget xa d f) s else body f (goLoop (loopTarget xa d f) s)) s) :
    Steers i s f { f with next := some (f.pc + w64 (16 * (d.toNat + 1) : Nat)), loop := true } := by
  refine Steers.of_frame h e fun u hu => ?_
  rw [if_pos (by exact hn), goLoop, setFrame, hu, loopTarget_eq, if_pos hn]
  rfl

/-- A loop word that goes into its body. -/
theorem loop_enters {i : Instr} {s : State} {f : Issue} {xa : RegNo} {d : BitVec 10} {fault : Issue → State → Option (Nat × Word)}
    {g : Issue → Ctx → Ctx} (h : Acting s f) (hn : (f.rd xa).toNat % 2 ^ 32 ≠ 0)
    (e : exec i s = issueWord i fault (fun f s =>
      if tripCount xa f = 0 then goLoop (loopTarget xa d f) s else frameCtx (goLoop (loopTarget xa d f) s) f (g f)) s) :
    Alters i s f { f with next := some (f.pc + 16#64), loop := true } (g f) := by
  refine Alters.of_frame h e fun u hu => ?_
  rw [if_neg (by exact hn), goLoop, setFrame, hu, loopTarget_eq, if_neg hn]
  rfl

theorem loop_raises {i : Instr} {s : State} {f : Issue} {fx : Issue → State → State} {xa : RegNo} {fa : Bool} {d : BitVec 10}
    (hs : s.issue = some f) (hc : f.checked = false)
    (e : exec i s = issueWord i (targetFault (fun _ => true) (loopTarget xa d)) fx s) (hp : pform i = none)
    (hn : needsOf (coreOf s f.core) f.snap i = ⟨[(xa, fa)], [], []⟩) (hi : illegalHere (frameTask s f).priv f.ctx i = none)
    (hr : wordReady s f.core f.ctx f.snap.seq i = true) (hx : (f.snap.reg xa).pend = []) (hm : (f.snap.reg xa).mark = none)
    (hh : 2 ^ 48 ≤ (loopTarget xa d f).toNat) (hb : loopBusy f.snap i = false) :
    exec i s = .next (raise s f.core f.ctx f.pc 5 (loopTarget xa d f)) := by
  exact word_raises hs hc e hp hn hi hb hr (by simpa using ⟨hx, hm⟩) (by simp) (targetFault_high rfl hh)

/-- An unchecked loop word whose loop is active is illegal (R72, R73). -/
theorem issueWord_busy {i : Instr} {s : State} {f : Issue} {fault : Issue → State → Option (Nat × Word)}
    {fx : Issue → State → State} (hs : s.issue = some f) (hc : f.checked = false)
    (hi : illegalHere (frameTask s f).priv f.ctx i = none) (hb : loopBusy f.snap i = true) :
    issueWord i fault fx s =
      .next (raise s f.core f.ctx f.pc 2 (w64 (f.slot * 2 ^ 32 + (encode i).toNat : Nat))) := by
  have hv : wordVal f.slot (encode i) = w64 (f.slot * 2 ^ 32 + (encode i).toNat : Nat) := by
    rw [wordVal, w64, BitVec.ofInt_natCast]
  simp only [issueWord, hs, hc, hi, hb, hv]
  rfl

/-- The stage predicates as LOOP.S enters its body: stage 1 alone runs (R72). -/
theorem stageOn_entered {c : Ctx} {k n j : Nat} (hk : k < 8) (hn : n ≠ 0) (hn' : n < 2 ^ 32) (hi : c.li0 = 0#64)
    (hs : c.sk0 = BitVec.ofNat 64 (k * 2 ^ 32 + n)) (hj : 1 ≤ j) : stageOn c j = decide (j ≤ k ∧ j = 1) := by
  have hK : skK c.sk0 = k := by
    rw [hs, skK, wbits, BitVec.toNat_ofNat]
    omega
  have hN : skN c.sk0 = n := by
    rw [hs, skN, wbits, BitVec.toNat_ofNat]
    omega
  rw [stageOn, hK, hN, hi, ← Bool.decide_and, ← Bool.decide_and]
  refine decide_eq_decide.mpr ?_
  rw [BitVec.toNat_ofNat]
  omega

/-- The context of LOOP.S as it goes into its body, with its descriptor and its trip count and last stage (R72). -/
def Ctx.enterInner (lc sk : Word) (c : Ctx) : Ctx := { c with lc0 := lc, li0 := 0#64, sk0 := sk }.setStage

/-- The context of LOOP.O as it goes into its body, with its descriptor and its trip count (R73). -/
def Ctx.enterOuter (lc li : Word) (c : Ctx) : Ctx := { c with lc1 := lc, li1 := li }

theorem loopS_eq (xa : RegNo) (k : BitVec 6) (fa : Bool) (d : BitVec 10) (s : State) : exec (.loopS xa k fa d) s =
    issueWord (.loopS xa k fa d) (targetFault (fun _ => true) (loopTarget xa d)) (fun f s =>
      if tripCount xa f = 0 then goLoop (loopTarget xa d f) s
      else frameCtx (goLoop (loopTarget xa d f) s) f (Ctx.enterInner (lcWord true d.toNat (f.pc.toNat + 16))
        (BitVec.ofNat 64 (k.toNat * 2 ^ 32 + tripCount xa f)))) s := rfl

theorem loopO_eq (xa : RegNo) (fa : Bool) (d : BitVec 10) (s : State) : exec (.loopO xa fa d) s =
    issueWord (.loopO xa fa d) (targetFault (fun _ => true) (loopTarget xa d)) (fun f s =>
      if tripCount xa f = 0 then goLoop (loopTarget xa d f) s
      else frameCtx (goLoop (loopTarget xa d f) s) f (Ctx.enterOuter (lcWord true d.toNat (f.pc.toNat + 16))
        (BitVec.ofNat 64 (tripCount xa f * 2 ^ 32)))) s := rfl

theorem Ctx.reg_of_x {c d : Ctx} (h : d.x = c.x) (q : RegNo) : d.reg q = c.reg q := by rw [Ctx.reg, Ctx.reg, h]

theorem SameReg.of_x {c d e : Ctx} {q : RegNo} (h : SameReg c d q) (hx : e.x = d.x) : SameReg c e q := by
  unfold SameReg
  rw [Ctx.reg_of_x hx]
  exact h

/-- What entering the inner loop leaves of a context, and what it makes of the loop's registers and predicates (R72). -/
theorem enterInner_spec {c x : Ctx} (h : OnlyRegs c x) (lc sk : Word) :
    let e := x.enterInner lc sk
    OnlyRegs c { e with lc0 := c.lc0, sk0 := c.sk0, li0 := c.li0, p := c.p } ∧ e.x = x.x ∧ e.lc0 = lc ∧ e.sk0 = sk ∧
      e.li0 = 0#64 ∧ ∀ m, e.pred m =
        if 1 ≤ m ∧ m < 8 then stageOn { x with lc0 := lc, li0 := 0#64, sk0 := sk } m else c.pred m := by
  let others (z : Ctx) : Ctx := { z with lc0 := c.lc0, sk0 := c.sk0, li0 := c.li0, p := c.p, x := c.x, hb := c.hb }
  have hy := Ctx.setStage_only { x with lc0 := lc, li0 := 0#64, sk0 := sk }
  have e1 := congrArg others hy
  have e2 := congrArg others h
  refine ⟨e1.trans e2, (congrArg Ctx.x hy :), (congrArg Ctx.lc0 hy :), (congrArg Ctx.sk0 hy :), (congrArg Ctx.li0 hy :), fun m => ?_⟩
  rw [Ctx.enterInner, Ctx.pred_setStage, ← h.pred m]
  rfl

/-- What entering the outer loop leaves of a context (R73). -/
theorem enterOuter_spec {c x : Ctx} (h : OnlyRegs c x) (lc li : Word) :
    let e := x.enterOuter lc li
    OnlyRegs c { e with lc1 := c.lc1, li1 := c.li1 } ∧ e.x = x.x ∧ e.lc1 = lc ∧ e.li1 = li := by
  let others (z : Ctx) : Ctx := { z with lc1 := c.lc1, li1 := c.li1 }
  have e := congrArg others h
  exact ⟨e, rfl, rfl, rfl⟩

/-- Settles O21: the traps, the body skipped, and the body entered with its loop's registers. -/
theorem loops : Obligations.Loops := by
  intro s f xa k fa d hk hd hpc n
  refine ⟨fun hs hc => ⟨fun hb => issueWord_busy hs hc rfl hb, fun hb => issueWord_busy hs hc rfl hb, fun hx hm => ?_⟩,
    fun h hend => ?_⟩
  · intro target hh
    have e : target = loopTarget xa d f := (loopTarget_eq xa d f).symm
    rw [e] at hh ⊢
    exact ⟨fun hb => loop_raises (fa := fa) hs hc rfl rfl rfl rfl rfl hx hm hh hb,
      fun hb => loop_raises (fa := fa) hs hc rfl rfl rfl rfl rfl hx hm hh hb⟩
  intro start desc c
  have hdesc : lcWord true d.toNat (f.pc.toNat + 16) = desc := lcWord_active hd hend
  refine ⟨fun hn => ⟨?_, ?_⟩, fun hn => ⟨?_, ?_⟩⟩
  · exact loop_skips (body := fun f s => frameCtx s f (Ctx.enterInner _ _)) h hn (loopS_eq xa k fa d s)
  · exact loop_skips (body := fun f s => frameCtx s f (Ctx.enterOuter _ _)) h hn (loopO_eq xa fa d s)
  · obtain ⟨t, x, he, hi, ho, h1, h2, h3, h4, h5, hx, hr, hc⟩ :=
      loop_enters (g := fun f => Ctx.enterInner _ _) h hn (loopS_eq xa k fa d s)
    obtain ⟨honly, hregs, hlc, hsk, hli, hp⟩ :=
      enterInner_spec hx (lcWord true d.toNat (f.pc.toNat + 16)) (BitVec.ofNat 64 (k.toNat * 2 ^ 32 + tripCount xa f))
    refine ⟨t, he, hi, ho, h1, h2, h3, h4, h5, ?_⟩
    rw [hc]
    refine ⟨honly, fun q => (hr q).of_x hregs, hlc.trans hdesc, hsk.trans ?_, hli, fun j hj hj' => ?_, fun j hj => ?_⟩
    · rw [w64, BitVec.ofInt_natCast]
      rfl
    · rw [hp j, if_pos ⟨hj, hj'⟩]
      exact stageOn_entered hk hn (Nat.mod_lt _ (by decide)) rfl rfl hj
    · rw [hp j, if_neg (by omega)]
  · obtain ⟨t, x, he, hi, ho, h1, h2, h3, h4, h5, hx, hr, hc⟩ :=
      loop_enters (g := fun f => Ctx.enterOuter _ _) h hn (loopO_eq xa fa d s)
    obtain ⟨honly, hregs, hlc, hli⟩ :=
      enterOuter_spec hx (lcWord true d.toNat (f.pc.toNat + 16)) (BitVec.ofNat 64 (tripCount xa f * 2 ^ 32))
    refine ⟨t, he, hi, ho, h1, h2, h3, h4, h5, ?_⟩
    rw [hc]
    refine ⟨honly, fun q => (hr q).of_x hregs, hlc.trans hdesc, hli.trans ?_⟩
    rw [w64, BitVec.ofInt_natCast]
    rfl

end Sys2Proof.Machine
end

section
namespace Sys2Proof.Machine

/-! CSRW (R67, R68, R72, R129). -/

/-- What a write of a loop register leaves of the stage predicates (R129). -/
theorem Ctx.restage_spec (c : Ctx) :
    { c.restage with p := c.p } = c ∧ (∀ j, 8 ≤ j → c.restage.pred j = c.pred j) ∧
    ∀ j : Nat, 1 ≤ j → j < 8 → c.restage.pred j = decide (c.lc0.getLsbD 63 = true ∧ j ≤ c.sk0.toNat / 2 ^ 32 % 2 ^ 3 ∧
      (0 : Int) ≤ c.li0.toNat - (j - 1 : Int) ∧ c.li0.toNat - (j - 1 : Int) < (c.sk0.toNat % 2 ^ 32 : Nat)) := by
  by_cases h : c.lc0.getLsbD 63 = true
  · have e : c.restage = c.setStage := if_pos h
    rw [e]
    refine ⟨c.setStage_only, fun j hj => ?_, fun j hj hj' => ?_⟩
    · rw [Ctx.pred_setStage, if_neg (by omega)]
    · rw [Ctx.pred_setStage, if_pos ⟨hj, hj'⟩, stageOn, ← Bool.decide_and, ← Bool.decide_and]
      refine decide_eq_decide.mpr ?_
      simp only [skK, skN, wbits, h, true_and]
      omega
  · have e : c.restage = c.clearStage := if_neg h
    rw [e]
    refine ⟨c.clearStage_only, fun j hj => ?_, fun j hj hj' => ?_⟩
    · rw [Ctx.pred_clearStage, if_neg (by omega)]
    · rw [Ctx.pred_clearStage, if_pos ⟨hj, hj'⟩]
      exact (decide_eq_false (fun k => h k.1)).symm

/-- A CSRW of a register of its context changes no other register, and of the context what writeCsr changes. -/
theorem csrw_context {r : Csr} {xa : RegNo} {fa : Bool} {s : State} {f : Issue} {g : Ctx → Ctx} {good : Ctx → Prop} (h : Acting s f)
    (e : exec (.csrw r xa fa) s = issueWord (.csrw r xa fa) noFault (fun f s => writeCsr r (f.rd xa &&& csrMask r) f s) s)
    (hw : ∀ u, writeCsr r (f.rd xa &&& csrMask r) f u = frameCtx u f g) (hx : ∀ c, (g c).x = c.x)
    (hg : ∀ x, OnlyRegs (ctxOf s f.core f.ctx) x →
      good { g x with x := (ctxOf s f.core f.ctx).x, hb := (ctxOf s f.core f.ctx).hb }) :
    ∃ t, exec (.csrw r xa fa) s = .next t ∧ OnlyIssued s t ∧ NothingIssued s t ∧ SameBytes s t ∧ OnlyContext s t f.core f.ctx ∧
      (∀ q, SameReg (ctxOf s f.core f.ctx) (ctxOf t f.core f.ctx) q) ∧
      good { ctxOf t f.core f.ctx with x := (ctxOf s f.core f.ctx).x, hb := (ctxOf s f.core f.ctx).hb } := by
  obtain ⟨t, x, he, hi, ho, h1, h2, h3, h4, h5, hx', hr, hc⟩ := Alters.of_frame (g := f) (h := g) h e fun u hu => by
    rw [hw, ← hu]
    rfl
  refine ⟨t, he, ho, ⟨hi.trans h.1.symm, h1, h2, h3⟩, h4, h5, fun q => (hr q).of_x ?_, ?_⟩
  · rw [hc, hx]
  · rw [hc]
    exact hg x hx'

/-- A write of a register of the context, which looks at no register and none of what they acquire. -/
theorem OnlyRegs.set {set : Ctx → Ctx} {c x : Ctx} (h : OnlyRegs c x)
    (hset : ∀ z X H, { set z with x := X, hb := H } = set { z with x := X, hb := H }) :
    { set x with x := c.x, hb := c.hb } = set c := (hset x c.x c.hb).trans (congrArg set h)

/-- The context e is d but for the stage predicates, which are as R72 says; the other predicates are those of c. -/
def Staged (c d e : Ctx) : Prop :=
  { e with p := c.p } = d ∧ (∀ j, 8 ≤ j → e.pred j = c.pred j) ∧
  ∀ j : Nat, 1 ≤ j → j < 8 → e.pred j = decide (e.lc0.getLsbD 63 = true ∧ j ≤ e.sk0.toNat / 2 ^ 32 % 2 ^ 3 ∧
    (0 : Int) ≤ e.li0.toNat - (j - 1 : Int) ∧ e.li0.toNat - (j - 1 : Int) < (e.sk0.toNat % 2 ^ 32 : Nat))

/-- A loop register written, and the stage predicates after it, on a context that differs in its registers alone (R129). -/
theorem staged_restage {set : Ctx → Ctx} {c x : Ctx} (h : OnlyRegs c x)
    (hset : ∀ z X H, { set z with x := X, hb := H } = set { z with x := X, hb := H }) (hp : ∀ z, (set z).p = z.p) :
    Staged c (set c) { (set x).restage with x := c.x, hb := c.hb } := by
  obtain ⟨honly, hhigh, hstage⟩ := (set x).restage_spec
  have hl : (set x).restage.lc0 = (set x).lc0 := (congrArg Ctx.lc0 honly :)
  have hs : (set x).restage.sk0 = (set x).sk0 := (congrArg Ctx.sk0 honly :)
  have hi : (set x).restage.li0 = (set x).li0 := (congrArg Ctx.li0 honly :)
  have hpx : (set x).p = c.p := (hp x).trans (by rw [← h])
  refine ⟨?_, fun j hj => ?_, fun j hj hj' => ?_⟩
  · have e1 := congrArg (fun z : Ctx => { z with x := c.x, hb := c.hb, p := c.p }) honly
    have e2 := congrArg (fun z : Ctx => { z with p := c.p }) (h.set hset)
    have e3 : { set c with p := c.p } = set c := by rw [← hp c]
    exact (e1.trans e2).trans e3
  · refine (hhigh j hj).trans ?_
    rw [Ctx.pred, Ctx.pred, hpx]
  · refine (hstage j hj hj').trans ?_
    simp only [hl, hs, hi]

/-- A CSRW of a loop register that the stage predicates hang on (R129): set is the register's write. -/
theorem csrw_staged {r : Csr} {xa : RegNo} {fa : Bool} {s : State} {f : Issue} (set : Ctx → Ctx) (h : Acting s f)
    (e : exec (.csrw r xa fa) s = issueWord (.csrw r xa fa) noFault (fun f s => writeCsr r (f.rd xa &&& csrMask r) f s) s)
    (hw : ∀ u, writeCsr r (f.rd xa &&& csrMask r) f u = frameCtx u f (fun c => (set c).restage))
    (hset : ∀ z X H, { set z with x := X, hb := H } = set { z with x := X, hb := H }) (hp : ∀ z, (set z).p = z.p)
    (hx : ∀ z, (set z).x = z.x) :
    let c := ctxOf s f.core f.ctx
    ∃ t, exec (.csrw r xa fa) s = .next t ∧ OnlyIssued s t ∧ NothingIssued s t ∧ SameBytes s t ∧ OnlyContext s t f.core f.ctx ∧
      (∀ q, SameReg c (ctxOf t f.core f.ctx) q) ∧ Staged c (set c) { ctxOf t f.core f.ctx with x := c.x, hb := c.hb } :=
  csrw_context (good := Staged _ _) h e hw (fun c => ((congrArg Ctx.x (set c).restage_spec.1 :) : _ = (set c).x).trans (hx c))
    fun _ hx => staged_restage hx hset hp

/-- A CSRW of another register of the context (R129). -/
theorem csrw_plain {r : Csr} {xa : RegNo} {fa : Bool} {s : State} {f : Issue} (set : Ctx → Ctx) (h : Acting s f)
    (e : exec (.csrw r xa fa) s = issueWord (.csrw r xa fa) noFault (fun f s => writeCsr r (f.rd xa &&& csrMask r) f s) s)
    (hw : ∀ u, writeCsr r (f.rd xa &&& csrMask r) f u = frameCtx u f set)
    (hset : ∀ z X H, { set z with x := X, hb := H } = set { z with x := X, hb := H }) (hx : ∀ z, (set z).x = z.x) :
    let c := ctxOf s f.core f.ctx
    ∃ t, exec (.csrw r xa fa) s = .next t ∧ OnlyIssued s t ∧ NothingIssued s t ∧ SameBytes s t ∧ OnlyContext s t f.core f.ctx ∧
      (∀ q, SameReg c (ctxOf t f.core f.ctx) q) ∧ { ctxOf t f.core f.ctx with x := c.x, hb := c.hb } = set c :=
  csrw_context (good := (· = set (ctxOf s f.core f.ctx))) h e hw hx fun _ hx => hx.set hset

theorem and_wOnes (a : Word) : a &&& wOnes = a := BitVec.and_allOnes

theorem low4_eq (a : Word) : (a &&& csrMask .bsc).setWidth 4 = a.extractLsb' 0 4 := by
  refine BitVec.eq_of_getLsbD_eq fun i hi => ?_
  have hm : ∀ i, i < 4 → (csrMask .bsc).getLsbD i = true := by decide
  rw [BitVec.getLsbD_setWidth, BitVec.getLsbD_and, hm i hi, BitVec.getLsbD_extractLsb']
  simp

/-- A CSRW of vtype or vwin changes its core's vector state, and nothing else (R129, R215). -/
theorem csrw_vector {r : Csr} {xa : RegNo} {fa : Bool} {s : State} {f : Issue} {g : Vec → Vec} (h : Acting s f)
    (e : exec (.csrw r xa fa) s = issueWord (.csrw r xa fa) noFault (fun f s => writeCsr r (f.rd xa &&& csrMask r) f s) s)
    (hw : ∀ u, writeCsr r (f.rd xa &&& csrMask r) f u = modCore u f.core (fun k => { k with vec := g k.vec })) :
    ∃ t, exec (.csrw r xa fa) s = .next t ∧ OnlyIssued s t ∧ NothingIssued s t ∧ SameBytes s t ∧
      (∀ m, m ≠ f.core → coreOf t m = coreOf s m) ∧ OnlyRegs (ctxOf s f.core f.ctx) (ctxOf t f.core f.ctx) ∧
      (∀ q, SameReg (ctxOf s f.core f.ctx) (ctxOf t f.core f.ctx) q) ∧
      (coreOf t f.core).setCtx f.ctx (ctxOf s f.core f.ctx) = { coreOf s f.core with vec := g (coreOf s f.core).vec } := by
  rw [issueWord_checked h] at e
  generalize hrs : (needsOf (coreOf s f.core) f.snap (.csrw r xa fa)).src.map (fun r => r.1) = rs at e
  simp only [actWord, hrs, hw] at e
  obtain ⟨a, b, c, d, q⟩ := acquired_state s f rs
  generalize frameCtx s f (fun c => c.acquire rs) = u at *
  have hne : ∀ m, m ≠ f.core → coreOf (modCore u f.core (fun k => { k with vec := g k.vec })) m = coreOf s m := fun m hm =>
    (coreOf_modCore_ne u f.core m _ hm).trans (c.1 m hm)
  have hcore : coreOf (modCore u f.core (fun k => { k with vec := g k.vec })) f.core =
      { coreOf u f.core with vec := g (coreOf u f.core).vec } := coreOf_modCore_same u f.core _
  have hctx : ctxOf (modCore u f.core (fun k => { k with vec := g k.vec })) f.core f.ctx = ctxOf u f.core f.ctx := by
    rw [ctxOf, hcore]
    cases f.ctx <;> rfl
  refine ⟨_, e, a, b, ⟨fun x => ?_, fun n x => ?_⟩, hne, ?_, ?_, ?_⟩
  · exact (SameBytes.of_context c a.mem).1 x
  · by_cases hn : n = f.core
    · subst hn
      rw [hcore]
      exact (SameBytes.of_context c a.mem).2 f.core x
    · rw [hne n hn]
  · rw [hctx]
    exact d
  · rw [hctx]
    exact q
  · rw [hcore, ← c.2]
    cases f.ctx <;> rfl

/-- Settles O24: a register of the context, bsc, or the vector state, each by what its CSRW writes. -/
theorem writeSpecial : Obligations.WriteSpecial := by
  intro s f xa fa h a c k lc ctxBecomes staged vecBecomes
  have whole (r : Csr) (hr : csrMask r = wOnes) (u : State) : writeCsr r (f.rd xa &&& csrMask r) f u = writeCsr r a f u := by
    rw [hr, and_wOnes]
  refine ⟨?lc0, ?li0, ?sk0, ?lc1, ?li1, ?tvb, ?tcause, ?tval, ?tpc, ?bsc, ?vtype, ?vwin⟩
  case lc0 =>
    exact csrw_staged (fun c => { c with lc0 := lc }) h rfl (fun _ => rfl) (fun _ _ _ => rfl) (fun _ => rfl) fun _ => rfl
  case li0 =>
    exact csrw_staged (fun c => { c with li0 := a }) h rfl (whole .li0 rfl) (fun _ _ _ => rfl) (fun _ => rfl) fun _ => rfl
  case sk0 =>
    exact csrw_staged (fun c => { c with sk0 := a &&& 0x7FFFFFFFF#64 }) h rfl (fun _ => rfl) (fun _ _ _ => rfl) (fun _ => rfl)
      fun _ => rfl
  case lc1 => exact csrw_plain (fun c => { c with lc1 := lc }) h rfl (fun _ => rfl) (fun _ _ _ => rfl) fun _ => rfl
  case li1 => exact csrw_plain (fun c => { c with li1 := a }) h rfl (whole .li1 rfl) (fun _ _ _ => rfl) fun _ => rfl
  case tvb =>
    exact csrw_plain (fun c => { c with tvb := a &&& 0xFFFFFFFFFFFFFFF0#64 }) h rfl (fun _ => rfl) (fun _ _ _ => rfl) fun _ => rfl
  case tcause =>
    exact csrw_plain (fun c => { c with tcause := a &&& 0x80FFFFFFFFFFFFFF#64 }) h rfl (fun _ => rfl) (fun _ _ _ => rfl)
      fun _ => rfl
  case tval => exact csrw_plain (fun c => { c with tval := a }) h rfl (whole .tval rfl) (fun _ _ _ => rfl) fun _ => rfl
  case tpc => exact csrw_plain (fun c => { c with tpc := a }) h rfl (whole .tpc rfl) (fun _ _ _ => rfl) fun _ => rfl
  case bsc =>
    refine Steers.of_frame h rfl fun u hu => ?_
    rw [writeCsr, setFrame, hu, low4_eq]
    rfl
  case vtype => exact csrw_vector (g := fun v => { v with vtype := a &&& 0x1FFFFFFF#64 }) h rfl (fun _ => rfl)
  case vwin => exact csrw_vector (g := fun v => { v with vwin := a &&& 0xFFF#64 }) h rfl (fun _ => rfl)

end Sys2Proof.Machine
end

section
namespace Sys2Proof.Machine

/-! Block shifts (R65), and what the end of a packet does to the loops (R74 to R76). -/

theorem Ctx.setReg_bsc (c : Ctx) (r : RegNo) (v : XReg) : (c.setReg r v).bsc = c.bsc := by
  rw [Ctx.setReg]
  split <;> rfl

theorem ofNat6_ne {m n : Nat} (hm : m < 64) (hn : n < 64) (h : n ≠ m) : BitVec.ofNat 6 n ≠ BitVec.ofNat 6 m := fun e => by
  have e := congrArg BitVec.toNat e
  rw [BitVec.toNat_ofNat, BitVec.toNat_ofNat, Nat.mod_eq_of_lt hn, Nat.mod_eq_of_lt hm] at e
  exact h e

theorem Ctx.regN_setReg (c : Ctx) {m n : Nat} (h0 : 0 < m) (hm : m < 64) (hn : n < 64) (v : XReg) :
    (c.setReg (BitVec.ofNat 6 m) v).regN n = if n = m then v else c.regN n := by
  by_cases h : n = m
  · subst h
    rw [if_pos rfl]
    exact Ctx.reg_setReg_same c _ v (ofNat6_ne (by decide) hn (Nat.ne_of_gt h0))
  · rw [if_neg h]
    exact Ctx.reg_setReg_ne c _ _ v (ofNat6_ne hm hn h)

/-- The first k moves of a block shift: the top k registers have moved one up (R65). -/
theorem regN_moveUp (c : Ctx) {k : Nat} (hk : k ≤ 15) {n : Nat} (hn : n < 64) :
    (c.moveUp (List.range k)).regN n = if 47 < n + k ∧ n ≤ 47 then c.regN (n - 1) else c.regN n := by
  induction k generalizing n with
  | zero => rw [if_neg (by omega)]; rfl
  | succ k ih =>
    have e : c.moveUp (List.range (k + 1)) =
        (c.moveUp (List.range k)).setReg (BitVec.ofNat 6 (47 - k)) ((c.moveUp (List.range k)).regN (46 - k)) := by
      rw [Ctx.moveUp, List.range_succ, List.foldl_append]
      rfl
    rw [e, Ctx.regN_setReg _ (by omega) (by omega) hn]
    by_cases h : n = 47 - k
    · rw [if_pos h, ih (by omega) (by omega), if_neg (by omega), if_pos (by omega)]
      congr 1
      omega
    · rw [if_neg h, ih (by omega) hn]
      exact if_congr (by omega) rfl rfl

theorem Ctx.moveUp_only (c : Ctx) (l : List Nat) : { c.moveUp l with x := c.x } = c := by
  induction l generalizing c with
  | nil => rfl
  | cons i l ih =>
    have e := congrArg (fun d : Ctx => { d with x := c.x }) (ih (c.setReg (BitVec.ofNat 6 (47 - i)) (c.regN (46 - i))))
    exact e.trans (Ctx.setReg_only c _ _)

theorem Ctx.shiftBlock_only (c : Ctx) : { c.shiftBlock with x := c.x, bsc := c.bsc } = c := by
  have e1 := Ctx.setReg_only (c.moveUp (upFrom 0 15)) 32#6 (c.regN 47)
  have e2 := c.moveUp_only (upFrom 0 15)
  rw [shiftBlock_eq, Ctx.movedUp]
  generalize (c.moveUp (upFrom 0 15)).setReg 32#6 (c.regN 47) = y at e1
  rw [← e1] at e2
  exact (congrArg (fun z : Ctx => { z with bsc := c.bsc }) e2 :)

theorem Ctx.regN_shiftBlock (c : Ctx) {n : Nat} (hn : n < 64) :
    c.shiftBlock.regN n = if n = 32 then c.regN 47 else if 32 < n ∧ n ≤ 47 then c.regN (n - 1) else c.regN n := by
  have e : c.shiftBlock.regN n = c.movedUp.regN n := by
    rw [shiftBlock_eq]
    generalize c.movedUp = y
    rfl
  rw [e, Ctx.movedUp, upFrom_zero, show 32#6 = BitVec.ofNat 6 32 from rfl, Ctx.regN_setReg _ (by decide) (by decide) hn,
    regN_moveUp c (Nat.le_refl 15) hn]
  exact if_congr Iff.rfl rfl (if_congr (by omega) rfl rfl)

theorem Ctx.shiftBlock_bsc (c : Ctx) : c.shiftBlock.bsc.toNat = (c.bsc.toNat + 1) % 16 := by
  rw [shiftBlock_eq]
  generalize c.movedUp = y
  exact BitVec.toNat_add c.bsc 1#4

/-! Ending a loop. -/

/-- y is x with its inner loop ended, if it is active: its stage predicates fall (R74). -/
def Stops (x y : Ctx) : Prop :=
  { y with lc0 := x.lc0, p := x.p } = x ∧ y.lc0 = x.lc0 &&& 0x7FFFFFFFFFFFFFFF#64 ∧ (∀ j, 8 ≤ j → y.pred j = x.pred j) ∧
    ∀ j, 1 ≤ j → j < 8 → y.pred j = (x.pred j && !x.lc0.getLsbD 63)

theorem lcOff_inactive {l : Word} (h : l.getLsbD 63 = false) : l &&& 0x7FFFFFFFFFFFFFFF#64 = l := by
  have hm : ∀ i, i < 63 → (0x7FFFFFFFFFFFFFFF#64 : Word).getLsbD i = true := by decide
  refine BitVec.eq_of_getLsbD_eq fun i hi => ?_
  rw [BitVec.getLsbD_and]
  by_cases h63 : i = 63
  · rw [h63, h, Bool.false_and]
  · rw [hm i (by omega), Bool.and_true]

theorem endInner_stops (x : Ctx) : Stops x x.endInner := by
  by_cases h : x.lc0.getLsbD 63 = true
  · have e : x.endInner = { x with lc0 := lcOff x.lc0 }.clearStage := if_pos h
    have hy := Ctx.clearStage_only { x with lc0 := lcOff x.lc0 }
    rw [e]
    refine ⟨?_, (congrArg Ctx.lc0 hy :), fun j hj => ?_, fun j hj hj' => ?_⟩
    · exact (congrArg (fun z : Ctx => { z with lc0 := x.lc0 }) hy :)
    · rw [Ctx.pred_clearStage, if_neg (by omega)]
      rfl
    · rw [Ctx.pred_clearStage, if_pos ⟨hj, hj'⟩, h, Bool.not_true, Bool.and_false]
  · have e : x.endInner = x := if_neg h
    have h : x.lc0.getLsbD 63 = false := by simpa using h
    rw [e]
    exact ⟨rfl, (lcOff_inactive h).symm, fun _ _ => rfl, fun _ _ _ => by rw [h, Bool.not_false, Bool.and_true]⟩

theorem Stops.keeps {x y : Ctx} (h : Stops x y) : y.lc1 = x.lc1 ∧ y.li1 = x.li1 :=
  ⟨(congrArg Ctx.lc1 h.1 :), (congrArg Ctx.li1 h.1 :)⟩

/-- A taken branch, and the loops that it ends (R76). -/
theorem branchOut_spec (c : Ctx) (pc t : Word) :
    let inside : Prop := c.lc0.getLsbD 63 = true ∧ lcHolds c.lc0 pc.toNat = true ∨ c.lc1.getLsbD 63 = true ∧ lcHolds c.lc1 pc.toNat = true
    ∃ y, (if inside ∧ lcHolds c.lc0 t.toNat = false then Stops c y else y = c) ∧
      c.branchOut pc t = { y with
        lc1 := if inside ∧ lcHolds c.lc1 t.toNat = false then c.lc1 &&& 0x7FFFFFFFFFFFFFFF#64 else c.lc1 } := by
  intro inside
  have hin : ((lcAct c.lc0 && lcHolds c.lc0 pc.toNat) || (lcAct c.lc1 && lcHolds c.lc1 pc.toNat)) = true ↔ inside := by
    simp [inside, lcAct]
  by_cases h : inside
  · let y : Ctx := if lcHolds c.lc0 t.toNat then c else c.endInner
    have hy : if inside ∧ lcHolds c.lc0 t.toNat = false then Stops c y else y = c := by
      cases hb : lcHolds c.lc0 t.toNat
      · rw [if_pos ⟨h, rfl⟩]
        simp only [y, hb]
        exact endInner_stops c
      · rw [if_neg (by simp)]
        simp only [y, hb, if_true]
    have hl : y.lc1 = c.lc1 := by
      simp only [y]
      split
      · rfl
      · exact (endInner_stops c).keeps.1
    refine ⟨y, hy, ?_⟩
    have e : c.branchOut pc t =
        if lcAct c.lc1 && !lcHolds c.lc1 t.toNat then { y with lc1 := lcOff y.lc1 } else y := by
      rw [Ctx.branchOut, if_neg (by simp [hin.mpr h])]
    rw [e, hl]
    cases hb : lcHolds c.lc1 t.toNat
    · rw [if_pos (show inside ∧ _ from ⟨h, rfl⟩)]
      cases ha : lcAct c.lc1
      · rw [lcOff_inactive ha, ← hl]
        rfl
      · rfl
    · rw [if_neg (show ¬(inside ∧ _) by simp), ← hl]
      simp
  · refine ⟨c, by rw [if_neg (fun k => h k.1)], ?_⟩
    rw [if_neg (fun k : inside ∧ _ => h k.1), Ctx.branchOut, if_pos (by rw [Bool.eq_false_iff.mpr (fun k => h (hin.mp k))]; rfl)]

/-- The outer boundary: the count goes on, the inner loop ends, and the loop goes round or ends (R75). -/
theorem outerStep_spec (c : Ctx) {pc : Word} (h : c.lc1.getLsbD 63 = true ∧ pc.toNat = lcEnd c.lc1) :
    let n := c.li1.toNat / 2 ^ 32
    let j := (c.li1.toNat + 1) % 2 ^ 32
    ∃ y, Stops c y ∧ (c.outerStep pc).1 =
        { y with li1 := w64 (n * 2 ^ 32 + j : Nat), lc1 := if j < n then c.lc1 else c.lc1 &&& 0x7FFFFFFFFFFFFFFF#64 } ∧
      (c.outerStep pc).2 = some (if j < n then w64 (lcStart c.lc1) else afterPacket pc) := by
  intro n j
  have hn : li1N c.li1 = n := by
    have := c.li1.isLt
    simp only [li1N, wbits, n]
    omega
  have hj : (li1J c.li1 + 1) % 2 ^ 32 = j := by
    simp only [li1J, wbits, j]
    omega
  have hw : ∀ m : Nat, BitVec.ofNat 64 m = w64 m := fun m => by rw [w64, BitVec.ofInt_natCast]
  have stops : ∀ v w, ∃ y, Stops c y ∧ ({ c with li1 := v, lc1 := w } : Ctx).endInner = { y with li1 := v, lc1 := w } := fun v w => by
    obtain ⟨h1, h2, h3, h4⟩ := endInner_stops { c with li1 := v, lc1 := w }
    generalize ({ c with li1 := v, lc1 := w } : Ctx).endInner = z at h1 h2 h3 h4
    have hv : z.li1 = v := (congrArg Ctx.li1 h1 :)
    have hw : z.lc1 = w := (congrArg Ctx.lc1 h1 :)
    refine ⟨{ z with li1 := c.li1, lc1 := c.lc1 }, ⟨?_, h2, h3, h4⟩, by rw [← hv, ← hw]⟩
    exact (congrArg (fun y : Ctx => { y with li1 := c.li1, lc1 := c.lc1 }) h1 :)
  have e : c.outerStep pc =
      if j < n then (({ c with li1 := w64 (n * 2 ^ 32 + j : Nat) } : Ctx).endInner, some (w64 (lcStart c.lc1)))
      else (({ c with li1 := w64 (n * 2 ^ 32 + j : Nat), lc1 := lcOff c.lc1 } : Ctx).endInner, some (afterPacket pc)) := by
    rw [Ctx.outerStep, if_pos (show lcAct c.lc1 = true ∧ _ from h)]
    simp only [hn, hj, hw]
  rw [e]
  by_cases hlt : j < n
  · obtain ⟨y, hs, hy⟩ := stops (w64 (n * 2 ^ 32 + j : Nat)) c.lc1
    rw [if_pos hlt, if_pos hlt, if_pos hlt]
    exact ⟨y, hs, hy, rfl⟩
  · obtain ⟨y, hs, hy⟩ := stops (w64 (n * 2 ^ 32 + j : Nat)) (lcOff c.lc1)
    rw [if_neg hlt, if_neg hlt, if_neg hlt]
    exact ⟨y, hs, hy, rfl⟩

theorem outerStep_none (c : Ctx) {pc : Word} (h : ¬(c.lc1.getLsbD 63 = true ∧ pc.toNat = lcEnd c.lc1)) :
    c.outerStep pc = (c, none) := if_neg h

/-- The end of a packet that takes no branch (R74, R75). -/
theorem flowOn_boundary (c : Ctx) (pc : Word) {f : Issue} (h : f.next = none ∨ f.loop = true) :
    c.flowOn pc f = { (c.boundary pc).1 with pc := (c.boundary pc).2.getD (f.next.getD (afterPacket pc)) } := by
  rw [Ctx.flowOn]
  split
  · rename_i t hn hl
    rw [hn, hl] at h
    simp at h
  · rfl

theorem innerStep_only (c : Ctx) : { c.innerStep with x := c.x, bsc := c.bsc, li0 := c.li0 } = c := by
  have h := Ctx.shiftBlock_only { c with li0 := c.li0 + 1#64 }
  unfold Ctx.innerStep
  generalize ({ c with li0 := c.li0 + 1#64 } : Ctx).shiftBlock = y at h ⊢
  exact (congrArg (fun z : Ctx => { z with li0 := c.li0 }) h :)

/-- What a step boundary leaves of the loops, the inner one's index apart. -/
theorem innerStep_keeps (c : Ctx) : c.innerStep.sk0 = c.sk0 ∧ c.innerStep.lc0 = c.lc0 ∧ c.innerStep.lc1 = c.lc1 ∧
    c.innerStep.li1 = c.li1 ∧ c.innerStep.p = c.p ∧ c.innerStep.pc = c.pc := by
  have h := innerStep_only c
  generalize c.innerStep = y at h ⊢
  exact ⟨(congrArg Ctx.sk0 h :), (congrArg Ctx.lc0 h :), (congrArg Ctx.lc1 h :), (congrArg Ctx.li1 h :), (congrArg Ctx.p h :),
    (congrArg Ctx.pc h :)⟩

/-- A step boundary: the inner loop goes round, or ends, at which the outer boundary may be due (R74, R75). -/
theorem boundary_inner (c : Ctx) {pc : Word} (h : c.lc0.getLsbD 63 = true ∧ pc.toNat = lcEnd c.lc0) :
    c.boundary pc =
      if c.innerStep.li0.toNat + 2 ≤ skN c.sk0 + skK c.sk0 then (c.innerStep.setStage, some (BitVec.ofNat 64 (lcStart c.lc0)))
      else ((c.innerStep.endInner.outerStep pc).1, some ((c.innerStep.endInner.outerStep pc).2.getD (afterPacket pc))) := by
  obtain ⟨hs, hl, -⟩ := innerStep_keeps c
  rw [← hs, ← hl]
  exact if_pos h

/-- d is the context after an outer boundary of c's outer loop at pc, x the context as the boundary finds it (R75). -/
def OuterBoundary (c x d : Ctx) (pc : Word) : Prop :=
  let n := c.li1.toNat / 2 ^ 32
  let j := (c.li1.toNat + 1) % 2 ^ 32
  ∃ y, Stops x y ∧ d = { y with
    li1 := w64 (n * 2 ^ 32 + j : Nat), lc1 := if j < n then c.lc1 else c.lc1 &&& 0x7FFFFFFFFFFFFFFF#64
    pc := if j < n then w64 (lcStart c.lc1) else afterPacket pc }

theorem OuterBoundary.of_step {c x : Ctx} {pc : Word} (hl : x.lc1 = c.lc1) (hi : x.li1 = c.li1)
    (h : c.lc1.getLsbD 63 = true ∧ pc.toNat = lcEnd c.lc1) (v : Word) :
    OuterBoundary c x { (x.outerStep pc).1 with pc := (x.outerStep pc).2.getD v } pc := by
  obtain ⟨y, hs, h2, h3⟩ := outerStep_spec x (pc := pc) (by rwa [hl])
  rw [hl, hi] at h2 h3
  exact ⟨y, hs, by rw [h2, h3]; rfl⟩

/-- What a packet that takes no branch leaves where it is no loop's last (R74, R75). -/
theorem flowOn_inside {c : Ctx} {pc : Word} {f : Issue} (hf : f.next = none ∨ f.loop = true)
    (h0 : ¬(c.lc0.getLsbD 63 = true ∧ pc.toNat = lcEnd c.lc0)) (h1 : ¬(c.lc1.getLsbD 63 = true ∧ pc.toNat = lcEnd c.lc1)) :
    c.flowOn pc f = { c with pc := f.next.getD (afterPacket pc) } := by
  rw [flowOn_boundary c pc hf, show c.boundary pc = c.outerStep pc from if_neg h0, outerStep_none c h1]
  rfl

theorem flowOn_outer {c : Ctx} {pc : Word} {f : Issue} (hf : f.next = none ∨ f.loop = true)
    (h0 : ¬(c.lc0.getLsbD 63 = true ∧ pc.toNat = lcEnd c.lc0)) (h1 : c.lc1.getLsbD 63 = true ∧ pc.toNat = lcEnd c.lc1) :
    OuterBoundary c c (c.flowOn pc f) pc := by
  rw [flowOn_boundary c pc hf, show c.boundary pc = c.outerStep pc from if_neg h0]
  exact OuterBoundary.of_step rfl rfl h1 _

theorem skN_eq (v : Word) : skN v = v.toNat % 2 ^ 32 := by
  rw [skN, wbits, Nat.pow_zero, Nat.div_one]

/-- The inner loop's last packet, where the loop goes round (R74). -/
theorem flowOn_rounds {c : Ctx} {pc : Word} {f : Issue} (hf : f.next = none ∨ f.loop = true)
    (h0 : c.lc0.getLsbD 63 = true ∧ pc.toNat = lcEnd c.lc0) (hgo : c.innerStep.li0.toNat + 2 ≤ skN c.sk0 + skK c.sk0) :
    let d := c.flowOn pc f
    let x := c.innerStep
    { d with pc := c.pc, p := c.p } = x ∧ d.pc = w64 (lcStart c.lc0) ∧ (∀ j, 8 ≤ j → d.pred j = c.pred j) ∧
      ∀ j : Nat, 1 ≤ j → j < 8 → d.pred j = decide (j ≤ skK c.sk0 ∧ j - 1 ≤ x.li0.toNat ∧ x.li0.toNat < j - 1 + skN c.sk0) := by
  intro d x
  have hd : d = { c.innerStep.setStage with pc := BitVec.ofNat 64 (lcStart c.lc0) } := by
    simp only [d, flowOn_boundary c pc hf, boundary_inner c h0, if_pos hgo]
    rfl
  obtain ⟨hsk, -, -, -, hp, hpc⟩ := innerStep_keeps c
  change x.sk0 = c.sk0 at hsk
  change x.p = c.p at hp
  change x.pc = c.pc at hpc
  change d = { x.setStage with pc := BitVec.ofNat 64 (lcStart c.lc0) } at hd
  clear_value x d
  have hpred : ∀ m, d.pred m = x.setStage.pred m := fun m => by rw [hd]; rfl
  refine ⟨?_, by rw [hd, w64, BitVec.ofInt_natCast], fun j hj => ?_, fun j hj hj' => ?_⟩
  · rw [hd, ← hp, ← hpc]
    exact (congrArg (fun z : Ctx => { z with pc := x.pc }) x.setStage_only :)
  · rw [hpred, Ctx.pred_setStage, if_neg (by omega), Ctx.pred, Ctx.pred, hp]
  · rw [hpred, Ctx.pred_setStage, if_pos ⟨hj, hj'⟩, stageOn, hsk, ← Bool.decide_and, ← Bool.decide_and]
    exact decide_eq_decide.mpr and_assoc

/-- The inner loop's last packet, where the loop ends: the outer boundary comes after (R74, R75). -/
theorem flowOn_ends {c : Ctx} {pc : Word} {f : Issue} (hf : f.next = none ∨ f.loop = true)
    (h0 : c.lc0.getLsbD 63 = true ∧ pc.toNat = lcEnd c.lc0) (hgo : ¬c.innerStep.li0.toNat + 2 ≤ skN c.sk0 + skK c.sk0) :
    ∃ y, Stops c.innerStep y ∧
      (c.lc1.getLsbD 63 = true ∧ pc.toNat = lcEnd c.lc1 → OuterBoundary c y (c.flowOn pc f) pc) ∧
      (¬(c.lc1.getLsbD 63 = true ∧ pc.toNat = lcEnd c.lc1) → c.flowOn pc f = { y with pc := afterPacket pc }) := by
  have hd : c.flowOn pc f = { (c.innerStep.endInner.outerStep pc).1 with
      pc := (c.innerStep.endInner.outerStep pc).2.getD (afterPacket pc) } := by
    rw [flowOn_boundary c pc hf, boundary_inner c h0, if_neg hgo]
    rfl
  obtain ⟨-, -, hl, hi, -, -⟩ := innerStep_keeps c
  obtain ⟨hl', hi'⟩ := (endInner_stops c.innerStep).keeps
  refine ⟨c.innerStep.endInner, endInner_stops c.innerStep, fun h1 => ?_, fun h1 => ?_⟩
  · rw [hd]
    exact OuterBoundary.of_step (hl'.trans hl) (hi'.trans hi) h1 _
  · rw [hd, outerStep_none _ (by rwa [hl'.trans hl])]
    rfl

theorem flowOn_branch {c : Ctx} {pc t : Word} {f : Issue} (hn : f.next = some t) (hl : f.loop = false) :
    c.flowOn pc f = { c.branchOut pc t with pc := t } := by
  simp only [Ctx.flowOn, hn, hl]

/-- The registers of a block shift (R65). -/
theorem shiftBlock_registers (c : Ctx) :
    (∀ n : Nat, 32 ≤ n → n < 47 → c.shiftBlock.reg (BitVec.ofNat 6 (n + 1)) = c.reg (BitVec.ofNat 6 n)) ∧
    c.shiftBlock.reg 32#6 = c.reg 47#6 ∧
    ∀ n : Nat, n < 32 ∨ (47 < n ∧ n < 64) → c.shiftBlock.reg (BitVec.ofNat 6 n) = c.reg (BitVec.ofNat 6 n) := by
  refine ⟨fun n h1 h2 => ?_, c.regN_shiftBlock (n := 32) (by decide), fun n hn => ?_⟩
  · have e := c.regN_shiftBlock (n := n + 1) (by omega)
    rw [if_neg (by omega), if_pos (by omega)] at e
    exact e
  · have e := c.regN_shiftBlock (n := n) (by omega)
    rw [if_neg (by omega), if_neg (by omega)] at e
    exact e

/-- The packet is a loop's last, and the inner loop goes round or ends, with x the context after its step (R74, R75). -/
theorem flowOn_last {c x : Ctx} {n k : Nat} {pc : Word} {f : Issue} (hx : x = c.innerStep) (hn : n = skN c.sk0) (hk : k = skK c.sk0) 
    (hf : f.next = none ∨ f.loop = true)
    (h0 : c.lc0.getLsbD 63 = true ∧ pc.toNat = lcEnd c.lc0) :
    if x.li0.toNat + 2 ≤ n + k then
      { c.flowOn pc f with pc := c.pc, p := c.p } = x ∧ (c.flowOn pc f).pc = w64 (lcStart c.lc0) ∧
      (∀ j, 8 ≤ j → (c.flowOn pc f).pred j = c.pred j) ∧ ∀ j : Nat, 1 ≤ j → j < 8 → (c.flowOn pc f).pred j =
        decide (j ≤ k ∧ j - 1 ≤ x.li0.toNat ∧ x.li0.toNat < j - 1 + n)
    else ∃ y, Stops x y ∧
      (c.lc1.getLsbD 63 = true ∧ pc.toNat = lcEnd c.lc1 → OuterBoundary c y (c.flowOn pc f) pc) ∧
      (¬(c.lc1.getLsbD 63 = true ∧ pc.toNat = lcEnd c.lc1) → c.flowOn pc f = { y with pc := afterPacket pc }) := by
  subst hx hn hk
  by_cases hgo : c.innerStep.li0.toNat + 2 ≤ skN c.sk0 + skK c.sk0
  · rw [if_pos hgo]
    exact flowOn_rounds hf h0 hgo
  · rw [if_neg hgo]
    exact flowOn_ends hf h0 hgo

/-- Settles O25: the shift's registers, a taken branch, and each of the boundaries. -/
theorem blockShiftAndLoopEnds : Obligations.BlockShiftAndLoopEnds := by
  intro c
  obtain ⟨h1, h2, h3⟩ := shiftBlock_registers c
  refine ⟨h1, h2, h3, c.shiftBlock_bsc, c.shiftBlock_only, fun f => ⟨fun t hn hl => ?_, fun hf => ?_⟩⟩
  · obtain ⟨y, hy, he⟩ := branchOut_spec c f.pc t
    exact ⟨y, hy, by rw [flowOn_branch hn hl, he]⟩
  refine ⟨flowOn_inside hf, flowOn_outer hf, fun h0 => ?_⟩
  intro x n k
  exact flowOn_last (x := x) (n := n) (k := k) rfl (skN_eq c.sk0).symm rfl hf h0

end Sys2Proof.Machine
end

section
namespace Sys2Proof.Machine

/-! Trap entry (R163, R165), and a context and a core at task start (R79). -/

theorem Cause.word_own {code : Nat} (h : code < 2 ^ 16) : (Cause.own code).word = w64 (2 ^ 63 + code : Nat) := by
  rw [w64, BitVec.ofInt_natCast, Cause.word]
  simp only [Cause.own, Nat.mod_eq_of_lt h, Nat.zero_mod, Nat.zero_mul, Nat.add_zero]

@[simp] theorem dropPreload_cores (s : State) (core : Nat) : (dropPreload s core).cores = s.cores := by
  rw [dropPreload]
  split <;> rfl

@[simp] theorem dropPreload_mem (s : State) (core : Nat) : (dropPreload s core).mem = s.mem := by
  rw [dropPreload]
  split <;> rfl

@[simp] theorem ctxOf_dropPreload (s : State) (core n : Nat) (i : CtxId) : ctxOf (dropPreload s core) n i = ctxOf s n i := by
  rw [ctxOf, coreOf, dropPreload_cores]
  rfl

theorem dropPreload_onlyCores (s : State) (core : Nat) : OnlyCores s (dropPreload s core) core := by
  rw [dropPreload]
  cases h : taskOf s core with
  | none => exact ⟨rfl, fun n => by simp [h]⟩
  | some k =>
    refine ⟨rfl, fun n => ?_⟩
    simp only [h, gangOf_modGang, Option.map_some, Option.some.injEq]
    by_cases hn : n = k.gang
    · simp [hn]
    · rw [if_neg hn]
      simp [Ne.symm hn]

/-- Of the state, a change of the cores leaves the rest as they were. -/
theorem OnlyCores.setCtx {s t : State} {core : Nat} (h : OnlyCores s t core) (n : Nat) (i : CtxId) (x : Ctx) :
    OnlyCores s (setCtx t n i x) core :=
  ⟨(congrArg (fun u : State => { u with cores := s.cores }) h.1 :), h.2⟩

theorem raise_enters {s : State} {core : Nat} {i : CtxId} (pc v : Word) (code : Nat)
    (hb : (ctxOf s core i).tvb ≠ 0#64) (hi : (ctxOf s core i).tcause.getLsbD 63 = false) :
    raise s core i pc code v = setCtx (dropPreload s core) core i ((ctxOf s core i).enter pc v (Cause.own code) 0) := by
  simp only [raise, takeTrap, ctxOf_dropPreload]
  exact if_pos ⟨hb, hi⟩

/-- Settles O26: trap entry is one write of the context, after the gang's preload has been discarded. -/
theorem trapEntry : Obligations.TrapEntry := by
  intro s core i pc v code c hb hi hcode t
  have ht : t = setCtx (dropPreload s core) core i (c.enter pc v (Cause.own code) 0) := raise_enters pc v code hb hi
  clear_value t
  subst ht
  have hc : OnlyContext s (setCtx (dropPreload s core) core i (c.enter pc v (Cause.own code) 0)) core i :=
    ((OnlyContext.refl s core i).of_cores (dropPreload_cores s core)).trans
      ⟨fun n h => coreOf_setCtx_ne _ core n i _ h, by simp [ctxOf]⟩
  refine ⟨(dropPreload_onlyCores s core).setCtx core i _, SameBytes.of_context hc (dropPreload_mem s core), hc, ?_⟩
  rw [ctxOf_setCtx_same, ← Cause.word_own hcode]
  rfl

/-! Task start. -/

theorem Ctx.reg_reset (q : RegNo) : Ctx.reset.reg q = XReg.zero := by
  simp [Ctx.reg, Ctx.reset]

theorem Ctx.reg_setReg (c : Ctx) {r : RegNo} (h : r ≠ 0#6) (q : RegNo) (v : XReg) :
    (c.setReg r v).reg q = if q = r then v else c.reg q := by
  by_cases hq : q = r
  · rw [if_pos hq, hq, Ctx.reg_setReg_same c r v h]
  · rw [if_neg hq, Ctx.reg_setReg_ne c r q v hq]

theorem recFld_priv (r : List Byte) : recFld r 0x28 37 37 = 1 ↔ (leWord ((r.drop 0x28).take 8)).getLsbD 37 = true := by
  rw [recFld, wbits, BitVec.getLsbD, Nat.testBit_eq_decide_div_mod_eq, decide_eq_true_iff]
  exact Iff.rfl

/-- The registers of a context at task start. -/
theorem startCtx_reg (r : List Byte) (off : Nat) (q : RegNo) :
    (startCtx r off).reg q = if q = 1#6 then XReg.full (leWord ((r.drop 0x18).take 8))
      else if (leWord ((r.drop 0x28).take 8)).getLsbD 37 = true ∧ q = 2#6 then XReg.full (leWord ((r.drop 0x50).take 8))
      else if (leWord ((r.drop 0x28).take 8)).getLsbD 37 = true ∧ q = 3#6 then XReg.full (leWord ((r.drop 0x58).take 8))
      else XReg.zero := by
  have hz : ({ Ctx.reset with pc := leWord ((r.drop off).take 8) } : Ctx).reg q = XReg.zero := Ctx.reg_reset q
  rw [startCtx]
  by_cases h : (leWord ((r.drop 0x28).take 8)).getLsbD 37 = true
  · rw [if_pos ((recFld_priv r).mpr h), Ctx.reg_setReg _ (by decide), Ctx.reg_setReg _ (by decide), Ctx.reg_setReg _ (by decide), hz]
    by_cases h1 : q = 1#6
    · subst h1
      rfl
    · by_cases h2 : q = 2#6
      · subst h2
        simp [h]
      · simp [h, h1, h2]
  · rw [if_neg (fun k => h ((recFld_priv r).mp k)), Ctx.reg_setReg _ (by decide), hz]
    simp only [h, Bool.false_eq_true, false_and, if_false]

/-- Besides its registers and its pc, a context at task start is the one after reset. -/
theorem startCtx_only (r : List Byte) (off : Nat) :
    { startCtx r off with x := Ctx.reset.x } = { Ctx.reset with pc := leWord ((r.drop off).take 8) } := by
  let b : Ctx := { Ctx.reset with pc := leWord ((r.drop off).take 8) }
  let c := b.setReg 1#6 (XReg.full (leWord ((r.drop 0x18).take 8)))
  have hc : { c with x := b.x } = b := b.setReg_only _ _
  have step : ∀ (d : Ctx) (q : RegNo) (v : XReg), { d with x := b.x } = b → { d.setReg q v with x := b.x } = b := fun d q v h =>
    (congrArg (fun y : Ctx => { y with x := b.x }) (d.setReg_only q v)).trans h
  rw [startCtx]
  split
  · exact step _ _ _ (step c _ _ hc)
  · exact hc

theorem XReg.full_or_zero {x : XReg} (h : x = XReg.zero ∨ ∃ v, x = XReg.full v) : x.pend.isEmpty = true ∧ x.mark = none := by
  obtain rfl | ⟨v, rfl⟩ := h <;> exact ⟨rfl, rfl⟩

theorem startCtx_full (r : List Byte) (off : Nat) (q : RegNo) :
    (startCtx r off).fullX q = true ∧ ((startCtx r off).reg q).mark = none := by
  rw [Ctx.fullX]
  refine XReg.full_or_zero ?_
  rw [startCtx_reg]
  split
  · exact .inr ⟨_, rfl⟩
  split
  · exact .inr ⟨_, rfl⟩
  split
  · exact .inr ⟨_, rfl⟩
  · exact .inl rfl

theorem startCtx_readX (r : List Byte) (off : Nat) {q : RegNo} (hq : q ≠ 1#6) :
    (startCtx r off).readX q =
      if (leWord ((r.drop 0x28).take 8)).getLsbD 37 = true ∧ q = 2#6 then leWord ((r.drop 0x50).take 8)
      else if (leWord ((r.drop 0x28).take 8)).getLsbD 37 = true ∧ q = 3#6 then leWord ((r.drop 0x58).take 8) else 0#64 := by
  rw [Ctx.readX, startCtx_reg, if_neg hq, apply_ite XReg.val, apply_ite XReg.val]
  rfl

theorem one_getLsbD_zero (m : Nat) : (decide (m = 0) || (1#16).getLsbD m) = decide (m = 0) := by
  by_cases h : m = 0
  · simp [h]
  · simp [h, BitVec.getLsbD_one]

theorem resetMasks (m : Nat) :
    Vec.reset.masks.getD m 0#256 = if m = 0 then BitVec.allOnes 256 else 0#256 := by
  by_cases h : m = 0
  · rw [if_pos h, h]
    rfl
  · rw [if_neg h]
    by_cases h8 : m < 8
    · simp [Vec.reset, Vector.getD, h8, Ne.symm h]
    · simp [Vec.reset, Vector.getD, h8]

/-- A core as a task starts on it. -/
theorem coreOf_startCore (s : State) (n : Nat) (k : Task) (r : List Byte) :
    coreOf (startCore s n k r) n = { Core.reset with
      task := some k, sp := freeScratch s.free, won := (coreOf s n).won, banks := (coreOf s n).banks
      ctxL := startCtx r 0, ctxC := startCtx r 8, ctxS := startCtx r 0x10 } :=
  coreOf_setCore_same s n _

/-- Settles O43: the context's registers one by one, its other state as reset leaves it, and the core's. -/
theorem taskStart : Obligations.TaskStart := by
  intro s n k r off dw c t d
  have hd : d = { Core.reset with
      task := some k, sp := freeScratch s.free, won := (coreOf s n).won, banks := (coreOf s n).banks
      ctxL := startCtx r 0, ctxC := startCtx r 8, ctxS := startCtx r 0x10 } := coreOf_startCore s n k r
  have hc := startCtx_only r off
  have hf : ∀ {α : Type} (g : Ctx → α), g { startCtx r off with x := Ctx.reset.x } = g { Ctx.reset with pc := dw off } :=
    fun g => congrArg g hc
  refine ⟨⟨hf Ctx.pc, ?_, startCtx_full r off, fun q => startCtx_readX r off, fun m => ?_, hf Ctx.lc0, hf Ctx.li0, hf Ctx.sk0,
    hf Ctx.lc1, hf Ctx.li1, hf Ctx.bsc, hf Ctx.tvb, hf Ctx.tcause, hf Ctx.tval, hf Ctx.tpc, hf Ctx.fifoL, hf Ctx.fifoR,
    hf Ctx.ended, hf Ctx.reports⟩, rfl, fun m hm => coreOf_setCore_ne s n m _ hm, ?_⟩
  · rw [Ctx.readX, startCtx_reg, if_pos rfl]
    rfl
  · exact (hf (fun x => x.pred m)).trans (one_getLsbD_zero m)
  · rw [hd]
    exact ⟨rfl, rfl, rfl, rfl, resetMasks 0, fun m hm => (resetMasks m).trans (if_neg (Nat.ne_of_gt hm)), rfl, rfl, rfl, rfl, rfl,
      fun e m => by cases e <;> rfl, fun m => rfl, fun m => rfl⟩

end Sys2Proof.Machine
end

section
namespace Sys2Proof.Machine

/-! Fault notices (R179, R407), refusals and retries (R153). -/

theorem w64_ofNat (n : Nat) : w64 (n : Int) = BitVec.ofNat 64 n := by rw [w64, BitVec.ofInt_natCast]

theorem badEntryFrom_congr {s t : State} (hm : t.mem = s.mem) (hp : t.poison = s.poison) (hb : t.bad = s.bad) (ipa : Nat) :
    ∀ fuel level table : Nat, badEntryFrom t ipa level table fuel = badEntryFrom s ipa level table fuel
  | 0, _, _ => rfl
  | fuel + 1, level, table => by
    have ht : tableEntry t = tableEntry s := by
      funext a i
      rw [tableEntry, tableEntry, hm]
    have he : entryMarked t = entryMarked s := by
      funext a i
      rw [entryMarked, entryMarked, hp, hb]
    rw [badEntryFrom, badEntryFrom, ht, he, hb]
    simp only [badEntryFrom_congr hm hp hb ipa fuel]

/-- The bad entry of a walk hangs on memory, its marks and the partition's roots alone. -/
theorem badEntryOf_congr {s t : State} {part : Nat} {p q : Partition} (hm : t.mem = s.mem) (hp : t.poison = s.poison) (hb : t.bad = s.bad)
    (hs : partOf s part = some p) (ht : partOf t part = some q) (hr : q.roots = p.roots) (asid ipa : Nat) :
    badEntryOf t part asid ipa = badEntryOf s part asid ipa := by
  simp only [badEntryOf, hs, ht, Option.bind_some, hr, badEntryFrom_congr hm hp hb]

/-- The partition p with a notice n more, its record for the ring of key 6, and the record of the entry that it met. -/
def notedPart (s : State) (part : Nat) (p : Partition) (n : Notice) (first : Nat) (met : Option Nat) : Partition :=
  { p with
    notices := p.notices ++ [n]
    pendRecords := match met with
      | none => p.pendRecords
      | some e => if p.mcRing.isSome = true then
        insertRecord p.pendRecords (recordWords s part (srcMemory e) 9 0 3 0x3FF (w64 (e : Nat)) 0) else p.pendRecords
    pendNotices := p.pendNotices ++ (if p.noticeRing.isSome = true then [noticeWords s n.num n.asid n.gen n.kind first n.ipa] else []) }

/-- t is s with a notice n raised in a partition, the bad entry that its walk met recorded. -/
def Noticed (s t : State) (part : Nat) (p : Partition) (n : Notice) (met : Option Nat) : Prop :=
  { t with parts := s.parts, gangs := s.gangs, noticeNext := s.noticeNext, malformed := s.malformed, health := s.health } = s ∧
  (match met with
    | none => t.health = s.health
    | some e => Logged s t 1 (srcMemory e)) ∧
  t.noticeNext = s.noticeNext + 1 ∧ t.malformed = (if n.bad = true then [s.noticeNext] else []) ++ s.malformed ∧
  (∀ m, gangOf t m = (gangOf s m).map (fun g => if n.gang = some m then { g with notices := g.notices ++ [s.noticeNext] } else g)) ∧
  (∀ m, m ≠ part → partOf t m = partOf s m) ∧ partOf t part = some (notedPart s part p n (firstCore s n.gang) met)

/-- The gang of a notice takes its stall wire. -/
def wireNotice (s : State) (gang : Option Nat) (n : Nat) : State :=
  match gang with
  | none => s
  | some g => modGang s g (fun x => { x with notices := x.notices ++ [n] })

theorem gangOf_wireNotice (s : State) (gang : Option Nat) (n m : Nat) :
    gangOf (wireNotice s gang n) m =
      (gangOf s m).map (fun g => if gang = some m then { g with notices := g.notices ++ [n] } else g) := by
  cases gang with
  | none => simp [wireNotice]
  | some g =>
    rw [wireNotice, gangOf_modGang]
    by_cases h : m = g
    · simp [h]
    · simp [h, Ne.symm h]

/-- A notice queued and noted, and the number of a malformed entry told. -/
def queueNoted (s : State) (part : Nat) (n : Notice) (first : Nat) : State :=
  { s with
    parts := kmod (kmod s.parts part (fun p => { p with pendNotices :=
      if p.noticeRing.isSome then p.pendNotices ++ [noticeWords s s.noticeNext n.asid n.gen n.kind first n.ipa] else p.pendNotices }))
      part (fun p => { p with notices := p.notices ++ [n] })
    noticeNext := s.noticeNext + 1, malformed := (if n.bad = true then [s.noticeNext] else []) ++ s.malformed }

theorem partOf_queueNoted {s : State} {part : Nat} {p : Partition} (hp : partOf s part = some p) (n : Notice) (first : Nat)
    (hn : n.num = s.noticeNext) :
    partOf (queueNoted s part n first) part = some (notedPart s part p n first none) ∧
      ∀ m, m ≠ part → partOf (queueNoted s part n first) m = partOf s m := by
  refine ⟨?_, fun m hm => ?_⟩
  · simp only [partOf] at hp ⊢
    simp only [queueNoted, notedPart, kget_kmod, if_pos, hp, hn, Option.map_some]
    cases p.noticeRing.isSome <;> simp
  · simp only [partOf, queueNoted, kget_kmod, if_neg hm]

theorem raiseNotice_eq {s : State} {part : Nat} {p : Partition} (hp : partOf s part = some p) (asid gen kind core : Nat)
    (gang : Option Nat) (ipa : Nat) (bad : Bool) (whose : Asker) :
    let n : Notice := ⟨s.noticeNext, asid, gen, kind, core, gang, ipa, bad, whose⟩
    let u := queueNoted s part n (firstCore s gang)
    raiseNotice s part asid gen kind core gang ipa bad whose =
      wireNotice (match (if bad = true then badEntryOf s part asid ipa else none) with
        | some a => mcRecord u part (srcMemory a) 9 0 3 0x3FF (BitVec.ofNat 64 a) 0
        | none => u) gang s.noticeNext := by
  intro n u
  obtain ⟨hu, -⟩ := partOf_queueNoted hp n (firstCore s gang) rfl
  have hb : badEntryOf u part asid ipa = badEntryOf s part asid ipa :=
    badEntryOf_congr (s := s) (t := u) rfl rfl rfl hp hu rfl asid ipa
  rw [← hb]
  cases bad <;> simp only [raiseNotice, hp, Option.isNone_some, Bool.false_eq_true, if_false, if_true] <;> rfl

/-- A notice's wire comes last: v is the state before it. -/
theorem Noticed.of_wire {s v : State} {part : Nat} {p : Partition} {n : Notice} {met : Option Nat}
    (h0 : { v with parts := s.parts, noticeNext := s.noticeNext, malformed := s.malformed, health := s.health } = s)
    (h1 : match met with
      | none => v.health = s.health
      | some e => Logged s v 1 (srcMemory e))
    (h2 : v.noticeNext = s.noticeNext + 1) (h3 : v.malformed = (if n.bad = true then [s.noticeNext] else []) ++ s.malformed)
    (h4 : ∀ m, m ≠ part → partOf v m = partOf s m) (h5 : partOf v part = some (notedPart s part p n (firstCore s n.gang) met)) :
    Noticed s (wireNotice v n.gang s.noticeNext) part p n met := by
  have hg : ∀ m, gangOf v m = gangOf s m := fun m => congrArg (fun l => kget l m) (congrArg State.gangs h0 :)
  have hw : ∀ gang k, wireNotice v gang k = { v with gangs := (wireNotice v gang k).gangs } := fun gang k => by cases gang <;> rfl
  have h6 : ∀ m, gangOf (wireNotice v n.gang s.noticeNext) m =
      (gangOf s m).map (fun g => if n.gang = some m then { g with notices := g.notices ++ [s.noticeNext] } else g) := fun m => by
    rw [gangOf_wireNotice, hg]
  rw [hw] at h6 ⊢
  exact ⟨(congrArg (fun u : State => { u with gangs := s.gangs }) h0 :), h1, h2, h3, h6, h4, h5⟩

/-- The rule of notices (R172, R179, R407). -/
theorem raiseNotice_spec {s : State} {part : Nat} {p : Partition} (hp : partOf s part = some p) (n : Notice) (hn : n.num = s.noticeNext) :
    Noticed s (raiseNotice s part n.asid n.gen n.kind n.core n.gang n.ipa n.bad n.whose) part p n
      (if n.bad = true then badEntryOf s part n.asid n.ipa else none) := by
  obtain ⟨num, asid, gen, kind, core, gang, ipa, bad, whose⟩ := n
  subst hn
  rw [raiseNotice_eq hp]
  change Noticed s _ part p _ (if bad = true then badEntryOf s part asid ipa else none)
  generalize (if bad = true then badEntryOf s part asid ipa else none) = met
  obtain ⟨hu, ho⟩ := partOf_queueNoted hp ⟨s.noticeNext, asid, gen, kind, core, gang, ipa, bad, whose⟩ (firstCore s gang) rfl
  cases met with
  | none => exact Noticed.of_wire rfl rfl rfl rfl ho hu
  | some e =>
    refine Noticed.of_wire (n := ⟨s.noticeNext, asid, gen, kind, core, gang, ipa, bad, whose⟩) (met := some e) rfl
      (logged_healthEvent s 1 (srcMemory e)) rfl rfl (fun m hm => (partOf_modPart_ne _ part m _ hm).trans (ho m hm))
      ((partOf_modPart_same _ part _).trans ?_)
    rw [show partOf (healthEvent (queueNoted s part _ _) 1 (srcMemory e)) part = _ from hu, Option.map_some, notedPart, notedPart, w64_ofNat]
    cases p.mcRing.isSome <;> rfl

theorem noticeWords_eq (s : State) (num asid gen kind core ipa : Nat) :
    noticeWords s num asid gen kind core ipa =
      [w64 num, w64 (asid * 2 ^ 48 + gen * 2 ^ 44 + kind * 2 ^ 42 + core * 2 ^ 32 : Nat), w64 ipa, w64 s.tsc] := by
  simp only [noticeWords, w64_ofNat]

/-- The notice of an access that misses. -/
def Access.noticeOf (s : State) (a : Access) (gang x : Nat) (bad : Bool) : Notice :=
  ⟨s.noticeNext, a.asid, a.gen, if a.kind.writes = true then 1 else 0, a.core, some gang, x, bad, .held⟩

theorem pageFault_eq {s : State} {a : Access} {x : Nat} {bad : Bool} {k : Task} (ha : accOf s a.id = some a) (hd : a.dest = .ipa x)
    (hm : findDest s a.part a.asid a.gen (.ipa x) a.kind.writes = .miss bad) (h1 : a.denied = false) (h2 : a.parked s = false)
    (h3 : writeParked s a = false) (h4 : nearHeld s a = false) (hk : taskOf s a.core = some k) :
    let n := a.noticeOf s k.gang x bad
    exec (.pageFault a.id) s = .next (modAcc (raiseNotice s a.part n.asid n.gen n.kind n.core n.gang n.ipa n.bad n.whose) a.id
      (fun y => { y with notice := some s.noticeNext })) := by
  intro n
  change execPageFault a.id s = _
  simp only [execPageFault, ha, hd, hm, h1, h2, h3, h4, Bool.and_false, Bool.or_self, Bool.false_eq_true, if_false,
    gangOfCore, hk, Option.map_some]
  rfl

theorem Noticed.accOf_eq {s t : State} {part : Nat} {p : Partition} {n : Notice} {met : Option Nat} (h : Noticed s t part p n met) (m : Nat) :
    accOf t m = accOf s m :=
  (congrArg (fun u : State => accOf u m) h.1 :)

/-- Conjunct 1: an access that nothing else holds misses its translation (R111, R175, R179). -/
theorem pageFault_spec {s : State} {a : Access} {x : Nat} {bad : Bool} {p : Partition} {k : Task} {g : Gang}
    (ha : accOf s a.id = some a) (hd : a.dest = .ipa x)
    (hm : findDest s a.part a.asid a.gen (.ipa x) a.kind.writes = .miss bad) (h1 : a.denied = false) (h2 : a.parked s = false)
    (h3 : writeParked s a = false) (h4 : nearHeld s a = false) (hp : partOf s a.part = some p) (hk : taskOf s a.core = some k)
    (hg : gangOf s k.gang = some g) :
    let n := s.noticeNext
    let kind := if a.kind.writes = true then 1 else 0
    let met := if bad = true then badEntryOf s a.part a.asid x else none
    ∃ t, exec (.pageFault a.id) s = .next t ∧
      { t with acc := s.acc, parts := s.parts, gangs := s.gangs, noticeNext := n, malformed := s.malformed, health := s.health } = s ∧
      (match met with
        | none => t.health = s.health
        | some e => Logged s t 1 (srcMemory e)) ∧
      t.noticeNext = n + 1 ∧ t.malformed = (if bad = true then [n] else []) ++ s.malformed ∧
      accOf t a.id = some { a with notice := some n } ∧ (∀ m, m ≠ a.id → accOf t m = accOf s m) ∧
      gangOf t k.gang = some { g with notices := g.notices ++ [n] } ∧ (∀ m, m ≠ k.gang → gangOf t m = gangOf s m) ∧
      (∀ m, m ≠ a.part → partOf t m = partOf s m) ∧
      partOf t a.part = some { p with
        notices := p.notices ++ [⟨n, a.asid, a.gen, kind, a.core, some k.gang, x, bad, .held⟩]
        pendRecords := match met with
          | none => p.pendRecords
          | some e => if p.mcRing.isSome = true then
            insertRecord p.pendRecords (recordWords s a.part (srcMemory e) 9 0 3 0x3FF (w64 (e : Nat)) 0) else p.pendRecords
        pendNotices := p.pendNotices ++ (if p.noticeRing.isSome = true then
          [[w64 n, w64 (a.asid * 2 ^ 48 + a.gen * 2 ^ 44 + kind * 2 ^ 42 + g.cores.getD 0 0x3FF * 2 ^ 32 : Nat), w64 x, w64 s.tsc]]
          else []) } := by
  intro n kind met
  refine ⟨_, pageFault_eq ha hd hm h1 h2 h3 h4 hk, ?_⟩
  have h := raiseNotice_spec hp (a.noticeOf s k.gang x bad) rfl
  have hid : ∀ y : Access, ({ y with notice := some s.noticeNext } : Access).id = y.id := fun _ => rfl
  generalize raiseNotice _ _ _ _ _ _ _ _ _ _ = t at h ⊢
  have ha' := (h.accOf_eq a.id).trans ha
  have hf : firstCore s (a.noticeOf s k.gang x bad).gang = g.cores.getD 0 0x3FF := by
    simp only [firstCore, Access.noticeOf, Option.bind_some, hg]
  have hacc := h.accOf_eq
  obtain ⟨h0, hl, hn, hmal, hgs, ho, hpt⟩ := h
  unfold notedPart at hpt
  rw [noticeWords_eq, hf] at hpt
  refine ⟨(congrArg (fun v : State => { v with acc := s.acc }) h0 :), hl, hn, hmal, accOf_modAcc_same t a.id _ hid a ha',
    fun m hm => (accOf_modAcc_ne t a.id m _ hid hm).trans (hacc m), ?_, fun m hm => ?_, ho, hpt⟩
  · refine (hgs k.gang).trans ?_
    rw [hg, Option.map_some, if_pos (show (a.noticeOf s k.gang x bad).gang = some k.gang from rfl)]
  · refine (hgs m).trans ?_
    simp only [show (a.noticeOf s k.gang x bad).gang = some k.gang from rfl, Option.some.injEq, Ne.symm hm, if_false, Option.map_id']

end Sys2Proof.Machine
end

section
namespace Sys2Proof.Machine

/-! Page migration (R155): bytes copied, and a leaf with another frame. -/

theorem kget_eq_none_of_lt {α : Type} (m : KMap α) {b k : Nat} (w : kwfFrom b m = true) (h : k < b) : kget m k = none := by
  induction m generalizing b with
  | nil => rfl
  | cons c m ih =>
    obtain ⟨k', v⟩ := c
    simp only [kwfFrom, Bool.and_eq_true, decide_eq_true_eq] at w
    rw [kget, if_neg (by omega), ih w.2 (by omega)]

/-- Bytes of a table laid at another place, one after the other. -/
theorem memByte_foldl_moved (src dst : Nat) (l m : Memory) {b : Nat} (w : kwfFrom b l = true) (hb : src ≤ b) (n : Nat) :
    memByte (l.foldl (fun m c => memPut m (c.1 - src + dst) c.2) m) n =
      if dst ≤ n then (kget l (n - dst + src)).getD (memByte m n) else memByte m n := by
  induction l generalizing m b with
  | nil => simp [kget]
  | cons c l ih =>
    obtain ⟨k, v⟩ := c
    simp only [kwfFrom, Bool.and_eq_true, decide_eq_true_eq] at w
    rw [List.foldl_cons, ih _ w.2 (by omega), kget]
    by_cases hn : dst ≤ n
    · rw [if_pos hn, if_pos hn]
      by_cases hk : k = n - dst + src
      · rw [if_pos hk, ← hk, kget_eq_none_of_lt l w.2 (Nat.lt_succ_self k), Option.getD_none, Option.getD_some,
          show n = k - src + dst by omega, memByte_memPut_same]
      · rw [if_neg hk, memByte_memPut_ne _ _ _ _ (by omega)]
    · rw [if_neg hn, if_neg hn, memByte_memPut_ne _ _ _ _ (by omega)]

theorem memByte_memZero (m : Memory) (a n b : Nat) : memByte (memZero m a n) b = if a ≤ b ∧ b < a + n then 0#8 else memByte m b := by
  simp only [memByte, kgetD, memZero, kget_filter_key m (fun k => !(decide (a ≤ k) && decide (k < a + n))) b]
  by_cases h : a ≤ b ∧ b < a + n
  · simp [h.1, h.2]
  · rw [if_neg h, if_pos (by simp; omega)]

theorem kwfFrom_ge {α : Type} (m : KMap α) {a b : Nat} (w : kwfFrom a m = true) (h : ∀ c ∈ m, b ≤ c.1) : kwfFrom b m = true := by
  cases m with
  | nil => rfl
  | cons c m =>
    simp only [kwfFrom, Bool.and_eq_true, decide_eq_true_eq] at w ⊢
    exact ⟨h c List.mem_cons_self, w.2⟩

/-- n bytes copied: what is there afterwards (R155). -/
theorem memByte_memCopy (m : Memory) (src dst n : Nat) (w : kwf m = true) (b : Nat) :
    memByte (memCopy m src dst n) b = if dst ≤ b ∧ b < dst + n then memByte m (b - dst + src) else memByte m b := by
  have hl : kwfFrom src (m.filter (fun c => decide (src ≤ c.1) && decide (c.1 < src + n))) = true :=
    kwfFrom_ge _ (kwfFrom_filter _ m 0 w) (fun c hc => by
      obtain ⟨-, h⟩ := List.mem_filter.mp hc
      simp only [Bool.and_eq_true, decide_eq_true_eq] at h
      exact h.1)
  rw [memCopy, memByte_foldl_moved src dst _ _ hl (Nat.le_refl src), memByte_memZero,
    kget_filter_key m (fun k => decide (src ≤ k) && decide (k < src + n))]
  by_cases hb : dst ≤ b
  · have hk : (decide (src ≤ b - dst + src) && decide (b - dst + src < src + n)) = decide (b < dst + n) := by
      simp only [Nat.le_add_left, decide_true, Bool.true_and, decide_eq_decide]
      omega
    rw [if_pos hb, hk]
    by_cases hn : b < dst + n
    · simp only [hb, hn, decide_true, and_self, if_true]
      rfl
    · simp only [hn, decide_false, and_false, Bool.false_eq_true, if_false, Option.getD_none]
  · rw [if_neg hb, if_neg (fun k => hb k.1), if_neg (fun k => hb k.1)]

/-! A leaf with another frame. -/

theorem populated_lt {s : State} {pa : Nat} (h : populated s pa = true) : pa < 2 ^ 48 := by
  unfold populated at h
  split at h
  · simpa using h
  · split at h
    · omega
    · simp only [Bool.and_eq_true, decide_eq_true_eq] at h
      omega

theorem reframe_getLsbD (l : Word) (pa n : Nat) :
    (reframe l pa).getLsbD n = if 16 ≤ n ∧ n < 48 then pa.testBit n else l.getLsbD n := by
  have hm : ∀ i < 64, (0xFFFF00000000FFFF#64).getLsbD i = !(decide (16 ≤ i) && decide (i < 48)) := by decide
  by_cases hn : n < 64
  · rw [reframe, BitVec.getLsbD_or, BitVec.getLsbD_and, hm n hn, BitVec.getLsbD_ofNat, Nat.testBit_mul_two_pow, Nat.testBit_mod_two_pow,
      Nat.testBit_div_two_pow]
    by_cases h16 : 16 ≤ n
    · by_cases h48 : n < 48
      · have e : 16 + (n - 16) = n := by omega
        have h32 : n - 16 < 32 := by omega
        simp [h16, h48, hn, h32, Nat.sub_add_cancel]
      · have h32 : ¬n - 16 < 32 := by omega
        simp [h16, h48, h32]
    · simp [h16]
  · rw [BitVec.getLsbD_of_ge _ _ (by omega), BitVec.getLsbD_of_ge _ _ (by omega), if_neg (by omega)]

theorem leafPa_reframe (l : Word) {pa : Nat} (h16 : pa % 2 ^ 16 = 0) (h48 : pa < 2 ^ 48) : leafPa (reframe l pa) = pa := by
  have e : (reframe l pa).toNat / 2 ^ 16 % 2 ^ 32 = pa / 2 ^ 16 := by
    refine Nat.eq_of_testBit_eq fun i => ?_
    rw [Nat.testBit_mod_two_pow, Nat.testBit_div_two_pow, Nat.testBit_div_two_pow]
    have := reframe_getLsbD l pa (i + 16)
    rw [BitVec.getLsbD] at this
    rw [this]
    by_cases hi : i < 32
    · rw [if_pos (by omega), decide_eq_true hi, Bool.true_and]
    · rw [decide_eq_false hi, Bool.false_and, Nat.testBit_lt_two_pow (Nat.lt_of_lt_of_le h48 (Nat.pow_le_pow_right (by decide) (by omega)))]
  change (reframe l pa).toNat / 2 ^ 16 % 2 ^ 32 * 2 ^ 16 = pa
  omega

/-- A page's bytes and marks at its new frame, before its leaf names it (R155). -/
def movedPage (s : State) (l : Word) (frame size : Nat) : State :=
  { s with
    mem := memCopy s.mem (leafPa l) frame size
    poison := markCopy s.poison (leafPa l) frame size, bad := markCopy s.bad (leafPa l) frame size }

/-- The translations cached of a frame name another (R155). -/
def reframed (s : State) (part old frame : Nat) : State :=
  { s with
    tcache := s.tcache.map (fun e => if e.part = part ∧ leafPa e.leaf = old then { e with leaf := reframe e.leaf frame } else e)
    l2 := s.l2.map (fun e => if e.part = part ∧ leafPa e.leaf = old then { e with leaf := reframe e.leaf frame } else e) }

theorem moveLeaf_one {s : State} {part asid ipa frame root e : Nat} {l : Word} {big : Bool}
    (hw : walk s part asid ipa = .leaf l big) (he : leafEntry s ipa 0 root 4 = some e) :
    moveLeaf part ipa (leafPa l) frame s (asid, root) = { s with mem := memWrite s.mem e (wordBytes (reframe l frame)) } := by
  simp only [moveLeaf, hw, he, if_true]

/-- A migration to another frame: the bytes, then the leaf's entry (R155). -/
theorem pageMigration_moves {s : State} {part asid ipa frame root e : Nat} {l : Word} {big : Bool} {p : Partition}
    (hw : walk s part asid ipa = .leaf l big) (hp : partOf s part = some p) (hr : p.roots = [(asid, root)]) (hh : leafHome l ≠ 1)
    (hf : frame % (if big = true then 2 ^ 25 else 2 ^ 16) = 0) (hpop : populated s frame = true) (hne : leafPa l ≠ frame)
    (hw' : walk (movedPage s l frame (if big = true then 2 ^ 25 else 2 ^ 16)) part asid ipa = .leaf l big)
    (he : leafEntry (movedPage s l frame (if big = true then 2 ^ 25 else 2 ^ 16)) ipa 0 root 4 = some e) :
    ∃ t, exec (.pageMigration part asid ipa frame) s = .next t ∧
      { t with mem := s.mem, poison := s.poison, bad := s.bad, tcache := s.tcache, l2 := s.l2 } = s ∧
      t.mem = memWrite (memCopy s.mem (leafPa l) frame (if big = true then 2 ^ 25 else 2 ^ 16)) e (wordBytes (reframe l frame)) := by
  have hs : (2 : Nat) ^ (if big = true then 25 else 16) = if big = true then 2 ^ 25 else 2 ^ 16 := by cases big <;> rfl
  generalize hz : (if big = true then 2 ^ 25 else 2 ^ 16 : Nat) = size at hf hw' he hs ⊢
  have hstep := moveLeaf_one (frame := frame) hw' he
  have hgo : (leafHome l == 1 || frame % size != 0 || !populated s frame || leafPa l == frame) = false := by
    simp [hh, hf, hpop, hne]
  have hroots : ((partOf (movedPage s l frame size) part).map (fun p => p.roots)).getD [] = [(asid, root)] := by
    rw [show partOf (movedPage s l frame size) part = some p from hp, Option.map_some, Option.getD_some, hr]
  have hx : execPageMigration part asid ipa frame s = .next (if (leafHome l == 1 || frame % size != 0 || !populated s frame ||
      leafPa l == frame) = true then s else reframed ((((partOf (movedPage s l frame size) part).map (fun p => p.roots)).getD []).foldl
        (moveLeaf part ipa (leafPa l) frame) (movedPage s l frame size)) part (leafPa l) frame) := by
    rw [execPageMigration, hw, ← hs]
    rfl
  rw [hgo, if_neg Bool.false_ne_true, hroots, List.foldl_cons, List.foldl_nil, hstep] at hx
  exact ⟨_, hx, rfl, rfl⟩

theorem memByte_moved {m : Memory} (hm : m.wf = true) (src dst size e b : Nat) (l : Word) :
    memByte (memWrite (memCopy m src dst size) e (wordBytes l)) b =
      if e ≤ b ∧ b < e + 8 then (natBytes l.toNat 8).getD (b - e) 0#8
      else if dst ≤ b ∧ b < dst + size then memByte m (b - dst + src) else memByte m b := by
  rw [memByte_memWrite, memByte_memCopy m src dst size ((Memory.wf_iff m).mp hm).1, wordBytes, natBytes_length]

end Sys2Proof.Machine
end

section
namespace Sys2Proof.Machine

/-! Refusals and retries (R153, R183). -/

theorem find_map_absent {α : Type} (f : α → Nat) (l : List α) (n m : Nat) (g : α → α) (h : ∀ x ∈ l, f x ≠ n) :
    (l.map (fun x => if f x = n then g x else x)).find? (fun x => f x == m) = l.find? (fun x => f x == m) := by
  rw [List.map_congr_left (g := id) (fun x hx => by rw [if_neg (h x hx)]; rfl), List.map_id]

theorem cmdOf_modCmd_absent {s : State} {n : Nat} (g : Cmd → Cmd) (h : cmdOf s n = none) (m : Nat) :
    cmdOf (modCmd s n g) m = cmdOf s m :=
  find_map_absent Cmd.id s.cmds n m g (fun c hc => by
    have := List.find?_eq_none.mp h c hc
    simpa using this)

/-- A refused command waits for the hint where what it does next misses (R153). -/
theorem remoteRefusal_cmd {s : State} {c : Cmd} {hint : Nat} (hc : cmdOf s c.id = some c) (ha : accOf s c.id = none) (h1 : 1 ≤ hint)
    (h2 : hint ≤ 65535) :
    ∃ t, exec (.remoteRefusal (.own c.id) hint) s = .next t ∧ { t with cmds := s.cmds } = s ∧ OnlyCmd s t c.id ∧
      cmdOf t c.id = some { c with retry := if nextMisses s c = true then some (s.tsc + hint) else c.retry } := by
  have e : exec (.remoteRefusal (.own c.id) hint) s = .next (refuseOwn s c.id hint) := congrArg Host.Outcome.next (if_pos ⟨h1, h2⟩)
  rw [refuseOwn, ha, hc, Option.any_none, if_neg Bool.false_ne_true, Option.any_some] at e
  refine ⟨_, e, ?_⟩
  by_cases hm : nextMisses s c = true
  · rw [if_pos hm, if_pos hm]
    exact modCmd_changes (fun c => { c with retry := some (s.tsc + hint) }) (fun _ => rfl) hc
  · rw [if_neg hm, if_neg hm]
    exact ⟨rfl, fun _ _ => rfl, hc⟩

/-- A refused access waits for the hint where nothing of this module translates its address (R153). -/
theorem remoteRefusal_acc {s : State} {a : Access} {hint x : Nat} {bad : Bool} (ha : accOf s a.id = some a) (h1 : 1 ≤ hint)
    (h2 : hint ≤ 65535) (hd : a.dest = .ipa x) (hm : findDest s a.part a.asid a.gen (.ipa x) a.kind.writes = .miss bad) :
    exec (.remoteRefusal (.own a.id) hint) s =
      .next (modAcc s a.id (fun a => { a with retry := some (s.tsc + hint), refused := true })) := by
  have e : exec (.remoteRefusal (.own a.id) hint) s = .next (refuseOwn s a.id hint) := congrArg Host.Outcome.next (if_pos ⟨h1, h2⟩)
  have hr : mayBeRemote s a = true := by simp only [mayBeRemote, hd, hm]
  rw [e, refuseOwn, ha, Option.any_some, if_pos hr]

theorem retryAfter_passed {s : State} {u : Nat} (h : u ≤ s.tsc) : retryAfter s (some u) = none := if_pos h

theorem remoteRefusal_other {s : State} {part asid ipa hint : Nat} {write bad : Bool} {p : Partition} (hp : partOf s part = some p)
    (h1 : 1 ≤ hint) (h2 : hint ≤ 65535) (hm : findDest s part asid (kgetD p.gens asid 0) (.ipa ipa) write = .miss bad) :
    exec (.remoteRefusal (.other part asid ipa write) hint) s =
      .next (raiseNotice s part asid (kgetD p.gens asid 0) (if write = true then 1 else 0) 0x3FF none ipa bad .other) := by
  have e : exec (.remoteRefusal (.other part asid ipa write) hint) s = .next (refuseOther s part asid ipa write) :=
    congrArg Host.Outcome.next (if_pos ⟨h1, h2⟩)
  have hg : genOf s part asid = kgetD p.gens asid 0 := by rw [genOf, hp]
  rw [e, refuseOther, hg, hm]

theorem raiseNotice_gangs {s : State} {part : Nat} {p : Partition} (hp : partOf s part = some p) (asid gen kind core ipa : Nat)
    (bad : Bool) (whose : Asker) : (raiseNotice s part asid gen kind core none ipa bad whose).gangs = s.gangs := by
  rw [raiseNotice_eq hp]
  cases (if bad = true then badEntryOf s part asid ipa else none) <;> rfl

/-! The watchdog of an invalidation (R185). -/

theorem mem_insertNat (l : List Nat) (n k : Nat) : k ∈ insertNat l n ↔ k ∈ l ∨ k = n := by
  induction l with
  | nil => simp [insertNat]
  | cons m l ih =>
    rw [insertNat]
    split
    · simp only [List.mem_cons]
      tauto
    · split
      · rename_i h
        subst h
        simp only [List.mem_cons]
        tauto
      · rw [List.mem_cons, ih, List.mem_cons]
        tauto

theorem gangOf_setWatch (s : State) (inv : Nat) (gangs : List Nat) (n : Nat) :
    gangOf (setWatch s inv gangs true) n =
      (gangOf s n).map (fun g => if gangs.contains n = true then { g with watch := insertNat g.watch inv } else g) :=
  kget_mapKey (β := Gang) s.gangs (fun k (g : Gang) => if gangs.contains k = true then { g with watch := insertNat g.watch inv } else g) n

/-- The watchdog raises the wires of late gangs, while an access under an entry that is invalidated has not performed (R185). -/
theorem watchdogExpiry_raises {s : State} {part : Nat} {p : Partition} {v : Inval} {a : Access} (hp : partOf s part = some p)
    (hv : p.invals.find? (fun w => w.id == v.id) = some v)
    (hl : v.since + 1000 * (if p.watchdog = 0 then 1000 else p.watchdog) ≤ s.tsc) (ha : a ∈ s.acc) (hn : v.names a = true)
    (hu : a.core ∈ unackedCores s p v) :
    exec (.invalidationWatchdogExpiry part v.id) s =
      .next (modPart (setWatch s v.id ((unackedCores s p v).filterMap (gangOfCore s)) true) part (fun p =>
        { p with invals := p.invals.map (fun w => if w.id = v.id then { w with watch := true } else w) })) := by
  have hlim : ¬s.tsc < v.since + (if p.watchdog = 0 then Config.watchdogUs else p.watchdog) * 1000 := by
    rw [Nat.not_lt, Nat.mul_comm]
    exact hl
  have hany : s.acc.any (fun a => (unackedCores s p v).contains a.core && v.names a) = true := by
    rw [List.any_eq_true]
    exact ⟨a, ha, by simp [hu, hn]⟩
  change execInvalidationWatchdogExpiry part v.id s = _
  simp only [execInvalidationWatchdogExpiry, hp, hv]
  rw [if_neg hlim]
  exact congrArg Host.Outcome.next (if_pos hany)

/-! The rings in host memory (R407, R418). -/

/-- The vectors that a partition's vector raises, latest first (R407). -/
def partVectors (s : State) (part vec : Nat) : List (Nat × Nat) :=
  (match controlFn s part with
    | some fn => [(fn, vec)]
    | none => []) ++ [(0, vec)]

theorem raisePart_eq (s : State) (part vec : Nat) :
    raisePart s part vec = { s with msix := (partVectors s part vec).filter (fun v => !s.masked.contains v) ++ s.msix } := by
  have hc : controlFn (raiseFn s 0 vec) part = controlFn s part := by
    rw [raiseFn_eq]
    rfl
  rw [raisePart, hc, partVectors]
  cases controlFn s part with
  | none => exact raiseFn_eq s 0 vec
  | some fn => exact raiseFn_fold [(0, vec), (fn, vec)] s

/-- Of s, t differs at most in memory, in a partition, and in the vectors raised, and has raised vec for that partition. -/
def RingWritten (s t : State) (part vec : Nat) : Prop :=
  { t with mem := s.mem, poison := s.poison, bad := s.bad, parts := s.parts, msix := s.msix } = s ∧
    (∀ n, n ≠ part → partOf t n = partOf s n) ∧ Raises s t (partVectors s part vec)

theorem ringWritten_raise (s : State) (part vec : Nat) (g : Partition → Partition) (m : Memory) (po ba : List Nat) :
    RingWritten s (raisePart { modPart s part g with mem := m, poison := po, bad := ba } part vec) part vec := by
  rw [raisePart_eq]
  exact ⟨rfl, fun n hn => partOf_modPart_ne s part n g hn, rfl⟩

theorem partOf_raisePart (s : State) (part vec n : Nat) : partOf (raisePart s part vec) n = partOf s n := by
  rw [raisePart_eq]
  rfl

theorem mem_raisePart (s : State) (part vec : Nat) : (raisePart s part vec).mem = s.mem := by
  rw [raisePart_eq]

theorem memByte_ringWrite (s : State) (r : HostRing) (prod : Nat) (e : Rec32) (b : Nat) :
    memByte (ringWrite s r prod e).mem b =
      if r.base ≤ b ∧ b < r.base + 8 then (natBytes (prod + 1) 8).getD (b - r.base) 0#8
      else if r.base + 64 + 32 * (prod % r.cap) ≤ b ∧ b < r.base + 64 + 32 * (prod % r.cap) + (e.flatMap wordBytes).length then
        (e.flatMap wordBytes).getD (b - (r.base + 64 + 32 * (prod % r.cap))) 0#8
      else memByte s.mem b := by
  rw [ringWrite, locWrite, locWrite, memByte_memWrite, memByte_memWrite, natBytes_length]

theorem ringWrite_written (s : State) (part vec : Nat) (g : Partition → Partition) (r : HostRing) (prod : Nat) (e : Rec32) :
    RingWritten s (raisePart (ringWrite (modPart s part g) r prod e) part vec) part vec :=
  ringWritten_raise s part vec g _ _ _

theorem memByte_ringWritten (s : State) (part vec : Nat) (g : Partition → Partition) (r : HostRing) (prod : Nat) (e : Rec32) (b : Nat) :
    memByte (raisePart (ringWrite (modPart s part g) r prod e) part vec).mem b =
      if r.base ≤ b ∧ b < r.base + 8 then (natBytes (prod + 1) 8).getD (b - r.base) 0#8
      else if r.base + 64 + 32 * (prod % r.cap) ≤ b ∧ b < r.base + 64 + 32 * (prod % r.cap) + (e.flatMap wordBytes).length then
        (e.flatMap wordBytes).getD (b - (r.base + 64 + 32 * (prod % r.cap))) 0#8
      else memByte s.mem b := by
  rw [mem_raisePart, memByte_ringWrite]
  rfl

theorem noticeWrite_eq {s : State} {part : Nat} {p : Partition} {r : HostRing} {e : Rec32} {rest : List Rec32} (hp : partOf s part = some p)
    (hr : p.noticeRing = some r) (he : p.pendNotices = e :: rest) :
    exec (.noticeQueueWrite part .notice) s = .next (
      if r.cap ≤ leNat (memRead s.mem r.base 8) - min (leNat (memRead s.mem (r.base + 8) 8)) (leNat (memRead s.mem r.base 8)) then s
      else raisePart (ringWrite (modPart s part (fun p => { p with pendNotices := rest })) r (leNat (memRead s.mem r.base 8)) e) part 1) := by
  change Host.Outcome.next (queueWrite s part .notice) = _
  simp only [queueWrite, hp, hr, he, ringFull, decide_eq_true_eq]

theorem recordWrite_eq {s : State} {part : Nat} {p : Partition} {r : HostRing} {e : Rec32} {rest : List Rec32} (hp : partOf s part = some p)
    (hr : p.mcRing = some r) (he : p.pendRecords = e :: rest) :
    exec (.noticeQueueWrite part .machineCheck) s = .next (
      if r.cap ≤ leNat (memRead s.mem r.base 8) - min (leNat (memRead s.mem (r.base + 8) 8)) (leNat (memRead s.mem r.base 8)) then
        raisePart (locWrite (modPart s part (fun p => { p with pendRecords := rest })) (.pa (r.base + 16))
          (natBytes (leNat (memRead s.mem (r.base + 16) 8) + 1) 8)) part 2
      else raisePart (ringWrite (modPart s part (fun p => { p with pendRecords := rest })) r (leNat (memRead s.mem r.base 8)) e) part 2) := by
  change Host.Outcome.next (queueWrite s part .machineCheck) = _
  simp only [queueWrite, hp, hr, he]
  exact congrArg Host.Outcome.next (if_congr decide_eq_true_iff rfl rfl)

/-! The obligation's parts. -/

/-- Settles O41: the rules of notices, refusals, migration, the watchdog and the rings, part by part. -/
theorem pagesAndRings : Obligations.PagesAndRings := by
  refine ⟨?_, ?_, ?_, ?_, ?_, ?_, ?_⟩
  · intro s a x bad p k g ha hd hm h1 h2 h3 h4 hp hk hg
    exact pageFault_spec ha hd hm h1 h2 h3 h4 hp hk hg
  · intro s c hint hc ha h1 h2
    exact remoteRefusal_cmd hc ha h1 h2
  · intro s a hint ha hc h1 h2
    refine ⟨fun x bad hd hm => ⟨_, remoteRefusal_acc ha h1 h2 hd hm, rfl, ?_, fun m hm => ?_, fun _ => rfl, ?_⟩, fun u hu hle => ?_⟩
    · exact accOf_modAcc_same s a.id (fun a => { a with retry := some (s.tsc + hint), refused := true }) (fun _ => rfl) a ha
    · exact accOf_modAcc_ne s a.id m _ (fun _ => rfl) hm
    · simp only [Access.parked, modAcc]
      rw [decide_eq_true (show s.tsc < s.tsc + hint by omega), Bool.or_true]
    · refine ⟨_, rfl, rfl, ?_, fun m hm => accOf_modAcc_ne s a.id m _ (fun _ => rfl) hm, cmdOf_modCmd_absent _ hc⟩
      refine (accOf_modAcc_same s a.id (fun a => { a with retry := retryAfter s a.retry }) (fun _ => rfl) a ha).trans ?_
      rw [hu, retryAfter_passed hle]
  · intro s part asid ipa hint write bad p hp h1 h2 gen kind n hm met
    refine ⟨_, remoteRefusal_other hp h1 h2 hm, ?_⟩
    have h := raiseNotice_spec hp ⟨n, asid, gen, kind, 0x3FF, none, ipa, bad, .other⟩ rfl
    have hg := raiseNotice_gangs hp asid gen kind 0x3FF ipa bad .other
    obtain ⟨h0, hl, hn, hmal, -, ho, hpt⟩ := h
    unfold notedPart at hpt
    rw [noticeWords_eq] at hpt
    refine ⟨?_, hl, hn, hmal, ho, hpt⟩
    rw [← hg] at h0
    exact h0
  · intro s part asid ipa frame root e l big p hwf hw hp hr hh size hf hpop hne moved hw' he
    obtain ⟨t, hx, ht, hmem⟩ := pageMigration_moves hw hp hr hh hf hpop hne hw' he
    have h16 : frame % 2 ^ 16 = 0 := by
      cases big <;> simp only [size, if_true, Bool.false_eq_true, if_false] at hf <;> omega
    refine ⟨t, reframe l frame, hx, ht, leafPa_reframe l h16 (populated_lt hpop), fun n hn => ?_, fun b => ?_⟩
    · rw [reframe_getLsbD, if_neg (by omega)]
    · rw [hmem]
      exact memByte_moved hwf (leafPa l) frame size e b _
  · intro s part p v a k g hp hv hl ha hn hu hk hg
    have hin : ((unackedCores s p v).filterMap (gangOfCore s)).contains k.gang = true := by
      simp only [List.contains_eq_mem, decide_eq_true_eq, List.mem_filterMap]
      exact ⟨a.core, hu, by rw [gangOfCore, hk, Option.map_some]⟩
    refine ⟨_, { p with invals := p.invals.map (fun w => if w.id = v.id then { w with watch := true } else w) }, insertNat g.watch v.id,
      watchdogExpiry_raises hp hv hl ha hn hu, rfl, ?_, mem_insertNat g.watch v.id, fun n h hh => ?_,
      fun n hne => partOf_modPart_ne _ part n _ hne, ?_, rfl, ?_⟩
    · refine (gangOf_setWatch s v.id _ k.gang).trans ?_
      rw [hg, Option.map_some, if_pos hin]
    · refine ⟨_, (gangOf_setWatch s v.id _ n).trans (by rw [hh, Option.map_some]), ?_⟩
      split <;> rfl
    · exact (partOf_modPart_same _ part _).trans (congrArg _ hp)
    · rw [List.map_map]
      refine List.map_congr_left fun w _ => ?_
      simp only [Function.comp]
      split <;> rfl
  · intro s part p r e rest hp prod cons raised entry only
    refine ⟨fun hr he => ⟨fun hroom => ?_, fun hfull => ?_⟩, fun hr he => ?_⟩
    · have hx := noticeWrite_eq hp hr he
      rw [if_neg (Nat.not_le.mpr hroom)] at hx
      obtain ⟨h0, ho, hv⟩ := ringWrite_written s part 1 (fun p => { p with pendNotices := rest }) r prod e
      refine ⟨_, hx, ⟨h0, ho⟩, memByte_ringWritten s part 1 _ r prod e, hv, ?_⟩
      exact (partOf_raisePart _ part 1 part).trans ((partOf_modPart_same s part _).trans (congrArg _ hp))
    · exact (noticeWrite_eq hp hr he).trans (congrArg Host.Outcome.next (if_pos hfull))
    · have hx := recordWrite_eq hp hr he
      by_cases hroom : prod - cons < r.cap
      · rw [if_neg (Nat.not_le.mpr hroom)] at hx
        obtain ⟨h0, ho, hv⟩ := ringWrite_written s part 2 (fun p => { p with pendRecords := rest }) r prod e
        refine ⟨_, hx, ⟨h0, ho⟩, hv, ?_, ?_⟩
        · exact (partOf_raisePart _ part 2 part).trans ((partOf_modPart_same s part _).trans (congrArg _ hp))
        · rw [if_pos hroom]
          exact memByte_ringWritten s part 2 _ r prod e
      · rw [if_pos (Nat.not_lt.mp hroom)] at hx
        obtain ⟨h0, ho, hv⟩ := ringWritten_raise s part 2 (fun p => { p with pendRecords := rest }) _ _ _
        refine ⟨_, hx, ⟨h0, ho⟩, hv, ?_, ?_⟩
        · exact (partOf_raisePart _ part 2 part).trans ((partOf_modPart_same s part _).trans (congrArg _ hp))
        · rw [if_neg hroom]
          intro b
          rw [mem_raisePart, locWrite, memByte_memWrite, natBytes_length]
          rfl

end Sys2Proof.Machine
end

section
namespace Sys2Proof.Machine

/-! TASK_RETIRE where the task and its gang name different partitions: the statement does not ask that they agree. -/

/-- The gang of the task of core 0, but in partition 1. -/
def gangElsewhere : Gang := { fetchGang with part := 1 }

/-- Partition 1, in which the grid with the gang's number has no range left. -/
def partElsewhere : Partition := { Partition.fresh [1] with grids := [⟨fetchGang.grid, Tests.entry0, [], 1, [], 0⟩] }

/-- The task of core 0, of partition 0, has ended; its gang is of partition 1. -/
def stElsewhere : State := { Tests.stEnded with gangs := [(0, gangElsewhere)], parts := [(0, Tests.part0), (1, partElsewhere)] }

/-- The grids of partition 1 after an outcome. -/
def gridsAfter : Host.Outcome State Fault Refusal → Option Nat
  | .next t => (partOf t 1).map (fun p => p.grids.length)
  | _ => none

/-- The retirement gives up the spent grid of partition 1 (R375). -/
theorem retire_elsewhere : gridsAfter (exec (.taskRetire 0) stElsewhere) = some 0 := by decide

/-- Refutes O44: its first part does not say that the task's partition is its gang's. Where it is not, as in a state that no run
reaches, the gang's retirement gives up a spent grid of its own partition, while the statement says that no partition changes. -/
theorem not_tasksPlaced : ¬ Obligations.TasksPlaced := by
  rintro ⟨h, -⟩
  obtain ⟨h, -⟩ := h stElsewhere 0 fetchTask Tests.part0 gangElsewhere rfl rfl rfl (by decide)
  obtain ⟨t, ht, -, hp, -⟩ := h ⟨rfl, rfl, rfl, (fun d hd => nomatch hd), (fun a ha => nomatch ha), rfl⟩ rfl rfl rfl rfl rfl rfl rfl
  have hg := retire_elsewhere
  rw [ht, gridsAfter, hp 1] at hg
  exact absurd hg (by decide)

end Sys2Proof.Machine
end

section
namespace Sys2Proof.Machine

/-! Budgets and preload (R85, R389, R390). -/

theorem budgetExpiry_spent {s : State} {n : Nat} {g : Gang} (hg : gangOf s n = some g) (hb : g.budget = 0) (hs : g.saved = false) :
    exec (.budgetExpiry n) s =
      .next (resetPartition s g.part 0xF10 0 (g.cores.headD 0x3FF) (ctxOf s (g.cores.headD 0) .L).tpc) := by
  change execBudgetExpiry n s = _
  simp only [execBudgetExpiry, hg]
  rw [if_neg (by simp [hb, hs])]

theorem budgetExpiry_left {s : State} {n : Nat} {g : Gang} (hg : gangOf s n = some g) (hb : g.budget ≠ 0) :
    exec (.budgetExpiry n) s = .next s := by
  change execBudgetExpiry n s = _
  simp only [execBudgetExpiry, hg]
  rw [if_pos (.inl hb)]

theorem overrun_words (s : State) (part core : Nat) (ea : Word) :
    recordWords s part srcSched 0xF10 0 0 core ea 0 =
      [w64 s.tsc, w64 (0xC0 * 2 ^ 48 + 0xF10 * 2 ^ 32 + core * 2 ^ 16 : Nat), ea, w64 (part * 2 ^ 59 : Nat)] := by
  simp only [recordWords, w64_ofNat, srcSched, Nat.zero_mul, Nat.add_zero, Nat.zero_mod]

/-- The reset that a spent budget makes (R85, R389). -/
theorem budgetExpiry_resets {s : State} {n : Nat} {g : Gang} {p : Partition} (hg : gangOf s n = some g) (hp : partOf s g.part = some p)
    (hs : g.saved = false) (hb : g.budget = 0) :
    ∃ t q, exec (.budgetExpiry n) s = .next t ∧ partOf t g.part = some q ∧
      q.replays = p.replays + 1 ∧ q.log = p.log ∧ q.policy = p.policy ∧ q.stage = p.stage ∧ q.ctl = p.ctl ∧ q.sync = p.sync ∧
      q.stash = [] ∧ q.lines = [] ∧ q.slots = [] ∧ q.names = [] ∧ (∀ x ∈ q.graphs, x.2.period = none) ∧
      (∀ m, m ≠ g.part → partOf t m = partOf s m) ∧ (∀ c ∈ t.cmds, c.part ≠ g.part) ∧ (∀ x ∈ t.gangs, x.2.part ≠ g.part) ∧
      (∀ k ∈ partCores p, taskOf t k = none) ∧
      (p.mcRing.isSome = true → [w64 s.tsc, w64 (0xC0 * 2 ^ 48 + 0xF10 * 2 ^ 32 + g.cores.headD 0x3FF * 2 ^ 16 : Nat),
        (ctxOf s (g.cores.headD 0) .L).tpc, w64 (g.part * 2 ^ 59 : Nat)] ∈ q.pendRecords) ∧
      (kgetD p.ctl 0 0#64 = 0#64 →
        (∀ k, k ∉ partCores p → coreOf t k = coreOf s k) ∧ ∀ a, memByte t.mem a = memByte s.mem a) := by
  obtain ⟨-, -, -, ho, hc, hgs, ht, ⟨q, hq, he, -, hr⟩, hk⟩ :=
    resetPartition_only s g.part 0xF10 0 (g.cores.headD 0x3FF) (ctxOf s (g.cores.headD 0) .L).tpc p hp
  rw [overrun_words] at hr
  refine ⟨_, q, budgetExpiry_spent hg hb hs, hq, (congrArg Partition.replays he :), (congrArg Partition.log he :),
    (congrArg Partition.policy he :), (congrArg Partition.stage he :), (congrArg Partition.ctl he :), (congrArg Partition.sync he :),
    (congrArg Partition.stash he :), (congrArg Partition.lines he :), (congrArg Partition.slots he :), (congrArg Partition.names he :),
    fun x hx => ?_, ho, hc, hgs, ht, hr, fun h0 => ?_⟩
  · have hgr : q.graphs = p.graphs.map (fun g => (g.1, { g.2 with period := none, placed := [], retired := [] })) :=
      (congrArg Partition.graphs he :)
    rw [hgr] at hx
    obtain ⟨y, -, rfl⟩ := List.mem_map.mp hx
    rfl
  · obtain ⟨h1, h2⟩ := hk h0
    exact ⟨h1, fun a => by rw [h2]⟩

theorem preload_notes {s : State} {n : Nat} {g : Gang} {p : Partition} {x : Grid} {r : GridRange} (hg : gangOf s n = some g)
    (hp : partOf s g.part = some p) (hs : g.saved = false) (hx : gridOf p g.grid = some x) (hr : r ∈ x.ranges) (ho : r.owner = some n) :
    exec (.preload n) s = .next (modGang s n (fun g => { g with preloaded := true })) := by
  have hn : hasNext s n g = true := by
    have : x.ranges.any (fun r => r.owner == some n) = true := List.any_eq_true.mpr ⟨r, hr, by simp [ho]⟩
    simp only [hasNext, hp, hx, Option.any_some, this, Bool.true_or]
  change execPreload n s = _
  simp only [execPreload, hg, hn, hs, Bool.not_false, Bool.and_self, if_true]

theorem modGang_changes {s : State} {n : Nat} {g : Gang} (f : Gang → Gang) (hg : gangOf s n = some g) :
    { modGang s n f with gangs := s.gangs } = s ∧ gangOf (modGang s n f) n = some (f g) ∧
      ∀ m, m ≠ n → gangOf (modGang s n f) m = gangOf s m :=
  ⟨rfl, by rw [gangOf_modGang, if_pos rfl, hg, Option.map_some], fun m hm => by rw [gangOf_modGang, if_neg hm]⟩

end Sys2Proof.Machine
end

section
namespace Sys2Proof.Machine

/-! The age of a head flags a gang (R391). -/

theorem kget_of_mem {α : Type} (m : KMap α) {b : Nat} (w : kwfFrom b m = true) {k : Nat} {v : α} (h : (k, v) ∈ m) : kget m k = some v := by
  induction m generalizing b with
  | nil => cases h
  | cons c m ih =>
    obtain ⟨k', v'⟩ := c
    simp only [kwfFrom, Bool.and_eq_true, decide_eq_true_eq] at w
    rw [kget]
    rcases List.mem_cons.mp h with e | h
    · cases e
      rw [if_pos rfl]
    · have hk := ih w.2 h
      by_cases e : k' = k
      · rw [← e, kget_eq_none_of_lt m w.2 (Nat.lt_succ_self k')] at hk
        cases hk
      · rw [if_neg e, hk]

theorem mem_of_kget {α : Type} (m : KMap α) {k : Nat} {v : α} (h : kget m k = some v) : (k, v) ∈ m := by
  induction m with
  | nil => cases h
  | cons c m ih =>
    obtain ⟨k', v'⟩ := c
    rw [kget] at h
    split at h
    · rename_i e
      cases h
      rw [e]
      exact List.mem_cons_self
    · exact List.mem_cons_of_mem _ (ih h)

/-- The later of two gangs, the second where both were placed at one time. -/
def laterGang (b : Option (Nat × Gang)) (g : Nat × Gang) : Option (Nat × Gang) :=
  match b with
  | none => some g
  | some x => if x.2.placedAt ≤ g.2.placedAt then some g else some x

/-- Where one gang of a list is later than all others, it is what the search for the latest finds. -/
theorem laterGang_foldl {l : List (Nat × Gang)} {y : Nat × Gang} (hl : ∀ x ∈ l, x = y ∨ x.2.placedAt < y.2.placedAt)
    (b : Option (Nat × Gang)) (hb : b = some y ∨ y ∈ l ∧ ∀ x, b = some x → x.2.placedAt < y.2.placedAt) :
    l.foldl laterGang b = some y := by
  induction l generalizing b with
  | nil =>
    rcases hb with hb | ⟨h, -⟩
    · exact hb
    · cases h
  | cons x l ih =>
    rw [List.foldl_cons]
    refine ih (fun z hz => hl z (List.mem_cons_of_mem _ hz)) _ ?_
    have hx := hl x List.mem_cons_self
    rcases hb with rfl | ⟨hm, hb⟩
    · rcases hx with rfl | hx
      · exact .inl (if_pos (Nat.le_refl _))
      · exact .inl (if_neg (Nat.not_le.mpr hx))
    · by_cases e : x = y
      · subst e
        refine .inl ?_
        cases b with
        | none => rfl
        | some z => exact if_pos (Nat.le_of_lt (hb z rfl))
      · have hx := hx.resolve_left e
        refine .inr ⟨(List.mem_cons.mp hm).resolve_left (Ne.symm e), fun z hz => ?_⟩
        cases b with
        | none =>
          cases hz
          exact hx
        | some w =>
          simp only [laterGang] at hz
          split at hz
          · cases hz
            exact hx
          · cases hz
            exact hb _ rfl

theorem latestGang_eq (s : State) (part cl : Nat) :
    latestGang s part cl = (s.gangs.filter (fun g => g.2.part == part && !g.2.saved && clusterOf (g.2.cores.headD 0) == cl)).foldl
      laterGang none := rfl

theorem latestGang_none {s : State} {part cl : Nat} (w : kwf s.gangs = true)
    (h : ∀ m k, gangOf s m = some k → k.part = part → clusterOf (k.cores.headD 0) ≠ cl) : latestGang s part cl = none := by
  have he : s.gangs.filter (fun g => g.2.part == part && !g.2.saved && clusterOf (g.2.cores.headD 0) == cl) = [] := by
    refine List.filter_eq_nil_iff.mpr fun x hx hc => ?_
    simp only [Bool.and_eq_true, beq_iff_eq] at hc
    exact h x.1 x.2 (kget_of_mem s.gangs w hx) hc.1.1 hc.2
  rw [latestGang_eq, he]
  rfl

theorem latestGang_some {s : State} {n : Nat} {g : Gang} (w : kwf s.gangs = true) (hg : gangOf s n = some g) (hs : g.saved = false)
    (h : ∀ m k, m ≠ n → gangOf s m = some k → k.part = g.part → k.saved = false →
      clusterOf (k.cores.headD 0) = clusterOf (g.cores.headD 0) → k.placedAt < g.placedAt) :
    latestGang s g.part (clusterOf (g.cores.headD 0)) = some (n, g) := by
  rw [latestGang_eq]
  refine laterGang_foldl (fun x hx => ?_) none (.inr ⟨?_, fun x hx => by cases hx⟩)
  · obtain ⟨hx, hc⟩ := List.mem_filter.mp hx
    simp only [Bool.and_eq_true, beq_iff_eq, Bool.not_eq_true'] at hc
    have hk : gangOf s x.1 = some x.2 := kget_of_mem s.gangs w hx
    by_cases e : x.1 = n
    · rw [e, hg] at hk
      exact .inl (Prod.ext e (Option.some.inj hk).symm)
    · exact .inr (h x.1 x.2 e hk hc.1.1 hc.1.2 hc.2)
  · exact List.mem_filter.mpr ⟨mem_of_kget s.gangs hg, by simp [hs]⟩

/-- The head of a partition's one queue, as a policy entry that names it finds it (R371). -/
theorem polHead_one {p : Partition} {q : Nat} {e : Entry} {rest : List Entry} {w : Word} (hq : p.queues = [(q, e :: rest)])
    (hk : w.toNat / 2 ^ 61 % 4 = e.kind) (hs : w.getLsbD 60 = true ∨ w.toNat / 2 ^ 56 % 16 = e.sid) : polHead p w = some e := by
  have hh : heads p = [e] := by
    rw [heads, hq]
    rfl
  have hc : (e.kind == polKind w && (polAny w || e.sid == polSid w)) = true := by
    simp only [Bool.and_eq_true, Bool.or_eq_true, beq_iff_eq]
    exact ⟨hk.symm, hs.imp id Eq.symm⟩
  simp only [polHead, hh, List.filter_cons, hc, if_true, List.filter_nil]
  rfl

theorem promoted_iff (s : State) (w : Word) (e : Entry) (times : Nat) :
    promoted s w e times = true ↔ w.toNat % 2 ^ 32 ≠ 0 ∧ times * (w.toNat % 2 ^ 32) ≤ s.tsc - e.at_ := by
  have ha : polAge w = w.toNat % 2 ^ 32 := by
    rw [polAge, wbits, Nat.pow_zero, Nat.div_one]
  rw [promoted, ha]
  simp

theorem flagGang_flags {s : State} {n : Nat} {g : Gang} (hg : gangOf s n = some g) (hs : g.saved = false) (hf : g.flag = none) :
    { flagGang s n with gangs := s.gangs } = s ∧ gangOf (flagGang s n) n = some { g with flag := some s.tsc } ∧
      ∀ m, m ≠ n → gangOf (flagGang s n) m = gangOf s m := by
  obtain ⟨h1, h2, h3⟩ := modGang_changes (fun g => if g.flag.isSome || g.saved then g else { g with flag := some s.tsc }) hg
  refine ⟨h1, h2.trans ?_, h3⟩
  simp [hs, hf]

/-- The age of a head that no cluster holds flags the latest gang of the first cluster that would do (R391). -/
theorem preemptAge_flags {s : State} {n idx q : Nat} {g : Gang} {p : Partition} {w : Word} {e : Entry} {rest : List Entry} {r : List Byte}
    {before after : List Nat} (hg : gangOf s n = some g) (hp : partOf s g.part = some p) (hwf : kwf s.gangs = true)
    (hq : p.queues = [(q, e :: rest)]) (hw : kgetD p.policy idx 0#64 = w) (hv : w.getLsbD 63 = true)
    (hk : w.toNat / 2 ^ 61 % 4 = e.kind) (hsid : w.getLsbD 60 = true ∨ w.toNat / 2 ^ 56 % 16 = e.sid)
    (ha : w.toNat % 2 ^ 32 ≠ 0) (hage : 2 * (w.toNat % 2 ^ 32) ≤ s.tsc - e.at_) (hr : e.record = some r)
    (hf : fitCores s p (recCores r) = none) (hc : p.clusters = before ++ clusterOf (g.cores.headD 0) :: after)
    (hbef : ∀ x ∈ before, ∀ m h, gangOf s m = some h → h.part = g.part → clusterOf (h.cores.headD 0) ≠ x) (hs : g.saved = false)
    (hlate : ∀ m h, m ≠ n → gangOf s m = some h → h.part = g.part → h.saved = false →
      clusterOf (h.cores.headD 0) = clusterOf (g.cores.headD 0) → h.placedAt < g.placedAt)
    (hneed : recCores r ≤ (freeCores s (clusterOf (g.cores.headD 0))).length + g.cores.length) :
    exec (.preemptAgeExpiry g.part idx) s = .next (flagGang s n) := by
  have hhead : headNeed s g.part p e = some (recCores r) := by simp only [headNeed, hr]
  have hp2 := (promoted_iff s w e 2).mpr ⟨ha, hage⟩
  have hfind : p.clusters.findSome? (fun cl => (latestGang s g.part cl).bind (fun x =>
      if recCores r ≤ (freeCores s cl).length + x.2.cores.length then some x.1 else none)) = some n := by
    have hnone : before.findSome? (fun cl => (latestGang s g.part cl).bind (fun x =>
        if recCores r ≤ (freeCores s cl).length + x.2.cores.length then some x.1 else none)) = none :=
      List.findSome?_eq_none_iff.mpr fun x hx => by rw [latestGang_none hwf (hbef x hx), Option.bind_none]
    rw [hc, List.findSome?_append, hnone, Option.none_or, List.findSome?_cons, latestGang_some hwf hg hs hlate, Option.bind_some,
      if_pos hneed]
  change execPreemptAgeExpiry g.part idx s = _
  simp only [execPreemptAgeExpiry, hp, hw, polHead_one hq hk hsid, Option.bind_some, hhead, Option.map_some, hv, hp2, hf, hfind,
    Bool.and_self, Bool.not_true, Option.isSome_none, Bool.or_self, Bool.false_eq_true, if_false]

end Sys2Proof.Machine
end

section
namespace Sys2Proof.Machine

/-! A gang whose flag is due is stopped, and saved once it is quiet (R187, R391, R392). -/

theorem settleInvals_none {s : State} {part : Nat} {p : Partition} (hp : partOf s part = some p) (hi : p.invals = []) :
    settleInvals s part = s := by
  simp only [settleInvals, hp, hi, List.filter_nil, List.foldl_nil]

theorem Gang.stalled_iff (g : Gang) : g.stalled = false ↔ g.notices = [] ∧ g.watch = [] := by
  simp [Gang.stalled]

theorem gangQuiet_iff (s : State) (g : Gang) :
    gangQuiet s g = true ↔ ∀ n ∈ g.cores, (∀ a ∈ s.acc, a.core = n → a.kind.writes = true) ∧
      s.cmds.all (fun c => c.core != n || (c.cls != .vector
        && (!(c.cls == .atomic || c.cls == .sched) || c.phase == .held || (c.cls == .atomic && c.phase == .waiting)))) = true := by
  simp only [gangQuiet, List.all_eq_true, Bool.and_eq_true, Bool.or_eq_true, bne_iff_ne, ne_eq]
  refine forall₂_congr fun n _ => and_congr (forall₂_congr fun a _ => ?_) Iff.rfl
  tauto

section
variable {s : State} {n : Nat} {g : Gang} (hg : gangOf s n = some g) (hst : g.stopping = false)
include hg hst

theorem preemptTimeout_stays {u : Nat} (hf : g.flag = some u) (h : s.tsc < u + 20000 ∨ g.notices ≠ [] ∨ g.watch ≠ []) :
    exec (.preemptTimeout n) s = .next s := by
  change execPreemptTimeout n s = _
  simp only [execPreemptTimeout, hg, hst, hf, Option.any_some, Bool.false_or, decide_eq_true_eq]
  by_cases hd : u + Config.preemptNs ≤ s.tsc
  · have hstall : g.stalled = true := by
      rcases h with h | h
      · exact absurd h (Nat.not_lt.mpr hd)
      · by_contra hc
        obtain ⟨h1, h2⟩ := (Gang.stalled_iff g).mp (Bool.eq_false_iff.mpr hc)
        exact h.elim (· h1) (· h2)
    rw [if_pos hd]
    simp only [stopGang, hg, hstall, Bool.true_or, if_true]
  · rw [if_neg hd]

theorem preemptTimeout_stops {u : Nat} (hs : g.saved = false) (hf : g.flag = some u) (hd : u + 20000 ≤ s.tsc) (hn : g.notices = []) (hw : g.watch = []) :
    exec (.preemptTimeout n) s = .next (
      if gangQuiet (modGang s n (fun g => { g with stopping := true })) g then
        saveGang (modGang s n (fun g => { g with stopping := true })) n g
      else modGang s n (fun g => { g with stopping := true })) := by
  have hd : u + Config.preemptNs ≤ s.tsc := hd
  have hstall : g.stalled = false := (Gang.stalled_iff g).mpr ⟨hn, hw⟩
  change execPreemptTimeout n s = _
  simp only [execPreemptTimeout, hg, hst, hf, Option.any_some, Bool.false_or, decide_eq_true hd, if_true, stopGang, hstall, hs,
    Bool.or_self, Bool.false_eq_true, if_false]

end

/-! The save area (R392). -/

theorem saveScratch_only (p : Partition) (s : State) (k : Nat) :
    { saveScratch p s k with mem := s.mem, poison := s.poison, bad := s.bad } = s := by
  rw [saveScratch]
  split <;> rfl

theorem saveScratch_foldl (p : Partition) (l : List Nat) (s : State) :
    { l.foldl (saveScratch p) s with mem := s.mem, poison := s.poison, bad := s.bad } = s ∧
      (p.saveAt = none → l.foldl (saveScratch p) s = s) := by
  induction l generalizing s with
  | nil => exact ⟨rfl, fun _ => rfl⟩
  | cons k l ih =>
    obtain ⟨h1, h2⟩ := ih (saveScratch p s k)
    refine ⟨?_, fun hn => ?_⟩
    · exact (congrArg (fun t : State => { t with mem := s.mem, poison := s.poison, bad := s.bad }) h1 :).trans (saveScratch_only p s k)
    · have e : saveScratch p s k = s := by simp only [saveScratch, hn]
      rw [List.foldl_cons, h2 hn, e]

/-- A scratchpad's bytes laid out in memory, and 0 where it holds nothing. -/
theorem memByte_scratch {m sp : Memory} {base size : Nat} (hw : sp.wf = true) (hz : ∀ b, size ≤ b → memByte sp b = 0#8) (b : Nat) :
    memByte (sp.foldl (fun m c => memPut m (base + c.1) c.2) (memZero m base size)) b =
      if base ≤ b ∧ b < base + size then memByte sp (b - base) else memByte m b := by
  obtain ⟨hk, hne⟩ := (Memory.wf_iff sp).mp hw
  have hf : (fun (m : Memory) (c : Host.Cell) => memPut m (base + c.1) c.2) = fun m c => memPut m (c.1 - 0 + base) c.2 := by
    funext m c
    rw [Nat.sub_zero, Nat.add_comm]
  rw [hf, memByte_foldl_moved 0 base sp _ hk (Nat.le_refl 0), memByte_memZero, Nat.add_zero]
  by_cases hb : base ≤ b
  · rw [if_pos hb]
    by_cases hlt : b < base + size
    · rw [if_pos ⟨hb, hlt⟩, if_pos ⟨hb, hlt⟩]
      rfl
    · have hn : kget sp (b - base) = none := by
        cases hc : kget sp (b - base) with
        | none => rfl
        | some v =>
          have hv := hz (b - base) (by omega)
          rw [memByte, kgetD, hc, Option.getD_some] at hv
          exact absurd hv (hne _ (mem_of_kget sp hc))
      rw [hn, Option.getD_none, if_neg (fun h => hlt h.2), if_neg (fun h => hlt h.2)]
  · rw [if_neg hb, if_neg (fun h => hb h.1), if_neg (fun h => hb h.1)]

theorem mem_clearMarks (l : List Nat) (a n x : Nat) : x ∈ clearMarks l a n ↔ x ∈ l ∧ ¬(a ≤ 32 * x ∧ 32 * x + 32 ≤ a + n) := by
  rw [clearMarks, List.mem_filter, Bool.not_eq_true', Bool.and_eq_false_iff, decide_eq_false_iff_not, decide_eq_false_iff_not, not_and_or]

/-- A gang without commands is saved: its scratchpads, then its mark. -/
theorem saveGang_eq {s : State} {n : Nat} {g : Gang} {p : Partition} (hp : partOf s g.part = some p) (hi : p.invals = [])
    (hc : ∀ c ∈ s.cmds, c.gang ≠ n) :
    saveGang s n g = modGang (g.cores.foldl (saveScratch p) s) n (fun g => { g with saved := true, preloaded := false }) := by
  have h0 := (saveScratch_foldl p g.cores s).1
  have hf : s.cmds.filter (fun c => c.gang == n) = [] := List.filter_eq_nil_iff.mpr fun c hcm => by simp [hc c hcm]
  have hm : ∀ l : List Cmd, (∀ c ∈ l, c.gang ≠ n) → l.map (fun c => if c.gang = n then { c with tile := none } else c) = l := fun l hl => by
    refine (List.map_congr_left fun c hcm => ?_).trans (List.map_id l)
    rw [if_neg (hl c hcm)]
    rfl
  have hcm : (g.cores.foldl (saveScratch p) s).cmds = s.cmds := (congrArg State.cmds h0 :)
  have hpo : partOf (g.cores.foldl (saveScratch p) s) g.part = some p := (congrArg (fun t : State => partOf t g.part) h0 :).trans hp
  simp only [saveGang, hp, hf, List.foldl_nil, hm s.cmds hc]
  generalize g.cores.foldl (saveScratch p) s = t at hcm hpo ⊢
  rw [← hcm]
  exact settleInvals_none (p := p) hpo hi

end Sys2Proof.Machine
end

section
namespace Sys2Proof.Machine

/-! A saved gang goes on (R188), or runs again from its record (R186). -/

theorem findDest_cores (s : State) (c : KMap Core) (part asid gen : Nat) (d : Dest) (w : Bool) :
    findDest { s with cores := c } part asid gen d w = findDest s part asid gen d w := by
  cases d <;> rfl

/-- A read of the scheduler sees of the cores what their scratchpads hold. -/
theorem unitRead_congr {s t : State} (h : { t with cores := s.cores } = s) (hsp : ∀ k, (coreOf t k).sp = (coreOf s k).sp)
    (hbad : ∀ k, (coreOf t k).spBad = (coreOf s k).spBad) (part asid gen ipa n : Nat) :
    unitRead t part asid gen ipa n = unitRead s part asid gen ipa n := by
  have hd : findDest t part asid gen (.ipa ipa) false = findDest s part asid gen (.ipa ipa) false := by
    rw [← h]
    exact (findDest_cores t s.cores part asid gen (.ipa ipa) false).symm
  have hb : ∀ l, locBytes t l n = locBytes s l n := fun l => by
    cases l with
    | sp c o => simp only [locBytes, hsp]
    | pa a => exact (congrArg (fun u : State => memRead u.mem a n) h :)
  have he : ∀ l, locError t l n = locError s l n := fun l => by
    cases l with
    | sp c o => simp only [locError, hbad]
    | pa a => exact (congrArg (fun u : State => locError u (.pa a) n) h :)
  simp only [unitRead, hd, hb, he]

theorem readRanges_congr {s t : State} (h : { t with cores := s.cores } = s) (hsp : ∀ k, (coreOf t k).sp = (coreOf s k).sp)
    (hbad : ∀ k, (coreOf t k).spBad = (coreOf s k).spBad) (part asid gen : Nat) :
    ∀ n ipa : Nat, readRanges t part asid gen ipa n = readRanges s part asid gen ipa n
  | 0, _ => rfl
  | n + 1, ipa => by
    simp only [readRanges, unitRead_congr h hsp hbad, readRanges_congr h hsp hbad part asid gen n]

/-- t is s with the cores of l restored: their constant caches empty and their range tables read again where they can be. -/
structure Restored (s t : State) (l : List Nat) : Prop where
  frame : { t with cores := s.cores } = s
  core : ∀ k, { coreOf t k with consts := (coreOf s k).consts, task := taskOf s k } = coreOf s k
  others : ∀ k, k ∉ l → coreOf t k = coreOf s k
  emptied : ∀ k ∈ l, (coreOf t k).consts = []
  task : ∀ k i, taskOf s k = some i → ∃ r, taskOf t k = some { i with ranges := r } ∧
    (k ∈ l → ∀ r', readRanges s i.part i.asid i.gen i.rset.toNat i.rcnt = some r' → r = r')
  idle : ∀ k, taskOf s k = none → taskOf t k = none

theorem Restored.refl (s : State) : Restored s s [] where
  frame := rfl
  core _ := rfl
  others _ _ := rfl
  emptied _ h := nomatch h
  task _ i h := ⟨i.ranges, h, fun h => nomatch h⟩
  idle _ h := h

theorem Restored.ranges {s t : State} {l : List Nat} (h : Restored s t l) (part asid gen ipa n : Nat) :
    readRanges t part asid gen ipa n = readRanges s part asid gen ipa n :=
  readRanges_congr h.frame (fun k => (congrArg Core.sp (h.core k) :)) (fun k => (congrArg Core.spBad (h.core k) :)) part asid gen n ipa

/-- What a core's task is after its range table is loaded again. -/
def rangedTask (s : State) (i : Task) : Task :=
  { i with ranges := (readRanges s i.part i.asid i.gen i.rset.toNat i.rcnt).getD i.ranges }

theorem restoreCore_eq {s u : State} (h : ∀ part asid gen ipa n, readRanges u part asid gen ipa n = readRanges s part asid gen ipa n)
    (k : Nat) :
    { reloadRanges u k with cores := u.cores } = u ∧ (∀ m, m ≠ k → coreOf (reloadRanges u k) m = coreOf u m) ∧
      coreOf (reloadRanges u k) k = { coreOf u k with task := (taskOf u k).map (rangedTask s) } := by
  cases hk : taskOf u k with
  | none =>
    have e : reloadRanges u k = u := by simp only [reloadRanges, hk]
    rw [e, Option.map_none, ← hk]
    exact ⟨rfl, fun _ _ => rfl, rfl⟩
  | some i =>
    cases hr : readRanges s i.part i.asid i.gen i.rset.toNat i.rcnt with
    | none =>
      have e : reloadRanges u k = u := by simp only [reloadRanges, hk, h, hr]
      rw [e, Option.map_some, rangedTask, hr, Option.getD_none, ← hk]
      exact ⟨rfl, fun _ _ => rfl, rfl⟩
    | some l =>
      have e : reloadRanges u k = modCore u k (fun k => { k with task := some { i with ranges := l } }) := by
        simp only [reloadRanges, hk, h, hr]
      rw [e, Option.map_some, rangedTask, hr, Option.getD_some]
      exact ⟨rfl, fun m hm => coreOf_modCore_ne u k m _ hm, coreOf_modCore_same u k _⟩

/-- One core more is restored. -/
theorem Restored.step {s t : State} {l : List Nat} (h : Restored s t l) (k : Nat) : Restored s (restoreCore t k) (k :: l) := by
  have hu : ∀ part asid gen ipa n,
      readRanges (modCore t k (fun c => { c with consts := [] })) part asid gen ipa n = readRanges s part asid gen ipa n :=
    fun part asid gen ipa n => by
      rw [← h.ranges]
      refine readRanges_congr rfl (fun m => ?_) (fun m => ?_) part asid gen n ipa
      · by_cases e : m = k
        · rw [e, coreOf_modCore_same]
        · rw [coreOf_modCore_ne _ _ _ _ e]
      · by_cases e : m = k
        · rw [e, coreOf_modCore_same]
        · rw [coreOf_modCore_ne _ _ _ _ e]
  obtain ⟨hf, ho, hc⟩ := restoreCore_eq hu k
  rw [coreOf_modCore_same, show taskOf (modCore t k (fun c => { c with consts := [] })) k = taskOf t k by
    rw [taskOf, coreOf_modCore_same]; rfl] at hc
  have ho : ∀ m, m ≠ k → coreOf (restoreCore t k) m = coreOf t m := fun m hm => (ho m hm).trans (coreOf_modCore_ne t k m _ hm)
  change coreOf (restoreCore t k) k = _ at hc
  have hf : { restoreCore t k with cores := t.cores } = t := (congrArg (fun v : State => { v with cores := t.cores }) hf :)
  generalize restoreCore t k = u at hc ho hf
  constructor
  · exact (congrArg (fun v : State => { v with cores := s.cores }) hf :).trans h.frame
  · intro m
    by_cases e : m = k
    · subst e
      rw [hc]
      exact h.core m
    · rw [ho m e]
      exact h.core m
  · intro m hm
    obtain ⟨h1, h2⟩ := not_or.mp (mt List.mem_cons.mpr hm)
    rw [ho m h1, h.others m h2]
  · intro m hm
    by_cases e : m = k
    · subst e
      rw [hc]
    · rw [ho m e]
      exact h.emptied m ((List.mem_cons.mp hm).resolve_left e)
  · intro m i hi
    obtain ⟨r, hr, hd⟩ := h.task m i hi
    by_cases e : m = k
    · subst e
      refine ⟨_, by rw [taskOf, hc, hr, Option.map_some]; rfl, fun _ r' hr' => ?_⟩
      simp only [hr', Option.getD_some]
    · refine ⟨r, by rw [taskOf, ho m e]; exact hr, fun hm => hd ((List.mem_cons.mp hm).resolve_left e)⟩
  · intro m hm
    have hi := h.idle m hm
    by_cases e : m = k
    · subst e
      rw [taskOf, hc, hi]
      rfl
    · rw [taskOf, ho m e]
      exact hi

theorem Restored.foldl {s t : State} {l : List Nat} (h : Restored s t l) (c : List Nat) :
    Restored s (c.foldl restoreCore t) (c.reverse ++ l) := by
  induction c generalizing t l with
  | nil => exact h
  | cons k c ih =>
    rw [List.reverse_cons, List.append_assoc]
    exact ih (h.step k)

theorem gangResume_eq {s : State} {n : Nat} {g : Gang} {p : Partition} (hg : gangOf s n = some g) (hp : partOf s g.part = some p)
    (hs : g.saved = true) :
    exec (.gangResume n) s = .next (if g.retired = true then rerunGang s n g p
      else modGang (g.cores.foldl restoreCore s) n (fun g => { g with saved := false, flag := none, stopping := false })) := by
  change execGangResume n s = _
  simp only [execGangResume, hg, hs, hp]

/-! Cores that start (R79). -/

theorem startCores_others (x : Placing) (part asid gen gang : Nat) : ∀ (l : List Nat) (tid : Nat) (s : State) (k : Nat), k ∉ l →
    coreOf (startCores s x part asid gen gang tid l) k = coreOf s k
  | [], _, _, _, _ => rfl
  | n :: l, tid, s, k, h => by
    obtain ⟨h1, h2⟩ := not_or.mp (mt List.mem_cons.mpr h)
    rw [startCores, startCores_others x part asid gen gang l (tid + 1) _ k h2]
    exact coreOf_setCore_ne s n k _ h1

/-- Each core of a gang that starts has its contexts at task start. -/
theorem startCores_ctx (x : Placing) (part asid gen gang : Nat) : ∀ (l : List Nat) (tid : Nat) (s : State) (k : Nat), k ∈ l →
    let c := coreOf (startCores s x part asid gen gang tid l) k
    c.ctxL = startCtx x.record 0 ∧ c.ctxC = startCtx x.record 8 ∧ c.ctxS = startCtx x.record 0x10
  | [], _, _, _, h => nomatch h
  | n :: l, tid, s, k, h => by
    by_cases hl : k ∈ l
    · exact startCores_ctx x part asid gen gang l (tid + 1) _ k hl
    · rw [startCores, startCores_others x part asid gen gang l (tid + 1) _ k hl, (List.mem_cons.mp h).resolve_right hl, coreOf_startCore]
      exact ⟨rfl, rfl, rfl⟩

theorem startCores_only (x : Placing) (part asid gen gang : Nat) : ∀ (l : List Nat) (tid : Nat) (s : State),
    { startCores s x part asid gen gang tid l with cores := s.cores, free := s.free } = s
  | [], _, _ => rfl
  | n :: l, tid, s =>
    (congrArg (fun t : State => { t with cores := s.cores, free := s.free })
      (startCores_only x part asid gen gang l (tid + 1) (startCore s n (startTask x part asid gen gang tid) x.record)) :)

end Sys2Proof.Machine
end

section
namespace Sys2Proof.Machine

/-! The obligation of pre-emption, part by part. -/

/-- A gang is stopped with what it waits for on its way. -/
theorem preemptTimeout_waits {s : State} {n u : Nat} {g : Gang} (hg : gangOf s n = some g) (hs : g.saved = false)
    (hst : g.stopping = false) (hf : g.flag = some u) (hd : u + 20000 ≤ s.tsc) (hn : g.notices = []) (hw : g.watch = [])
    (ha : ∃ a ∈ s.acc, a.core ∈ g.cores ∧ a.kind.writes = false) :
    exec (.preemptTimeout n) s = .next (modGang s n (fun g => { g with stopping := true })) := by
  have hq : ¬gangQuiet (modGang s n (fun g => { g with stopping := true })) g = true := fun h => by
    obtain ⟨a, ham, hac, hk⟩ := ha
    obtain ⟨h1, -⟩ := (gangQuiet_iff _ g).mp h a.core hac
    rw [h1 a ham rfl] at hk
    cases hk
  rw [preemptTimeout_stops hg hst hs hf hd hn hw, if_neg hq]

/-- A gang without loads or commands is stopped and saved at once. -/
theorem preemptTimeout_saves {s : State} {n u : Nat} {g : Gang} {p : Partition} (hg : gangOf s n = some g)
    (hp : partOf s g.part = some p) (hs : g.saved = false)
    (hst : g.stopping = false) (hf : g.flag = some u) (hd : u + 20000 ≤ s.tsc) (hn : g.notices = []) (hw : g.watch = [])
    (ha : ∀ a ∈ s.acc, a.core ∈ g.cores → a.kind.writes = true) (hc : ∀ c ∈ s.cmds, c.gang ≠ n ∧ c.core ∉ g.cores)
    (hi : p.invals = []) :
    exec (.preemptTimeout n) s = .next (modGang (g.cores.foldl (saveScratch p) (modGang s n (fun g => { g with stopping := true }))) n
      (fun g => { g with saved := true, preloaded := false })) := by
  have hq : gangQuiet (modGang s n (fun g => { g with stopping := true })) g = true := by
    refine (gangQuiet_iff _ g).mpr fun k hk => ⟨fun a ham hak => ha a ham (hak ▸ hk), List.all_eq_true.mpr fun c hcm => ?_⟩
    have hne : c.core ≠ k := fun e => (hc c hcm).2 (e ▸ hk)
    simp [hne]
  rw [preemptTimeout_stops hg hst hs hf hd hn hw, if_pos hq]
  exact congrArg Host.Outcome.next (saveGang_eq hp hi fun c hcm => (hc c hcm).1)

/-- What the save of a gang leaves of the state, and of its gangs. -/
theorem saved_state {s : State} {n : Nat} {g : Gang} (p : Partition) (hg : gangOf s n = some g) :
    let t := modGang (g.cores.foldl (saveScratch p) (modGang s n (fun g => { g with stopping := true }))) n
      (fun g => { g with saved := true, preloaded := false })
    { t with gangs := s.gangs, mem := s.mem, poison := s.poison, bad := s.bad } = s ∧ (∀ m, m ≠ n → gangOf t m = gangOf s m) ∧
      gangOf t n = some { g with stopping := true, saved := true, preloaded := false } ∧
      (p.saveAt = none → t.mem = s.mem ∧ t.poison = s.poison ∧ t.bad = s.bad) := by
  obtain ⟨-, h1, h2⟩ := modGang_changes (fun g => { g with stopping := true }) hg
  obtain ⟨h3, h4⟩ := saveScratch_foldl p g.cores (modGang s n (fun g => { g with stopping := true }))
  generalize g.cores.foldl (saveScratch p) (modGang s n (fun g => { g with stopping := true })) = v at h3 h4
  have hv : ∀ m, gangOf v m = gangOf (modGang s n (fun g => { g with stopping := true })) m := fun m =>
    (congrArg (fun t : State => gangOf t m) h3 :)
  obtain ⟨-, h5, h6⟩ := modGang_changes (fun g => { g with saved := true, preloaded := false }) ((hv n).trans h1)
  refine ⟨(congrArg (fun t : State => { t with gangs := s.gangs }) h3 :), fun m hm => (h6 m hm).trans ((hv m).trans (h2 m hm)), h5,
    fun hnone => ?_⟩
  rw [h4 hnone]
  exact ⟨rfl, rfl, rfl⟩

/-- The one core's scratchpad in the save area (R392, R417). -/
theorem saveScratch_spec {s : State} {p : Partition} {a : Nat} (k : Nat) (ha : p.saveAt = some a) (hw : (coreOf s k).sp.wf = true)
    (hz : ∀ b, 786432 ≤ b → memByte (coreOf s k).sp b = 0#8) :
    let area := a + 786432 * (partCores p).findIdx (fun x => x == k)
    let t := saveScratch p s k
    (∀ x, x ∈ t.poison ↔ x ∈ s.poison ∧ ¬(area ≤ 32 * x ∧ 32 * x + 32 ≤ area + 786432)) ∧
      (∀ x, x ∈ t.bad ↔ x ∈ s.bad ∧ ¬(area ≤ 32 * x ∧ 32 * x + 32 ≤ area + 786432)) ∧
      ∀ b, memByte t.mem b = if area ≤ b ∧ b < area + 786432 then memByte (coreOf s k).sp (b - area) else memByte s.mem b := by
  intro area t
  have ht : t = { s with
      mem := (coreOf s k).sp.foldl (fun m c => memPut m (area + c.1) c.2) (memZero s.mem area 786432)
      poison := clearMarks s.poison area 786432, bad := clearMarks s.bad area 786432 } := by
    simp only [t, area, saveScratch, ha]
    rfl
  rw [ht]
  exact ⟨mem_clearMarks s.poison area 786432, mem_clearMarks s.bad area 786432, memByte_scratch hw hz⟩

/-- A gang as it is placed, and its cores as they start (R79, R373). -/
theorem placeGang_spec (s : State) (part : Nat) (p : Partition) (x : Placing) (n : Nat) :
    let t := placeGang s part p x n
    (∀ m, m ≠ n → gangOf t m = gangOf s m) ∧ (∃ h, gangOf t n = some h ∧ h.saved = false ∧ h.retired = false ∧
      h.cores = x.cores ∧ h.record = x.record ∧ h.gid = x.gid) ∧ t.cmds = s.cmds ∧
      (∀ k, k ∉ x.cores → coreOf t k = coreOf s k) ∧
      ∀ k ∈ x.cores, (coreOf t k).ctxL = startCtx x.record 0 ∧ (coreOf t k).ctxC = startCtx x.record 8 ∧
        (coreOf t k).ctxS = startCtx x.record 0x10 := by
  intro t
  obtain ⟨g, ht, h1, h2, h3, h4, h5⟩ : ∃ g : Gang,
      t = startCores { s with gangs := kput s.gangs n g } x part p.curAsid (kgetD p.gens p.curAsid 0) n 0 x.cores ∧
      g.saved = false ∧ g.retired = false ∧ g.cores = x.cores ∧ g.record = x.record ∧ g.gid = x.gid :=
    ⟨_, rfl, rfl, rfl, rfl, rfl, rfl⟩
  have ho := startCores_only x part p.curAsid (kgetD p.gens p.curAsid 0) n x.cores 0 { s with gangs := kput s.gangs n g }
  have hk := startCores_others x part p.curAsid (kgetD p.gens p.curAsid 0) n x.cores 0 { s with gangs := kput s.gangs n g }
  have hc := startCores_ctx x part p.curAsid (kgetD p.gens p.curAsid 0) n x.cores 0 { s with gangs := kput s.gangs n g }
  rw [← ht] at ho hk hc
  have hg : ∀ m, gangOf t m = kget (kput s.gangs n g) m := fun m => (congrArg (fun v : State => gangOf v m) ho :)
  refine ⟨fun m hm => ?_, ⟨g, ?_, h1, h2, h3, h4, h5⟩, (congrArg State.cmds ho :), hk, hc⟩
  · rw [hg, kget_kput_ne _ _ _ _ hm]
    rfl
  · rw [hg, kget_kput_same]

/-- A saved gang whose ASID has been retired starts again on its cores (R186). -/
theorem rerunGang_spec {s : State} {n : Nat} {g : Gang} {p : Partition} {l : List RangeEntry}
    (hl : checkRecord s g.part p g.record = .ok l) :
    let t := rerunGang s n g p
    (∀ m, m ≠ n → gangOf t m = gangOf s m) ∧ (∃ h, gangOf t n = some h ∧ h.saved = false ∧ h.retired = false ∧
      h.cores = g.cores ∧ h.record = g.record ∧ h.gid = g.gid) ∧ (∀ c ∈ t.cmds, c.gang ≠ n) ∧
      (∀ k, k ∉ g.cores → coreOf t k = coreOf s k) ∧
      ∀ k ∈ g.cores, (coreOf t k).ctxL = startCtx g.record 0 ∧ (coreOf t k).ctxC = startCtx g.record 8 ∧
        (coreOf t k).ctxS = startCtx g.record 0x10 := by
  intro t
  obtain ⟨x, ht, hc, hr, hi⟩ : ∃ x : Placing, t = placeGang (giveUpWork s n g) g.part p x n ∧ x.cores = g.cores ∧
      x.record = g.record ∧ x.gid = g.gid := by
    simp only [t, rerunGang, hl]
    exact ⟨_, rfl, rfl, rfl, rfl⟩
  obtain ⟨ho, hg, hcm, hk, hs⟩ := placeGang_spec (giveUpWork s n g) g.part p x n
  rw [← ht] at ho hg hcm hk hs
  rw [hc, hr, hi] at hg
  rw [hc] at hk
  rw [hc, hr] at hs
  refine ⟨ho, hg, fun c hcm' => ?_, hk, hs⟩
  rw [hcm] at hcm'
  simpa using (List.mem_filter.mp hcm').2

/-- Settles O45: budgets, preload, the age of a head, the flag that is due, and resumption, part by part. -/
theorem preemption : Obligations.Preemption := by
  intro s n g p hg hp others
  refine ⟨fun _ hb => budgetExpiry_left hg hb, fun hs hb => budgetExpiry_resets hg hp hs hb, fun x r hs hx hr ho => ?_, ?_, fun u hf hst hs => ?_,
    fun hs hr => ?_, fun hs hr _ l hl => ?_⟩
  · exact ⟨_, preload_notes hg hp hs hx hr ho, modGang_changes _ hg⟩
  · intro idx q w e rest r before after cl hwf hq hw hv hk hsid ha hage hr hf hc hbef hcl hs hflag hlate hneed
    subst hcl
    exact ⟨_, preemptAge_flags hg hp hwf hq hw hv hk hsid ha hage hr hf hc hbef hs hlate hneed, flagGang_flags hg hs hflag⟩
  · refine ⟨preemptTimeout_stays hg hst hf, fun hd hn hw => ⟨fun ha => ?_, fun ha hc hi => ?_⟩⟩
    · exact ⟨_, preemptTimeout_waits hg hs hst hf hd hn hw ha, modGang_changes _ hg⟩
    · obtain ⟨h0, h1, h2, h3⟩ := saved_state p hg
      refine ⟨_, preemptTimeout_saves hg hp hs hst hf hd hn hw ha hc hi, h0, h1, h2, h3, fun a k hat hk _ hwf hz => ?_⟩
      rw [hk]
      exact saveScratch_spec (s := modGang s n (fun g => { g with stopping := true })) k hat hwf hz
  · have hx := gangResume_eq hg hp hs
    rw [hr, if_neg Bool.false_ne_true] at hx
    have h := (Restored.refl s).foldl g.cores
    have hgs : (g.cores.foldl restoreCore s).gangs = s.gangs := (congrArg State.gangs h.frame :)
    have hm : ∀ k, k ∈ g.cores.reverse ++ [] ↔ k ∈ g.cores := fun k => by simp
    generalize g.cores.foldl restoreCore s = u at hx h hgs
    have hgo : ∀ m, gangOf u m = gangOf s m := fun m => by rw [gangOf, hgs]; rfl
    obtain ⟨-, h1, h2⟩ := modGang_changes (fun g => { g with saved := false, flag := none, stopping := false }) ((hgo n).trans hg)
    refine ⟨_, hx, (congrArg (fun v : State => { v with gangs := s.gangs }) h.frame :), fun m hm => (h2 m hm).trans (hgo m), h1,
      fun k hk => h.others k (mt (hm k).mp hk), fun k hk => ⟨h.emptied k ((hm k).mpr hk), h.core k, fun i hi => ?_⟩⟩
    obtain ⟨r, hr, hd⟩ := h.task k i hi
    exact ⟨r, hr, fun r' hr' => hd ((hm k).mpr hk) r' hr'⟩
  · have hx := gangResume_eq hg hp hs
    rw [if_pos hr] at hx
    obtain ⟨ho, ⟨h, hgh, h1, h2, h3, h4, h5⟩, hrest⟩ := rerunGang_spec (n := n) hl
    exact ⟨_, h, hx, ho, hgh, h1, h2, h3, h4, h5, hrest⟩

end Sys2Proof.Machine
end

section
namespace Sys2Proof.Machine

/-! A row of the scratchpad as lanes (R216), and lanes as a row. -/

/-- Lane n of b bytes of the row at a place. -/
def laneAt (m : Memory) (place b n : Nat) : Nat := leNat (memRead m (place + b * n) b)

theorem laneAt_next (m : Memory) (a b n : Nat) : laneAt m (a + b) b n = laneAt m a b (n + 1) := by
  rw [laneAt, laneAt, show a + b + b * n = a + b * (n + 1) by rw [Nat.mul_succ]; omega]

theorem chunkLanes_memRead (m : Memory) (a b n k : Nat) (h : b * n ≤ k) :
    chunkLanes b (memRead m a k) n = (List.range n).map (laneAt m a b) := by
  induction n generalizing a k with
  | zero => rfl
  | succ n ih =>
    have hk : b + b * n ≤ k := by rw [Nat.mul_succ] at h; omega
    have hhead : leNat ((memRead m a k).take b) = laneAt m a b 0 := by
      have := memRead_part m a (i := 0) (k := b) (n := k) (by omega)
      rw [List.drop_zero] at this
      rw [this]; rfl
    have htail : (memRead m a k).drop b = memRead m (a + b) (k - b) := by
      have := memRead_part m a (i := b) (k := k - b) (n := k) (by omega)
      rwa [List.take_of_length_le (by rw [List.length_drop, memRead_length])] at this
    rw [chunkLanes, hhead, htail, ih (a + b) (k - b) (by omega), List.range_succ_eq_map, List.map_cons, List.map_map]
    exact congrArg _ (List.map_congr_left fun i _ => laneAt_next m a b i)

theorem lanesOf_memRead (m : Memory) (a : Nat) {b : Nat} (hb : b * (256 / b) ≤ 256) :
    lanesOf b (memRead m a 256) = (List.range (256 / b)).map (laneAt m a b) := chunkLanes_memRead m a b _ _ hb

theorem chunkLanes_zeros (b n k : Nat) : chunkLanes b (List.replicate k 0#8) n = (List.range n).map (fun _ => 0) := by
  have hz : ∀ j, leNat (List.replicate j 0#8) = 0 := fun j => by
    induction j with
    | zero => rfl
    | succ j ih => rw [List.replicate_succ, leNat, ih]; rfl
  induction n generalizing k with
  | zero => rfl
  | succ n ih =>
    rw [chunkLanes, List.take_replicate, List.drop_replicate, hz, ih, List.range_succ_eq_map, List.map_cons, List.map_map]
    rfl

theorem rowBytes_length (b : Nat) (l : List Nat) : (rowBytes b l).length = b * l.length := by
  rw [rowBytes, List.length_flatMap]
  simp [Nat.mul_comm]

theorem rowBytes_getD (b : Nat) (l : List Nat) {n i : Nat} (hn : n < l.length) (hi : i < b) :
    (rowBytes b l).getD (b * n + i) 0#8 = (natBytes (l.getD n 0) b).getD i 0#8 := by
  induction l generalizing n with
  | nil => simp at hn
  | cons x l ih =>
    rw [rowBytes, List.flatMap_cons, List.getD_eq_getElem?_getD]
    cases n with
    | zero =>
      rw [Nat.mul_zero, Nat.zero_add, List.getElem?_append_left (by simpa using hi), List.getD_eq_getElem?_getD]
      rfl
    | succ n =>
      rw [List.getElem?_append_right (by rw [natBytes_length, Nat.mul_succ]; omega), natBytes_length,
        show b * (n + 1) + i - b = b * n + i by rw [Nat.mul_succ]; omega, ← List.getD_eq_getElem?_getD]
      exact ih (by simpa using hn)

/-- A lane of a row that has been written is the lane's value, cut to its bytes. -/
theorem laneAt_memWrite (m : Memory) (a b : Nat) (l : List Nat) {n : Nat} (hn : n < l.length) :
    laneAt (memWrite m a (rowBytes b l)) a b n = l.getD n 0 % 2 ^ (8 * b) := by
  have hread : memRead (memWrite m a (rowBytes b l)) (a + b * n) b = natBytes (l.getD n 0) b := by
    rw [memRead_eq]
    refine List.ext_getElem (by simp) fun i h1 h2 => ?_
    have hi : i < b := by simpa using h1
    have hin : b * n + b ≤ b * l.length := by rw [← Nat.mul_succ]; exact Nat.mul_le_mul_left b hn
    rw [List.getElem_map, List.getElem_range, memByte_memWrite, rowBytes_length, if_pos ⟨by omega, by omega⟩,
      show a + b * n + i - a = b * n + i by omega, rowBytes_getD b l hn hi, List.getD_eq_getElem?_getD,
      List.getElem?_eq_getElem h2]
    rfl
  rw [laneAt, hread, leNat_natBytes, Nat.pow_mul]

/-- The same, of lanes given by their numbers. -/
theorem laneAt_row (m : Memory) (a b k : Nat) (g : Nat → Nat) {n : Nat} (hn : n < k) :
    laneAt (memWrite m a (rowBytes b ((List.range k).map g))) a b n = g n % 2 ^ (8 * b) := by
  rw [laneAt_memWrite m a b _ (by simpa using hn), List.getD_eq_getElem?_getD, List.getElem?_map, List.getElem?_range hn]
  rfl

/-- Bytes outside a write of a row are left alone. -/
theorem memByte_row_out (m : Memory) (a : Nat) {l : List Byte} (hl : l.length = 256) {x : Nat} (h : x < a ∨ a + 256 ≤ x) :
    memByte (memWrite m a l) x = memByte m x := memByte_memWrite_out m a x l (by omega)

theorem laneAt_congr {m p : Memory} {a b n : Nat} (h : ∀ i, i < b → memByte m (a + b * n + i) = memByte p (a + b * n + i)) :
    laneAt m a b n = laneAt p a b n := by
  rw [laneAt, laneAt, memRead_eq, memRead_eq]
  exact congrArg _ (List.map_congr_left fun i hi => h i (List.mem_range.1 hi))

theorem laneAt_lt (m : Memory) (a b n : Nat) : laneAt m a b n < 2 ^ (8 * b) := by
  have key : ∀ l : List Byte, leNat l < 256 ^ l.length := fun l => by
    induction l with
    | nil => decide
    | cons x l ih =>
      rw [leNat, List.length_cons, Nat.pow_succ']
      have := x.isLt
      omega
  have := key (memRead m (a + b * n) b)
  rwa [memRead_length, show (256 : Nat) = 2 ^ 8 from rfl, ← Nat.pow_mul] at this

/-! Values that the unit draws (R211). -/

theorem drawn_eq (key : Word) (core rc n : Nat) :
    drawn key core rc n = (List.range n).map (fun i => gmix key (runningCtr core (rc + i))) := by
  induction n generalizing rc with
  | zero => rfl
  | succ n ih =>
    rw [drawn, ih, List.range_succ_eq_map, List.map_cons, List.map_map]
    exact congrArg _ (List.map_congr_left fun i _ => by simp only [Function.comp]; congr 2; omega)

/-! Lane-wise forms over lanes given by their numbers (R226). -/

theorem lanes4_map (f : Nat → Nat → Nat → Nat → Nat) (active : Nat → Bool) (x y d z : Nat → Nat) (i n : Nat) :
    lanes4 f active i ((List.range n).map x) ((List.range n).map y) ((List.range n).map d) ((List.range n).map z) =
    (List.range n).map (fun j => if active (i + j) = true then f (x j) (y j) (d j) (z j) else d j) := by
  induction n generalizing i x y d z with
  | zero => rfl
  | succ n ih =>
    simp only [List.range_succ_eq_map, List.map_cons, List.map_map, lanes4]
    rw [ih]
    exact congrArg _ (List.map_congr_left fun j _ => by rw [show i + 1 + j = i + Nat.succ j by omega]; rfl)

theorem lanes4_range (f : Nat → Nat → Nat → Nat → Nat) (active : Nat → Bool) (x y d z : Nat → Nat) (n : Nat) :
    lanes4 f active 0 ((List.range n).map x) ((List.range n).map y) ((List.range n).map d) ((List.range n).map z) =
    (List.range n).map (fun j => if active j = true then f (x j) (y j) (d j) (z j) else d j) := by
  rw [lanes4_map]
  exact List.map_congr_left fun j _ => by rw [Nat.zero_add]

theorem getD_map_range (g : Nat → Nat) (n i : Nat) : ((List.range n).map g).getD i 0 = if i < n then g i else 0 := by
  rw [List.getD_eq_getElem?_getD, List.getElem?_map]
  split
  · next h => rw [List.getElem?_range h]; rfl
  · next h => rw [List.getElem?_eq_none (by simpa using h)]; rfl

end Sys2Proof.Machine
end

section
namespace Sys2Proof.Machine

/-! Reads and marks where every granule is sound and no write is on its way. -/

theorem nearByte_settled {s : State} {core : Nat} (h : Settled s core) (part : Nat) (d : Dest) : nearByte s core part d = none := by
  unfold nearByte
  have key : ∀ l : List Access, (∀ x ∈ l, x.core = core → x.kind.writes = true → x.nearAt = 0) →
      l.foldl (fun best a =>
        if a.core == core && a.kind.writes && a.nearAt != 0 then
          match a.byteAt s part d, best with
          | some b, none => some (a.nearAt, b)
          | some b, some (n, b') => if n < a.nearAt then some (a.nearAt, b) else some (n, b')
          | none, _ => best
        else best) (none : Option (Nat × Byte)) = none := fun l hl => by
    induction l with
    | nil => rfl
    | cons a l ih =>
      have hc : ¬(a.core == core && a.kind.writes && a.nearAt != 0) = true := fun e => by
        simp only [Bool.and_eq_true, beq_iff_eq, bne_iff_ne] at e
        exact e.2 (hl a (List.mem_cons_self ..) e.1.1 e.1.2)
      rw [List.foldl_cons, if_neg hc]
      exact ih fun x hx => hl x (List.mem_cons_of_mem _ hx)
  exact key s.acc h

theorem viewBytes_settled {s : State} {core : Nat} (h : Settled s core) (part : Nat) (d : Dest) (l : List Byte) :
    viewBytes s core part d l = l := by
  induction l generalizing d with
  | nil => rfl
  | cons b l ih => rw [viewBytes, nearByte_settled h, ih]

theorem spView_settled {s : State} {core : Nat} (h : Settled s core) (off n : Nat) :
    spView s core off n = memRead (coreOf s core).sp off n := by
  rw [spView, viewBytes_settled h]
  exact ite_self _

theorem nearPattern_settled {s : State} {core : Nat} (h : Settled s core) (part : Nat) (d : Dest) (n : Nat) :
    nearPattern s core part d n = false := by
  rw [nearPattern, List.any_eq_false]
  intro a _ e
  simp only [Bool.and_eq_true, List.any_eq_true, nearByte_settled h, Option.any_none] at e
  obtain ⟨_, i, _, _, hf⟩ := e
  exact Bool.noConfusion hf

/-! Ports among registers (R71). -/

theorem mem_portsAmong (ports : KMap Port) (l : List RegNo) (n : Nat) :
    n ∈ portsAmong ports l ↔ ∃ r ∈ l, (portOf ports r).isSome = true ∧ r.toNat - 60 = n := by
  have key : ∀ (l : List RegNo) (b : List Nat), n ∈ l.foldl (fun ns r =>
      if (portOf ports r).isSome then unionNat ns [r.toNat - 60] else ns) b ↔
      n ∈ b ∨ ∃ r ∈ l, (portOf ports r).isSome = true ∧ r.toNat - 60 = n := fun l => by
    induction l with
    | nil => simp
    | cons r l ih =>
      intro b
      rw [List.foldl_cons, ih]
      split
      · next h =>
        rw [mem_unionNat_one]
        simp only [List.exists_mem_cons_iff, h, true_and, or_assoc, @eq_comm Nat n]
      · next h => simp only [List.exists_mem_cons_iff, h, Bool.false_eq_true, false_and, false_or]
  exact (key l []).trans (or_iff_right List.not_mem_nil)

theorem nodup_portsAmong (ports : KMap Port) (l : List RegNo) : (portsAmong ports l).Nodup := by
  have key : ∀ (l : List RegNo) (b : List Nat), b.Nodup → (l.foldl (fun ns r =>
      if (portOf ports r).isSome then unionNat ns [r.toNat - 60] else ns) b).Nodup := fun l => by
    induction l with
    | nil => exact fun b h => h
    | cons r l ih =>
      intro b h
      rw [List.foldl_cons]
      apply ih
      split
      · refine List.Nodup.append h ((List.nodup_singleton _).filter _) fun x hx hy => ?_
        rw [List.mem_filter] at hy
        simp_all
      · exact h
  exact key l [] List.nodup_nil

theorem portOf_isSome {ports : KMap Port} {r : RegNo} (h : (portOf ports r).isSome = true) : 60 ≤ r.toNat := by
  unfold portOf at h
  split at h
  · assumption
  · exact absurd h (by decide)

/-- A bound register is one of those whose ports are popped where its port is. -/
theorem port_mem_iff {ports : KMap Port} {r : RegNo} (h : (portOf ports r).isSome = true) (l : List RegNo) :
    r.toNat - 60 ∈ portsAmong ports l ↔ r ∈ l := by
  rw [mem_portsAmong]
  refine ⟨fun ⟨q, hq, hs, he⟩ => ?_, fun hr => ⟨r, hr, h, rfl⟩⟩
  have h1 := portOf_isSome hs
  have h2 := portOf_isSome h
  have : q = r := BitVec.eq_of_toNat_eq (by omega)
  exact this ▸ hq

def Port.popped (p : Port) : Port := { p with head := (p.head + 1) % p.len, count := p.count - 1 }

def Port.pushed (p : Port) : Port := { p with count := p.count + 1 }

/-- The bindings of which some ports have lost an element. -/
def poppedPorts (ports : KMap Port) (l : List Nat) : KMap Port := l.foldl (fun m n => kmod m n Port.popped) ports

theorem kget_poppedPorts (l : List Nat) (hl : l.Nodup) (ports : KMap Port) (n : Nat) :
    kget (poppedPorts ports l) n = (kget ports n).map (fun p => if n ∈ l then p.popped else p) := by
  unfold poppedPorts
  induction l generalizing ports with
  | nil => simp
  | cons m l ih =>
    rw [List.nodup_cons] at hl
    rw [List.foldl_cons, ih hl.2, kget_kmod]
    by_cases h : n = m
    · subst h
      simp [Function.comp_def, hl.1]
    · simp [h]

end Sys2Proof.Machine
end

section
namespace Sys2Proof.Machine

/-! The turn of the oldest vector word of a core: what it is bound to, where its rows stand, and what it leaves. -/

/-- The word is the oldest of its core and nothing holds it; every granule is sound, and no write is on its way. -/
structure VecTurn (s : State) (c : Cmd) : Prop where
  cmd : cmdOf s c.id = some c
  cls : c.cls = .vector
  oldest : ∀ d ∈ s.cmds, d.core = c.core → d.cls = .vector → d = c ∨ c.disp < d.disp
  runs : gangRuns s c = true
  free : vectorHeld s c = false
  sound : ∀ n, (coreOf s n).spBad = []
  settled : Settled s c.core
  shape : ∀ r ∈ (vShape c.instr).reads, r ∈ (vShape c.instr).writes → portOf c.ports r = none

section
variable {s u : State} {c : Cmd}

theorem VecTurn.completes (h : VecTurn s c) : exec (.vectorWordComplete c.core) s = .next (dropCmd (runVector s c) c.id) := by
  have ho : oldestCmd (s.cmds.filter (fun d => d.core == c.core && d.cls == .vector)) = some c := by
    refine oldest_some _ c (List.mem_filter.2 ⟨List.mem_of_find?_eq_some h.cmd, by simp [h.cls]⟩) fun d hd => ?_
    obtain ⟨hm, hq⟩ := List.mem_filter.1 hd
    simp only [Bool.and_eq_true, beq_iff_eq] at hq
    exact h.oldest d hm hq.1 hq.2
  change execVectorWordComplete c.core s = _
  rw [execVectorWordComplete, ho]
  simp only [h.runs, h.free, Bool.not_true, Bool.or_false, Bool.false_eq_true, if_false]

theorem VecTurn.ahead (h : VecTurn s c) : vectorAhead s c = [] := by
  rw [vectorAhead, List.filter_eq_nil_iff]
  intro d hd e
  simp only [Bool.and_eq_true, beq_iff_eq, decide_eq_true_eq] at e
  rcases h.oldest d hd e.1.1 e.1.2 with rfl | hlt
  · exact Nat.lt_irrefl _ e.2
  · exact Nat.lt_asymm hlt e.2

theorem VecTurn.portAhead (h : VecTurn s c) (n : Nat) (pick : VShape → List RegNo) : portAhead s c n pick = 0 := by
  rw [Machine.portAhead, h.ahead]; rfl

theorem wbits_vwin (v : Word) : wbits v 11 0 = v.toNat % 4096 := by simp [wbits]

theorem ownRow_unbound {r : RegNo} (hp : portOf c.ports r = none) :
    srcRow s c r = c.vwin.toNat % 4096 + r.toNat ∧ dstRow s c r = c.vwin.toNat % 4096 + r.toNat := by
  simp [srcRow, dstRow, hp, rowOf, wbits_vwin]

theorem VecTurn.portRow (h : VecTurn s c) {r : RegNo} {p : Port} (hb : portOf c.ports r ≠ none)
    (hp : kget (coreOf s c.core).vec.ports (r.toNat - 60) = some p) :
    srcRow s c r = p.base + p.head % p.len ∧ dstRow s c r = p.base + (p.head + p.count) % p.len := by
  have hs : (portOf c.ports r).isSome = true := Option.isSome_iff_ne_none.2 hb
  simp [srcRow, dstRow, hs, hp, h.portAhead]

/-! Steps that change the word's own core alone: its scratchpad, its vector state, and lines that leave its constant cache. -/

structure Turned (s u : State) (c : Cmd) (m : Memory) (v : Vec) : Prop where
  rest : { u with cores := s.cores } = s
  others : OnlyCore s u c.core
  core : { coreOf u c.core with consts := (coreOf s c.core).consts } = { coreOf s c.core with sp := m, vec := v }
  consts : ∀ x ∈ (coreOf u c.core).consts, x ∈ (coreOf s c.core).consts

theorem Turned.refl (s : State) (c : Cmd) : Turned s s c (coreOf s c.core).sp (coreOf s c.core).vec :=
  ⟨rfl, fun _ _ => rfl, rfl, fun _ h => h⟩

variable {m : Memory} {v : Vec}

theorem Turned.sp (h : Turned s u c m v) : (coreOf u c.core).sp = m := (congrArg Core.sp h.core :)

theorem Turned.vec (h : Turned s u c m v) : (coreOf u c.core).vec = v := (congrArg Core.vec h.core :)

theorem Turned.spBad (h : Turned s u c m v) (n : Nat) : (coreOf u n).spBad = (coreOf s n).spBad := by
  by_cases hn : n = c.core
  · exact hn ▸ (congrArg Core.spBad h.core :)
  · rw [h.others n hn]

theorem Turned.cmds (h : Turned s u c m v) : u.cmds = s.cmds := (congrArg State.cmds h.rest :)

theorem Turned.step (h : Turned s u c m v) (f : Core → Core) {p : Memory} {w : Vec}
    (hf : { f (coreOf u c.core) with consts := (coreOf u c.core).consts } = { coreOf u c.core with sp := p, vec := w })
    (hc : ∀ x ∈ (f (coreOf u c.core)).consts, x ∈ (coreOf u c.core).consts) : Turned s (modCore u c.core f) c p w where
  rest := h.rest
  others n hn := (coreOf_modCore_ne u c.core n f hn).trans (h.others n hn)
  core := by
    rw [coreOf_modCore_same]
    have h1 := congrArg (fun k : Core => { k with consts := (coreOf s c.core).consts }) hf
    have h2 := congrArg (fun k : Core => { k with sp := p, vec := w }) h.core
    exact h1.trans h2
  consts x hx := h.consts x (hc x (by rwa [coreOf_modCore_same] at hx))

/-- A step that changes the vector state alone. -/
theorem Turned.setVec (h : Turned s u c m v) (g : Vec → Vec) :
    Turned s (modCore u c.core (fun k => { k with vec := g k.vec })) c m (g v) := by
  refine h.step _ ?_ fun x hx => hx
  rw [← h.vec, ← h.sp]

theorem Turned.evictRow (h : Turned s u c m v) (off : Nat) : Turned s (evictRow u c off) c m v := by
  unfold Machine.evictRow
  refine h.step _ ?_ ?_
  · rw [← h.vec, ← h.sp]
  · exact fun x hx => (List.mem_filter.1 hx).1

/-- The bindings once a row has been given to a register's port, where it names one (R71). -/
def pushPort (c : Cmd) (r : RegNo) (v : Vec) : Vec :=
  if (portOf c.ports r).isSome = true then
    { v with ports := kmod v.ports (r.toNat - 60) (fun p => { p with count := p.count + 1 }) }
  else v

theorem Turned.writeRow (h : Turned s u c m v) (hs : (coreOf s c.core).spBad = []) (r : RegNo) (row : List Byte) (whole : List Nat) :
    Turned s (writeRow u c r row [] whole) c (memWrite m (256 * dstRow u c r) row) (pushPort c r v) := by
  have he := h.evictRow (256 * dstRow u c r)
  have hb := (he.spBad c.core).trans hs
  rw [Machine.writeRow]
  refine he.step _ ?_ fun x hx => hx
  have hv := he.vec
  have hm := he.sp
  generalize coreOf (Machine.evictRow u c (256 * dstRow u c r)) c.core = k at hv hm hb ⊢
  subst hv hm
  simp only [hb, List.filter_nil, List.map_nil, List.foldl_nil, pushPort]

/-- The rows of a register lie where they lay, as long as its own port has not moved. -/
theorem Turned.dstRow_eq (h : Turned s u c m v) {r : RegNo}
    (hp : (portOf c.ports r).isSome = true → kget v.ports (r.toNat - 60) = kget (coreOf s c.core).vec.ports (r.toNat - 60)) :
    dstRow u c r = dstRow s c r := by
  have ha : ∀ n pick, Machine.portAhead u c n pick = Machine.portAhead s c n pick := fun n pick => by
    rw [Machine.portAhead, Machine.portAhead, vectorAhead, vectorAhead, h.cmds]
  unfold dstRow
  rw [h.vec, ha]
  by_cases hs : (portOf c.ports r).isSome = true
  · rw [if_pos hs, if_pos hs, hp hs]
  · rw [if_neg hs, if_neg hs]

theorem Turned.popPorts (h : Turned s u c m v) (l : List RegNo) :
    Turned s (popPorts u c l) c m { v with ports := poppedPorts v.ports (portsAmong c.ports l) } := by
  rw [Machine.popPorts, poppedPorts]
  generalize portsAmong c.ports l = ns
  induction ns generalizing u v with
  | nil => exact h
  | cons n ns ih => exact ih (h.setVec (fun v => { v with ports := kmod v.ports n Port.popped }))

theorem Turned.setMask (h : Turned s u c m v) (n : Nat) (x : BitVec 256) :
    Turned s (setMask u c n x) c m (if n = 0 then v else { v with masks := v.masks.setIfInBounds n x }) := by
  rw [Machine.setMask]
  split
  · exact h
  · exact h.setVec (fun v => { v with masks := v.masks.setIfInBounds n x })

theorem Turned.noteBad (h : Turned s u c m v) (hs : ∀ n, (coreOf s n).spBad = []) (l : List RegNo) : noteBad u c l = u := by
  have hb : ∀ r, badGranules u c r = [] := fun r => by simp [badGranules, h.spBad, hs]
  have hr : rowFailures u c l = [] := by
    unfold rowFailures
    induction l with
    | nil => rfl
    | cons r l ih => rw [List.foldl_cons, hb]; exact ih
  rw [Machine.noteBad, hr]; rfl

theorem VecTurn.badGranules (h : VecTurn s c) (r : RegNo) : badGranules s c r = [] := by simp [Machine.badGranules, h.sound]

theorem VecTurn.noteBad (h : VecTurn s c) (l : List RegNo) : noteBad s c l = s := (Turned.refl s c).noteBad h.sound l

theorem VecTurn.laneBad (h : VecTurn s c) (active : Nat → Bool) (l : List RegNo) : laneBad s c active l = [] := by
  simp [Machine.laneBad, h.badGranules]

end

end Sys2Proof.Machine
end

section
namespace Sys2Proof.Machine

/-! What a vector word is bound to and what it leaves, in the terms of the statement. -/

/-- Element type, rounding, random bits and lane bytes (R219). -/
def Cmd.ety (c : Cmd) : Nat := c.vtype.toNat % 16
def Cmd.mode (c : Cmd) : Nat := c.vtype.toNat / 2 ^ 20 % 8
def Cmd.bits (c : Cmd) : Nat := c.vtype.toNat / 2 ^ 24 % 32
def Cmd.wide (c : Cmd) : Nat := laneBytes c.ety

/-- Where a register's row stands as the word reads it, and as it writes it. -/
def srcAt (s : State) (c : Cmd) (r : RegNo) : Nat := 256 * srcRow s c r
def dstAt (s : State) (c : Cmd) (r : RegNo) : Nat := 256 * dstRow s c r

def maskAt (k : Core) (n : Nat) : BitVec 256 := if n = 0 then BitVec.allOnes 256 else k.vec.masks.getD n 0#256

/-- A lane that a masked write keeps. -/
def oldLane (s : State) (c : Cmd) (r : RegNo) (b n : Nat) : Nat :=
  if portOf c.ports r = none then laneAt (coreOf s c.core).sp (dstAt s c r) b n else 0

/-- The random value of a lane (R211). -/
def drawAt (s : State) (c : Cmd) (n : Nat) : Nat :=
  if c.bits = 0 then 0
  else randBits (gmix (coreOf s c.core).vec.rkey (runningCtr c.core ((coreOf s c.core).vec.rc + n))) c.bits

def drawnIf (c : Cmd) (on : Prop) [Decidable on] (n : Nat) : Nat := if on ∧ c.bits ≠ 0 then n else 0

/-- A value rounded under vtype (R226). -/
def roundLane (s : State) (c : Cmd) (v : Num) (n : Nat) : Nat :=
  rnd v c.ety c.mode (c.vtype.getLsbD 23) ⟨if c.mode = 4 then drawAt s c n else 0, c.bits, none⟩

/-- The second operand of a lane: a scalar, or a register's. -/
def secondLane (s : State) (c : Cmd) (sc : Bool) (vb : RegNo) (n : Nat) : Nat :=
  if sc = true then (c.vals.headD 0#64).toNat % 2 ^ (8 * c.wide) else laneAt (coreOf s c.core).sp (srcAt s c vb) c.wide n

def VecEnds (s : State) (c : Cmd) (t : State) : Prop :=
  exec (.vectorWordComplete c.core) s = .next t ∧ cmdOf t c.id = none ∧ OnlyCmd s t c.id ∧ OnlyCore s t c.core

def VecRan (s : State) (c : Cmd) (t : State) : Prop := VecEnds s c t ∧ { t with cores := s.cores, cmds := s.cmds } = s

def VecPorts (s : State) (c : Cmd) (t : State) (pops pushes : List RegNo) : Prop :=
  ∀ n, kget (coreOf t c.core).vec.ports n = (kget (coreOf s c.core).vec.ports n).map (fun p =>
    let q : Port := if n ∈ portsAmong c.ports pops then { p with head := (p.head + 1) % p.len, count := p.count - 1 } else p
    if n ∈ portsAmong c.ports pushes then { q with count := q.count + 1 } else q)

def VecRest (s : State) (c : Cmd) (t : State) (v : Vec) (pops pushes : List RegNo) (draws : Nat) : Prop :=
  let k := coreOf s c.core
  let l := coreOf t c.core
  { l with sp := k.sp, consts := k.consts, vec := { l.vec with ports := k.vec.ports, rc := k.vec.rc } } = { k with vec := v } ∧
  VecPorts s c t pops pushes ∧ l.vec.rc = k.vec.rc + draws ∧ ∀ x ∈ l.consts, x ∈ k.consts

/-- A word leaves one row of lanes, and what it has drawn, popped and pushed. -/
def VecRow (s : State) (c : Cmd) (i : Instr) (vd : RegNo) (pops : List RegNo) (draws b : Nat) (f : Nat → Int) : Prop := c.instr = i →
  ∃ t, VecRan s c t ∧ VecRest s c t (coreOf s c.core).vec pops [vd] draws ∧
    (∀ x, x < dstAt s c vd ∨ dstAt s c vd + 256 ≤ x → memByte (coreOf t c.core).sp x = memByte (coreOf s c.core).sp x) ∧
    ∀ n, n < 256 / b → (laneAt (coreOf t c.core).sp (dstAt s c vd) b n : Int) = f n % 2 ^ (8 * b)

section
variable {s u : State} {c : Cmd} {m : Memory} {v : Vec}

/-! The names of the model for what a word is bound to. -/

theorem Cmd.et_eq (c : Cmd) : c.et = c.ety := by simp [Cmd.et, Cmd.ety, wbits]
theorem Cmd.rm_eq (c : Cmd) : c.rm = c.mode := by simp [Cmd.rm, Cmd.mode, wbits]
theorem Cmd.rz_eq (c : Cmd) : c.rz = c.bits := by simp [Cmd.rz, Cmd.bits, wbits]

/-- The element types of rows of whole bytes. -/
def Cmd.Typed (c : Cmd) : Prop := c.ety ≤ 6 ∨ c.ety = 9

theorem etWidth_laneBytes {et : Nat} (h : et ≤ 6 ∨ et = 9) : etWidth et = 8 * laneBytes et := by
  rcases h with h | rfl
  · interval_cases et <;> rfl
  · rfl

theorem laneBytes_rows {et : Nat} : laneBytes et * (256 / laneBytes et) = 256 ∧ 0 < laneBytes et := by
  unfold laneBytes
  split <;> decide

theorem map_range_const (n a : Nat) : (List.range n).map (fun _ => a) = List.replicate n a :=
  (List.map_const' ..).trans (by rw [List.length_range])

theorem Cmd.Typed.width (h : c.Typed) : etWidth c.et = 8 * c.wide := by rw [c.et_eq]; exact etWidth_laneBytes h

theorem Cmd.Typed.lb (h : c.Typed) : c.lb = c.wide := by
  rw [Cmd.lb, h.width, Nat.mul_div_cancel_left _ (by decide)]

theorem Cmd.Typed.lanes (h : c.Typed) : c.lanes = 256 / c.wide := by rw [Cmd.lanes, h.lb]

theorem Cmd.wide_rows (c : Cmd) : c.wide * (256 / c.wide) = 256 := laneBytes_rows.1

theorem maskOf_eq (s : State) (c : Cmd) (n : Nat) : maskOf s c n = maskAt (coreOf s c.core) n := rfl

/-! Rows read as lanes. -/

theorem VecTurn.readRow (h : VecTurn s c) (r : RegNo) : readRow s c r = memRead (coreOf s c.core).sp (srcAt s c r) 256 :=
  spView_settled h.settled _ _

theorem VecTurn.sourceLanes (h : VecTurn s c) (hy : c.Typed) (r : RegNo) :
    lanesOf c.lb (Machine.readRow s c r) = (List.range (256 / c.wide)).map (laneAt (coreOf s c.core).sp (srcAt s c r) c.wide) := by
  rw [h.readRow, hy.lb, lanesOf_memRead _ _ (Nat.le_of_eq c.wide_rows)]

theorem VecTurn.oldLanes (h : VecTurn s c) {b : Nat} (hb : b * (256 / b) ≤ 256) (r : RegNo) :
    lanesOf b (oldRow s c r) = (List.range (256 / b)).map (oldLane s c r b) := by
  unfold oldRow oldLane
  by_cases hp : portOf c.ports r = none
  · simp only [hp, Option.isSome_none, Bool.false_eq_true, if_false, if_true]
    rw [spView_settled h.settled, lanesOf_memRead _ _ hb]
    rfl
  · rw [if_pos (Option.isSome_iff_ne_none.2 hp), natBytes_zero, lanesOf, chunkLanes_zeros]
    simp only [hp, if_false]

theorem VecTurn.keptLanes (h : VecTurn s c) (hy : c.Typed) (r : RegNo) :
    lanesOf c.lb (oldRow s c r) = (List.range (256 / c.wide)).map (oldLane s c r c.wide) := by
  rw [hy.lb, h.oldLanes (Nat.le_of_eq c.wide_rows)]

theorem VecTurn.secondLanes (h : VecTurn s c) (hy : c.Typed) (sc : Bool) (vb : RegNo) :
    secondLanes s c sc vb = (List.range (256 / c.wide)).map (secondLane s c sc vb) := by
  unfold Machine.secondLanes
  cases sc with
  | true =>
    rw [show secondLane s c true vb = fun _ => (c.vals.headD 0#64).toNat % 2 ^ (8 * c.wide) from rfl, map_range_const,
      if_pos rfl, hy.width, hy.lanes]
  | false =>
    rw [show secondLane s c false vb = laneAt (coreOf s c.core).sp (srcAt s c vb) c.wide from rfl, if_neg Bool.false_ne_true]
    exact h.sourceLanes hy vb

/-! Draws (R211). -/

theorem drawZ_lanes (s : State) (c : Cmd) (on : Bool) (n : Nat) :
    (drawZ s c on n).1 = (List.range n).map (fun i => if on = true then drawAt s c i else 0) := by
  unfold drawZ
  rw [c.rz_eq]
  cases on with
  | false => exact (map_range_const n 0).symm
  | true =>
    by_cases hz : c.bits = 0
    · simp only [hz, drawAt, if_true, ite_self, Nat.lt_irrefl, decide_false, Bool.and_false, Bool.false_eq_true, if_false]
      exact (map_range_const n 0).symm
    · simp only [Nat.pos_of_ne_zero hz, decide_true, Bool.and_true, if_true, drawAt, hz, if_false, drawn_eq, List.map_map]
      rfl

theorem Turned.drawZ (on : Bool) (n : Nat) :
    Turned s (drawZ s c on n).2 c (coreOf s c.core).sp
      { (coreOf s c.core).vec with rc := (coreOf s c.core).vec.rc + drawnIf c (on = true) n } := by
  unfold Machine.drawZ drawnIf
  rw [c.rz_eq]
  by_cases hz : on = true ∧ c.bits ≠ 0
  · rw [if_pos hz, if_pos (by simpa [Nat.pos_iff_ne_zero] using hz)]
    exact (Turned.refl s c).setVec (fun v => { v with rc := v.rc + n })
  · rw [if_neg hz, if_neg (by simpa [Nat.pos_iff_ne_zero] using hz)]
    exact Turned.refl s c

/-! The end of the word. -/

theorem dropCmd_rest {s u : State} {n : Nat} (h : { u with cores := s.cores } = s) :
    { dropCmd u n with cores := s.cores, cmds := s.cmds } = s := (congrArg (fun x : State => { x with cmds := s.cmds }) h :)

theorem Turned.ends (turn : VecTurn s c) (h : Turned s u c m v) (hr : runVector s c = u) : VecRan s c (dropCmd u c.id) := by
  have hx := turn.completes
  rw [hr] at hx
  have hu : ∀ n, cmdOf u n = cmdOf s n := fun n => by rw [cmdOf, cmdOf, h.cmds]
  exact ⟨⟨hx, cmdOf_dropCmd_same u c.id, fun n hn => (cmdOf_dropCmd_ne u c.id n hn).trans (hu n), h.others⟩, dropCmd_rest h.rest⟩

/-- The vector state that a word leaves: it has popped ports, pushed ports, and drawn. -/
def Vec.turned (c : Cmd) (v : Vec) (pops : List RegNo) (draws : Nat) : Vec :=
  { v with ports := poppedPorts v.ports (portsAmong c.ports pops), rc := v.rc + draws }

end

end Sys2Proof.Machine
end

section
namespace Sys2Proof.Machine

/-! A row that lands: what a word that pops, draws and writes one row leaves of its core. -/

section
variable {s u : State} {c : Cmd} {m : Memory} {v w : Vec}

theorem kget_pushPort (c : Cmd) (r : RegNo) (v : Vec) (n : Nat) :
    kget (pushPort c r v).ports n = (kget v.ports n).map (fun p => if n ∈ portsAmong c.ports [r] then p.pushed else p) := by
  have hm : n ∈ portsAmong c.ports [r] ↔ (portOf c.ports r).isSome = true ∧ r.toNat - 60 = n := by
    rw [mem_portsAmong]; simp only [List.mem_singleton, exists_eq_left]
  unfold pushPort
  by_cases hs : (portOf c.ports r).isSome = true
  · rw [if_pos hs, kget_kmod]
    by_cases hn : n = r.toNat - 60
    · subst hn
      simp only [hm.2 ⟨hs, rfl⟩, if_true]
      rfl
    · simp only [mt hm.1 fun h => hn h.2.symm, hn, if_false, Option.map_id_fun', id]
  · simp only [if_neg hs, mt hm.1 fun h => hs h.1, if_false, Option.map_id_fun', id]

theorem kget_turned (c : Cmd) (v : Vec) (pops : List RegNo) (draws n : Nat) :
    kget (v.turned c pops draws).ports n =
      (kget v.ports n).map (fun p => if n ∈ portsAmong c.ports pops then p.popped else p) :=
  kget_poppedPorts _ (nodup_portsAmong _ _) _ _

theorem pushPort_only (c : Cmd) (r : RegNo) (v : Vec) (p : KMap Port) : { pushPort c r v with ports := p } = { v with ports := p } := by
  unfold pushPort
  split <;> rfl

/-- What a word leaves of the rest of its core, with the ports and the count that it leaves. -/
theorem Turned.vecRest (h : Turned s u c m w) (n : Nat) {pops pushes : List RegNo} {draws : Nat}
    (hv : { w with ports := (coreOf s c.core).vec.ports, rc := (coreOf s c.core).vec.rc } = v)
    (hp : VecPorts s c u pops pushes) (hd : w.rc = (coreOf s c.core).vec.rc + draws) :
    VecRest s c (dropCmd u n) v pops pushes draws := by
  refine ⟨?_, hp, (congrArg Vec.rc h.vec).trans hd, h.consts⟩
  rw [← hv, ← h.vec]
  exact (congrArg (fun k : Core =>
    { k with sp := (coreOf s c.core).sp
             vec := { (coreOf u c.core).vec with ports := (coreOf s c.core).vec.ports, rc := (coreOf s c.core).vec.rc } }) h.core :)

/-- A register that a word writes is none of those that it pops, where it names a port. -/
theorem VecTurn.target (turn : VecTurn s c) {vd : RegNo} {pops : List RegNo} (hr : ∀ r ∈ pops, r ∈ (vShape c.instr).reads)
    (hw : vd ∈ (vShape c.instr).writes) (hs : (portOf c.ports vd).isSome = true) : vd.toNat - 60 ∉ portsAmong c.ports pops := by
  rw [port_mem_iff hs]
  intro h
  rw [turn.shape vd (hr vd h) hw] at hs
  exact absurd hs (by decide)

/-- One row of bytes lands, and the word is over. -/
theorem Turned.rowLands (turn : VecTurn s c) {pops : List RegNo} {draws : Nat} {vd : RegNo} {row : List Byte} {whole : List Nat}
    (h : Turned s u c (coreOf s c.core).sp (w.turned c pops draws))
    (hwp : w.ports = (coreOf s c.core).vec.ports) (hwr : w.rc = (coreOf s c.core).vec.rc)
    (ht : (portOf c.ports vd).isSome = true → vd.toNat - 60 ∉ portsAmong c.ports pops)
    (hr : runVector s c = Machine.writeRow u c vd row [] whole) :
    ∃ t, VecRan s c t ∧ (coreOf t c.core).vec.masks = w.masks ∧ VecRest s c t w pops [vd] draws ∧
      (coreOf t c.core).sp = memWrite (coreOf s c.core).sp (dstAt s c vd) row := by
  have hdst : dstRow u c vd = dstRow s c vd := h.dstRow_eq fun hs => by
    rw [kget_turned, hwp]
    simp only [ht hs, if_false, Option.map_id_fun', id]
  have hrow := h.writeRow (turn.sound c.core) vd row whole
  rw [hdst] at hrow
  have hp : VecPorts s c (Machine.writeRow u c vd row [] whole) pops [vd] := fun n => by
    rw [hrow.vec, kget_pushPort, kget_turned, Option.map_map, hwp]
    rfl
  have hpush : pushPort c vd (w.turned c pops draws) =
      { w.turned c pops draws with ports := (pushPort c vd (w.turned c pops draws)).ports } := pushPort_only ..
  refine ⟨_, hrow.ends turn hr, (congrArg Vec.masks (hrow.vec.trans hpush) :), hrow.vecRest _ ?_ hp ?_, hrow.sp⟩
  · rw [hpush, ← hwp, ← hwr]
    rfl
  · rw [hpush, ← hwr]
    rfl

/-- A row of lanes lands. -/
theorem Turned.lanesLand (turn : VecTurn s c) {i : Instr} {pops : List RegNo} {draws b : Nat} {vd : RegNo} {whole : List Nat}
    {f : Nat → Int} (g : Nat → Nat) (hb : b * (256 / b) = 256)
    (h : Turned s u c (coreOf s c.core).sp ((coreOf s c.core).vec.turned c pops draws))
    (ht : (portOf c.ports vd).isSome = true → vd.toNat - 60 ∉ portsAmong c.ports pops)
    (hr : runVector s c = Machine.writeRow u c vd (rowBytes b ((List.range (256 / b)).map g)) [] whole)
    (hg : ∀ n, n < 256 / b → (g n : Int) % 2 ^ (8 * b) = f n % 2 ^ (8 * b)) : VecRow s c i vd pops draws b f := by
  intro _
  obtain ⟨t, hran, -, hrest, hsp⟩ := h.rowLands turn rfl rfl ht hr
  have hl : (rowBytes b ((List.range (256 / b)).map g)).length = 256 := by
    rw [rowBytes_length, List.length_map, List.length_range, hb]
  refine ⟨t, hran, hrest, fun x hx => by rw [hsp, memByte_row_out _ _ hl hx], fun n hn => ?_⟩
  rw [hsp, laneAt_row _ _ _ _ g hn, ← hg n hn, Int.natCast_mod, Int.natCast_pow]
  rfl

theorem Turned.popRow (h : Turned s u c m { (coreOf s c.core).vec with rc := (coreOf s c.core).vec.rc + n }) (l : List RegNo) :
    Turned s (Machine.popPorts u c l) c m ((coreOf s c.core).vec.turned c l n) := h.popPorts l

end

end Sys2Proof.Machine
end

section
namespace Sys2Proof.Machine

/-! Lane-wise forms (R226). -/

section
variable {s : State} {c : Cmd}

/-- Whether a form of a rounded result draws (R226). -/
abbrev Cmd.Draws (c : Cmd) (rounds : Bool) : Prop := rounds = true ∧ c.mode = 4 ∧ c.ety ≤ 3

theorem draws_iff (c : Cmd) (rounds : Bool) : (rounds && c.rm == 4 && etFloat c.et) = true ↔ c.Draws rounds := by
  rw [c.rm_eq, c.et_eq]
  simp [etFloat, Cmd.Draws, and_assoc]

theorem drawnIf_congr (c : Cmd) {p q : Prop} [Decidable p] [Decidable q] (h : p ↔ q) (n : Nat) : drawnIf c p n = drawnIf c q n :=
  if_congr (and_congr_left fun _ => h) rfl rfl

theorem drawnIf_false (c : Cmd) {p : Prop} [Decidable p] (h : ¬p) (n : Nat) : drawnIf c p n = 0 := if_neg fun e => h e.1

/-- The random value of a lane of a form that may draw. -/
def zLane (s : State) (c : Cmd) (rounds : Bool) (n : Nat) : Nat := if c.Draws rounds then drawAt s c n else 0

/-- What a lane-wise form leaves in a lane. -/
def laneResult (s : State) (c : Cmd) (m : BitVec 2) (vd : RegNo) (f : Nat → Int) (n : Nat) : Int :=
  if (maskAt (coreOf s c.core) m.toNat).getLsbD n = true then f n else oldLane s c vd c.wide n

theorem VecTurn.lane (turn : VecTurn s c) (hy : c.Typed) {i : Instr} {sc usesD rounds : Bool} {vd va vb : RegNo} {m : BitVec 2}
    (fm : Cmd → Nat → Nat → Nat → Nat → Nat) {f : Nat → Nat → Nat → Nat → Int}
    (hrun : c.instr = i → runVector s c = vecLane sc vd va vb m usesD rounds fm s c)
    (hreads : c.instr = i → (vShape c.instr).reads = (if sc = true then [va] else [va, vb]) ++ if usesD = true then [vd] else [])
    (hwrites : c.instr = i → (vShape c.instr).writes = [vd])
    (hf : ∀ x y d n, x < 2 ^ (8 * c.wide) → y < 2 ^ (8 * c.wide) →
      (fm c x y d (zLane s c rounds n) : Int) % 2 ^ (8 * c.wide) = f x y d n % 2 ^ (8 * c.wide)) :
    VecRow s c i vd ((if sc = true then [va] else [va, vb]) ++ if usesD = true then [vd] else [])
      (drawnIf c (c.Draws rounds) (256 / c.wide)) c.wide
      (laneResult s c m vd fun n => f (laneAt (coreOf s c.core).sp (srcAt s c va) c.wide n) (secondLane s c sc vb n)
        (oldLane s c vd c.wide n) n) := by
  intro hi
  have hsecond : ∀ n, secondLane s c sc vb n < 2 ^ (8 * c.wide) := fun n => by
    unfold secondLane
    split
    · exact Nat.mod_lt _ (Nat.two_pow_pos _)
    · exact laneAt_lt ..
  have hdraw := Turned.drawZ (s := s) (c := c) (rounds && c.rm == 4 && etFloat c.et) c.lanes
  rw [drawnIf_congr c (draws_iff c rounds)] at hdraw
  have hz := drawZ_lanes s c (rounds && c.rm == 4 && etFloat c.et) c.lanes
  simp only [draws_iff c rounds] at hz
  rw [hy.lanes] at hdraw hz
  refine (hdraw.popRow _).lanesLand turn
    (fun n => if (maskAt (coreOf s c.core) m.toNat).getLsbD n = true then
        fm c (laneAt (coreOf s c.core).sp (srcAt s c va) c.wide n) (secondLane s c sc vb n) (oldLane s c vd c.wide n) (zLane s c rounds n)
      else oldLane s c vd c.wide n) c.wide_rows
    (turn.target (fun r hr => hreads hi ▸ hr) (hwrites hi ▸ List.mem_singleton_self vd))
    (whole := wholeGranules c.lb fun i => (maskOf s c m.toNat).getLsbD i) ?_ ?_ hi
  · rw [hrun hi, vecLane]
    simp only [turn.laneBad, hdraw.noteBad turn.sound, turn.sourceLanes hy, turn.keptLanes hy, turn.secondLanes hy, hy.lanes, hz]
    rw [lanes4_range, hy.lb]
    rfl
  · intro n _
    unfold laneResult
    split
    · exact hf _ _ _ _ (laneAt_lt ..) (hsecond n)
    · rfl

end

end Sys2Proof.Machine
end

section
namespace Sys2Proof.Machine

/-! The lane-wise words: arithmetic on float and integer lanes (R227). -/

section
variable {s : State} {c : Cmd}

/-- A form of two sources leaves f of every active lane. -/
def VecBinary (s : State) (c : Cmd) (op : Bool → RegNo → RegNo → RegNo → BitVec 2 → Instr) (merges rounds : Bool)
    (f : Nat → Nat → Nat → Nat → Int) : Prop :=
  ∀ sc vd va vb m, VecRow s c (op sc vd va vb m) vd ((if sc = true then [va] else [va, vb]) ++ if merges = true then [vd] else [])
    (drawnIf c (rounds = true ∧ c.mode = 4 ∧ c.ety ≤ 3) (256 / c.wide)) c.wide (fun n =>
      if (maskAt (coreOf s c.core) m.toNat).getLsbD n = true then
        f (laneAt (coreOf s c.core).sp (srcAt s c va) c.wide n) (secondLane s c sc vb n) (oldLane s c vd c.wide n) n
      else oldLane s c vd c.wide n)

/-- A form of one source leaves f of every active lane. -/
def VecUnary (s : State) (c : Cmd) (op : RegNo → RegNo → BitVec 2 → Instr) (f : Nat → Int) : Prop :=
  ∀ vd va m, VecRow s c (op vd va m) vd [va] 0 c.wide (fun n =>
    if (maskAt (coreOf s c.core) m.toNat).getLsbD n = true then f (laneAt (coreOf s c.core).sp (srcAt s c va) c.wide n)
    else oldLane s c vd c.wide n)

theorem VecBinary.of_lane (turn : VecTurn s c) (hy : c.Typed) {op : Bool → RegNo → RegNo → RegNo → BitVec 2 → Instr}
    {merges rounds : Bool} (fm : Cmd → Nat → Nat → Nat → Nat → Nat) {f : Nat → Nat → Nat → Nat → Int} {ty : TypeSet}
    (hf : ∀ x y d n, x < 2 ^ (8 * c.wide) → y < 2 ^ (8 * c.wide) →
      (fm c x y d (zLane s c rounds n) : Int) % 2 ^ (8 * c.wide) = f x y d n % 2 ^ (8 * c.wide))
    (hrun : ∀ sc vd va vb m, c.instr = op sc vd va vb m → runVector s c = vecLane sc vd va vb m merges rounds fm s c := by
      intro _ _ _ _ _ h; simp only [runVector, h])
    (hshape : ∀ sc vd va vb m, vShape (op sc vd va vb m) = if merges = true then shape3 sc vd va vb ty else shape2 sc vd va vb ty := by
      intros; rfl) : VecBinary s c op merges rounds f := by
  intro sc vd va vb m
  refine turn.lane hy fm (hrun sc vd va vb m) (fun hi => ?_) (fun hi => ?_) hf
  · rw [hi, hshape]
    cases merges with
    | true => rfl
    | false => exact (List.append_nil _).symm
  · rw [hi, hshape]
    cases merges <;> rfl

theorem VecUnary.of_lane (turn : VecTurn s c) (hy : c.Typed) {op : RegNo → RegNo → BitVec 2 → Instr}
    (fm : Cmd → Nat → Nat) {f : Nat → Int} {ty : TypeSet}
    (hf : ∀ x, x < 2 ^ (8 * c.wide) → (fm c x : Int) % 2 ^ (8 * c.wide) = f x % 2 ^ (8 * c.wide))
    (hrun : ∀ vd va m, c.instr = op vd va m → runVector s c = vecUnary vd va m fm s c := by
      intro _ _ _ h; simp only [runVector, h])
    (hshape : ∀ vd va m, vShape (op vd va m) = ⟨[va], [vd], ty⟩ := by intros; rfl) : VecUnary s c op f := by
  intro vd va m
  have := turn.lane hy (i := op vd va m) (vb := 0#6) (sc := true) (usesD := false) (rounds := false) (f := fun x _ _ _ => f x)
    (fun c x _ _ _ => fm c x) (hrun vd va m) (fun hi => by rw [hi, hshape]; rfl) (fun hi => by rw [hi, hshape])
    (fun x _ _ _ hx _ => hf x hx)
  rwa [drawnIf_false c (fun h => Bool.noConfusion h.1)] at this

/-! Lanes as numbers. -/

theorem intPat_emod (w : Nat) (v : Int) : (intPat w v : Int) % 2 ^ w = v % 2 ^ w := by
  have hp : (0 : Int) < ((2 ^ w : Nat) : Int) := by exact_mod_cast Nat.two_pow_pos w
  rw [intPat, Int.toNat_of_nonneg (Int.emod_nonneg _ (Int.ne_of_gt hp)), Int.natCast_pow]
  exact Int.emod_emod_of_dvd _ (dvd_refl _)

theorem patInt_modEq (w v : Nat) : patInt w v ≡ v [ZMOD 2 ^ w] := by
  have hc : (((v % 2 ^ w : Nat) : Int)) = (v : Int) % 2 ^ w := by rw [Int.natCast_mod, Int.natCast_pow]; rfl
  rw [patInt, hc]
  split
  · exact Int.mod_modEq ..
  · have := (Int.mod_modEq (v : Int) (2 ^ w)).sub (Int.ModEq.refl (n := 2 ^ w) ((2 : Int) ^ w))
    exact this.trans (by simp [Int.ModEq])

theorem intPat_of_modEq {w : Nat} {u v : Int} (h : u ≡ v [ZMOD 2 ^ w]) : (intPat w u : Int) % 2 ^ w = v % 2 ^ w :=
  (intPat_emod w u).trans h

theorem laneArith_float (hf : c.ety ≤ 3) (fl : Num → Num → Num → Num) (it : Int → Int → Int → Int) (x y d n : Nat) :
    laneArith c fl it x y d (zLane s c true n) = roundLane s c (fl (decNum c.ety x) (decNum c.ety y) (decNum c.ety d)) n := by
  have hd : zLane s c true n = if c.mode = 4 then drawAt s c n else 0 := if_congr (by simp [Cmd.Draws, hf]) rfl rfl
  rw [laneArith, c.et_eq, if_pos (by simp [etFloat, hf]), Cmd.round, c.et_eq, c.rm_eq, c.rz_eq, hd]
  rfl

theorem laneArith_int (hy : c.Typed) (hi : 4 ≤ c.ety) (fl : Num → Num → Num → Num) (it : Int → Int → Int → Int) (x y d z : Nat) :
    laneArith c fl it x y d z =
      intPat (8 * c.wide) (it (patInt (8 * c.wide) x) (patInt (8 * c.wide) y) (patInt (8 * c.wide) d)) := by
  have hn : ¬etFloat c.et = true := by simp [etFloat, c.et_eq]; omega
  rw [laneArith, if_neg hn, hy.width]

theorem VecBinary.of_float (turn : VecTurn s c) (hf : c.ety ≤ 3) {op : Bool → RegNo → RegNo → RegNo → BitVec 2 → Instr}
    {merges : Bool} (fl : Num → Num → Num → Num) (it : Int → Int → Int → Int)
    (hrun : ∀ sc vd va vb m, c.instr = op sc vd va vb m → runVector s c =
      vecLane sc vd va vb m merges true (fun c x y d z => laneArith c fl it x y d z) s c := by
      intro _ _ _ _ _ h; simp only [runVector, h])
    (hshape : ∀ sc vd va vb m, vShape (op sc vd va vb m) =
      if merges = true then shape3 sc vd va vb .floatInt else shape2 sc vd va vb .floatInt := by intros; rfl) :
    VecBinary s c op merges true (fun x y d n => roundLane s c (fl (decNum c.ety x) (decNum c.ety y) (decNum c.ety d)) n) :=
  .of_lane turn (.inl (by omega)) _ (fun x y d n _ _ => by rw [laneArith_float hf]) hrun hshape

/-- Integer arithmetic on lanes, of an operation that numbers equal modulo the lane's width cannot tell apart. -/
theorem VecBinary.of_int (turn : VecTurn s c) (hi : c.ety = 4 ∨ c.ety = 5 ∨ c.ety = 6)
    {op : Bool → RegNo → RegNo → RegNo → BitVec 2 → Instr} {merges : Bool}
    (fl : Num → Num → Num → Num) (it : Int → Int → Int → Int)
    (hit : ∀ {w x y z x' y' z' : Int}, x ≡ x' [ZMOD w] → y ≡ y' [ZMOD w] → z ≡ z' [ZMOD w] → it x y z ≡ it x' y' z' [ZMOD w])
    (hrun : ∀ sc vd va vb m, c.instr = op sc vd va vb m → runVector s c =
      vecLane sc vd va vb m merges true (fun c x y d z => laneArith c fl it x y d z) s c := by
      intro _ _ _ _ _ h; simp only [runVector, h])
    (hshape : ∀ sc vd va vb m, vShape (op sc vd va vb m) =
      if merges = true then shape3 sc vd va vb .floatInt else shape2 sc vd va vb .floatInt := by intros; rfl) :
    VecBinary s c op merges true (fun x y d _ => it x y d) :=
  .of_lane turn (.inl (by omega)) _ (fun x y d n _ _ => by
    rw [laneArith_int (.inl (by omega)) (by omega)]
    exact intPat_of_modEq (hit (patInt_modEq ..) (patInt_modEq ..) (patInt_modEq ..))) hrun hshape

theorem vec_floats (turn : VecTurn s c) (hf : c.ety ≤ 3) :
    VecBinary s c .vadd false true (fun x y _ n => roundLane s c ((decNum c.ety x).add (decNum c.ety y)) n) ∧
    VecBinary s c .vsub false true (fun x y _ n => roundLane s c ((decNum c.ety x).add (decNum c.ety y).neg) n) ∧
    VecBinary s c .vmul false true (fun x y _ n => roundLane s c ((decNum c.ety x).mul (decNum c.ety y)) n) ∧
    VecBinary s c .vfma true true (fun x y e n => roundLane s c (((decNum c.ety x).mul (decNum c.ety y)).add (decNum c.ety e)) n) ∧
    VecBinary s c .vfnma true true
      (fun x y e n => roundLane s c ((decNum c.ety e).add ((decNum c.ety x).mul (decNum c.ety y)).neg) n) ∧
    VecUnary s c .vabs (fun x => (x % 2 ^ (8 * c.wide - 1) : Nat)) ∧ VecUnary s c .vneg (fun x => (x ^^^ 2 ^ (8 * c.wide - 1) : Nat)) := by
  have hy : c.Typed := .inl (by omega)
  have hb : etFloat c.et = true := by simp [etFloat, c.et_eq, hf]
  refine ⟨.of_float turn hf (fun a b _ => a.add b) (fun a b _ => a + b),
    .of_float turn hf (fun a b _ => a.add b.neg) (fun a b _ => a - b),
    .of_float turn hf (fun a b _ => a.mul b) (fun a b _ => a * b),
    .of_float turn hf (fun a b e => (a.mul b).add e) (fun a b e => a * b + e),
    .of_float turn hf (fun a b e => e.add (a.mul b).neg) (fun a b e => e - a * b),
    .of_lane turn hy laneAbs fun x _ => ?_,
    .of_lane turn hy laneNeg fun x _ => ?_⟩
  · simp only [laneAbs, hb, if_true, hy.width]
  · simp only [laneNeg, hb, if_true, hy.width]

theorem vec_ints (turn : VecTurn s c) (hi : c.ety = 4 ∨ c.ety = 5 ∨ c.ety = 6) :
    VecBinary s c .vadd false true (fun x y _ _ => x + y) ∧ VecBinary s c .vsub false true (fun x y _ _ => x - y) ∧
    VecBinary s c .vmul false true (fun x y _ _ => x * y) ∧ VecBinary s c .vfma true true (fun x y e _ => x * y + e) ∧
    VecBinary s c .vfnma true true (fun x y e _ => e - x * y) ∧
    VecBinary s c .vminn false false (fun x y _ _ => min x y) ∧ VecBinary s c .vmaxn false false (fun x y _ _ => max x y) ∧
    VecUnary s c .vabs (fun x => (patInt (8 * c.wide) x).natAbs) ∧ VecUnary s c .vneg (fun x => -x) ∧
    VecBinary s c .vshl false false (fun x y _ _ => x * 2 ^ (y % (8 * c.wide))) ∧
    VecBinary s c .vshr false false (fun x y _ _ => (x / 2 ^ (y % (8 * c.wide)) : Nat)) ∧
    VecBinary s c .vsra false false (fun x y _ _ => patInt (8 * c.wide) x / 2 ^ (y % (8 * c.wide))) := by
  have hy : c.Typed := .inl (by omega)
  have hb : ¬etFloat c.et = true := by simp [etFloat, c.et_eq]; omega
  refine ⟨.of_int turn hi (fun a b _ => a.add b) (fun a b _ => a + b) (fun ha hb _ => ha.add hb),
    .of_int turn hi (fun a b _ => a.add b.neg) (fun a b _ => a - b) (fun ha hb _ => ha.sub hb),
    .of_int turn hi (fun a b _ => a.mul b) (fun a b _ => a * b) (fun ha hb _ => ha.mul hb),
    .of_int turn hi (fun a b e => (a.mul b).add e) (fun a b e => a * b + e) (fun ha hb hd => (ha.mul hb).add hd),
    .of_int turn hi (fun a b e => e.add (a.mul b).neg) (fun a b e => e - a * b) (fun ha hb hd => hd.sub (ha.mul hb)),
    .of_lane turn hy (fun _ x y _ _ => min x y) fun x y d n _ _ => ?_,
    .of_lane turn hy (fun _ x y _ _ => max x y) fun x y d n _ _ => ?_,
    .of_lane turn hy laneAbs fun x _ => ?_,
    .of_lane turn hy laneNeg fun x _ => ?_,
    .of_lane turn hy (fun c x y _ _ => laneShl c x y) fun x y d n _ _ => ?_,
    .of_lane turn hy (fun c x y _ _ => laneShr c x y) fun x y d n _ _ => ?_,
    .of_lane turn hy (fun c x y _ _ => laneSra c x y) fun x y d n _ _ => ?_⟩
  · rw [Nat.cast_min]
  · rw [Nat.cast_max]
  · simp only [laneAbs, hb, Bool.false_eq_true, if_false, hy.width]
    exact intPat_emod _ _
  · simp only [laneNeg, hb, Bool.false_eq_true, if_false, hy.width]
    exact intPat_of_modEq (patInt_modEq _ x).neg
  · rw [laneShl, hy.width]
    push_cast
    exact Int.emod_emod_of_dvd _ (dvd_refl _)
  · rw [laneShr, hy.width]
  · rw [laneSra, hy.width, intPat_emod, Int.natCast_pow]
    rfl

/-- The FP32 functions (R228). -/
theorem vec_functions (turn : VecTurn s c) (h0 : c.ety = 0) :
    VecUnary s c .vexp2 (fun x => (rnd (exp2 (decNum c.ety x)) 0 0 false Rand.zero : Nat)) ∧
    VecUnary s c .vlog2 (fun x => (rnd (log2Num (decNum c.ety x)) 0 0 false Rand.zero : Nat)) ∧
    VecUnary s c .vrecip (fun x => (rnd (recip (decNum c.ety x)) 0 0 false Rand.zero : Nat)) ∧
    VecUnary s c .vrsq (fun x => (rnd (rsqrt (decNum c.ety x)) 0 0 false Rand.zero : Nat)) := by
  have hy : c.Typed := .inl (by omega)
  rw [h0]
  exact ⟨.of_lane turn hy (fun _ x => rnd (exp2 (decNum 0 x)) 0 0 false Rand.zero) fun x _ => rfl,
    .of_lane turn hy (fun _ x => rnd (log2Num (decNum 0 x)) 0 0 false Rand.zero) fun x _ => rfl,
    .of_lane turn hy (fun _ x => rnd (recip (decNum 0 x)) 0 0 false Rand.zero) fun x _ => rfl,
    .of_lane turn hy (fun _ x => rnd (rsqrt (decNum 0 x)) 0 0 false Rand.zero) fun x _ => rfl⟩

theorem vec_logic (turn : VecTurn s c) (hy : c.Typed) :
    VecBinary s c .vand false false (fun x y _ _ => (x &&& y : Nat)) ∧ VecBinary s c .vor false false (fun x y _ _ => (x ||| y : Nat)) ∧
    VecBinary s c .vxor false false (fun x y _ _ => (x ^^^ y : Nat)) ∧
    VecBinary s c .vandn false false (fun x y _ _ => (x &&& (y ^^^ (2 ^ (8 * c.wide) - 1)) : Nat)) :=
  ⟨.of_lane turn hy (fun _ x y _ _ => x &&& y) fun _ _ _ _ _ _ => rfl,
    .of_lane turn hy (fun _ x y _ _ => x ||| y) fun _ _ _ _ _ _ => rfl,
    .of_lane turn hy (fun _ x y _ _ => x ^^^ y) fun _ _ _ _ _ _ => rfl,
    .of_lane turn hy (fun c x y _ _ => x &&& (y ^^^ (2 ^ etWidth c.et - 1))) fun _ _ _ _ _ _ => by rw [hy.width]⟩

end

end Sys2Proof.Machine
end

section
namespace Sys2Proof.Machine

/-! Least and greatest lanes, and masks of comparisons (R227, R229, R235). -/

section
variable {s u : State} {c : Cmd}

/-- u orders before v, -0 before +0. -/
def VecBefore (c : Cmd) (u v : Nat) : Prop :=
  (decNum c.ety u).lt (decNum c.ety v) = some true ∨
  (decNum c.ety u).lt (decNum c.ety v) = some false ∧ (decNum c.ety v).lt (decNum c.ety u) = some false ∧
    u / 2 ^ (8 * c.wide - 1) % 2 = 1 ∧ v / 2 ^ (8 * c.wide - 1) % 2 = 0

def VecLeast (c : Cmd) (u v : Nat) (r : Int) : Prop :=
  if c.ety ≤ 3 then (decNum c.ety u = .nan ∨ decNum c.ety v = .nan → r = nanOf c.ety) ∧
    (¬decNum c.ety u = .nan → ¬decNum c.ety v = .nan → (VecBefore c v u → r = v) ∧ (¬VecBefore c v u → r = u))
  else (patInt (8 * c.wide) u ≤ patInt (8 * c.wide) v → r = u) ∧ (patInt (8 * c.wide) v < patInt (8 * c.wide) u → r = v)

def VecMost (c : Cmd) (u v : Nat) (r : Int) : Prop :=
  if c.ety ≤ 3 then (decNum c.ety u = .nan ∨ decNum c.ety v = .nan → r = nanOf c.ety) ∧
    (¬decNum c.ety u = .nan → ¬decNum c.ety v = .nan → (VecBefore c u v → r = v) ∧ (¬VecBefore c u v → r = u))
  else (patInt (8 * c.wide) v ≤ patInt (8 * c.wide) u → r = u) ∧ (patInt (8 * c.wide) u < patInt (8 * c.wide) v → r = v)

theorem numBefore_iff (hy : c.Typed) (u v : Nat) : numBefore c.et u v = true ↔ VecBefore c u v := by
  unfold numBefore VecBefore
  rw [hy.width, c.et_eq]
  cases (decNum c.ety u).lt (decNum c.ety v) with
  | none => simp
  | some a =>
    cases a with
    | true => simp
    | false =>
      cases (decNum c.ety v).lt (decNum c.ety u) with
      | none => simp
      | some b => cases b <;> simp [nbits]

theorem vecLeast_iff (hy : c.Typed) (u v : Nat) (r : Int) : VecLeast c u v r ↔ r = laneMin c u v := by
  have hw : etWidth c.ety = 8 * c.wide := c.et_eq ▸ hy.width
  unfold VecLeast laneMin
  simp only [← numBefore_iff hy, c.et_eq, etFloat, hw]
  by_cases hf : c.ety ≤ 3
  · simp only [hf, if_true, decide_true]
    by_cases hn : decNum c.ety u = .nan ∨ decNum c.ety v = .nan
    · have : ¬(¬decNum c.ety u = .nan ∧ ¬decNum c.ety v = .nan) := fun h => hn.elim h.1 h.2
      simp only [hn, if_true, true_imp_iff]
      exact ⟨fun h => h.1, fun h => ⟨h, fun h1 h2 => absurd ⟨h1, h2⟩ this⟩⟩
    · rw [if_neg hn]
      obtain ⟨h1, h2⟩ := not_or.1 hn
      simp only [h1, h2, or_self, false_imp_iff, true_and, not_false_eq_true, true_imp_iff]
      split <;> simp [*]
  · simp only [hf, if_false, decide_false, Bool.false_eq_true]
    split
    · next h => simp [h, Int.not_lt.2 h]
    · next h => simp [h, Int.not_le.1 h]

theorem vecMost_iff (hy : c.Typed) (u v : Nat) (r : Int) : VecMost c u v r ↔ r = laneMax c u v := by
  have hw : etWidth c.ety = 8 * c.wide := c.et_eq ▸ hy.width
  unfold VecMost laneMax
  simp only [← numBefore_iff hy, c.et_eq, etFloat, hw]
  by_cases hf : c.ety ≤ 3
  · simp only [hf, if_true, decide_true]
    by_cases hn : decNum c.ety u = .nan ∨ decNum c.ety v = .nan
    · have : ¬(¬decNum c.ety u = .nan ∧ ¬decNum c.ety v = .nan) := fun h => hn.elim h.1 h.2
      simp only [hn, if_true, true_imp_iff]
      exact ⟨fun h => h.1, fun h => ⟨h, fun h1 h2 => absurd ⟨h1, h2⟩ this⟩⟩
    · rw [if_neg hn]
      obtain ⟨h1, h2⟩ := not_or.1 hn
      simp only [h1, h2, or_self, false_imp_iff, true_and, not_false_eq_true, true_imp_iff]
      split <;> simp [*]
  · simp only [hf, if_false, decide_false, Bool.false_eq_true]
    split
    · next h => simp [h, Int.not_lt.2 h]
    · next h => simp [h, Int.not_le.1 h]

theorem vec_least (turn : VecTurn s c) (hy : c.Typed) (f : Nat → Nat → Int) (hf : ∀ u v, VecLeast c u v (f u v)) :
    VecBinary s c .vmin false false (fun x y _ _ => f x y) :=
  .of_lane turn hy (fun c x y _ _ => laneMin c x y) fun x y _ _ _ _ => by rw [(vecLeast_iff hy x y _).1 (hf x y)]

theorem vec_most (turn : VecTurn s c) (hy : c.Typed) (f : Nat → Nat → Int) (hf : ∀ u v, VecMost c u v (f u v)) :
    VecBinary s c .vmax false false (fun x y _ _ => f x y) :=
  .of_lane turn hy (fun c x y _ _ => laneMax c x y) fun x y _ _ _ _ => by rw [(vecMost_iff hy x y _).1 (hf x y)]

/-! Masks as bits. -/

theorem foldl_bits (p : Nat → Bool) (n : Nat) :
    (List.range n).foldl (fun v i => if p i then v + 2 ^ i else v) 0 < 2 ^ n ∧
    ∀ j, ((List.range n).foldl (fun v i => if p i then v + 2 ^ i else v) 0).testBit j = (decide (j < n) && p j) := by
  induction n with
  | zero => simp
  | succ n ih =>
    obtain ⟨hlt, hbit⟩ := ih
    rw [List.range_succ, List.foldl_append, List.foldl_cons, List.foldl_nil]
    generalize (List.range n).foldl (fun v i => if p i then v + 2 ^ i else v) 0 = v at hlt hbit ⊢
    have hp := Nat.pow_succ (n := 2) (m := n)
    by_cases h : p n = true
    · rw [if_pos h]
      refine ⟨by omega, fun j => ?_⟩
      rw [Nat.add_comm]
      rcases Nat.lt_trichotomy j n with hj | rfl | hj
      · rw [Nat.testBit_two_pow_add_gt hj, hbit]
        simp [hj, Nat.lt_succ_of_lt hj]
      · rw [Nat.testBit_two_pow_add_eq, hbit]
        simp [h]
      · rw [Nat.testBit_lt_two_pow (Nat.lt_of_lt_of_le (by omega : 2 ^ n + v < 2 ^ (n + 1)) (Nat.pow_le_pow_right (by decide) hj))]
        simp [show ¬j < n + 1 by omega]
    · rw [if_neg h]
      refine ⟨by omega, fun j => ?_⟩
      rw [hbit]
      by_cases hj : j = n
      · subst hj; simp [h]
      · simp [show (j < n + 1) = (j < n) from propext (by omega)]

theorem maskBits_getLsbD (p : Nat → Bool) (n : Nat) : (maskBits p).getLsbD n = (decide (n < 256) && p n) := by
  rw [maskBits, BitVec.getLsbD_ofNat, upFrom_zero, (foldl_bits p 256).2]
  cases decide (n < 256) <;> simp

/-! Words that write a mask. -/

/-- A word leaves mask md, and what it has popped. -/
def VecMasks (s : State) (c : Cmd) (i : Instr) (md : BitVec 3) (pops : List RegNo) (v : BitVec 256) : Prop := c.instr = i →
  ∃ t, VecRan s c t ∧ VecPorts s c t pops [] ∧
    { coreOf t c.core with vec := { (coreOf t c.core).vec with masks := (coreOf s c.core).vec.masks, ports := (coreOf s c.core).vec.ports } } =
      coreOf s c.core ∧
    ∀ n, n < 8 → maskAt (coreOf t c.core) n = if n = md.toNat ∧ n ≠ 0 then v else maskAt (coreOf s c.core) n

theorem popPorts_consts (u : State) (c : Cmd) (l : List RegNo) (n : Nat) : (coreOf (popPorts u c l) n).consts = (coreOf u n).consts := by
  rw [popPorts]
  generalize portsAmong c.ports l = ns
  induction ns generalizing u with
  | nil => rfl
  | cons m ns ih =>
    rw [List.foldl_cons, ih]
    by_cases hn : n = c.core
    · rw [hn, coreOf_modCore_same]
    · rw [coreOf_modCore_ne _ _ _ _ hn]

theorem setMask_consts (u : State) (c : Cmd) (m : Nat) (x : BitVec 256) (n : Nat) : (coreOf (setMask u c m x) n).consts = (coreOf u n).consts := by
  unfold setMask
  split
  · rfl
  · by_cases hn : n = c.core
    · rw [hn, coreOf_modCore_same]
    · rw [coreOf_modCore_ne _ _ _ _ hn]

theorem maskAt_setMask (k : Core) {n md : Nat} (hmd : md < 8) (hn : n < 8) (x : BitVec 256) (v w : Vec) (hk : k.vec = v)
    (hv : v.masks = if md = 0 then w.masks else w.masks.setIfInBounds md x) :
    maskAt k n = if n = md ∧ n ≠ 0 then x else if n = 0 then BitVec.allOnes 256 else w.masks.getD n 0#256 := by
  unfold maskAt
  by_cases h0 : n = 0
  · simp [h0]
  · rw [if_neg h0, if_neg h0, hk, hv]
    by_cases hm : n = md
    · subst hm
      rw [if_neg h0, if_pos ⟨rfl, h0⟩]
      simp [Vector.getD, hn]
    · have hne : ¬(n = md ∧ n ≠ 0) := fun e => hm e.1
      rw [if_neg hne]
      by_cases hd : md = 0
      · rw [if_pos hd]
      · rw [if_neg hd]
        simp [Vector.getD, hn, Ne.symm hm]

theorem VecMasks.of_set (turn : VecTurn s c) {i : Instr} {md : BitVec 3} {pops : List RegNo} {v : BitVec 256}
    (hrun : c.instr = i → runVector s c = setMask (popPorts s c pops) c md.toNat v) : VecMasks s c i md pops v := by
  intro hi
  have h := ((Turned.refl s c).popPorts pops).setMask md.toNat v
  have hv := h.vec
  have hports : (coreOf (setMask (popPorts s c pops) c md.toNat v) c.core).vec.ports =
      poppedPorts (coreOf s c.core).vec.ports (portsAmong c.ports pops) := by rw [hv]; split <;> rfl
  have hconsts : (coreOf (setMask (popPorts s c pops) c md.toNat v) c.core).consts = (coreOf s c.core).consts := by
    rw [setMask_consts, popPorts_consts]
  refine ⟨_, h.ends turn (hrun hi), fun n => ?_, ?_, fun n hn => ?_⟩
  · change kget (coreOf (setMask (popPorts s c pops) c md.toNat v) c.core).vec.ports n = _
    rw [hports, kget_poppedPorts _ (nodup_portsAmong _ _)]
    rfl
  · have hc := h.core
    rw [← hconsts] at hc
    refine (congrArg (fun k : Core => { k with vec := { k.vec with masks := (coreOf s c.core).vec.masks, ports := (coreOf s c.core).vec.ports } })
      hc :).trans ?_
    dsimp only
    split <;> rfl
  · exact maskAt_setMask _ (by omega) hn v _ (coreOf s c.core).vec hv (by split <;> rfl)

end

end Sys2Proof.Machine
end

section
namespace Sys2Proof.Machine

/-! Comparisons (R229), mask words (R235), and words that answer a scalar register (R220, R234). -/

section
variable {s u : State} {c : Cmd}

def VecCompares (s : State) (c : Cmd) (op : Bool → BitVec 3 → RegNo → RegNo → BitVec 2 → Instr) (f : Nat → Nat → Prop) : Prop :=
  ∀ sc md va vb m, ∃ v : BitVec 256, VecMasks s c (op sc md va vb m) md (if sc = true then [va] else [va, vb]) v ∧ ∀ n, n < 256 →
    (v.getLsbD n = true ↔ n < 256 / c.wide ∧ (maskAt (coreOf s c.core) m.toNat).getLsbD n = true ∧
      f (laneAt (coreOf s c.core).sp (srcAt s c va) c.wide n) (secondLane s c sc vb n))

theorem getD_map_range_bool (g : Nat → Bool) (n i : Nat) : ((List.range n).map g).getD i false = (decide (i < n) && g i) := by
  rw [List.getD_eq_getElem?_getD, List.getElem?_map]
  by_cases h : i < n
  · rw [List.getElem?_range h]; simp [h]
  · rw [List.getElem?_eq_none (by simpa using h)]; simp [h]

theorem VecCompares.of_cmp (turn : VecTurn s c) (hy : c.Typed) {op : Bool → BitVec 3 → RegNo → RegNo → BitVec 2 → Instr} (cond : Cond)
    {f : Nat → Nat → Prop} (hf : ∀ x y, laneCmp cond c x y = true ↔ f x y)
    (hrun : ∀ sc md va vb m, c.instr = op sc md va vb m → runVector s c = vecCmp cond sc md va vb m s c := by
      intro _ _ _ _ _ h; simp only [runVector, h]) : VecCompares s c op f := by
  intro sc md va vb m
  refine ⟨maskBits (fun i => (maskAt (coreOf s c.core) m.toNat).getLsbD i && (decide (i < 256 / c.wide) &&
    laneCmp cond c (laneAt (coreOf s c.core).sp (srcAt s c va) c.wide i) (secondLane s c sc vb i))), .of_set turn fun hi => ?_,
    fun n hn => ?_⟩
  · have hbad : (if sc = true then [va] else [va, vb]).flatMap (badGranules s c) = [] :=
      List.flatMap_eq_nil_iff.2 fun r _ => turn.badGranules r
    rw [hrun _ _ _ _ _ hi, vecCmp]
    simp only [hbad, turn.noteBad, turn.sourceLanes hy, turn.secondLanes hy, List.zip_map', List.map_map, getD_map_range_bool,
      List.contains_nil, Bool.not_false, Bool.and_true]
    rfl
  · rw [maskBits_getLsbD]
    simp only [hn, decide_true, Bool.true_and, Bool.and_eq_true, decide_eq_true_eq, hf]
    exact and_left_comm

theorem getD_false_iff (o : Option Bool) : o.getD false = true ↔ o = some true := by
  rcases o with _ | _ | _ <;> decide

theorem map_not_iff (o : Option Bool) : o.map (fun r => !r) = some true ↔ o = some false := by
  rcases o with _ | _ | _ <;> decide

theorem laneCmp_float (hf : c.ety ≤ 3) (x y : Nat) :
    (laneCmp .eq c x y = true ↔ (decNum c.ety x).same (decNum c.ety y) = true) ∧
    (laneCmp .ne c x y = true ↔ (decNum c.ety x).same (decNum c.ety y) = false) ∧
    (laneCmp .lt c x y = true ↔ (decNum c.ety x).lt (decNum c.ety y) = some true) ∧
    (laneCmp .ge c x y = true ↔ (decNum c.ety x).lt (decNum c.ety y) = some false) := by
  have hb : etFloat c.ety = true := by simp [etFloat, hf]
  simp only [laneCmp, hb, if_true, c.et_eq, getD_false_iff, map_not_iff, Bool.not_eq_true', and_self]

theorem laneCmp_int (hy : c.Typed) (hf : ¬c.ety ≤ 3) (x y : Nat) :
    (laneCmp .eq c x y = true ↔ x = y) ∧ (laneCmp .ne c x y = true ↔ x ≠ y) ∧
    (laneCmp .lt c x y = true ↔ patInt (8 * c.wide) x < patInt (8 * c.wide) y) ∧
    (laneCmp .ge c x y = true ↔ patInt (8 * c.wide) y ≤ patInt (8 * c.wide) x) := by
  have hb : etFloat c.et = false := by simp [etFloat, c.et_eq, Nat.lt_of_not_le hf]
  simp only [laneCmp, hb, Bool.false_eq_true, if_false, hy.width, beq_iff_eq, bne_iff_ne, decide_eq_true_eq, and_self]

theorem vec_compares (turn : VecTurn s c) (ht : c.ety ≤ 6) :
    VecCompares s c .vcmpEq (fun x y => if c.ety ≤ 3 then (decNum c.ety x).same (decNum c.ety y) = true else x = y) ∧
    VecCompares s c .vcmpNe (fun x y => if c.ety ≤ 3 then (decNum c.ety x).same (decNum c.ety y) = false else x ≠ y) ∧
    VecCompares s c .vcmpLt (fun x y => if c.ety ≤ 3 then (decNum c.ety x).lt (decNum c.ety y) = some true
      else patInt (8 * c.wide) x < patInt (8 * c.wide) y) ∧
    VecCompares s c .vcmpGe (fun x y => if c.ety ≤ 3 then (decNum c.ety x).lt (decNum c.ety y) = some false
      else patInt (8 * c.wide) y ≤ patInt (8 * c.wide) x) := by
  have hy : c.Typed := .inl ht
  by_cases hf : c.ety ≤ 3
  · simp only [hf, if_true]
    exact ⟨.of_cmp turn hy .eq fun x y => (laneCmp_float hf x y).1, .of_cmp turn hy .ne fun x y => (laneCmp_float hf x y).2.1,
      .of_cmp turn hy .lt fun x y => (laneCmp_float hf x y).2.2.1, .of_cmp turn hy .ge fun x y => (laneCmp_float hf x y).2.2.2⟩
  · simp only [hf, if_false]
    exact ⟨.of_cmp turn hy .eq fun x y => (laneCmp_int hy hf x y).1, .of_cmp turn hy .ne fun x y => (laneCmp_int hy hf x y).2.1,
      .of_cmp turn hy .lt fun x y => (laneCmp_int hy hf x y).2.2.1, .of_cmp turn hy .ge fun x y => (laneCmp_int hy hf x y).2.2.2⟩

theorem vec_unsigned (turn : VecTurn s c) (ht : c.ety = 4 ∨ c.ety = 5 ∨ c.ety = 6 ∨ c.ety = 9) :
    VecCompares s c .vcmpLtn (fun x y => x < y) ∧ VecCompares s c .vcmpGen (fun x y => y ≤ x) := by
  have hy : c.Typed := by unfold Cmd.Typed; omega
  exact ⟨.of_cmp turn hy .ltn fun x y => decide_eq_true_iff, .of_cmp turn hy .gen fun x y => decide_eq_true_iff⟩

/-! Mask words. -/

theorem VecMasks.of_word (turn : VecTurn s c) {i : Instr} {md : BitVec 3} (v : BitVec 256)
    (hrun : c.instr = i → runVector s c = setMask s c md.toNat v := by intro h; simp only [runVector, h]; rfl) : VecMasks s c i md [] v :=
  .of_set turn hrun

theorem mset_getLsbD (x : BitVec 256) (a : Word) (q : BitVec 2) {n : Nat} (hn : n < 256) :
    ((x &&& ~~~(BitVec.ofNat 256 ((2 ^ 64 - 1) * 2 ^ (64 * q.toNat)))) ||| BitVec.ofNat 256 (a.toNat * 2 ^ (64 * q.toNat))).getLsbD n =
      if 64 * q.toNat ≤ n ∧ n < 64 * q.toNat + 64 then a.getLsbD (n - 64 * q.toNat) else x.getLsbD n := by
  simp only [BitVec.getLsbD_or, BitVec.getLsbD_and, BitVec.getLsbD_not, BitVec.getLsbD_ofNat, hn, decide_true, Bool.true_and,
    Nat.testBit_mul_two_pow, Nat.testBit_two_pow_sub_one]
  by_cases h1 : 64 * q.toNat ≤ n
  · by_cases h2 : n < 64 * q.toNat + 64
    · simp [h1, h2, show n - 64 * q.toNat < 64 by omega, BitVec.testBit_toNat]
    · rw [if_neg fun e => h2 e.2]
      simp [h1, show ¬n - 64 * q.toNat < 64 by omega, BitVec.testBit_toNat, BitVec.getLsbD_of_ge a _ (show 64 ≤ n - 64 * q.toNat by omega)]
  · rw [if_neg fun e => h1 e.1]
    simp [h1]

theorem vec_masks (turn : VecTurn s c) (md ma mb : BitVec 3) (q : BitVec 2) (xb : RegNo) :
    VecMasks s c (.vmand md ma mb) md [] (maskAt (coreOf s c.core) ma.toNat &&& maskAt (coreOf s c.core) mb.toNat) ∧
    VecMasks s c (.vmor md ma mb) md [] (maskAt (coreOf s c.core) ma.toNat ||| maskAt (coreOf s c.core) mb.toNat) ∧
    VecMasks s c (.vmxor md ma mb) md [] (maskAt (coreOf s c.core) ma.toNat ^^^ maskAt (coreOf s c.core) mb.toNat) ∧
    VecMasks s c (.vmandn md ma mb) md [] (maskAt (coreOf s c.core) ma.toNat &&& ~~~maskAt (coreOf s c.core) mb.toNat) ∧
    ∃ v : BitVec 256, VecMasks s c (.vmset md q xb) md [] v ∧ ∀ n, n < 256 → v.getLsbD n =
      if 64 * q.toNat ≤ n ∧ n < 64 * q.toNat + 64 then (c.vals.headD 0#64).getLsbD (n - 64 * q.toNat)
      else (maskAt (coreOf s c.core) md.toNat).getLsbD n :=
  ⟨.of_word turn _, .of_word turn _, .of_word turn _, .of_word turn _, _, .of_word turn _, fun _ hn => mset_getLsbD _ _ q hn⟩

/-! Words that answer a scalar register. -/

theorem maskPop_eq (m : BitVec 256) : maskPop m = ((List.range 256).filter (fun n => m.getLsbD n)).length := by
  have key : ∀ (l : List Nat) (b : Nat), l.foldl (fun n i => if m.getLsbD i then n + 1 else n) b =
      b + (l.filter (fun n => m.getLsbD n)).length := fun l => by
    induction l with
    | nil => intro b; rfl
    | cons i l ih =>
      intro b
      rw [List.foldl_cons, ih, List.filter_cons]
      split
      · rw [List.length_cons]; omega
      · rfl
  rw [maskPop, upFrom_zero, key, Nat.zero_add]

theorem vecFill_none (s : State) (c : Cmd) (v : Word) : vecFill s c v none = modCtx s c.core .C (fun x => x.fill c.id 0 v none []) := rfl

/-- A word that answers a scalar register alone. -/
theorem vec_answers (turn : VecTurn s c) {v : Word} (hr : runVector s c = vecFill s c v none) :
    ∃ t, VecRan s c t ∧ Filled s t c.core .C c.id v none := by
  have hx := turn.completes
  rw [hr] at hx
  refine ⟨_, ⟨⟨hx, cmdOf_dropCmd_same _ _, fun n hn => cmdOf_dropCmd_ne _ _ _ hn, fun n hn => ?_⟩, rfl⟩,
    (Filled.of_fill s c.core .C c.id v none []).congr fun k => rfl⟩
  change coreOf (vecFill s c v none) n = _
  rw [vecFill_none, coreOf_modCtx_ne s c.core n .C _ hn]

theorem vec_counts (turn : VecTurn s c) (xd : RegNo) (ma : BitVec 3) (q : BitVec 2) :
    (c.instr = .vmpopc xd ma → ∃ t, VecRan s c t ∧ Filled s t c.core .C c.id
      (w64 ((List.range 256).filter (fun n => (maskAt (coreOf s c.core) ma.toNat).getLsbD n)).length) none) ∧
    (c.instr = .vmget xd ma q → ∃ t, VecRan s c t ∧ Filled s t c.core .C c.id
      ((maskAt (coreOf s c.core) ma.toNat).extractLsb' (64 * q.toNat) 64) none) := by
  refine ⟨fun hi => vec_answers turn ?_, fun hi => vec_answers turn ?_⟩
  · simp only [runVector, hi, maskPop_eq, w64_ofNat]
    rfl
  · simp only [runVector, hi]
    rfl

theorem Cmd.lanes_pos (c : Cmd) : 0 < 256 / c.wide := by
  rcases Nat.eq_zero_or_pos (256 / c.wide) with h | h
  · have := c.wide_rows
    rw [h] at this
    omega
  · exact h

/-- A lane as a scalar register holds it (R234). -/
def extracted (c : Cmd) (x : Nat) : Word :=
  if c.ety = 4 ∨ c.ety = 5 ∨ c.ety = 6 then w64 (patInt (8 * c.wide) x) else w64 (x : Nat)

theorem extracted_eq (hy : c.Typed) (x : Nat) :
    extracted c x = if etInt c.et = true then BitVec.ofInt 64 (patInt (etWidth c.et) x) else BitVec.ofNat 64 x := by
  rw [extracted, hy.width, w64_ofNat]
  exact if_congr (by simp [etInt, c.et_eq, or_assoc]) rfl rfl

/-- A core with other bindings. -/
def Core.withPorts (k : Core) (p : KMap Port) : Core := { k with vec := { k.vec with ports := p } }

/-- VEXTX answers with a lane, and pops the register that it reads. -/
theorem vec_extract (turn : VecTurn s c) (hy : c.Typed) (xd va xb : RegNo) (hi : c.instr = .vextx xd va xb) :
    ∃ t, VecRan s c t ∧ VecPorts s c t [va] [] ∧
      Filled s (setCore t c.core { coreOf t c.core with vec := { (coreOf t c.core).vec with ports := (coreOf s c.core).vec.ports } })
        c.core .C c.id (extracted c (laneAt (coreOf s c.core).sp (srcAt s c va) c.wide ((c.vals.headD 0#64).toNat % (256 / c.wide))))
        none := by
  have hlt : (c.vals.headD 0#64).toNat % (256 / c.wide) < 256 / c.wide := Nat.mod_lt _ c.lanes_pos
  have hpop := (Turned.refl s c).popPorts [va]
  have hcore : coreOf (popPorts s c [va]) c.core =
      (coreOf s c.core).withPorts (poppedPorts (coreOf s c.core).vec.ports (portsAmong c.ports [va])) := by
    have h := hpop.core
    rwa [← popPorts_consts s c [va]] at h
  have hr : runVector s c = vecFill (popPorts s c [va]) c (extracted c
      (laneAt (coreOf s c.core).sp (srcAt s c va) c.wide ((c.vals.headD 0#64).toNat % (256 / c.wide)))) none := by
    simp only [runVector, hi, vecExtx, turn.badGranules, List.contains_nil, Bool.false_eq_true, if_false, turn.sourceLanes hy, hy.lanes,
      getD_map_range, hlt, if_true, ← extracted_eq hy]
    rfl
  generalize extracted c _ = v at hr ⊢
  rw [vecFill_none] at hr
  have ht : coreOf (modCtx (popPorts s c [va]) c.core .C fun x => x.fill c.id 0 v none []) c.core =
      ((coreOf s c.core).setCtx .C ((coreOf s c.core).ctxC.fill c.id 0 v none [])).withPorts
        (poppedPorts (coreOf s c.core).vec.ports (portsAmong c.ports [va])) := by
    rw [coreOf_modCtx_same, ctxOf, hcore]
    rfl
  have hne : ∀ n, n ≠ c.core → coreOf (modCtx (popPorts s c [va]) c.core .C fun x => x.fill c.id 0 v none []) n = coreOf s n :=
    fun n hn => (coreOf_modCtx_ne _ c.core n .C _ hn).trans (hpop.others n hn)
  have hcmds : (modCtx (popPorts s c [va]) c.core .C fun x => x.fill c.id 0 v none []).cmds = s.cmds := hpop.cmds
  have hrest : { modCtx (popPorts s c [va]) c.core .C (fun x => x.fill c.id 0 v none []) with cores := s.cores } = s := hpop.rest
  generalize modCtx (popPorts s c [va]) c.core .C (fun x => x.fill c.id 0 v none []) = u at hr ht hne hcmds hrest
  have hx := turn.completes
  rw [hr] at hx
  refine ⟨dropCmd u c.id, ⟨⟨hx, cmdOf_dropCmd_same _ _, fun n hn => (cmdOf_dropCmd_ne _ _ _ hn).trans ?_, hne⟩, dropCmd_rest hrest⟩,
    fun n => ?_, (Filled.of_fill s c.core .C c.id v none []).congr fun n => ?_⟩
  · rw [cmdOf, cmdOf, hcmds]
  · change kget (coreOf u c.core).vec.ports n = _
    rw [ht]
    exact kget_poppedPorts _ (nodup_portsAmong _ _) _ _
  · by_cases hn : n = c.core
    · subst hn
      rw [coreOf_setCore_same, coreOf_modCtx_same]
      change (coreOf u c.core).withPorts (coreOf s c.core).vec.ports = _
      rw [ht]
      rfl
    · rw [coreOf_setCore_ne _ _ _ _ hn, coreOf_modCtx_ne _ _ _ _ _ hn]
      exact hne n hn

end

end Sys2Proof.Machine
end

section
namespace Sys2Proof.Machine

/-! Selects, permutes, broadcasts, random numbers and conversions (R229 to R231, R234). -/

section
variable {s u : State} {c : Cmd}

theorem sources_reads {sc : Bool} {va vb : RegNo} {l : List RegNo} (h : l = if sc = true then [va] else [va, vb]) :
    ∀ r ∈ (if sc = true then [va] else [va, vb]), r ∈ l := fun _ hr => h ▸ hr

theorem vec_select (turn : VecTurn s c) (hy : c.Typed) (sc : Bool) (vd va vb : RegNo) (m : BitVec 2) :
    VecRow s c (.vsel sc vd va vb m) vd (if sc = true then [va] else [va, vb]) 0 c.wide (fun n =>
      if (maskAt (coreOf s c.core) m.toNat).getLsbD n = true then laneAt (coreOf s c.core).sp (srcAt s c va) c.wide n
      else secondLane s c sc vb n) := by
  intro hi
  have hshape : vShape c.instr = shape2 sc vd va vb .all := by rw [hi]; rfl
  refine ((Turned.refl s c).popPorts (if sc = true then [va] else [va, vb])).lanesLand turn (draws := 0) (whole := upFrom 0 8)
    (fun n => if (maskAt (coreOf s c.core) m.toNat).getLsbD n = true then laneAt (coreOf s c.core).sp (srcAt s c va) c.wide n
      else secondLane s c sc vb n) c.wide_rows
    (turn.target (sources_reads (by rw [hshape]; rfl)) (by rw [hshape]; exact List.mem_singleton_self vd)) ?_ (fun n _ => ?_) hi
  · simp only [runVector, hi, vecSel, turn.badGranules, turn.noteBad, turn.sourceLanes hy, turn.secondLanes hy, hy.lanes,
      upFrom_zero, lanes4_range, List.contains_nil, List.filter_false, List.nil_append, ite_self]
    rw [hy.lb]
    congr 2
    refine List.map_congr_left fun n _ => ?_
    by_cases hm : (maskAt (coreOf s c.core) m.toNat).getLsbD n = true
    · simp [maskOf_eq, hm]
    · simp [maskOf_eq, hm]
  · split <;> rfl

theorem vec_permute (turn : VecTurn s c) (hy : c.Typed) (sc : Bool) (vd va vb : RegNo) (m : BitVec 2) :
    VecRow s c (.vperm sc vd va vb m) vd (if sc = true then [va] else [va, vb]) 0 c.wide (fun n =>
      if (maskAt (coreOf s c.core) m.toNat).getLsbD n = true then
        laneAt (coreOf s c.core).sp (srcAt s c va) c.wide (secondLane s c sc vb n % (256 / c.wide))
      else oldLane s c vd c.wide n) := by
  intro hi
  have hshape : vShape c.instr = shape2 sc vd va vb .all := by rw [hi]; rfl
  refine ((Turned.refl s c).popPorts (if sc = true then [va] else [va, vb])).lanesLand turn (draws := 0)
    (whole := wholeGranules c.lb fun i => (maskOf s c m.toNat).getLsbD i)
    (fun n => if (maskAt (coreOf s c.core) m.toNat).getLsbD n = true then
        laneAt (coreOf s c.core).sp (srcAt s c va) c.wide (secondLane s c sc vb n % (256 / c.wide))
      else oldLane s c vd c.wide n) c.wide_rows
    (turn.target (sources_reads (by rw [hshape]; rfl)) (by rw [hshape]; exact List.mem_singleton_self vd)) ?_ (fun n _ => ?_) hi
  · have hbad : (if sc = true then [va] else [va, vb]).flatMap (badGranules s c) = [] :=
      List.flatMap_eq_nil_iff.2 fun r _ => turn.badGranules r
    simp only [runVector, hi, vecPerm, hbad, turn.noteBad, turn.sourceLanes hy, turn.secondLanes hy, turn.keptLanes hy, hy.lanes,
      upFrom_zero, List.isEmpty_nil, if_true, getD_map_range, Nat.mod_lt _ c.lanes_pos]
    rw [hy.lb]
    congr 2
    exact List.map_congr_left fun n hn => by simp only [List.mem_range.1 hn, if_true]; rfl
  · split <;> rfl

theorem vec_broadcast (turn : VecTurn s c) (hy : c.Typed) (vd xb : RegNo) (m : BitVec 2) :
    VecRow s c (.vbcast vd xb m) vd [] 0 c.wide (fun n =>
      if (maskAt (coreOf s c.core) m.toNat).getLsbD n = true then (c.vals.headD 0#64).toNat else oldLane s c vd c.wide n) := by
  intro hi
  refine (Turned.refl s c).lanesLand turn (draws := 0) (pops := [])
    (whole := wholeGranules c.lb fun i => (maskOf s c m.toNat).getLsbD i)
    (fun n => if (maskAt (coreOf s c.core) m.toNat).getLsbD n = true then (c.vals.headD 0#64).toNat % 2 ^ (8 * c.wide)
      else oldLane s c vd c.wide n) c.wide_rows (fun _ => List.not_mem_nil) ?_ (fun n _ => ?_) hi
  · simp only [runVector, hi, vecBcast, turn.keptLanes hy, hy.lanes, hy.width, upFrom_zero]
    rw [hy.lb]
    congr 2
    exact List.map_congr_left fun n hn => by simp only [getD_map_range, List.mem_range.1 hn, if_true]; rfl
  · split
    · push_cast
      exact Int.emod_emod_of_dvd _ (dvd_refl _)
    · rfl

/-- The random word of a lane of VRNG (R231). -/
def rngAt (s : State) (c : Cmd) (n : Nat) : Word :=
  gmix (coreOf s c.core).vec.rkey (if (c.vals.headD 0#64).toNat / 2 ^ 48 = 0xFFFF then
      runningCtr c.core ((coreOf s c.core).vec.rc + n)
    else w64 ((c.vals.headD 0#64).toNat / 2 ^ 48 * 2 ^ 48 + ((c.vals.headD 0#64).toNat % 2 ^ 48 + n) % 2 ^ 48 : Nat))

theorem vec_random (turn : VecTurn s c) (hy : c.Typed) (vd xb : RegNo) (m : BitVec 2) (used : Nat)
    (hon : (c.vals.headD 0#64).toNat / 2 ^ 48 = 0xFFFF → used = 256 / c.wide)
    (hoff : ¬(c.vals.headD 0#64).toNat / 2 ^ 48 = 0xFFFF → used = 0) :
    VecRow s c (.vrng vd xb m) vd [] used c.wide (fun n =>
      if (maskAt (coreOf s c.core) m.toNat).getLsbD n = false then oldLane s c vd c.wide n
      else if c.ety = 0 then (rnd (.fin false ((rngAt s c n).toNat / 2 ^ 40) (-24)) 0 0 false Rand.zero : Nat)
      else ((rngAt s c n).toNat / 2 ^ (64 - 8 * c.wide) : Nat)) := by
  intro hi
  have hturn : Turned s (if (c.vals.headD 0#64).toNat / 2 ^ 48 = 0xFFFF then
      modCore s c.core (fun k => { k with vec := { k.vec with rc := k.vec.rc + 256 / c.wide } }) else s) c (coreOf s c.core).sp
      ((coreOf s c.core).vec.turned c [] used) := by
    by_cases h : (c.vals.headD 0#64).toNat / 2 ^ 48 = 0xFFFF
    · rw [if_pos h, hon h]
      exact (Turned.refl s c).setVec (fun v => { v with rc := v.rc + 256 / c.wide })
    · rw [if_neg h, hoff h]
      exact Turned.refl s c
  refine hturn.lanesLand turn (whole := wholeGranules c.lb fun i => (maskOf s c m.toNat).getLsbD i)
    (fun n => if (maskAt (coreOf s c.core) m.toNat).getLsbD n = true then
        if c.ety = 0 then rnd (.fin false ((rngAt s c n).toNat / 2 ^ 40) (-24)) 0 0 false Rand.zero
        else randBits (rngAt s c n) (8 * c.wide)
      else oldLane s c vd c.wide n) c.wide_rows (fun _ => List.not_mem_nil) ?_ (fun n _ => ?_) hi
  · simp only [runVector, hi, vecRng, turn.keptLanes hy, hy.lanes, upFrom_zero, c.et_eq, etWidth_laneBytes hy]
    rw [hy.lb]
    congr 2
    exact List.map_congr_left fun n hn => by simp only [getD_map_range, List.mem_range.1 hn, if_true, rngAt, w64_ofNat]; rfl
  · by_cases hm : (maskAt (coreOf s c.core) m.toNat).getLsbD n = true
    · simp only [hm, if_true, Bool.true_eq_false, if_false]
      split <;> rfl
    · simp only [hm, if_true]
      rfl

theorem cvtType_eq (t : BitVec 3) : cvtType t = if t.toNat = 7 then 9 else t.toNat := by
  unfold cvtType
  split
  · next h => rw [if_pos h]
  · next h => rw [if_neg h]

theorem cvtType_typed (t : BitVec 3) : cvtType t ≤ 6 ∨ cvtType t = 9 := by
  rw [cvtType_eq]
  split <;> omega

theorem ite_eq_ite_of {α : Type} {p q : Prop} [Decidable p] [Decidable q] {x y : α} (z w : α) (h : p ↔ q) (hx : q → x = y)
    (hz : z = w) : (if p then x else z) = if q then y else w := by
  by_cases hq : q
  · rw [if_pos (h.2 hq), if_pos hq, hx hq]
  · rw [if_neg (mt h.1 hq), if_neg hq, hz]

theorem and_bool_iff (b : Bool) (p q r : Prop) [Decidable p] [Decidable q] [Decidable r] :
    (b && if p then decide q && decide r else true) = true ↔ b = true ∧ (p → q ∧ r) := by
  by_cases hp : p <;> simp [hp]

theorem vec_convert (turn : VecTurn s c) (hy : c.Typed) (t : BitVec 3) (vd va : RegNo) (p : BitVec 2) (sat : Bool) (rm : BitVec 3)
    (m : BitVec 2) {ty wb n : Nat} (hty : ty = if t.toNat = 7 then 9 else t.toNat) (hwb : wb = etWidth ty / 8)
    (hn : n = if wb ≤ c.wide then 256 / c.wide else 256 / wb) :
    VecRow s c (.vcvt t vd va p sat rm m) vd [va] (drawnIf c (rm.toNat = 4) n) wb (fun j =>
      if (maskAt (coreOf s c.core) m.toNat).getLsbD j = true ∧ (wb ≤ c.wide → p.toNat * n ≤ j ∧ j < p.toNat * n + n) then
        (convert c.ety (if (if wb ≤ c.wide then j - p.toNat * n else p.toNat * n + j) < 256 / c.wide then
            laneAt (coreOf s c.core).sp (srcAt s c va) c.wide (if wb ≤ c.wide then j - p.toNat * n else p.toNat * n + j) else 0)
          ty rm.toNat sat (if rm.toNat = 4 then drawAt s c (if wb ≤ c.wide then j - p.toNat * n else j) else 0) c.bits : Nat)
      else oldLane s c vd wb j) := by
  intro hi
  rw [← cvtType_eq] at hty
  have hrows : wb * (256 / wb) = 256 := by
    rw [hwb, hty, etWidth_laneBytes (cvtType_typed t), Nat.mul_div_cancel_left _ (by decide)]
    exact laneBytes_rows.1
  have hdraw := Turned.drawZ (s := s) (c := c) (rm.toNat == 4) n
  rw [drawnIf_congr c (q := rm.toNat = 4) beq_iff_eq] at hdraw
  have hz := drawZ_lanes s c (rm.toNat == 4) n
  have hreads : (vShape c.instr).reads = [va] ∧ (vShape c.instr).writes = [vd] := by rw [hi]; exact ⟨rfl, rfl⟩
  refine (hdraw.popRow [va]).lanesLand turn
    (whole := wholeGranules wb fun j => (maskOf s c m.toNat).getLsbD j &&
      (if wb ≤ c.wide then decide (p.toNat * n ≤ j) && decide (j < p.toNat * n + n) else true))
    (fun j => if (maskAt (coreOf s c.core) m.toNat).getLsbD j = true ∧ (wb ≤ c.wide → p.toNat * n ≤ j ∧ j < p.toNat * n + n) then
        convert c.ety (if (if wb ≤ c.wide then j - p.toNat * n else p.toNat * n + j) < 256 / c.wide then
            laneAt (coreOf s c.core).sp (srcAt s c va) c.wide (if wb ≤ c.wide then j - p.toNat * n else p.toNat * n + j) else 0)
          ty rm.toNat sat (if rm.toNat = 4 then drawAt s c (if wb ≤ c.wide then j - p.toNat * n else j) else 0) c.bits
      else oldLane s c vd wb j) hrows
    (turn.target (fun r hr => hreads.1 ▸ hr) (hreads.2 ▸ List.mem_singleton_self vd)) ?_ (fun j _ => ?_) hi
  · simp only [runVector, hi, vecCvt, ← hty, ← hwb, hy.lb, hy.lanes, decide_eq_true_eq, ← hn, turn.badGranules,
      List.isEmpty_nil, if_true, hdraw.noteBad turn.sound]
    have hsrc := turn.sourceLanes hy va
    rw [hy.lb] at hsrc
    rw [upFrom_zero]
    congr 2
    refine List.map_congr_left fun j hj => ?_
    have hj := List.mem_range.1 hj
    refine ite_eq_ite_of _ _ (and_bool_iff (maskOf s c m.toNat |>.getLsbD j) ..) (fun hact => ?_) ?_
    · have hk : (if wb ≤ c.wide then j - p.toNat * n else j) < n := by
        split
        · next h => have := hact.2 h; omega
        · next h => rwa [hn, if_neg h]
      rw [hz, getD_map_range, if_pos hk, hsrc, getD_map_range, c.et_eq, c.rz_eq]
      simp only [beq_iff_eq]
    · rw [turn.oldLanes (Nat.le_of_eq hrows), getD_map_range, if_pos hj]
  · split <;> rfl

/-! Words that set the vector state alone (R231, R238). -/

theorem vec_sets (turn : VecTurn s c) {g : Core → Core} (hr : runVector s c = modCore s c.core g) :
    ∃ t, VecRan s c t ∧ coreOf t c.core = g (coreOf s c.core) := by
  have hx := turn.completes
  rw [hr] at hx
  exact ⟨_, ⟨⟨hx, cmdOf_dropCmd_same _ _, fun n hn => cmdOf_dropCmd_ne _ _ _ hn, fun n hn => coreOf_modCore_ne s c.core n g hn⟩, rfl⟩,
    coreOf_modCore_same s c.core g⟩

theorem wbits_above (w : Word) : wbits w 63 48 = w.toNat / 2 ^ 48 :=
  Nat.mod_eq_of_lt (Nat.div_lt_of_lt_mul w.isLt)

theorem wbits_offset (w : Word) : wbits w 19 0 = w.toNat % 2 ^ 20 := by simp [wbits]

theorem vec_keys (turn : VecTurn s c) (xa xb : RegNo) :
    (c.instr = .vkey xb → ∃ t, VecRan s c t ∧ coreOf t c.core =
      { coreOf s c.core with vec := { (coreOf s c.core).vec with rkey := c.vals.headD 0#64 } }) ∧
    (c.instr = .vwalk xa xb → ∃ t, VecRan s c t ∧ coreOf t c.core = { coreOf s c.core with vec := { (coreOf s c.core).vec with
      nrow := (c.vals.headD 0#64).toNat / 2 ^ 48, tof := (c.vals.headD 0#64).toNat % 2 ^ 20,
      strd := (c.vals.getD 1 0#64).toNat / 2 ^ 32, sof := (c.vals.getD 1 0#64).toNat % 2 ^ 20, cr := 0, cc := 0 } }) := by
  refine ⟨fun hi => vec_sets turn (g := fun k => { k with vec := { k.vec with rkey := c.vals.headD 0#64 } })
    (by simp only [runVector, hi]), fun hi => ?_⟩
  rw [← wbits_above, ← wbits_offset, ← wbits_offset, ← wbits_high]
  exact vec_sets turn (g := fun k => { k with vec := k.vec.setWalk (c.vals.headD 0#64) (c.vals.getD 1 0#64) })
    (by simp only [runVector, hi]; rfl)

end

end Sys2Proof.Machine
end

section
namespace Sys2Proof.Machine

/-! Segmented reductions and scans (R232). -/

/-- The running result at a lane: it starts again where a segment does. -/
def foldAt (op : Nat → Nat → Nat → Nat) (starts : Nat → Bool) (x z : Nat → Nat) : Nat → Nat
  | 0 => x 0
  | n + 1 => if starts (n + 1) = true then x (n + 1) else op (foldAt op starts x z n) (x (n + 1)) (z (n + 1))

theorem map_range_shift (g : Nat → Nat) (i n : Nat) :
    (List.range (n + 1)).map (fun j => g (i + j)) = g i :: (List.range n).map (fun j => g (i + 1 + j)) := by
  rw [List.range_succ_eq_map, List.map_cons, List.map_map]
  exact congrArg _ (List.map_congr_left fun j _ => by rw [show i + 1 + j = i + Nat.succ j by omega]; rfl)

theorem scanLanes_from (op : Nat → Nat → Nat → Nat) (starts : Nat → Bool) (x z : Nat → Nat) (i n : Nat) :
    scanLanes op starts (i + 1) (foldAt op starts x z i) ((List.range n).map (fun j => x (i + 1 + j)))
      ((List.range n).map (fun j => z (i + 1 + j))) = (List.range n).map (fun j => foldAt op starts x z (i + 1 + j)) := by
  induction n generalizing i with
  | zero => rfl
  | succ n ih =>
    rw [map_range_shift x, map_range_shift z, map_range_shift (foldAt op starts x z), scanLanes, foldAt, ← ih (i + 1), foldAt]
    simp only [Nat.succ_ne_zero, false_or]

theorem scanLanes_range (op : Nat → Nat → Nat → Nat) (starts : Nat → Bool) (x z : Nat → Nat) (n : Nat) :
    scanLanes op starts 0 0 ((List.range n).map x) ((List.range n).map z) = (List.range n).map (foldAt op starts x z) := by
  cases n with
  | zero => rfl
  | succ n =>
    have h : ∀ g : Nat → Nat, (List.range (n + 1)).map g = g 0 :: (List.range n).map (fun j => g (0 + 1 + j)) := fun g => by
      rw [← map_range_shift g 0 n]
      exact List.map_congr_left fun j _ => by rw [Nat.zero_add]
    rw [h x, h z, h (foldAt op starts x z), ← scanLanes_from, scanLanes]
    simp only [true_or, if_true, foldAt]

/-- What each lane takes as results are spread from a segment's last lane down. -/
theorem spreadBack_eq (starts : Nat → Bool) (a v : Nat → Nat) (i : Nat) (cur : Option Nat) (hi : v i = cur.getD (a i))
    (hv : ∀ j, j < i → v j = if starts (j + 1) = true then a j else v (j + 1)) :
    (spreadBack starts i cur ((List.range (i + 1)).map a).reverse).reverse = (List.range (i + 1)).map v := by
  induction i generalizing cur with
  | zero =>
    simp [spreadBack, hi]
  | succ i ih =>
    have hnext := ih (if starts (i + 1) = true then none else some (v (i + 1))) (by
      rw [hv i (Nat.lt_succ_self i)]
      split <;> rfl) fun j hj => hv j (Nat.lt_succ_of_lt hj)
    rw [List.range_succ, List.map_append, List.map_append, List.reverse_append, ← hnext]
    simp only [List.map_cons, List.map_nil, List.reverse_cons, List.reverse_nil, List.nil_append, List.cons_append, spreadBack,
      Nat.succ_ne_zero, false_or, Nat.add_sub_cancel, ← hi]

section
variable {s : State} {c : Cmd}

/-- A segment starts at a lane. -/
def VecOpens (s : State) (c : Cmd) (m : BitVec 2) (n : Nat) : Prop :=
  n = 0 ∨ (maskAt (coreOf s c.core) m.toNat).getLsbD n = true

/-- j is the last lane of lane n's segment. -/
def VecLast (s : State) (c : Cmd) (m : BitVec 2) (n j : Nat) : Prop :=
  n ≤ j ∧ j < 256 / c.wide ∧ (∀ i, n < i → i ≤ j → ¬VecOpens s c m i) ∧ (j + 1 = 256 / c.wide ∨ VecOpens s c m (j + 1))

def VecSum (s : State) (c : Cmd) (u v n : Nat) (r : Int) : Prop :=
  if c.ety ≤ 3 then r = roundLane s c ((decNum c.ety u).add (decNum c.ety v)) n else r = ((u : Int) + v) % 2 ^ (8 * c.wide)

def VecFolds (s : State) (c : Cmd) (op : RegNo → RegNo → BitVec 2 → Instr) (spreads rounds : Bool)
    (f : Nat → Nat → Nat → Int → Prop) : Prop := ∀ vd va m,
  ∃ acc : Nat → Nat, (∀ n, VecOpens s c m n → acc n = laneAt (coreOf s c.core).sp (srcAt s c va) c.wide n) ∧
    (∀ n, n + 1 < 256 / c.wide → ¬VecOpens s c m (n + 1) →
      f (acc n) (laneAt (coreOf s c.core).sp (srcAt s c va) c.wide (n + 1)) (n + 1) (acc (n + 1))) ∧
    ∀ end_ : Nat → Nat, (∀ n, n < 256 / c.wide → if spreads = true then VecLast s c m n (end_ n) else end_ n = n) →
      VecRow s c (op vd va m) vd [va] (drawnIf c (rounds = true ∧ c.mode = 4 ∧ c.ety ≤ 3) (256 / c.wide)) c.wide
        (fun n => acc (end_ n))

theorem VecLast.unique {m : BitVec 2} {n i j : Nat} (hi : VecLast s c m n i) (hj : VecLast s c m n j) : i = j := by
  have key : ∀ {a b : Nat}, VecLast s c m n a → VecLast s c m n b → ¬a < b := fun {a b} ha hb hlt => by
    obtain ⟨hna, -, -, hend⟩ := ha
    obtain ⟨-, hbl, hin, -⟩ := hb
    rcases hend with he | ho
    · omega
    · exact hin (a + 1) (by omega) hlt ho
  have := key hi hj
  have := key hj hi
  omega

theorem VecLast.opened {m : BitVec 2} {n j : Nat} (h : VecLast s c m n j) (ho : VecOpens s c m (n + 1)) : j = n := by
  obtain ⟨hn, -, hin, -⟩ := h
  by_contra hne
  exact hin (n + 1) (Nat.lt_succ_self n) (by omega) ho

theorem VecLast.inside {m : BitVec 2} {n j : Nat} (h : VecLast s c m n j) (hn1 : n + 1 < 256 / c.wide)
    (ho : ¬VecOpens s c m (n + 1)) : VecLast s c m (n + 1) j := by
  obtain ⟨hn, hl, hin, hend⟩ := h
  refine ⟨?_, hl, fun i h1 h2 => hin i (by omega) h2, hend⟩
  by_contra hne
  have : j = n := by omega
  subst this
  exact hend.elim (by omega) ho

theorem spread_eq (m : BitVec 2) (acc end_ : Nat → Nat) (hl : ∀ n, n < 256 / c.wide → VecLast s c m n (end_ n)) :
    (spreadBack (fun i => (maskAt (coreOf s c.core) m.toNat).getLsbD i) (256 / c.wide - 1) none
      ((List.range (256 / c.wide)).map acc).reverse).reverse = (List.range (256 / c.wide)).map (fun n => acc (end_ n)) := by
  have hp := c.lanes_pos
  have hopen : ∀ j, VecOpens s c m (j + 1) ↔ (maskAt (coreOf s c.core) m.toNat).getLsbD (j + 1) = true := fun j =>
    or_iff_right (Nat.succ_ne_zero j)
  have := spreadBack_eq (fun i => (maskAt (coreOf s c.core) m.toNat).getLsbD i) acc (fun n => acc (end_ n)) (256 / c.wide - 1) none
    (by
      obtain ⟨h1, h2, -⟩ := hl (256 / c.wide - 1) (by omega)
      rw [show end_ (256 / c.wide - 1) = 256 / c.wide - 1 by omega]
      rfl)
    (fun j hj => by
      split
      · next h => rw [(hl j (by omega)).opened ((hopen j).2 h)]
      · next h => rw [((hl j (by omega)).inside (by omega) (mt (hopen j).1 h)).unique (hl (j + 1) (by omega))])
  rwa [Nat.sub_add_cancel hp] at this

theorem VecFolds.of_scan (turn : VecTurn s c) (hy : c.Typed) {op : RegNo → RegNo → BitVec 2 → Instr} {spreads rounds : Bool}
    (fm : Cmd → Nat → Nat → Nat → Nat) {f : Nat → Nat → Nat → Int → Prop}
    (hf : ∀ u v n, f u v n (fm c u v (zLane s c rounds n)))
    (hrun : ∀ vd va m, c.instr = op vd va m → runVector s c = vecScan spreads rounds fm vd va m s c := by
      intro _ _ _ h; simp only [runVector, h])
    (hshape : ∀ vd va m, vShape (op vd va m) = ⟨[va], [vd], .floatInt⟩ := by intros; rfl) : VecFolds s c op spreads rounds f := by
  intro vd va m
  refine ⟨foldAt (fm c) (fun i => (maskAt (coreOf s c.core) m.toNat).getLsbD i) (laneAt (coreOf s c.core).sp (srcAt s c va) c.wide)
    (zLane s c rounds), fun n ho => ?_, fun n _ ho => ?_, fun end_ hend hi => ?_⟩
  · cases n with
    | zero => rfl
    | succ n => rw [foldAt, if_pos (ho.resolve_left (Nat.succ_ne_zero n))]
  · rw [foldAt, if_neg fun h => ho (.inr h)]
    exact hf _ _ _
  · have hdraw := Turned.drawZ (s := s) (c := c) (rounds && c.rm == 4 && etFloat c.et) c.lanes
    rw [drawnIf_congr c (draws_iff c rounds)] at hdraw
    have hz := drawZ_lanes s c (rounds && c.rm == 4 && etFloat c.et) c.lanes
    simp only [draws_iff c rounds] at hz
    rw [hy.lanes] at hdraw hz
    have hsh : vShape c.instr = ⟨[va], [vd], .floatInt⟩ := by rw [hi, hshape]
    refine (hdraw.popRow [va]).lanesLand turn (whole := upFrom 0 8)
      (fun n => foldAt (fm c) (fun i => (maskAt (coreOf s c.core) m.toNat).getLsbD i) (laneAt (coreOf s c.core).sp (srcAt s c va) c.wide)
        (zLane s c rounds) (end_ n)) c.wide_rows
      (turn.target (fun r hr => by rw [hsh]; exact hr) (by rw [hsh]; exact List.mem_singleton_self vd)) ?_ (fun _ _ => rfl) hi
    rw [hrun _ _ _ hi, vecScan]
    simp only [turn.badGranules, List.isEmpty_nil, if_true, hdraw.noteBad turn.sound, turn.sourceLanes hy, hy.lanes, hz]
    rw [hy.lb, show (fun i => if c.Draws rounds then drawAt s c i else 0) = zLane s c rounds from rfl, scanLanes_range]
    cases spreads with
    | true =>
      simp only [if_true]
      rw [← spread_eq m _ end_ hend]
      rfl
    | false =>
      simp only [Bool.false_eq_true, if_false] at hend ⊢
      congr 2
      exact List.map_congr_left fun n hn => by rw [hend n (List.mem_range.1 hn)]; rfl

theorem laneSum_spec (hy : c.Typed) (u v n : Nat) : VecSum s c u v n (laneSum c u v (zLane s c true n)) := by
  unfold VecSum
  rw [laneSum]
  by_cases hf : c.ety ≤ 3
  · rw [if_pos hf, laneArith_float hf]
  · rw [if_neg hf, laneArith_int hy (by omega)]
    have hp : (0 : Int) < ((2 ^ (8 * c.wide) : Nat) : Int) := by exact_mod_cast Nat.two_pow_pos _
    rw [intPat, Int.toNat_of_nonneg (Int.emod_nonneg _ (Int.ne_of_gt hp)), Int.natCast_pow]
    exact (patInt_modEq _ u).add (patInt_modEq _ v)

theorem vec_folds (turn : VecTurn s c) (ht : c.ety ≤ 6) :
    VecFolds s c .vrsum true true (VecSum s c) ∧ VecFolds s c .vscan false true (VecSum s c) ∧
    VecFolds s c .vrmax true false (fun u v _ r => VecMost c u v r) ∧ VecFolds s c .vrmin true false (fun u v _ r => VecLeast c u v r) ∧
    VecFolds s c .vscanx false false (fun u v _ r => VecMost c u v r) := by
  have hy : c.Typed := .inl ht
  exact ⟨.of_scan turn hy laneSum (laneSum_spec hy), .of_scan turn hy laneSum (laneSum_spec hy),
    .of_scan turn hy (fun c x y _ => laneMax c x y) fun u v _ => (vecMost_iff hy u v _).2 rfl,
    .of_scan turn hy (fun c x y _ => laneMin c x y) fun u v _ => (vecLeast_iff hy u v _).2 rfl,
    .of_scan turn hy (fun c x y _ => laneMax c x y) fun u v _ => (vecMost_iff hy u v _).2 rfl⟩

end

end Sys2Proof.Machine
end

section
namespace Sys2Proof.Machine

/-! Rows loaded and stored (R236). -/

section
variable {s u : State} {c : Cmd} {m : Memory} {v w : Vec}

theorem getD_memRead (m : Memory) (a n i : Nat) (h : i < n) : (memRead m a n).getD i 0#8 = memByte m (a + i) := by
  rw [memRead_eq, List.getD_eq_getElem?_getD, List.getElem?_map, List.getElem?_range h]
  rfl

theorem memByte_copied (m p : Memory) (a o x : Nat) :
    memByte (memWrite m a (memRead p o 256)) x = if a ≤ x ∧ x < a + 256 then memByte p (o + (x - a)) else memByte m x := by
  rw [memByte_memWrite, memRead_length]
  split
  · exact getD_memRead _ _ _ _ (by omega)
  · rfl

theorem vecPlace_one (c : Cmd) (n o : Nat) : vecPlace c [⟨.sp n, o, o + 256⟩] = (n, o) := rfl

theorem vec_load (turn : VecTurn s c) {vd xb : RegNo} {n o : Nat} (hi : c.instr = .vldr vd xb) (hr : c.reads = [⟨.sp n, o, o + 256⟩]) :
    ∃ t, VecRan s c t ∧ VecRest s c t (coreOf s c.core).vec [] [vd] 0 ∧ ∀ x, memByte (coreOf t c.core).sp x =
      if dstAt s c vd ≤ x ∧ x < dstAt s c vd + 256 then memByte (coreOf s n).sp (o + (x - dstAt s c vd))
      else memByte (coreOf s c.core).sp x := by
  have hrun : runVector s c = writeRow s c vd (memRead (coreOf s n).sp o 256) [] (upFrom 0 8) := by
    simp only [runVector, hi, vecLdr, hr, vecPlace_one, turn.sound, List.contains_nil, nearPattern_settled turn.settled, Bool.or_self,
      List.filter_false, List.foldl_nil, viewBytes_settled turn.settled]
    by_cases hn : n = c.core
    · rw [if_pos hn, spView, viewBytes_settled (hn ▸ turn.settled), ite_self]
    · rw [if_neg hn]
  obtain ⟨t, hran, -, hrest, hsp⟩ := (Turned.refl s c).rowLands turn (w := (coreOf s c.core).vec) (pops := []) (draws := 0) rfl rfl
    (fun _ => List.not_mem_nil) hrun
  exact ⟨t, hran, hrest, fun x => by rw [hsp, memByte_copied]⟩

/-- The access of a granule that a VSTR sends to another core's scratchpad (R146, R223). -/
def granuleStore (u : State) (c : Cmd) (n o : Nat) (row : List Byte) (g : Nat) : Access :=
  { id := u.nextId + g, core := c.core, ctx := some .C, seq := c.seq, slot := c.slot, kind := .vec, cls := 16,
    ea := c.vals.headD 0#64 + BitVec.ofNat 64 (32 * g), dest := .sp n (o + 32 * g), size := ((row.drop (32 * g)).take 32).length,
    data := (row.drop (32 * g)).take 32, nearAt := u.nearNext + g, notice := none, denied := false, retry := none, refused := false,
    granted := false, since := 0, sync := 0, part := c.part, asid := c.asid, gen := c.gen, cmd := c.id, store := 0 }

/-- A state with a row's granules on their way. -/
def granulesSent (u : State) (c : Cmd) (n o : Nat) (row : List Byte) (k : Nat) : State :=
  { u with acc := u.acc ++ (List.range k).map (granuleStore u c n o row), nextId := u.nextId + k, nearNext := u.nearNext + k }

theorem granulesSent_foldl (u : State) (c : Cmd) (n o : Nat) (row : List Byte) (k : Nat) :
    (List.range k).foldl (fun s g => vecStore s c (c.vals.headD 0#64 + BitVec.ofNat 64 (32 * g)) n (o + 32 * g)
      ((row.drop (32 * g)).take 32) false) u = granulesSent u c n o row k := by
  induction k with
  | zero =>
    rw [granulesSent, List.range_zero, List.map_nil, List.append_nil]
    rfl
  | succ k ih =>
    rw [List.range_succ, List.foldl_append, ih, granulesSent, granulesSent, List.range_succ, List.map_append, ← List.append_assoc]
    rfl

theorem granuleStore_spec {p : Memory} {a : Nat} {row : List Byte} (hr : row = memRead p a 256) (n o : Nat) {g : Nat} (hg : g < 8) :
    (granuleStore u c n o row g).size = 32 ∧ (granuleStore u c n o row g).data = memRead p (a + 32 * g) 32 := by
  have hd : (row.drop (32 * g)).take 32 = memRead p (a + 32 * g) 32 := by
    rw [hr, memRead_part _ _ (by omega)]
  exact ⟨by rw [granuleStore, hd, memRead_length], hd⟩

theorem VecPorts.of_turned (h : Turned s u c m ((coreOf s c.core).vec.turned c pops draws)) (n : Nat) :
    VecPorts s c (dropCmd u n) pops [] := fun k => by
  change kget (coreOf u c.core).vec.ports k = _
  rw [h.vec, kget_turned]
  rfl

/-- A row stored in the own scratchpad: its granules lose their marks (R221). -/
def rowStored (u : State) (c : Cmd) (o : Nat) (row : List Byte) : State :=
  modCore (evictRow u c o) c.core (fun k => { k with sp := memWrite k.sp o row, spBad := clearMarks k.spBad o 256 })

theorem Turned.rowStored (h : Turned s u c m v) (hs : (coreOf s c.core).spBad = []) (o : Nat) (row : List Byte) :
    Turned s (rowStored u c o row) c (memWrite m o row) v := by
  have he := h.evictRow o
  have hb := (he.spBad c.core).trans hs
  refine he.step _ ?_ fun x hx => hx
  have hv := he.vec
  have hm := he.sp
  generalize coreOf (Machine.evictRow u c o) c.core = k at hv hm hb ⊢
  rw [← hv, ← hm, hb]
  show ({ k with sp := _, spBad := [] } : Core) = _
  rw [← hb]

theorem vec_store_own (turn : VecTurn s c) {vd xb : RegNo} {o : Nat} (hi : c.instr = .vstr vd xb)
    (hw : c.writes = [⟨.sp c.core, o, o + 256⟩]) :
    ∃ t, VecRan s c t ∧ VecRest s c t (coreOf s c.core).vec [vd] [] 0 ∧ ∀ x, memByte (coreOf t c.core).sp x =
      if o ≤ x ∧ x < o + 256 then memByte (coreOf s c.core).sp (srcAt s c vd + (x - o)) else memByte (coreOf s c.core).sp x := by
  have hpop : Turned s (popPorts s c [vd]) c _ ((coreOf s c.core).vec.turned c [vd] 0) := (Turned.refl s c).popPorts [vd]
  have hland := hpop.rowStored (turn.sound c.core) o (memRead (coreOf s c.core).sp (srcAt s c vd) 256)
  have hrun : runVector s c = Machine.rowStored (popPorts s c [vd]) c o (memRead (coreOf s c.core).sp (srcAt s c vd) 256) := by
    simp only [runVector, hi, vecStr, hw, vecPlace_one, turn.badGranules, turn.noteBad, turn.readRow, if_true, List.map_nil, List.foldl_nil,
      Machine.rowStored]
  have hsp := hland.sp
  have hran := hland.ends turn hrun
  have hrest := hland.vecRest c.id rfl (VecPorts.of_turned hland c.id) rfl
  exact ⟨_, hran, hrest, fun x => (congrArg (fun m => memByte m x) hsp :).trans (memByte_copied _ _ _ _ _)⟩

theorem vec_store_far (turn : VecTurn s c) {vd xb : RegNo} {n o : Nat} (hi : c.instr = .vstr vd xb)
    (hw : c.writes = [⟨.sp n, o, o + 256⟩]) (hn : n ≠ c.core) :
    ∃ t, VecEnds s c t ∧ VecRest s c t (coreOf s c.core).vec [vd] [] 0 ∧ (coreOf t c.core).sp = (coreOf s c.core).sp ∧
      { t with cores := s.cores, cmds := s.cmds, acc := s.acc, nextId := s.nextId, nearNext := s.nearNext } = s ∧
      t.nextId = s.nextId + 8 ∧ t.nearNext = s.nearNext + 8 ∧ ∃ l, t.acc = s.acc ++ l ∧ l.length = 8 ∧
        ∀ g x, l[g]? = some x → x.id = s.nextId + g ∧ x.nearAt = s.nearNext + g ∧ x.kind = .vec ∧ x.core = c.core ∧
          x.ctx = some .C ∧ x.cmd = c.id ∧ x.seq = c.seq ∧ x.slot = c.slot ∧ x.dest = .sp n (o + 32 * g) ∧ x.size = 32 ∧
          x.data = memRead (coreOf s c.core).sp (srcAt s c vd + 32 * g) 32 := by
  have hpop : Turned s (popPorts s c [vd]) c _ ((coreOf s c.core).vec.turned c [vd] 0) := (Turned.refl s c).popPorts [vd]
  obtain ⟨row, hrow⟩ : ∃ row, row = memRead (coreOf s c.core).sp (srcAt s c vd) 256 := ⟨_, rfl⟩
  have hrun : runVector s c = granulesSent (popPorts s c [vd]) c n o row 8 := by
    simp only [runVector, hi, vecStr, hw, vecPlace_one, turn.badGranules, turn.noteBad, turn.readRow, if_neg hn, List.contains_nil, upFrom_zero,
      ← hrow, ← granulesSent_foldl]
  have hx := turn.completes
  rw [hrun] at hx
  have hacc : (popPorts s c [vd]).acc = s.acc := (congrArg State.acc hpop.rest :)
  have hid : (popPorts s c [vd]).nextId = s.nextId := (congrArg State.nextId hpop.rest :)
  have hnear : (popPorts s c [vd]).nearNext = s.nearNext := (congrArg State.nearNext hpop.rest :)
  have hcmd : ∀ n, cmdOf (popPorts s c [vd]) n = cmdOf s n := fun n => by rw [cmdOf, cmdOf, hpop.cmds]
  have hall := congrArg (fun t : State => { t with acc := s.acc, nextId := s.nextId, nearNext := s.nearNext, cmds := s.cmds }) hpop.rest
  have hrest := hpop.vecRest c.id rfl (VecPorts.of_turned hpop c.id) rfl
  have hsp := hpop.sp
  have hothers := hpop.others
  generalize popPorts s c [vd] = u at hx hacc hid hnear hcmd hall hrest hsp hothers
  refine ⟨dropCmd (granulesSent u c n o row 8) c.id,
    ⟨hx, cmdOf_dropCmd_same _ _, fun k hk => (cmdOf_dropCmd_ne _ _ _ hk).trans (hcmd k), hothers⟩, hrest, hsp, hall,
    congrArg (· + 8) hid, congrArg (· + 8) hnear, (List.range 8).map (granuleStore u c n o row), congrArg (· ++ _) hacc, by simp,
    fun g x hgx => ?_⟩
  rw [List.getElem?_map] at hgx
  by_cases hg : g < 8
  · rw [List.getElem?_range hg] at hgx
    obtain rfl : granuleStore u c n o row g = x := Option.some.inj hgx
    obtain ⟨hsize, hdata⟩ := granuleStore_spec (u := u) (c := c) hrow n o hg
    exact ⟨congrArg (· + g) hid, congrArg (· + g) hnear, rfl, rfl, rfl, rfl, rfl, rfl, rfl, hsize, hdata⟩
  · rw [List.getElem?_eq_none (by simpa using hg)] at hgx
    exact absurd hgx (by simp)

end

end Sys2Proof.Machine
end

section
namespace Sys2Proof.Machine

/-! A row gathered by a walk (R239). -/

section
variable {s u : State} {c : Cmd}

theorem walkCells_length (s : State) (core esz lanes fuel : Nat) : ∀ (w : Vec) (n : Nat) (cells : List (Nat × Bool))
    (lens : List (Nat × Nat)), cells.length = n → n ≤ lanes → (walkCells s core w esz lanes fuel n cells lens).1.length ≤ lanes := by
  induction fuel with
  | zero => intro w n cells lens hc hn; exact hc ▸ hn
  | succ fuel ih =>
    intro w n cells lens hc hn
    rw [walkCells]
    split
    · next h =>
      dsimp only
      split
      · exact ih _ _ _ _ hc hn
      · exact ih _ _ _ _ (by rw [List.length_append, hc]; rfl) h.1
    · exact hc ▸ hn

theorem walkOf_length (s : State) (c : Cmd) (v : Vec) : (walkOf s c v).1.length ≤ 256 / c.wide := by
  have hb : laneBytes (wbits c.vtype 3 0) = c.wide := congrArg laneBytes c.et_eq
  unfold walkOf
  rw [hb]
  exact walkCells_length s c.core _ _ _ v 0 [] [] rfl (Nat.zero_le _)

/-- What a lane of a VLDW takes. -/
def walkLane (m : Memory) (b : Nat) (cells : List (Nat × Bool)) (j : Nat) : Nat :=
  match cells[j]? with
  | some x => leNat (memRead m x.1 b)
  | none => 0

/-- A lane's bit of m3. -/
def walkBit (lanes : Nat) (cells : List (Nat × Bool)) (j : Nat) : Bool :=
  match cells[j]? with
  | some x => x.2
  | none => decide (j = cells.length) && decide (cells.length < lanes)

theorem walkBit_iff (lanes : Nat) (cells : List (Nat × Bool)) (j : Nat) : walkBit lanes cells j = true ↔
    (∃ x, cells[j]? = some x ∧ x.2 = true) ∨ (j = cells.length ∧ cells.length < lanes) := by
  unfold walkBit
  split
  · next x h =>
    have hj := (List.getElem?_eq_some_iff.1 h).1
    simp [h]
    omega
  · next h => simp [h]

theorem gathered_eq (m : Memory) (b lanes : Nat) (cells : List (Nat × Bool)) (h : cells.length ≤ lanes) :
    cells.map (fun x => leNat (memRead m x.1 b)) ++ List.replicate (lanes - cells.length) 0 =
      (List.range lanes).map (walkLane m b cells) := by
  refine List.ext_getElem? fun j => ?_
  rw [List.getElem?_append, List.length_map, List.getElem?_map, List.getElem?_map, List.getElem?_replicate]
  by_cases hj : j < cells.length
  · rw [if_pos hj, List.getElem?_range (by omega), List.getElem?_eq_getElem hj]
    simp only [Option.map_some, walkLane, List.getElem?_eq_getElem hj]
  · rw [if_neg hj]
    by_cases hl : j < lanes
    · rw [if_pos (by omega), List.getElem?_range hl]
      simp only [Option.map_some, walkLane, List.getElem?_eq_none (Nat.not_lt.1 hj)]
    · rw [if_neg (by omega), List.getElem?_eq_none (by simpa using hl)]
      rfl

/-- An element that lies in the scratchpad, as the unit reads it. -/
theorem element_eq (turn : VecTurn s c) {off b : Nat} (h : off + b ≤ 786432) :
    leNat ((upFrom 0 b).map (fun i => if decide (off + i < Config.spBytes) = true then (spView s c.core (off + i) 1).headD 0#8 else 0#8)) =
      leNat (memRead (coreOf s c.core).sp off b) := by
  rw [upFrom_zero, memRead_eq]
  refine congrArg _ (List.map_congr_left fun i hi => ?_)
  have hi := List.mem_range.1 hi
  have hlt : off + i < Config.spBytes := by
    change off + i < 786432
    omega
  rw [if_pos (decide_eq_true hlt), spView_settled turn.settled]
  rfl

theorem find_never {α : Type} (l : List α) : l.find? (fun _ => false) = none := List.find?_eq_none.2 fun _ _ => Bool.false_ne_true

theorem unionNat_nils {α β : Type} (l : List α) (k : List β) :
    (l.map (fun _ => ([] : List Nat)) ++ k.map (fun _ => [])).foldl unionNat [] = [] := by
  have key : ∀ g : List (List Nat), (∀ x ∈ g, x = []) → g.foldl unionNat [] = [] := fun g hg => by
    induction g with
    | nil => rfl
    | cons x g ih =>
      rw [List.foldl_cons, hg x (List.mem_cons_self ..)]
      exact ih fun y hy => hg y (List.mem_cons_of_mem _ hy)
  refine key _ fun x hx => ?_
  simp only [List.mem_append, List.mem_map] at hx
  rcases hx with ⟨_, _, rfl⟩ | ⟨_, _, rfl⟩ <;> rfl

theorem VecTurn.ldw (turn : VecTurn s c) (hy : c.Typed) {vd : RegNo} (hi : c.instr = .vldw vd)
    (hin : ∀ x ∈ (walkOf s c (coreOf s c.core).vec).1, x.1 + c.wide ≤ 786432) :
    runVector s c = writeRow (setMask (modCore s c.core (fun k => { k with vec := { k.vec with
        cr := (walkOf s c (coreOf s c.core).vec).2.2.1, cc := (walkOf s c (coreOf s c.core).vec).2.2.2 } })) c 3
        (maskBits (walkBit (256 / c.wide) (walkOf s c (coreOf s c.core).vec).1))) c vd
      (rowBytes c.wide ((List.range (256 / c.wide)).map (walkLane (coreOf s c.core).sp c.wide (walkOf s c (coreOf s c.core).vec).1)))
      [] (upFrom 0 8) := by
  have hlen := walkOf_length s c (coreOf s c.core).vec
  simp only [runVector, hi, vecLdw, turn.sound, List.contains_nil, List.filter_false, List.isEmpty_nil, Bool.not_true, unionNat_nils,
    find_never, Option.map_none, Option.all_none, Bool.true_and, Bool.not_false, Bool.and_true, if_true, hy.lanes, hy.lb, List.map_nil]
  generalize walkOf s c (coreOf s c.core).vec = r at hin hlen ⊢
  rw [← gathered_eq _ _ _ _ hlen, List.map_congr_left fun x hx => element_eq turn (hin x hx)]
  rfl

/-- A VLDW leaves a row of elements, mask 3 and its walk's place. -/
theorem vec_gather (turn : VecTurn s c) (hy : c.Typed) {vd : RegNo} (hi : c.instr = .vldw vd)
    (hin : ∀ x ∈ (walkOf s c (coreOf s c.core).vec).1, x.1 + c.wide ≤ 786432) :
    let k := coreOf s c.core
    let r := walkOf s c k.vec
    ∃ t, VecRan s c t ∧
      VecRest s c t { k.vec with cr := r.2.2.1, cc := r.2.2.2, masks := (coreOf t c.core).vec.masks } [] [vd] 0 ∧
      (∀ j, j < 8 → j ≠ 3 → maskAt (coreOf t c.core) j = maskAt k j) ∧
      (∀ j, j < 256 → ((maskAt (coreOf t c.core) 3).getLsbD j = true ↔
        (∃ x, r.1[j]? = some x ∧ x.2 = true) ∨ (j = r.1.length ∧ r.1.length < 256 / c.wide))) ∧
      (∀ x, x < dstAt s c vd ∨ dstAt s c vd + 256 ≤ x → memByte (coreOf t c.core).sp x = memByte k.sp x) ∧
      ∀ j, j < 256 / c.wide → laneAt (coreOf t c.core).sp (dstAt s c vd) c.wide j = walkLane k.sp c.wide r.1 j := by
  intro k r
  have hrun := turn.ldw hy hi hin
  change ∀ x ∈ r.1, _ at hin
  change runVector s c = writeRow (setMask (modCore s c.core (fun k => { k with vec := { k.vec with
    cr := r.2.2.1, cc := r.2.2.2 } })) c 3 (maskBits (walkBit (256 / c.wide) r.1))) c vd
      (rowBytes c.wide ((List.range (256 / c.wide)).map (walkLane k.sp c.wide r.1))) [] (upFrom 0 8) at hrun
  have hturn := ((Turned.refl s c).setVec (fun v => { v with cr := r.2.2.1, cc := r.2.2.2 })).setMask 3
    (maskBits (walkBit (256 / c.wide) r.1))
  obtain ⟨t, hran, hmasks, hrest, hsp⟩ := Turned.rowLands turn (pops := []) (draws := 0)
    (w := { k.vec with cr := r.2.2.1, cc := r.2.2.2, masks := k.vec.masks.setIfInBounds 3 (maskBits (walkBit (256 / c.wide) r.1)) })
    hturn rfl rfl (fun _ => List.not_mem_nil) hrun
  have hm : ∀ j, j < 8 → maskAt (coreOf t c.core) j = if j = 3 ∧ j ≠ 0 then maskBits (walkBit (256 / c.wide) r.1) else maskAt k j :=
    fun j hj => maskAt_setMask _ (by decide) hj _ _ k.vec rfl hmasks
  have hl : (rowBytes c.wide ((List.range (256 / c.wide)).map (walkLane k.sp c.wide r.1))).length = 256 := by
    rw [rowBytes_length, List.length_map, List.length_range, c.wide_rows]
  refine ⟨t, hran, ?_, fun j hj h3 => ?_, fun j hj => ?_, fun x hx => by rw [hsp, memByte_row_out _ _ hl hx], fun j hj => ?_⟩
  · rw [hmasks]
    exact hrest
  · rw [hm j hj, if_neg fun h => h3 h.1]
  · rw [hm 3 (by decide), if_pos ⟨rfl, by decide⟩, maskBits_getLsbD, ← walkBit_iff, decide_eq_true hj, Bool.true_and]
  · rw [hsp, laneAt_row _ _ _ _ _ hj]
    refine Nat.mod_eq_of_lt ?_
    unfold walkLane
    split
    · exact laneAt_lt _ _ _ 0
    · exact Nat.two_pow_pos _

end

end Sys2Proof.Machine
end

section
namespace Sys2Proof.Machine

/-! The order of VTOPK: values rank as their keys do, NaN below every number (R233). -/

/-- An exact value's place in the order: NaN, then negative infinity, then numbers by value, then infinity. -/
def Num.key : Num → Nat ×ₗ ℚ
  | .nan => toLex (0, 0)
  | .inf true => toLex (1, 0)
  | .fin neg m e => toLex (2, (if neg then -1 else 1) * m * (2 : ℚ) ^ e)
  | .inf false => toLex (3, 0)

theorem atUnit_scaled (neg : Bool) (m : Nat) {e u : Int} (h : u ≤ e) :
    (atUnit neg m e u : ℚ) * (2 : ℚ) ^ u = (if neg then -1 else 1) * m * (2 : ℚ) ^ e := by
  have hp : ((2 : ℚ) ^ (e - u).toNat) * (2 : ℚ) ^ u = (2 : ℚ) ^ e := by
    rw [← zpow_natCast, ← zpow_add₀ (by norm_num), Int.toNat_of_nonneg (by omega)]
    congr 1
    omega
  rw [← hp]
  unfold atUnit
  cases neg <;> simp <;> ring

theorem lt_fin (a b : Bool) (m n : Nat) (e f : Int) :
    (Num.fin a m e).lt (.fin b n f) = some (decide ((Num.fin a m e).key < (Num.fin b n f).key)) := by
  have hu : (0 : ℚ) < (2 : ℚ) ^ min e f := zpow_pos (by norm_num) _
  have hiff : atUnit a m e (min e f) < atUnit b n f (min e f) ↔ (Num.fin a m e).key < (Num.fin b n f).key := by
    rw [Num.key, Num.key, Prod.Lex.toLex_lt_toLex, ← atUnit_scaled a m (min_le_left e f), ← atUnit_scaled b n (min_le_right e f)]
    simp only [lt_irrefl, true_and, false_or]
    rw [mul_lt_mul_iff_left₀ hu, Int.cast_lt]
  rw [Num.lt]
  exact congrArg some (decide_eq_decide.2 hiff)

theorem Num.lt_key {x y : Num} (hx : x ≠ .nan) (hy : y ≠ .nan) : x.lt y = some (decide (x.key < y.key)) := by
  match x, y, hx, hy with
  | .fin a m e, .fin b n f, _, _ => exact lt_fin a b m n e f
  | .inf a, .inf b, _, _ => cases a <;> cases b <;> simp [Num.lt, Num.key, Prod.Lex.toLex_lt_toLex]
  | .inf a, .fin b n f, _, _ => cases a <;> simp [Num.lt, Num.key, Prod.Lex.toLex_lt_toLex]
  | .fin a m e, .inf b, _, _ => cases b <;> simp [Num.lt, Num.key, Prod.Lex.toLex_lt_toLex]
  | .nan, _, hx, _ => exact absurd rfl hx
  | _, .nan, _, hy => exact absurd rfl hy

theorem Num.key_nan {x : Num} (hx : x ≠ .nan) : Num.nan.key < x.key := by
  match x, hx with
  | .nan, hx => exact absurd rfl hx
  | .inf a, _ => cases a <;> simp [Num.key, Prod.Lex.toLex_lt_toLex]
  | .fin a m e, _ => simp [Num.key, Prod.Lex.toLex_lt_toLex]

/-- A lane value's place in the order of its type. -/
def rankKey (et x : Nat) : Nat ×ₗ ℚ := if etFloat et = true then (decNum et x).key else toLex (2, (patInt (etWidth et) x : ℚ))

theorem ranksAbove_iff (et x y : Nat) : ranksAbove et x y = true ↔ rankKey et y < rankKey et x := by
  unfold ranksAbove rankKey
  by_cases hf : etFloat et = true
  · simp only [hf, if_true]
    split
    · next h =>
      have hle : Num.nan.key ≤ (decNum et y).key := by
        by_cases hb : decNum et y = .nan
        · rw [hb]
        · exact (Num.key_nan hb).le
      rw [h]
      exact iff_of_false Bool.false_ne_true (not_lt.2 hle)
    · next h ha =>
      rw [h]
      exact iff_of_true rfl (Num.key_nan ha)
    · next ha hb =>
      rw [Num.lt_key hb ha]
      exact decide_eq_true_iff
  · simp only [hf, Bool.false_eq_true, if_false, decide_eq_true_eq, Prod.Lex.toLex_lt_toLex, lt_irrefl, true_and, false_or, Int.cast_lt]

end Sys2Proof.Machine
end

section
namespace Sys2Proof.Machine

/-! The best of a segment (R233). -/

/-- Whether one (offset, value) comes before another: it ranks above it, or ranks with it and stands first. -/
def beats (et : Nat) (p q : Nat × Nat) : Bool := ranksAbove et p.2 q.2 || (!ranksAbove et q.2 p.2 && decide (p.1 < q.1))

theorem beats_iff (et : Nat) (p q : Nat × Nat) :
    beats et p q = true ↔ rankKey et q.2 < rankKey et p.2 ∨ rankKey et q.2 = rankKey et p.2 ∧ p.1 < q.1 := by
  simp only [beats, Bool.or_eq_true, Bool.and_eq_true, Bool.not_eq_true', decide_eq_true_eq, ranksAbove_iff,
    ← Bool.not_eq_true (ranksAbove _ _ _)]
  constructor
  · rintro (h | ⟨h, hl⟩)
    · exact .inl h
    · exact (lt_or_eq_of_le (not_lt.1 h)).imp_right fun e => ⟨e, hl⟩
  · exact Or.imp_right fun ⟨e, hl⟩ => ⟨e ▸ lt_irrefl _, hl⟩

theorem beats_trans {et : Nat} {p q r : Nat × Nat} (h1 : beats et p q = true) (h2 : beats et q r = true) : beats et p r = true := by
  rw [beats_iff] at *
  rcases h1 with h1 | ⟨h1, l1⟩ <;> rcases h2 with h2 | ⟨h2, l2⟩
  · exact .inl (h2.trans h1)
  · exact .inl (h2 ▸ h1)
  · exact .inl (h1 ▸ h2)
  · exact .inr ⟨h2.trans h1, l1.trans l2⟩

theorem beats_asymm {et : Nat} {p q : Nat × Nat} (h : beats et p q = true) : ¬beats et q p = true := fun h2 => by
  have := (beats_iff ..).1 (beats_trans h h2)
  simp at this

/-- The first of a list, or the best of those behind it. -/
def better (et : Nat) (b : Option (Nat × Nat)) (p : Nat × Nat) : Option (Nat × Nat) :=
  match b with
  | none => some p
  | some q => if ranksAbove et p.2 q.2 then some p else some q

theorem better_foldl (et : Nat) (l : List (Nat × Nat)) (b : Nat × Nat) (h : (b :: l).Pairwise (fun p q => p.1 < q.1)) :
    ∃ p ∈ b :: l, l.foldl (better et) (some b) = some p ∧ ∀ q ∈ b :: l, q ≠ p → beats et p q = true := by
  induction l generalizing b with
  | nil => exact ⟨b, List.mem_singleton_self b, rfl, fun q hq hne => absurd (List.mem_singleton.1 hq) hne⟩
  | cons x l ih =>
    obtain ⟨hb, hx, hl⟩ := by simpa only [List.pairwise_cons] using h
    rw [List.foldl_cons, better]
    by_cases hr : ranksAbove et x.2 b.2 = true
    · rw [if_pos hr]
      have hxb : beats et x b = true := (beats_iff ..).2 (.inl ((ranksAbove_iff ..).1 hr))
      obtain ⟨p, hp, hfold, hbest⟩ := ih x (List.pairwise_cons.2 ⟨hx, hl⟩)
      refine ⟨p, List.mem_cons_of_mem _ hp, hfold, fun q hq hne => ?_⟩
      rcases List.mem_cons.1 hq with rfl | hq
      · by_cases hpx : x = p
        · exact hpx ▸ hxb
        · exact beats_trans (hbest x (List.mem_cons_self ..) hpx) hxb
      · exact hbest q hq hne
    · rw [if_neg hr]
      have hbx : beats et b x = true := by
        rw [beats, Bool.eq_false_of_not_eq_true hr, decide_eq_true (hb x (List.mem_cons_self ..))]
        exact Bool.or_true _
      obtain ⟨p, hp, hfold, hbest⟩ := ih b (List.pairwise_cons.2 ⟨fun y hy => hb y (List.mem_cons_of_mem _ hy), hl⟩)
      refine ⟨p, ?_, hfold, fun q hq hne => ?_⟩
      · rcases List.mem_cons.1 hp with rfl | hp
        · exact List.mem_cons_self ..
        · exact List.mem_cons_of_mem _ (List.mem_cons_of_mem _ hp)
      · rcases List.mem_cons.1 hq with rfl | hq
        · exact hbest q (List.mem_cons_self ..) hne
        · rcases List.mem_cons.1 hq with rfl | hq
          · by_cases hpb : b = p
            · exact hpb ▸ hbx
            · exact beats_trans (hbest b (List.mem_cons_self ..) hpb) hbx
          · exact hbest q (List.mem_cons_of_mem _ hq) hne

theorem bestOf_spec (et : Nat) {l : List (Nat × Nat)} (hne : l ≠ []) (h : l.Pairwise (fun p q => p.1 < q.1)) :
    ∃ p ∈ l, bestOf et l = some p ∧ ∀ q ∈ l, q ≠ p → beats et p q = true := by
  cases l with
  | nil => exact absurd rfl hne
  | cons b l => exact better_foldl et l b h

theorem nodup_of_offsets {l : List (Nat × Nat)} (h : l.Pairwise (fun p q => p.1 < q.1)) : (l.map Prod.fst).Nodup :=
  List.pairwise_map.2 (h.imp Nat.ne_of_lt)

/-- The list without its best. -/
theorem filter_other {l : List (Nat × Nat)} (h : l.Pairwise (fun p q => p.1 < q.1)) {p : Nat × Nat} (hp : p ∈ l) :
    l.filter (fun q => q.1 != p.1) = l.erase p := by
  have hn := nodup_of_offsets h
  rw [List.Nodup.erase_eq_filter (List.Nodup.of_map _ hn)]
  refine List.filter_congr fun q hq => ?_
  rw [Bool.eq_iff_iff, bne_iff_ne, bne_iff_ne]
  exact not_congr ⟨List.inj_on_of_nodup_map hn hq hp, fun e => by rw [e]⟩

theorem topOf_spec (et k : Nat) (l : List (Nat × Nat)) (h : l.Pairwise (fun p q => p.1 < q.1)) :
    (topOf et l k).length = min k l.length ∧
    ∀ i p, (topOf et l k)[i]? = some p → p ∈ l ∧ l.countP (fun q => beats et q p) = i := by
  induction k generalizing l with
  | zero => exact ⟨(Nat.zero_min _).symm, fun i p hp => by simp [topOf] at hp⟩
  | succ k ih =>
    by_cases hne : l = []
    · subst hne
      exact ⟨rfl, fun i p hp => by simp [topOf, bestOf] at hp⟩
    · obtain ⟨p, hp, hbest, hbeats⟩ := bestOf_spec et hne h
      rw [topOf, hbest]
      dsimp only
      rw [filter_other h hp]
      obtain ⟨hlen, htop⟩ := ih (l.erase p) (h.sublist (List.erase_sublist ..))
      have hpos := List.length_pos_of_mem hp
      have hel : (l.erase p).length = l.length - 1 := List.length_erase_of_mem hp
      refine ⟨by rw [List.length_cons, hlen, hel]; omega, fun i r hr => ?_⟩
      cases i with
      | zero =>
        obtain rfl : p = r := Option.some.inj hr
        refine ⟨hp, List.countP_eq_zero.2 fun q hq hb => ?_⟩
        by_cases hqp : q = p
        · exact beats_asymm (hqp ▸ hb) (hqp ▸ hb)
        · exact beats_asymm hb (hbeats q hq hqp)
      | succ i =>
        obtain ⟨hmem, hcount⟩ := htop i r hr
        have hrl := List.mem_of_mem_erase hmem
        have hrp : r ≠ p := fun e => (List.Nodup.of_map _ (nodup_of_offsets h)).not_mem_erase (e ▸ hmem)
        have hb := hbeats r hrl hrp
        rw [List.countP_erase, if_pos ⟨hp, hb⟩] at hcount
        have hc : 0 < l.countP (fun q => beats et q r) := List.countP_pos_iff.2 ⟨p, hp, hb⟩
        exact ⟨hrl, by omega⟩

end Sys2Proof.Machine
end

section
namespace Sys2Proof.Machine

/-! Segments and their ranked lanes (R232, R233). -/

theorem segments_ne_nil (starts : Nat → Bool) (i : Nat) {l : List Nat} (h : l ≠ []) : segments starts i l ≠ [] := by
  cases l with
  | nil => exact absurd rfl h
  | cons x l =>
    rw [segments]
    split
    · exact List.cons_ne_nil _ _
    · split <;> exact List.cons_ne_nil _ _

/-- A segment of lanes stands in the list of segments behind as many lanes as come before it. -/
theorem segments_split (starts : Nat → Bool) (l : List Nat) : ∀ (i lo hi : Nat), lo < hi → hi ≤ l.length →
    (lo = 0 ∨ starts (i + lo) = true) → (∀ j, lo < j → j < hi → ¬starts (i + j) = true) →
    (hi = l.length ∨ starts (i + hi) = true) →
    ∃ a b, segments starts i l = a ++ ((l.drop lo).take (hi - lo)) :: b ∧ a.flatten.length = lo ∧ (lo = 0 → a = []) := by
  induction l with
  | nil =>
    intro i lo hi hlt hle
    rw [List.length_nil] at hle
    omega
  | cons x l ih =>
    intro i lo hi hlt hle hopen hin hend
    rw [List.length_cons] at hle hend
    rw [segments]
    by_cases hl : l = []
    · subst hl
      rw [List.length_nil] at hle
      obtain rfl : lo = 0 := by omega
      obtain rfl : hi = 1 := by omega
      exact ⟨[], [], rfl, rfl, fun _ => rfl⟩
    · have hlpos : 0 < l.length := List.length_pos_iff.2 hl
      have hshift : ∀ j, i + 1 + j = i + (j + 1) := fun j => by omega
      obtain ⟨g, gs, hg⟩ := List.exists_cons_of_ne_nil (segments_ne_nil starts (i + 1) hl)
      have hend' : hi - 1 = l.length ∨ starts (i + 1 + (hi - 1)) = true :=
        hend.imp (fun h => by omega) fun h => by rwa [hshift, Nat.sub_add_cancel (by omega)]
      have hin' : ∀ j, lo - 1 < j → j < hi - 1 → ¬starts (i + 1 + j) = true := fun j h1 h2 => by
        rw [hshift]
        exact hin (j + 1) (by omega) (by omega)
      rw [hg]
      dsimp only
      cases lo with
      | zero =>
        by_cases hs : starts (i + 1) = true
        · rw [if_pos hs]
          have hone : hi = 1 := by
            by_contra hne
            exact hin 1 (by omega) (by omega) hs
          subst hone
          exact ⟨[], g :: gs, rfl, rfl, fun _ => rfl⟩
        · rw [if_neg hs]
          have htwo : 1 < hi := by
            by_contra hne
            obtain rfl : hi = 1 := by omega
            exact hend.elim (fun h => by omega) hs
          obtain ⟨a, b, he, -, ha⟩ := ih (i + 1) 0 (hi - 1) (by omega) (by omega) (.inl rfl) hin' hend'
          rw [ha rfl, hg, List.nil_append, List.drop_zero, Nat.sub_zero] at he
          obtain ⟨rfl, rfl⟩ := List.cons.inj he
          refine ⟨[], gs, ?_, rfl, fun _ => rfl⟩
          rw [List.nil_append, List.drop_zero, Nat.sub_zero, ← List.take_succ_cons, Nat.sub_add_cancel (by omega)]
      | succ lo =>
        have hopen' : starts (i + 1 + lo) = true := by
          rw [hshift]
          exact hopen.resolve_left (Nat.succ_ne_zero lo)
        obtain ⟨a, b, he, hlen, -⟩ := ih (i + 1) lo (hi - 1) (by omega) (by omega) (.inr hopen') hin' hend'
        rw [hg, show hi - 1 - lo = hi - (lo + 1) by omega] at he
        by_cases hs : starts (i + 1) = true
        · rw [if_pos hs, he]
          exact ⟨[x] :: a, b, rfl, by rw [List.flatten_cons, List.length_append, hlen]; exact Nat.add_comm ..,
            fun h => absurd h (Nat.succ_ne_zero lo)⟩
        · rw [if_neg hs]
          have hlo : 0 < lo := Nat.pos_of_ne_zero fun h => hs (by subst h; exact hopen')
          cases a with
          | nil => rw [List.flatten_nil, List.length_nil] at hlen; omega
          | cons a0 a =>
            obtain ⟨rfl, rfl⟩ := List.cons.inj he
            refine ⟨(x :: g) :: a, b, rfl, ?_, fun h => absurd h (Nat.succ_ne_zero lo)⟩
            rw [List.flatten_cons, List.length_append] at hlen ⊢
            rw [List.length_cons]
            omega

/-- A segment's lanes with their offsets. -/
def offsets (x : Nat → Nat) (n : Nat) : List (Nat × Nat) := (List.range n).map (fun q => (q, x q))

theorem offsets_length (x : Nat → Nat) (n : Nat) : (offsets x n).length = n := by rw [offsets, List.length_map, List.length_range]

theorem offsets_sorted (x : Nat → Nat) (n : Nat) : (offsets x n).Pairwise (fun p q => p.1 < q.1) :=
  List.pairwise_map.2 List.pairwise_lt_range

theorem mem_offsets {x : Nat → Nat} {n : Nat} {p : Nat × Nat} (h : p ∈ offsets x n) : ∃ o, o < n ∧ (o, x o) = p := by
  obtain ⟨o, ho, he⟩ := List.mem_map.1 h
  exact ⟨o, List.mem_range.1 ho, he⟩

theorem offsets_eq (x : Nat → Nat) (n : Nat) : (upFrom 0 ((List.range n).map x).length).zip ((List.range n).map x) = offsets x n := by
  have h := List.zip_map' (f := id) (g := x) (l := List.range n)
  rw [List.map_id] at h
  rw [List.length_map, List.length_range, upFrom_zero, h]
  rfl

theorem topSegment_eq (et k : Nat) (vals : Bool) (x : Nat → Nat) (n : Nat) : topSegment et k vals ((List.range n).map x) =
    (topOf et (offsets x n) (min k n)).map (fun p => if vals = true then p.2 else p.1) ++
      List.replicate (n - min k n) (if vals = true then lowestOf et else 2 ^ etWidth et - 1) := by
  have hlen := (topOf_spec et (min k n) (offsets x n) (offsets_sorted x n)).1
  rw [offsets_length, Nat.min_eq_left (Nat.min_le_right k n)] at hlen
  unfold topSegment
  rw [offsets_eq, List.length_map, List.length_range]
  dsimp only
  rw [hlen]

theorem topSegment_length (et k : Nat) (vals : Bool) (x : Nat → Nat) (n : Nat) :
    (topSegment et k vals ((List.range n).map x)).length = n := by
  have hlen := (topOf_spec et (min k n) (offsets x n) (offsets_sorted x n)).1
  rw [topSegment_eq, List.length_append, List.length_map, List.length_replicate, hlen, offsets_length]
  omega

/-- What a segment's lane takes: the value or the place of its rank, or the filling. -/
theorem topSegment_spec (et k : Nat) (x : Nat → Nat) (n i : Nat) (hi : i < n) :
    (i < k → ∃ o, o < n ∧ (∀ vals, (topSegment et k vals ((List.range n).map x)).getD i 0 = if vals = true then x o else o) ∧
      ((List.range n).filter (fun q => beats et (q, x q) (o, x o))).length = i) ∧
    (k ≤ i → ∀ vals, (topSegment et k vals ((List.range n).map x)).getD i 0 = if vals = true then lowestOf et else 2 ^ etWidth et - 1) := by
  obtain ⟨hlen, htop⟩ := topOf_spec et (min k n) (offsets x n) (offsets_sorted x n)
  have hl : (topOf et (offsets x n) (min k n)).length = min k n := by
    rw [hlen, offsets_length, Nat.min_eq_left (Nat.min_le_right k n)]
  refine ⟨fun hk => ?_, fun hk vals => ?_⟩
  · have hit : i < (topOf et (offsets x n) (min k n)).length := by omega
    obtain ⟨p, hget⟩ : ∃ p, (topOf et (offsets x n) (min k n))[i]? = some p := ⟨_, List.getElem?_eq_getElem hit⟩
    obtain ⟨hmem, hcount⟩ := htop i p hget
    obtain ⟨o, hlt, rfl⟩ := mem_offsets hmem
    refine ⟨o, hlt, fun vals => ?_, ?_⟩
    · rw [topSegment_eq, List.getD_eq_getElem?_getD, List.getElem?_append_left (by rwa [List.length_map]), List.getElem?_map, hget]
      rfl
    · rw [offsets, List.countP_map, List.countP_eq_length_filter] at hcount
      exact hcount
  · rw [topSegment_eq, List.getD_eq_getElem?_getD, List.getElem?_append_right (by rw [List.length_map]; omega), List.length_map, hl,
      List.getElem?_replicate, if_pos (by omega)]
    rfl

end Sys2Proof.Machine
end

section
namespace Sys2Proof.Machine

/-! The rows that VTOPK leaves (R233). -/

theorem segments_flatten (starts : Nat → Bool) (i : Nat) (l : List Nat) : (segments starts i l).flatten = l := by
  induction l generalizing i with
  | nil => rfl
  | cons x l ih =>
    rw [segments]
    have h := ih (i + 1)
    split
    · next e => rw [e] at h; rw [← h]; rfl
    · next e =>
      rw [e] at h
      rw [← h]
      split <;> rfl

theorem eq_map_range (l : List Nat) : l = (List.range l.length).map (fun n => l.getD n 0) := by
  refine List.ext_getElem (by simp) fun i h1 h2 => ?_
  rw [List.getElem_map, List.getElem_range, List.getD_eq_getElem?_getD, List.getElem?_eq_getElem h1]
  rfl

theorem ranked_length (et k : Nat) (vals : Bool) (segs : List (List Nat)) :
    (segs.flatMap (topSegment et k vals)).length = segs.flatten.length := by
  induction segs with
  | nil => rfl
  | cons g segs ih =>
    have hg : (topSegment et k vals g).length = g.length := by
      conv_lhs => rw [eq_map_range g]
      exact topSegment_length ..
    rw [List.flatMap_cons, List.flatten_cons, List.length_append, List.length_append, ih, hg]

theorem ranked_getD (et k : Nat) (vals : Bool) (starts : Nat → Bool) (x : Nat → Nat) {lanes lo hi i : Nat} (hi' : lo + i < hi)
    (hle : hi ≤ lanes) (hopen : lo = 0 ∨ starts lo = true) (hin : ∀ j, lo < j → j < hi → ¬starts j = true)
    (hend : hi = lanes ∨ starts hi = true) :
    ((segments starts 0 ((List.range lanes).map x)).flatMap (topSegment et k vals)).getD (lo + i) 0 =
      (topSegment et k vals ((List.range (hi - lo)).map (fun n => x (lo + n)))).getD i 0 := by
  obtain ⟨a, b, he, hlen, -⟩ := segments_split starts ((List.range lanes).map x) 0 lo hi (by omega) (by simpa using hle)
    (by simpa using hopen) (by simpa using hin) (by simpa using hend)
  have hseg : (((List.range lanes).map x).drop lo).take (hi - lo) = (List.range (hi - lo)).map (fun n => x (lo + n)) := by
    refine List.ext_getElem (by simp; omega) fun j h1 h2 => ?_
    simp
  rw [he, hseg, List.flatMap_append, List.flatMap_cons, List.getD_eq_getElem?_getD, List.getElem?_append_right (by
    rw [ranked_length, hlen]; omega), ranked_length, hlen, Nat.add_sub_cancel_left, List.getElem?_append_left (by
    rw [topSegment_length]; omega), ← List.getD_eq_getElem?_getD]

section
variable {s u : State} {c : Cmd} {m : Memory} {v : Vec}

/-- A lane of one row, where another that is the same or apart has been written. -/
theorem laneAt_apart (m : Memory) {a p b n : Nat} (l : List Byte) (hl : l.length = 256) (h : a + 256 ≤ p ∨ p + 256 ≤ a)
    (hb : b * n + b ≤ 256) : laneAt (memWrite m p l) a b n = laneAt m a b n :=
  laneAt_congr fun i hi => memByte_memWrite_out _ _ _ _ (by omega)

theorem rows_apart {i j : Nat} (h : 256 * i ≠ 256 * j) : 256 * i + 256 ≤ 256 * j ∨ 256 * j + 256 ≤ 256 * i := by omega

theorem mem_portsAmong_two (ports : KMap Port) (q r : RegNo) (n : Nat) :
    n ∈ portsAmong ports [q, r] ↔ n ∈ portsAmong ports [q] ∨ n ∈ portsAmong ports [r] := by
  simp only [mem_portsAmong, List.mem_cons, List.not_mem_nil, or_false, exists_eq_or_imp, exists_eq_left]

theorem portsAmong_disjoint {ports : KMap Port} {q r : RegNo} (h : q ≠ r) {n : Nat} (hq : n ∈ portsAmong ports [q]) :
    n ∉ portsAmong ports [r] := fun hr => by
  obtain ⟨a, ha, hsa, rfl⟩ := (mem_portsAmong ..).1 hq
  obtain rfl := List.mem_singleton.1 ha
  exact h (List.mem_singleton.1 ((port_mem_iff hsa _).1 hr))

theorem next_ne (r : RegNo) : r ≠ r + 1#6 := fun h => by
  have := congrArg (fun x => x - r) h
  simp at this

end

end Sys2Proof.Machine
end

section
namespace Sys2Proof.Machine

/-! VTOPK (R233). -/

section
variable {s u : State} {c : Cmd} {m : Memory} {v : Vec}

/-- Two rows that have landed, one behind the other, at a register and the next. -/
theorem Turned.twoRows (turn : VecTurn s c) {vd va : RegNo} {p q : List Byte} {all : List Nat}
    (hva : ∀ r, r = vd ∨ r = vd + 1#6 → (portOf c.ports r).isSome = true → r.toNat - 60 ∉ portsAmong c.ports [va])
    (hr : runVector s c = Machine.writeRow (Machine.writeRow (Machine.popPorts s c [va]) c vd p [] all) c (vd + 1#6) q [] all) :
    ∃ t, VecRan s c t ∧ VecRest s c t (coreOf s c.core).vec [va] [vd, vd + 1#6] 0 ∧
      (coreOf t c.core).sp = memWrite (memWrite (coreOf s c.core).sp (dstAt s c vd) p) (dstAt s c (vd + 1#6)) q := by
  have hpop : Turned s (Machine.popPorts s c [va]) c _ ((coreOf s c.core).vec.turned c [va] 0) := (Turned.refl s c).popPorts [va]
  have hd0 : dstRow (Machine.popPorts s c [va]) c vd = dstRow s c vd := hpop.dstRow_eq fun hs => by
    rw [kget_turned]
    simp only [hva vd (.inl rfl) hs, if_false, Option.map_id_fun', id]
  have h0 := hpop.writeRow (turn.sound c.core) vd p all
  rw [hd0] at h0
  have hd1 : dstRow (Machine.writeRow (Machine.popPorts s c [va]) c vd p [] all) c (vd + 1#6) = dstRow s c (vd + 1#6) :=
    h0.dstRow_eq fun hs => by
      have hn : (vd + 1#6).toNat - 60 ∉ portsAmong c.ports [vd] := fun h =>
        portsAmong_disjoint (next_ne vd) h ((port_mem_iff hs _).2 (List.mem_singleton_self _))
      rw [kget_pushPort, kget_turned, Option.map_map]
      simp only [hva (vd + 1#6) (.inr rfl) hs, hn, if_false, Option.map_id_fun', Function.comp_def, id]
  have h1 := h0.writeRow (turn.sound c.core) (vd + 1#6) q all
  rw [hd1] at h1
  refine ⟨_, h1.ends turn hr, h1.vecRest c.id ?_ (fun n => ?_) ?_, h1.sp⟩
  · exact (congrArg (fun v : Vec => { v with rc := (coreOf s c.core).vec.rc })
      ((pushPort_only c (vd + 1#6) _ (coreOf s c.core).vec.ports).trans (pushPort_only c vd _ _)) :)
  · rw [h1.vec, kget_pushPort, kget_pushPort, kget_turned, Option.map_map, Option.map_map]
    refine congrArg (fun g => Option.map g _) (funext fun x => ?_)
    simp only [Function.comp_def, mem_portsAmong_two]
    by_cases hq : n ∈ portsAmong c.ports [vd]
    · simp only [hq, portsAmong_disjoint (next_ne vd) hq, or_false, if_true, if_false]
      rfl
    · simp only [hq, false_or, if_false]
      rfl
  · exact (congrArg Vec.rc ((pushPort_only c (vd + 1#6) _ (coreOf s c.core).vec.ports).trans (pushPort_only c vd _ _)) :)

/-- The rank of a lane in its segment: what its places in the two rows hold. -/
def VecRanked (s : State) (c : Cmd) (t : State) (vd va : RegNo) (lo hi i : Nat) : Prop :=
  let x (n : Nat) : Nat := laneAt (coreOf s c.core).sp (srcAt s c va) c.wide (lo + n)
  let value := laneAt (coreOf t c.core).sp (dstAt s c vd) c.wide (lo + i)
  let place := laneAt (coreOf t c.core).sp (dstAt s c (vd + 1#6)) c.wide (lo + i)
  (i < (c.vals.headD 0#64).toNat % 16 → ∃ o, lo + o < hi ∧ place = o ∧ (dstAt s c vd ≠ dstAt s c (vd + 1#6) → value = x o) ∧
    ((List.range (hi - lo)).filter (fun q => beats c.ety (q, x q) (o, x o))).length = i) ∧
  ((c.vals.headD 0#64).toNat % 16 ≤ i → place = 2 ^ (8 * c.wide) - 1 ∧
    (dstAt s c vd ≠ dstAt s c (vd + 1#6) → value = lowestOf c.ety))

theorem lowestOf_lt {et : Nat} (h : et ≤ 6) : lowestOf et < 2 ^ (8 * laneBytes et) := by
  interval_cases et <;> decide

theorem Cmd.wide_pos (c : Cmd) : 0 < c.wide := laneBytes_rows.2

theorem offset_lt (c : Cmd) {o : Nat} (h : o < 256) : o < 2 ^ (8 * c.wide) :=
  Nat.lt_of_lt_of_le h (Nat.pow_le_pow_right (n := 2) (by decide) (show 8 ≤ 8 * c.wide by have := c.wide_pos; omega))

theorem lanes_le (c : Cmd) : 256 / c.wide ≤ 256 := Nat.div_le_self ..

/-- The rows of values and of places. -/
def rankedRow (s : State) (c : Cmd) (m : BitVec 2) (va : RegNo) (vals : Bool) : List Nat :=
  (segments (fun i => (maskAt (coreOf s c.core) m.toNat).getLsbD i) 0
    ((List.range (256 / c.wide)).map (laneAt (coreOf s c.core).sp (srcAt s c va) c.wide))).flatMap
      (topSegment c.ety ((c.vals.headD 0#64).toNat % 16) vals)

theorem rankedRow_length (s : State) (c : Cmd) (m : BitVec 2) (va : RegNo) (vals : Bool) :
    (rankedRow s c m va vals).length = 256 / c.wide := by
  rw [rankedRow, ranked_length, segments_flatten, List.length_map, List.length_range]

theorem rankedRow_getD {mk : BitVec 2} (va : RegNo) (vals : Bool) {lo hi i : Nat} (ho : VecOpens s c mk lo) (hl : VecLast s c mk lo (hi - 1))
    (hi' : lo + i < hi) : (rankedRow s c mk va vals).getD (lo + i) 0 = (topSegment c.ety ((c.vals.headD 0#64).toNat % 16) vals
      ((List.range (hi - lo)).map (fun n => laneAt (coreOf s c.core).sp (srcAt s c va) c.wide (lo + n)))).getD i 0 := by
  obtain ⟨-, hlt, hin, hend⟩ := hl
  rw [Nat.sub_add_cancel (by omega)] at hend
  exact ranked_getD _ _ _ _ _ hi' (by omega) ho (fun j h1 h2 h => hin j h1 (by omega) (.inr h))
    (hend.imp_right fun h => h.resolve_left (by omega))

theorem vec_ranks (turn : VecTurn s c) (ht : c.ety ≤ 6) {vd va xb : RegNo} {mk : BitVec 2} (hi : c.instr = .vtopk vd va xb mk) :
    ∃ t, VecRan s c t ∧ VecRest s c t (coreOf s c.core).vec [va] [vd, vd + 1#6] 0 ∧
      (∀ x, (x < dstAt s c vd ∨ dstAt s c vd + 256 ≤ x) → (x < dstAt s c (vd + 1#6) ∨ dstAt s c (vd + 1#6) + 256 ≤ x) →
        memByte (coreOf t c.core).sp x = memByte (coreOf s c.core).sp x) ∧
      ∀ lo hi i, VecOpens s c mk lo → VecLast s c mk lo (hi - 1) → lo + i < hi → VecRanked s c t vd va lo hi i := by
  have hy : c.Typed := .inl ht
  have hshape : vShape c.instr = ⟨[va], [vd, vd + 1#6], .floatInt⟩ := by rw [hi]; rfl
  have hrun : runVector s c = writeRow (writeRow (popPorts s c [va]) c vd (rowBytes c.wide (rankedRow s c mk va true)) [] (upFrom 0 8)) c
      (vd + 1#6) (rowBytes c.wide (rankedRow s c mk va false)) [] (upFrom 0 8) := by
    simp only [runVector, hi, vecTopk, turn.badGranules, List.isEmpty_nil, if_true, turn.noteBad, turn.sourceLanes hy, c.et_eq,
      show wbits (c.vals.headD 0#64) 3 0 = (c.vals.headD 0#64).toNat % 16 by simp [wbits]]
    rw [hy.lb]
    rfl
  have hlen : ∀ vals, (rowBytes c.wide (rankedRow s c mk va vals)).length = 256 := fun vals => by
    rw [rowBytes_length, rankedRow_length, c.wide_rows]
  obtain ⟨t, hran, hrest, hsp⟩ := Turned.twoRows turn (fun r hr hs => turn.target (pops := [va]) (fun q hq => by rw [hshape]; exact hq)
    (by rw [hshape]; exact List.mem_cons.2 (hr.imp_right List.mem_singleton.2)) hs) hrun
  refine ⟨t, hran, hrest, fun x h0 h1 => ?_, fun lo hi' i ho hl hlt => ?_⟩
  · rw [hsp, memByte_row_out _ _ (hlen false) h1, memByte_row_out _ _ (hlen true) h0]
  · have hlane : lo + i < 256 / c.wide := by obtain ⟨-, h, -⟩ := hl; omega
    have hplace : laneAt (coreOf t c.core).sp (dstAt s c (vd + 1#6)) c.wide (lo + i) =
        (rankedRow s c mk va false).getD (lo + i) 0 % 2 ^ (8 * c.wide) := by
      rw [hsp, laneAt_memWrite _ _ _ _ (by rwa [rankedRow_length])]
    have hvalue : dstAt s c vd ≠ dstAt s c (vd + 1#6) → laneAt (coreOf t c.core).sp (dstAt s c vd) c.wide (lo + i) =
        (rankedRow s c mk va true).getD (lo + i) 0 % 2 ^ (8 * c.wide) := fun hne => by
      have hin : c.wide * (lo + i) + c.wide ≤ 256 := by
        rw [← Nat.mul_succ, ← c.wide_rows]
        exact Nat.mul_le_mul_left _ hlane
      have hapart : dstAt s c vd + 256 ≤ dstAt s c (vd + 1#6) ∨ dstAt s c (vd + 1#6) + 256 ≤ dstAt s c vd := rows_apart hne
      rw [hsp, laneAt_apart _ _ (hlen false) hapart hin, laneAt_memWrite _ _ _ _ (by rwa [rankedRow_length])]
    rw [rankedRow_getD va _ ho hl hlt] at hplace hvalue
    obtain ⟨hin, hout⟩ := topSegment_spec c.ety ((c.vals.headD 0#64).toNat % 16)
      (fun n => laneAt (coreOf s c.core).sp (srcAt s c va) c.wide (lo + n)) (hi' - lo) i (by omega)
    have hhi : hi' ≤ 256 := by
      have := lanes_le c
      obtain ⟨-, h, -⟩ := hl
      omega
    refine ⟨fun hk => ?_, fun hk => ⟨?_, fun hne => ?_⟩⟩
    · obtain ⟨o, hon, htop, hcount⟩ := hin hk
      refine ⟨o, by omega, ?_, fun hne => ?_, hcount⟩
      · rw [hplace, htop]
        exact Nat.mod_eq_of_lt (a := o) (offset_lt c (by omega))
      · rw [hvalue hne, htop]
        exact Nat.mod_eq_of_lt (laneAt_lt ..)
    · rw [hplace, hout hk]
      exact (Nat.mod_eq_of_lt (by rw [etWidth_laneBytes hy]; exact Nat.sub_lt (Nat.two_pow_pos _) Nat.one_pos)).trans
        (by rw [etWidth_laneBytes hy]; rfl)
    · rw [hvalue hne, hout hk]
      exact Nat.mod_eq_of_lt (lowestOf_lt ht)

end

end Sys2Proof.Machine
end

section
namespace Sys2Proof.Machine

/-! The obligation of vector results, from its parts. -/

section
variable {s : State} {c : Cmd}

theorem vec_rows (turn : VecTurn s c) (r : RegNo) :
    (portOf c.ports r = none → srcRow s c r = c.vwin.toNat % 4096 + r.toNat ∧ dstRow s c r = c.vwin.toNat % 4096 + r.toNat) ∧
    ∀ p, portOf c.ports r ≠ none → kget (coreOf s c.core).vec.ports (r.toNat - 60) = some p →
      srcRow s c r = p.base + p.head % p.len ∧ dstRow s c r = p.base + (p.head + p.count) % p.len :=
  ⟨ownRow_unbound, fun _ hb hp => turn.portRow hb hp⟩

theorem typed_of_random (h : c.ety = 0 ∨ c.ety = 4 ∨ c.ety = 5 ∨ c.ety = 6) : c.Typed := by unfold Cmd.Typed; omega

theorem vec_store (turn : VecTurn s c) {vd xb : RegNo} {n o : Nat} (hi : c.instr = .vstr vd xb) (hw : c.writes = [⟨.sp n, o, o + 256⟩]) :
    ∃ t, VecEnds s c t ∧ VecRest s c t (coreOf s c.core).vec [vd] [] 0 ∧
      (n = c.core → VecRan s c t ∧ ∀ x, memByte (coreOf t c.core).sp x =
        if o ≤ x ∧ x < o + 256 then memByte (coreOf s c.core).sp (srcAt s c vd + (x - o)) else memByte (coreOf s c.core).sp x) ∧
      (n ≠ c.core → (coreOf t c.core).sp = (coreOf s c.core).sp ∧
        { t with cores := s.cores, cmds := s.cmds, acc := s.acc, nextId := s.nextId, nearNext := s.nearNext } = s ∧
        t.nextId = s.nextId + 8 ∧ t.nearNext = s.nearNext + 8 ∧ ∃ l, t.acc = s.acc ++ l ∧ l.length = 8 ∧
          ∀ g x, l[g]? = some x → x.id = s.nextId + g ∧ x.nearAt = s.nearNext + g ∧ x.kind = .vec ∧ x.core = c.core ∧
            x.ctx = some .C ∧ x.cmd = c.id ∧ x.seq = c.seq ∧ x.slot = c.slot ∧ x.dest = .sp n (o + 32 * g) ∧ x.size = 32 ∧
            x.data = memRead (coreOf s c.core).sp (srcAt s c vd + 32 * g) 32) := by
  by_cases hn : n = c.core
  · subst hn
    obtain ⟨t, hran, hrest, hsp⟩ := vec_store_own turn hi hw
    exact ⟨t, hran.1, hrest, fun _ => ⟨hran, hsp⟩, fun h => absurd rfl h⟩
  · obtain ⟨t, hends, hrest, hfar⟩ := vec_store_far turn hi hw hn
    exact ⟨t, hends, hrest, fun h => absurd h hn, fun _ => hfar⟩

end

/-- Settles O42: every form of a vector word leaves the row, the mask or the register that its rule gives. -/
theorem vectorResults : Obligations.VectorResults := by
  unfold Obligations.VectorResults
  intro s c hcmd hcls hold hrun hfree hsound hsettled hshape
  have turn : VecTurn s c := ⟨hcmd, hcls, hold, hrun, hfree, hsound, hsettled, hshape⟩
  intro k et rm sat rz b w lanes src dst bound mask lane old sgn draw z drawn fl a d ended ran ported rest row second binary unary
    masks compares num before isNan least most sum opens last folds
  refine ⟨vec_rows turn, fun h => vec_floats turn h, fun h => vec_ints turn h, fun h => ?_, fun h => vec_unsigned turn h,
    fun h => vec_functions turn h, fun h vd xb m used hon hoff => vec_random turn (typed_of_random h) vd xb m used hon hoff,
    fun h => ?_, fun md ma mb q xb => vec_masks turn md ma mb q xb,
    fun xd ma q => vec_counts turn xd ma q, fun xa xb => vec_keys turn xa xb⟩
  · obtain ⟨heq, hne, hlt, hge⟩ := vec_compares turn h
    obtain ⟨hsum, hscan, hmax, hmin, hscanx⟩ := vec_folds turn h
    exact ⟨vec_least turn (.inl h), vec_most turn (.inl h), heq, hne, hlt, hge, hsum, hscan, hmax, hmin, hscanx,
      fun vd va xb m hi => vec_ranks turn h hi⟩
  · obtain ⟨hand, hor, hxor, handn⟩ := vec_logic turn h
    exact ⟨hand, hor, hxor, handn, vec_select turn h, vec_permute turn h, vec_broadcast turn h,
      fun t vd va p sat rm m => vec_convert turn h t vd va p sat rm m rfl rfl rfl, vec_extract turn h,
      fun vd xb n o hi hr => vec_load turn hi hr, fun vd xb n o hi hw => vec_store turn hi hw,
      fun vd hi hin => vec_gather turn h hi hin⟩

end Sys2Proof.Machine
end
